-- ==== Sys2Proof/Word.lean ====
section
/-! DEFINITION. The word types of the SX-412 (R9, R127) and their plainest arithmetic. -/

namespace Sys2Proof

/-- A v register, a 32-bit operand (R127). -/
abbrev Word := BitVec 32

/-- A register pair, a latch, an s register, an address, an instruction word (R127, R161). -/
abbrev DWord := BitVec 64

/-- The memory unit (R9). -/
abbrev Byte := BitVec 8

/-- `Saturate(x, lo, hi)` of R10. -/
def saturate (x lo hi : Int) : Int := if x < lo then lo else if x > hi then hi else x

end Sys2Proof
end

