-- ==== Sys2Proof/Syntax.lean ====
section
/-! DEFINITION. The instructions and events of the SX-412: one constructor per row of opcode_table.json (R186 to R190;
95_what_each_step_holds), with the operand types they name. -/

namespace Sys2Proof

/-- Guard, destination field and nw of a format F word (R166). -/
structure Hdr where
  pred : BitVec 4
  neg  : Bool
  d    : BitVec 11
  nw   : Bool
  deriving DecidableEq, Repr

/-- A source field (R169). `bad` keeps a reserved encoding, which faults only at step 5 of R178. -/
inductive Src where
  | v (n : BitVec 11)
  | latch (j : BitVec 3)
  | zero
  | bad (f : BitVec 12)
  | imm (i : BitVec 10)
  deriving DecidableEq, Repr

/-- A branch target (R208). -/
inductive Target where
  | short (off : BitVec 11)
  | long (t : DWord)
  deriving DecidableEq, Repr

/-- Integer conditions (R203). -/
inductive ICond where | eq | ne | lt | le | gt | ge
  deriving DecidableEq, Repr

/-- Float conditions (R221). -/
inductive FCond where | eq | ne | lt | le | gt | ge | num | nan
  deriving DecidableEq, Repr

/-- Combining predicate of ICMP and FCMP (R203). -/
inductive Comb where
  | none
  | and (q : BitVec 4)
  | or (q : BitVec 4)
  deriving DecidableEq, Repr

/-- Register side of SREAD and SWRITE (R205). -/
inductive SpecOp where
  | special (n : BitVec 8)
  | scalar (n : BitVec 6)
  deriving DecidableEq, Repr

/-- VOTE modes (R214). -/
inductive VoteMode where | any | all | eq | ballot
  deriving DecidableEq, Repr

/-- Rounding modes (R131). -/
inductive Rnd where | rne | rz | rdn | rup
  deriving DecidableEq, Repr

/-- Formats of CVT (R224). -/
inductive CvtFmt where | f32 | bf16 | f16 | s8 | u8 | s32 | s64
  deriving DecidableEq, Repr

/-- SHFL modes (R227). -/
inductive ShflMode where | idx | up | down | xor
  deriving DecidableEq, Repr

/-- REDUX and SCAN operations and types (R228). -/
inductive RedOp where | add | min | max | and | or | xor
  deriving DecidableEq, Repr
inductive RedTy where | s32 | u32 | f32 | s64
  deriving DecidableEq, Repr

/-- Access widths (R232). -/
inductive Width where | b32 | b64 | u8 | s8 | u16 | s16 | b128
  deriving DecidableEq, Repr

/-- Scopes (R94, R232). -/
inductive Scope where | core | clus | die | pkg | dom
  deriving DecidableEq, Repr

/-- Cache hints (R232). -/
inductive Hint where | none | stream | keep | nc
  deriving DecidableEq, Repr

/-- Atomic orders (R232). -/
inductive Order where | none | acq | rel | acqrel
  deriving DecidableEq, Repr

/-- Atomic operations and types (R244). -/
inductive AtomOp where | add | min | max | and | or | xor | exch | incWrap | decWrap | fadd | fmin | fmax
  deriving DecidableEq, Repr
inductive AtomTy where | s32 | u32 | s64 | u64
  deriving DecidableEq, Repr

/-- Modifiers of LD, ST, LDA, STREL (R235). -/
structure MemMod where
  width : Width
  scope : Scope
  hint  : Hint
  ext   : Option DWord
  deriving DecidableEq, Repr

/-- Modifiers of ATOM, CAS, SATOM, RED (R243); CAS uses only the type's width. -/
structure AtomMod where
  op    : AtomOp
  ty    : AtomTy
  order : Order
  scope : Scope
  deriving DecidableEq, Repr

/-- CCTL operations (R242). -/
inductive CctlOp where | il1 | icode
  deriving DecidableEq, Repr

/-- A format of MFMT (R266) and B formats of MWLOAD (R267). -/
inductive MFmt where | bf16 | bfp8 | bfp4 | int8
  deriving DecidableEq, Repr

/-- Operations of MFMT (R266). -/
inductive MOp where | mad | minplus | maxplus | maxtimes | orand
  deriving DecidableEq, Repr

/-- TDRAIN formats and transforms (R286). -/
inductive DrFmt where | f32 | bf16 | bfp8 | bfp4 | s32 | s8
  deriving DecidableEq, Repr
inductive DrTr where | none | h16 | h32
  deriving DecidableEq, Repr

/-- The shared c layout of class 9 (R293); `x8` and `x9` are the instruction-specific bits c[8] and c[9]. -/
structure EngMod where
  stream : BitVec 3
  scope  : Scope
  bo     : Bool
  prom   : Bool
  x8     : Bool
  x9     : Bool
  pb     : Bool
  deriving DecidableEq, Repr

/-- The c layout of the basin commands (R311). -/
structure BasMod where
  stream : BitVec 3
  scope  : Scope
  pb     : Bool
  deriving DecidableEq, Repr

/-- SRET acts, TLBINV modes, WGKILL scopes (R341). -/
inductive SretAct where | resume | fail | exit
  deriving DecidableEq, Repr
inductive TlbMode where | page | range | ctx | all
  deriving DecidableEq, Repr
inductive KillScope where | wg | launch | ctx
  deriving DecidableEq, Repr

/-- Compact opcodes (R190). A half with an unassigned code is no pair word: it decodes to `unassignedOpcode` (R178 step 2). -/
inductive Cop where
  | nop | iadd | isub | imul | and | or | xor | shl | shr | sar | mov | imin | imax
  | fadd | fsub | fmul | fmin | fmax | hadd2 | hmul2 | lds | sts
  deriving DecidableEq, Repr

/-- Half of a pair word (R171). -/
structure Half where
  cop : Cop
  d   : BitVec 10
  s   : Src
  nw  : Bool
  deriving DecidableEq, Repr

/-- What a remote access does at its owner (R253, R260). -/
inductive RKind where
  | rld (w : Width) (acq : Bool)
  | rst (w : Width) (rel : Bool)
  | ratom (op : AtomOp) (ty : AtomTy) (order : Order)
  | rcas (ty : AtomTy) (order : Order)
  | rboadd
  | topk
  deriving DecidableEq, Repr

/-- A remote access on the fabric (R394): the requester's package, partition, core, lane and number of the access there, its kind,
address and captured data, and the ticket it replays. -/
structure RPacket where
  src    : BitVec 11
  part   : Nat
  core   : Nat
  lane   : Nat
  acc    : Nat
  kind   : RKind
  va     : DWord
  data   : DWord
  expect : DWord
  hold   : Bool
  replay : Option (BitVec 16)
  deriving DecidableEq, Repr

/-- How a remote access ended at its owner, as the requester hears it (R252). -/
inductive ROutcome where
  | done (old : DWord)
  | poison
  deriving DecidableEq, Repr

/-- A reduction contribution (R260). -/
structure Contribution where
  src   : BitVec 11
  part  : Nat
  acc   : Nat
  group : Nat
  n     : Nat
  k     : Nat
  flt   : Bool
  round : Nat
  root  : BitVec 11
  out   : DWord
  bo    : DWord
  inc   : DWord
  list  : List (Word × Word)
  core  : Nat := 0
  lane  : Nat := 0
  replay : Option (BitVec 16) := none
  deriving DecidableEq, Repr

/-- A message of the remote path (R252, R394, R395): requests to an owner and answers back. Those that name the own package
stand in `State.fabric`; those for other packages are in `State.outbox`, in the order sent. -/
inductive FabMsg where
  | request (p : RPacket)
  | reply (acc : Nat) (out : ROutcome)
  | ticket (acc : Nat) (tkid : BitVec 16)
  | abort (acc : Nat) (tkid : BitVec 16)
  | notice (owner : BitVec 11) (tkid : BitVec 16)
  | ack (tkid : BitVec 16)
  | release (src : BitVec 11) (acc : Nat)
  | contrib (k : Contribution)
  deriving DecidableEq, Repr

/-- A packet header in a flit (R409), as its list of fields (log 23): whole, with the entry that stores it, if any; or an entry and the
fields that differ from it, each with its place. -/
inductive HeaderForm where
  | whole (fields : List Nat) (store : Option (BitVec 6))
  | entry (e : BitVec 6) (diff : List (Nat × Nat))
  deriving DecidableEq, Repr

/-- A packet in a flit: its header as the flit carries it, and its message, whose data may go on in the next flit (R408, R409; log 23). -/
structure FlitPacket where
  hdr  : HeaderForm
  msg  : FabMsg
  more : Bool := false
  deriving DecidableEq, Repr

/-- A Rein flit as received (R408 to R411): the fields of its link header, the counter of its first sending, which both ends count, whether its
tag verifies under the key of the bank that it names with the nonce that this counter gives, and the packets of its decrypted payload. -/
structure Flit where
  seq     : BitVec 12
  ack     : BitVec 12
  kg      : Bool
  credits : BitVec 23
  kind    : BitVec 3
  ctr     : Nat := 0
  tagOk   : Bool
  payload : List FlitPacket
  deriving DecidableEq, Repr

/-- An entry of the MSI-X table: message address and data, and its mask bit (R417; log 73). -/
structure MsixEntry where
  addr : DWord := 0
  data : BitVec 32 := 0
  mask : Bool := true
  deriving DecidableEq, Repr, Inhabited

/-- A write of the host on CXL.io, or to its own memory (R415, R417, R430, R432): to the register BAR, with the application data of the
secured message that then stands in the request buffer, where it is one of the transport's open session; to the MSI-X table; to the
MSI-X enable and function mask; to host memory of class 0b01. -/
inductive HostWrite where
  | bar (off : Nat) (bytes : List Byte) (app : Option (List Byte))
  | msixEntry (vec : Nat) (e : MsixEntry)
  | msixControl (enable mask : Bool)
  | memory (pa : Nat) (bytes : List Byte)
  deriving DecidableEq, Repr

/-- The tag of an owner request, whether it travels inside a secured session of its transport, and of one that is malformed, or has no opcode of
the table, the opcode of its header (R430, R431). -/
structure ReqHdr where
  tag     : BitVec 32
  secured : Bool
  bad     : Option (BitVec 16) := none
  deriving DecidableEq, Repr

/-- The owner requests of R431, as the housekeeping controller reads them; `other` is one of an unassigned opcode or of a malformed header
or body. -/
inductive OwnerReq where
  | claim
  | handover (succ : Nat)
  | setPartition (p : Nat) (px : BitVec 5) (py : BitVec 4) (pa pb : BitVec 3) (en : Bool)
  | setSlots (stack chan : Nat) (slots : List Byte)
  | setHost (part : BitVec 4) (base len : BitVec 16)
  | setStream (port stream : Nat) (part : BitVec 4)
  | setRein (pkg : BitVec 11) (links : BitVec 18)
  | imageWrite (off : Nat) (bytes : List Byte)
  | imageActivate
  | rekey (link : Nat)
  | setMsix (vec : Nat) (pa : BitVec 52) (en : Bool)
  | resetPartition (p : Nat)
  | resetPackage
  | other (op : BitVec 16)
  deriving DecidableEq, Repr

/-- An agent with a request pending in a memory channel (R400): a thread; an engine operation; a stash fill or write-back of a workgroup; a
basin command with its walkers; a page-table walk, or a switch slice's fill or write-back, for another request; a remote access of another package that a partition serves;
the launch unit for a queue of a partition; work for a context of a partition (trap and service queues, images, parking); the host; a stream
of a spring port; the housekeeping and basin controllers. -/
inductive Requester where
  | thread (t : Nat)
  | engine (op : Nat)
  | stash (wg : Nat)
  | basin (cmd : Nat)
  | behalf (of : Requester)
  | remote (part : Nat)
  | launchUnit (part q : Nat)
  | context (part ctx : Nat)
  | host
  | spring (stream : Nat)
  | controller
  deriving DecidableEq, Repr

/-- One constructor per row of opcode_table.json. Format F instructions carry the common header
`h` and their sources; events carry the operands that say which occurrence they are. -/
inductive Instr where
  -- class 0 (R198)
  | iadd (h : Hdr) (a b : Src)
  | isub (h : Hdr) (a b : Src)
  | imul (h : Hdr) (a b : Src)
  | imulh (h : Hdr) (a b : Src) (u : Bool)
  | imad (h : Hdr) (a b c : Src)
  | idiv (h : Hdr) (a b : Src) (u : Bool)
  | irem (h : Hdr) (a b : Src) (u : Bool)
  | imin (h : Hdr) (a b : Src) (u : Bool)
  | imax (h : Hdr) (a b : Src) (u : Bool)
  | iabs (h : Hdr) (a : Src)
  | ineg (h : Hdr) (a : Src)
  | iaddsat (h : Hdr) (a b : Src) (u : Bool)
  | isubsat (h : Hdr) (a b : Src) (u : Bool)
  | isad (h : Hdr) (a b : Src) (u : Bool)
  | idot4 (h : Hdr) (a b : Src) (ua ub : Bool)
  | iadd64 (h : Hdr) (a b : Src)
  | isub64 (h : Hdr) (a b : Src)
  | imul64 (h : Hdr) (a b : Src)
  | imad64 (h : Hdr) (a b c : Src)
  | lea (h : Hdr) (a b : Src) (sh : BitVec 3) (u : Bool) (disp : Option DWord)
  | movi (h : Hdr) (x : DWord)
  | movi64 (h : Hdr) (x : DWord)
  -- class 1 (R201 to R205)
  | and (h : Hdr) (a b : Src)
  | or (h : Hdr) (a b : Src)
  | xor (h : Hdr) (a b : Src)
  | not (h : Hdr) (a : Src)
  | andn (h : Hdr) (a b : Src)
  | shl (h : Hdr) (a b : Src)
  | shr (h : Hdr) (a b : Src)
  | sar (h : Hdr) (a b : Src)
  | rot (h : Hdr) (a b : Src) (r : Bool)
  | shl64 (h : Hdr) (a b : Src)
  | shr64 (h : Hdr) (a b : Src)
  | sar64 (h : Hdr) (a b : Src)
  | popc (h : Hdr) (a : Src)
  | clz (h : Hdr) (a : Src)
  | ctz (h : Hdr) (a : Src)
  | brev (h : Hdr) (a : Src)
  | bfe (h : Hdr) (a : Src) (pos : BitVec 5) (len : BitVec 6) (sgn : Bool)
  | bfi (h : Hdr) (a b : Src) (pos : BitVec 5) (len : BitVec 6)
  | bysel (h : Hdr) (a b : Src) (sel : BitVec 12)
  | icmp (h : Hdr) (a b : Src) (cond : ICond) (u : Bool) (comb : Comb)
  | icmp64 (h : Hdr) (a b : Src) (cond : ICond) (u : Bool) (comb : Comb)
  | plog (h : Hdr) (pa pb lut : BitVec 4)
  | mov (h : Hdr) (a : Src)
  | mov64 (h : Hdr) (a : Src)
  | sel (h : Hdr) (a b : Src) (q : BitVec 4) (neg : Bool)
  | p2v (h : Hdr)
  | v2p (h : Hdr) (a b : Src)
  | sread (h : Hdr) (r : SpecOp) (b64 : Bool)
  | swrite (h : Hdr) (r : SpecOp) (b64 : Bool) (a : Src)
  -- class 2 (R208 to R216)
  | bra (h : Hdr) (t : Target)
  | brx (h : Hdr) (a : Src)
  | call (h : Hdr) (t : Target)
  | callx (h : Hdr) (a : Src)
  | ret (h : Hdr) (a : Src)
  | exit (h : Hdr)
  | nop (h : Hdr)
  | yield (h : Hdr)
  | elect (h : Hdr)
  | wake (h : Hdr)
  | cbar (h : Hdr)
  | wgbar (h : Hdr)
  | tilebar (h : Hdr)
  | vote (h : Hdr) (q : BitVec 4) (neg : Bool) (mode : VoteMode)
  | assert (h : Hdr) (q : BitVec 4) (neg : Bool) (a : Src)
  | brk (h : Hdr) (code : BitVec 8)
  | trap (h : Hdr) (code : BitVec 8) (a : Src)
  | sleepuntil (h : Hdr) (a : Src)
  | loopd (h : Hdr) (a : Src) (t : Target)
  | launch (h : Hdr) (a b : Src)
  -- class 3 (R218)
  | fadd (h : Hdr) (a b : Src) (rm : Rnd)
  | fsub (h : Hdr) (a b : Src) (rm : Rnd)
  | fmul (h : Hdr) (a b : Src) (rm : Rnd)
  | ffma (h : Hdr) (a b c : Src)
  | fmin (h : Hdr) (a b : Src) (nanp : Bool)
  | fmax (h : Hdr) (a b : Src) (nanp : Bool)
  | fabs (h : Hdr) (a : Src)
  | fneg (h : Hdr) (a : Src)
  | fcmp (h : Hdr) (a b : Src) (cond : FCond) (comb : Comb)
  | frcp (h : Hdr) (a : Src) (rm : Rnd)
  | frsq (h : Hdr) (a : Src) (rm : Rnd)
  | fsqrt (h : Hdr) (a : Src) (rm : Rnd)
  | fdiv (h : Hdr) (a b : Src) (rm : Rnd)
  | fexp2 (h : Hdr) (a : Src) (rm : Rnd)
  | flog2 (h : Hdr) (a : Src) (rm : Rnd)
  | fclass (h : Hdr) (a : Src)
  | hadd2 (h : Hdr) (a b : Src) (f16 : Bool) (rm : Rnd)
  | hmul2 (h : Hdr) (a b : Src) (f16 : Bool) (rm : Rnd)
  | hfma2 (h : Hdr) (a b : Src) (f16 : Bool) (rm : Rnd)
  | hminmax2 (h : Hdr) (a b : Src) (f16 max nanp : Bool)
  | fdot2 (h : Hdr) (a b : Src) (f16 : Bool) (rm : Rnd)
  -- class 4 (R224 to R231)
  | cvt (h : Hdr) (a : Src) (src dst : CvtFmt) (rm : Rnd) (sat : Bool)
  | packbfp (h : Hdr) (a : Src) (bfp4 : Bool)
  | unpackbfp (h : Hdr) (a : Src) (bfp4 : Bool)
  | hadam (h : Hdr) (a : Src) (h16 : Bool)
  | shfl (h : Hdr) (a b : Src) (mode : ShflMode) (lg : BitVec 3) (b64 : Bool)
  | bcast (h : Hdr) (a : Src) (t : BitVec 5) (b64 : Bool)
  | redux (h : Hdr) (a : Src) (op : RedOp) (ty : RedTy) (rm : Rnd)
  | scan (h : Hdr) (a : Src) (op : RedOp) (ty : RedTy) (rm : Rnd) (excl : Bool)
  | matchv (h : Hdr) (a : Src) (all b64 : Bool)
  -- class 5 (R235 to R242)
  | ld (h : Hdr) (a b : Src) (m : MemMod)
  | st (h : Hdr) (a b : Src) (m : MemMod)
  | lda (h : Hdr) (a b : Src) (m : MemMod)
  | strel (h : Hdr) (a b : Src) (m : MemMod)
  | lds (h : Hdr) (a b : Src) (w : Width)
  | sts (h : Hdr) (a b : Src) (w : Width) (off : BitVec 8)
  | ldx (h : Hdr) (a b : Src) (sn : BitVec 6) (bfp4 : Bool)
  | prefetch (h : Hdr) (a b : Src) (l2 : Bool) (n1 : BitVec 4) (ext : Option DWord)
  | smap (h : Hdr) (a : Src)
  | sunmap (h : Hdr) (a : Src)
  | sflush (h : Hdr) (a b : Src) (all : Bool)
  | sinv (h : Hdr) (a b : Src) (all : Bool)
  | cctl (h : Hdr) (a b : Src) (op : CctlOp)
  -- class 6 (R243 to R251)
  | atom (h : Hdr) (a b : Src) (m : AtomMod)
  | cas (h : Hdr) (a b : Src) (b64 : Bool) (order : Order) (scope : Scope)
  | satom (h : Hdr) (a b : Src) (m : AtomMod)
  | red (h : Hdr) (a b : Src) (m : AtomMod)
  | fence (h : Hdr) (scope : Scope)
  | opwait (h : Hdr) (a b : Src)
  | boadd (h : Hdr) (a b : Src) (scope : Scope)
  | waitge (h : Hdr) (a b : Src) (scope : Scope) (dl : Bool) (n : BitVec 6)
  | pwait (h : Hdr) (a : Src) (exact : Bool)
  -- class 7 (R253, R258 to R260)
  | rld (h : Hdr) (a : Src) (w : Width) (acq : Bool)
  | rst (h : Hdr) (a b : Src) (w : Width) (rel : Bool) (stream : BitVec 3)
  | ratom (h : Hdr) (a b : Src) (op : AtomOp) (ty : AtomTy) (order : Order) (stream : BitVec 3) (post : Bool)
  | rcas (h : Hdr) (a b : Src) (ty : AtomTy) (order : Order)
  | rboadd (h : Hdr) (a b : Src) (stream : BitVec 3)
  | tkwait (h : Hdr)
  | tkquery (h : Hdr)
  | topkred (h : Hdr) (a b : Src) (stream : BitVec 3)
  -- class 8 (R264 to R290)
  | gang (h : Hdr) (a : Src) (n : BitVec 3)
  | mfmt (h : Hdr) (afmt : MFmt) (op : MOp)
  | dptab (h : Hdr) (a : Src) (k : BitVec 2)
  | mwload (h : Hdr) (a b : Src) (coded : Bool) (bfmt : MFmt) (stream : BitVec 3)
  | mma (h : Hdr) (a b : Src) (k : BitVec 6) (ovr : Bool)
  | mmaw (h : Hdr) (a b : Src) (k : BitVec 6) (ovr : Bool)
  | talloc (h : Hdr) (a : Src) (k : BitVec 6) (s32 : Bool)
  | tfree (h : Hdr) (k : BitVec 6)
  | town (h : Hdr) (a b : Src) (k : BitVec 6)
  | tzero (h : Hdr) (a b : Src) (k : BitVec 6)
  | tread (h : Hdr) (a : Src) (k : BitVec 6)
  | twrite (h : Hdr) (a b : Src) (k : BitVec 6)
  | tdrain (h : Hdr) (a b : Src) (k : BitVec 6) (fmt : DrFmt) (tr : DrTr) (clr : Bool)
  | tstat (h : Hdr) (k : BitVec 6)
  -- class 9 (R298 to R310)
  | copy (h : Hdr) (a b : Src) (m : EngMod)
  | copyt (h : Hdr) (a b : Src) (m : EngMod)
  | cbload (h : Hdr) (a b : Src)
  | cbcopy (h : Hdr) (a b : Src) (m : EngMod)
  | cdec (h : Hdr) (a b : Src) (m : EngMod)
  | gather (h : Hdr) (a b : Src) (m : EngMod)
  | scatter (h : Hdr) (a b : Src) (m : EngMod)
  | zfill (h : Hdr) (a b : Src) (m : EngMod)
  | cpq (h : Hdr)
  -- class 10 (R311 to R318)
  | search (h : Hdr) (a : Src) (m : BasMod)
  | nbscan (h : Hdr) (a : Src) (m : BasMod)
  | nbrowcopy (h : Hdr) (a : Src) (m : BasMod)
  | nbrowzero (h : Hdr) (a : Src) (m : BasMod)
  | vpublish (h : Hdr) (a : Src)
  | vsnap (h : Hdr) (a : Src)
  | bquery (h : Hdr) (a : Src)
  -- class 11 (R319 to R326)
  | wdist (h : Hdr) (a : Src) (q : BitVec 4)
  | wheap (h : Hdr) (a b : Src)
  | wnbrs (h : Hdr) (a b : Src) (m : BitVec 5)
  | wvisit (h : Hdr) (a : Src)
  | whop (h : Hdr) (a b : Src) (node : Bool)
  | wspawn (h : Hdr) (b : Src) (off : BitVec 11)
  | wdone (h : Hdr)
  -- class 12 (R341)
  | sret (h : Hdr) (a b : Src) (act : SretAct) (pc : Bool)
  | sysrd (h : Hdr) (a : Src) (reg : BitVec 10)
  | syswr (h : Hdr) (a b : Src) (reg : BitVec 10)
  | ctxsave (h : Hdr) (a b : Src)
  | ctxload (h : Hdr) (a b : Src)
  | tlbinv (h : Hdr) (a b : Src) (mode : TlbMode)
  | preempt (h : Hdr) (a b : Src)
  | wgkill (h : Hdr) (a : Src) (scope : KillScope)
  | lease (h : Hdr) (a : Src) (rel : Bool)
  | pgmig (h : Hdr) (a : Src)
  | tkpost (h : Hdr) (a : Src) (abort : Bool)
  | halt (h : Hdr) (code : BitVec 8)
  -- the pair word (R171, R172) and the words without an assigned opcode (R191)
  | pairWord (ha hb : Half)
  | unassignedOpcode (w : DWord) (half : Bool)
  -- EVENTS THAT THE MODEL'S OWN SCHEDULER QUEUES
  -- issue, timers, traps
  | periodicReform (core quad : Nat)
  | bundleUrgent (core quad b : Nat)
  | timer (crew : Nat)
  | waitgeReread (thread : Nat)
  | waitgeDeadline (thread : Nat)
  | sleepuntilDeadline (thread : Nat)
  | promiseMissed (thread : Nat)
  | asyncTrapDelivery (thread : Nat)
  | trapRecordWrite (core slot : Nat)
  | serviceRecordWrite (part : Nat)
  -- launches and cores
  | launchRecordTake (part q : Nat)
  | dependenceRetest (launch : Nat)
  | leaseRetry (launch : Nat)
  | workgroupDistribution (launch : Nat)
  | workgroupActivation (core : Nat)
  | workgroupPark (core : Nat)
  | forcedPark (core : Nat)
  | activationBlock (wg : Nat)
  | carveWaitExpiry (core : Nat)
  | carveChange (core : Nat)
  | workgroupExit (wg : Nat)
  | launchComplete (launch : Nat)
  -- engines and tarn
  | engineOperationStart (op : Nat)
  | engineOperationComplete (op : Nat)
  | engineOperationHeld (op : Nat)
  | jointOperationPost (joint : Nat)
  | entryAged (joint : Nat)
  | passGrant (cluster : Nat)
  | passComplete (cluster : Nat)
  | tileLatch (tile : Nat)
  | tileFetchHeld (tile : Nat)
  | tdrainComplete (op : Nat)
  | tarnBankCleared (core bank : Nat)
  | tarnRelease (core base : Nat)
  -- basin dies
  | basinCommandStart (cmd : Nat)
  | searchForward (cmd : Nat)
  | walkerHopArrival (walker : Nat)
  | walkerChildStart (walker : Nat)
  | heapOffer (cmd : Nat)
  | basinCommandComplete (cmd : Nat)
  | basinCommandTimeout (cmd : Nat)
  -- remote accesses
  | remoteAccessArrival (pkt : RPacket)
  | remoteReply (acc : Nat) (out : ROutcome)
  | ticketReceived (acc : Nat) (tkid : BitVec 16)
  | replayNotice (owner : BitVec 11) (tkid : BitVec 16)
  | ticketAbort (acc : Nat) (tkid : BitVec 16)
  | replayRecordRelease (src : BitVec 11) (acc : Nat)
  | abortAcknowledgement (tkid : BitVec 16)
  | topkredContribution (k : Contribution)
  -- contexts
  | contextStopped (part : Nat) (ctx : BitVec 16)
  | ctxsaveComplete (part : Nat) (ctx : BitVec 16)
  | ctxloadRestore (part : Nat) (ctx : BitVec 16)
  -- housekeeping controller
  | slotRoundBoundary (stack chan : Nat)
  -- memory and translation
  | dataReturn (load : Nat)
  | translationCheckDone (thread : Nat)
  | writePerformed (w : Nat)
  | invalidationAcknowledged (inv : Nat)
  | migrationSwitchEnd (mig : Nat)
  -- EVENTS THAT COME FROM OUTSIDE OR THAT AN AGENT MAY CHOOSE
  -- register writes with a behaviour of their own
  | fabricError (acc : Nat)
  | patrolScrub (stack line : Nat)
  | escapeChannelMove (pkt : Nat)
  | msixSignal (vec : Nat)
  | twinWrite (part : Nat) (val : DWord)
  | trapWindowWrite (part : Nat) (reg idx : Nat) (val : DWord)
  | xlockCfgWrite (part : Nat) (val : DWord)
  | schedXlockWrite (part : Nat) (val : DWord)
  | tqCfgWrite (part : Nat) (val : DWord)
  | lqCfgWrite (part q : Nat) (val : DWord)
  | lqBaseWrite (part q : Nat) (val : DWord)
  | aperCfgWrite (part i : Nat) (val : DWord)
  | ctxRootWrite (part : Nat) (ctx : Option Nat) (val : DWord)
  | numcfgWrite (part : Nat) (val : DWord)
  | phcAdjWrite (val : DWord)
  | spsCfgWrite (part i : Nat) (val : DWord)
  | memCfgWrite (part : Nat) (val : DWord)
  | systemRegisterWrite (part reg idx : Nat) (val : DWord)
  | mbReqWrite (w : HostWrite)
  -- launches and cores
  | workgroupSteal (wg core : Nat)
  | engineOperationSteal (op core : Nat)
  | walkerSteal (walker engine : Nat)
  -- engines and tarn
  | registrationEviction (line : Nat)
  -- remote accesses
  -- ports and host
  | frameReceived (port : Nat) (bytes : List Byte) (fcsOk : Bool)
  | cxlMemRead (off : DWord) (n : Nat)
  | cxlMemWrite (off : DWord) (bytes : List Byte) (poison : Bool)
  -- links
  | beatReceived (stack : Nat) (up : Bool) (seq : BitVec 8) (crcOk : Bool)
  | basinLinkRetrain (stack : Nat) (ok : Bool)
  | flitReceived (link : Nat) (f : Flit)
  | retryRequest (link : Nat) (seq : BitVec 12)
  | reinLinkRetrain (link : Nat) (ok : Bool)
  | flitCounterRekey (link : Nat)
  -- housekeeping controller
  | getVersion (claimant : Nat)
  | getCapabilities (claimant : Nat)
  | negotiateAlgorithms (claimant : Nat)
  | getDigests (claimant : Nat)
  | getCertificate (claimant : Nat)
  | challenge (claimant nonce : Nat)
  | getMeasurements (claimant index : Nat)
  | keyExchange (claimant : Nat)
  | keyUpdate (link : Nat)
  | claim (claimant : Nat) (h : ReqHdr)
  | handover (claimant succ : Nat) (h : ReqHdr)
  | setPartition (claimant p : Nat) (px : BitVec 5) (py : BitVec 4) (pa pb : BitVec 3) (en : Bool) (h : ReqHdr)
  | setSlots (claimant stack chan : Nat) (slots : List Byte) (h : ReqHdr)
  | setHost (claimant : Nat) (part : BitVec 4) (base len : BitVec 16) (h : ReqHdr)
  | setStream (claimant port stream : Nat) (part : BitVec 4) (h : ReqHdr)
  | setRein (claimant : Nat) (pkg : BitVec 11) (links : BitVec 18) (h : ReqHdr)
  | imageWrite (claimant off : Nat) (bytes : List Byte) (h : ReqHdr)
  | imageActivate (claimant : Nat) (h : ReqHdr)
  | firmwareSelfTestFail
  | rekey (claimant link : Nat) (h : ReqHdr)
  | setMsix (claimant vec : Nat) (pa : BitVec 52) (en : Bool) (h : ReqHdr)
  | resetPartition (claimant p : Nat) (h : ReqHdr)
  | resetPackage (claimant : Nat) (h : ReqHdr)
  | packageReset (failStep : BitVec 3) (failed : BitVec 21)
  | channelSlotAllocation (stack chan : Nat) (pending : List Requester)
  | powerThrottle (watts : BitVec 16) (step : BitVec 4) (basin : Bool)
  -- memory and translation
  | flitCounterExhausted (link : Nat)
  | handoverLapse
  | firmwareSwitch
  deriving DecidableEq, Repr

end Sys2Proof
end

