-- ==== Sys2Proof/Config.lean ====
section
/-! DEFINITION. What the manual leaves open (free values, opaque constants with no body, applied to operands or to the
counter `State.free`) and the fixed sizes of the part. Log entries 5 to 11 name the free values. -/

namespace Sys2Proof.Config

/-- The choices, by node of a binary tree over the operands, that make up a non-decreasing function: FEXP2's and FLOG2's places inside the
bounds of R222 (log 5). -/
opaque exp2Free : Nat → Nat
opaque log2Free : Nat → Nat

/-- The sign of a zero that FEXP2 or FLOG2 gives inside the bounds of R222 (log 5). -/
opaque zeroSign : Word → Bool

/-- The rotation h that a core chooses for a workgroup (R24), by the counter of free values (log 6). -/
opaque rotation : Nat → BitVec 2

/-- A byte whose value the manual leaves open (R289, R295, R392), by the counter and the place (log 7). -/
opaque freeByte : Nat → Nat → Byte

/-- Whether a choice the manual leaves open between an old and a new value takes the new one (R156, R295) (log 7). -/
opaque freeTakeNew : Nat → Nat → Bool

/-- The offset in nanoseconds, 0 … 8 for −4 … +4, of a frame's stamp from PHC (R419) (log 9). -/
opaque stampJitter : Nat → Fin 9

/-- The payload of an SPDM answer whose form lies outside the manual (R428, R430) (log 10). -/
opaque spdmPayload : Nat → Nat → List Byte

/-- Whether a remote access that met a fabric failure was performed (R252, R413) (log 11). -/
opaque fabricPerformed : Nat → Bool

/-- A link key derived by the SPDM key schedule (R411); keys are never readable (R410) (log 10). -/
opaque linkKey : Nat → Nat → BitVec 256

/-- The payload of a flit as AES-256-GCM encrypts it, from the key, the nonce and the payload (R410) (log 10). -/
opaque flitCipher : BitVec 256 → BitVec 96 → List FlitPacket → BitVec 1856

/-- The tag of AES-256-GCM over a flit, from the key, the nonce, the link header and the payload (R408, R410) (log 10). -/
opaque flitTag : BitVec 256 → BitVec 96 → DWord → List FlitPacket → BitVec 128

/-- The secured message that carries a response (R430, R432) (log 10). -/
opaque secured : Nat → List Byte → List Byte

/-- The step of R424 that fails in a reset that RESET_PACKAGE begins, none if it is not 2 or 3, and the links and ports that do not come up
in step 5: Rein links 0 to 17, the CXL port 18, the spring ports 19 and 20 (log 74). -/
opaque bootStep : Nat → BitVec 3
opaque bootFailed : Nat → BitVec 21

/-- What verifying a firmware image's bytes finds: its signature and digest, its version and its minimum version (R426); the manual gives
neither the header's layout nor a program for the check (log 10). -/
opaque imageOk : List (Nat × Byte) → Bool
opaque imageVersion : List (Nat × Byte) → BitVec 32
opaque imageMin : List (Nat × Byte) → BitVec 32

/-- Cores of the package and the mesh's extent (R12). -/
def meshW : Nat := 32
def meshH : Nat := 16

/-- 2^20 cycles (R41, R48, R368) and 65,536 cycles (R371). -/
def longWait : Nat := 2 ^ 20
def fitWait : Nat := 65536

/-- 2 ms, 10 s and 1 s in cycles of the 1.25 GHz clock (R413, R429, R427). -/
def fabricTimeout : Nat := 2500000
def handoverTime : Nat := 12500000000
def selfTestTime : Nat := 1250000000

end Sys2Proof.Config
end

