-- ==== Sys2Proof/WellFormed.lean ====
section
/-! DEFINITION. Which instructions an encoding can hold: the d, nw, unused-field and modifier rules of R168, R169, R171,
R172 and of each instruction's own table. Events carry no encoding and are all well formed. -/

namespace Sys2Proof

/-- d and nw of a v or x result that is not a chain breaker's (R168). -/
def Hdr.okV (h : Hdr) : Bool := !h.nw || h.d == 0

/-- d and nw of a v or x result of a chain breaker, or of one that reads d first (R168, R217). -/
def Hdr.okA (h : Hdr) : Bool := !h.nw

/-- d and nw of a predicate result (R168). -/
def Hdr.okP (h : Hdr) : Bool := !h.nw && h.d.extractLsb' 4 7 == 0

/-- d and nw of an instruction without a register result (R168). -/
def Hdr.okN (h : Hdr) : Bool := !h.nw && h.d == 0

/-- d and nw of class 9: a pair under .prom, else 0 (R293). -/
def Hdr.okE (h : Hdr) (prom : Bool) : Bool := !h.nw && (prom || h.d == 0)

/-- A reserved source is one of 0x809 to 0xBFF (R169). -/
def Src.wf : Src → Bool
  | .v _ => true
  | .latch _ => true
  | .zero => true
  | .bad f => 0x809 ≤ f.toNat && f.toNat < 0xC00
  | .imm _ => true

/-- System registers without an index (R345, R375, R398, R407, R423, R434). -/
def sysPlain (reg : BitVec 10) : Bool :=
  [0x000, 0x001, 0x002, 0x003, 0x004, 0x005, 0x006, 0x007, 0x00A, 0x010, 0x011, 0x012, 0x013, 0x102, 0x103, 0x201, 0x203, 0x205, 0x206,
    0x207, 0x208, 0x209, 0x20A, 0x300, 0x304, 0x380, 0x382, 0x383, 0x384, 0x385, 0x386, 0x3C1, 0x3C2, 0x3C3].contains reg.toNat

/-- The a field of SYSRD and SYSWR is not used, and names z, where the register has no index (R169, R341, R344). -/
def sysIndexOk (reg : BitVec 10) (a : Src) : Bool := !sysPlain reg || a == .zero

/-- Widths a store takes (R232). -/
def Width.storeOk (w : Width) : Bool := w != .s8 && w != .s16

/-- Float atomics take type code 0 alone (R244). -/
def atomOk (op : AtomOp) (ty : AtomTy) : Bool :=
  match op with
  | .fadd => ty == .s32
  | .fmin => ty == .s32
  | .fmax => ty == .s32
  | _ => true

/-- REDUX and SCAN: bitwise operations exclude .f32, a rounding mode is for .add.f32 alone (R228). -/
def redOk (op : RedOp) (ty : RedTy) (rm : Rnd) : Bool :=
  (ty != .f32 || op == .add || op == .min || op == .max) && (rm == .rne || (op == .add && ty == .f32))

/-- The integer formats of CVT (R224). -/
def CvtFmt.isInt : CvtFmt → Bool
  | .f32 => false
  | .bf16 => false
  | .f16 => false
  | _ => true

/-- The combinations CVT accepts (R224). -/
def cvtOk (src dst : CvtFmt) (rm : Rnd) (sat : Bool) : Bool :=
  !(src == dst && src.isInt) && (!sat || (src.isInt && dst.isInt)) && (rm == .rne || !(src.isInt && dst.isInt))

/-- Assigned opcodes of each class (R186). -/
def classCount (cls : Nat) : Nat := [22, 29, 20, 21, 9, 13, 9, 8, 14, 9, 7, 7, 12].getD cls 0

/-- The opcode of a format F word is assigned (R186). -/
def opcodeAssigned (op : BitVec 10) : Bool := op.toNat % 64 < classCount (op.toNat / 64)

/-- A compact half fails step 1 of R178: a NOP with operands, nw on a breaker, or a MOV with nw
that names a register it does not write (R168, R172; log 16). -/
def halfFormatBad (x : BitVec 31) : Bool :=
  (x.extractLsb' 23 8 == 0 && !(x.extractLsb' 13 10 == 0 && x.extractLsb' 1 12 == 0x808 && x.extractLsb' 0 1 == 0)) ||
  (x.extractLsb' 23 8 == 0x14 && x.extractLsb' 0 1 == 1) || (x.extractLsb' 23 8 == 0x15 && x.extractLsb' 0 1 == 1) ||
  (x.extractLsb' 23 8 == 0x0A && x.extractLsb' 0 1 == 1 && x.extractLsb' 13 10 != 0)

/-- A compact code is unassigned (R190). -/
def halfUnassigned (x : BitVec 31) : Bool := 0x15 < (x.extractLsb' 23 8).toNat

/-- The words that hold no assigned opcode, with the half R191 names. -/
def wordUnassigned (w : DWord) (half : Bool) : Bool :=
  if w.getLsbD 63 then
    !w.getLsbD 62 && !halfFormatBad (w.extractLsb' 31 31) && !halfFormatBad (w.extractLsb' 0 31) &&
      (if half then !halfUnassigned (w.extractLsb' 31 31) && halfUnassigned (w.extractLsb' 0 31)
       else halfUnassigned (w.extractLsb' 31 31))
  else !half && !opcodeAssigned (w.extractLsb' 53 10)

/-- A compact half that passes step 1 (R172). -/
def Half.wf (x : Half) : Bool :=
  x.s.wf &&
  match x.cop with
  | .nop => x.d == 0 && x.s == .zero && !x.nw
  | .sts => !x.nw
  | .lds => !x.nw
  | .mov => !x.nw || x.d == 0
  | _ => true

/-- Well formed: some word of R166 to R172 encodes it; events always. -/
def Instr.wf : Instr → Bool
  | .iadd h a b => h.okV && a.wf && b.wf
  | .isub h a b => h.okV && a.wf && b.wf
  | .imul h a b => h.okV && a.wf && b.wf
  | .imulh h a b _ => h.okV && a.wf && b.wf
  | .imad h a b c => h.okV && a.wf && b.wf && c.wf
  | .idiv h a b _ => h.okV && a.wf && b.wf
  | .irem h a b _ => h.okV && a.wf && b.wf
  | .imin h a b _ => h.okV && a.wf && b.wf
  | .imax h a b _ => h.okV && a.wf && b.wf
  | .iabs h a => h.okV && a.wf
  | .ineg h a => h.okV && a.wf
  | .iaddsat h a b _ => h.okV && a.wf && b.wf
  | .isubsat h a b _ => h.okV && a.wf && b.wf
  | .isad h a b _ => h.okV && a.wf && b.wf
  | .idot4 h a b _ _ => h.okV && a.wf && b.wf
  | .iadd64 h a b => h.okV && a.wf && b.wf
  | .isub64 h a b => h.okV && a.wf && b.wf
  | .imul64 h a b => h.okV && a.wf && b.wf
  | .imad64 h a b c => h.okV && a.wf && b.wf && c.wf
  | .lea h a b _ _ _ => h.okV && a.wf && b.wf
  | .movi h _ => h.okV
  | .movi64 h _ => h.okV
  | .and h a b => h.okV && a.wf && b.wf
  | .or h a b => h.okV && a.wf && b.wf
  | .xor h a b => h.okV && a.wf && b.wf
  | .not h a => h.okV && a.wf
  | .andn h a b => h.okV && a.wf && b.wf
  | .shl h a b => h.okV && a.wf && b.wf
  | .shr h a b => h.okV && a.wf && b.wf
  | .sar h a b => h.okV && a.wf && b.wf
  | .rot h a b _ => h.okV && a.wf && b.wf
  | .shl64 h a b => h.okV && a.wf && b.wf
  | .shr64 h a b => h.okV && a.wf && b.wf
  | .sar64 h a b => h.okV && a.wf && b.wf
  | .popc h a => h.okV && a.wf
  | .clz h a => h.okV && a.wf
  | .ctz h a => h.okV && a.wf
  | .brev h a => h.okV && a.wf
  | .bfe h a _ _ _ => h.okV && a.wf
  | .bfi h a b _ _ => h.okV && a.wf && b.wf
  | .bysel h a b _ => h.okV && a.wf && b.wf
  | .icmp h a b _ _ _ => h.okP && a.wf && b.wf
  | .icmp64 h a b _ _ _ => h.okP && a.wf && b.wf
  | .plog h _ _ _ => h.okP
  | .mov h a => h.okV && a.wf
  | .mov64 h a => h.okV && a.wf
  | .sel h a b _ _ => h.okV && a.wf && b.wf
  | .p2v h => h.okV
  | .v2p h a b => h.okN && a.wf && b.wf
  | .sread h _ _ => h.okV
  | .swrite h _ _ a => h.okN && a.wf
  | .bra h _ => h.okN
  | .brx h a => h.okN && a.wf
  | .call h _ => h.okA
  | .callx h a => h.okA && a.wf
  | .ret h a => h.okN && a.wf
  | .exit h => h.okN
  | .nop h => h.okN
  | .yield h => h.okN
  | .elect h => h.okP
  | .wake h => h.okN
  | .cbar h => h.okN
  | .wgbar h => h.okN
  | .tilebar h => h.okN
  | .vote h _ _ mode => (if mode == .ballot then h.okA else h.okP)
  | .assert h _ _ a => h.okN && a.wf
  | .brk h _ => h.okN
  | .trap h _ a => h.okN && a.wf
  | .sleepuntil h a => h.okN && a.wf
  | .loopd h a _ => h.okA && a.wf
  | .launch h a b => h.okP && a.wf && b.wf
  | .fadd h a b _ => h.okV && a.wf && b.wf
  | .fsub h a b _ => h.okV && a.wf && b.wf
  | .fmul h a b _ => h.okV && a.wf && b.wf
  | .ffma h a b c => h.okV && a.wf && b.wf && c.wf
  | .fmin h a b _ => h.okV && a.wf && b.wf
  | .fmax h a b _ => h.okV && a.wf && b.wf
  | .fabs h a => h.okV && a.wf
  | .fneg h a => h.okV && a.wf
  | .fcmp h a b _ _ => h.okP && a.wf && b.wf
  | .frcp h a _ => h.okV && a.wf
  | .frsq h a _ => h.okV && a.wf
  | .fsqrt h a _ => h.okV && a.wf
  | .fdiv h a b _ => h.okV && a.wf && b.wf
  | .fexp2 h a _ => h.okV && a.wf
  | .flog2 h a _ => h.okV && a.wf
  | .fclass h a => h.okV && a.wf
  | .hadd2 h a b _ _ => h.okV && a.wf && b.wf
  | .hmul2 h a b _ _ => h.okV && a.wf && b.wf
  | .hfma2 h a b _ _ => h.okA && a.wf && b.wf
  | .hminmax2 h a b _ _ _ => h.okV && a.wf && b.wf
  | .fdot2 h a b _ _ => h.okA && a.wf && b.wf
  | .cvt h a src dst rm sat => h.okV && a.wf && cvtOk src dst rm sat
  | .packbfp h a _ => h.okA && a.wf
  | .unpackbfp h a _ => h.okA && a.wf
  | .hadam h a _ => h.okA && a.wf
  | .shfl h a b _ lg _ => h.okA && a.wf && b.wf && decide (lg.toNat < 6)
  | .bcast h a _ _ => h.okA && a.wf
  | .redux h a op ty rm => h.okA && a.wf && redOk op ty rm
  | .scan h a op ty rm _ => h.okA && a.wf && redOk op ty rm
  | .matchv h a _ _ => h.okA && a.wf
  | .ld h a b _ => h.okA && a.wf && b.wf
  | .st h a b m => h.okN && a.wf && b.wf && m.width.storeOk && m.hint != .nc
  | .lda h a b m => h.okA && a.wf && b.wf && m.width != .b128
  | .strel h a b m => h.okN && a.wf && b.wf && m.width.storeOk && m.hint != .nc && m.width != .b128
  | .lds h a b _ => h.okA && a.wf && b.wf
  | .sts h a b w _ => h.okN && a.wf && b.wf && w.storeOk
  | .ldx h a b _ _ => h.okA && a.wf && b.wf
  | .prefetch h a b _ _ _ => h.okN && a.wf && b.wf
  | .smap h a => h.okA && a.wf
  | .sunmap h a => h.okN && a.wf
  | .sflush h a b all => h.okN && a.wf && b.wf && (!all || (a == .zero && b == .zero))
  | .sinv h a b all => h.okN && a.wf && b.wf && (!all || (a == .zero && b == .zero))
  | .cctl h a b _ => h.okN && a.wf && b.wf
  | .atom h a b m => h.okA && a.wf && b.wf && atomOk m.op m.ty
  | .cas h a b _ _ _ => h.okA && a.wf && b.wf
  | .satom h a b m => h.okA && a.wf && b.wf && atomOk m.op m.ty && m.scope == .core
  | .red h a b m => h.okN && a.wf && b.wf && atomOk m.op m.ty
  | .fence h _ => h.okN
  | .opwait h a b => h.okN && a.wf && b.wf
  | .boadd h a b _ => h.okN && a.wf && b.wf
  | .waitge h a b _ dl n => h.okP && a.wf && b.wf && (dl || n == 0)
  | .pwait h a _ => h.okN && a.wf
  | .rld h a w _ => h.okA && a.wf && w != .b128
  | .rst h a b w _ _ => h.okN && a.wf && b.wf && w.storeOk && w != .b128
  | .ratom h a b op ty _ _ post => (if post then h.okN else h.okA) && a.wf && b.wf && atomOk op ty
  | .rcas h a b _ _ => h.okA && a.wf && b.wf
  | .rboadd h a b _ => h.okN && a.wf && b.wf
  | .tkwait h => h.okN
  | .tkquery h => h.okV
  | .topkred h a b _ => h.okN && a.wf && b.wf
  | .gang h a _ => h.okN && a.wf
  | .mfmt h _ _ => h.okN
  | .dptab h a _ => h.okN && a.wf
  | .mwload h a b coded bfmt _ => h.okN && a.wf && b.wf && (coded || b == .zero) && (!coded || bfmt == .bf16)
  | .mma h a b _ _ => h.okN && a.wf && b.wf
  | .mmaw h a b _ _ => h.okN && a.wf && b.wf
  | .talloc h a _ _ => h.okP && a.wf
  | .tfree h _ => h.okN
  | .town h a b _ => h.okN && a.wf && b.wf
  | .tzero h a b _ => h.okN && a.wf && b.wf
  | .tread h a _ => h.okA && a.wf
  | .twrite h a b _ => h.okN && a.wf && b.wf
  | .tdrain h a b _ _ _ _ => h.okN && a.wf && b.wf
  | .tstat h _ => h.okA
  | .copy h a b m => h.okE m.prom && a.wf && b.wf && !m.pb
  | .copyt h a b m => h.okE m.prom && a.wf && b.wf && (!m.pb || b == .zero)
  | .cbload h a b => h.okN && a.wf && b.wf
  | .cbcopy h a b m => h.okE m.prom && a.wf && b.wf && !m.pb
  | .cdec h a b m => h.okE m.prom && a.wf && b.wf && !m.pb && !m.x9
  | .gather h a b m => h.okE m.prom && a.wf && b.wf && (!m.pb || b == .zero)
  | .scatter h a b m => h.okE m.prom && a.wf && b.wf && (!m.pb || b == .zero)
  | .zfill h a b m => h.okE m.prom && a.wf && b.wf && !m.pb && !m.x9
  | .cpq h => h.okA
  | .search h a _ => h.okN && a.wf
  | .nbscan h a _ => h.okN && a.wf
  | .nbrowcopy h a _ => h.okN && a.wf
  | .nbrowzero h a _ => h.okN && a.wf
  | .vpublish h a => h.okA && a.wf
  | .vsnap h a => h.okA && a.wf
  | .bquery h a => h.okA && a.wf
  | .wdist h a _ => h.okA && a.wf
  | .wheap h a b => h.okN && a.wf && b.wf
  | .wnbrs h a b m => h.okA && a.wf && b.wf && m != 0
  | .wvisit h a => h.okP && a.wf
  | .whop h a b _ => h.okN && a.wf && b.wf
  | .wspawn h b _ => h.okP && b.wf
  | .wdone h => h.okN
  | .sret h a b _ pc => h.okP && a.wf && b.wf && (pc || b == .zero)
  | .sysrd h a reg => h.okA && a.wf && sysIndexOk reg a
  | .syswr h a b reg => h.okN && a.wf && b.wf && sysIndexOk reg a
  | .ctxsave h a b => h.okN && a.wf && b.wf
  | .ctxload h a b => h.okN && a.wf && b.wf
  | .tlbinv h a b mode => h.okN && a.wf && b.wf && (mode != .all || (a == .zero && b == .zero))
  | .preempt h a b => h.okN && a.wf && b.wf
  | .wgkill h a _ => h.okN && a.wf
  | .lease h a _ => h.okP && a.wf
  | .pgmig h a => h.okP && a.wf
  | .tkpost h a _ => h.okN && a.wf
  | .halt h _ => h.okN
  | .pairWord ha hb => ha.wf && hb.wf
  | .unassignedOpcode w half => wordUnassigned w half
  | .periodicReform .. | .bundleUrgent .. | .timer .. | .waitgeReread .. | .waitgeDeadline ..
    | .sleepuntilDeadline .. | .promiseMissed .. | .asyncTrapDelivery .. | .trapRecordWrite ..
    | .serviceRecordWrite .. | .launchRecordTake .. | .dependenceRetest .. | .leaseRetry ..
    | .workgroupDistribution .. | .workgroupActivation .. | .workgroupPark .. | .forcedPark .. | .activationBlock ..
    | .carveWaitExpiry .. | .carveChange .. | .workgroupExit .. | .launchComplete .. | .engineOperationStart ..
    | .engineOperationComplete .. | .engineOperationHeld .. | .jointOperationPost .. | .entryAged .. | .passGrant ..
    | .passComplete .. | .tileLatch .. | .tileFetchHeld .. | .tdrainComplete .. | .tarnBankCleared ..
    | .tarnRelease .. | .basinCommandStart .. | .searchForward .. | .walkerHopArrival .. | .walkerChildStart ..
    | .heapOffer .. | .basinCommandComplete .. | .basinCommandTimeout .. | .remoteAccessArrival .. | .remoteReply ..
    | .ticketReceived .. | .replayNotice .. | .ticketAbort .. | .replayRecordRelease .. | .abortAcknowledgement ..
    | .topkredContribution .. | .contextStopped .. | .ctxsaveComplete .. | .ctxloadRestore .. | .handoverLapse ..
    | .firmwareSwitch .. | .slotRoundBoundary .. | .dataReturn .. | .translationCheckDone .. | .writePerformed ..
    | .invalidationAcknowledged .. | .migrationSwitchEnd .. | .twinWrite .. | .trapWindowWrite ..
    | .xlockCfgWrite .. | .schedXlockWrite .. | .tqCfgWrite .. | .lqCfgWrite .. | .lqBaseWrite .. | .aperCfgWrite ..
    | .ctxRootWrite .. | .numcfgWrite .. | .phcAdjWrite .. | .spsCfgWrite .. | .memCfgWrite ..
    | .systemRegisterWrite .. | .mbReqWrite .. | .workgroupSteal .. | .engineOperationSteal .. | .walkerSteal ..
    | .registrationEviction .. | .fabricError .. | .frameReceived .. | .cxlMemRead .. | .cxlMemWrite ..
    | .msixSignal .. | .beatReceived .. | .basinLinkRetrain .. | .flitReceived .. | .retryRequest ..
    | .reinLinkRetrain .. | .flitCounterRekey .. | .escapeChannelMove .. | .getVersion .. | .getCapabilities ..
    | .negotiateAlgorithms .. | .getDigests .. | .getCertificate .. | .challenge .. | .getMeasurements ..
    | .keyExchange .. | .keyUpdate .. | .claim .. | .handover .. | .setPartition .. | .setSlots .. | .setHost ..
    | .setStream .. | .setRein .. | .imageWrite .. | .imageActivate .. | .firmwareSelfTestFail .. | .rekey ..
    | .setMsix .. | .resetPartition .. | .resetPackage .. | .packageReset .. | .patrolScrub ..
    | .channelSlotAllocation .. | .powerThrottle .. | .flitCounterExhausted .. => true

end Sys2Proof
end

