-- ==== Sys2Proof/Decode.lean ====
section
/-! DEFINITION. The decoder of start words (R166 to R172, R186 to R193) and the encoder of well-formed instructions. A word
that fails step 1 of R178 is a format error; a word with an unassigned opcode decodes to `unassignedOpcode` (R191). -/

namespace Sys2Proof

/-- Bits [lo + n - 1 : lo] of a field. -/
abbrev fld {w : Nat} (x : BitVec w) (lo n : Nat) : BitVec n := x.extractLsb' lo n

/-- The operand that a source field names (R169). -/
def Src.dec (f : BitVec 12) : Src :=
  if f.getLsbD 11 then
    if f.getLsbD 10 then .imm (fld f 0 10)
    else if f.extractLsb' 3 7 == 0 then .latch (fld f 0 3)
    else if f == 0x808 then .zero
    else .bad f
  else .v (fld f 0 11)

/-- The field of a source (R169). -/
def Src.enc : Src → BitVec 12
  | .v n => 0#1 ++ n
  | .latch j => 0x100#9 ++ j
  | .zero => 0x808
  | .bad f => f
  | .imm i => 3#2 ++ i

/-- The codes of `ICond`. -/
def ICond.enc : ICond → BitVec 3
  | .eq => 0 | .ne => 1 | .lt => 2 | .le => 3 | .gt => 4 | .ge => 5

/-- The value of a code of `ICond`, none where it is reserved. -/
def ICond.dec (x : BitVec 3) : Option ICond :=
  match x.toNat with
  | 0 => some .eq | 1 => some .ne | 2 => some .lt | 3 => some .le | 4 => some .gt | 5 => some .ge | _ => none

/-- The codes of `FCond`. -/
def FCond.enc : FCond → BitVec 3
  | .eq => 0 | .ne => 1 | .lt => 2 | .le => 3 | .gt => 4 | .ge => 5 | .num => 6 | .nan => 7

/-- The value of a code of `FCond`, none where it is reserved. -/
def FCond.dec (x : BitVec 3) : Option FCond :=
  match x.toNat with
  | 0 => some .eq | 1 => some .ne | 2 => some .lt | 3 => some .le | 4 => some .gt | 5 => some .ge | 6 => some .num
  | 7 => some .nan | _ => none

/-- The codes of `VoteMode`. -/
def VoteMode.enc : VoteMode → BitVec 2
  | .any => 0 | .all => 1 | .eq => 2 | .ballot => 3

/-- The value of a code of `VoteMode`, none where it is reserved. -/
def VoteMode.dec (x : BitVec 2) : Option VoteMode :=
  match x.toNat with
  | 0 => some .any | 1 => some .all | 2 => some .eq | 3 => some .ballot | _ => none

/-- The codes of `Rnd`. -/
def Rnd.enc : Rnd → BitVec 2
  | .rne => 0 | .rz => 1 | .rdn => 2 | .rup => 3

/-- The value of a code of `Rnd`, none where it is reserved. -/
def Rnd.dec (x : BitVec 2) : Option Rnd :=
  match x.toNat with
  | 0 => some .rne | 1 => some .rz | 2 => some .rdn | 3 => some .rup | _ => none

/-- The codes of `CvtFmt`. -/
def CvtFmt.enc : CvtFmt → BitVec 4
  | .f32 => 0 | .bf16 => 1 | .f16 => 2 | .s8 => 3 | .u8 => 4 | .s32 => 5 | .s64 => 6

/-- The value of a code of `CvtFmt`, none where it is reserved. -/
def CvtFmt.dec (x : BitVec 4) : Option CvtFmt :=
  match x.toNat with
  | 0 => some .f32 | 1 => some .bf16 | 2 => some .f16 | 3 => some .s8 | 4 => some .u8 | 5 => some .s32
  | 6 => some .s64 | _ => none

/-- The codes of `ShflMode`. -/
def ShflMode.enc : ShflMode → BitVec 2
  | .idx => 0 | .up => 1 | .down => 2 | .xor => 3

/-- The value of a code of `ShflMode`, none where it is reserved. -/
def ShflMode.dec (x : BitVec 2) : Option ShflMode :=
  match x.toNat with
  | 0 => some .idx | 1 => some .up | 2 => some .down | 3 => some .xor | _ => none

/-- The codes of `RedOp`. -/
def RedOp.enc : RedOp → BitVec 3
  | .add => 0 | .min => 1 | .max => 2 | .and => 3 | .or => 4 | .xor => 5

/-- The value of a code of `RedOp`, none where it is reserved. -/
def RedOp.dec (x : BitVec 3) : Option RedOp :=
  match x.toNat with
  | 0 => some .add | 1 => some .min | 2 => some .max | 3 => some .and | 4 => some .or | 5 => some .xor | _ => none

/-- The codes of `RedTy`. -/
def RedTy.enc : RedTy → BitVec 2
  | .s32 => 0 | .u32 => 1 | .f32 => 2 | .s64 => 3

/-- The value of a code of `RedTy`, none where it is reserved. -/
def RedTy.dec (x : BitVec 2) : Option RedTy :=
  match x.toNat with
  | 0 => some .s32 | 1 => some .u32 | 2 => some .f32 | 3 => some .s64 | _ => none

/-- The codes of `Width`. -/
def Width.enc : Width → BitVec 3
  | .b32 => 0 | .b64 => 1 | .u8 => 2 | .s8 => 3 | .u16 => 4 | .s16 => 5 | .b128 => 6

/-- The value of a code of `Width`, none where it is reserved. -/
def Width.dec (x : BitVec 3) : Option Width :=
  match x.toNat with
  | 0 => some .b32 | 1 => some .b64 | 2 => some .u8 | 3 => some .s8 | 4 => some .u16 | 5 => some .s16
  | 6 => some .b128 | _ => none

/-- The codes of `Scope`. -/
def Scope.enc : Scope → BitVec 3
  | .core => 0 | .clus => 1 | .die => 2 | .pkg => 3 | .dom => 4

/-- The value of a code of `Scope`, none where it is reserved. -/
def Scope.dec (x : BitVec 3) : Option Scope :=
  match x.toNat with
  | 0 => some .core | 1 => some .clus | 2 => some .die | 3 => some .pkg | 4 => some .dom | _ => none

/-- The codes of `Hint`. -/
def Hint.enc : Hint → BitVec 2
  | .none => 0 | .stream => 1 | .keep => 2 | .nc => 3

/-- The value of a code of `Hint`, none where it is reserved. -/
def Hint.dec (x : BitVec 2) : Option Hint :=
  match x.toNat with
  | 0 => some .none | 1 => some .stream | 2 => some .keep | 3 => some .nc | _ => Option.none

/-- The codes of `Order`. -/
def Order.enc : Order → BitVec 2
  | .none => 0 | .acq => 1 | .rel => 2 | .acqrel => 3

/-- The value of a code of `Order`, none where it is reserved. -/
def Order.dec (x : BitVec 2) : Option Order :=
  match x.toNat with
  | 0 => some .none | 1 => some .acq | 2 => some .rel | 3 => some .acqrel | _ => Option.none

/-- The codes of `AtomOp`. -/
def AtomOp.enc : AtomOp → BitVec 4
  | .add => 0 | .min => 1 | .max => 2 | .and => 3 | .or => 4 | .xor => 5 | .exch => 6 | .incWrap => 7
  | .decWrap => 8 | .fadd => 9 | .fmin => 10 | .fmax => 11

/-- The value of a code of `AtomOp`, none where it is reserved. -/
def AtomOp.dec (x : BitVec 4) : Option AtomOp :=
  match x.toNat with
  | 0 => some .add | 1 => some .min | 2 => some .max | 3 => some .and | 4 => some .or | 5 => some .xor
  | 6 => some .exch | 7 => some .incWrap | 8 => some .decWrap | 9 => some .fadd | 10 => some .fmin
  | 11 => some .fmax | _ => none

/-- The codes of `AtomTy`. -/
def AtomTy.enc : AtomTy → BitVec 2
  | .s32 => 0 | .u32 => 1 | .s64 => 2 | .u64 => 3

/-- The value of a code of `AtomTy`, none where it is reserved. -/
def AtomTy.dec (x : BitVec 2) : Option AtomTy :=
  match x.toNat with
  | 0 => some .s32 | 1 => some .u32 | 2 => some .s64 | 3 => some .u64 | _ => none

/-- The codes of `CctlOp`. -/
def CctlOp.enc : CctlOp → BitVec 2
  | .il1 => 0 | .icode => 1

/-- The value of a code of `CctlOp`, none where it is reserved. -/
def CctlOp.dec (x : BitVec 2) : Option CctlOp :=
  match x.toNat with
  | 0 => some .il1 | 1 => some .icode | _ => none

/-- The codes of `MFmt`. -/
def MFmt.enc : MFmt → BitVec 3
  | .bf16 => 0 | .bfp8 => 1 | .bfp4 => 2 | .int8 => 3

/-- The value of a code of `MFmt`, none where it is reserved. -/
def MFmt.dec (x : BitVec 3) : Option MFmt :=
  match x.toNat with
  | 0 => some .bf16 | 1 => some .bfp8 | 2 => some .bfp4 | 3 => some .int8 | _ => none

/-- The codes of `MOp`. -/
def MOp.enc : MOp → BitVec 3
  | .mad => 0 | .minplus => 1 | .maxplus => 2 | .maxtimes => 3 | .orand => 4

/-- The value of a code of `MOp`, none where it is reserved. -/
def MOp.dec (x : BitVec 3) : Option MOp :=
  match x.toNat with
  | 0 => some .mad | 1 => some .minplus | 2 => some .maxplus | 3 => some .maxtimes | 4 => some .orand | _ => none

/-- The codes of `DrFmt`. -/
def DrFmt.enc : DrFmt → BitVec 3
  | .f32 => 0 | .bf16 => 1 | .bfp8 => 2 | .bfp4 => 3 | .s32 => 4 | .s8 => 5

/-- The value of a code of `DrFmt`, none where it is reserved. -/
def DrFmt.dec (x : BitVec 3) : Option DrFmt :=
  match x.toNat with
  | 0 => some .f32 | 1 => some .bf16 | 2 => some .bfp8 | 3 => some .bfp4 | 4 => some .s32 | 5 => some .s8
  | _ => none

/-- The codes of `DrTr`. -/
def DrTr.enc : DrTr → BitVec 2
  | .none => 0 | .h16 => 1 | .h32 => 2

/-- The value of a code of `DrTr`, none where it is reserved. -/
def DrTr.dec (x : BitVec 2) : Option DrTr :=
  match x.toNat with
  | 0 => some .none | 1 => some .h16 | 2 => some .h32 | _ => Option.none

/-- The codes of `SretAct`. -/
def SretAct.enc : SretAct → BitVec 2
  | .resume => 0 | .fail => 1 | .exit => 2

/-- The value of a code of `SretAct`, none where it is reserved. -/
def SretAct.dec (x : BitVec 2) : Option SretAct :=
  match x.toNat with
  | 0 => some .resume | 1 => some .fail | 2 => some .exit | _ => none

/-- The codes of `TlbMode`. -/
def TlbMode.enc : TlbMode → BitVec 2
  | .page => 0 | .range => 1 | .ctx => 2 | .all => 3

/-- The value of a code of `TlbMode`, none where it is reserved. -/
def TlbMode.dec (x : BitVec 2) : Option TlbMode :=
  match x.toNat with
  | 0 => some .page | 1 => some .range | 2 => some .ctx | 3 => some .all | _ => none

/-- The codes of `KillScope`. -/
def KillScope.enc : KillScope → BitVec 2
  | .wg => 0 | .launch => 1 | .ctx => 2

/-- The value of a code of `KillScope`, none where it is reserved. -/
def KillScope.dec (x : BitVec 2) : Option KillScope :=
  match x.toNat with
  | 0 => some .wg | 1 => some .launch | 2 => some .ctx | _ => none

/-- The codes of `Cop`. -/
def Cop.enc : Cop → BitVec 8
  | .nop => 0 | .iadd => 1 | .isub => 2 | .imul => 3 | .and => 4 | .or => 5 | .xor => 6 | .shl => 7 | .shr => 8
  | .sar => 9 | .mov => 10 | .imin => 11 | .imax => 12 | .fadd => 13 | .fsub => 14 | .fmul => 15 | .fmin => 16
  | .fmax => 17 | .hadd2 => 18 | .hmul2 => 19 | .lds => 20 | .sts => 21

/-- The value of a code of `Cop`, none where it is reserved. -/
def Cop.dec (x : BitVec 8) : Option Cop :=
  match x.toNat with
  | 0 => some .nop | 1 => some .iadd | 2 => some .isub | 3 => some .imul | 4 => some .and | 5 => some .or
  | 6 => some .xor | 7 => some .shl | 8 => some .shr | 9 => some .sar | 10 => some .mov | 11 => some .imin
  | 12 => some .imax | 13 => some .fadd | 14 => some .fsub | 15 => some .fmul | 16 => some .fmin | 17 => some .fmax
  | 18 => some .hadd2 | 19 => some .hmul2 | 20 => some .lds | 21 => some .sts | _ => none

/-- bfmt of MWLOAD (R267, R270). -/
def MFmt.enc2 (m : MFmt) : BitVec 2 := fld m.enc 0 2

/-- The B format of a code (R267). -/
def MFmt.dec2 (x : BitVec 2) : MFmt :=
  match x.toNat with
  | 0 => .bf16 | 1 => .bfp8 | 2 => .bfp4 | _ => .int8

/-- c[9:4] of a compare (R203). -/
def Comb.enc : Comb → BitVec 6
  | .none => 0
  | .and q => 1#2 ++ q
  | .or q => 2#2 ++ q

/-- q must be 0 without a combining modifier, and code 3 is reserved (R203). -/
def Comb.dec (x : BitVec 6) : Option Comb :=
  match (fld x 4 2).toNat with
  | 0 => if fld x 0 4 == 0 then some .none else Option.none
  | 1 => some (.and (fld x 0 4))
  | 2 => some (.or (fld x 0 4))
  | _ => Option.none

/-- c[8:0] of SREAD and SWRITE (R205). -/
def SpecOp.enc : SpecOp → BitVec 9
  | .special n => 0#1 ++ n
  | .scalar n => 4#3 ++ n

/-- c[7:6] must be zero for a scalar register (R205). -/
def SpecOp.dec (x : BitVec 9) : Option SpecOp :=
  if x.getLsbD 8 then (if fld x 6 2 == 0 then some (.scalar (fld x 0 6)) else none) else some (.special (fld x 0 8))

/-- c of a short or long target (R208). -/
def Target.enc : Target → BitVec 12
  | .short off => 0#1 ++ off
  | .long _ => 0x800

/-- The extension word of a target. -/
def Target.ext : Target → Option DWord
  | .short _ => none
  | .long t => some t

/-- c[10:0] must be zero in the long form (R208). -/
def Target.dec (c : BitVec 12) (x : DWord) : Option Target :=
  if c.getLsbD 11 then (if fld c 0 11 == 0 then some (.long x) else none) else some (.short (fld c 0 11))

/-- c of LD, ST, LDA, STREL (R235). -/
def MemMod.enc (m : MemMod) : BitVec 12 :=
  BitVec.ofBool m.ext.isSome ++ 0#3 ++ m.hint.enc ++ m.scope.enc ++ m.width.enc

/-- The modifiers of LD, ST, LDA, STREL (R235). -/
def MemMod.dec (c : BitVec 12) (x : DWord) : Option MemMod :=
  (Width.dec (fld c 0 3)).bind fun width =>
  (Scope.dec (fld c 3 3)).bind fun scope =>
  (Hint.dec (fld c 6 2)).bind fun hint =>
  if fld c 8 3 == 0 then some ⟨width, scope, hint, if c.getLsbD 11 then some x else none⟩ else none

/-- c of ATOM, SATOM, RED (R243). -/
def AtomMod.enc (m : AtomMod) : BitVec 12 :=
  0#1 ++ m.scope.enc ++ m.order.enc ++ m.ty.enc ++ m.op.enc

/-- The modifiers of ATOM, SATOM, RED (R243). -/
def AtomMod.dec (c : BitVec 12) : Option AtomMod :=
  (AtomOp.dec (fld c 0 4)).bind fun op =>
  (AtomTy.dec (fld c 4 2)).bind fun ty =>
  (Order.dec (fld c 6 2)).bind fun order =>
  (Scope.dec (fld c 8 3)).bind fun scope =>
  if c.getLsbD 11 then none else some ⟨op, ty, order, scope⟩

/-- c of class 9 (R293). -/
def EngMod.enc (m : EngMod) : BitVec 12 :=
  BitVec.ofBool m.pb ++ 0#1 ++ BitVec.ofBool m.x9 ++ BitVec.ofBool m.x8 ++ BitVec.ofBool m.prom ++ BitVec.ofBool m.bo ++
    m.scope.enc ++ m.stream

/-- The modifiers of class 9 (R293); c[10] is zero in every row. -/
def EngMod.dec (c : BitVec 12) : Option EngMod :=
  (Scope.dec (fld c 3 3)).bind fun scope =>
  if c.getLsbD 10 then none
  else some ⟨fld c 0 3, scope, c.getLsbD 6, c.getLsbD 7, c.getLsbD 8, c.getLsbD 9, c.getLsbD 11⟩

/-- c of the basin commands (R311). -/
def BasMod.enc (m : BasMod) : BitVec 12 := BitVec.ofBool m.pb ++ 0#5 ++ m.scope.enc ++ m.stream

/-- The modifiers of the basin commands (R311). -/
def BasMod.dec (c : BitVec 12) : Option BasMod :=
  (Scope.dec (fld c 3 3)).bind fun scope =>
  if fld c 6 5 == 0 then some ⟨fld c 0 3, scope, c.getLsbD 11⟩ else none

/-- A compact half's bits (R171). -/
def Half.enc (x : Half) : BitVec 31 := x.cop.enc ++ x.d ++ x.s.enc ++ BitVec.ofBool x.nw

/-- The fields of a compact half with an assigned code (R171). -/
def Half.dec (x : BitVec 31) : Option Half :=
  (Cop.dec (fld x 23 8)).map fun cop => ⟨cop, fld x 13 10, Src.dec (fld x 1 12), x.getLsbD 0⟩

/-- The fields of a format F word (R166). -/
structure FWord where
  op : BitVec 10
  h  : Hdr
  a  : BitVec 12
  b  : BitVec 12
  c  : BitVec 12
  deriving DecidableEq, Repr

/-- The fields of a word whose bit 63 is clear (R166). -/
def unpackF (w : DWord) : FWord :=
  ⟨fld w 53 10, ⟨fld w 49 4, w.getLsbD 48, fld w 37 11, w.getLsbD 36⟩, fld w 24 12, fld w 12 12, fld w 0 12⟩

/-- The word of a format F instruction (R166). -/
def packF (f : FWord) : DWord :=
  0#1 ++ f.op ++ f.h.pred ++ BitVec.ofBool f.h.neg ++ f.h.d ++ BitVec.ofBool f.h.nw ++ f.a ++ f.b ++ f.c

/-- An instruction whose step 1 checks hold, or a format error. -/
def chk (ok : Bool) (i : Instr) : Option Instr := if ok then some i else none

/-- Class 0 (R188, R189). -/
def decode0 (f : FWord) (x : DWord) : Option Instr :=
  match (fld f.op 0 6).toNat with
  | 0 =>
    chk (f.h.okV && f.c == 0)
      (.iadd f.h (Src.dec f.a) (Src.dec f.b))
  | 1 =>
    chk (f.h.okV && f.c == 0)
      (.isub f.h (Src.dec f.a) (Src.dec f.b))
  | 2 =>
    chk (f.h.okV && f.c == 0)
      (.imul f.h (Src.dec f.a) (Src.dec f.b))
  | 3 =>
    chk (f.h.okV && fld f.c 1 11 == 0)
      (.imulh f.h (Src.dec f.a) (Src.dec f.b) (f.c.getLsbD 0))
  | 4 =>
    chk (f.h.okV)
      (.imad f.h (Src.dec f.a) (Src.dec f.b) (Src.dec f.c))
  | 5 =>
    chk (f.h.okV && fld f.c 1 11 == 0)
      (.idiv f.h (Src.dec f.a) (Src.dec f.b) (f.c.getLsbD 0))
  | 6 =>
    chk (f.h.okV && fld f.c 1 11 == 0)
      (.irem f.h (Src.dec f.a) (Src.dec f.b) (f.c.getLsbD 0))
  | 7 =>
    chk (f.h.okV && fld f.c 1 11 == 0)
      (.imin f.h (Src.dec f.a) (Src.dec f.b) (f.c.getLsbD 0))
  | 8 =>
    chk (f.h.okV && fld f.c 1 11 == 0)
      (.imax f.h (Src.dec f.a) (Src.dec f.b) (f.c.getLsbD 0))
  | 9 =>
    chk (f.h.okV && f.b == 0x808 && f.c == 0)
      (.iabs f.h (Src.dec f.a))
  | 10 =>
    chk (f.h.okV && f.b == 0x808 && f.c == 0)
      (.ineg f.h (Src.dec f.a))
  | 11 =>
    chk (f.h.okV && fld f.c 1 11 == 0)
      (.iaddsat f.h (Src.dec f.a) (Src.dec f.b) (f.c.getLsbD 0))
  | 12 =>
    chk (f.h.okV && fld f.c 1 11 == 0)
      (.isubsat f.h (Src.dec f.a) (Src.dec f.b) (f.c.getLsbD 0))
  | 13 =>
    chk (f.h.okV && fld f.c 1 11 == 0)
      (.isad f.h (Src.dec f.a) (Src.dec f.b) (f.c.getLsbD 0))
  | 14 =>
    chk (f.h.okV && fld f.c 2 10 == 0)
      (.idot4 f.h (Src.dec f.a) (Src.dec f.b) (f.c.getLsbD 0) (f.c.getLsbD 1))
  | 15 =>
    chk (f.h.okV && f.c == 0)
      (.iadd64 f.h (Src.dec f.a) (Src.dec f.b))
  | 16 =>
    chk (f.h.okV && f.c == 0)
      (.isub64 f.h (Src.dec f.a) (Src.dec f.b))
  | 17 =>
    chk (f.h.okV && f.c == 0)
      (.imul64 f.h (Src.dec f.a) (Src.dec f.b))
  | 18 =>
    chk (f.h.okV)
      (.imad64 f.h (Src.dec f.a) (Src.dec f.b) (Src.dec f.c))
  | 19 =>
    chk (f.h.okV && fld f.c 4 7 == 0)
      (.lea f.h (Src.dec f.a) (Src.dec f.b) (fld f.c 0 3) (f.c.getLsbD 3) (if f.c.getLsbD 11 then some x else none))
  | 20 =>
    chk (f.h.okV && f.a == 0x808 && f.b == 0x808 && f.c == 0)
      (.movi f.h x)
  | 21 =>
    chk (f.h.okV && f.a == 0x808 && f.b == 0x808 && f.c == 0)
      (.movi64 f.h x)
  | _ => none

/-- Class 1 (R188, R189). -/
def decode1 (f : FWord) (_ : DWord) : Option Instr :=
  match (fld f.op 0 6).toNat with
  | 0 =>
    chk (f.h.okV && f.c == 0)
      (.and f.h (Src.dec f.a) (Src.dec f.b))
  | 1 =>
    chk (f.h.okV && f.c == 0)
      (.or f.h (Src.dec f.a) (Src.dec f.b))
  | 2 =>
    chk (f.h.okV && f.c == 0)
      (.xor f.h (Src.dec f.a) (Src.dec f.b))
  | 3 =>
    chk (f.h.okV && f.b == 0x808 && f.c == 0)
      (.not f.h (Src.dec f.a))
  | 4 =>
    chk (f.h.okV && f.c == 0)
      (.andn f.h (Src.dec f.a) (Src.dec f.b))
  | 5 =>
    chk (f.h.okV && f.c == 0)
      (.shl f.h (Src.dec f.a) (Src.dec f.b))
  | 6 =>
    chk (f.h.okV && f.c == 0)
      (.shr f.h (Src.dec f.a) (Src.dec f.b))
  | 7 =>
    chk (f.h.okV && f.c == 0)
      (.sar f.h (Src.dec f.a) (Src.dec f.b))
  | 8 =>
    chk (f.h.okV && fld f.c 1 11 == 0)
      (.rot f.h (Src.dec f.a) (Src.dec f.b) (f.c.getLsbD 0))
  | 9 =>
    chk (f.h.okV && f.c == 0)
      (.shl64 f.h (Src.dec f.a) (Src.dec f.b))
  | 10 =>
    chk (f.h.okV && f.c == 0)
      (.shr64 f.h (Src.dec f.a) (Src.dec f.b))
  | 11 =>
    chk (f.h.okV && f.c == 0)
      (.sar64 f.h (Src.dec f.a) (Src.dec f.b))
  | 12 =>
    chk (f.h.okV && f.b == 0x808 && f.c == 0)
      (.popc f.h (Src.dec f.a))
  | 13 =>
    chk (f.h.okV && f.b == 0x808 && f.c == 0)
      (.clz f.h (Src.dec f.a))
  | 14 =>
    chk (f.h.okV && f.b == 0x808 && f.c == 0)
      (.ctz f.h (Src.dec f.a))
  | 15 =>
    chk (f.h.okV && f.b == 0x808 && f.c == 0)
      (.brev f.h (Src.dec f.a))
  | 16 =>
    chk (f.h.okV && f.b == 0x808)
      (.bfe f.h (Src.dec f.a) (fld f.c 0 5) (fld f.c 5 6) (f.c.getLsbD 11))
  | 17 =>
    chk (f.h.okV && fld f.c 11 1 == 0)
      (.bfi f.h (Src.dec f.a) (Src.dec f.b) (fld f.c 0 5) (fld f.c 5 6))
  | 18 =>
    chk (f.h.okV)
      (.bysel f.h (Src.dec f.a) (Src.dec f.b) (fld f.c 0 12))
  | 19 =>
    (ICond.dec (fld f.c 0 3)).bind fun cond =>
    (Comb.dec (fld f.c 4 6)).bind fun comb =>
    chk (f.h.okP && fld f.c 10 2 == 0)
      (.icmp f.h (Src.dec f.a) (Src.dec f.b) cond (f.c.getLsbD 3) comb)
  | 20 =>
    (ICond.dec (fld f.c 0 3)).bind fun cond =>
    (Comb.dec (fld f.c 4 6)).bind fun comb =>
    chk (f.h.okP && fld f.c 10 2 == 0)
      (.icmp64 f.h (Src.dec f.a) (Src.dec f.b) cond (f.c.getLsbD 3) comb)
  | 21 =>
    chk (f.h.okP && f.a == 0x808 && f.b == 0x808)
      (.plog f.h (fld f.c 0 4) (fld f.c 4 4) (fld f.c 8 4))
  | 22 =>
    chk (f.h.okV && f.b == 0x808 && f.c == 0)
      (.mov f.h (Src.dec f.a))
  | 23 =>
    chk (f.h.okV && f.b == 0x808 && f.c == 0)
      (.mov64 f.h (Src.dec f.a))
  | 24 =>
    chk (f.h.okV && fld f.c 5 7 == 0)
      (.sel f.h (Src.dec f.a) (Src.dec f.b) (fld f.c 0 4) (f.c.getLsbD 4))
  | 25 =>
    chk (f.h.okV && f.a == 0x808 && f.b == 0x808 && f.c == 0)
      (.p2v f.h)
  | 26 =>
    chk (f.h.okN && f.c == 0)
      (.v2p f.h (Src.dec f.a) (Src.dec f.b))
  | 27 =>
    (SpecOp.dec (fld f.c 0 9)).bind fun r =>
    chk (f.h.okV && f.a == 0x808 && f.b == 0x808 && fld f.c 10 2 == 0)
      (.sread f.h r (f.c.getLsbD 9))
  | 28 =>
    (SpecOp.dec (fld f.c 0 9)).bind fun r =>
    chk (f.h.okN && f.b == 0x808 && fld f.c 10 2 == 0)
      (.swrite f.h r (f.c.getLsbD 9) (Src.dec f.a))
  | _ => none

/-- Class 2 (R188, R189). -/
def decode2 (f : FWord) (x : DWord) : Option Instr :=
  match (fld f.op 0 6).toNat with
  | 0 =>
    (Target.dec f.c x).bind fun t =>
    chk (f.h.okN && f.a == 0x808 && f.b == 0x808)
      (.bra f.h t)
  | 1 =>
    chk (f.h.okN && f.b == 0x808 && f.c == 0)
      (.brx f.h (Src.dec f.a))
  | 2 =>
    (Target.dec f.c x).bind fun t =>
    chk (f.h.okA && f.a == 0x808 && f.b == 0x808)
      (.call f.h t)
  | 3 =>
    chk (f.h.okA && f.b == 0x808 && f.c == 0)
      (.callx f.h (Src.dec f.a))
  | 4 =>
    chk (f.h.okN && f.b == 0x808 && f.c == 0)
      (.ret f.h (Src.dec f.a))
  | 5 =>
    chk (f.h.okN && f.a == 0x808 && f.b == 0x808 && f.c == 0)
      (.exit f.h)
  | 6 =>
    chk (f.h.okN && f.a == 0x808 && f.b == 0x808 && f.c == 0)
      (.nop f.h)
  | 7 =>
    chk (f.h.okN && f.a == 0x808 && f.b == 0x808 && f.c == 0)
      (.yield f.h)
  | 8 =>
    chk (f.h.okP && f.a == 0x808 && f.b == 0x808 && f.c == 0)
      (.elect f.h)
  | 9 =>
    chk (f.h.okN && f.a == 0x808 && f.b == 0x808 && f.c == 0)
      (.wake f.h)
  | 10 =>
    chk (f.h.okN && f.a == 0x808 && f.b == 0x808 && f.c == 0)
      (.cbar f.h)
  | 11 =>
    chk (f.h.okN && f.a == 0x808 && f.b == 0x808 && f.c == 0)
      (.wgbar f.h)
  | 12 =>
    chk (f.h.okN && f.a == 0x808 && f.b == 0x808 && f.c == 0)
      (.tilebar f.h)
  | 13 =>
    (VoteMode.dec (fld f.c 5 2)).bind fun mode =>
    chk ((if mode == .ballot then f.h.okA else f.h.okP) && f.a == 0x808 && f.b == 0x808 && fld f.c 7 5 == 0)
      (.vote f.h (fld f.c 0 4) (f.c.getLsbD 4) mode)
  | 14 =>
    chk (f.h.okN && f.b == 0x808 && fld f.c 5 7 == 0)
      (.assert f.h (fld f.c 0 4) (f.c.getLsbD 4) (Src.dec f.a))
  | 15 =>
    chk (f.h.okN && f.a == 0x808 && f.b == 0x808 && fld f.c 8 4 == 0)
      (.brk f.h (fld f.c 0 8))
  | 16 =>
    chk (f.h.okN && f.b == 0x808 && fld f.c 8 4 == 0)
      (.trap f.h (fld f.c 0 8) (Src.dec f.a))
  | 17 =>
    chk (f.h.okN && f.b == 0x808 && f.c == 0)
      (.sleepuntil f.h (Src.dec f.a))
  | 18 =>
    (Target.dec f.c x).bind fun t =>
    chk (f.h.okA && f.b == 0x808)
      (.loopd f.h (Src.dec f.a) t)
  | 19 =>
    chk (f.h.okP && f.c == 0)
      (.launch f.h (Src.dec f.a) (Src.dec f.b))
  | _ => none

/-- Class 3 (R188, R189). -/
def decode3 (f : FWord) (_ : DWord) : Option Instr :=
  match (fld f.op 0 6).toNat with
  | 0 =>
    (Rnd.dec (fld f.c 0 2)).bind fun rm =>
    chk (f.h.okV && fld f.c 2 10 == 0)
      (.fadd f.h (Src.dec f.a) (Src.dec f.b) rm)
  | 1 =>
    (Rnd.dec (fld f.c 0 2)).bind fun rm =>
    chk (f.h.okV && fld f.c 2 10 == 0)
      (.fsub f.h (Src.dec f.a) (Src.dec f.b) rm)
  | 2 =>
    (Rnd.dec (fld f.c 0 2)).bind fun rm =>
    chk (f.h.okV && fld f.c 2 10 == 0)
      (.fmul f.h (Src.dec f.a) (Src.dec f.b) rm)
  | 3 =>
    chk (f.h.okV)
      (.ffma f.h (Src.dec f.a) (Src.dec f.b) (Src.dec f.c))
  | 4 =>
    chk (f.h.okV && fld f.c 0 4 == 0 && fld f.c 5 7 == 0)
      (.fmin f.h (Src.dec f.a) (Src.dec f.b) (f.c.getLsbD 4))
  | 5 =>
    chk (f.h.okV && fld f.c 0 4 == 0 && fld f.c 5 7 == 0)
      (.fmax f.h (Src.dec f.a) (Src.dec f.b) (f.c.getLsbD 4))
  | 6 =>
    chk (f.h.okV && f.b == 0x808 && f.c == 0)
      (.fabs f.h (Src.dec f.a))
  | 7 =>
    chk (f.h.okV && f.b == 0x808 && f.c == 0)
      (.fneg f.h (Src.dec f.a))
  | 8 =>
    (FCond.dec (fld f.c 0 3)).bind fun cond =>
    (Comb.dec (fld f.c 4 6)).bind fun comb =>
    chk (f.h.okP && fld f.c 3 1 == 0 && fld f.c 10 2 == 0)
      (.fcmp f.h (Src.dec f.a) (Src.dec f.b) cond comb)
  | 9 =>
    (Rnd.dec (fld f.c 0 2)).bind fun rm =>
    chk (f.h.okV && f.b == 0x808 && fld f.c 2 10 == 0)
      (.frcp f.h (Src.dec f.a) rm)
  | 10 =>
    (Rnd.dec (fld f.c 0 2)).bind fun rm =>
    chk (f.h.okV && f.b == 0x808 && fld f.c 2 10 == 0)
      (.frsq f.h (Src.dec f.a) rm)
  | 11 =>
    (Rnd.dec (fld f.c 0 2)).bind fun rm =>
    chk (f.h.okV && f.b == 0x808 && fld f.c 2 10 == 0)
      (.fsqrt f.h (Src.dec f.a) rm)
  | 12 =>
    (Rnd.dec (fld f.c 0 2)).bind fun rm =>
    chk (f.h.okV && fld f.c 2 10 == 0)
      (.fdiv f.h (Src.dec f.a) (Src.dec f.b) rm)
  | 13 =>
    (Rnd.dec (fld f.c 0 2)).bind fun rm =>
    chk (f.h.okV && f.b == 0x808 && fld f.c 2 10 == 0)
      (.fexp2 f.h (Src.dec f.a) rm)
  | 14 =>
    (Rnd.dec (fld f.c 0 2)).bind fun rm =>
    chk (f.h.okV && f.b == 0x808 && fld f.c 2 10 == 0)
      (.flog2 f.h (Src.dec f.a) rm)
  | 15 =>
    chk (f.h.okV && f.b == 0x808 && f.c == 0)
      (.fclass f.h (Src.dec f.a))
  | 16 =>
    (Rnd.dec (fld f.c 0 2)).bind fun rm =>
    chk (f.h.okV && fld f.c 3 9 == 0)
      (.hadd2 f.h (Src.dec f.a) (Src.dec f.b) (f.c.getLsbD 2) rm)
  | 17 =>
    (Rnd.dec (fld f.c 0 2)).bind fun rm =>
    chk (f.h.okV && fld f.c 3 9 == 0)
      (.hmul2 f.h (Src.dec f.a) (Src.dec f.b) (f.c.getLsbD 2) rm)
  | 18 =>
    (Rnd.dec (fld f.c 0 2)).bind fun rm =>
    chk (f.h.okA && fld f.c 3 9 == 0)
      (.hfma2 f.h (Src.dec f.a) (Src.dec f.b) (f.c.getLsbD 2) rm)
  | 19 =>
    chk (f.h.okV && fld f.c 0 2 == 0 && fld f.c 5 7 == 0)
      (.hminmax2 f.h (Src.dec f.a) (Src.dec f.b) (f.c.getLsbD 2) (f.c.getLsbD 3) (f.c.getLsbD 4))
  | 20 =>
    (Rnd.dec (fld f.c 0 2)).bind fun rm =>
    chk (f.h.okA && fld f.c 3 9 == 0)
      (.fdot2 f.h (Src.dec f.a) (Src.dec f.b) (f.c.getLsbD 2) rm)
  | _ => none

/-- Class 4 (R188, R189). -/
def decode4 (f : FWord) (_ : DWord) : Option Instr :=
  match (fld f.op 0 6).toNat with
  | 0 =>
    (CvtFmt.dec (fld f.c 0 4)).bind fun src =>
    (CvtFmt.dec (fld f.c 4 4)).bind fun dst =>
    (Rnd.dec (fld f.c 8 2)).bind fun rm =>
    chk (f.h.okV && f.b == 0x808 && fld f.c 11 1 == 0 && cvtOk src dst rm (f.c.getLsbD 10))
      (.cvt f.h (Src.dec f.a) src dst rm (f.c.getLsbD 10))
  | 1 =>
    chk (f.h.okA && f.b == 0x808 && fld f.c 1 11 == 0)
      (.packbfp f.h (Src.dec f.a) (f.c.getLsbD 0))
  | 2 =>
    chk (f.h.okA && f.b == 0x808 && fld f.c 1 11 == 0)
      (.unpackbfp f.h (Src.dec f.a) (f.c.getLsbD 0))
  | 3 =>
    chk (f.h.okA && f.b == 0x808 && fld f.c 1 11 == 0)
      (.hadam f.h (Src.dec f.a) (f.c.getLsbD 0))
  | 4 =>
    (ShflMode.dec (fld f.c 0 2)).bind fun mode =>
    chk (f.h.okA && fld f.c 6 6 == 0 && decide ((fld f.c 2 3).toNat < 6))
      (.shfl f.h (Src.dec f.a) (Src.dec f.b) mode (fld f.c 2 3) (f.c.getLsbD 5))
  | 5 =>
    chk (f.h.okA && f.b == 0x808 && fld f.c 6 6 == 0)
      (.bcast f.h (Src.dec f.a) (fld f.c 0 5) (f.c.getLsbD 5))
  | 6 =>
    (RedOp.dec (fld f.c 0 3)).bind fun op =>
    (RedTy.dec (fld f.c 3 2)).bind fun ty =>
    (Rnd.dec (fld f.c 5 2)).bind fun rm =>
    chk (f.h.okA && f.b == 0x808 && fld f.c 7 5 == 0 && redOk op ty rm)
      (.redux f.h (Src.dec f.a) op ty rm)
  | 7 =>
    (RedOp.dec (fld f.c 0 3)).bind fun op =>
    (RedTy.dec (fld f.c 3 2)).bind fun ty =>
    (Rnd.dec (fld f.c 5 2)).bind fun rm =>
    chk (f.h.okA && f.b == 0x808 && fld f.c 8 4 == 0 && redOk op ty rm)
      (.scan f.h (Src.dec f.a) op ty rm (f.c.getLsbD 7))
  | 8 =>
    chk (f.h.okA && f.b == 0x808 && fld f.c 1 4 == 0 && fld f.c 6 6 == 0)
      (.matchv f.h (Src.dec f.a) (f.c.getLsbD 0) (f.c.getLsbD 5))
  | _ => none

/-- Class 5 (R188, R189). -/
def decode5 (f : FWord) (x : DWord) : Option Instr :=
  match (fld f.op 0 6).toNat with
  | 0 =>
    (MemMod.dec f.c x).bind fun m =>
    chk (f.h.okA)
      (.ld f.h (Src.dec f.a) (Src.dec f.b) m)
  | 1 =>
    (MemMod.dec f.c x).bind fun m =>
    chk (f.h.okN && m.width.storeOk && m.hint != .nc)
      (.st f.h (Src.dec f.a) (Src.dec f.b) m)
  | 2 =>
    (MemMod.dec f.c x).bind fun m =>
    chk (f.h.okA && m.width != .b128)
      (.lda f.h (Src.dec f.a) (Src.dec f.b) m)
  | 3 =>
    (MemMod.dec f.c x).bind fun m =>
    chk (f.h.okN && m.width.storeOk && m.hint != .nc && m.width != .b128)
      (.strel f.h (Src.dec f.a) (Src.dec f.b) m)
  | 4 =>
    (Width.dec (fld f.c 0 3)).bind fun w =>
    chk (f.h.okA && fld f.c 3 9 == 0)
      (.lds f.h (Src.dec f.a) (Src.dec f.b) w)
  | 5 =>
    (Width.dec (fld f.c 0 3)).bind fun w =>
    chk (f.h.okN && fld f.c 11 1 == 0 && w.storeOk)
      (.sts f.h (Src.dec f.a) (Src.dec f.b) w (fld f.c 3 8))
  | 6 =>
    chk (f.h.okA && fld f.c 7 5 == 0)
      (.ldx f.h (Src.dec f.a) (Src.dec f.b) (fld f.c 0 6) (f.c.getLsbD 6))
  | 7 =>
    chk (f.h.okN && fld f.c 5 6 == 0)
      (.prefetch f.h (Src.dec f.a) (Src.dec f.b) (f.c.getLsbD 0) (fld f.c 1 4) (if f.c.getLsbD 11 then some x else none))
  | 8 =>
    chk (f.h.okA && f.b == 0x808 && f.c == 0)
      (.smap f.h (Src.dec f.a))
  | 9 =>
    chk (f.h.okN && f.b == 0x808 && f.c == 0)
      (.sunmap f.h (Src.dec f.a))
  | 10 =>
    chk (f.h.okN && fld f.c 1 11 == 0 && (!(f.c.getLsbD 0) || ((Src.dec f.a) == .zero && (Src.dec f.b) == .zero)))
      (.sflush f.h (Src.dec f.a) (Src.dec f.b) (f.c.getLsbD 0))
  | 11 =>
    chk (f.h.okN && fld f.c 1 11 == 0 && (!(f.c.getLsbD 0) || ((Src.dec f.a) == .zero && (Src.dec f.b) == .zero)))
      (.sinv f.h (Src.dec f.a) (Src.dec f.b) (f.c.getLsbD 0))
  | 12 =>
    (CctlOp.dec (fld f.c 0 2)).bind fun op =>
    chk (f.h.okN && fld f.c 2 10 == 0)
      (.cctl f.h (Src.dec f.a) (Src.dec f.b) op)
  | _ => none

/-- Class 6 (R188, R189). -/
def decode6 (f : FWord) (_ : DWord) : Option Instr :=
  match (fld f.op 0 6).toNat with
  | 0 =>
    (AtomMod.dec f.c).bind fun m =>
    chk (f.h.okA && atomOk m.op m.ty)
      (.atom f.h (Src.dec f.a) (Src.dec f.b) m)
  | 1 =>
    (Order.dec (fld f.c 6 2)).bind fun order =>
    (Scope.dec (fld f.c 8 3)).bind fun scope =>
    chk (f.h.okA && fld f.c 0 5 == 0 && fld f.c 11 1 == 0)
      (.cas f.h (Src.dec f.a) (Src.dec f.b) (f.c.getLsbD 5) order scope)
  | 2 =>
    (AtomMod.dec f.c).bind fun m =>
    chk (f.h.okA && atomOk m.op m.ty && m.scope == .core)
      (.satom f.h (Src.dec f.a) (Src.dec f.b) m)
  | 3 =>
    (AtomMod.dec f.c).bind fun m =>
    chk (f.h.okN && atomOk m.op m.ty)
      (.red f.h (Src.dec f.a) (Src.dec f.b) m)
  | 4 =>
    (Scope.dec (fld f.c 0 3)).bind fun scope =>
    chk (f.h.okN && f.a == 0x808 && f.b == 0x808 && fld f.c 3 9 == 0)
      (.fence f.h scope)
  | 5 =>
    chk (f.h.okN && f.c == 0)
      (.opwait f.h (Src.dec f.a) (Src.dec f.b))
  | 6 =>
    (Scope.dec (fld f.c 0 3)).bind fun scope =>
    chk (f.h.okN && fld f.c 3 9 == 0)
      (.boadd f.h (Src.dec f.a) (Src.dec f.b) scope)
  | 7 =>
    (Scope.dec (fld f.c 0 3)).bind fun scope =>
    chk (f.h.okP && fld f.c 10 2 == 0 && ((f.c.getLsbD 3) || (fld f.c 4 6) == 0))
      (.waitge f.h (Src.dec f.a) (Src.dec f.b) scope (f.c.getLsbD 3) (fld f.c 4 6))
  | 8 =>
    chk (f.h.okN && f.b == 0x808 && fld f.c 1 11 == 0)
      (.pwait f.h (Src.dec f.a) (f.c.getLsbD 0))
  | _ => none

/-- Class 7 (R188, R189). -/
def decode7 (f : FWord) (_ : DWord) : Option Instr :=
  match (fld f.op 0 6).toNat with
  | 0 =>
    (Width.dec (fld f.c 0 3)).bind fun w =>
    chk (f.h.okA && f.b == 0x808 && fld f.c 3 3 == 0 && fld f.c 7 5 == 0 && w != .b128)
      (.rld f.h (Src.dec f.a) w (f.c.getLsbD 6))
  | 1 =>
    (Width.dec (fld f.c 0 3)).bind fun w =>
    chk (f.h.okN && fld f.c 3 3 == 0 && fld f.c 7 1 == 0 && fld f.c 11 1 == 0 && w.storeOk && w != .b128)
      (.rst f.h (Src.dec f.a) (Src.dec f.b) w (f.c.getLsbD 6) (fld f.c 8 3))
  | 2 =>
    (AtomOp.dec (fld f.c 0 4)).bind fun op =>
    (AtomTy.dec (fld f.c 4 2)).bind fun ty =>
    (Order.dec (fld f.c 6 2)).bind fun order =>
    chk ((if (f.c.getLsbD 11) then f.h.okN else f.h.okA) && atomOk op ty)
      (.ratom f.h (Src.dec f.a) (Src.dec f.b) op ty order (fld f.c 8 3) (f.c.getLsbD 11))
  | 3 =>
    (AtomTy.dec (fld f.c 4 2)).bind fun ty =>
    (Order.dec (fld f.c 6 2)).bind fun order =>
    chk (f.h.okA && fld f.c 0 4 == 0 && fld f.c 8 4 == 0)
      (.rcas f.h (Src.dec f.a) (Src.dec f.b) ty order)
  | 4 =>
    chk (f.h.okN && fld f.c 0 8 == 0 && fld f.c 11 1 == 0)
      (.rboadd f.h (Src.dec f.a) (Src.dec f.b) (fld f.c 8 3))
  | 5 =>
    chk (f.h.okN && f.a == 0x808 && f.b == 0x808 && f.c == 0)
      (.tkwait f.h)
  | 6 =>
    chk (f.h.okV && f.a == 0x808 && f.b == 0x808 && f.c == 0)
      (.tkquery f.h)
  | 7 =>
    chk (f.h.okN && fld f.c 0 8 == 0 && fld f.c 11 1 == 0)
      (.topkred f.h (Src.dec f.a) (Src.dec f.b) (fld f.c 8 3))
  | _ => none

/-- Class 8 (R188, R189). -/
def decode8 (f : FWord) (_ : DWord) : Option Instr :=
  match (fld f.op 0 6).toNat with
  | 0 =>
    chk (f.h.okN && f.b == 0x808 && fld f.c 3 9 == 0)
      (.gang f.h (Src.dec f.a) (fld f.c 0 3))
  | 1 =>
    (MFmt.dec (fld f.c 0 3)).bind fun afmt =>
    (MOp.dec (fld f.c 3 3)).bind fun op =>
    chk (f.h.okN && f.a == 0x808 && f.b == 0x808 && fld f.c 6 6 == 0)
      (.mfmt f.h afmt op)
  | 2 =>
    chk (f.h.okN && f.b == 0x808 && fld f.c 2 10 == 0)
      (.dptab f.h (Src.dec f.a) (fld f.c 0 2))
  | 3 =>
    chk (f.h.okN && fld f.c 6 6 == 0 && ((f.c.getLsbD 0) || (Src.dec f.b) == .zero) && (!(f.c.getLsbD 0) || (MFmt.dec2 (fld f.c 1 2)) == .bf16))
      (.mwload f.h (Src.dec f.a) (Src.dec f.b) (f.c.getLsbD 0) (MFmt.dec2 (fld f.c 1 2)) (fld f.c 3 3))
  | 4 =>
    chk (f.h.okN && fld f.c 7 5 == 0)
      (.mma f.h (Src.dec f.a) (Src.dec f.b) (fld f.c 0 6) (f.c.getLsbD 6))
  | 5 =>
    chk (f.h.okN && fld f.c 7 5 == 0)
      (.mmaw f.h (Src.dec f.a) (Src.dec f.b) (fld f.c 0 6) (f.c.getLsbD 6))
  | 6 =>
    chk (f.h.okP && f.b == 0x808 && fld f.c 7 5 == 0)
      (.talloc f.h (Src.dec f.a) (fld f.c 0 6) (f.c.getLsbD 6))
  | 7 =>
    chk (f.h.okN && f.a == 0x808 && f.b == 0x808 && fld f.c 6 6 == 0)
      (.tfree f.h (fld f.c 0 6))
  | 8 =>
    chk (f.h.okN && fld f.c 6 6 == 0)
      (.town f.h (Src.dec f.a) (Src.dec f.b) (fld f.c 0 6))
  | 9 =>
    chk (f.h.okN && fld f.c 6 6 == 0)
      (.tzero f.h (Src.dec f.a) (Src.dec f.b) (fld f.c 0 6))
  | 10 =>
    chk (f.h.okA && f.b == 0x808 && fld f.c 6 6 == 0)
      (.tread f.h (Src.dec f.a) (fld f.c 0 6))
  | 11 =>
    chk (f.h.okN && fld f.c 6 6 == 0)
      (.twrite f.h (Src.dec f.a) (Src.dec f.b) (fld f.c 0 6))
  | 12 =>
    (DrFmt.dec (fld f.c 6 3)).bind fun fmt =>
    (DrTr.dec (fld f.c 9 2)).bind fun tr =>
    chk (f.h.okN)
      (.tdrain f.h (Src.dec f.a) (Src.dec f.b) (fld f.c 0 6) fmt tr (f.c.getLsbD 11))
  | 13 =>
    chk (f.h.okA && f.a == 0x808 && f.b == 0x808 && fld f.c 6 6 == 0)
      (.tstat f.h (fld f.c 0 6))
  | _ => none

/-- Class 9 (R188, R189). -/
def decode9 (f : FWord) (_ : DWord) : Option Instr :=
  match (fld f.op 0 6).toNat with
  | 0 =>
    (EngMod.dec f.c).bind fun m =>
    chk (f.h.okE m.prom && !m.pb)
      (.copy f.h (Src.dec f.a) (Src.dec f.b) m)
  | 1 =>
    (EngMod.dec f.c).bind fun m =>
    chk (f.h.okE m.prom && (!m.pb || (Src.dec f.b) == .zero))
      (.copyt f.h (Src.dec f.a) (Src.dec f.b) m)
  | 2 =>
    chk (f.h.okN && f.c == 0)
      (.cbload f.h (Src.dec f.a) (Src.dec f.b))
  | 3 =>
    (EngMod.dec f.c).bind fun m =>
    chk (f.h.okE m.prom && !m.pb)
      (.cbcopy f.h (Src.dec f.a) (Src.dec f.b) m)
  | 4 =>
    (EngMod.dec f.c).bind fun m =>
    chk (f.h.okE m.prom && !m.pb && !m.x9)
      (.cdec f.h (Src.dec f.a) (Src.dec f.b) m)
  | 5 =>
    (EngMod.dec f.c).bind fun m =>
    chk (f.h.okE m.prom && (!m.pb || (Src.dec f.b) == .zero))
      (.gather f.h (Src.dec f.a) (Src.dec f.b) m)
  | 6 =>
    (EngMod.dec f.c).bind fun m =>
    chk (f.h.okE m.prom && (!m.pb || (Src.dec f.b) == .zero))
      (.scatter f.h (Src.dec f.a) (Src.dec f.b) m)
  | 7 =>
    (EngMod.dec f.c).bind fun m =>
    chk (f.h.okE m.prom && !m.pb && !m.x9)
      (.zfill f.h (Src.dec f.a) (Src.dec f.b) m)
  | 8 =>
    chk (f.h.okA && f.a == 0x808 && f.b == 0x808 && f.c == 0)
      (.cpq f.h)
  | _ => none

/-- Class 10 (R188, R189). -/
def decode10 (f : FWord) (_ : DWord) : Option Instr :=
  match (fld f.op 0 6).toNat with
  | 0 =>
    (BasMod.dec f.c).bind fun m =>
    chk (f.h.okN && f.b == 0x808)
      (.search f.h (Src.dec f.a) m)
  | 1 =>
    (BasMod.dec f.c).bind fun m =>
    chk (f.h.okN && f.b == 0x808)
      (.nbscan f.h (Src.dec f.a) m)
  | 2 =>
    (BasMod.dec f.c).bind fun m =>
    chk (f.h.okN && f.b == 0x808)
      (.nbrowcopy f.h (Src.dec f.a) m)
  | 3 =>
    (BasMod.dec f.c).bind fun m =>
    chk (f.h.okN && f.b == 0x808)
      (.nbrowzero f.h (Src.dec f.a) m)
  | 4 =>
    chk (f.h.okA && f.b == 0x808 && f.c == 0)
      (.vpublish f.h (Src.dec f.a))
  | 5 =>
    chk (f.h.okA && f.b == 0x808 && f.c == 0)
      (.vsnap f.h (Src.dec f.a))
  | 6 =>
    chk (f.h.okA && f.b == 0x808 && f.c == 0)
      (.bquery f.h (Src.dec f.a))
  | _ => none

/-- Class 11 (R188, R189). -/
def decode11 (f : FWord) (_ : DWord) : Option Instr :=
  match (fld f.op 0 6).toNat with
  | 0 =>
    chk (f.h.okA && f.b == 0x808 && fld f.c 4 8 == 0)
      (.wdist f.h (Src.dec f.a) (fld f.c 0 4))
  | 1 =>
    chk (f.h.okN && f.c == 0)
      (.wheap f.h (Src.dec f.a) (Src.dec f.b))
  | 2 =>
    chk (f.h.okA && fld f.c 5 7 == 0 && (fld f.c 0 5) != 0)
      (.wnbrs f.h (Src.dec f.a) (Src.dec f.b) (fld f.c 0 5))
  | 3 =>
    chk (f.h.okP && f.b == 0x808 && f.c == 0)
      (.wvisit f.h (Src.dec f.a))
  | 4 =>
    chk (f.h.okN && fld f.c 1 11 == 0)
      (.whop f.h (Src.dec f.a) (Src.dec f.b) (f.c.getLsbD 0))
  | 5 =>
    chk (f.h.okP && f.a == 0x808 && fld f.c 11 1 == 0)
      (.wspawn f.h (Src.dec f.b) (fld f.c 0 11))
  | 6 =>
    chk (f.h.okN && f.a == 0x808 && f.b == 0x808 && f.c == 0)
      (.wdone f.h)
  | _ => none

/-- Class 12 (R188, R189). -/
def decode12 (f : FWord) (_ : DWord) : Option Instr :=
  match (fld f.op 0 6).toNat with
  | 0 =>
    (SretAct.dec (fld f.c 0 2)).bind fun act =>
    chk (f.h.okP && fld f.c 3 9 == 0 && ((f.c.getLsbD 2) || (Src.dec f.b) == .zero))
      (.sret f.h (Src.dec f.a) (Src.dec f.b) act (f.c.getLsbD 2))
  | 1 =>
    chk (f.h.okA && f.b == 0x808 && fld f.c 10 2 == 0 && sysIndexOk (fld f.c 0 10) (Src.dec f.a))
      (.sysrd f.h (Src.dec f.a) (fld f.c 0 10))
  | 2 =>
    chk (f.h.okN && fld f.c 10 2 == 0 && sysIndexOk (fld f.c 0 10) (Src.dec f.a))
      (.syswr f.h (Src.dec f.a) (Src.dec f.b) (fld f.c 0 10))
  | 3 =>
    chk (f.h.okN && f.c == 0)
      (.ctxsave f.h (Src.dec f.a) (Src.dec f.b))
  | 4 =>
    chk (f.h.okN && f.c == 0)
      (.ctxload f.h (Src.dec f.a) (Src.dec f.b))
  | 5 =>
    (TlbMode.dec (fld f.c 0 2)).bind fun mode =>
    chk (f.h.okN && fld f.c 2 10 == 0 && (mode != .all || ((Src.dec f.a) == .zero && (Src.dec f.b) == .zero)))
      (.tlbinv f.h (Src.dec f.a) (Src.dec f.b) mode)
  | 6 =>
    chk (f.h.okN && f.c == 0)
      (.preempt f.h (Src.dec f.a) (Src.dec f.b))
  | 7 =>
    (KillScope.dec (fld f.c 0 2)).bind fun scope =>
    chk (f.h.okN && f.b == 0x808 && fld f.c 2 10 == 0)
      (.wgkill f.h (Src.dec f.a) scope)
  | 8 =>
    chk (f.h.okP && f.b == 0x808 && fld f.c 1 11 == 0)
      (.lease f.h (Src.dec f.a) (f.c.getLsbD 0))
  | 9 =>
    chk (f.h.okP && f.b == 0x808 && f.c == 0)
      (.pgmig f.h (Src.dec f.a))
  | 10 =>
    chk (f.h.okN && f.b == 0x808 && fld f.c 1 11 == 0)
      (.tkpost f.h (Src.dec f.a) (f.c.getLsbD 0))
  | 11 =>
    chk (f.h.okN && f.a == 0x808 && f.b == 0x808 && fld f.c 8 4 == 0)
      (.halt f.h (fld f.c 0 8))
  | _ => none

/-- A format F word with an assigned opcode. -/
def decodeF (f : FWord) (x : DWord) : Option Instr :=
  match (fld f.op 6 4).toNat with
  | 0 => decode0 f x
  | 1 => decode1 f x
  | 2 => decode2 f x
  | 3 => decode3 f x
  | 4 => decode4 f x
  | 5 => decode5 f x
  | 6 => decode6 f x
  | 7 => decode7 f x
  | 8 => decode8 f x
  | 9 => decode9 f x
  | 10 => decode10 f x
  | 11 => decode11 f x
  | 12 => decode12 f x
  | _ => none

/-- What a start word holds: an instruction, or a format error naming the half of a pair (R178 step 1, R191). -/
inductive Decoded where
  | ok (i : Instr)
  | format (half : Bool)
  deriving DecidableEq, Repr

/-- The instruction of start word `w` whose extension word, if it takes one, is `x` (R166 to R172, R191). -/
def decodeWord (w x : DWord) : Decoded :=
  if w.getLsbD 63 then
    if w.getLsbD 62 || halfFormatBad (fld w 31 31) then .format false
    else if halfFormatBad (fld w 0 31) then .format true
    else match Half.dec (fld w 31 31), Half.dec (fld w 0 31) with
      | some ha, some hb => .ok (.pairWord ha hb)
      | none, _ => .ok (.unassignedOpcode w false)
      | some _, none => .ok (.unassignedOpcode w true)
  else if opcodeAssigned (fld w 53 10) then
    match decodeF (unpackF w) x with
    | some i => .ok i
    | none => .format false
  else .ok (.unassignedOpcode w false)

/-- An extension word follows the start word: X opcodes always, x opcodes with c[11] (R170, R187, R191). -/
def takesExt (w : DWord) : Bool :=
  if w.getLsbD 63 then false
  else match (fld w 53 10).toNat with
    | 0x014 => true
    | 0x015 => true
    | 0x013 => w.getLsbD 11
    | 0x080 => w.getLsbD 11
    | 0x082 => w.getLsbD 11
    | 0x092 => w.getLsbD 11
    | 0x140 => w.getLsbD 11
    | 0x141 => w.getLsbD 11
    | 0x142 => w.getLsbD 11
    | 0x143 => w.getLsbD 11
    | 0x147 => w.getLsbD 11
    | _ => false

/-- Little-endian value of a byte list (R9). -/
def leNat : List Byte → Nat
  | [] => 0
  | b :: bs => b.toNat + 256 * leNat bs

/-- The n bytes of a value, least significant first (R9). -/
def leBytes : Nat → Nat → List Byte
  | 0, _ => []
  | n + 1, x => BitVec.ofNat 8 x :: leBytes n (x / 256)

/-- Why bytes are no instruction. -/
inductive DecodeErr where
  | tooShort
  | format (half : Bool)
  deriving DecidableEq, Repr

/-- The instruction at the head of a byte list, with the bytes after it and its extension word. -/
def decodeBytes (bs : List Byte) : Except DecodeErr (Instr × List Byte) :=
  if bs.length < 8 then .error .tooShort
  else
    let w : DWord := BitVec.ofNat 64 (leNat (bs.take 8))
    let e := takesExt w
    if e && bs.length < 16 then .error .tooShort
    else match decodeWord w (if e then BitVec.ofNat 64 (leNat ((bs.drop 8).take 8)) else 0) with
      | .ok i => .ok (i, bs.drop (if e then 16 else 8))
      | .format h => .error (.format h)

/-- The decoder on a word numbered as the opcode table numbers it: bits [63:0] are the start word, bits [127:64] the
extension word, and every bit above `nbits` is 0. -/
def decodeTableWord (nbits w : Nat) : Option Instr :=
  match decodeBytes (leBytes 16 (w % 2 ^ nbits)) with
  | .ok (i, _) => some i
  | .error _ => none

/-- The start word of an instruction and its extension word (R166 to R172); events have none. -/
def encode : Instr → Option (DWord × Option DWord)
  | .iadd h a b =>
    some (packF ⟨0x000, h, a.enc, b.enc, 0#12⟩, none)
  | .isub h a b =>
    some (packF ⟨0x001, h, a.enc, b.enc, 0#12⟩, none)
  | .imul h a b =>
    some (packF ⟨0x002, h, a.enc, b.enc, 0#12⟩, none)
  | .imulh h a b u =>
    some (packF ⟨0x003, h, a.enc, b.enc, 0#11 ++ BitVec.ofBool u⟩, none)
  | .imad h a b c =>
    some (packF ⟨0x004, h, a.enc, b.enc, c.enc⟩, none)
  | .idiv h a b u =>
    some (packF ⟨0x005, h, a.enc, b.enc, 0#11 ++ BitVec.ofBool u⟩, none)
  | .irem h a b u =>
    some (packF ⟨0x006, h, a.enc, b.enc, 0#11 ++ BitVec.ofBool u⟩, none)
  | .imin h a b u =>
    some (packF ⟨0x007, h, a.enc, b.enc, 0#11 ++ BitVec.ofBool u⟩, none)
  | .imax h a b u =>
    some (packF ⟨0x008, h, a.enc, b.enc, 0#11 ++ BitVec.ofBool u⟩, none)
  | .iabs h a =>
    some (packF ⟨0x009, h, a.enc, 0x808, 0#12⟩, none)
  | .ineg h a =>
    some (packF ⟨0x00A, h, a.enc, 0x808, 0#12⟩, none)
  | .iaddsat h a b u =>
    some (packF ⟨0x00B, h, a.enc, b.enc, 0#11 ++ BitVec.ofBool u⟩, none)
  | .isubsat h a b u =>
    some (packF ⟨0x00C, h, a.enc, b.enc, 0#11 ++ BitVec.ofBool u⟩, none)
  | .isad h a b u =>
    some (packF ⟨0x00D, h, a.enc, b.enc, 0#11 ++ BitVec.ofBool u⟩, none)
  | .idot4 h a b ua ub =>
    some (packF ⟨0x00E, h, a.enc, b.enc, 0#10 ++ BitVec.ofBool ub ++ BitVec.ofBool ua⟩, none)
  | .iadd64 h a b =>
    some (packF ⟨0x00F, h, a.enc, b.enc, 0#12⟩, none)
  | .isub64 h a b =>
    some (packF ⟨0x010, h, a.enc, b.enc, 0#12⟩, none)
  | .imul64 h a b =>
    some (packF ⟨0x011, h, a.enc, b.enc, 0#12⟩, none)
  | .imad64 h a b c =>
    some (packF ⟨0x012, h, a.enc, b.enc, c.enc⟩, none)
  | .lea h a b sh u disp =>
    some (packF ⟨0x013, h, a.enc, b.enc, BitVec.ofBool disp.isSome ++ 0#7 ++ BitVec.ofBool u ++ sh⟩, disp)
  | .movi h x =>
    some (packF ⟨0x014, h, 0x808, 0x808, 0#12⟩, (some x))
  | .movi64 h x =>
    some (packF ⟨0x015, h, 0x808, 0x808, 0#12⟩, (some x))
  | .and h a b =>
    some (packF ⟨0x040, h, a.enc, b.enc, 0#12⟩, none)
  | .or h a b =>
    some (packF ⟨0x041, h, a.enc, b.enc, 0#12⟩, none)
  | .xor h a b =>
    some (packF ⟨0x042, h, a.enc, b.enc, 0#12⟩, none)
  | .not h a =>
    some (packF ⟨0x043, h, a.enc, 0x808, 0#12⟩, none)
  | .andn h a b =>
    some (packF ⟨0x044, h, a.enc, b.enc, 0#12⟩, none)
  | .shl h a b =>
    some (packF ⟨0x045, h, a.enc, b.enc, 0#12⟩, none)
  | .shr h a b =>
    some (packF ⟨0x046, h, a.enc, b.enc, 0#12⟩, none)
  | .sar h a b =>
    some (packF ⟨0x047, h, a.enc, b.enc, 0#12⟩, none)
  | .rot h a b r =>
    some (packF ⟨0x048, h, a.enc, b.enc, 0#11 ++ BitVec.ofBool r⟩, none)
  | .shl64 h a b =>
    some (packF ⟨0x049, h, a.enc, b.enc, 0#12⟩, none)
  | .shr64 h a b =>
    some (packF ⟨0x04A, h, a.enc, b.enc, 0#12⟩, none)
  | .sar64 h a b =>
    some (packF ⟨0x04B, h, a.enc, b.enc, 0#12⟩, none)
  | .popc h a =>
    some (packF ⟨0x04C, h, a.enc, 0x808, 0#12⟩, none)
  | .clz h a =>
    some (packF ⟨0x04D, h, a.enc, 0x808, 0#12⟩, none)
  | .ctz h a =>
    some (packF ⟨0x04E, h, a.enc, 0x808, 0#12⟩, none)
  | .brev h a =>
    some (packF ⟨0x04F, h, a.enc, 0x808, 0#12⟩, none)
  | .bfe h a pos len sgn =>
    some (packF ⟨0x050, h, a.enc, 0x808, BitVec.ofBool sgn ++ len ++ pos⟩, none)
  | .bfi h a b pos len =>
    some (packF ⟨0x051, h, a.enc, b.enc, 0#1 ++ len ++ pos⟩, none)
  | .bysel h a b sel =>
    some (packF ⟨0x052, h, a.enc, b.enc, sel⟩, none)
  | .icmp h a b cond u comb =>
    some (packF ⟨0x053, h, a.enc, b.enc, 0#2 ++ comb.enc ++ BitVec.ofBool u ++ cond.enc⟩, none)
  | .icmp64 h a b cond u comb =>
    some (packF ⟨0x054, h, a.enc, b.enc, 0#2 ++ comb.enc ++ BitVec.ofBool u ++ cond.enc⟩, none)
  | .plog h pa pb lut =>
    some (packF ⟨0x055, h, 0x808, 0x808, lut ++ pb ++ pa⟩, none)
  | .mov h a =>
    some (packF ⟨0x056, h, a.enc, 0x808, 0#12⟩, none)
  | .mov64 h a =>
    some (packF ⟨0x057, h, a.enc, 0x808, 0#12⟩, none)
  | .sel h a b q neg =>
    some (packF ⟨0x058, h, a.enc, b.enc, 0#7 ++ BitVec.ofBool neg ++ q⟩, none)
  | .p2v h =>
    some (packF ⟨0x059, h, 0x808, 0x808, 0#12⟩, none)
  | .v2p h a b =>
    some (packF ⟨0x05A, h, a.enc, b.enc, 0#12⟩, none)
  | .sread h r b64 =>
    some (packF ⟨0x05B, h, 0x808, 0x808, 0#2 ++ BitVec.ofBool b64 ++ r.enc⟩, none)
  | .swrite h r b64 a =>
    some (packF ⟨0x05C, h, a.enc, 0x808, 0#2 ++ BitVec.ofBool b64 ++ r.enc⟩, none)
  | .bra h t =>
    some (packF ⟨0x080, h, 0x808, 0x808, t.enc⟩, t.ext)
  | .brx h a =>
    some (packF ⟨0x081, h, a.enc, 0x808, 0#12⟩, none)
  | .call h t =>
    some (packF ⟨0x082, h, 0x808, 0x808, t.enc⟩, t.ext)
  | .callx h a =>
    some (packF ⟨0x083, h, a.enc, 0x808, 0#12⟩, none)
  | .ret h a =>
    some (packF ⟨0x084, h, a.enc, 0x808, 0#12⟩, none)
  | .exit h =>
    some (packF ⟨0x085, h, 0x808, 0x808, 0#12⟩, none)
  | .nop h =>
    some (packF ⟨0x086, h, 0x808, 0x808, 0#12⟩, none)
  | .yield h =>
    some (packF ⟨0x087, h, 0x808, 0x808, 0#12⟩, none)
  | .elect h =>
    some (packF ⟨0x088, h, 0x808, 0x808, 0#12⟩, none)
  | .wake h =>
    some (packF ⟨0x089, h, 0x808, 0x808, 0#12⟩, none)
  | .cbar h =>
    some (packF ⟨0x08A, h, 0x808, 0x808, 0#12⟩, none)
  | .wgbar h =>
    some (packF ⟨0x08B, h, 0x808, 0x808, 0#12⟩, none)
  | .tilebar h =>
    some (packF ⟨0x08C, h, 0x808, 0x808, 0#12⟩, none)
  | .vote h q neg mode =>
    some (packF ⟨0x08D, h, 0x808, 0x808, 0#5 ++ mode.enc ++ BitVec.ofBool neg ++ q⟩, none)
  | .assert h q neg a =>
    some (packF ⟨0x08E, h, a.enc, 0x808, 0#7 ++ BitVec.ofBool neg ++ q⟩, none)
  | .brk h code =>
    some (packF ⟨0x08F, h, 0x808, 0x808, 0#4 ++ code⟩, none)
  | .trap h code a =>
    some (packF ⟨0x090, h, a.enc, 0x808, 0#4 ++ code⟩, none)
  | .sleepuntil h a =>
    some (packF ⟨0x091, h, a.enc, 0x808, 0#12⟩, none)
  | .loopd h a t =>
    some (packF ⟨0x092, h, a.enc, 0x808, t.enc⟩, t.ext)
  | .launch h a b =>
    some (packF ⟨0x093, h, a.enc, b.enc, 0#12⟩, none)
  | .fadd h a b rm =>
    some (packF ⟨0x0C0, h, a.enc, b.enc, 0#10 ++ rm.enc⟩, none)
  | .fsub h a b rm =>
    some (packF ⟨0x0C1, h, a.enc, b.enc, 0#10 ++ rm.enc⟩, none)
  | .fmul h a b rm =>
    some (packF ⟨0x0C2, h, a.enc, b.enc, 0#10 ++ rm.enc⟩, none)
  | .ffma h a b c =>
    some (packF ⟨0x0C3, h, a.enc, b.enc, c.enc⟩, none)
  | .fmin h a b nanp =>
    some (packF ⟨0x0C4, h, a.enc, b.enc, 0#7 ++ BitVec.ofBool nanp ++ 0#4⟩, none)
  | .fmax h a b nanp =>
    some (packF ⟨0x0C5, h, a.enc, b.enc, 0#7 ++ BitVec.ofBool nanp ++ 0#4⟩, none)
  | .fabs h a =>
    some (packF ⟨0x0C6, h, a.enc, 0x808, 0#12⟩, none)
  | .fneg h a =>
    some (packF ⟨0x0C7, h, a.enc, 0x808, 0#12⟩, none)
  | .fcmp h a b cond comb =>
    some (packF ⟨0x0C8, h, a.enc, b.enc, 0#2 ++ comb.enc ++ 0#1 ++ cond.enc⟩, none)
  | .frcp h a rm =>
    some (packF ⟨0x0C9, h, a.enc, 0x808, 0#10 ++ rm.enc⟩, none)
  | .frsq h a rm =>
    some (packF ⟨0x0CA, h, a.enc, 0x808, 0#10 ++ rm.enc⟩, none)
  | .fsqrt h a rm =>
    some (packF ⟨0x0CB, h, a.enc, 0x808, 0#10 ++ rm.enc⟩, none)
  | .fdiv h a b rm =>
    some (packF ⟨0x0CC, h, a.enc, b.enc, 0#10 ++ rm.enc⟩, none)
  | .fexp2 h a rm =>
    some (packF ⟨0x0CD, h, a.enc, 0x808, 0#10 ++ rm.enc⟩, none)
  | .flog2 h a rm =>
    some (packF ⟨0x0CE, h, a.enc, 0x808, 0#10 ++ rm.enc⟩, none)
  | .fclass h a =>
    some (packF ⟨0x0CF, h, a.enc, 0x808, 0#12⟩, none)
  | .hadd2 h a b f16 rm =>
    some (packF ⟨0x0D0, h, a.enc, b.enc, 0#9 ++ BitVec.ofBool f16 ++ rm.enc⟩, none)
  | .hmul2 h a b f16 rm =>
    some (packF ⟨0x0D1, h, a.enc, b.enc, 0#9 ++ BitVec.ofBool f16 ++ rm.enc⟩, none)
  | .hfma2 h a b f16 rm =>
    some (packF ⟨0x0D2, h, a.enc, b.enc, 0#9 ++ BitVec.ofBool f16 ++ rm.enc⟩, none)
  | .hminmax2 h a b f16 max nanp =>
    some (packF ⟨0x0D3, h, a.enc, b.enc, 0#7 ++ BitVec.ofBool nanp ++ BitVec.ofBool max ++ BitVec.ofBool f16 ++ 0#2⟩, none)
  | .fdot2 h a b f16 rm =>
    some (packF ⟨0x0D4, h, a.enc, b.enc, 0#9 ++ BitVec.ofBool f16 ++ rm.enc⟩, none)
  | .cvt h a src dst rm sat =>
    some (packF ⟨0x100, h, a.enc, 0x808, 0#1 ++ BitVec.ofBool sat ++ rm.enc ++ dst.enc ++ src.enc⟩, none)
  | .packbfp h a bfp4 =>
    some (packF ⟨0x101, h, a.enc, 0x808, 0#11 ++ BitVec.ofBool bfp4⟩, none)
  | .unpackbfp h a bfp4 =>
    some (packF ⟨0x102, h, a.enc, 0x808, 0#11 ++ BitVec.ofBool bfp4⟩, none)
  | .hadam h a h16 =>
    some (packF ⟨0x103, h, a.enc, 0x808, 0#11 ++ BitVec.ofBool h16⟩, none)
  | .shfl h a b mode lg b64 =>
    some (packF ⟨0x104, h, a.enc, b.enc, 0#6 ++ BitVec.ofBool b64 ++ lg ++ mode.enc⟩, none)
  | .bcast h a t b64 =>
    some (packF ⟨0x105, h, a.enc, 0x808, 0#6 ++ BitVec.ofBool b64 ++ t⟩, none)
  | .redux h a op ty rm =>
    some (packF ⟨0x106, h, a.enc, 0x808, 0#5 ++ rm.enc ++ ty.enc ++ op.enc⟩, none)
  | .scan h a op ty rm excl =>
    some (packF ⟨0x107, h, a.enc, 0x808, 0#4 ++ BitVec.ofBool excl ++ rm.enc ++ ty.enc ++ op.enc⟩, none)
  | .matchv h a all b64 =>
    some (packF ⟨0x108, h, a.enc, 0x808, 0#6 ++ BitVec.ofBool b64 ++ 0#4 ++ BitVec.ofBool all⟩, none)
  | .ld h a b m =>
    some (packF ⟨0x140, h, a.enc, b.enc, m.enc⟩, m.ext)
  | .st h a b m =>
    some (packF ⟨0x141, h, a.enc, b.enc, m.enc⟩, m.ext)
  | .lda h a b m =>
    some (packF ⟨0x142, h, a.enc, b.enc, m.enc⟩, m.ext)
  | .strel h a b m =>
    some (packF ⟨0x143, h, a.enc, b.enc, m.enc⟩, m.ext)
  | .lds h a b w =>
    some (packF ⟨0x144, h, a.enc, b.enc, 0#9 ++ w.enc⟩, none)
  | .sts h a b w off =>
    some (packF ⟨0x145, h, a.enc, b.enc, 0#1 ++ off ++ w.enc⟩, none)
  | .ldx h a b sn bfp4 =>
    some (packF ⟨0x146, h, a.enc, b.enc, 0#5 ++ BitVec.ofBool bfp4 ++ sn⟩, none)
  | .prefetch h a b l2 n1 ext =>
    some (packF ⟨0x147, h, a.enc, b.enc, BitVec.ofBool ext.isSome ++ 0#6 ++ n1 ++ BitVec.ofBool l2⟩, ext)
  | .smap h a =>
    some (packF ⟨0x148, h, a.enc, 0x808, 0#12⟩, none)
  | .sunmap h a =>
    some (packF ⟨0x149, h, a.enc, 0x808, 0#12⟩, none)
  | .sflush h a b all =>
    some (packF ⟨0x14A, h, a.enc, b.enc, 0#11 ++ BitVec.ofBool all⟩, none)
  | .sinv h a b all =>
    some (packF ⟨0x14B, h, a.enc, b.enc, 0#11 ++ BitVec.ofBool all⟩, none)
  | .cctl h a b op =>
    some (packF ⟨0x14C, h, a.enc, b.enc, 0#10 ++ op.enc⟩, none)
  | .atom h a b m =>
    some (packF ⟨0x180, h, a.enc, b.enc, m.enc⟩, none)
  | .cas h a b b64 order scope =>
    some (packF ⟨0x181, h, a.enc, b.enc, 0#1 ++ scope.enc ++ order.enc ++ BitVec.ofBool b64 ++ 0#5⟩, none)
  | .satom h a b m =>
    some (packF ⟨0x182, h, a.enc, b.enc, m.enc⟩, none)
  | .red h a b m =>
    some (packF ⟨0x183, h, a.enc, b.enc, m.enc⟩, none)
  | .fence h scope =>
    some (packF ⟨0x184, h, 0x808, 0x808, 0#9 ++ scope.enc⟩, none)
  | .opwait h a b =>
    some (packF ⟨0x185, h, a.enc, b.enc, 0#12⟩, none)
  | .boadd h a b scope =>
    some (packF ⟨0x186, h, a.enc, b.enc, 0#9 ++ scope.enc⟩, none)
  | .waitge h a b scope dl n =>
    some (packF ⟨0x187, h, a.enc, b.enc, 0#2 ++ n ++ BitVec.ofBool dl ++ scope.enc⟩, none)
  | .pwait h a exact =>
    some (packF ⟨0x188, h, a.enc, 0x808, 0#11 ++ BitVec.ofBool exact⟩, none)
  | .rld h a w acq =>
    some (packF ⟨0x1C0, h, a.enc, 0x808, 0#5 ++ BitVec.ofBool acq ++ 0#3 ++ w.enc⟩, none)
  | .rst h a b w rel stream =>
    some (packF ⟨0x1C1, h, a.enc, b.enc, 0#1 ++ stream ++ 0#1 ++ BitVec.ofBool rel ++ 0#3 ++ w.enc⟩, none)
  | .ratom h a b op ty order stream post =>
    some (packF ⟨0x1C2, h, a.enc, b.enc, BitVec.ofBool post ++ stream ++ order.enc ++ ty.enc ++ op.enc⟩, none)
  | .rcas h a b ty order =>
    some (packF ⟨0x1C3, h, a.enc, b.enc, 0#4 ++ order.enc ++ ty.enc ++ 0#4⟩, none)
  | .rboadd h a b stream =>
    some (packF ⟨0x1C4, h, a.enc, b.enc, 0#1 ++ stream ++ 0#8⟩, none)
  | .tkwait h =>
    some (packF ⟨0x1C5, h, 0x808, 0x808, 0#12⟩, none)
  | .tkquery h =>
    some (packF ⟨0x1C6, h, 0x808, 0x808, 0#12⟩, none)
  | .topkred h a b stream =>
    some (packF ⟨0x1C7, h, a.enc, b.enc, 0#1 ++ stream ++ 0#8⟩, none)
  | .gang h a n =>
    some (packF ⟨0x200, h, a.enc, 0x808, 0#9 ++ n⟩, none)
  | .mfmt h afmt op =>
    some (packF ⟨0x201, h, 0x808, 0x808, 0#6 ++ op.enc ++ afmt.enc⟩, none)
  | .dptab h a k =>
    some (packF ⟨0x202, h, a.enc, 0x808, 0#10 ++ k⟩, none)
  | .mwload h a b coded bfmt stream =>
    some (packF ⟨0x203, h, a.enc, b.enc, 0#6 ++ stream ++ bfmt.enc2 ++ BitVec.ofBool coded⟩, none)
  | .mma h a b k ovr =>
    some (packF ⟨0x204, h, a.enc, b.enc, 0#5 ++ BitVec.ofBool ovr ++ k⟩, none)
  | .mmaw h a b k ovr =>
    some (packF ⟨0x205, h, a.enc, b.enc, 0#5 ++ BitVec.ofBool ovr ++ k⟩, none)
  | .talloc h a k s32 =>
    some (packF ⟨0x206, h, a.enc, 0x808, 0#5 ++ BitVec.ofBool s32 ++ k⟩, none)
  | .tfree h k =>
    some (packF ⟨0x207, h, 0x808, 0x808, 0#6 ++ k⟩, none)
  | .town h a b k =>
    some (packF ⟨0x208, h, a.enc, b.enc, 0#6 ++ k⟩, none)
  | .tzero h a b k =>
    some (packF ⟨0x209, h, a.enc, b.enc, 0#6 ++ k⟩, none)
  | .tread h a k =>
    some (packF ⟨0x20A, h, a.enc, 0x808, 0#6 ++ k⟩, none)
  | .twrite h a b k =>
    some (packF ⟨0x20B, h, a.enc, b.enc, 0#6 ++ k⟩, none)
  | .tdrain h a b k fmt tr clr =>
    some (packF ⟨0x20C, h, a.enc, b.enc, BitVec.ofBool clr ++ tr.enc ++ fmt.enc ++ k⟩, none)
  | .tstat h k =>
    some (packF ⟨0x20D, h, 0x808, 0x808, 0#6 ++ k⟩, none)
  | .copy h a b m =>
    some (packF ⟨0x240, h, a.enc, b.enc, m.enc⟩, none)
  | .copyt h a b m =>
    some (packF ⟨0x241, h, a.enc, b.enc, m.enc⟩, none)
  | .cbload h a b =>
    some (packF ⟨0x242, h, a.enc, b.enc, 0#12⟩, none)
  | .cbcopy h a b m =>
    some (packF ⟨0x243, h, a.enc, b.enc, m.enc⟩, none)
  | .cdec h a b m =>
    some (packF ⟨0x244, h, a.enc, b.enc, m.enc⟩, none)
  | .gather h a b m =>
    some (packF ⟨0x245, h, a.enc, b.enc, m.enc⟩, none)
  | .scatter h a b m =>
    some (packF ⟨0x246, h, a.enc, b.enc, m.enc⟩, none)
  | .zfill h a b m =>
    some (packF ⟨0x247, h, a.enc, b.enc, m.enc⟩, none)
  | .cpq h =>
    some (packF ⟨0x248, h, 0x808, 0x808, 0#12⟩, none)
  | .search h a m =>
    some (packF ⟨0x280, h, a.enc, 0x808, m.enc⟩, none)
  | .nbscan h a m =>
    some (packF ⟨0x281, h, a.enc, 0x808, m.enc⟩, none)
  | .nbrowcopy h a m =>
    some (packF ⟨0x282, h, a.enc, 0x808, m.enc⟩, none)
  | .nbrowzero h a m =>
    some (packF ⟨0x283, h, a.enc, 0x808, m.enc⟩, none)
  | .vpublish h a =>
    some (packF ⟨0x284, h, a.enc, 0x808, 0#12⟩, none)
  | .vsnap h a =>
    some (packF ⟨0x285, h, a.enc, 0x808, 0#12⟩, none)
  | .bquery h a =>
    some (packF ⟨0x286, h, a.enc, 0x808, 0#12⟩, none)
  | .wdist h a q =>
    some (packF ⟨0x2C0, h, a.enc, 0x808, 0#8 ++ q⟩, none)
  | .wheap h a b =>
    some (packF ⟨0x2C1, h, a.enc, b.enc, 0#12⟩, none)
  | .wnbrs h a b m =>
    some (packF ⟨0x2C2, h, a.enc, b.enc, 0#7 ++ m⟩, none)
  | .wvisit h a =>
    some (packF ⟨0x2C3, h, a.enc, 0x808, 0#12⟩, none)
  | .whop h a b node =>
    some (packF ⟨0x2C4, h, a.enc, b.enc, 0#11 ++ BitVec.ofBool node⟩, none)
  | .wspawn h b off =>
    some (packF ⟨0x2C5, h, 0x808, b.enc, 0#1 ++ off⟩, none)
  | .wdone h =>
    some (packF ⟨0x2C6, h, 0x808, 0x808, 0#12⟩, none)
  | .sret h a b act pc =>
    some (packF ⟨0x300, h, a.enc, b.enc, 0#9 ++ BitVec.ofBool pc ++ act.enc⟩, none)
  | .sysrd h a reg =>
    some (packF ⟨0x301, h, a.enc, 0x808, 0#2 ++ reg⟩, none)
  | .syswr h a b reg =>
    some (packF ⟨0x302, h, a.enc, b.enc, 0#2 ++ reg⟩, none)
  | .ctxsave h a b =>
    some (packF ⟨0x303, h, a.enc, b.enc, 0#12⟩, none)
  | .ctxload h a b =>
    some (packF ⟨0x304, h, a.enc, b.enc, 0#12⟩, none)
  | .tlbinv h a b mode =>
    some (packF ⟨0x305, h, a.enc, b.enc, 0#10 ++ mode.enc⟩, none)
  | .preempt h a b =>
    some (packF ⟨0x306, h, a.enc, b.enc, 0#12⟩, none)
  | .wgkill h a scope =>
    some (packF ⟨0x307, h, a.enc, 0x808, 0#10 ++ scope.enc⟩, none)
  | .lease h a rel =>
    some (packF ⟨0x308, h, a.enc, 0x808, 0#11 ++ BitVec.ofBool rel⟩, none)
  | .pgmig h a =>
    some (packF ⟨0x309, h, a.enc, 0x808, 0#12⟩, none)
  | .tkpost h a abort =>
    some (packF ⟨0x30A, h, a.enc, 0x808, 0#11 ++ BitVec.ofBool abort⟩, none)
  | .halt h code =>
    some (packF ⟨0x30B, h, 0x808, 0x808, 0#4 ++ code⟩, none)
  | .pairWord ha hb => some (1#1 ++ 0#1 ++ ha.enc ++ hb.enc, none)
  | .unassignedOpcode w _ => some (w, none)
  | .periodicReform .. | .bundleUrgent .. | .timer .. | .waitgeReread .. | .waitgeDeadline ..
    | .sleepuntilDeadline .. | .promiseMissed .. | .asyncTrapDelivery .. | .trapRecordWrite ..
    | .serviceRecordWrite .. | .launchRecordTake .. | .dependenceRetest .. | .leaseRetry ..
    | .workgroupDistribution .. | .workgroupActivation .. | .workgroupPark .. | .forcedPark .. | .activationBlock ..
    | .carveWaitExpiry .. | .carveChange .. | .workgroupExit .. | .launchComplete .. | .engineOperationStart ..
    | .engineOperationComplete .. | .engineOperationHeld .. | .jointOperationPost .. | .entryAged .. | .passGrant ..
    | .passComplete .. | .tileLatch .. | .tileFetchHeld .. | .tdrainComplete .. | .tarnBankCleared ..
    | .tarnRelease .. | .basinCommandStart .. | .searchForward .. | .walkerHopArrival .. | .walkerChildStart ..
    | .heapOffer .. | .basinCommandComplete .. | .basinCommandTimeout .. | .remoteAccessArrival .. | .remoteReply ..
    | .ticketReceived .. | .replayNotice .. | .ticketAbort .. | .replayRecordRelease .. | .abortAcknowledgement ..
    | .topkredContribution .. | .contextStopped .. | .ctxsaveComplete .. | .ctxloadRestore .. | .handoverLapse ..
    | .firmwareSwitch .. | .slotRoundBoundary .. | .dataReturn .. | .translationCheckDone .. | .writePerformed ..
    | .invalidationAcknowledged .. | .migrationSwitchEnd .. | .twinWrite .. | .trapWindowWrite ..
    | .xlockCfgWrite .. | .schedXlockWrite .. | .tqCfgWrite .. | .lqCfgWrite .. | .lqBaseWrite .. | .aperCfgWrite ..
    | .ctxRootWrite .. | .numcfgWrite .. | .phcAdjWrite .. | .spsCfgWrite .. | .memCfgWrite ..
    | .systemRegisterWrite .. | .mbReqWrite .. | .workgroupSteal .. | .engineOperationSteal .. | .walkerSteal ..
    | .registrationEviction .. | .fabricError .. | .frameReceived .. | .cxlMemRead .. | .cxlMemWrite ..
    | .msixSignal .. | .beatReceived .. | .basinLinkRetrain .. | .flitReceived .. | .retryRequest ..
    | .reinLinkRetrain .. | .flitCounterRekey .. | .escapeChannelMove .. | .getVersion .. | .getCapabilities ..
    | .negotiateAlgorithms .. | .getDigests .. | .getCertificate .. | .challenge .. | .getMeasurements ..
    | .keyExchange .. | .keyUpdate .. | .claim .. | .handover .. | .setPartition .. | .setSlots .. | .setHost ..
    | .setStream .. | .setRein .. | .imageWrite .. | .imageActivate .. | .firmwareSelfTestFail .. | .rekey ..
    | .setMsix .. | .resetPartition .. | .resetPackage .. | .packageReset .. | .patrolScrub ..
    | .channelSlotAllocation .. | .powerThrottle .. | .flitCounterExhausted .. => none

end Sys2Proof
end

