-- ==== Sys2Proof/Machine/Store.lean ====
section
/-! DEFINITION. Sparse stores in one canonical form: keys strictly rising, no entry equal to what an unlisted key reads as
(log 1). Memory, register files and tables are stores. -/

namespace Sys2Proof.Machine

/-- Sparse data by key; an unlisted key reads as `default`. -/
abbrev Store (α : Type) := List (Nat × α)

/-- The value at a key. -/
def Store.get {α : Type} [Inhabited α] : Store α → Nat → α
  | [], _ => default
  | (k, v) :: r, a => if a = k then v else Store.get r a

/-- Insert or replace, keeping the keys rising. -/
def Store.put {α : Type} : Store α → Nat → α → Store α
  | [], a, x => [(a, x)]
  | (k, v) :: r, a, x =>
    if a < k then (a, x) :: (k, v) :: r
    else if a = k then (a, x) :: r
    else (k, v) :: Store.put r a x

/-- Remove a key, each entry of it, so that it reads as unlisted on every store, canonical or not. -/
def Store.del {α : Type} : Store α → Nat → Store α
  | [], _ => []
  | (k, v) :: r, a => if a = k then Store.del r a else (k, v) :: Store.del r a

/-- Write a value: writing what an unlisted key reads as removes the entry. -/
def Store.set {α : Type} [Inhabited α] [DecidableEq α] (m : Store α) (a : Nat) (x : α) : Store α :=
  if x = default then Store.del m a else Store.put m a x

/-- Change the value at a key. -/
def Store.upd {α : Type} [Inhabited α] [DecidableEq α] (m : Store α) (a : Nat) (f : α → α) : Store α :=
  Store.set m a (f (Store.get m a))

/-- Every key of the store is above `lo`. -/
def Store.above {α : Type} (lo : Nat) : Store α → Bool
  | [] => true
  | (k, _) :: _ => lo < k

/-- The canonical form. -/
def Store.wf {α : Type} [Inhabited α] [DecidableEq α] : Store α → Bool
  | [] => true
  | (k, v) :: r => v ≠ default && Store.above k r && Store.wf r

end Sys2Proof.Machine
end

