-- ==== Sys2Proof/Machine/State.lean ====
section
/-! DEFINITION. The state of one SX-412 package as plain data, its faults and refusals, and its state after reset. Each
structure names the rules that give its fields; INVENTORY.md lists every field with its rule and reset value. -/

namespace Sys2Proof.Machine

/-- Why the model stops. -/
inductive Fault where
  /-- Raised by the meaning of an ISA instruction when no thread and no walker is the executing agent (the step names one
  before it runs an instruction). Safe: the hardware has no such state. -/
  | noAgent
  deriving DecidableEq, Repr

/-- Why the model gives an instruction no meaning. -/
inductive Refusal where
  /-- Raised by an arm of `exec` whose instruction has no meaning yet. Safe. -/
  | notModelled (mnemonic : String)
  deriving DecidableEq, Repr

/-- Trap causes, with the codes of R335. -/
inductive Cause where
  | illegalOpcode | illegalFormat | illegalOperand | illegalPair | illegalLatch | badTarget | illegalLine | privilege
  | illegalContext | illegalCollective | misaligned | access | leaseViolation | pageDiscarded | translation
  | tarnUnalloc | tarnBand | streamMalformed | promiseMissed | assert | breakpoint | userTrap | timer | stashMap
  | poison | fabricError | ticketAbort | counterSaturated
  deriving DecidableEq, Repr

/-- A cause with the fields of R340 that go with it. -/
structure TrapInfo where
  cause  : Cause
  detail : Nat := 0
  addr   : DWord := 0
  aux    : DWord := 0
  half   : Bool := false
  deriving DecidableEq, Repr

/-- Registers of a core thread or a walker: the PC, the PC after the instruction being executed, v registers, predicates,
latches with written bits and chain position (R25, R80, R161, R174). Bit 0 of `p` is not used: p0 reads 1. -/
structure Regs where
  pc      : DWord := 0
  npc     : DWord := 0
  v       : Store Word := []
  p       : BitVec 16 := 0
  latch   : Store DWord := []
  written : BitVec 8 := 0
  k       : BitVec 3 := 0
  deriving DecidableEq, Repr

/-- What a thread that is not ready waits for (R26, R354). -/
inductive Wait where
  | wgbar
  | tilebar
  | cbar
  | elect (d : BitVec 11)
  | coll (i : Instr) (guard : Bool) (ftz : Bool) (spread : Nat)
  | waitge (ea target : DWord) (dl : Option DWord) (scope : Scope) (d : BitVec 11)
  | opwait (cls limit : Nat)
  | sleep (deadline : DWord)
  | pwait (promise w : DWord) (exact : Bool)
  | cinch (i : Instr) (seq : Nat)
  | held (acc : Nat)
  | remote (upTo : Nat)
  | migration (mig : Nat)
  | writeBack (wg line : Nat)
  | pgmig (mig : Nat)
  | image (ctx : Nat)
  | append (d : BitVec 11)
  | trap (kind : Nat) (info : TrapInfo) (opc : DWord)
  deriving DecidableEq, Repr

/-- Thread states (R26). -/
inductive TState where
  | ready
  | fetchSuspended (w : Wait)
  | waiting (w : Wait)
  | parkedRemote (w : Wait)
  | sleeping
  | exited
  deriving DecidableEq, Repr

/-- An asynchronous cause pending in a thread (R336): its PC is the causing instruction's; `cyc` is the cycle of its detection. -/
structure AsyncTrap where
  info : TrapInfo
  opc  : DWord
  cyc  : Nat := 0
  deriving DecidableEq, Repr

/-- The rows of an accepted TZERO, TREAD or TWRITE that waits for older work on them, with its place among passes and drains (R285). -/
structure TarnHold where
  acc  : Nat
  core : Nat
  bank : Nat
  row0 : Nat
  n    : Nat
  clr  : Bool
  deriving DecidableEq, Repr

/-- A core thread (R23 to R26, R133). Its crew is named by its index in `State.crews`; `entry` holds until its first fetch
(R165); `passed` says that the wait of R122 of the instruction at its PC has ended, `inv` names the invalidation for which that instruction
stalls (R362, R397). `lastIssue` is its last issue, `prevIssue`
the one before, `readyAt` when it last became able to issue (R29), `stalled` one more than the cycle of an issue that stalled. -/
structure Thread where
  crew      : Nat := 0
  num       : Nat := 0
  r         : Regs := {}
  status    : BitVec 9 := 0
  st        : TState := .ready
  async     : List AsyncTrap := []
  lastIssue : Nat := 0
  prevIssue : Nat := 0
  readyAt   : Nat := 0
  stalled   : Nat := 0
  entry     : Bool := false
  passed    : Bool := false
  tarn      : Option TarnHold := none
  inv       : Option Nat := none
  phcNs     : BitVec 32 := 0
  deriving DecidableEq, Repr

/-- An operation counted by a crew's counter: class, issue number, done and not yet retired (R105, R250). -/
structure Outst where
  cls  : Nat
  seq  : Nat
  done : Bool
  deriving DecidableEq, Repr

/-- A crew (R25, R32, R37, R265, R266, R347, R355). Threads are `base` … `base + 31` in `State.threads`. -/
structure Crew where
  wg      : Nat := 0
  num     : Nat := 0
  base    : Nat := 0
  s       : Store DWord := []
  members : List Nat := []
  idx     : Nat := 0
  wf      : Bool := false
  tl      : Bool := false
  gcount  : Nat := 1
  afmt    : MFmt := .bf16
  mop     : MOp := .mad
  outst   : List Outst := []
  iss     : Store Nat := []
  vtim    : DWord := 0
  vtcmp   : DWord := 0xFFFFFFFFFFFFFFFF
  leader  : Option Nat := none
  timer   : Bool := false
  deriving DecidableEq, Repr

/-- A stash map entry (R51). -/
structure MapEnt where
  gva    : Nat
  off    : Nat
  lines  : Nat
  ro     : Bool
  nofill : Bool
  deriving DecidableEq, Repr

/-- A filled mapped line of a stash: dirty or clean, and the physical line it is registered for in the die directory; a
discarded page has none (R52, R55, R390). `bad` marks a line filled poisoned until `wrote` covers it (R406). Unfilled lines
have no record. -/
structure LineSt where
  dirty : Bool
  pa    : Option Nat
  wv    : Bool := false
  bad   : Bool := false
  wrote : BitVec 64 := 0
  deriving DecidableEq, Repr, Inhabited

/-- The stage of a workgroup at its core (R22, R39 to R42, R359). -/
inductive WgStage where
  | admitted
  | active
  | parked
  | exiting
  | exited
  | killed
  | saved
  deriving DecidableEq, Repr

/-- An ordered stream of a workgroup: open with a scope (R110, R356). -/
structure Stream where
  scope : Scope
  isOpen : Bool
  deriving DecidableEq, Repr

/-- A probability slot of the decoder (R151, R152): empty, or frequencies of the 256 symbols. -/
structure ProbSlot where
  full : Bool := false
  freq : List Nat := []
  deriving DecidableEq, Repr

/-- A workgroup (R21 to R24, R50 to R52, R110, R152, R303). `since` is the cycle of its admission, activation or parking, `order` its place
among admissions, `blocks` the block of R371, `forced` a parking made for it and `tested` the latest test of R41, `blockedAt` the cycle in
which it became eligible to park (R39), `stopping` a forced parking that has begun. Crews are `base` … `base + ncrew - 1` in `State.crews`. -/
structure Wg where
  launch  : Nat := 0
  wx      : Nat := 0
  wy      : Nat := 0
  wz      : Nat := 0
  core    : Nat := 0
  rot     : BitVec 2 := 0
  base    : Nat := 0
  ncrew   : Nat := 1
  prio    : Nat := 0
  stage   : WgStage := .admitted
  started : Bool := false
  since   : Nat := 0
  order   : Nat := 0
  forced  : Bool := false
  blocks  : Bool := false
  tested  : Nat := 0
  blockedAt : Option Nat := none
  stopping : Bool := false
  sbase   : Nat := 0
  splaced : Bool := false
  stash   : Store Byte := []
  maps    : List (Option MapEnt) := []
  lines   : Store (Option LineSt) := []
  probs   : List ProbSlot := [{}, {}, {}, {}]
  books   : Store Word := []
  streams : Store (Option Stream) := []
  wbHold  : Bool := false
  deriving DecidableEq, Repr

/-- A launch: its record as taken and what R367 to R370 keep for it. `dist` counts its distributed workgroups, `returned` lists those that
a switch-out returned, `ended` says that no more are activated (R360); state 6 is a saved launch. -/
structure Launch where
  raw        : BitVec 1024 := 0
  part       : Nat := 0
  queue      : Nat := 0
  lnum       : Nat := 0
  ctx        : Nat := 0
  state      : Nat := 0
  code       : Nat := 0
  tarnLeak   : Bool := false
  wbLost     : Bool := false
  orphan     : Bool := false
  leaseFatal : Bool := false
  leaseWait  : Bool := false
  ox         : Nat := 0
  oy         : Nat := 0
  placed     : Bool := false
  dist       : Nat := 0
  returned   : List Nat := []
  leased     : List Nat := []
  asked      : List Nat := []
  lastTry    : Nat := 0
  leftAt     : Nat := 0
  killed     : Bool := false
  ended      : Bool := false
  fixPrio    : Option Nat := none
  deriving DecidableEq, Repr

/-- A trap record (R339, R340) without its slot, handle and sequence number. -/
structure TrapRec where
  info     : TrapInfo
  part     : Nat
  kind     : Nat
  crew     : Nat
  lane     : Nat
  core     : Nat
  ctx      : Nat
  sup      : Bool
  restored : Bool := false
  tpc      : DWord
  opc      : DWord
  cyc      : DWord
  thread   : Option Nat := none
  op       : Option Nat := none
  wg       : Option Nat := none
  deriving DecidableEq, Repr

/-- A trap slot (R338, R339). -/
structure Slot where
  gen     : BitVec 9 := 0
  held    : Option TrapRec := none
  written : Bool := false
  deriving DecidableEq, Repr, Inhabited

/-- A tarn allocation with its band table; `freeing` names the leader whose TFREE waits (R56, R58, R59) and `freeAcc` the place of that TFREE
in the order of acceptance (R285), `killed` says that its workgroup
was killed and its started passes and drains still run (R360). -/
structure TAlloc where
  wg       : Nat
  base     : Nat
  n        : Nat
  i32      : Bool
  drainers : Option (List Nat)
  freeing  : Option Nat := none
  freeAcc  : Nat := 0
  killed   : Bool := false
  deriving DecidableEq, Repr

/-- Per-core state (R47, R48, R56, R161, R296, R338). `carve` lists the launches that wait for their carve with the cycle since which each
waits, `closed` those whose wait of 2^20 cycles is over, `taken` is the launch for which the carve changed until it is admitted. `tarn` is keyed by 8192·bank + 256·row + column, `icache` by
code line. -/
structure CoreSt where
  pb1      : Nat := 256
  pb2      : Nat := 512
  pb3      : Nat := 640
  carve    : List (Nat × Nat) := []
  taken    : Option Nat := none
  closed   : List Nat := []
  allocs   : List TAlloc := []
  clearing : List Nat := []
  tarn     : Store Word := []
  slots    : Store Slot := []
  pend     : List TrapRec := []
  copyW    : DWord := 0
  gathW    : DWord := 0
  icache   : List (Nat × List Byte) := []
  seqTurn  : Nat := 0
  deriving DecidableEq, Repr, Inhabited

/-- A launch queue's registers (R375). -/
structure LaunchQ where
  base : DWord := 0
  en   : Bool := false
  sup  : Bool := false
  lgn  : Nat := 0
  cap  : Nat := 7
  ctx  : Nat := 0
  deriving DecidableEq, Repr, Inhabited

/-- An aperture's registers (R397). -/
structure Aper where
  en   : Bool := false
  user : Bool := false
  xf   : BitVec 2 := 0
  zlog : BitVec 3 := 0
  va   : DWord := 0
  len  : DWord := 0
  pa0  : DWord := 0
  pa1  : DWord := 0
  deriving DecidableEq, Repr, Inhabited

/-- A lease entry (R388, R389): a range of a context held for one launch, or by LEASE. -/
structure Lease where
  id     : Nat
  launch : Option Nat
  ctx    : Nat
  base   : DWord
  len    : DWord
  deriving DecidableEq, Repr

/-- Run state of a context (R345, R349 to R357): phase 0 is unknown or running; `preempted` says that PREEMPT or HALT stops it, not an
ASSERT alone. `bos` are the barrier objects to advance when the stop completes, each with its issuer's context; `image` is what a CTXLOAD
has read, `thread` the thread that waits for it. -/
structure CtxRun where
  phase : Nat := 0
  preempted : Bool := false
  bos   : List (Nat × DWord) := []
  area  : DWord := 0
  areaCtx : Nat := 0
  image : List Byte := []
  thread : Option Nat := none
  deriving DecidableEq, Repr, Inhabited

/-- A service record (R396). -/
structure SvcRec where
  id    : Nat
  cause : Nat
  write : Bool
  pkg   : Nat
  ctx   : Nat
  va    : DWord
  len   : DWord
  cyc   : DWord
  deriving DecidableEq, Repr

/-- An append of LAUNCH whose slot is reserved and written, waiting for its turn to advance the queue's object: the queue's base, the slot's
number and the thread (R364). -/
structure Append where
  base   : Nat
  slot   : Nat
  thread : Nat
  deriving DecidableEq, Repr

/-- Registers and tables of a partition (R345, R346, R374, R375, R388, R396 to R398, R407). -/
structure Part where
  enabled   : Bool := false
  px        : Nat := 0
  py        : Nat := 0
  pa        : Nat := 0
  pb        : Nat := 0
  tqBase    : DWord := 0
  tqPbo     : DWord := 0
  tqCbo     : DWord := 0
  tqEn      : Bool := false
  tqLgn     : Nat := 6
  twin      : BitVec 32 := 0
  twinValid : Bool := false
  ftz       : Bool := false
  spread    : Nat := 3
  ut        : Bool := false
  satrap    : Bool := false
  xlock     : BitVec 4 := 0
  lqs       : Store LaunchQ := []
  appends   : List Append := []
  schedXlock : Bool := false
  roots     : Store DWord := []
  supRoot   : DWord := 0
  fabPerm   : Store DWord := []
  xperm     : Store DWord := []
  xcfg      : DWord := 0
  svqBase   : DWord := 0
  svqPbo    : DWord := 0
  svqCbo    : DWord := 0
  svqEn     : Bool := false
  svqLgn    : Nat := 6
  svc       : List SvcRec := []
  apers     : Store Aper := []
  donate    : Bool := true
  leases    : List Lease := []
  ctxs      : Store CtxRun := []
  halted    : Bool := false
  haltCode  : BitVec 8 := 0
  lnext     : BitVec 16 := 0
  deriving DecidableEq, Repr, Inhabited

/-- The executing agent. -/
inductive Agent where
  | none
  | thread (t : Nat)
  | walker (w : Nat)
  deriving DecidableEq, Repr

/-- A write issued by a core and not yet performed at its home (R97). -/
structure PostedW where
  core  : Nat
  pa    : Nat
  bytes : List Byte
  wv    : Bool
  gen   : BitVec 4
  deriving DecidableEq, Repr

/-- Where a load writes: first register, value bytes by register (R232, R234). -/
structure LoadFly where
  thread : Nat
  walker : Option Nat := none
  d      : Nat
  vals   : List Word
  poison : Option DWord
  pc     : DWord
  reqs   : Nat := 1
  deriving DecidableEq, Repr

/-- A cached leaf (R382, R385, R386): partition, context tag, the range of its slot, the leaf's size, entry and slot. -/
structure TlbLeaf where
  part  : Nat
  ctx   : Nat
  base  : Nat
  span  : Nat
  size  : Nat
  entry : DWord
  slot  : Nat
  deriving DecidableEq, Repr

/-- A TLBINV in progress (R387). -/
structure TlbInv where
  live   : Bool := true
  gen    : BitVec 4
  deriving DecidableEq, Repr

/-- A page move of PGMIG in progress (R392): `switching` from the start of its switch. -/
structure Migration where
  live      : Bool := true
  part      : Nat
  thread    : Option Nat
  d         : BitVec 11
  ctx       : Nat
  va        : DWord
  size      : Nat
  old       : Nat
  dst       : Nat
  v0        : List DWord
  slot      : Nat
  lvl       : Nat
  switching : Bool
  since     : Nat
  deriving DecidableEq, Repr

/-- How far an engine operation has come (R295, R297). -/
inductive OpPhase where
  | queued
  | started
  | held (info : TrapInfo)
  | serviced
  | failing (info : TrapInfo)
  deriving DecidableEq, Repr

/-- An accepted engine operation of class 9, or TDRAIN or CBLOAD or MWLOAD (R292 to R297, R356). `args` are its operand values at
acceptance, `prog` its resume point, `acc` its place among passes and drains (R285), `crcAt` the CRC that a restored fetch must reproduce
before an interval (R273), `saved` that a switch-out holds it, so that no later operation of its stream starts (R111). -/
structure EngOp where
  live   : Bool := true
  engine : Nat
  core   : Nat
  icore  : Nat
  crew   : Nat
  thread : Nat
  pc     : DWord
  instr  : Instr
  args   : List Nat
  cls    : Nat
  seq    : Nat
  stream : Nat
  scope  : Scope
  bo     : Option DWord
  inc    : Nat
  w      : DWord
  phase  : OpPhase
  prog   : Nat
  order  : Nat
  acc    : Nat := 0
  crcAt  : Option (Nat × Word) := none
  saved  : Bool := false
  deriving DecidableEq, Repr

/-- A joint matrix operation of the cinch latch (R277, R280, R281): `posted` is none while the reservation table is full. `rows` are the
A rows of each member's 32 threads as they were at posting, zero for one that exits before the pass reads them (R34, R279); `thread`, `pc` and `instr` are member 0's. -/
structure Joint where
  live    : Bool := true
  cluster : Nat
  core    : Nat
  wg      : Nat
  crews   : List Nat
  seqs    : List Nat
  thread  : Nat := 0
  pc      : DWord := 0
  instr   : Option Instr := none
  base    : Nat
  va      : List Nat
  foot    : Nat
  rows    : List (List Word) := []
  shape   : Word
  window  : Word
  ovr     : Bool
  afmt    : MFmt
  mop     : MOp
  tile    : Nat
  prio    : Nat
  posted  : Option Nat := none
  aged    : Bool := false
  granted : Option Nat := none
  acc     : Nat := 0
  deriving DecidableEq, Repr

/-- A weight tile of the latest MWLOADs (R157, R268, R270 to R273): its fetch is operation `op`, `gang` its gang's crew numbers; `data` are the
bytes in its slot, plain or coded, `marks` the markers of a coded one and `table` the copy of its table, taken at the latch; `slot` once the
fetch has begun, `old` after a GANG of its crew, `again` where it was latched before a switch-out (R273). -/
structure Tile where
  cluster : Nat
  crew    : Nat
  op      : Nat
  bfmt    : MFmt
  coded   : Bool
  gang    : List Nat := []
  data    : List Byte := []
  marks   : List Nat := []
  table   : List Nat := []
  again   : Bool := false
  slot    : Bool := false
  latched : Bool := false
  failed  : Bool := false
  old     : Bool := false
  deriving DecidableEq, Repr

/-- Per cluster: the granted pass, the cycle of its end, and the tile the arrays hold (R281). -/
structure Cluster where
  pass  : Option Nat := none
  endAt : Nat := 0
  array : Option Nat := none
  deriving DecidableEq, Repr, Inhabited

/-- A remote access of this package: its ticket-table entry (R254 to R257). `behind` is its core's posted writes that are older (R96), `tkAt` is the place of its ticket among the tickets received,
`sentAt` the cycle of its latest sending (R413). `saved` marks a record that a switch-out saved, `aborted` one whose abort came while it was
away (R123, R124), `acked` a contribution that the first switch accepted and whose round may still be ticketed or refused (R260, R261). -/
structure RAccess where
  live    : Bool := true
  core    : Nat
  crew    : Nat
  thread  : Nat
  lane    : Nat
  owner   : BitVec 11
  kind    : RKind
  va      : DWord
  data    : DWord
  expect  : DWord
  d       : Nat
  hold    : Bool
  stream  : Nat
  scopeRel : Bool
  seq     : Nat
  tkid    : Option (BitVec 16)
  head    : Bool
  replay  : Option (BitVec 16)
  sent    : Bool
  pc      : DWord
  order   : Nat
  word    : BitVec 22
  contrib : Option Contribution
  behind  : List PostedW := []
  tkAt    : Nat := 0
  sentAt  : Nat := 0
  saved   : Bool := false
  aborted : Bool := false
  acked   : Bool := false
  deriving DecidableEq, Repr

/-- An owner's shadow entry: (package, core, lane, line) with the id that stands, until the replayed head has been performed (R394, R395). -/
structure Shadow where
  src   : BitVec 11
  core  : Nat
  lane  : Nat
  line  : Nat
  tkid  : BitVec 16
  aborted : Bool
  deriving DecidableEq, Repr

/-- A replay notice that the requester has received, by id and the thread and line of its head (R257). -/
structure Noticed where
  owner : BitVec 11
  tkid  : BitVec 16
  thread : Nat
  line  : Nat
  deriving DecidableEq, Repr

/-- A live ticket of the owner (R394). -/
structure Ticket where
  id    : BitVec 16
  part  : Nat
  ctx   : Nat
  va    : DWord
  mig   : Option Nat
  notified : Bool
  src   : BitVec 11
  head  : Nat
  deriving DecidableEq, Repr

/-- An open round of the reduction tree (R261). -/
structure Round where
  first : Contribution
  got   : Nat
  list  : List (Word × Word)
  accs  : List Contribution
  part  : Nat
  deriving DecidableEq, Repr

/-- A bundle of a quadrant (R27 to R29): threads of one launch at one PC, which its first thread names. -/
structure Bundle where
  core    : Nat
  quad    : Nat
  threads : List Nat
  urgent  : Bool := false
  yielded : Bool := false
  deriving DecidableEq, Repr

/-- The issue in progress: the agents whose part is still to run, in lane order (log 3), the crews whose counter has no room for its
operations (R292), and what keeps a lower lane's map instruction: a wait, or a stall (R240). -/
structure Issue where
  agents : List Agent := []
  full   : List Nat := []
  behind : Option (Option Wait) := none
  deriving DecidableEq, Repr

/-- A basin command (R72 to R92, R311 to R318): `kind` is that of R91, `block` its 512-bit command block, `desc` the 1,024-bit index
descriptor as read (R68), `first` the first entry. `stack` is the die whose queue or engines hold it, `front` stack 3d of R311, `queue` the
die in whose queue it counts (R88), `found` the stack in which the check found the operand (R329). A `rejected` command waits for its
completion record only; `worked` says that a scan or row transfer has done its work. `query` is empty where it could not be corrected.
`merged` counts the offers that have reached the heap. `visited` lists the set bits as 2^18·stack + bit, `slices` the stacks that hold a visited slice for it (R81), `icache` the code lines that
its walkers have fetched (R161). -/
structure Cmd where
  live      : Bool := true
  kind      : Nat
  block     : Nat
  desc      : Nat := 0
  crew      : Nat
  thread    : Nat
  core      : Nat
  part      : Nat
  ctx       : Nat
  sup       : Bool
  pc        : DWord
  seq       : Nat
  stream    : Nat
  scope     : Scope
  stack     : Nat
  front     : Nat
  queue     : Nat := 0
  found     : Option Nat := none
  worked    : Bool := false
  forwarded : Bool
  started   : Bool := false
  rejected  : Bool := false
  snapshot  : Word := 0
  deadline  : Option DWord
  status    : Nat := 0
  heap      : List (Word × Word) := []
  offers    : List (Word × Word) := []
  merged    : Nat := 0
  evals     : Nat := 0
  first     : Nat := 0
  query     : List Byte := []
  visited   : List Nat := []
  slices    : List Nat := []
  faultPc   : DWord := 0
  faultNode : Word := 0xFFFFFFFF
  countA    : Nat := 0
  countB    : Nat := 0
  eccUe     : Bool := false
  icache    : List (Nat × List Byte) := []
  order     : Nat
  deriving DecidableEq, Repr

/-- Where a walker stands: running, waiting to start or to resume after a hop, on its way, ending with posted offers, or done (R79 to R83,
R326). -/
inductive WPhase where
  | running
  | starting
  | hopping (stack : Nat)
  | resuming
  | ending
  | done
  deriving DecidableEq, Repr

/-- A walker thread (R79, R80, R319); `last` is the place of its latest offer among its command's (R326). -/
structure Walker where
  cmd    : Nat
  stack  : Nat
  engine : Nat
  r      : Regs := {}
  tagId  : Word := 0xFFFFFFFF
  tagVis : Bool := true
  last   : Nat := 0
  phase  : WPhase := .starting
  deriving DecidableEq, Repr

/-- One direction of a basin link: the receiver's expected beat, the beats from it on that the transmitter has sent and keeps in its replay
buffer, at most 128, and the failures in a row of the expected one (R402). -/
structure BeatDir where
  expect : BitVec 8 := 0
  sent   : Nat := 0
  fails  : Nat := 0
  deriving DecidableEq, Repr, Inhabited

/-- Per-stack state: slot tables, error counters and log, erase marks, the basin link (R400 to R407). -/
structure StackSt where
  slotTbl   : Store Byte := []
  pending   : Store (Option (List Byte)) := []
  slotNo    : Store Nat := []
  rr        : Store Nat := []
  granted   : Store (Option Nat) := []
  noDonate  : Store Nat := []
  errCnt    : Store Word := []
  errLog    : Store DWord := []
  events    : Nat := 0
  erase     : Store Byte := []
  tsvCnt    : Store Nat := []
  dirs      : Store BeatDir := []
  replayAt  : List Nat := []
  trying    : Bool := false
  badTrains : Nat := 0
  down      : Bool := false
  deriving DecidableEq, Repr, Inhabited

/-- A flit in a retry buffer (R408 to R410): its link header, its payload with the packet's place in `State.outbox`, the bank's counter
that its nonce took, its encrypted payload and its tag. A `stale` one is to be written anew after a retraining (log 71). -/
structure SentFlit where
  seq     : BitVec 12
  ack     : BitVec 12
  kg      : Bool
  credits : BitVec 23 := 0
  kind    : BitVec 3 := 0
  payload : List FlitPacket
  pkt     : Nat
  ctr     : Nat
  cipher  : BitVec 1856
  tag     : BitVec 128
  stale   : Bool := false
  deriving DecidableEq, Repr

/-- What a Rein link has put on its wire (R408): a flit, or a request to resend from a sequence number on. -/
inductive WireMsg where
  | flit (f : SentFlit)
  | retry (seq : BitVec 12)
  deriving DecidableEq, Repr

/-- A Rein link's state (R408 to R411, R423): the transmitter's sequence number, retry buffer, bank, bank counters, a renewal asked for
and a stop at an exhausted counter; the receiver's expected number, banks and bank counters, and whether it has asked for a retry; the header tables of
the transmitter and of the receiver; the SPDM session with the link's peer, and the keys of the banks (send 0, send 1, receive 0, receive
1), each as the number under which the session gave it (`Config.linkKey`); what went onto the wire; failures in a row of a flit received,
of one sent (`txLast`), and of retrains. -/
structure ReinLink where
  txSeq     : BitVec 12 := 0
  rxSeq     : BitVec 12 := 0
  buffer    : List SentFlit := []
  txKg      : Bool := false
  rxKg      : Bool := false
  rxNew     : Bool := false
  session   : Bool := true
  keys      : List (Option Nat) := [some 0, none, some 0, none]
  txCtr     : List Nat := [0, 0]
  rxCtr     : List Nat := [0, 0]
  wantRekey : Bool := false
  stopped   : Bool := false
  asked     : Bool := false
  txHeaders : Store (List Nat) := []
  headers   : Store (List Nat) := []
  wire      : List WireMsg := []
  retries   : BitVec 20 := 0
  retrains  : BitVec 8 := 0
  auth      : BitVec 12 := 0
  escapes   : BitVec 15 := 0
  fails     : Nat := 0
  txFails   : Nat := 0
  txLast    : BitVec 12 := 0
  trying    : Bool := false
  badTrains : Nat := 0
  down      : Bool := false
  deriving DecidableEq, Repr, Inhabited

/-- A packet in the egress of a Rein link (R412): its destination package and message, its place in `State.outbox`, the link whose egress
holds it, its channel, how many of its flits have been sent and whether all have, and the cycle since which it has stood at the head of its adaptive queue. -/
structure Egress where
  dst    : BitVec 11
  msg    : FabMsg
  pkt    : Nat
  link   : Option Nat := none
  escape : Bool := false
  flits  : Nat := 0
  sent   : Bool := false
  since  : Option Nat := none
  deriving DecidableEq, Repr

/-- A message of MSI-X that has been sent: its vector, and the address and data of its table entry (R417). -/
structure MsixMsg where
  vec  : Nat
  addr : DWord
  data : BitVec 32
  deriving DecidableEq, Repr

/-- An answer to the host on CXL.mem (R416): an error, or the data of a read with its poison indication. -/
inductive HostRsp where
  | error
  | data (bytes : List Byte) (poison : Bool)
  | written
  deriving DecidableEq, Repr

/-- What has come in at a port of the package and waits, because a line that it writes cannot be written back (R53): a host's write of its own
memory or of the window, or a frame with its stamp, for stream `i` of the package (R416, R419, R422). -/
inductive PortWait where
  | store (pa : Nat) (bytes : List Byte)
  | window (pa : Nat) (bytes : List Byte) (poison : Bool)
  | frame (i port stream : Nat) (bytes : List Byte) (sec : BitVec 48) (ns : BitVec 32)
  deriving DecidableEq, Repr

/-- A spring port: whether it failed to come up (R424), and its counters (R423). -/
structure Port where
  down      : Bool := false
  fcs       : BitVec 16 := 0
  runts     : BitVec 16 := 0
  oversize  : BitVec 16 := 0
  unmatched : BitVec 16 := 0
  deriving DecidableEq, Repr, Inhabited

/-- A spring-port stream's registers and status; `lost` counts its drops modulo 2^32 (R421 to R423). -/
structure SpStream where
  base  : DWord := 0
  pbo   : DWord := 0
  cbo   : DWord := 0
  en    : Bool := false
  lg    : Nat := 12
  part  : Nat := 0
  seq   : DWord := 0
  drops : BitVec 31 := 0
  lost  : Word := 0
  err   : Bool := false
  deriving DecidableEq, Repr, Inhabited

/-- An answer of the housekeeping controller (R428, R430 to R432). -/
structure HkMsg where
  claimant : Nat
  opcode   : BitVec 16
  tag      : BitVec 32
  status   : Nat
  body     : List Byte
  deriving DecidableEq, Repr

/-- The housekeeping controller (R424 to R434). [parkLo, parkHi) is the park region that it reserves at bring-up (R372); the manual does
not say where (log 4). -/
structure Hk where
  mbReq    : DWord := 0
  mbRsp    : DWord := 0
  reqBuf   : Store Byte := []
  rspBuf   : Store Byte := []
  out      : List HkMsg := []
  owner    : Nat := 3
  claimAt  : Option Nat := none
  succ     : Option Nat := none
  succAt   : Nat := 0
  last     : Byte := 0
  slot     : Bool := false
  images   : List (Store Byte) := [[], []]
  armed    : Bool := false
  floor    : Nat := 0
  fwErr    : Bool := false
  failStep : BitVec 3 := 0
  testing  : Option Nat := none
  prev     : Store Byte := []
  watts    : BitVec 16 := 0
  clkStep  : BitVec 4 := 0
  basinThr : Bool := false
  serial   : DWord := 0
  form     : Nat := 2
  sessions : List Nat := []
  sessKeys : Nat := 0
  halts    : List (Nat × Nat) := []
  parkLo   : Nat := 11 * 2 ^ 36 + 63 * 2 ^ 30
  parkHi   : Nat := 12 * 2 ^ 36
  deriving DecidableEq, Repr

/-- Clocks, ports and links of the package (R408 to R423). -/
structure Links where
  phcSec   : BitVec 48 := 0
  phcNs    : BitVec 32 := 0
  phcFrac  : Nat := 0
  phcStep  : BitVec 32 := 0
  phcRate  : BitVec 24 := 0
  ports    : Store Port := []
  keys     : Store DWord := []
  ctls     : Store DWord := []
  streams  : Store SpStream := []
  pkg      : BitVec 11 := 0
  enabled  : BitVec 18 := 0
  rein     : Store ReinLink := []
  egress   : List Egress := []
  hostPart : BitVec 4 := 0
  hostUp   : Bool := true
  hdmBase  : BitVec 16 := 0
  hdmLen   : BitVec 16 := 0
  msix     : Store DWord := []
  msixPend : List Nat := []
  msixOn   : Bool := false
  msixMask : Bool := false
  msixTbl  : Store MsixEntry := []
  msixPba  : List Nat := []
  msixSent : List MsixMsg := []
  hostOut  : List HostRsp := []
  deriving DecidableEq, Repr

/-- The state of the package. `tkWait` lists the messages that wait at the ingress for a ticket, in arrival order (R394). `cur`, `issue`, `agenda`, `turn` and `free` are the model's own (log 3): the executing agent,
the issue in progress, the events taken next, the quadrants that may still issue in this cycle, and the counter at which
free values are drawn. -/
structure State where
  cyc      : DWord := 0
  mem      : Store Byte := []
  poison   : List Nat := []
  arrayErr : Store Nat := []
  posted   : List PostedW := []
  loads    : List LoadFly := []
  tlb      : List TlbLeaf := []
  tlbGen   : BitVec 4 := 0
  tlbinvs  : List TlbInv := []
  migs     : List Migration := []
  migWait  : List Nat := []
  wvc      : Store DWord := []
  threads  : List Thread := []
  crews    : List Crew := []
  wgs      : List Wg := []
  launches : List Launch := []
  bundles  : List Bundle := []
  reform   : List (Nat × Nat) := []
  ops      : List EngOp := []
  joints   : List Joint := []
  tiles    : List Tile := []
  accs     : Nat := 0
  clusters : Store Cluster := []
  walkers  : List Walker := []
  cmds     : List Cmd := []
  racc     : List RAccess := []
  tkCount  : Nat := 0
  noticed  : List Noticed := []
  fabric   : List FabMsg := []
  outbox   : List (BitVec 11 × FabMsg) := []
  shadows  : List Shadow := []
  tickets  : List Ticket := []
  tkNext   : BitVec 16 := 0
  tkWait   : List FabMsg := []
  rounds   : List Round := []
  noGroups : List Nat := []
  parts    : Store Part := []
  cores    : Store CoreSt := []
  stks     : Store StackSt := []
  scrubPeriod : Byte := 24
  scrubPasses : BitVec 32 := 0
  patrol   : Nat := 0
  patrolFrom : Nat := 0
  portWait : List PortWait := []
  links    : Links := {}
  hk       : Hk := {}
  cur      : Agent := .none
  issue    : Issue := {}
  agenda   : List Instr := []
  turn     : List (Nat × Nat) := []
  free     : Nat := 0
  deriving DecidableEq, Repr

/-- The package right after reset (R424): CYC at 0, no owner, no partition configured, every slot free, no workgroup, and
every register at the reset value INVENTORY.md lists. -/
def State.reset : State := {}

end Sys2Proof.Machine
end

