-- ==== Sys2Proof/Machine/Access.lean ====
section
/-! DEFINITION. Reading and changing the records of the state, the geometry of R12 and R24, the fields of a launch record
(R365), and the executing agent's registers. -/

namespace Sys2Proof.Machine

/-- Bits [lo + n - 1 : lo] of a value, as a number. -/
def bits {w : Nat} (x : BitVec w) (lo n : Nat) : Nat := (x.extractLsb' lo n).toNat

/-- Bits [lo + n - 1 : lo] of a number. -/
def nbits (x lo n : Nat) : Nat := x / 2 ^ lo % 2 ^ n

/-- Sign extension to 64 bits. -/
def sext64 {w : Nat} (x : BitVec w) : DWord := x.signExtend 64

/-- Zero extension to 64 bits. -/
def zext64 {w : Nat} (x : BitVec w) : DWord := x.setWidth 64

/-- Position of a core in the mesh, its die, its cluster in the die and its cluster in the package (R12). -/
def coreX (c : Nat) : Nat := c % 32
def coreY (c : Nat) : Nat := c / 32
def coreDie (c : Nat) : Nat := coreX c / 16 + 2 * (coreY c / 8)
def coreCluster (c : Nat) : Nat := (coreY c % 8) / 2 * 8 + (coreX c % 16) / 2
def clusterId (c : Nat) : Nat := 32 * coreDie c + coreCluster c
def coreInCluster (c : Nat) : Nat := (coreY c % 2) * 2 + coreX c % 2

/-- Records by index; an index out of range reads as an empty record. -/
def State.thr (s : State) (t : Nat) : Thread := s.threads.getD t {}
def State.crew (s : State) (c : Nat) : Crew := s.crews.getD c {}
def State.wg (s : State) (w : Nat) : Wg := s.wgs.getD w {}
def State.launch (s : State) (l : Nat) : Launch := s.launches.getD l {}
def State.wlk (s : State) (w : Nat) : Walker := s.walkers.getD w { cmd := 0, stack := 0, engine := 0 }
def State.part (s : State) (p : Nat) : Part := s.parts.get p
def State.core (s : State) (c : Nat) : CoreSt := s.cores.get c
def State.stk (s : State) (k : Nat) : StackSt := s.stks.get k

/-- Changes to one record. -/
def State.updThr (s : State) (t : Nat) (f : Thread → Thread) : State := { s with threads := s.threads.modify t f }
def State.updCrew (s : State) (c : Nat) (f : Crew → Crew) : State := { s with crews := s.crews.modify c f }
def State.updWg (s : State) (w : Nat) (f : Wg → Wg) : State := { s with wgs := s.wgs.modify w f }
def State.updLaunch (s : State) (l : Nat) (f : Launch → Launch) : State := { s with launches := s.launches.modify l f }
def State.updWlk (s : State) (w : Nat) (f : Walker → Walker) : State := { s with walkers := s.walkers.modify w f }
def State.updCmd (s : State) (w : Nat) (f : Cmd → Cmd) : State := { s with cmds := s.cmds.modify w f }
def State.updOp (s : State) (w : Nat) (f : EngOp → EngOp) : State := { s with ops := s.ops.modify w f }
def State.updJoint (s : State) (w : Nat) (f : Joint → Joint) : State := { s with joints := s.joints.modify w f }
def State.updTile (s : State) (w : Nat) (f : Tile → Tile) : State := { s with tiles := s.tiles.modify w f }
def State.updAcc (s : State) (w : Nat) (f : RAccess → RAccess) : State := { s with racc := s.racc.modify w f }
def State.updPart (s : State) (p : Nat) (f : Part → Part) : State := { s with parts := s.parts.upd p f }
def State.updCore (s : State) (c : Nat) (f : CoreSt → CoreSt) : State := { s with cores := s.cores.upd c f }
def State.updStk (s : State) (k : Nat) (f : StackSt → StackSt) : State := { s with stks := s.stks.upd k f }

/-- The workgroup, launch, core, partition and context of a crew and of a thread. -/
def State.wgOfCrew (s : State) (c : Nat) : Nat := (s.crew c).wg
def State.crewOf (s : State) (t : Nat) : Nat := (s.thr t).crew
def State.wgOf (s : State) (t : Nat) : Nat := s.wgOfCrew (s.crewOf t)
def State.launchOf (s : State) (t : Nat) : Nat := (s.wg (s.wgOf t)).launch
def State.coreOf (s : State) (t : Nat) : Nat := (s.wg (s.wgOf t)).core
def State.partOf (s : State) (t : Nat) : Nat := (s.launch (s.launchOf t)).part
def State.ctxOf (s : State) (t : Nat) : Nat := (s.launch (s.launchOf t)).ctx

/-- Fields of a launch record (R365). -/
def Launch.f (l : Launch) (lo n : Nat) : Nat := bits l.raw lo n
def Launch.entry (l : Launch) : DWord := l.raw.extractLsb' 0 64
def Launch.args (l : Launch) : DWord := l.raw.extractLsb' 64 64
def Launch.w (l : Launch) : Nat := l.f 128 5 + 1
def Launch.h (l : Launch) : Nat := l.f 133 4 + 1
def Launch.d (l : Launch) : Nat := l.f 137 16 + 1
def Launch.ta (l : Launch) : Nat := l.f 153 3
def Launch.tb (l : Launch) : Nat := l.f 156 3
def Launch.steal (l : Launch) : Bool := l.raw.getLsbD 159
def Launch.sa (l : Launch) : Nat := l.f 160 3
def Launch.sb (l : Launch) : Nat := l.f 163 3
def Launch.ncrew (l : Launch) : Nat := l.f 166 4 + 1
def Launch.regcnt (l : Launch) : Nat := (l.f 170 8 + 1) * 8
def Launch.prio (l : Launch) : Nat := l.f 178 3
def Launch.sup (l : Launch) : Bool := l.raw.getLsbD 181
def Launch.pb1 (l : Launch) : Nat := l.f 192 10
def Launch.pb2 (l : Launch) : Nat := l.f 202 10
def Launch.pb3 (l : Launch) : Nat := l.f 212 10
def Launch.stash4k (l : Launch) : Nat := l.f 224 10
def Launch.nlease (l : Launch) : Nat := l.f 234 5
def Launch.org (l : Launch) : Bool := l.raw.getLsbD 239
def Launch.rox (l : Launch) : Nat := l.f 240 5
def Launch.roy (l : Launch) : Nat := l.f 245 4
def Launch.leases (l : Launch) : DWord := l.raw.extractLsb' 256 64
def Launch.dep0 (l : Launch) : DWord := l.raw.extractLsb' 320 64
def Launch.tgt0 (l : Launch) : DWord := l.raw.extractLsb' 384 64
def Launch.dep1 (l : Launch) : DWord := l.raw.extractLsb' 448 64
def Launch.tgt1 (l : Launch) : DWord := l.raw.extractLsb' 512 64
def Launch.done (l : Launch) : DWord := l.raw.extractLsb' 576 64
def Launch.inc (l : Launch) : Nat := l.f 640 32
def Launch.statusVa (l : Launch) : DWord := l.raw.extractLsb' 704 64

/-- Workgroups of a launch. -/
def Launch.total (l : Launch) : Nat := l.w * l.h * l.d

/-- Stash size of a workgroup in bytes (R21). -/
def State.stashSize (s : State) (w : Nat) : Nat := (s.launch (s.wg w).launch).stash4k * 4096

/-- A thread runs at supervisor level (R333). -/
def State.isSup (s : State) (t : Nat) : Bool := (s.launch (s.launchOf t)).sup

/-- Register count of a thread's workgroup (R21). -/
def State.regcnt (s : State) (t : Nat) : Nat := (s.launch (s.launchOf t)).regcnt

/-- Quadrant of a crew and lane of a thread (R24). -/
def State.quadOf (s : State) (c : Nat) : Nat := ((s.crew c).num + (s.wg (s.wgOfCrew c)).rot.toNat) % 4
def State.laneOf (s : State) (t : Nat) : Nat := 32 * s.quadOf (s.crewOf t) + (s.thr t).num

/-- The 32 threads of a crew, by index. -/
def State.crewThreads (s : State) (c : Nat) : List Nat := (List.range 32).map ((s.crew c).base + ·)

/-- The crews of a workgroup that has been activated, by index. -/
def State.wgCrews (s : State) (w : Nat) : List Nat :=
  if (s.wg w).started then (List.range (s.wg w).ncrew).map ((s.wg w).base + ·) else []

/-- The threads of a workgroup, by index. -/
def State.wgThreads (s : State) (w : Nat) : List Nat := (s.wgCrews w).flatMap s.crewThreads

/-- A thread has exited. -/
def State.hasExited (s : State) (t : Nat) : Bool := (s.thr t).st == .exited

/-- The non-exited threads of a crew, ascending. -/
def State.live (s : State) (c : Nat) : List Nat := (s.crewThreads c).filter (fun t => !s.hasExited t)

/-- The thread is the leader of its crew (R32). -/
def State.isLeader (s : State) (t : Nat) : Bool := (s.crew (s.crewOf t)).leader == some (s.thr t).num

/-- The run phase of a context: 0 running or unknown, 2 stopping, 3 stopped, 4 saving, 5 loading (R345). -/
def State.ctxPhase (s : State) (p ctx : Nat) : Nat := ((s.part p).ctxs.get ctx).phase

/-- The executing agent's registers. -/
def State.curRegs (s : State) : Regs :=
  match s.cur with
  | .thread t => (s.thr t).r
  | .walker w => (s.wlk w).r
  | .none => {}

/-- Change the executing agent's registers. -/
def State.updRegs (s : State) (f : Regs → Regs) : State :=
  match s.cur with
  | .thread t => s.updThr t fun x => { x with r := f x.r }
  | .walker w => s.updWlk w fun x => { x with r := f x.r }
  | .none => s

/-- A thread that executes stands in the list of threads; a walker in the list of walkers. -/
def State.agentIn (s : State) : Bool :=
  match s.cur with
  | .thread t => t < s.threads.length
  | .walker w => w < s.walkers.length
  | .none => false

/-- The executing thread's index, 0 when a walker or none executes. -/
def State.t (s : State) : Nat :=
  match s.cur with
  | .thread t => t
  | .walker _ => 0
  | .none => 0

/-- The executing walker's index. -/
def State.w (s : State) : Nat :=
  match s.cur with
  | .thread _ => 0
  | .walker w => w
  | .none => 0

/-- Register and pair reads and writes (R127): xN is vN (low) and vN+1 (high). -/
def Regs.x (r : Regs) (n : Nat) : DWord := r.v.get (n + 1) ++ r.v.get n
def Regs.setV (r : Regs) (n : Nat) (x : Word) : Regs := { r with v := r.v.set n x }
def Regs.setX (r : Regs) (n : Nat) (x : DWord) : Regs :=
  { r with v := (r.v.set n (x.setWidth 32)).set (n + 1) (x.extractLsb' 32 32) }

/-- Predicate p[q]: p0 reads 1 (R25). -/
def Regs.pred (r : Regs) (q : BitVec 4) : Bool := q == 0 || r.p.getLsbD q.toNat

/-- Write p[q]; a write to p0 is ignored (R168). -/
def Regs.setP (r : Regs) (q : BitVec 4) (b : Bool) : Regs :=
  if q == 0 then r
  else { r with p := if b then r.p ||| (1#16 <<< q.toNat) else r.p &&& ~~~(1#16 <<< q.toNat) }

/-- The predicates as the 16 bits p15 … p0, bit 0 reading 1 (R204, R345). -/
def Regs.predBits (r : Regs) : BitVec 16 := r.p ||| 1

/-- The bytes of a value, least significant first (R9). -/
def bytesOf {w : Nat} (n : Nat) (x : BitVec w) : List Byte := leBytes n x.toNat

/-- The 64-bit value of bytes, least significant first. -/
def dwOf (bs : List Byte) : DWord := BitVec.ofNat 64 (leNat bs)

/-- A fresh draw of the counter of free values (log 3). -/
def State.draw (s : State) : State := { s with free := s.free + 1 }

end Sys2Proof.Machine
end

