-- ==== Sys2Proof/Machine/Rans.lean ====
section
/-! DEFINITION. Entropy-coded tiles (R146 to R155): index entries, probability tables, interval decoding and CRC-32C. -/

namespace Sys2Proof.Machine

/-- An index table entry (R147). -/
structure CodedEntry where
  poff   : Nat
  plen   : Nat
  rawfmt : Nat
  tid    : Nat
  rlog   : Nat
  mloff  : Nat
  crc    : Nat
  deriving DecidableEq, Repr

/-- The fields of an entry's 16 bytes as a number (R147). -/
def entryOfNat (n : Nat) : CodedEntry :=
  ⟨nbits n 0 40, nbits n 40 24, nbits n 64 4, nbits n 68 2, nbits n 70 4, nbits n 74 22, nbits n 96 32⟩

/-- R149: the entry is malformed; `mw` for MWLOAD's limit. -/
def CodedEntry.bad (e : CodedEntry) (mw : Bool) : Bool :=
  e.poff % 4 != 0 || e.plen % 2 != 0 || e.plen < 32 || 3 < e.rawfmt || 8 < e.rlog || (mw && 49152 < e.plen)

/-- Element plane, and symbols in all, of a raw format (R148). -/
def rawPlane (_ : Nat) : Nat := 32768
def rawSymbols (fmt : Nat) : Nat := match fmt with | 1 => 34816 | 2 => 36864 | _ => 32768

/-- Symbols per interval, intervals, symbols of interval v (R147, R150). -/
def CodedEntry.r (e : CodedEntry) : Nat := 2 ^ (e.rlog + 8)
def CodedEntry.n (e : CodedEntry) : Nat := rawSymbols e.rawfmt
def CodedEntry.intervals (e : CodedEntry) : Nat := (e.n + e.r - 1) / e.r
def CodedEntry.len (e : CodedEntry) (v : Nat) : Nat := min e.r (e.n - e.r * v)

/-- A byte of the payload as it is read: its value, or a fault at the place. -/
inductive Rd where
  | byte (b : Nat)
  | miss
  | poison
  deriving DecidableEq, Repr

/-- How decoding ends: going on with a value, malformed with a condition of R155, or a read that failed at an offset. -/
inductive Dec (α : Type) where
  | ok (a : α)
  | bad (cond : Nat)
  | miss (off : Nat)
  | poison (off : Nat)
  deriving DecidableEq, Repr

def Dec.bind {α β : Type} (d : Dec α) (f : α → Dec β) : Dec β :=
  match d with
  | .ok a => f a
  | .bad c => .bad c
  | .miss o => .miss o
  | .poison o => .poison o

/-- A reader of the payload: what a read changes, and what it finds at an offset. -/
abbrev Reader (σ : Type) := σ → Nat → σ × Rd

/-- A little-endian value of n bytes at an offset. -/
def rdLe {σ : Type} (rd : Reader σ) (s : σ) (off : Nat) : Nat → σ × Dec Nat
  | 0 => (s, .ok 0)
  | n + 1 =>
    match rd s off with
    | (s, .miss) => (s, .miss off)
    | (s, .poison) => (s, .poison off)
    | (s, .byte b) =>
      let r := rdLe rd s (off + 1) n
      (r.1, r.2.bind fun x => .ok (b + 256 * x))

/-- The symbol of a slot with its cumulative value (R153). -/
def findSym : List Nat → Nat → Nat → Nat → Option (Nat × Nat × Nat)
  | [], _, _, _ => none
  | f :: r, s, cum, slot => if cum ≤ slot && slot < cum + f then some (s, f, cum) else findSym r (s + 1) (cum + f) slot

/-- Renormalisation of a state (R153). -/
def renorm {σ : Type} (rd : Reader σ) (plen : Nat) : Nat → σ → Nat → Nat → σ × Dec (Nat × Nat)
  | 0, s, x, ptr => (s, .ok (x, ptr))
  | fuel + 1, s, x, ptr =>
    if 65536 ≤ x then (s, .ok (x, ptr))
    else if plen < ptr + 2 then (s, .bad 4)
    else match rdLe rd s ptr 2 with
      | (s, .ok w) => renorm rd plen fuel s (x * 65536 + w) (ptr + 2)
      | (s, .bad c) => (s, .bad c)
      | (s, .miss o) => (s, .miss o)
      | (s, .poison o) => (s, .poison o)

/-- Symbols i, i + 1, … of an interval: the symbols decoded, newest first, and how the decoding goes on (R153). -/
def decSyms {σ : Type} (rd : Reader σ) (freq : List Nat) (plen : Nat) :
    Nat → σ → Nat → List Nat → Nat → List Nat → σ × List Nat × Dec (List Nat)
  | 0, s, _, xs, _, out => (s, out, .ok xs)
  | n + 1, s, i, xs, ptr, out =>
    let j := i % 8
    let x := xs.getD j 0
    match findSym freq 0 0 (x % 4096) with
    | none => (s, out, .bad 5)
    | some (y, f, cum) =>
      match renorm rd plen (plen / 2 + 2) s (f * (x / 4096) + x % 4096 - cum) ptr with
      | (s, .ok (x', ptr')) => decSyms rd freq plen n s (i + 1) (xs.set j x') ptr' (y :: out)
      | (s, .bad c) => (s, y :: out, .bad c)
      | (s, .miss o) => (s, y :: out, .miss o)
      | (s, .poison o) => (s, y :: out, .poison o)

/-- The eight initial states at a marker. -/
def initStates {σ : Type} (rd : Reader σ) (s : σ) (m : Nat) : Nat → σ × Dec (List Nat)
  | 0 => (s, .ok [])
  | n + 1 =>
    match rdLe rd s m 4 with
    | (s, .ok x) =>
      let r := initStates rd s (m + 4) n
      (r.1, r.2.bind fun l => .ok (x :: l))
    | (s, .bad c) => (s, .bad c)
    | (s, .miss o) => (s, .miss o)
    | (s, .poison o) => (s, .poison o)

/-- Interval v of a tile from its marker (R153): the symbols decoded in order, and whether it ends well. Offsets are from P. -/
def decInterval {σ : Type} (rd : Reader σ) (freq : List Nat) (e : CodedEntry) (v : Nat) (s : σ) (mark : Dec Nat) : σ × List Nat × Dec Unit :=
  match mark with
  | .bad c => (s, [], .bad c)
  | .miss o => (s, [], .miss o)
  | .poison o => (s, [], .poison o)
  | .ok m =>
    if m % 2 != 0 || e.plen < m + 32 then (s, [], .bad 3)
    else match initStates rd s m 8 with
      | (s, .bad c) => (s, [], .bad c)
      | (s, .miss o) => (s, [], .miss o)
      | (s, .poison o) => (s, [], .poison o)
      | (s, .ok xs) =>
        let r := decSyms rd freq e.plen (e.len v) s 0 xs (m + 32) []
        (r.1, r.2.1.reverse, r.2.2.bind fun xs => if xs.all (· == 65536) then .ok () else .bad 6)

/-- The offset of marker v from P (R150, R153). -/
def CodedEntry.markAt (e : CodedEntry) (v : Nat) : Nat := 4 * e.mloff + 4 * v

/-- A reader of bytes that have been fetched. -/
def bufReader (buf : Array Byte) : Reader Unit := fun _ o => ((), match buf[o]? with | some b => .byte b.toNat | none => .miss)

/-- Interval v from fetched payload bytes and markers. -/
def decFetched (buf : Array Byte) (marks freq : List Nat) (e : CodedEntry) (v : Nat) : List Nat × Dec Unit :=
  (decInterval (bufReader buf) freq e v () (.ok (marks.getD v 0))).2

/-- A step of CRC-32C over one byte, reflected (R154). -/
def crcByte (crc : Word) (b : Nat) : Word :=
  (List.range 8).foldl (fun (c : Word) _ => if c.getLsbD 0 then (c >>> 1) ^^^ 0x82F63B78 else c >>> 1) (crc ^^^ BitVec.ofNat 32 b)

def crcBytes (crc : Word) (bs : List Nat) : Word := bs.foldl crcByte crc

/-- CRC-32C of bytes (R154). -/
def crc32c (bs : List Nat) : Word := crcBytes 0xFFFFFFFF bs ^^^ 0xFFFFFFFF

/-- The frequencies of a table's 512 bytes (R151). -/
def freqsOf : Nat → List Byte → List Nat
  | 0, _ => []
  | n + 1, bs => leNat (bs.take 2) :: freqsOf n (bs.drop 2)

/-- A table is valid (R151). -/
def freqOk (fs : List Nat) : Bool := fs.foldl (· + ·) 0 == 4096

end Sys2Proof.Machine
end

