-- ==== Sys2Proof/Machine/LinkOps.lean ====
section
/-! DEFINITION. The sending side of the Rein links: header compression, flits, retry buffers, key banks, and the two channels of the egress
(R408 to R412). -/

namespace Sys2Proof.Machine

/-- A counter that saturates at its maximum (R423). -/
def satInc {w : Nat} (x : BitVec w) : BitVec w := if x == BitVec.allOnes w then x else x + 1

/-! ### Packet headers (R409) -/

/-- The fields of a packet's header: source and destination package, and the kind of its message (log 23). -/
def packetHeader (src dst : BitVec 11) : FabMsg → List Nat
  | .request _ => [src.toNat, dst.toNat, 0]
  | .reply _ _ => [src.toNat, dst.toNat, 1]
  | .ticket _ _ => [src.toNat, dst.toNat, 2]
  | .abort _ _ => [src.toNat, dst.toNat, 3]
  | .notice _ _ => [src.toNat, dst.toNat, 4]
  | .ack _ => [src.toNat, dst.toNat, 5]
  | .release _ _ => [src.toNat, dst.toNat, 6]
  | .contrib _ => [src.toNat, dst.toNat, 7]

/-- The header that a form stands for, against a table (R409). -/
def formFields (t : Store (List Nat)) : HeaderForm → List Nat
  | .whole h _ => h
  | .entry e diff => diff.foldl (fun (h : List Nat) (x : Nat × Nat) => h.set x.1 x.2) (t.get e.toNat)

/-- The table after a form: a whole header may be stored in an entry (R409). -/
def formUpdate (t : Store (List Nat)) : HeaderForm → Store (List Nat)
  | .whole h (some e) => t.set e.toNat h
  | .whole _ none => t
  | .entry _ _ => t

/-- The form of a header against a table: each destination has the entry of its number modulo 64 (R409; log 23). -/
def headerForm (t : Store (List Nat)) (dst : BitVec 11) (h : List Nat) : HeaderForm :=
  let e : BitVec 6 := dst.setWidth 6
  let old := t.get e.toNat
  if old.length = h.length then .entry e ((List.range h.length).filterMap fun i => if old[i]? = h[i]? then none else (h[i]?).map fun x => (i, x))
  else .whole h (some e)

/-! ### Flits (R408, R410) -/

/-- The link header of a flit (R408). -/
def linkHeader (seq ack : BitVec 12) (kg : Bool) (credits : BitVec 23) (kind : BitVec 3) : DWord :=
  zext64 seq ||| zext64 ack <<< 12 ||| zext64 (BitVec.ofBool kg) <<< 24 ||| zext64 credits <<< 25 ||| zext64 kind <<< 48

/-- The nonce of a flit: link number, direction, and the bank's counter (R410). -/
def flitNonce (link : Nat) (receive : Bool) (ctr : Nat) : BitVec 96 :=
  BitVec.ofNat 96 (link % 256 + receive.toNat * 2 ^ 8 + ctr % 2 ^ 48 * 2 ^ 48)

/-- The key of a bank: 0 and 1 send, 2 and 3 receive (R410, R411). -/
def ReinLink.key (l : ReinLink) (link bank : Nat) : Option (BitVec 256) := (l.keys.getD bank none).map (Config.linkKey (4 * link + bank))

/-- A renewal is asked for when the bank's counter reaches 2^47; at 2^48 − 1 the direction stops sending new flits (R411). -/
def ReinLink.rekeyCheck (l : ReinLink) : ReinLink :=
  let n := l.txCtr.getD l.txKg.toNat 0
  { l with wantRekey := l.wantRekey || 2 ^ 47 ≤ n, stopped := l.stopped || 2 ^ 48 - 1 ≤ n }

/-- A flit that is sent for the first time under a number: its bank's key and counter give its nonce, by which its payload is encrypted and its
tag made (R408, R410). -/
def ReinLink.flit (l : ReinLink) (link : Nat) (seq : BitVec 12) (payload : List FlitPacket) (pkt : Nat) : SentFlit :=
  let ctr := l.txCtr.getD l.txKg.toNat 0
  let ack := l.rxSeq - 1
  let key := (l.key link l.txKg.toNat).getD 0
  { seq := seq, ack := ack, kg := l.txKg, payload := payload, pkt := pkt, ctr := ctr,
    cipher := Config.flitCipher key (flitNonce link false ctr) payload,
    tag := Config.flitTag key (flitNonce link false ctr) (linkHeader seq ack l.txKg 0 0) payload }

/-- The bank's counter after a first sending (R410, R411). -/
def ReinLink.counted (l : ReinLink) : ReinLink := ({ l with txCtr := l.txCtr.modify l.txKg.toNat (· + 1) } : ReinLink).rekeyCheck

/-- A flit goes onto the wire and into the retry buffer (R408). -/
def ReinLink.emit (l : ReinLink) (f : SentFlit) : ReinLink := { l with buffer := l.buffer ++ [f], wire := l.wire ++ [.flit f] }

/-- The flits that a message takes, of 232 bytes of payload: only the list of a contribution, of 8 bytes an entry, is longer than one (R408;
log 23). -/
def flitCount : FabMsg → Nat
  | .contrib k => max 1 ((k.list.length + 24) / 25)
  | _ => 1

/-- One of a packet's flits is sent, its header coded against the transmitter's table; `more` says that others follow (R408 to R410;
log 23). -/
def ReinLink.sendFlit (l : ReinLink) (link : Nat) (src dst : BitVec 11) (pkt : Nat) (m : FabMsg) (more : Bool) : ReinLink :=
  let form := headerForm l.txHeaders dst (packetHeader src dst m)
  ({ l with txHeaders := formUpdate l.txHeaders form, txSeq := l.txSeq + 1 } : ReinLink).emit (l.flit link l.txSeq [⟨form, m, more⟩] pkt)
    |>.counted

/-- The direction may encrypt: it has its bank's key and a counter left (R410, R411). -/
def ReinLink.canEncrypt (l : ReinLink) : Bool := !l.stopped && (l.keys.getD l.txKg.toNat none).isSome

/-- A link may send new flits: up, not retraining, not stopped, keyed, with room in its retry buffer, and none there still to be written anew
(R408, R410, R411). -/
def ReinLink.maySend (l : ReinLink) : Bool :=
  !l.down && !l.trying && l.canEncrypt && l.buffer.length < 512 && l.buffer.all fun f => !f.stale

/-- Stale flits are written anew in order, each under its own number and a new counter, as long as the direction has one (R408, R410, R411;
log 71). -/
def ReinLink.recode (l : ReinLink) (link : Nat) : ReinLink :=
  l.buffer.foldl (fun (m : ReinLink) (f : SentFlit) =>
    if f.stale && m.canEncrypt then (m.emit (m.flit link f.seq f.payload f.pkt)).counted else { m with buffer := m.buffer ++ [f] })
    { l with buffer := [] }

/-- The stored flits of a link that has retrained: the tables are empty, so that each is to be written anew with whole headers (R408 to R410;
log 71). -/
def ReinLink.rewrite (l : ReinLink) (link : Nat) : ReinLink :=
  let whole := fun (p : FlitPacket) => { p with hdr := HeaderForm.whole (formFields l.txHeaders p.hdr) none }
  ({ l with buffer := l.buffer.map fun f => { f with payload := f.payload.map whole, stale := true },
            txHeaders := [], headers := [] } : ReinLink).recode link

/-! ### The egress (R412) -/

/-- A link that carries packets: enabled and up (R408, R423). -/
def Links.carries (l : Links) (i : Nat) : Bool := l.enabled.getLsbD i && !(l.rein.get i).down

/-- The link that takes the package's packets: the lowest one that carries any (log 23). -/
def Links.route (l : Links) : Option Nat := (List.range 18).find? l.carries

/-- The request or contribution of an access. -/
def isMsgOf (acc : Nat) : FabMsg → Bool
  | .request p => p.acc == acc
  | .contrib k => k.acc == acc
  | _ => false

/-- What an access sent has not been acknowledged by the link that took it, and that link has gone down after its retries (R252, R408). -/
def Links.linkLost (l : Links) (acc : Nat) : Bool :=
  l.egress.any fun e => e.sent && isMsgOf acc e.msg && e.link.any fun i => (l.rein.get i).down

/-- Packets that wait for a link that does not carry any more take another (R408). -/
def Links.reroute (l : Links) : Links :=
  { l with egress := l.egress.map fun e =>
      if !e.sent && !e.link.any l.carries then { e with link := l.route, flits := 0, since := none } else e }

/-- The n flits that a packet has left are sent as long as its link may send; each is progress (R412). -/
def Links.sendFlits : Nat → Links → Egress → Links
  | 0, l, _ => l
  | n + 1, l, e =>
    match e.link with
    | some i =>
      if (l.rein.get i).maySend then
        let e := { e with flits := e.flits + 1, sent := n == 0, since := none }
        ({ l with
           rein := l.rein.upd i fun x => x.sendFlit i l.pkg e.dst e.pkt e.msg (n != 0),
           egress := l.egress.map fun y => if y.pkt = e.pkt then e else y } : Links).sendFlits n e
      else l
    | none => l

/-- A packet that waits is sent if its link may send. -/
def Links.sendOne (l : Links) (e : Egress) : Links := if e.sent then l else Links.sendFlits (flitCount e.msg - e.flits) l e

/-- The packet at the head of a link's adaptive queue (R412). -/
def Links.head (l : Links) (i : Nat) : Option Egress := l.egress.find? fun e => e.link == some i && !e.escape && !e.sent

/-- A packet that has come to the head of an adaptive queue waits from now on (R412). -/
def Links.heads (l : Links) (now : Nat) : Links :=
  let hs := (List.range 18).filterMap fun i => (l.head i).map (·.pkt)
  { l with egress := l.egress.map fun e => if hs.contains e.pkt && e.since.isNone then { e with since := some now } else e }

/-- The packets that wait are sent: each link's escape channel first, then its adaptive queue in order (R412; log 23). -/
def Links.pumpFlits (l : Links) (now : Nat) : Links :=
  let l := l.reroute
  ((l.egress.filter fun (e : Egress) => !e.escape).foldl Links.sendOne ((l.egress.filter fun (e : Egress) => e.escape).foldl Links.sendOne l)).heads now

/-- The link of a packet's pair: that of an earlier packet of the pair which has not been delivered, while it carries packets, so that the
pair keeps its order (R412; log 23). -/
def Links.pairRoute (l : Links) (dst : BitVec 11) : Option Nat :=
  match l.egress.findSome? fun e => if e.dst == dst then e.link.filter l.carries else none with
  | some i => some i
  | none => l.route

/-- A packet enters the egress: on the escape channel while an earlier one of its pair is there (R412). -/
def Links.enqueue (l : Links) (dst : BitVec 11) (m : FabMsg) (pkt now : Nat) : Links :=
  ({ l with egress := l.egress ++
      [{ dst := dst, msg := m, pkt := pkt, link := l.pairRoute dst, escape := l.egress.any fun e => e.dst == dst && e.escape }] }
    : Links).pumpFlits now

/-- Once every flit of the former bank has been acknowledged its key is retired (R411). -/
def ReinLink.retire (l : ReinLink) : ReinLink :=
  if l.buffer.all fun f => f.stale || f.kg == l.txKg then { l with keys := l.keys.set (!l.txKg).toNat none } else l

/-- Flits up to a sequence number are acknowledged: they leave the retry buffer, the packets that end in them the egress (R408, R411, R412;
log 23). A send that failed counts no more once its flit has been accepted. -/
def Links.acked (l : Links) (i : Nat) (ack : BitVec 12) (now : Nat) : Links :=
  match (l.rein.get i).buffer.findIdx? (·.seq == ack) with
  | none => l
  | some n =>
    let got := (l.rein.get i).buffer.take (n + 1)
    let gone := (got.filter fun f => f.payload.all fun p => !p.more).map (·.pkt)
    ({ l with
        rein := l.rein.upd i fun x => ({ x with buffer := x.buffer.drop (n + 1), txFails := if got.any (·.seq == x.txLast) then 0 else x.txFails } : ReinLink).retire,
        egress := l.egress.filter fun e => !gone.contains e.pkt } : Links).pumpFlits now

end Sys2Proof.Machine
end

