-- ==== Sys2Proof/Machine/Operands.lean ====
section
/-! DEFINITION. Every operand form of a start word: its check at step 5 of R178, the registers and latch it names, and its
value (R168, R169, R196). -/

namespace Sys2Proof.Machine

/-- A source operand with its width and whether imm10 is allowed (R169, R196). -/
inductive Opd where
  | v (s : Src)
  | vi (s : Src)
  | x (s : Src)
  | xi (s : Src)
  | quad (s : Src)
  | block (s : Src)
  | rptr (s : Src)
  | reg (n cnt : Nat)
  | va (s : Src) (foot : Nat)
  deriving DecidableEq, Repr

/-- A destination (R168). -/
inductive Dst where
  | none
  | v (d : BitVec 11)
  | x (d : BitVec 11)
  | q (d : BitVec 11)
  | run (d : BitVec 11) (n : Nat)
  | p (d : BitVec 11)
  deriving DecidableEq, Repr

/-- Registers from n on lie below the register count, at a multiple (R25, R169). -/
def regsOk (cnt n len mul : Nat) : Bool := n % mul == 0 && n + len ≤ cnt

/-- Step 5 of R178 for one source. -/
def Opd.ok (cnt : Nat) : Opd → Bool
  | .v s => match s with | .v n => regsOk cnt n.toNat 1 1 | .bad _ => false | .imm _ => false | _ => true
  | .vi s => match s with | .v n => regsOk cnt n.toNat 1 1 | .bad _ => false | _ => true
  | .x s => match s with | .v n => regsOk cnt n.toNat 2 2 | .bad _ => false | .imm _ => false | _ => true
  | .xi s => match s with | .v n => regsOk cnt n.toNat 2 2 | .bad _ => false | _ => true
  | .quad s => match s with | .v n => regsOk cnt n.toNat 4 4 | _ => false
  | .block s => match s with | .v n => regsOk cnt n.toNat 16 16 | _ => false
  | .rptr s => match s with | .v n => regsOk cnt n.toNat 4 4 | _ => false
  | .reg n len => n + len ≤ cnt
  | .va s _ => match s with | .v n => n.toNat < cnt | _ => false

/-- Step 5 of R178 for the destination; a result that goes to the latch only names none. -/
def Dst.ok (cnt : Nat) : Dst → Bool
  | .none => true
  | .v d => regsOk cnt d.toNat 1 1
  | .x d => regsOk cnt d.toNat 2 2
  | .q d => regsOk cnt d.toNat 4 4
  | .run d n => d.toNat + n ≤ cnt
  | .p _ => true

/-- Registers an operand reads, as first and count (R234). -/
def Opd.regs : Opd → List (Nat × Nat)
  | .v (.v n) => [(n.toNat, 1)]
  | .vi (.v n) => [(n.toNat, 1)]
  | .x (.v n) => [(n.toNat, 2)]
  | .xi (.v n) => [(n.toNat, 2)]
  | .quad (.v n) => [(n.toNat, 4)]
  | .block (.v n) => [(n.toNat, 16)]
  | .rptr (.v n) => [(n.toNat, 4)]
  | .reg n len => [(n, len)]
  | .va (.v n) foot => [(n.toNat, foot)]
  | _ => []

/-- Registers a destination names. -/
def Dst.regs : Dst → List (Nat × Nat)
  | .v d => [(d.toNat, 1)]
  | .x d => [(d.toNat, 2)]
  | .q d => [(d.toNat, 4)]
  | .run d n => [(d.toNat, n)]
  | _ => []

/-- The latch a source names. -/
def Src.latch? : Src → Option (BitVec 3)
  | .latch j => some j
  | _ => none

def Opd.latch? : Opd → Option (BitVec 3)
  | .v s => Src.latch? s
  | .vi s => Src.latch? s
  | .x s => Src.latch? s
  | .xi s => Src.latch? s
  | _ => none

/-- Two register ranges meet. -/
def meets (a b : Nat × Nat) : Bool := a.1 < b.1 + b.2 && b.1 < a.1 + a.2

/-! ### Reading operands (R169) -/

/-- The 32-bit value of a source. -/
def Regs.rv (r : Regs) : Src → Word
  | .v n => r.v.get n.toNat
  | .latch j => (r.latch.get j.toNat).setWidth 32
  | .zero => 0
  | .bad _ => 0
  | .imm i => i.signExtend 32

/-- The 64-bit value of a source. -/
def Regs.rx (r : Regs) : Src → DWord
  | .v n => r.x n.toNat
  | .latch j => r.latch.get j.toNat
  | .zero => 0
  | .bad _ => 0
  | .imm i => i.signExtend 64

/-- The register number of a source that must name one. -/
def srcReg : Src → Nat
  | .v n => n.toNat
  | _ => 0

end Sys2Proof.Machine
end

