-- ==== Sys2Proof/Machine/Float.lean ====
section
/-! DEFINITION. Floating point of the vector path and the arrays (R126 to R135, R140, R219 to R225): exact rationals, one
rounding, and the flags of R133. Patterns are numbers below 2^width. -/

namespace Sys2Proof.Machine

/-- A binary format (R126). -/
structure Fmt where
  w  : Nat
  eb : Nat
  fb : Nat
  deriving DecidableEq, Repr

def f32 : Fmt := ⟨32, 8, 23⟩
def bf16 : Fmt := ⟨16, 8, 7⟩
def f16 : Fmt := ⟨16, 5, 10⟩

/-- A value read from a pattern: NaN (signalling or not), infinity, or a signed exact rational num / den (zero keeps its
sign). -/
inductive FV where
  | nan (sig : Bool)
  | inf (neg : Bool)
  | fin (neg : Bool) (num den : Nat)
  deriving DecidableEq, Repr

/-- A pattern with the flags its computation sets: nv 1, dz 2, of 4, uf 8, nx 16 (R133). -/
structure FR where
  pat : Nat
  fl  : BitVec 9
  deriving DecidableEq, Repr

def fNV : BitVec 9 := 1
def fDZ : BitVec 9 := 2
def fOF : BitVec 9 := 4
def fUF : BitVec 9 := 8
def fNX : BitVec 9 := 16

def Fmt.bias (f : Fmt) : Nat := 2 ^ (f.eb - 1) - 1
def Fmt.emax (f : Fmt) : Nat := 2 ^ f.eb - 1
def Fmt.signBit (f : Fmt) (neg : Bool) : Nat := if neg then 2 ^ (f.w - 1) else 0

/-- The canonical NaN (R126, R128), an infinity and a zero. -/
def Fmt.canon (f : Fmt) : Nat := f.emax * 2 ^ f.fb + 2 ^ (f.fb - 1)
def Fmt.infPat (f : Fmt) (neg : Bool) : Nat := f.signBit neg + f.emax * 2 ^ f.fb
def Fmt.zeroPat (f : Fmt) (neg : Bool) : Nat := f.signBit neg

/-- Sign, exponent and fraction of a pattern. -/
def Fmt.neg (f : Fmt) (x : Nat) : Bool := x / 2 ^ (f.w - 1) % 2 == 1
def Fmt.ex (f : Fmt) (x : Nat) : Nat := x / 2 ^ f.fb % 2 ^ f.eb
def Fmt.fr (f : Fmt) (x : Nat) : Nat := x % 2 ^ f.fb

def Fmt.isNaN (f : Fmt) (x : Nat) : Bool := f.ex x == f.emax && f.fr x != 0
def Fmt.isSNaN (f : Fmt) (x : Nat) : Bool := f.isNaN x && f.fr x / 2 ^ (f.fb - 1) == 0
def Fmt.isInf (f : Fmt) (x : Nat) : Bool := f.ex x == f.emax && f.fr x == 0
def Fmt.isZero (f : Fmt) (x : Nat) : Bool := f.ex x == 0 && f.fr x == 0
def Fmt.isSub (f : Fmt) (x : Nat) : Bool := f.ex x == 0 && f.fr x != 0

/-- A subnormal operand is read as a zero of its sign under ftz (R132). -/
def Fmt.flushIn (f : Fmt) (ftz : Bool) (x : Nat) : Nat := if ftz && f.isSub x then f.zeroPat (f.neg x) else x

/-- 2^e as a fraction. -/
def pow2 (e : Int) : Nat × Nat := if e < 0 then (1, 2 ^ e.natAbs) else (2 ^ e.toNat, 1)

/-- The value of a pattern (R126), subnormals flushed under ftz (R132). -/
def Fmt.val (f : Fmt) (ftz : Bool) (x : Nat) : FV :=
  if f.ex x = f.emax then (if f.fr x = 0 then .inf (f.neg x) else .nan (f.fr x / 2 ^ (f.fb - 1) == 0))
  else if f.ex x = 0 then
    if f.fr x = 0 || ftz then .fin (f.neg x) 0 1 else .fin (f.neg x) (f.fr x) (2 ^ (f.bias + f.fb - 1))
  else
    let e : Int := (f.ex x : Int) - f.bias - f.fb
    .fin (f.neg x) ((2 ^ f.fb + f.fr x) * (pow2 e).1) (pow2 e).2

/-- num / den rounded to an integer in a mode, and whether that changed it (R131). -/
def divRnd (rm : Rnd) (neg : Bool) (num den : Nat) : Nat × Bool :=
  let q := num / den
  let r := num % den
  if r = 0 then (q, false)
  else
    let up := match rm with
      | .rne => den < 2 * r || (2 * r == den && q % 2 == 1)
      | .rz => false
      | .rdn => neg
      | .rup => !neg
    (if up then q + 1 else q, true)

/-- floor(log2(num / den)) for num, den > 0. -/
def ilog (num den : Nat) : Int :=
  let e : Int := (Nat.log2 num : Int) - Nat.log2 den
  if num * (pow2 (-e)).1 < den * (pow2 (-e)).2 then e - 1 else e

/-- num / den at the quantum 2^q. -/
def atQuantum (rm : Rnd) (neg : Bool) (num den : Nat) (q : Int) : Nat × Bool :=
  divRnd rm neg (num * (pow2 (-q)).1) (den * (pow2 (-q)).2)

/-- The exact value (-1)^neg · num / den rounded once to a format (R131), with of, uf and nx (R133: tiny after rounding with
an unbounded exponent; log 13) and the flush of R132. -/
def Fmt.round (f : Fmt) (rm : Rnd) (ftz neg : Bool) (num den : Nat) : FR :=
  if num = 0 then ⟨f.zeroPat neg, 0⟩
  else
    let e := ilog num den
    let emin : Int := 1 - f.bias
    let q := (if e < emin then emin else e) - f.fb
    let (m0, inexact) := atQuantum rm neg num den q
    let big := 2 ^ (f.fb + 1) ≤ m0
    let m := if big then m0 / 2 else m0
    let q' := if big then q + 1 else q
    let tiny := e < emin && !(e == emin - 1 && 2 ^ (f.fb + 1) ≤ (atQuantum rm neg num den (e - f.fb)).1)
    let fl : BitVec 9 := if inexact then (if tiny then fNX ||| fUF else fNX) else 0
    let E : Int := if m < 2 ^ f.fb then 0 else q' + f.fb + f.bias
    if (f.emax : Int) ≤ E then
      let toInf := match rm with | .rne => true | .rz => false | .rdn => neg | .rup => !neg
      ⟨if toInf then f.infPat neg else f.infPat neg - 1, fOF ||| fNX⟩
    else if E == 0 && m != 0 && ftz then ⟨f.zeroPat neg, fl ||| fUF ||| fNX⟩
    else ⟨f.signBit neg + E.toNat * 2 ^ f.fb + m % 2 ^ f.fb, fl⟩

/-- nv when an operand is a signalling NaN (R133). -/
def sigFl (x : FV) : BitVec 9 := match x with | .nan true => fNV | _ => 0

/-- The exact product of two values; 0 × ∞ is invalid (R219). -/
def FV.mul (a b : FV) : FV × BitVec 9 :=
  match a, b with
  | .nan _, _ => (.nan false, sigFl a ||| sigFl b)
  | _, .nan _ => (.nan false, sigFl a ||| sigFl b)
  | .inf s, .inf t => (.inf (s != t), 0)
  | .inf s, .fin t n _ => if n = 0 then (.nan false, fNV) else (.inf (s != t), 0)
  | .fin s n _, .inf t => if n = 0 then (.nan false, fNV) else (.inf (s != t), 0)
  | .fin s n d, .fin t m e => (.fin (s != t) (n * m) (d * e), 0)

/-- The exact sum of terms: a NaN or infinities of both signs give NaN, the latter invalid where no term is a NaN (log 66); an exact zero of
unlike signs is +0.0, or -0.0 under .rdn (R131, R133, R219). -/
def sumFV (rm : Rnd) (ts : List FV) : FV × BitVec 9 :=
  if ts.any (fun t => match t with | .nan _ => true | _ => false) then
    (.nan false, ts.foldl (fun a t => a ||| sigFl t) 0)
  else
    let pos := ts.any (· == .inf false)
    let neg := ts.any (· == .inf true)
    if pos && neg then (.nan false, fNV)
    else if pos then (.inf false, 0)
    else if neg then (.inf true, 0)
    else
      let (n, d) := ts.foldl (fun (acc : Int × Nat) t =>
        match t with
        | .fin s n d => (acc.1 * d + (if s then -(n : Int) else n) * acc.2, acc.2 * d)
        | _ => acc) (0, 1)
      let allNeg := ts.all fun t => match t with | .fin s _ _ => s | _ => false
      let anyNeg := ts.any fun t => match t with | .fin s _ _ => s | _ => false
      if n = 0 then (.fin (if anyNeg then allNeg || rm == .rdn else false) 0 1, 0)
      else (.fin (n < 0) n.natAbs d, 0)

/-- A value delivered in a format: NaN is canonical (R128), a finite value is rounded. -/
def Fmt.deliver (f : Fmt) (rm : Rnd) (ftz : Bool) (x : FV × BitVec 9) : FR :=
  match x.1 with
  | .nan _ => ⟨f.canon, x.2⟩
  | .inf s => ⟨f.infPat s, x.2⟩
  | .fin s n d => let r := f.round rm ftz s n d; ⟨r.pat, x.2 ||| r.fl⟩

/-- A + B (R218, R219). -/
def Fmt.add (f : Fmt) (rm : Rnd) (ftz : Bool) (a b : Nat) : FR :=
  f.deliver rm ftz (sumFV rm [f.val ftz a, f.val ftz b])

/-- The negated pattern, NaNs kept. -/
def Fmt.flip (f : Fmt) (x : Nat) : Nat := if f.neg x then x - 2 ^ (f.w - 1) else x + 2 ^ (f.w - 1)

/-- A − B. -/
def Fmt.sub (f : Fmt) (rm : Rnd) (ftz : Bool) (a b : Nat) : FR := f.add rm ftz a (f.flip b)

/-- A × B. -/
def Fmt.mul (f : Fmt) (rm : Rnd) (ftz : Bool) (a b : Nat) : FR :=
  f.deliver rm ftz ((f.val ftz a).mul (f.val ftz b))

/-- The fused sum of products and an addend read in `g`, rounded once to `f` (R131, R219, R223). -/
def fused (f g : Fmt) (rm : Rnd) (ftz : Bool) (prods : List (Nat × Nat)) (c : Nat) : FR :=
  let ps := prods.map fun (a, b) => (g.val ftz a).mul (g.val ftz b)
  let fl := ps.foldl (fun acc p => acc ||| p.2) 0
  let s := sumFV rm (ps.map (·.1) ++ [f.val ftz c])
  f.deliver rm ftz (s.1, s.2 ||| fl)

/-- A / B (R219). -/
def Fmt.div (f : Fmt) (rm : Rnd) (ftz : Bool) (a b : Nat) : FR :=
  match f.val ftz a, f.val ftz b with
  | .nan s, y => ⟨f.canon, sigFl (.nan s) ||| sigFl y⟩
  | _, .nan t => ⟨f.canon, sigFl (.nan t)⟩
  | .inf _, .inf _ => ⟨f.canon, fNV⟩
  | .inf s, .fin t m _ => ⟨f.infPat (s != t), if m = 0 then fDZ else 0⟩
  | .fin s _ _, .inf t => ⟨f.zeroPat (s != t), 0⟩
  | .fin s n d, .fin t m e =>
    if m = 0 then (if n = 0 then ⟨f.canon, fNV⟩ else ⟨f.infPat (s != t), fDZ⟩)
    else f.round rm ftz (s != t) (n * e) (d * m)

/-- floor(√n), one bit at a time from bit k down. -/
def isqrtGo (n : Nat) : Nat → Nat → Nat
  | 0, r => if (r + 1) * (r + 1) ≤ n then r + 1 else r
  | k + 1, r => isqrtGo n k (if (r + 2 ^ (k + 1)) * (r + 2 ^ (k + 1)) ≤ n then r + 2 ^ (k + 1) else r)

/-- floor(√n). -/
def isqrt (n : Nat) : Nat := isqrtGo n (Nat.log2 n / 2 + 1) 0

/-- √(num / den) to 2^-p with a last bit that keeps it inexact: rounds as the exact root does. -/
def rootSticky (num den p : Nat) : Nat × Nat :=
  let n := num * 4 ^ p / den
  let r := isqrt n
  (if r * r = n && num * 4 ^ p % den == 0 then 2 * r else 2 * r + 1, 2 * 2 ^ p)

/-- √A (R219). -/
def Fmt.sqrt (f : Fmt) (rm : Rnd) (ftz : Bool) (a : Nat) : FR :=
  match f.val ftz a with
  | .nan s => ⟨f.canon, sigFl (.nan s)⟩
  | .inf true => ⟨f.canon, fNV⟩
  | .inf false => ⟨f.infPat false, 0⟩
  | .fin s n d =>
    if n = 0 then ⟨f.zeroPat s, 0⟩
    else if s then ⟨f.canon, fNV⟩
    else let (x, y) := rootSticky n d 256; f.round rm ftz false x y

/-- FRCP: 1/A, correctly rounded to nearest (R222). -/
def Fmt.rcp (f : Fmt) (ftz : Bool) (a : Nat) : FR :=
  match f.val ftz a with
  | .nan s => ⟨f.canon, sigFl (.nan s)⟩
  | .inf s => ⟨f.zeroPat s, 0⟩
  | .fin s n d => if n = 0 then ⟨f.infPat s, fDZ⟩ else f.round .rne ftz s d n

/-- FRSQ: 1/√A, correctly rounded to nearest (R222). -/
def Fmt.rsq (f : Fmt) (ftz : Bool) (a : Nat) : FR :=
  match f.val ftz a with
  | .nan s => ⟨f.canon, sigFl (.nan s)⟩
  | .inf true => ⟨f.canon, fNV⟩
  | .inf false => ⟨f.zeroPat false, 0⟩
  | .fin s n d =>
    if n = 0 then ⟨f.infPat s, fDZ⟩
    else if s then ⟨f.canon, fNV⟩
    else let (x, y) := rootSticky d n 256; f.round .rne ftz false x y

/-- Total order of patterns that are no NaN, −0.0 below +0.0 (R220). -/
def Fmt.key (f : Fmt) (x : Nat) : Int :=
  let m := x % 2 ^ (f.w - 1)
  if f.neg x then -(m : Int) - 1 else m

/-- Minimum and maximum of R220. -/
def Fmt.minmax (f : Fmt) (max nanp ftz : Bool) (a b : Nat) : FR :=
  let a := f.flushIn ftz a
  let b := f.flushIn ftz b
  let fl : BitVec 9 := if f.isSNaN a || f.isSNaN b then fNV else 0
  if f.isNaN a && f.isNaN b then ⟨f.canon, fl⟩
  else if f.isNaN a then ⟨if nanp then f.canon else b, fl⟩
  else if f.isNaN b then ⟨if nanp then f.canon else a, fl⟩
  else if max then ⟨if f.key a < f.key b then b else a, fl⟩
  else ⟨if f.key b < f.key a then b else a, fl⟩

/-- FABS and FNEG of R220: a NaN gives the canonical NaN and sets no flag. -/
def Fmt.abs (f : Fmt) (ftz : Bool) (a : Nat) : Nat :=
  if f.isNaN a then f.canon else f.flushIn ftz a % 2 ^ (f.w - 1)
def Fmt.negate (f : Fmt) (ftz : Bool) (a : Nat) : Nat :=
  if f.isNaN a then f.canon else f.flip (f.flushIn ftz a)

/-- FCLASS (R220): the mask of one class. -/
def Fmt.class (f : Fmt) (ftz : Bool) (a : Nat) : Nat :=
  let x := f.flushIn ftz a
  let k := if f.isNaN x then (if f.isSNaN x then 8 else 9)
    else if f.neg x then (if f.isInf x then 0 else if f.isZero x then 3 else if f.isSub x then 2 else 1)
    else (if f.isInf x then 7 else if f.isZero x then 4 else if f.isSub x then 5 else 6)
  2 ^ k

/-- Conditions of FCMP (R221); −0.0 equals +0.0, NaN only .ne and .nan. -/
def Fmt.cmp (f : Fmt) (ftz : Bool) (c : FCond) (a b : Nat) : Bool × BitVec 9 :=
  let a := f.flushIn ftz a
  let b := f.flushIn ftz b
  let fl : BitVec 9 := if f.isSNaN a || f.isSNaN b then fNV else 0
  let un := f.isNaN a || f.isNaN b
  let z := f.isZero a && f.isZero b
  let lt := !z && f.key a < f.key b
  let gt := !z && f.key b < f.key a
  let r := match c with
    | .eq => !un && !lt && !gt
    | .ne => un || lt || gt
    | .lt => !un && lt
    | .le => !un && !gt
    | .gt => !un && gt
    | .ge => !un && !lt
    | .num => !un
    | .nan => un
  (r, fl)

/-- Array_Round (R140): to nearest in FP32, a subnormal replaced by a zero of its sign. -/
def arrayRound (x : FV) : Nat :=
  match x with
  | .nan _ => f32.canon
  | .inf s => f32.infPat s
  | .fin s n d => f32.flushIn true (f32.round .rne false s n d).pat

/-- The value an array reads from an FP32 pattern: subnormals are zeros (R140). -/
def arrayVal (x : Nat) : FV := f32.val true x

/-- The sum of two values under Array_Round. -/
def arrayAdd (a b : FV) : Nat := arrayRound (sumFV .rne [a, b]).1

/-- 2^(2^-i) for i = 1 … n in fixed point of p bits, by square roots. -/
def exp2Roots (p : Nat) : Nat → Nat → List Nat
  | 0, _ => []
  | n + 1, x => let r := isqrt (x * 2 ^ p); r :: exp2Roots p n r

/-- 2^(f / 2^150) for f < 2^150 in fixed point of p bits, at most 2^12 units too low. -/
def exp2Frac (p f : Nat) : Nat :=
  ((exp2Roots p 150 (2 ^ (p + 1))).zip (List.range 150)).foldl
    (fun acc (r, i) => if f / 2 ^ (149 - i) % 2 = 1 then acc * r / 2 ^ p else acc) (2 ^ p)

/-- ulp(y) of R222 for num / den > 0. -/
def ulp (num den : Nat) : Nat × Nat :=
  let e := ilog num den
  pow2 ((if e < -126 then -126 else e) - 23)

/-- A non-decreasing function of the 2^n numbers below `k`'s range, with values from lo to hi: at each node of the tree a free value that
bounds the lower half from above and the upper half from below. -/
def freeMono (f : Nat → Nat) : Nat → Nat → Nat → Nat → Nat → Nat
  | 0, node, _, lo, hi => lo + f node % (hi - lo + 1)
  | n + 1, node, k, lo, hi =>
    let v := lo + f node % (hi - lo + 1)
    if k < 2 ^ n then freeMono f n (2 * node) k lo v else freeMono f n (2 * node + 1) (k - 2 ^ n) v hi

/-- The pattern with a key of the total order. -/
def keyPat (k : Int) : Nat := if k < 0 then 2 ^ 31 + (-k - 1).toNat else k.toNat

/-- FP32's largest pattern at or below, or smallest at or above, num / den. -/
def edgePat (rm : Rnd) (num : Int) (den : Nat) : Nat := (f32.round rm false (num < 0) num.natAbs den).pat

/-- The result of FEXP2 or FLOG2 at an operand (R222): the free non-decreasing function, held within `bn / bd` of every number from n0 / den to
n1 / den, the exact result among them, and between the exact results `lo` and `hi` of the nearest operands that have one; of a zero the
sign is free (log 5). -/
def approxPat (f : Nat → Nat) (a : Word) (n0 n1 : Int) (den bn bd lo hi : Nat) : Nat :=
  let least := max (f32.key lo) (f32.key (edgePat .rup (n1 * bd - bn * den) (den * bd)))
  let most := min (f32.key hi) (f32.key (edgePat .rdn (n0 * bd + bn * den) (den * bd)))
  let k : Int := freeMono f 32 1 (f32.key a.toNat + 2 ^ 31).toNat 0 (2 ^ 32 - 1) - 2 ^ 31
  let p := keyPat (max least (min most k))
  if f32.isZero p then f32.zeroPat (Config.zeroSign a) else p

/-- The delivered result with its flags: nx, and uf when it is subnormal or flushed (R222). -/
def approxFlags (ftz : Bool) (p : Nat) : FR := if f32.isSub p then ⟨f32.flushIn ftz p, fUF ||| fNX⟩ else ⟨p, fNX⟩

/-- FEXP2 (R222). -/
def exp2Op (ftz : Bool) (a : Word) : FR :=
  match f32.val ftz a.toNat with
  | .nan s => ⟨f32.canon, sigFl (.nan s)⟩
  | .inf true => ⟨0, 0⟩
  | .inf false => ⟨f32.infPat false, 0⟩
  | .fin s n d =>
    let fl : Int := if s then -((n + d - 1) / d : Nat) else (n / d : Nat)
    if n % d = 0 && -149 ≤ fl && fl ≤ 127 then
      f32.round .rne ftz false (pow2 fl).1 (pow2 fl).2
    else if 128 ≤ fl then ⟨f32.infPat false, fOF ||| fNX⟩
    else if s && 150 * d ≤ n then ⟨0, fUF ||| fNX⟩
    else
      let fr : Int := (if s then -(n : Int) else n) - fl * d
      let y := exp2Frac 256 (fr.toNat * 2 ^ 150 / d)
      let num := y * (pow2 fl).1
      let den := 2 ^ 256 * (pow2 fl).2
      let u := ulp num den
      let edge := fun (e : Int) => if e < -149 then 0 else edgePat .rz (pow2 e).1 (pow2 e).2
      let p := approxPat Config.exp2Free a num ((y + 2 ^ 12) * (pow2 fl).1 : Nat) den (2 * u.1) u.2 (edge fl) (edge (fl + 1))
      if f32.isZero p then ⟨p, fUF ||| fNX⟩ else approxFlags ftz p

/-- Fractional bits of log2(x / 2^p) for x in [2^p, 2^(p+1)), by squaring: at most 2 units too low for 100 bits of x in 256. -/
def log2Bits (p : Nat) : Nat → Nat → Nat → Nat
  | 0, _, acc => acc
  | n + 1, x, acc =>
    let y := x * x / 2 ^ p
    if 2 ^ (p + 1) ≤ y then log2Bits p n (y / 2) (2 * acc + 1) else log2Bits p n y (2 * acc)

/-- FLOG2 (R222). -/
def log2Op (ftz : Bool) (a : Word) : FR :=
  match f32.val ftz a.toNat with
  | .nan s => ⟨f32.canon, sigFl (.nan s)⟩
  | .inf true => ⟨f32.canon, fNV⟩
  | .inf false => ⟨f32.infPat false, 0⟩
  | .fin s n d =>
    if n = 0 then ⟨f32.infPat true, fDZ⟩
    else if s then ⟨f32.canon, fNV⟩
    else
      let e := ilog n d
      let m := n * (pow2 (-e)).1 * 2 ^ 256 / (d * (pow2 (-e)).2)
      if m = 2 ^ 256 then f32.round .rne ftz (e < 0) e.natAbs 1
      else
        let y : Int := e * 2 ^ 100 + log2Bits 256 100 m 0
        let u := if e = 0 || e = -1 then (1, 2 ^ 22) else
          let u := ulp y.natAbs (2 ^ 100); (2 * u.1, u.2)
        approxFlags ftz (approxPat Config.log2Free a y (y + 2) (2 ^ 100) u.1 u.2 (edgePat .rz e 1) (edgePat .rz (e + 1) 1))

/-- The format of a float code of CVT (R224). -/
def cvtFmtOf : CvtFmt → Fmt
  | .bf16 => bf16
  | .f16 => f16
  | _ => f32

/-- Range of an integer format of CVT (R127, R224): minimum, maximum, width. -/
def cvtRange : CvtFmt → Int × Int × Nat
  | .s8 => (-128, 127, 8)
  | .u8 => (0, 255, 8)
  | .s64 => (-2 ^ 63, 2 ^ 63 - 1, 64)
  | _ => (-2 ^ 31, 2 ^ 31 - 1, 32)

/-- The integer a source of CVT holds (R224, R225). -/
def cvtIntOf (src : CvtFmt) (a : DWord) : Int :=
  match src with
  | .s8 => (a.setWidth 8).toInt
  | .u8 => ((a.setWidth 8).toNat : Int)
  | .s64 => a.toInt
  | _ => (a.setWidth 32).toInt

/-- A value rounded to an integer in a mode (R225): the integer and whether it changed. -/
def toIntRnd (rm : Rnd) (neg : Bool) (num den : Nat) : Int × Bool :=
  let (q, x) := divRnd rm neg num den
  (if neg then -(q : Int) else q, x)

/-- CVT (R225): the result as 64 bits, and its flags. -/
def cvtOp (ftz : Bool) (src dst : CvtFmt) (rm : Rnd) (sat : Bool) (a : DWord) : DWord × BitVec 9 :=
  if src.isInt then
    let v := cvtIntOf src a
    if dst.isInt then
      let (lo, hi, w) := cvtRange dst
      let y := if sat then Sys2Proof.saturate v lo hi else v
      match w with
      | 8 => if dst == .u8 then ((BitVec.ofInt 8 y).setWidth 64, 0)
             else (((BitVec.ofInt 8 y).signExtend 32).setWidth 64, 0)
      | 64 => (BitVec.ofInt 64 y, 0)
      | _ => ((BitVec.ofInt 32 y).setWidth 64, 0)
    else
      let r := (cvtFmtOf dst).round rm ftz (v < 0) v.natAbs 1
      (BitVec.ofNat 64 r.pat, r.fl)
  else
    let f := cvtFmtOf src
    let x := f.val ftz (a.toNat % 2 ^ f.w)
    if dst.isInt then
      let (lo, hi, w) := cvtRange dst
      let put := fun (y : Int) => if dst == .s8 then ((BitVec.ofInt 8 y).signExtend 32).setWidth 64
        else if w = 64 then BitVec.ofInt 64 y else if w = 8 then (BitVec.ofInt 8 y).setWidth 64
        else (BitVec.ofInt 32 y).setWidth 64
      match x with
      | .nan _ => (0, fNV)
      | .inf s => (put (if s then lo else hi), fNV)
      | .fin s n d =>
        let (y, ch) := toIntRnd rm s n d
        if y < lo || hi < y then (put (Sys2Proof.saturate y lo hi), fNV) else (put y, if ch then fNX else 0)
    else if src == dst then
      match x with
      | .nan s => (BitVec.ofNat 64 f.canon, sigFl (.nan s))
      | .inf s => (BitVec.ofNat 64 (f.infPat s), 0)
      | .fin s n d =>
        let (q, ch) := divRnd rm s n d
        (BitVec.ofNat 64 (f.round rm ftz s q 1).pat, if ch then fNX else 0)
    else
      let r := (cvtFmtOf dst).deliver rm ftz (match x with | .nan s => (.nan false, sigFl (.nan s)) | y => (y, 0))
      (BitVec.ofNat 64 r.pat, r.fl)

end Sys2Proof.Machine
end

