-- ==== Sys2Proof/Machine/Bfp.lean ====
section
/-! DEFINITION. Block floating point (R129, R130, R136) and the Hadamard transform (R137). -/

namespace Sys2Proof.Machine

/-- The exponent byte a BFP element selects, its sign, and its magnitude (R129). -/
def bfpFields (bfp4 : Bool) (el e0 e1 : Nat) : Nat × Bool × Nat :=
  if bfp4 then (if el / 8 % 2 = 1 then e1 else e0, el / 4 % 2 == 1, el % 4)
  else (if el / 128 % 2 = 1 then e1 else e0, el / 64 % 2 == 1, el % 64)

/-- The exact value of a BFP element (R129). -/
def bfpVal (bfp4 : Bool) (el e0 e1 : Nat) : FV :=
  let (E, s, m) := bfpFields bfp4 el e0 e1
  if E = 0 then .fin s 0 1
  else if E = 255 then .nan false
  else let p := pow2 ((E : Int) - 127); .fin s (m * p.1) ((if bfp4 then 2 else 32) * p.2)

/-- A BFP element in BF16 or FP32: exact (R129); E_sel 255 gives the canonical NaN. -/
def bfpTo (f : Fmt) (bfp4 : Bool) (el e0 e1 : Nat) : Nat :=
  (f.deliver .rne false (bfpVal bfp4 el e0 e1, 0)).pat

/-- |x| of a value as a rational; none is infinity (R136). -/
def magOf : FV → Option (Nat × Nat)
  | .fin _ n d => some (n, d)
  | _ => none

def signOf : FV → Bool
  | .fin s _ _ => s
  | .inf s => s
  | .nan _ => false

/-- The larger of two magnitudes, infinity above all (R136). -/
def magMax (a b : Option (Nat × Nat)) : Option (Nat × Nat) :=
  match a, b with
  | some (n, d), some (m, e) => if n * e < m * d then some (m, e) else some (n, d)
  | _, _ => none

/-- Round_Int(|x| · 2^(127 − E) · c) (R136); none for infinity. -/
def bfpRound (x : FV) (E c : Nat) : Option Nat :=
  (magOf x).map fun (n, d) => let p := pow2 (127 - (E : Int)); (divRnd .rne false (n * p.1 * c) (d * p.2)).1

/-- One quantised element: sel, sign and m as its bits (R129, R136). -/
def bfpElem (bfp4 : Bool) (sel sign : Bool) (m : Nat) : Nat :=
  if bfp4 then (if sel then 8 else 0) + (if sign then 4 else 0) + m
  else (if sel then 128 else 0) + (if sign then 64 else 0) + m

/-- Quantisation of a block (R136): the elements, E0 and E1. -/
def quantise (bfp4 : Bool) (spread : Nat) (xs : List FV) : List Nat × Nat × Nat :=
  if xs.any (fun x => match x with | .nan _ => true | _ => false) then
    (xs.map fun _ => bfpElem bfp4 false false 0, 255, 255)
  else
    let c := if bfp4 then 2 else 32
    let mmax := if bfp4 then 3 else 63
    let mx := xs.foldl (fun a x => magMax a (magOf x)) (some (0, 1))
    let E1 : Nat := match mx with
      | some (0, _) => 0
      | none => 254
      | some (n, d) => (Sys2Proof.saturate (ilog n d + 127) 1 254).toNat
    let E0 := if E1 = 0 then 0 else if spread + 1 ≤ E1 then E1 - spread else 0
    (xs.map fun x =>
      let s := signOf x
      let m0 := bfpRound x E0 c
      let fits := match m0 with | some m => m ≤ mmax | none => false
      if 1 ≤ E0 && fits then bfpElem bfp4 false s (m0.getD 0)
      else if E1 = 0 then bfpElem bfp4 false s 0
      else bfpElem bfp4 true s (Nat.min ((bfpRound x E1 c).getD mmax) mmax), E0, E1)

/-- One stage of the Hadamard transform at distance 2^s, with the flags of each pair's two steps (R137). -/
def hadStage (add sub : Nat → Nat → FR) (s : Nat) (y : List Nat) : List Nat × BitVec 9 :=
  let at_ := fun i => y.getD i 0
  let rs := (List.range y.length).map fun i =>
    if i / 2 ^ s % 2 = 0 then add (at_ i) (at_ (i + 2 ^ s)) else sub (at_ (i - 2 ^ s)) (at_ i)
  (rs.map (·.pat), rs.foldl (fun a r => a ||| r.fl) 0)

/-- The unnormalised transform of order 2^lg in Sylvester order (R137). -/
def hadamard (add sub : Nat → Nat → FR) (lg : Nat) (y : List Nat) : List Nat × BitVec 9 :=
  (List.range lg).foldl (fun (acc : List Nat × BitVec 9) s =>
    let r := hadStage add sub s acc.1; (r.1, acc.2 ||| r.2)) (y, 0)

end Sys2Proof.Machine
end

