-- ==== Sys2Proof/Machine/Ecc.lean ====
section
/-! DEFINITION. The array code RS(68,64) over GF(2^8) of a 64-byte line (R404) and its poison pattern (R406). -/

namespace Sys2Proof.Machine

/-- Multiplication by α = 0x02 modulo x^8 + x^4 + x^3 + x^2 + 1 (R404). -/
def gfDouble (a : Nat) : Nat := if a < 128 then 2 * a else (2 * a) ^^^ 0x11D

/-- Multiplication in GF(2^8). -/
def gfMul (a b : Nat) : Nat :=
  (List.range 8).foldl (fun x i => gfDouble x ^^^ (if b.testBit (7 - i) then a else 0)) 0

/-- α^n. -/
def gfPow : Nat → Nat
  | 0 => 1
  | n + 1 => gfDouble (gfPow n)

/-- The inverse: a^254. -/
def gfInv (a : Nat) : Nat := (List.range 253).foldl (fun x _ => gfMul x a) a

/-- The locator of symbol j: the first symbol is the coefficient of the highest power, which is the model's reading (log 8). -/
def eccLoc (j : Nat) : Nat := gfPow (67 - j)

/-- Values at some locators whose power sums are the given ones, from the 0th on. -/
def gfSolve : List Nat → List Nat → Option (List Nat)
  | [], ss => if ss.all (· == 0) then some [] else none
  | x :: r, ss =>
    match gfSolve r (List.zipWith (fun a b => b ^^^ gfMul a x) ss ss.tail) with
    | some ys =>
      let vs := List.zipWith (fun y z => gfMul y (gfInv (x ^^^ z))) ys r
      some (vs.foldl (· ^^^ ·) (ss.headD 0) :: vs)
    | none => none

/-- The values at α^0 … α^3 of a word's polynomial: the generator's roots (R404). -/
def syndromes (word : List Nat) : List Nat :=
  (List.range 4).map fun i =>
    (word.zip (List.range 68)).foldl (fun x (c, j) => x ^^^ gfMul c (gfPow ((67 - j) * i % 255))) 0

/-- The check symbols 64 to 67 of a line's data. -/
def eccCheck (data : List Nat) : List Nat :=
  (gfSolve ((List.range 4).map fun i => eccLoc (64 + i)) (syndromes data)).getD []

/-- The sets of symbols that the decoder tries: any two, or a marked group's two with one more (R404). -/
def eccTries (erase : Option Nat) : List (List Nat) :=
  match erase with
  | none => [] :: (List.range 68).map (fun j => [j]) ++ (List.range 68).flatMap fun j => (List.range j).map fun k => [k, j]
  | some g => [2 * g, 2 * g + 1] :: (List.range 68).filterMap fun j => if j / 2 = g then none else some [2 * g, 2 * g + 1, j]

/-- The symbols in error with their error values, where the decoder finds some. -/
def eccDecode (erase : Option Nat) (word : List Nat) : Option (List (Nat × Nat)) :=
  let ss := syndromes word
  (eccTries erase).findSome? fun js => (gfSolve (js.map eccLoc) ss).map fun vs => (js.zip vs).filter (·.2 != 0)

/-- A read of a stored word: recognised poison, corrected data with the symbols corrected, or an uncorrectable word (R404, R406). -/
inductive EccOut where
  | poison (data : List Nat)
  | fixed (data : List Nat) (syms : List Nat)
  | lost (data : List Nat)
  deriving DecidableEq, Repr

/-- The stored word of a line with its error pattern, 8 bits a symbol: the code word, its check symbols inverted where it is poison. -/
def eccWord (bad : Bool) (data : List Nat) (err : Nat) : List Nat :=
  ((data ++ (eccCheck data).map fun c => if bad then c ^^^ 255 else c).zip (List.range 68)).map fun (c, j) => c ^^^ err / 256 ^ j % 256

/-- The decoder's answer to a stored word. -/
def eccRead (erase : Option Nat) (word : List Nat) : EccOut :=
  let data := word.take 64
  if word.drop 64 == (eccCheck data).map (· ^^^ 255) then .poison data
  else match eccDecode erase word with
    | some es => .fixed ((data.zip (List.range 64)).map fun (c, j) => (es.filter (·.1 == j)).foldl (fun x e => x ^^^ e.2) c) (es.map (·.1))
    | none => .lost data

end Sys2Proof.Machine
end

