-- ==== Sys2Proof/Machine/View.lean ====
section
/-! DEFINITION. Physical memory as the package sees it: the stash copies that the die directories register (R55), posted writes (R97), the
form of memory, the write-version counters (R391), and reads of the array with their corrections (R403 to R406). -/

namespace Sys2Proof.Machine

/-- A workgroup still holds its stash. -/
def Wg.holds (w : Wg) : Bool :=
  match w.stage with
  | .exited => false
  | .killed => false
  | .saved => false
  | _ => true

/-- The stash line of a workgroup registered for a physical line. -/
def Wg.lineFor (w : Wg) (pline : Nat) : Option Nat :=
  if w.holds then (w.lines.find? fun e => match e.2 with | some l => l.pa == some pline | none => false).map (·.1) else none

/-- The die directory: the workgroup and stash line registered for a physical line (R55). -/
def State.dirFind (s : State) (pline : Nat) : Option (Nat × Nat) :=
  (List.range s.wgs.length).findSome? fun i => ((s.wg i).lineFor pline).map fun l => (i, l)

/-- The value of a byte at its home: the registered stash copy, else memory (R55). -/
def State.homeByte (s : State) (pa : Nat) : Byte :=
  match s.dirFind (pa / 64) with
  | some (w, l) => (s.wg w).stash.get (64 * l + pa % 64)
  | none => s.mem.get pa

/-- The byte that the youngest posted write of a core gives, if any. -/
def postedByte (ws : List PostedW) (core pa : Nat) : Option Byte :=
  ws.foldl (fun acc w => if w.core = core ∧ w.pa ≤ pa ∧ pa < w.pa + w.bytes.length then w.bytes[pa - w.pa]? else acc) none

/-- A byte as the agents of a core see it: that core's own posted writes first (R97). -/
def State.coreByte (s : State) (core pa : Nat) : Byte :=
  (postedByte s.posted core pa).getD (s.homeByte pa)

/-- A byte as an agent sees it: those of a core, or any other agent. -/
def State.viewByte (s : State) (view : Option Nat) (pa : Nat) : Byte :=
  match view with
  | some c => s.coreByte c pa
  | none => s.homeByte pa

/-- n bytes from a physical address. -/
def State.viewBytes (s : State) (view : Option Nat) (pa n : Nat) : List Byte :=
  (List.range n).map fun i => s.viewByte view (pa + i)

/-- The stack of a package physical address (R380). -/
def paStack (pa : Nat) : Nat := nbits pa 36 4

/-- Package memory: class 0b00 with PA[49:40] zero and a stack the package has (R380). -/
def paIsPackage (pa : Nat) : Bool := pa / 2 ^ 40 == 0 && paStack pa < 12

/-- Write-version counter of a physical address (R391), keyed over the package. -/
def wvcKey (pa : Nat) : Nat := 4096 * (paStack pa / 3) + (nbits pa 12 12 ^^^ nbits pa 24 12)

/-- Count one write to package memory (R391). -/
def State.countWrite (s : State) (pa : Nat) : State :=
  if paIsPackage pa then { s with wvc := s.wvc.upd (wvcKey pa) (· + 1) } else s

/-- The canonical form of memory: addresses strictly rising, no entry equal to what an unlisted address reads as (log 1). -/
def Memory.wf (m : Store Byte) : Bool := Store.wf m

/-- Store bytes at consecutive physical addresses. -/
def putBytes (m : Store Byte) (pa : Nat) : List Byte → Store Byte
  | [] => m
  | b :: bs => putBytes (m.set pa b) (pa + 1) bs

/-- Store bytes where a reader of their home finds them. -/
def State.putHome (s : State) (pa : Nat) (bs : List Byte) : State :=
  match s.dirFind (pa / 64) with
  | some (w, l) => s.updWg w fun g => { g with stash := putBytes g.stash (64 * l + pa % 64) bs }
  | none => { s with mem := putBytes s.mem pa bs }

/-- Log an uncorrectable event of a stack (R403, ERR_LOG of R407): source 0 demand, 1 scrub, 2 row transfer, 3 write-back. -/
def State.logUe (s : State) (pa src : Nat) : State :=
  s.updStk (paStack pa) fun k =>
    { k with
      errLog := k.errLog.set (k.events % 16)
        (BitVec.ofNat 64 (nbits pa 6 30 + src * 2 ^ 30 + 0x3F * 2 ^ 32 + 2 ^ 47 + k.events % 65536 * 2 ^ 48)),
      events := k.events + 1,
      errCnt := k.errCnt.upd 3 (fun n => if n = 0xFFFFFFFF then n else n + 1) }

/-- The channel of a line in its stack: the fixed physical map of R65. -/
def paChannel (pa : Nat) : Nat := pa / 1024 % 32

/-- The group that a channel's decoder takes as erased (R404, R407). -/
def StackSt.erased (k : StackSt) (chan : Nat) : Option Nat :=
  let e := k.erase.get chan
  if e.getLsbD 6 then some (e.toNat % 64) else none

/-- A corrected read counts, and for each group it met; a group with 64 in a scrub period is marked, one per channel (R403, R404). -/
def StackSt.corrected (k : StackSt) (chan : Nat) (syms : List Nat) : StackSt :=
  let k := { k with errCnt := k.errCnt.upd 2 (fun n => if n = 0xFFFFFFFF then n else n + 1) }
  ((syms.map (· / 2)).dedup).foldl (fun (k : StackSt) g =>
    let n := k.tsvCnt.get (34 * chan + g) + 1
    { k with
      tsvCnt := k.tsvCnt.set (34 * chan + g) n,
      erase := if 64 ≤ n && !(k.erase.get chan).getLsbD 6 then k.erase.set chan (BitVec.ofNat 8 (g + 64)) else k.erase }) k

/-- The bytes of a line in memory. -/
def State.lineBytes (s : State) (l : Nat) : List Nat := (List.range 64).map fun j => (s.mem.get (64 * l + j)).toNat

/-- A line is stored anew in the array, poisoned or not, with no error in it. -/
def State.rewrite (s : State) (l : Nat) (data : List Nat) (bad : Bool) : State :=
  { s with
    mem := putBytes s.mem (64 * l) (data.map (BitVec.ofNat 8 ·)), arrayErr := s.arrayErr.set l 0,
    poison := if bad then (if s.poison.contains l then s.poison else l :: s.poison) else s.poison.filter (· != l) }

/-- A read of a line of the array meets its array errors (R403 to R406): what the code corrects is delivered and written back, what it finds
uncorrectable is stored as poison. Reads by demand, scrub and row transfer count what they correct; a line that was poison already is
not counted again. -/
def State.readArray (s : State) (pa src : Nat) : State :=
  let l := pa / 64
  let e := s.arrayErr.get l
  let bad := s.poison.contains l
  if e = 0 then s
  else match eccRead ((s.stk (paStack pa)).erased (paChannel pa)) (eccWord bad (s.lineBytes l) e) with
    | .poison bs => s.rewrite l bs true
    | .fixed bs js =>
      if js = [] || src = 3 then s.rewrite l bs false
      else (s.rewrite l bs false).updStk (paStack pa) fun k => k.corrected (paChannel pa) js
    | .lost bs => if bad then s.rewrite l bs true else (s.rewrite l bs true).logUe pa src

/-- A read of a line at its home: one registered by a stash is not read from the array (R55, R405). -/
def State.demand (s : State) (pa src : Nat) : State := if (s.dirFind (pa / 64)).isSome then s else s.readArray pa src

end Sys2Proof.Machine
end

