-- ==== Sys2Proof/Machine/Walk.lean ====
section
/-! DEFINITION. Page tables and the leaves that the device has cached, read without changing anything (R379 to R386), and the place of a
stash line's write-back (R53, R384). -/

namespace Sys2Proof.Machine

/-- Kinds of access, with the detail codes of R340; `wait` is WAITGE's reading, which counts as an atomic (R384, R390). -/
inductive AccKind where
  | load | store | atomic | fetch | engRead | engWrite | stash | writeBack | wait
  deriving DecidableEq, Repr

def AccKind.code : AccKind → Nat
  | .load => 0 | .store => 1 | .atomic => 2 | .fetch => 3 | .engRead => 4 | .engWrite => 5 | .stash => 6 | .writeBack => 7 | .wait => 2

def AccKind.writes : AccKind → Bool
  | .store => true | .atomic => true | .engWrite => true | .writeBack => true
  | .load => false | .fetch => false | .engRead => false | .stash => false | .wait => false

/-- On whose behalf an address is translated: partition, context, level, and the launch whose leases bind it (R379, R388). -/
structure As where
  part   : Nat
  ctx    : Nat
  sup    : Bool
  launch : Option Nat
  deriving DecidableEq, Repr

/-- The address space of a thread. -/
def State.asOf (s : State) (t : Nat) : As := ⟨s.partOf t, s.ctxOf t, s.isSup t, some (s.launchOf t)⟩

/-- An address's bits [63:57] equal bit 56 (R46). -/
def canonical (va : DWord) : Bool := va.extractLsb' 57 7 == (if va.getLsbD 56 then 127 else 0)

/-- The 57-bit address as a number. -/
def va57 (va : DWord) : Nat := bits va 0 57

/-- The size code t of a leaf: 0, or the ones from bit g of the entry plus one (R382). -/
def ones (e : DWord) (g : Nat) : Nat → Nat
  | 0 => 0
  | n + 1 => if e.getLsbD g then 1 + ones e (g + 1) n else 0

def sizeCode (e : DWord) (lvl : Nat) : Nat := if e.getLsbD 6 then ones e (12 + 9 * lvl) 10 + 1 else 0

/-- Size in bits and frame of a leaf at a level (R382). -/
def leafBits (e : DWord) (lvl : Nat) : Nat := 12 + 9 * lvl + sizeCode e lvl
def leafFrame (e : DWord) (lvl : Nat) : Nat := bits e 12 40 * 2 ^ 12 / 2 ^ leafBits e lvl * 2 ^ leafBits e lvl

/-- A physical address's class and form hold (R380). -/
def paClassOk (pa : Nat) : Bool :=
  match nbits pa 50 2 with
  | 0 => paIsPackage pa
  | 1 => true
  | 2 => nbits pa 47 3 == 0
  | _ => false

/-- A range of physical memory meets the park region (R372). -/
def State.meetsPark (s : State) (pa n : Nat) : Bool := pa < s.hk.parkHi && s.hk.parkLo < pa + n

/-- Malformed(e, L) of R383; the pa of a discarded leaf is ignored (R390). -/
def State.malformed (s : State) (e : DWord) (lvl : Nat) : Bool :=
  bits e 53 11 != 0 ||
  if e.getLsbD 1 then
    let disc := e.getLsbD 10
    let nb := e.getLsbD 9
    let sz := 2 ^ leafBits e lvl
    2 < lvl ||
    (!disc && ((if lvl = 2 then 2 else 8) < sizeCode e lvl || (if lvl = 0 then false else bits e 12 (9 * lvl) != 0) ||
      !paClassOk (leafFrame e lvl))) ||
    (nb && !(e.getLsbD 52 && lvl == 1 && !e.getLsbD 6 && nbits (leafFrame e lvl) 50 2 == 0)) ||
    (nb && disc) ||
    (!disc && nbits (leafFrame e lvl) 50 2 == 0 && s.meetsPark (leafFrame e lvl) sz)
  else
    lvl == 0 || bits e 2 10 != 0 || e.getLsbD 52 || !paIsPackage (bits e 12 40 * 4096)

/-- A single-copy atomic 8-byte read of physical memory at package scope, as the array's code delivers it (R383, R405). -/
def State.readPhys8 (s : State) (pa : Nat) : DWord :=
  let s := if s.arrayErr = [] then s else s.demand pa 0
  dwOf (s.viewBytes none pa 8)

/-- The walk of R383 from table `t` at the given levels: the leaf, its slot and level. -/
def State.walk (s : State) (t va : Nat) : List Nat → Option (DWord × Nat × Nat)
  | [] => none
  | lvl :: lower =>
    let slot := t + 8 * nbits va (12 + 9 * lvl) 9
    let e := s.readPhys8 slot
    if !e.getLsbD 0 || s.malformed e lvl then none
    else if e.getLsbD 1 then some (e, slot, lvl)
    else s.walk (bits e 12 40 * 4096) va lower

/-- The root register that translates an address (R379). -/
def State.rootOf (s : State) (a : As) (va : DWord) : DWord :=
  if va.getLsbD 56 then (s.part a.part).supRoot else (s.part a.part).roots.get a.ctx

/-- The context tag of a cached leaf: 0xFFFF for the supervisor half (R379). -/
def tagOf (a : As) (va : DWord) : Nat := if va.getLsbD 56 then 0xFFFF else a.ctx

/-- The cached leaf of an address: that of its own slot (R382, R385). -/
def State.tlbFind (s : State) (a : As) (va : DWord) : Option TlbLeaf :=
  s.tlb.find? fun l => l.part == a.part && l.ctx == tagOf a va && l.base ≤ va57 va && va57 va < l.base + l.span

/-- The frame address of an address under a cached leaf (R382). -/
def TlbLeaf.pa (l : TlbLeaf) (va : DWord) : Nat :=
  bits l.entry 12 40 * 4096 / l.size * l.size + va57 va % l.size

/-- A leaf permits an access (R384). -/
def leafPermits (e : DWord) (sup : Bool) (k : AccKind) : Bool :=
  (sup || e.getLsbD 5) &&
  match k with
  | .load => e.getLsbD 2
  | .engRead => e.getLsbD 2
  | .stash => e.getLsbD 2
  | .store => e.getLsbD 3
  | .engWrite => e.getLsbD 3
  | .writeBack => e.getLsbD 3
  | .atomic => e.getLsbD 2 && e.getLsbD 3
  | .wait => e.getLsbD 2 && e.getLsbD 3
  | .fetch => e.getLsbD 4

/-- The leaf of a walk, as it would be cached: for its own slot (R382, R383). -/
def State.walkLeaf (s : State) (a : As) (va : DWord) : Option TlbLeaf :=
  let root := s.rootOf a va
  if !root.getLsbD 0 then none
  else (s.walk (bits root 12 40 * 4096) (va57 va) [4, 3, 2, 1, 0]).map fun (e, slot, lvl) =>
    { part := a.part, ctx := tagOf a va, base := va57 va / 2 ^ (12 + 9 * lvl) * 2 ^ (12 + 9 * lvl), span := 2 ^ (12 + 9 * lvl),
      size := 2 ^ leafBits e lvl, entry := e, slot := slot }

/-- The entry and frame address of an address under the cached leaf, or under the walk's without caching it. -/
def State.peekLeaf (s : State) (a : As) (va : DWord) : Option (DWord × Nat) :=
  let l : Option TlbLeaf := match s.tlbFind a va with | some l => some l | none => s.walkLeaf a va
  l.map fun x => (x.entry, x.pa va)

/-- The address space of a workgroup. -/
def State.asOfWg (s : State) (w : Nat) : As :=
  let l := (s.wg w).launch
  ⟨(s.launch l).part, (s.launch l).ctx, (s.launch l).sup, some l⟩

/-- The map entry whose stash range holds a stash line. -/
def Wg.entryOf (g : Wg) (line : Nat) : Option MapEnt :=
  g.maps.findSome? fun
    | some e => if e.off / 64 ≤ line && line < e.off / 64 + e.lines then some e else none
    | none => none

/-- The global address of a mapped stash line. -/
def MapEnt.gvaOf (e : MapEnt) (line : Nat) : DWord :=
  (BitVec.ofNat 57 (e.gva + 64 * (line - e.off / 64))).signExtend 64

/-- The leaf under which a line is written back: the cached copy, unless its slot has changed before its d bit was set, else the walk's; it
must permit the write (R53, R384, R390). -/
def State.wbLeaf (s : State) (w line : Nat) : Option TlbLeaf :=
  match (s.wg w).entryOf line with
  | none => none
  | some e =>
    let a := s.asOfWg w
    let va := e.gvaOf line
    let l : Option TlbLeaf := match s.tlbFind a va with
      | some l => if l.entry.getLsbD 8 || s.readPhys8 l.slot == l.entry then some l else s.walkLeaf a va
      | none => s.walkLeaf a va
    l.filter fun l => leafPermits l.entry a.sup .writeBack && !l.entry.getLsbD 10 && nbits (l.pa va) 50 2 != 2

/-- Where a line's write-back goes, and under which leaf: the line it is registered for, or the leaf's where it was filled while its page
was discarded (R390). -/
def State.wbPlace (s : State) (w line : Nat) : Option (TlbLeaf × Nat) :=
  match (s.wg w).entryOf line, (s.wg w).lines.get line with
  | some e, some x => (s.wbLeaf w line).map fun l => (l, x.pa.getD (l.pa (e.gvaOf line) / 64))
  | _, _ => none

/-- A leaf as it stands once its a bit and, for a write, its d bit are set (R384). -/
def TlbLeaf.marked (l : TlbLeaf) (write : Bool) : TlbLeaf := { l with entry := l.entry ||| (if write then 0x180 else 0x80) }

/-- The write-back of a line, where it is dirty, translates. -/
def State.wbSelf (s : State) (w line : Nat) : Bool :=
  match (s.wg w).lines.get line with
  | some x => !x.dirty || (s.wbPlace w line).isSome
  | none => true

/-- The line whose write-back fails and so keeps a line from being written back: itself, or one that must first be written back because a
stash holds the slot of its leaf, whose d bit is to be set, or, where it has no registration, its physical line (R53, R55, R384). That lines
each of which waits for the next in a ring are never written back is the model's choice (log 79): `n` lines are followed at most. -/
def State.wbKept : Nat → State → Nat → Nat → Option (Nat × Nat)
  | 0, _, w, line => some (w, line)
  | n + 1, s, w, line =>
    match (s.wg w).lines.get line, s.wbPlace w line with
    | none, _ => none
    | some x, none => if x.dirty then some (w, line) else none
    | some x, some (lf, pl) =>
      if !x.dirty then none
      else
        let slot := if (lf.marked true).entry == lf.entry then none else s.dirFind (lf.slot / 64)
        let home := if x.pa.isSome then none else s.dirFind pl
        (slot.bind fun v => s.wbKept n v.1 v.2).orElse fun _ => home.bind fun v => s.wbKept n v.1 v.2

/-- All lines that stashes have filled: as many as write-backs can wait for one another. -/
def State.filledCount (s : State) : Nat := (s.wgs.map fun g => g.lines.length).sum

/-- The line whose write-back fails and keeps a line from being written back. -/
def State.wbKeeper (s : State) (w line : Nat) : Option (Nat × Nat) := s.wbKept (s.filledCount + 1) w line

/-- A line can be written back, or is clean. -/
def State.wbOk (s : State) (w line : Nat) : Bool := (s.wbKeeper w line).isNone

/-- The line that cannot be written back and so keeps a write of n bytes waiting, because a stash holds a line that it demands (R53, R55). -/
def State.demandBlocked (s : State) (pa n : Nat) : Option (Nat × Nat) :=
  (List.range ((pa + n - 1) / 64 - pa / 64 + 1)).findSome? fun i => (s.dirFind (pa / 64 + i)).bind fun v => s.wbKeeper v.1 v.2

end Sys2Proof.Machine
end

