-- ==== Sys2Proof/Machine/Memory.lean ====
section
/-! DEFINITION. Changes of physical memory: poison (R406), demand reads of page tables (R405), write-backs of stash lines (R53, R55), writes at their
home and posted writes (R97, R391). -/

namespace Sys2Proof.Machine

/-- A whole line is stored at its home, poisoned or not (R55, R406). -/
def State.storeLine (s : State) (pl : Nat) (bs : List Byte) (bad wv : Bool) : State :=
  let poison := s.poison.filter (· != pl)
  let s := { s with mem := putBytes s.mem (64 * pl) bs, arrayErr := s.arrayErr.set pl 0, poison := if bad then pl :: poison else poison }
  if wv then s.countWrite (64 * pl) else s

/-- The lines of the entries that a walk reads are demand-read (R405). -/
def State.walkDemand (s : State) (t va : Nat) : List Nat → State
  | [] => s
  | lvl :: lower =>
    let slot := t + 8 * nbits va (12 + 9 * lvl) 9
    let s := s.demand slot 0
    let e := s.readPhys8 slot
    if !e.getLsbD 0 || e.getLsbD 1 then s else s.walkDemand (bits e 12 40 * 4096) va lower

/-- A walk demand-reads the entries on its way. -/
def State.demandWalk (s : State) (a : As) (va : DWord) : State :=
  if s.arrayErr = [] || !(s.rootOf a va).getLsbD 0 then s
  else s.walkDemand (bits (s.rootOf a va) 12 40 * 4096) (va57 va) [4, 3, 2, 1, 0]

/-- What the translation of an address demand-reads: the walk of one that is not cached; for a write whose leaf has d clear, the slot of the
cached leaf, and the walk where it has changed (R384, R405). -/
def State.demandLeaf (s : State) (a : As) (va : DWord) (write : Bool) : State :=
  if s.arrayErr = [] then s
  else match s.tlbFind a va with
  | none => s.demandWalk a va
  | some l =>
    if !write || l.entry.getLsbD 8 then s
    else
      let s := s.demand l.slot 0
      if s.readPhys8 l.slot == l.entry then s else s.demandWalk a va

/-- What the translation of a line's write-back demand-reads (R53, R405). -/
def State.demandWb (s : State) (w line : Nat) : State :=
  match (s.wg w).entryOf line with
  | some e => s.demandLeaf (s.asOfWg w) (e.gvaOf line) true
  | none => s

/-- A leaf's a and d bits are stored in its slot, and it is cached (R384, R385). -/
def State.setLeaf (s : State) (l : TlbLeaf) (write : Bool) : State :=
  let m := l.marked write
  let s := if m.entry == l.entry then s else (s.putHome l.slot (bytesOf 8 m.entry)).countWrite l.slot
  { s with tlb := s.tlb.filter (fun x => x != l && !(x.part == l.part && x.ctx == l.ctx && x.base == l.base && x.span == l.span)) ++ [m] }

/-- A dirty line of a stash is stored for a physical line, its leaf marked, and stays filled, clean (R53, R391). -/
def State.wbLine (s : State) (w l : Nat) (x : LineSt) (wv : Bool) (pl : Nat) : State :=
  (s.storeLine pl ((List.range 64).map fun i => (s.wg w).stash.get (64 * l + i)) x.bad wv).updWg w fun g =>
    { g with lines := g.lines.set l (some { x with dirty := false, pa := some pl, wv := wv }) }

/-- The line of a leaf's slot is given up, written back where it is dirty, by the stash that holds it, if its bits are to be set: a line whose
write-back sets bits itself, and so on for `n` lines. Whoever sets the bits has waited for a line that cannot be written back (R53, R55,
R384). -/
def State.ownSlot : Nat → State → TlbLeaf → Bool → State
  | 0, s, _, _ => s
  | n + 1, s, lf, write =>
    if (lf.marked write).entry == lf.entry then s
    else match s.dirFind (lf.slot / 64) with
    | none => s
    | some (w, l) =>
      match (s.wg w).lines.get l, s.wbPlace w l with
      | none, _ => s
      | some x, none => if x.dirty then s else s.updWg w fun g => { g with lines := g.lines.set l none }
      | some x, some (up, pl) =>
        let s := if x.dirty then (((s.demandWb w l).ownSlot n up true).setLeaf up true).wbLine w l x x.wv pl else s
        s.updWg w fun g => { g with lines := g.lines.set l none }

/-- A leaf's a bit and, for a write, its d bit are set in its slot and in the cached copy: a write to the slot (R55, R384). -/
def State.markLeaf (s : State) (l : TlbLeaf) (write : Bool) : State := (s.ownSlot (s.filledCount + 1) l write).setLeaf l write

/-- A dirty line of a stash whose write-back translates is stored for a physical line and stays filled, clean (R53, R384, R391). -/
def State.wbStore (s : State) (w l : Nat) (x : LineSt) (lf : TlbLeaf) (pl : Nat) : State :=
  ((s.demandWb w l).markLeaf lf true).wbLine w l x (if x.pa.isSome then x.wv else lf.entry.getLsbD 11) pl

/-- A line that has a registration gives it up: written back when dirty, then unfilled (R53, R55). -/
def State.giveUpOwn (s : State) (w l : Nat) : State :=
  match (s.wg w).lines.get l with
  | some x =>
    let s := match x.dirty, s.wbPlace w l with
      | true, some (lf, pl) => s.wbStore w l x lf pl
      | _, _ => s
    s.updWg w fun g => { g with lines := g.lines.set l none }
  | none => s

/-- A line is written back where it is dirty, and stays filled, clean: one filled while its page was discarded first takes the physical line
from its holder (R53, R55, R390). -/
def State.cleanLine (s : State) (w l : Nat) : State :=
  match (s.wg w).lines.get l, s.wbPlace w l with
  | some x, some (lf, pl) =>
    if x.dirty then
      let s := match x.pa, s.dirFind pl with
        | none, some (v, k) => s.giveUpOwn v k
        | _, _ => s
      s.wbStore w l x lf pl
    else s
  | _, _ => s

/-- A line of a stash gives its registration up: written back when dirty, then unfilled; one that cannot be written back stays (R53, R55). -/
def State.giveUp (s : State) (w l : Nat) : State :=
  if s.wbOk w l then (s.cleanLine w l).updWg w fun g => { g with lines := g.lines.set l none } else s

/-- A write from elsewhere takes a registered line (R55). -/
def State.takeLine (s : State) (pline : Nat) : State :=
  match s.dirFind pline with
  | some (w, l) => s.giveUp w l
  | none => s

/-- A write of n bytes meets array errors: a line that it covers loses them, another is read first (R404, R405). -/
def State.writeErrors (s : State) (pa n : Nat) (lines : List Nat) : State :=
  lines.foldl (fun s l =>
    if pa ≤ 64 * l && 64 * l + 64 ≤ pa + n then { s with arrayErr := s.arrayErr.set l 0 } else s.demand (64 * l) 3) s

/-- A write performed at its home: registrations given up, bytes stored, poison cleared by a whole line, counted when `wv` in each unit of
4 KiB (R55, R391, R406). Whoever performs it has waited for lines that cannot be written back (R53). -/
def State.perform (s : State) (pa : Nat) (bs : List Byte) (wv : Bool) : State :=
  match bs with
  | [] => s
  | _ :: _ =>
    let lines := (List.range ((pa + bs.length - 1) / 64 - pa / 64 + 1)).map (pa / 64 + ·)
    let s := lines.foldl (fun s l => s.takeLine l) s
    let s := if s.arrayErr = [] then s else s.writeErrors pa bs.length lines
    let s := { s with mem := putBytes s.mem pa bs,
                      poison := s.poison.filter fun l => !(pa ≤ 64 * l && 64 * l + 64 ≤ pa + bs.length) }
    if wv then ((lines.map (· / 64)).dedup).foldl (fun s u => s.countWrite (4096 * u)) s else s

/-- The device writes a page-table entry, as any write (R55, R383). -/
def State.putEntry (s : State) (slot : Nat) (e : DWord) : State := s.perform slot (bytesOf 8 e) true

/-! ### Trap records, and the supervisor asked for a line -/

/-- The record of a trap of a thread (R339, R340). -/
def State.trapRec (s : State) (t : Nat) (kind : Nat) (i : TrapInfo) (tpc opc : DWord) : TrapRec :=
  { info := i, part := s.partOf t, kind := kind, crew := (s.crew (s.crewOf t)).num, lane := s.laneOf t, core := s.coreOf t, ctx := s.ctxOf t,
    sup := s.isSup t, tpc := tpc, opc := opc, cyc := s.cyc, thread := some t, wg := some (s.wgOf t) }

/-- The lowest free trap slot of a core (R338). -/
def State.freeSlot (s : State) (core : Nat) : Option Nat :=
  (List.range 64).find? fun i => ((s.core core).slots.get i).held.isNone

/-- A record takes a slot of its core; without a free slot it stays pending (R338). -/
def State.putRec (s : State) (r : TrapRec) : State :=
  match s.freeSlot r.core with
  | some i => s.updCore r.core fun c => { c with slots := c.slots.upd i fun x => { x with held := some r, written := false } }
  | none => s.updCore r.core fun c => { c with pend := c.pend ++ [r] }

/-- The thread that a write-back hold names: the lowest non-exited thread, or thread 0 of crew 0 (R340). -/
def State.holdThread (s : State) (w : Nat) : Nat :=
  (((s.wgThreads w).filter fun t => !s.hasExited t) ++ s.wgThreads w).headD 0

/-- A write-back hold that no instruction caused: one service request of kind 5 for the workgroup whose line cannot be written back, unless
one is held (R53, R340); its translation has read the page tables (R405). -/
def State.wbRequest (s : State) (w line : Nat) : State :=
  if (s.wg w).wbHold then s
  else
    let s := s.demandWb w line
    let gva := match (s.wg w).entryOf line with | some e => e.gvaOf line | none => 0
    let i : TrapInfo := { cause := .stashMap, detail := 7, addr := gva }
    let r := s.trapRec (s.holdThread w) 5 i (s.thr (s.holdThread w)).r.pc 0
    (s.putRec { r with thread := none, wg := some w }).updWg w fun g => { g with wbHold := true }


/-- An advance of the object at a physical address calls for the message of each enabled vector that names it (R417). -/
def State.noteAdvance (s : State) (pa : Nat) : State :=
  let vs := (List.range 16).filter fun i =>
    let x := s.links.msix.get i
    x.getLsbD 0 && bits x 3 49 * 8 == pa && !s.links.msixPend.contains i
  { s with links := { s.links with msixPend := s.links.msixPend ++ vs } }

/-- Vector 0 is signalled besides at changes of ownership and firmware state, mailbox responses and halts (R417). -/
def State.noteVec0 (s : State) : State :=
  { s with links := { s.links with msixPend := if s.links.msixPend.contains 0 then s.links.msixPend else s.links.msixPend ++ [0] } }

/-- Two ranges of bytes meet in a 4-byte location (R95). -/
def overlaps4 (pa n pb m : Nat) : Bool := pa / 4 * 4 < pb + m && pb / 4 * 4 < pa + n

/-- The posted writes that `p` selects, with the older ones of the same core that meet one of them, and those that stay posted: a core's
writes to one location are performed in the order it made them (R95, R97). -/
def takePosted (p : PostedW → Bool) : List PostedW → List PostedW × List PostedW
  | [] => ([], [])
  | w :: r =>
    let x := takePosted p r
    if p w || x.1.any (fun y => y.core == w.core && overlaps4 w.pa w.bytes.length y.pa y.bytes.length) then (w :: x.1, x.2)
    else (x.1, w :: x.2)

/-- One posted write is performed, unless a line that it demands cannot be written back, or an older one to its location waits for that: then
it waits with them (R53, R95). -/
def flushOne (x : State × List PostedW) (w : PostedW) : State × List PostedW :=
  if (x.1.demandBlocked w.pa w.bytes.length).isSome ||
      x.2.any (fun y => y.core == w.core && overlaps4 w.pa w.bytes.length y.pa y.bytes.length) then (x.1, x.2 ++ [w])
  else (x.1.perform w.pa w.bytes w.wv, x.2)

/-- Perform the posted writes that `p` selects, oldest first (R97, R99); those that have to wait stay posted (R53). -/
def State.flushWhere (s : State) (p : PostedW → Bool) : State :=
  let x := takePosted p s.posted
  let y := x.1.foldl flushOne ({ s with posted := x.2 }, [])
  { y.1 with posted := y.2 ++ y.1.posted }

/-- Everything the agents of a core wrote becomes visible outside it (R99, R102). -/
def State.flushCore (s : State) (core : Nat) : State := s.flushWhere fun w => w.core == core

/-- A scope reaches beyond the core (R94). -/
def scopeWide : Scope → Bool
  | .core => false
  | _ => true

/-- Package or domain scope (R94). -/
def scopeFar : Scope → Bool
  | .pkg => true
  | .dom => true
  | _ => false

/-- The release of R99: at a scope beyond the core the core's posted writes are performed. -/
def State.release (s : State) (core : Nat) (sc : Scope) : State := if scopeWide sc then s.flushCore core else s

/-- A store of a core is posted: its own core sees it at once (R97). A store to a registered line is performed at once, since
the holder's stash accesses must see it (R55, R115; log 14). -/
def State.post (s : State) (core pa : Nat) (bs : List Byte) (wv : Bool) : State :=
  if (s.dirFind (pa / 64)).isSome then
    (s.flushWhere fun w => w.core == core && overlaps4 w.pa w.bytes.length pa bs.length).perform pa bs wv
  else { s with posted := s.posted ++ [{ core := core, pa := pa, bytes := bs, wv := wv, gen := s.tlbGen }] }

/-- The line of a physical address is stored as poison. -/
def State.isPoison (s : State) (pa : Nat) : Bool :=
  match s.dirFind (pa / 64) with
  | some (w, l) => match (s.wg w).lines.get l with | some x => x.bad | none => false
  | none => s.poison.contains (pa / 64)

/-- A posted write of a core that waits for a line which cannot be written back (R53). -/
def State.postBlocked (s : State) (core : Nat) : Option (Nat × Nat) :=
  s.posted.findSome? fun w => if w.core = core then s.demandBlocked w.pa w.bytes.length else none

/-- Demand-read every line of a range. -/
def State.demandRange (s : State) (pa n : Nat) : State :=
  if s.arrayErr = [] then s
  else (List.range ((pa + n - 1) / 64 - pa / 64 + 1)).foldl (fun s i => s.demand (64 * (pa / 64 + i)) 0) s

end Sys2Proof.Machine
end

