-- ==== Sys2Proof/Machine/Translate.lean ====
section
/-! DEFINITION. Translation: page tables and their cached leaves (R379 to R387), permissions (R384), discarded pages (R390),
apertures (R63, R64, R397), and the checks of R233. -/

namespace Sys2Proof.Machine

/-- What a check answers: a value, a trap, or a wait of the thread. -/
inductive Chk (α : Type) where
  | ok (a : α)
  | trap (i : TrapInfo)
  | wait (w : Wait)
  deriving DecidableEq, Repr

/-- The leaf that an access uses: a cached one, or the walk's, which is then cached with its a bit set (R383 to R386). -/
def State.leafOf (s : State) (a : As) (va : DWord) : State × Option TlbLeaf :=
  match s.tlbFind a va with
  | some l => (s, some l)
  | none =>
    let s := s.demandWalk a va
    match s.walkLeaf a va with
    | none => (s, none)
    | some l => (s.markLeaf l false, some { l with entry := l.entry ||| 0x80 })

/-- A switch of a migration holds the address (R392, R393). -/
def State.switching (s : State) (a : As) (va : DWord) : Option Nat :=
  (List.range s.migs.length).find? fun i =>
    match s.migs[i]? with
    | some m => m.switching && m.part == a.part && m.ctx == tagOf a va && va57 m.va ≤ va57 va && va57 va < va57 m.va + m.size
    | none => false

/-- A lease binds the address for this agent (R388, R389). -/
def State.leaseHolds (s : State) (a : As) (va : DWord) : Bool :=
  (s.part a.part).leases.any fun l =>
    (match l.launch with | some n => a.launch == some n | none => a.launch.isSome && l.ctx == a.ctx) &&
    l.base.toNat ≤ va.toNat && va.toNat < l.base.toNat + l.len.toNat

/-- A residency fault in a leased range is LEASE_VIOLATION (R388). -/
def State.residency (s : State) (a : As) (va : DWord) (c : Cause) : Cause :=
  if s.leaseHolds a va then .leaseViolation else c

/-- The enabled aperture that holds an address, the lowest-numbered one (R397). -/
def State.aperFind (s : State) (a : As) (va : DWord) : Option Nat :=
  (List.range 16).find? fun i =>
    let x := (s.part a.part).apers.get i
    x.en && va57 x.va ≤ va57 va && va57 va < va57 x.va + x.len.toNat

/-- Buffer address of byte o of an aperture of transform 0, 2 or 3 (R63, R66). -/
def aperPa (x : Aper) (o : Nat) : Nat :=
  let base := x.pa0.toNat
  match x.xf.toNat with
  | 2 =>
    let z := 2 ^ (x.zlog.toNat + 6)
    let q := 1024 / z
    let j := o / z
    base + 1024 * (j % 64 + 64 * (j / (64 * q))) + z * (j / 64 % q) + o % z
  | 3 =>
    let g := o / 8192
    let i := o % 8192 / 2 / 64
    let c := o % 8192 / 2 % 64
    base + 8192 * g + 2 * (64 * c + i) + o % 2
  | _ => base + o

/-- Byte o of an aperture of transform 1: BF16 of the BFP8 element (R63). -/
def State.aperBfp (s : State) (view : Option Nat) (x : Aper) (o : Nat) : Byte :=
  let e := o / 2
  let b := e / 32
  let v := bfpTo bf16 false (s.viewByte view (x.pa0.toNat + e)).toNat
    (s.viewByte view (x.pa1.toNat + 2 * b)).toNat (s.viewByte view (x.pa1.toNat + 2 * b + 1)).toNat
  BitVec.ofNat 8 (v / 2 ^ (8 * (o % 2)))

/-- Where an access reaches: physical bytes, whether its writes count (R391), the values of n bytes of a transform 1 aperture from one on
(R63), or the zeros of a discarded page (R390). -/
inductive Place where
  | mem (pas : List Nat) (wv : Bool)
  | conv (x : Aper) (o n : Nat)
  | value (bs : List Byte)
  deriving DecidableEq, Repr

/-- The buffer bytes that n bytes of a transform 1 aperture are made of (R63). -/
def convPas (x : Aper) (o n : Nat) : List Nat :=
  (List.range n).flatMap fun j =>
    let e := (o + j) / 2
    [x.pa0.toNat + e, x.pa1.toNat + 2 * (e / 32), x.pa1.toNat + 2 * (e / 32) + 1]

/-- First physical address of a place. -/
def Place.first : Place → Nat
  | .mem pas _ => pas.headD 0
  | .conv _ _ _ => 0
  | .value _ => 0

/-- Consecutive physical addresses. -/
def run (pa n : Nat) : List Nat := (List.range n).map (pa + ·)

/-- The trap fields of a global access (R340). -/
def accTrap (c : Cause) (k : AccKind) (va : DWord) : TrapInfo := { cause := c, detail := k.code, addr := va }

/-- What a leaf makes of an access: ACCESS, a discarded page's answer, another package's memory, or none of these (R46, R384, R390). -/
def State.leafCheck (s : State) (a : As) (va : DWord) (n : Nat) (k : AccKind) (l : TlbLeaf) : Option (Chk Place) :=
  if !leafPermits l.entry a.sup k then some (.trap (accTrap .access k va))
  else if l.entry.getLsbD 10 then
    if k.writes then some (.trap (accTrap (s.residency a va .pageDiscarded) k va)) else some (.ok (.value (List.replicate n 0)))
  else if nbits (l.pa va) 50 2 = 2 then some (.trap (accTrap .access k va))
  else none

/-- An access under a leaf that permits it; the first write sets d by a CAS of its slot (R384). -/
def State.leafUse (s : State) (va : DWord) (n : Nat) (k : AccKind) (l : TlbLeaf) : State × Chk Place :=
  (if k.writes && !l.entry.getLsbD 8 then s.markLeaf l true else s, .ok (.mem (run (l.pa va) n) (l.entry.getLsbD 11)))

/-- The cached copy of a leaf differs from its slot when its d bit is to be set: it is discarded and the walk is made again (R384). -/
def State.leafStale (s : State) (k : AccKind) (l : TlbLeaf) : Bool :=
  k.writes && !l.entry.getLsbD 8 && s.readPhys8 l.slot != l.entry

/-- A line that cannot be written back holds the slot of the leaf whose a or d bit an access is to set: the access waits (R53, R55, R384). -/
def State.markBlocked (s : State) (a : As) (va : DWord) (n : Nat) (k : AccKind) : Option (Nat × Nat) :=
  let leaf := match s.tlbFind a va with
    | some l => if s.leafStale k l then s.walkLeaf a va else some l
    | none => s.walkLeaf a va
  leaf.bind fun l =>
    if !l.entry.getLsbD 7 || (k.writes && !l.entry.getLsbD 8 && (s.leafCheck a va n k l).isNone) then s.demandBlocked l.slot 8 else none

/-- Steps 2 to 5 of R233 for n bytes at `va` within one page, and where they lie. -/
def State.resolve (s : State) (a : As) (_view : Option Nat) (va : DWord) (n : Nat) (k : AccKind) : State × Chk Place :=
  if !canonical va then (s, .trap (accTrap .access k va))
  else if va.getLsbD 56 && !a.sup then (s, .trap (accTrap .access k va))
  else match s.aperFind a va with
  | some i =>
    let x := (s.part a.part).apers.get i
    let o := va57 va - va57 x.va
    if (!x.user && !a.sup) || k == .atomic || k == .wait || (k.writes && (x.xf == 1 || x.xf == 3)) || x.len.toNat < o + n then
      (s, .trap (accTrap .access k va))
    else if x.xf == 1 then (s, .ok (.conv x o n))
    else (s, .ok (.mem ((List.range n).map fun j => aperPa x (o + j)) true))
  | none =>
    match s.switching a va with
    | some m => (s, .wait (.migration m))
    | none =>
      let s := s.demandLeaf a va k.writes
      match s.markBlocked a va n k with
      | some (w, l) => (s.wbRequest w l, .wait (.writeBack w l))
      | none =>
      match s.leafOf a va with
      | (s, none) => (s, .trap (accTrap (s.residency a va .translation) k va))
      | (s, some l) =>
        match s.leafCheck a va n k l with
        | some c => (s, c)
        | none =>
          if !s.leafStale k l then s.leafUse va n k l
          else match ({ s with tlb := s.tlb.filter (· != l) } : State).leafOf a va with
            | (s, none) => (s, .trap (accTrap (s.residency a va .translation) k va))
            | (s, some l) =>
              match s.leafCheck a va n k l with
              | some c => (s, c)
              | none => s.leafUse va n k l

/-- R233 for an aligned access of n bytes: MISALIGNED, then steps 2 to 5. -/
def State.check (s : State) (a : As) (view : Option Nat) (va : DWord) (n : Nat) (k : AccKind) : State × Chk Place :=
  if va.toNat % n != 0 then (s, .trap (accTrap .misaligned k va)) else s.resolve a view va n k

/-- The bytes at a place, as an agent sees them. -/
def State.fetchPlace (s : State) (view : Option Nat) : Place → List Byte
  | .mem pas _ => pas.map (s.viewByte view)
  | .conv x o n => (List.range n).map fun j => s.aperBfp view x (o + j)
  | .value bs => bs

/-- A place holds poison (R406). -/
def State.placeBad (s : State) : Place → Bool
  | .mem pas _ => pas.any fun pa => s.isPoison pa
  | .conv x o n => (convPas x o n).any fun pa => s.isPoison pa
  | .value _ => false

/-- A place's line that cannot be written back: a write there waits (R53). -/
def State.placeBlocked (s : State) : Place → Option (Nat × Nat)
  | .mem pas _ => pas.findSome? fun pa => s.demandBlocked pa 1
  | .conv _ _ _ => none
  | .value _ => none

/-- The lines of a place are demand-read (R405). -/
def State.demandPlace (s : State) : Place → State
  | .mem pas _ => pas.foldl (fun s pa => s.demand pa 0) s
  | .conv x o n => (convPas x o n).foldl (fun s pa => s.demand pa 0) s
  | .value _ => s

/-- Consecutive addresses with their bytes, as runs. -/
def runs : List (Nat × Byte) → List (Nat × List Byte)
  | [] => []
  | (pa, b) :: r =>
    match runs r with
    | (pb, bs) :: rest => if pb = pa + 1 then (pa, b :: bs) :: rest else (pa, [b]) :: (pb, bs) :: rest
    | [] => [(pa, [b])]

/-- A core's plain store at a place is posted (R97, R236); a value place takes nothing. -/
def State.storePlace (s : State) (core : Nat) (p : Place) (bs : List Byte) : State :=
  match p with
  | .mem pas wv => (runs (pas.zip bs)).foldl (fun s r => s.post core r.1 r.2 wv) s
  | .conv _ _ _ => s
  | .value _ => s

/-- A write performed at once at a place. -/
def State.performPlace (s : State) (p : Place) (bs : List Byte) : State :=
  match p with
  | .mem pas wv => (runs (pas.zip bs)).foldl (fun s r => s.perform r.1 r.2 wv) s
  | .conv _ _ _ => s
  | .value _ => s

/-- A core's own posted writes that meet a place are performed before an atomic at it (R96). -/
def State.settlePlace (s : State) (core : Nat) : Place → State
  | .mem pas _ => match pas with
    | [] => s
    | pa :: _ => s.flushWhere fun w => w.core == core && overlaps4 w.pa w.bytes.length pa pas.length
  | .conv _ _ _ => s
  | .value _ => s

end Sys2Proof.Machine
end

