-- ==== Sys2Proof/Machine/Ops.lean ====
section
/-! DEFINITION. The operations every meaning shares: taking a trap and returning from it (R335 to R342), thread and crew
states (R26, R32 to R36, R211 to R213), the counters (R105), code fetch (R161 to R165), latch chains (R174), and the issue
of an instruction by its decode order (R178). -/

namespace Sys2Proof.Machine

/-- Trap codes (R335). -/
def Cause.code : Cause → Nat
  | .illegalOpcode => 1 | .illegalFormat => 2 | .illegalOperand => 3 | .illegalPair => 4 | .illegalLatch => 5
  | .badTarget => 6 | .illegalLine => 7 | .privilege => 8 | .illegalContext => 9 | .illegalCollective => 10
  | .misaligned => 11 | .access => 12 | .leaseViolation => 13 | .pageDiscarded => 14 | .translation => 15
  | .tarnUnalloc => 16 | .tarnBand => 17 | .streamMalformed => 18 | .promiseMissed => 19 | .assert => 20
  | .breakpoint => 21 | .userTrap => 22 | .timer => 23 | .stashMap => 24 | .poison => 25 | .fabricError => 26
  | .ticketAbort => 27 | .counterSaturated => 28

/-- The outcome of an instruction's own part. `v`, `x`, `p` deliver a result; `none` none; `jump` transfers; `stay` leaves the
PC to what the part did (a wait, an exit); `stall` issues nothing: the thread stays ready at its instruction. -/
inductive Res where
  | v (s : State) (x : Word)
  | x (s : State) (x : DWord)
  | p (s : State) (b : Bool)
  | none (s : State)
  | jump (s : State) (t : DWord)
  | stay (s : State)
  | stall (s : State)
  | trap (s : State) (i : TrapInfo)
  | wait (s : State) (w : Wait)
  deriving DecidableEq, Repr

/-! ### Traps -/

/-- Free a trap slot: its generation advances; a pending record takes it (R338, R339). -/
def State.freeSlotAt (s : State) (core i : Nat) : State :=
  let s := s.updCore core fun c => { c with slots := c.slots.upd i fun x => { gen := x.gen + 1, held := none, written := false } }
  match (s.core core).pend with
  | r :: rest => (s.updCore core fun c => { c with pend := rest }).putRec r
  | [] => s

/-- A context begins to stop: from now on nothing of the context issues (R349); `preempted` says that no ASSERT stops it. -/
def State.stopCtx (s : State) (p ctx : Nat) (preempted : Bool) (bo : Option (Nat × DWord)) : State :=
  let f := fun (c : CtxRun) =>
    { c with phase := if c.phase = 0 then 2 else c.phase, preempted := c.preempted || preempted, bos := c.bos ++ bo.toList }
  s.updPart p fun x => { x with ctxs := x.ctxs.upd ctx f }

/-- Orphan records: an asynchronous cause of an exited thread (R336). -/
def State.orphan (s : State) (t : Nat) (a : AsyncTrap) : State :=
  let s := s.putRec { s.trapRec t 6 a.info (s.thr t).r.pc a.opc with thread := none }
  s.updLaunch (s.launchOf t) fun l => { l with orphan := true }

/-- The crew is woken: leadership ends and the sleepers become ready (R33). -/
def State.wakeCrew (s : State) (c : Nat) : State :=
  let s := s.updCrew c fun x => { x with leader := none }
  (s.crewThreads c).foldl (fun s t =>
    if (s.thr t).st == .sleeping then s.updThr t fun x => { x with st := .ready, readyAt := s.cyc.toNat } else s) s

/-! ### Exit and kill (R211, R360) -/

/-- The rows of an exited thread that a posted joint operation has not read yet are zero (R34, R279, R281). -/
def State.dropRows (s : State) (t : Nat) : State :=
  { s with joints := s.joints.map fun j =>
      match j.crews.findIdx? (· == s.crewOf t) with
      | some i =>
        let n := 32 * i + (s.thr t).num
        if j.live && j.posted.isSome && (match j.granted with | some g => s.cyc.toNat < g + n | none => true) then
          { j with rows := j.rows.set n [] }
        else j
      | none => j }

/-- A thread exits: its registers read as zero, pending asynchronous causes become orphans, a leader wakes its crew. -/
def State.exitOne (s : State) (t : Nat) : State :=
  let s := s.dropRows t
  let s := if s.isLeader t then s.wakeCrew (s.crewOf t) else s
  let s := (s.thr t).async.foldl (fun s a => s.orphan t a) s
  s.updThr t fun x => { x with st := .exited, async := [], tarn := none, r := { pc := x.r.pc, npc := x.r.npc }, passed := false, inv := none }

/-- Free the trap slots of the threads that `p` selects; their handles become stale. -/
def State.dropSlots (s : State) (core : Nat) (p : TrapRec → Bool) : State :=
  let s := s.updCore core fun c => { c with pend := c.pend.filter fun r => !p r }
  (List.range 64).foldl (fun s i =>
    match ((s.core core).slots.get i).held with
    | some r => if p r then s.freeSlotAt core i else s
    | none => s) s

/-- A trap slot of a workgroup: of its threads, or of a held write-back; a held operation's stays with the operation (R338, R360). -/
def wgSlot (w : Nat) (r : TrapRec) : Bool := r.wg == some w && (r.kind ≤ 3 || (r.kind == 5 && r.op.isNone))

/-- A granted pass or a started TDRAIN still uses an allocation (R360). -/
def State.tarnUsed (s : State) (core : Nat) (a : TAlloc) : Bool :=
  (s.joints.any fun j => j.live && j.granted.isSome && j.core == core && j.base == a.base && j.wg == a.wg) ||
    s.ops.any fun o => o.live && o.engine == 4 && o.phase != .queued && o.icore == core && o.args.getD 2 48 == a.base &&
      s.wgOfCrew o.crew == a.wg

/-- The banks of a killed workgroup are released, those that its started passes and drains use once these have completed (R360). -/
def State.killTarn (s : State) (core w : Nat) : State :=
  let gone := fun (a : TAlloc) => a.wg == w && !s.tarnUsed core a
  s.updCore core fun c =>
    { c with
      allocs := (c.allocs.filter fun a => !gone a).map fun a => if a.wg == w then { a with killed := true } else a,
      clearing := c.clearing ++ (c.allocs.filter gone).flatMap fun a => (List.range a.n).map (a.base + ·) }

/-- The banks of a workgroup's allocations enter the clearing state (R58, R359). -/
def State.freeTarn (s : State) (core w : Nat) : State :=
  s.updCore core fun c =>
    { c with
      allocs := c.allocs.filter (·.wg != w),
      clearing := c.clearing ++ (c.allocs.filter (·.wg == w)).flatMap fun a => (List.range a.n).map (a.base + ·) }

/-- A message of the remote path to a package: its own fabric carries those for itself, the Rein links the others (R46, R252, R412). -/
def State.send (s : State) (dst : BitVec 11) (m : FabMsg) : State :=
  if dst == s.links.pkg then { s with fabric := s.fabric ++ [m] }
  else { s with outbox := s.outbox ++ [(dst, m)], links := s.links.enqueue dst m s.outbox.length s.cyc.toNat }

/-- The replay records of some crews are discarded, each with a release to its owner, and accesses not sent yet go too (R360, R395). -/
def State.dropReplays (s : State) (cs : List Nat) : State :=
  (List.range s.racc.length).foldl (fun s i =>
    match s.racc[i]? with
    | some a =>
      if a.live && cs.contains a.crew && (a.tkid.isSome || !a.sent) then
        (if a.tkid.isSome || a.replay.isSome then s.send a.owner (.release s.links.pkg i) else s).updAcc i fun x => { x with live := false }
      else if cs.contains a.crew then s.updAcc i fun x => { x with acked := false }
      else s
    | none => s) s

/-- WGKILL of one workgroup (R360): threads exit and their trap slots are freed; operations not started, joint operations not
granted and replay records go; tarn and stash are discarded. -/
def State.killWg (s : State) (w : Nat) : State :=
  let core := (s.wg w).core
  let cs := s.wgCrews w
  let s := s.dropSlots core (wgSlot w)
  let s := (s.wgThreads w).foldl (fun s t => if s.hasExited t then s else s.exitOne t) s
  let ops := s.ops.map fun o => if cs.contains o.crew && o.phase == .queued then { o with live := false } else o
  let joints := s.joints.map fun j => if j.wg == w && j.granted.isNone then { j with live := false } else j
  let s := ({ s with ops := ops, joints := joints } : State).dropReplays cs
  (s.killTarn core w).updWg w fun g => { g with stage := .killed, maps := [], lines := [], wbHold := false }

/-- A workgroup that a kill still finds. -/
def Wg.present (g : Wg) : Bool := g.holds

/-- WGKILL.launch: every workgroup of the launch, and none is activated any more (R360). -/
def State.killLaunch (s : State) (l : Nat) : State :=
  let s := s.updLaunch l fun x => { x with killed := true, ended := true }
  (List.range s.wgs.length).foldl (fun s w => if (s.wg w).launch = l && (s.wg w).present then s.killWg w else s) s

/-- LEASE_VIOLATION: the launch is killed and a record of kind 4 is written, without detail or address (R335, R340, R360). -/
def State.leaseKill (s : State) (t : Nat) (i : TrapInfo) (opc : DWord) : State :=
  let l := s.launchOf t
  let s := s.putRec { s.trapRec t 4 { cause := i.cause, half := i.half } 0 opc with thread := none }
  (s.killLaunch l).updLaunch l fun x => { x with leaseFatal := true }

/-- A thread stops at a trap of a kind: its record is made and it waits for its SRET (R337). LEASE_VIOLATION is fatal to the
launch instead (R335). -/
def State.stopThread (s : State) (t kind : Nat) (i : TrapInfo) (tpc opc : DWord) : State :=
  if i.cause = .leaseViolation then s.leaseKill t i opc
  else
  let s := s.putRec (s.trapRec t kind i tpc opc)
  s.updThr t fun x => { x with st := .waiting (.trap kind i opc), passed := false, tarn := none, inv := none }

/-- An asynchronous cause is detected in a thread (R336). -/
def State.asyncTrap (s : State) (t : Nat) (i : TrapInfo) (opc : DWord) : State :=
  if i.cause = .leaseViolation then s.leaseKill t i opc
  else if s.hasExited t then s.orphan t ⟨i, opc, s.cyc.toNat⟩
  else s.updThr t fun x => { x with async := x.async ++ [⟨i, opc, s.cyc.toNat⟩] }

/-! ### Counters -/

/-- The value of a crew's counter of a class (R105, R106). -/
def State.counter (s : State) (c cls : Nat) : Nat := ((s.crew c).outst.filter (·.cls == cls)).length

/-- A new operation of a class: its issue number modulo 8,192 (R250). -/
def State.count (s : State) (c cls : Nat) : State × Nat :=
  let n := (s.crew c).iss.get cls
  (s.updCrew c fun x => { x with outst := x.outst ++ [⟨cls, n, false⟩], iss := x.iss.set cls ((n + 1) % 8192) }, n)

/-- Counts leave in issue order within a class (R105). -/
def retire (os : List Outst) (cls : Nat) : List Outst :=
  match os with
  | [] => []
  | o :: r => if o.cls = cls then (if o.done then retire r cls else o :: r) else o :: retire r cls

/-- An operation is done: its count leaves once every older one of its class has (R105). -/
def State.countDone (s : State) (c cls seq : Nat) : State :=
  s.updCrew c fun x =>
    let os := x.outst.map fun o => if o.cls = cls && o.seq = seq then { o with done := true } else o
    { x with outst := retire os cls }

/-- An operation is outstanding (R250). -/
def State.outstanding (s : State) (c cls seq : Nat) : Bool := (s.crew c).outst.any fun o => o.cls == cls && o.seq == seq

/-- A remote access of the crew with an index below `n` is neither performed nor aborted (R122). -/
def State.remotePending (s : State) (c n : Nat) : Bool :=
  (List.range (min n s.racc.length)).any fun i =>
    match s.racc[i]? with | some a => a.live && a.crew == c | none => false

/-! ### Thread states -/

/-- A chain breaker leaves the chain at its start (R174). -/
def Regs.breakChain (r : Regs) : Regs := { r with k := 0, written := 0 }

/-- The PC passes to the next start word (R165). -/
def Regs.step (r : Regs) : Regs := { r with pc := r.npc }

/-- A thread goes on past a waiting breaker, writing its predicate when it has one (R26, R174). -/
def Thread.goOn (x : Thread) (now : Nat) (d : Option (BitVec 11 × Bool)) : Thread :=
  let r := match d with
    | some (d, b) => x.r.setP (d.setWidth 4) b
    | none => x.r
  { x with r := r.breakChain.step, st := .ready, passed := false, readyAt := now }

/-- The condition of a waiting thread, where it is one that the state alone decides; the answer for its predicate. -/
def State.met (s : State) (t : Nat) : Wait → Bool
  | .opwait cls limit => s.counter (s.crewOf t) cls ≤ limit
  | .sleep dl => dl.toNat ≤ s.cyc.toNat
  | .pwait p _ exact => !exact && !s.outstanding (s.crewOf t) (bits p 61 3) (bits p 48 13)
  | _ => false

/-- Waits that complete the instruction go on; those that resume it become ready at it. -/
def State.wakeOne (s : State) (t : Nat) : State :=
  match (s.thr t).st with
  | .waiting (.opwait cls n) => if s.met t (.opwait cls n) then s.updThr t fun x => x.goOn s.cyc.toNat none else s
  | .waiting (.pwait p w e) => if s.met t (.pwait p w e) then s.updThr t fun x => x.goOn s.cyc.toNat none else s
  | .parkedRemote (.remote n) =>
    if s.remotePending (s.crewOf t) n then s
    else s.updThr t fun x => { x with st := .ready, passed := true, readyAt := s.cyc.toNat }
  | _ => s

/-- Every waiting thread whose condition now holds goes on (R26). -/
def State.wake (s : State) : State := (List.range s.threads.length).foldl (fun s t => s.wakeOne t) s

/-! ### Barriers (R213) -/

/-- A thread waits at a barrier of the given kind. -/
def atBarrier (tile : Bool) (x : Thread) : Bool :=
  match x.st with
  | .waiting .wgbar => !tile
  | .waiting .tilebar => tile
  | _ => false

/-- Required threads of a workgroup: neither exited nor sleeping (R213). -/
def State.required (s : State) (w : Nat) : List Nat :=
  (s.wgThreads w).filter fun t => (s.thr t).st != .exited && (s.thr t).st != .sleeping

/-- Every required thread of a workgroup waits at the barrier, and at least one does (R213). -/
def State.arrived (s : State) (tile : Bool) (w : Nat) : Bool :=
  (s.wg w).started && (s.required w).all fun t => atBarrier tile (s.thr t)

/-- Release the threads of a workgroup that wait at a barrier. -/
def State.releaseBar (s : State) (tile : Bool) (w : Nat) : State :=
  (s.wgThreads w).foldl (fun s t => if atBarrier tile (s.thr t) then s.updThr t fun x => x.goOn s.cyc.toNat none else s) s

/-- WGBAR completes when every required thread has arrived (R212, R213). -/
def State.tryWgbar (s : State) (w : Nat) : State :=
  if s.required w != [] && s.arrived false w then s.releaseBar false w else s

/-- Members of a workgroup's tile (R213): for a workgroup number, its coordinates. -/
def tileMember (l : Launch) (a b : Wg) : Bool :=
  if l.steal then a.wx == b.wx && a.wy == b.wy && a.wz == b.wz
  else a.wz == b.wz && a.wx / 2 ^ l.ta == b.wx / 2 ^ l.ta && a.wy / 2 ^ l.tb == b.wy / 2 ^ l.tb

/-- Workgroups of a tile that exist, by index. -/
def State.tileWgs (s : State) (w : Nat) : List Nat :=
  (List.range s.wgs.length).filter fun i =>
    (s.wg i).launch == (s.wg w).launch && (s.wg i).stage != .saved && tileMember (s.launch (s.wg w).launch) (s.wg i) (s.wg w)

/-- Number of member workgroups of a tile. -/
def State.tileSize (s : State) (w : Nat) : Nat :=
  let l := s.launch (s.wg w).launch
  if l.steal then 1 else 2 ^ l.ta * 2 ^ l.tb

/-- A workgroup's threads have all exited. -/
def State.wgDone (s : State) (w : Nat) : Bool :=
  match (s.wg w).stage with
  | .exited => true
  | .killed => true
  | .exiting => true
  | _ => (s.wg w).started && (s.wgThreads w).all s.hasExited

/-- TILEBAR completes when every member workgroup has arrived, each thread of which released on arrival (R103); an undistributed or unstarted one
is still a member, one whose threads have all exited is not (R213). -/
def State.tryTilebar (s : State) (w : Nat) : State :=
  let ms := s.tileWgs w
  if ms.length = s.tileSize w && ms.all (fun m => s.wgDone m || (s.required m != [] && s.arrived true m)) &&
      ms.any (fun m => s.arrived true m && !s.wgDone m) then
    ms.foldl (fun s m => s.releaseBar true m) s
  else s

/-! ### Elections and CBAR (R32, R36) -/

/-- The rendezvous a thread has arrived at, as what must match (R36). -/
inductive Rdv where
  | none
  | elect
  | cbar
  | coll (i : Instr) (guard : Bool) (ftz : Bool) (spread : Nat)
  deriving DecidableEq, Repr

/-- The rendezvous of a thread. -/
def rdvOf (x : Thread) : Rdv :=
  match x.st with
  | .waiting (.elect _) => .elect
  | .waiting .cbar => .cbar
  | .waiting (.coll i g f sp) => .coll i g f sp
  | _ => .none

/-- ELECT completes: the lowest arrived thread leads with p[d] := 1, the others sleep with p[d] := 0 (R32). -/
def State.election (s : State) (c : Nat) : State :=
  match s.live c with
  | [] => s
  | l :: rest =>
    let fin := fun (s : State) (t : Nat) (b : Bool) =>
      s.updThr t fun x => match x.st with
        | .waiting (.elect d) => { x.goOn s.cyc.toNat (some (d, b)) with st := if b then .ready else .sleeping }
        | _ => x
    let s := rest.foldl (fun s t => fin s t false) (fin s l true)
    s.updCrew c fun x => { x with leader := some (s.thr l).num }

/-- Every arrived thread at a rendezvous that does not match raises ILLEGAL_COLLECTIVE at its own instruction (R36). -/
def State.mismatch (s : State) (c : Nat) : State :=
  (s.live c).foldl (fun s t => s.stopThread t 0 { cause := .illegalCollective } (s.thr t).r.pc (s.thr t).r.pc) s

/-! ### Code fetch (R161 to R165) -/

/-- Word w of a line of 128 bytes. -/
def lineWord (line : List Byte) (w : Nat) : DWord := dwOf ((line.drop (8 * w)).take 8)

/-- The header fields of a line (R162). -/
def lineStart (line : List Byte) (w : Nat) : Bool := (lineWord line 0).getLsbD (w - 1)
def lineTarget (line : List Byte) (w : Nat) : Bool := (lineWord line 0).getLsbD (w + 14)
def lineKind (line : List Byte) : Nat := bits (lineWord line 0) 30 2

/-- Word w breaks R163 or carries a target bit without a start bit (R164). -/
def wordBad (line : List Byte) (w : Nat) : Bool :=
  let ext := takesExt (lineWord line w)
  if lineStart line w then ext && (w == 15 || lineStart line (w + 1))
  else lineTarget line w || w == 1 || !(lineStart line (w - 1) && takesExt (lineWord line (w - 1)))

/-- The line is defective (R164). -/
def lineBad (line : List Byte) : Bool :=
  bits (lineWord line 0) 32 32 != 0 || 2 ≤ lineKind line || (List.range 15).any fun i => wordBad line (i + 1)

/-- Position of an address in its line. -/
def pcWord (pc : DWord) : Nat := pc.toNat / 8 % 16
def pcLine (pc : DWord) : DWord := pc - BitVec.ofNat 64 (pc.toNat % 128)

/-- The next start word after an instruction (R165). -/
def nextPc (pc : DWord) (ext : Bool) : DWord :=
  let p := pc + (if ext then 16 else 8)
  if pcWord p = 0 then p + 8 else p

/-- How the fetched copy of a code line is kept: by its frame's address, or by its elements' in an aperture of transform 1; zeros of a
discarded page are not kept. -/
def codeKey : Place → Option Nat
  | .mem pas _ => some (pas.headD 0)
  | .conv x o _ => some (2 ^ 64 + x.pa0.toNat + o / 2)
  | .value _ => none

/-- The fetched copies of an agent: its core's, or for a walker its command's (R161; log 68). -/
def State.codeHeld (s : State) (core : Option Nat) : List (Nat × List Byte) :=
  match core, s.cur with
  | some c, _ => (s.core c).icache
  | none, .walker w => ((s.cmds[(s.wlk w).cmd]?).map (·.icache)).getD []
  | none, _ => []

/-- A line that has been fetched is kept. -/
def State.holdCode (s : State) (core : Option Nat) (key : Nat) (line : List Byte) : State :=
  match core, s.cur with
  | some c, _ => s.updCore c fun x => { x with icache := (key, line) :: x.icache }
  | none, .walker w => s.updCmd (s.wlk w).cmd fun c => { c with icache := (key, line) :: c.icache }
  | none, _ => s

/-- The line that holds a PC, from the agent's fetched copies or memory (R161, R242, R405). The stored bytes of a poisoned line are
executed: the manual names no other treatment (R406; log 65). -/
def State.fetchLine (s : State) (a : As) (core : Option Nat) (pc : DWord) : State × Chk (List Byte) :=
  match s.resolve a core (pcLine pc) 128 .fetch with
  | (s, .trap i) => (s, .trap { i with addr := pc })
  | (s, .wait w) => (s, .wait w)
  | (s, .ok p) =>
    match codeKey p with
    | none => (s, .ok (s.fetchPlace core p))
    | some key =>
      match (s.codeHeld core).find? fun e => e.1 == key with
      | some e => (s, .ok e.2)
      | none =>
        let s := s.demandPlace p
        (s.holdCode core key (s.fetchPlace core p), .ok (s.fetchPlace core p))

/-- The target check of a control transfer (R165). That a misaligned target, or one at word 0, is BAD_TARGET before the line's header is fetched
is the model's choice (log 94). -/
def State.checkTarget (s : State) (a : As) (core : Option Nat) (t : DWord) : State × Chk Unit :=
  if t.toNat % 8 != 0 || pcWord t == 0 then (s, .trap { cause := .badTarget })
  else match s.fetchLine a core t with
    | (s, .trap i) => (s, .trap i)
    | (s, .wait w) => (s, .wait w)
    | (s, .ok line) => if lineTarget line (pcWord t) then (s, .ok ()) else (s, .trap { cause := .badTarget })

/-- The agent's address space and view: a walker runs in its command's context, at its command's level (R79). -/
def State.curAs (s : State) : As :=
  match s.cur with
  | .thread t => s.asOf t
  | .walker w =>
    match s.cmds[(s.wlk w).cmd]? with
    | some c => ⟨c.part, c.ctx, c.sup, none⟩
    | none => ⟨0, 0, false, none⟩
  | .none => ⟨0, 0, false, none⟩

def State.curView (s : State) : Option Nat :=
  match s.cur with
  | .thread t => some (s.coreOf t)
  | .walker _ => none
  | .none => none

/-! ### Walker faults (R79) -/

/-- Every walker of a command stops. -/
def State.endWalkers (s : State) (cmd : Nat) : State :=
  { s with walkers := s.walkers.map fun (y : Walker) => if y.cmd = cmd then { y with phase := .done } else y }

/-- A walker's command ends with WALKER_FAULT (0x07 of R89): the first fault's PC and the node in v0 are recorded (R91), every walker of
the command stops. -/
def State.walkerFault (s : State) (w : Nat) : State :=
  let x := s.wlk w
  let s := s.updCmd x.cmd fun c =>
    if c.status = 0 then { c with status := 0x07, faultPc := x.r.pc, faultNode := x.r.v.get 0 } else c
  s.endWalkers x.cmd

/-! ### Issue (R178) -/

/-- What decoding an opcode fixes for its issue: the walker profile (R79, R192), core use, privilege, chain breaking (R175),
and whether it takes part in a rendezvous whatever its guard (R167). -/
structure Attr where
  walker : Bool := false
  core   : Bool := true
  priv   : Bool := false
  brk    : Bool := false
  coll   : Bool := false
  deriving DecidableEq, Repr

/-- An instruction's issue: attributes, guard, sources, destination. -/
structure Iss where
  a   : Attr
  h   : Hdr
  ops : List Opd
  dst : Dst
  deriving DecidableEq, Repr

/-- The guard of an instruction (R167). -/
def Regs.guard (r : Regs) (h : Hdr) : Bool := r.pred h.pred != h.neg

/-- Loads in flight of the agent meet the instruction's registers (R234). -/
def State.hazard (s : State) (i : Iss) : Bool :=
  s.loads.any fun l =>
    (match s.cur with
      | .thread t => l.walker.isNone && l.thread == t
      | .walker w => l.walker == some w
      | .none => false) &&
    (i.ops.flatMap Opd.regs ++ i.dst.regs).any fun g => meets g (l.d, l.vals.length)

/-- A posted joint operation holds one of some registers of a crew's threads (R279). -/
def State.regHeld (s : State) (crew : Nat) (g : Nat × Nat) : Bool :=
  s.joints.any fun j => j.live && j.posted.isSome &&
    match j.crews.findIdx? (· == crew) with
    | some n => meets g (j.va.getD n 0, j.foot)
    | none => false

/-- The instruction writes a register that a posted joint operation holds (R279). -/
def State.holds (s : State) (i : Iss) : Bool :=
  match s.cur with
  | .thread t => !i.h.nw && i.dst.regs.any (s.regHeld (s.crewOf t))
  | _ => false

/-- A cause pending in a thread was detected before this cycle, so that it precedes the thread's next instruction: one detected in the cycle
of an issue follows it (R336). -/
def State.asyncDue (s : State) (t : Nat) : Bool := (s.thr t).async.head?.any fun a => a.cyc != s.cyc.toNat

/-- The registers of the executing agent below the register count (R25, R79). -/
def State.curCnt (s : State) : Nat :=
  match s.cur with
  | .thread t => s.regcnt t
  | _ => 32

/-- Steps 3 to 5 of R178: the first that fails. -/
def State.stepChecks (s : State) (i : Iss) : Option TrapInfo :=
  let onWalker := match s.cur with | .walker _ => true | _ => false
  if (if onWalker then !i.a.walker else !i.a.core) then some { cause := .illegalContext }
  else if i.a.priv && !s.curAs.sup then some { cause := .privilege }
  else if !(i.ops.all (Opd.ok s.curCnt) && (i.h.nw || i.dst.ok s.curCnt)) then some { cause := .illegalOperand }
  else none

/-- Step 7 of R178: a latch source that is not written (R176). -/
def latchBad (r : Regs) (ops : List Opd) : Bool :=
  ops.any fun o => match o.latch? with | some j => !r.written.getLsbD j.toNat | none => false

/-- A trap of the executing agent at its instruction: a thread stops, a walker's command ends (R79, R335, R337). -/
def State.raise (s : State) (i : TrapInfo) : State :=
  match s.cur with
  | .thread t => s.stopThread t 0 i (s.thr t).r.pc (s.thr t).r.pc
  | .walker w => s.walkerFault w
  | .none => s

/-- A breaker ends the chain (R174). -/
def State.breakCur (s : State) : State := s.updRegs Regs.breakChain

/-- The agent goes on to the next start word. -/
def State.advance (s : State) : State :=
  match s.cur with
  | .thread t => s.updThr t fun x => { x with r := x.r.step, passed := false }
  | .walker w => s.updWlk w fun x => { x with r := x.r.step }
  | .none => s

/-- The chain after an instruction without a v result, or with a false guard (R174). -/
def Regs.noLatch (r : Regs) : Regs :=
  { r with written := r.written &&& ~~~(1#8 <<< r.k.toNat), k := r.k + 1 }

/-- The chain after a v or x result (R174). -/
def Regs.putLatch (r : Regs) (x : DWord) : Regs :=
  { r with latch := r.latch.set r.k.toNat x, written := r.written ||| (1#8 <<< r.k.toNat), k := r.k + 1 }

/-- The chain after an instruction without a v result. -/
def chainNone (brk : Bool) (r : Regs) : Regs := if brk then r.breakChain else r.noLatch

/-- The chain after an instruction with a v or x result. -/
def chainRes (brk : Bool) (x : DWord) (r : Regs) : Regs := if brk then r.breakChain else r.putLatch x

/-- The agent waits at its instruction: fetch-suspended, parked-remote or waiting by what it waits for (R26). -/
def waitState (w : Wait) : TState :=
  match w with
  | .migration _ => .fetchSuspended w
  | .writeBack _ _ => .fetchSuspended w
  | .pgmig _ => .fetchSuspended w
  | .image _ => .fetchSuspended w
  | .append _ => .fetchSuspended w
  | .held _ => .parkedRemote w
  | .remote _ => .parkedRemote w
  | _ => .waiting w

/-- The executing thread waits; a walker tries again. -/
def State.hold (s : State) (w : Wait) : State :=
  match s.cur with
  | .thread t => s.updThr t fun x => { x with st := waitState w }
  | _ => s

/-- A thread of a quadrant has issued in this cycle. -/
def State.issuedIn (s : State) (core quad : Nat) : Bool :=
  (List.range s.threads.length).any fun t =>
    (s.thr t).lastIssue == s.cyc.toNat && !s.isLeader t && s.coreOf t == core && s.quadOf (s.crewOf t) == quad

/-- An issue that stalls: it counts as none for R29, and the sequencer, or the quadrant when no thread of the issue went on, turns to
another in the same cycle (R29, R33). -/
def State.stallCur (s : State) : State :=
  match s.cur with
  | .thread t =>
    let s := s.updThr t fun x => { x with lastIssue := x.prevIssue, stalled := s.cyc.toNat + 1 }
    let core := s.coreOf t
    let quad := s.quadOf (s.crewOf t)
    if s.isLeader t then { s with turn := (core, 4) :: s.turn }
    else if s.issue.agents.isEmpty && !s.issuedIn core quad then { s with turn := (core, quad) :: s.turn }
    else s
  | _ => s

/-- A result is delivered to d and the latch, and the agent goes on (R168, R174). -/
def deliver (i : Iss) : Res → State
  | .v s x =>
    (s.updRegs fun r => chainRes i.a.brk (zext64 x) (if i.h.nw then r else r.setV i.h.d.toNat x)).advance
  | .x s x =>
    (s.updRegs fun r => chainRes i.a.brk x (if i.h.nw then r else r.setX i.h.d.toNat x)).advance
  | .p s b => (s.updRegs fun r => chainNone i.a.brk (r.setP (i.h.d.setWidth 4) b)).advance
  | .none s => (s.updRegs (chainNone i.a.brk)).advance
  | .jump s t => (s.updRegs fun r => { chainNone i.a.brk r with npc := t }).advance
  | .stay s => s
  | .stall s => s.stallCur
  | .trap s c => s.raise c
  | .wait s w => s.hold w

/-- A breaker's quadrant re-forms in the next cycle (R28); a leader issues outside the quadrants (R33). -/
def State.begin (s : State) (i : Iss) : State :=
  match s.cur with
  | .thread t =>
    if i.a.brk && !s.isLeader t then { s with reform := s.reform.insert (s.coreOf t, s.quadOf (s.crewOf t)) } else s
  | _ => s

/-- R122: the thread waits, parked-remote, until every remote access the crew issued before has been performed or aborted. -/
def State.awaitRemote (s : State) (go : State → Res) : Res :=
  if !(s.thr s.t).passed && s.remotePending (s.crewOf s.t) s.racc.length then .wait s (.remote s.racc.length) else go s

/-- A trap that stops after the instruction: BRK, TRAP and ASSERT resume at the next start word (R215, R335). -/
def State.stopNext (s : State) (kind : Nat) (i : TrapInfo) : State :=
  let r := (s.thr s.t).r
  (s.updThr s.t fun x => { x with r := x.r.breakChain.step }).stopThread s.t kind i r.npc r.pc

/-- The issue of one instruction by the executing agent, in the decode order of R178 after its first two steps: the R234
interlock and the holds of R279, steps 3 to 5, the guard (R167), step 7, then the instruction's own part. ILLEGAL_COLLECTIVE of a leader at a
crew collective or CBAR, and of ELECT while the crew has a leader, is raised whatever the guard, the model's choice (log 93). A latch operand
whose latch has not been written since the chain began, its writer's guard being false, is step 7's ILLEGAL_LATCH (R173, R182). -/
def State.issueI (s : State) (i : Iss) (body : State → Regs → Res) : Host.Outcome State Fault Refusal :=
  match s.cur with
  | .none => .fault .noAgent
  | _ =>
    if s.hazard i || s.holds i then .next s
    else match s.stepChecks i with
      | some c => .next (s.raise c)
      | none =>
        if s.curRegs.guard i.h || i.a.coll then
          if s.curRegs.guard i.h && latchBad s.curRegs i.ops then .next (s.raise { cause := .illegalLatch })
          else .next (deliver i (body (s.begin i) s.curRegs))
        else .next (deliver i (.none (s.begin i)))

end Sys2Proof.Machine
end

