-- ==== Sys2Proof/Machine/Stash.lean ====
section
/-! DEFINITION. The stash of a workgroup: bounds, mapped lines, fills and write-backs (R50 to R55, R239, R406). -/

namespace Sys2Proof.Machine

/-- The trap fields of a failed fill or write-back: STASH_MAP, or LEASE_VIOLATION of a leased range (R52, R53, R388). -/
def stashTrap (i : TrapInfo) (k : Nat) (gva : DWord) : TrapInfo :=
  { cause := if i.cause = .leaseViolation then .leaseViolation else .stashMap, detail := k, addr := gva }

/-- Put a filled line's bytes and record into the stash. -/
def State.putLine (s : State) (w line : Nat) (bs : List Byte) (ls : LineSt) : State :=
  s.updWg w fun g => { g with stash := putBytes g.stash (64 * line) bs, lines := g.lines.set line (some ls) }

/-! ### Write-back (R53) -/

/-- The bytes of a stash. -/
def State.stashBytes (s : State) (w off n : Nat) : List Byte := (List.range n).map fun i => (s.wg w).stash.get (off + i)

/-- SFLUSH and SUNMAP: dirty lines are written back in turn; the first that fails raises STASH_MAP, one that waits for another line which
cannot be written back keeps the instruction waiting (R53, R241). -/
def State.cleanLines (s : State) (w : Nat) : List Nat → State × Chk Unit
  | [] => (s, .ok ())
  | l :: r =>
    match s.wbKeeper w l with
    | none => (s.cleanLine w l).cleanLines w r
    | some (v, k) =>
      if s.wbSelf w l then (s.wbRequest v k, .wait (.writeBack v k))
      else
        let gva := match (s.wg w).entryOf l with | some e => e.gvaOf l | none => 0
        (s.demandWb w l, .trap { cause := .stashMap, detail := 7, addr := gva })

/-- An instruction goes on unless a write of it demands a line that cannot be written back: then it waits (R53). -/
def State.unlessBlocked (s : State) (b : Option (Nat × Nat)) (go : State → Res) : Res :=
  match b with
  | some (w, l) => .wait (s.wbRequest w l) (.writeBack w l)
  | none => go s

/-- A release of a core at a scope, which waits for posted writes that have to wait themselves (R53, R99). -/
def State.releaseThen (s : State) (core : Nat) (sc : Scope) (go : State → Res) : Res :=
  let s := s.release core sc
  s.unlessBlocked (if scopeWide sc then s.postBlocked core else none) go

/-- A release by an instruction that is not possibly-faulting: where posted writes have to wait, it stalls at issue (R53, R194, R195). -/
def State.releaseStall (s : State) (core : Nat) (sc : Scope) (go : State → Res) : Res :=
  let s := s.release core sc
  match if scopeWide sc then s.postBlocked core else none with
  | some (w, l) => .stall (s.wbRequest w l)
  | none => go s

/-- The supervisor is asked for a line that keeps a write of an agent waiting, which is no instruction (R53, R340). -/
def State.askBlocked (s : State) (b : Option (Nat × Nat)) : State := match b with | some (w, l) => s.wbRequest w l | none => s

/-- What comes of a write by an agent that is no instruction, or what keeps it waiting: a line that cannot be written back, or another
thing. -/
abbrev Tried (α : Type) := Except (Option (Nat × Nat)) α

/-- The state after a write, or the unchanged one with the supervisor asked for the line that keeps it waiting (R53). -/
def State.orAsk (s : State) : Tried State → State
  | .ok s' => s'
  | .error b => s.askBlocked b

/-- Lines of a workgroup that are filled. -/
def Wg.filled (g : Wg) : List Nat := g.lines.map (·.1)

/-- At a switch-out, an eviction or a move of the stash: every dirty line is written back and every line becomes unfilled; the
first that fails is reported, and the answer is false (R53, R54). -/
def State.releaseLines (s : State) (w : Nat) : List Nat → State × Bool
  | [] => (s, true)
  | l :: r =>
    match s.wbKeeper w l with
    | none => (s.giveUp w l).releaseLines w r
    | some (v, k) => (s.wbRequest v k, false)

/-! ### Filling and reaching the stash -/

/-- The fill of an unfilled mapped line at its first touch (R52); an earlier holder gives the line up as for a write (R55). -/
def State.fillLine (s : State) (w line : Nat) : State × Chk Unit :=
  match (s.wg w).entryOf line, (s.wg w).lines.get line with
  | none, _ => (s, .ok ())
  | some _, some _ => (s, .ok ())
  | some e, none =>
    let gva := e.gvaOf line
    let a := s.asOfWg w
    let core := (s.wg w).core
    if (s.aperFind a gva).isSome then (s, .trap { cause := .stashMap, detail := 6, addr := gva })
    else match s.resolve a (some core) gva 64 .stash with
      | (s, .trap i) => (s, .trap (stashTrap i 6 gva))
      | (s, .wait x) => (s, .wait x)
      | (s, .ok (.value bs)) => (s.putLine w line bs { dirty := false, pa := none }, .ok ())
      | (s, .ok (.conv x o n)) => (s.putLine w line (s.fetchPlace (some core) (.conv x o n)) { dirty := false, pa := none }, .ok ())
      | (s, .ok (.mem pas wv)) =>
        let pl := pas.headD 0 / 64
        match s.demandBlocked (64 * pl) 64 with
        | some (v, l) => (s.wbRequest v l, .wait (.writeBack v l))
        | none =>
        let s := s.flushWhere fun p => p.core == core && overlaps4 p.pa p.bytes.length (64 * pl) 64
        let s := s.takeLine pl
        let s := if e.nofill then s else s.demand (64 * pl) 0
        let bs := if e.nofill then List.replicate 64 0 else s.viewBytes none (64 * pl) 64
        let bad := !e.nofill && s.isPoison (64 * pl)
        (s.putLine w line bs { dirty := false, pa := some pl, wv := wv, bad := bad }, .ok ())

/-- The stash lines that n bytes at an offset touch. -/
def stashLines (off n : Nat) : List Nat := (List.range ((off + n - 1) / 64 - off / 64 + 1)).map (off / 64 + ·)

/-- Fill every line of a list, stopping at the first failure. -/
def State.fillLines (s : State) (w : Nat) : List Nat → State × Chk Unit
  | [] => (s, .ok ())
  | l :: r =>
    match s.fillLine w l with
    | (s, .ok ()) => s.fillLines w r
    | (s, .trap i) => (s, .trap i)
    | (s, .wait x) => (s, .wait x)

/-- The checks of R239 for n bytes: alignment, bounds, a read-only range, then the fills. -/
def State.stashCheck (s : State) (w off n : Nat) (write : Bool) : State × Chk Unit :=
  let bad := fun c => (s, Chk.trap { cause := c, detail := 6, addr := BitVec.ofNat 64 off })
  if off % n != 0 then bad .misaligned
  else if s.stashSize w < off + n then bad .access
  else if write && (stashLines off n).any (fun l => match (s.wg w).entryOf l with | some e => e.ro | none => false) then
    bad .access
  else s.fillLines w (stashLines off n)

/-- A stash line holds poison that no write has covered (R406). -/
def State.stashBad (s : State) (w off n : Nat) : Bool :=
  (stashLines off n).any fun l => match (s.wg w).lines.get l with | some x => x.bad | none => false

/-- Bytes off … off + n - 1 of a line as a mask. -/
def lineMask (line off n : Nat) : BitVec 64 :=
  BitVec.ofNat 64 (((List.range 64).filter fun i => off ≤ 64 * line + i && 64 * line + i < off + n).foldl (fun a i => a + 2 ^ i) 0)

/-- A write makes a filled line dirty, and clears its poison once writes have covered it (R52, R406). -/
def LineSt.touch (x : LineSt) (m : BitVec 64) : LineSt :=
  let wrote := if x.bad then x.wrote ||| m else 0
  { x with dirty := true, bad := x.bad && wrote != BitVec.allOnes 64, wrote := if wrote == BitVec.allOnes 64 then 0 else wrote }

/-- Bytes written to a stash whose lines are filled. -/
def State.stashPut (s : State) (w off : Nat) (bs : List Byte) : State :=
  s.updWg w fun g =>
    { g with
      stash := putBytes g.stash off bs,
      lines := (stashLines off bs.length).foldl (fun m l =>
        match m.get l with
        | some x => m.set l (some (x.touch (lineMask l off bs.length)))
        | none => m) g.lines }

end Sys2Proof.Machine
end

