-- ==== Sys2Proof/Machine/Range.lean ====
section
/-! DEFINITION. Ranges of global memory page by page, ordered streams (R110 to R112), and the ranking of R77 and R78. -/

namespace Sys2Proof.Machine

/-- A range cut at page boundaries of 4 KiB: addresses and lengths. -/
def pieces (va : DWord) : Nat → Nat → List (DWord × Nat)
  | 0, _ => []
  | _, 0 => []
  | fuel + 1, n =>
    let m := min n (4096 - va.toNat % 4096)
    (va, m) :: pieces (va + BitVec.ofNat 64 m) fuel (n - m)

/-- The pages of a range: at most one more than its length in pages. -/
def pagesOf (va : DWord) (n : Nat) : List (DWord × Nat) := pieces va (n / 4096 + 2) n

/-- The page at `next` of an access lies past the end of the aperture that its page at `va` fell into (R64). -/
def State.pastEnd (s : State) (a : As) (va next : DWord) : Bool :=
  match s.aperFind a va with
  | some i =>
    let x := (s.part a.part).apers.get i
    va57 x.va + x.len.toNat ≤ va57 next
  | none => false

/-- R233, steps 2 to 5, on every page of a range; one that runs past the end of an aperture gives ACCESS there (R64). -/
def State.resolveAll (s : State) (a : As) (view : Option Nat) (k : AccKind) : List (DWord × Nat) → State × Chk (List Place)
  | [] => (s, .ok [])
  | (va, n) :: r =>
    match s.resolve a view va n k with
    | (s, .trap i) => (s, .trap i)
    | (s, .wait w) => (s, .wait w)
    | (s, .ok p) =>
      match (r.head?.map (·.1)).filter (s.pastEnd a va), s.resolveAll a view k r with
      | some next, _ => (s, .trap (accTrap .access k next))
      | none, (s, .ok ps) => (s, .ok (p :: ps))
      | none, (s, .trap i) => (s, .trap i)
      | none, (s, .wait w) => (s, .wait w)

def State.resolveRange (s : State) (a : As) (view : Option Nat) (va : DWord) (n : Nat) (k : AccKind) :
    State × Chk (List Place) := s.resolveAll a view k (pagesOf va n)

/-- The bytes of a resolved range. -/
def State.fetchAll (s : State) (view : Option Nat) (ps : List Place) : List Byte := ps.flatMap (s.fetchPlace view)

/-- Length of a place. -/
def Place.len : Place → Nat
  | .mem pas _ => pas.length
  | .conv _ _ n => n
  | .value bs => bs.length

/-- Write bytes over resolved places, at once. -/
def State.performAll (s : State) : List Place → List Byte → State
  | [], _ => s
  | p :: ps, bs => (s.performPlace p (bs.take p.len)).performAll ps (bs.drop p.len)

/-- Demand-read every line of resolved places (R405). -/
def State.demandAll (s : State) (ps : List Place) : State :=
  if s.arrayErr = [] then s else ps.foldl (fun s p => s.demandPlace p) s

/-- Some place holds poison. -/
def State.anyBad (s : State) (ps : List Place) : Bool := ps.any s.placeBad

/-- A store to the places would demand a line that cannot be written back (R53). -/
def State.blockedAll (s : State) (ps : List Place) : Option (Nat × Nat) :=
  ps.findSome? s.placeBlocked

/-- Aligned 8-byte increment of a barrier object by an agent that is no thread (R108, R248): performed, or why not. That of an engine of a
core observes the core's own writes to it, which are performed first (R96, R104). -/
def State.boAdvance (s : State) (core : Option Nat) (a : As) (va : DWord) (inc : Nat) : State × Chk Unit :=
  if (s.aperFind a va).isSome then (s, .trap (accTrap .access .atomic va))
  else match s.check a none va 8 .atomic with
    | (s, .trap i) => (s, .trap i)
    | (s, .wait w) => (s, .wait w)
    | (s, .ok p) =>
      match s.blockedAll [p] with
      | some (w, l) => (s.wbRequest w l, .wait (.writeBack w l))
      | none =>
      let s := (match core with | some c => s.settlePlace c p | none => s).demandPlace p
      let old := leNat (s.fetchPlace none p)
      let s := s.performPlace p (bytesOf 8 (BitVec.ofNat 64 (min (old + inc) 0xFFFFFFFFFFFFFFFF)))
      (s.noteAdvance p.first, .ok ())

/-! ### Ordered streams -/

/-- The next issue order: every accepted operation of classes 7 to 10 takes the next number. -/
def State.nextOrder (s : State) : Nat := s.ops.length + s.cmds.length + s.racc.length

/-- An outstanding operation of a workgroup's stream with an order below n, one that a switch-out holds among them (R110, R111). -/
def State.streamBusy (s : State) (wg k n : Nat) : Bool :=
  k != 0 &&
  (s.ops.any (fun o => (o.live || o.saved) && o.stream == k && o.order < n && s.wgOfCrew o.crew == wg) ||
   s.cmds.any (fun o => o.live && o.stream == k && o.order < n && s.wgOfCrew o.crew == wg) ||
   s.racc.any (fun o => (o.live || o.saved) && o.stream == k && o.order < n && s.wgOfCrew o.crew == wg))

/-- The stream has outstanding operations under another scope (R110). -/
def State.streamClash (s : State) (wg k : Nat) (sc : Scope) : Bool :=
  s.streamBusy wg k s.nextOrder && (match (s.wg wg).streams.get k with | some x => x.scope != sc | none => false)

/-- The first operation of a drained stream names its scope (R110). -/
def State.openStream (s : State) (wg k : Nat) (sc : Scope) : State :=
  if k = 0 || s.streamBusy wg k s.nextOrder then s
  else s.updWg wg fun g => { g with streams := g.streams.set k (some ⟨sc, true⟩) }

/-! ### Ranking (R77, R78) -/

/-- A distance as an ordered integer; −0.0 equals +0.0. -/
def distKey (flt : Bool) (d : Word) : Int :=
  if flt then (if d.msb then -(d.setWidth 31).toNat else (d.setWidth 31).toNat) else d.toInt

/-- A NaN distance. -/
def distNan (flt : Bool) (d : Word) : Bool := flt && 0x7F800000 < (d.setWidth 31).toNat

/-- (distance, id) ranks better. -/
def ranksBefore (flt : Bool) (a b : Word × Word) : Bool :=
  distKey flt a.1 < distKey flt b.1 || (distKey flt a.1 == distKey flt b.1 && a.2.toNat < b.2.toNat)

/-- Insert in rank order. -/
def rankInsert (flt : Bool) (x : Word × Word) : List (Word × Word) → List (Word × Word)
  | [] => [x]
  | y :: r => if ranksBefore flt x y then x :: y :: r else y :: rankInsert flt x r

/-- A candidate offered to a heap of k entries (R77). -/
def heapOffer (flt : Bool) (k : Nat) (heap : List (Word × Word)) (x : Word × Word) : List (Word × Word) :=
  if distNan flt x.1 then heap
  else match heap.find? (fun e => e.2 == x.2) with
    | some e => if distKey flt x.1 < distKey flt e.1 then rankInsert flt x (heap.filter (fun e => e.2 != x.2)) else heap
    | none => (rankInsert flt x heap).take k

/-- The result list of k entries, padded (R78), as bytes. -/
def heapBytes (flt : Bool) (k : Nat) (heap : List (Word × Word)) : List Byte :=
  let pad : Word × Word := (if flt then 0x7F800000 else 0x7FFFFFFF, 0xFFFFFFFF)
  ((heap ++ List.replicate (k - heap.length) pad).take k).flatMap fun e => bytesOf 4 e.1 ++ bytesOf 4 e.2

end Sys2Proof.Machine
end

