-- ==== Sys2Proof/Machine/Flags.lean ====
section
/-! DEFINITION. The flags of %status (R133) and the settings that decide them (R134). -/

namespace Sys2Proof.Machine

/-- The flags of a result are set in the executing thread's %status (R133). -/
def State.setFlags (s : State) (fl : BitVec 9) : State :=
  match s.cur with
  | .thread t => s.updThr t fun x => { x with status := x.status ||| fl }
  | _ => s

/-- NUMCFG.ftz of the executing thread's partition (R134). -/
def State.ftz (s : State) : Bool := (s.part s.curAs.part).ftz

/-- A float result of 32 bits: its flags are set and its pattern delivered (R133). -/
def fres (s : State) (r : FR) : Res := .v (s.setFlags r.fl) (BitVec.ofNat 32 r.pat)

/-- SWRITE of %status: a 0 clears a flag, a 1 leaves it; reserved bits ignore writes (R133, R206). -/
def statusWrite (old : BitVec 9) (x : DWord) : BitVec 9 := old &&& (x.setWidth 9 ||| ~~~0x11F)

end Sys2Proof.Machine
end

