-- ==== Sys2Proof/Machine/Integer.lean ====
section
/-! DEFINITION. Class 0: integer arithmetic (R198 to R200). -/

namespace Sys2Proof.Machine

/-- Attributes of a class 0 or 1 instruction of the walker profile. -/
def aLane : Attr := { walker := true }

/-- The shapes of R198 and R201: v from v; v from v and v/i; v from v, v/i and v; x from x and x/i; x from x and v/i. -/
def issV1 (h : Hdr) (a : Src) (s : State) (f : Word → Word) : Host.Outcome State Fault Refusal :=
  s.issueI ⟨aLane, h, [.v a], .v h.d⟩ fun s r => .v s (f (r.rv a))
def issV2 (h : Hdr) (a b : Src) (s : State) (f : Word → Word → Word) : Host.Outcome State Fault Refusal :=
  s.issueI ⟨aLane, h, [.v a, .vi b], .v h.d⟩ fun s r => .v s (f (r.rv a) (r.rv b))
def issV3 (h : Hdr) (a b c : Src) (s : State) (f : Word → Word → Word → Word) : Host.Outcome State Fault Refusal :=
  s.issueI ⟨aLane, h, [.v a, .vi b, .v c], .v h.d⟩ fun s r => .v s (f (r.rv a) (r.rv b) (r.rv c))
def issX2 (h : Hdr) (a b : Src) (s : State) (f : DWord → DWord → DWord) : Host.Outcome State Fault Refusal :=
  s.issueI ⟨aLane, h, [.x a, .xi b], .x h.d⟩ fun s r => .x s (f (r.rx a) (r.rx b))
def issX3 (h : Hdr) (a b c : Src) (s : State) (f : DWord → DWord → DWord → DWord) : Host.Outcome State Fault Refusal :=
  s.issueI ⟨aLane, h, [.x a, .xi b, .x c], .x h.d⟩ fun s r => .x s (f (r.rx a) (r.rx b) (r.rx c))
def issXS (h : Hdr) (a b : Src) (s : State) (f : DWord → Word → DWord) : Host.Outcome State Fault Refusal :=
  s.issueI ⟨aLane, h, [.x a, .vi b], .x h.d⟩ fun s r => .x s (f (r.rx a) (r.rv b))

/-- The high word of the product (IMULH, R198). -/
def mulHigh (u : Bool) (a b : Word) : Word :=
  if u then (zext64 a * zext64 b).extractLsb' 32 32 else (sext64 a * sext64 b).extractLsb' 32 32

/-- Quotient and remainder of R199. -/
def quotient (u : Bool) (a b : Word) : Word :=
  if b = 0 then 0xFFFFFFFF
  else if !u && a == 0x80000000 && b == 0xFFFFFFFF then 0x80000000
  else if u then BitVec.ofNat 32 (a.toNat / b.toNat)
  else BitVec.ofInt 32 (Int.tdiv a.toInt b.toInt)
def remainder (u : Bool) (a b : Word) : Word :=
  if b = 0 then a
  else if !u && a == 0x80000000 && b == 0xFFFFFFFF then 0
  else if u then BitVec.ofNat 32 (a.toNat % b.toNat)
  else BitVec.ofInt 32 (Int.tmod a.toInt b.toInt)

/-- Signed or unsigned order of words. -/
def wlt (u : Bool) (a b : Word) : Bool := if u then a.ult b else a.slt b

/-- The saturating forms (R198). -/
def satWord (u : Bool) (x : Int) : Word :=
  if u then BitVec.ofInt 32 (Sys2Proof.saturate x 0 (2 ^ 32 - 1)) else BitVec.ofInt 32 (Sys2Proof.saturate x (-2 ^ 31) (2 ^ 31 - 1))
def intOf (u : Bool) (a : Word) : Int := if u then (a.toNat : Int) else a.toInt

/-- Byte i of a word as INT8 or UINT8. -/
def byteInt (u : Bool) (a : Word) (i : Nat) : Int :=
  let b : Byte := a.extractLsb' (8 * i) 8
  if u then (b.toNat : Int) else b.toInt

/-- ISAD and IDOT4 (R198). -/
def sad (u : Bool) (a b : Word) : Word :=
  BitVec.ofInt 32 (((List.range 4).map fun i => ((byteInt u a i - byteInt u b i).natAbs : Int)).sum)
def dot4 (ua ub : Bool) (a b : Word) : Word :=
  BitVec.ofInt 32 (((List.range 4).map fun i => byteInt ua a i * byteInt ub b i).sum)

/-- IADD (R198). -/
def execIadd (h : Hdr) (a b : Src) (s : State) := issV2 h a b s (· + ·)
/-- ISUB (R198). -/
def execIsub (h : Hdr) (a b : Src) (s : State) := issV2 h a b s (· - ·)
/-- IMUL (R198). -/
def execImul (h : Hdr) (a b : Src) (s : State) := issV2 h a b s (· * ·)
/-- IMULH (R198). -/
def execImulh (h : Hdr) (a b : Src) (u : Bool) (s : State) := issV2 h a b s (mulHigh u)
/-- IMAD (R198). -/
def execImad (h : Hdr) (a b c : Src) (s : State) := issV3 h a b c s fun a b c => a * b + c
/-- IDIV (R199). -/
def execIdiv (h : Hdr) (a b : Src) (u : Bool) (s : State) := issV2 h a b s (quotient u)
/-- IREM (R199). -/
def execIrem (h : Hdr) (a b : Src) (u : Bool) (s : State) := issV2 h a b s (remainder u)
/-- IMIN (R198). -/
def execImin (h : Hdr) (a b : Src) (u : Bool) (s : State) := issV2 h a b s fun a b => if wlt u b a then b else a
/-- IMAX (R198). -/
def execImax (h : Hdr) (a b : Src) (u : Bool) (s : State) := issV2 h a b s fun a b => if wlt u a b then b else a
/-- IABS (R198). -/
def execIabs (h : Hdr) (a : Src) (s : State) := issV1 h a s fun a => if a.msb then -a else a
/-- INEG (R198). -/
def execIneg (h : Hdr) (a : Src) (s : State) := issV1 h a s (- ·)
/-- IADDSAT (R198). -/
def execIaddsat (h : Hdr) (a b : Src) (u : Bool) (s : State) := issV2 h a b s fun a b => satWord u (intOf u a + intOf u b)
/-- ISUBSAT (R198). -/
def execIsubsat (h : Hdr) (a b : Src) (u : Bool) (s : State) := issV2 h a b s fun a b => satWord u (intOf u a - intOf u b)
/-- ISAD (R198). -/
def execIsad (h : Hdr) (a b : Src) (u : Bool) (s : State) := issV2 h a b s (sad u)
/-- IDOT4 (R198). -/
def execIdot4 (h : Hdr) (a b : Src) (ua ub : Bool) (s : State) := issV2 h a b s (dot4 ua ub)
/-- IADD64 (R198). -/
def execIadd64 (h : Hdr) (a b : Src) (s : State) := issX2 h a b s (· + ·)
/-- ISUB64 (R198). -/
def execIsub64 (h : Hdr) (a b : Src) (s : State) := issX2 h a b s (· - ·)
/-- IMUL64 (R198). -/
def execImul64 (h : Hdr) (a b : Src) (s : State) := issX2 h a b s (· * ·)
/-- IMAD64 (R198). -/
def execImad64 (h : Hdr) (a b c : Src) (s : State) := issX3 h a b c s fun a b c => a * b + c
/-- LEA (R200). -/
def execLea (h : Hdr) (a b : Src) (sh : BitVec 3) (u : Bool) (disp : Option DWord) (s : State) :=
  issXS h a b s fun a b => a + ((if u then zext64 b else sext64 b) <<< sh.toNat) + disp.getD 0
/-- MOVI (R200). -/
def execMovi (h : Hdr) (x : DWord) (s : State) := s.issueI ⟨aLane, h, [], .v h.d⟩ fun s _ => .v s (x.setWidth 32)
/-- MOVI64 (R200). -/
def execMovi64 (h : Hdr) (x : DWord) (s : State) := s.issueI ⟨aLane, h, [], .x h.d⟩ fun s _ => .x s x

end Sys2Proof.Machine
end

