-- ==== Sys2Proof/Machine/LoadStore.lean ====
section
/-! DEFINITION. Class 5 without the stash map: loads, stores, LDS, STS, LDX, PREFETCH and CCTL (R232 to R239, R242). -/

namespace Sys2Proof.Machine

/-- Attributes of a possibly-faulting instruction of a core. -/
def aMem : Attr := { brk := true }

/-- Access size in bytes (R232). -/
def Width.bytes : Width → Nat
  | .b32 => 4 | .b64 => 8 | .u8 => 1 | .s8 => 1 | .u16 => 2 | .s16 => 2 | .b128 => 16

/-- The registers a load writes from the bytes read (R232). -/
def loadVals (w : Width) (bs : List Byte) : List Word :=
  let n := leNat bs
  match w with
  | .s8 => [(BitVec.ofNat 8 n).signExtend 32]
  | .s16 => [(BitVec.ofNat 16 n).signExtend 32]
  | .b64 => [BitVec.ofNat 32 n, BitVec.ofNat 32 (n / 2 ^ 32)]
  | .b128 => (List.range 4).map fun i => BitVec.ofNat 32 (n / 2 ^ (32 * i))
  | _ => [BitVec.ofNat 32 n]

/-- Destination of a load and data operand of a store by width (R232, R235). -/
def loadDst (w : Width) (d : BitVec 11) : Dst :=
  match w with | .b64 => .x d | .b128 => .q d | _ => .v d
def storeOpd (w : Width) (b : Src) : Opd :=
  match w with | .b64 => .x b | .b128 => .quad b | _ => .v b

/-- The bytes a store takes from its data operand (R235). -/
def Regs.storeBytes (r : Regs) (w : Width) (b : Src) : List Byte :=
  match w with
  | .b64 => bytesOf 8 (r.rx b)
  | .b128 => (List.range 4).flatMap fun i => bytesOf 4 (r.v.get (srcReg b + i))
  | _ => bytesOf (Width.bytes w) (r.rv b)

/-- Registers from d take values. -/
def Regs.setVals (r : Regs) (d : Nat) : List Word → Regs
  | [] => r
  | x :: xs => (r.setV d x).setVals (d + 1) xs

/-- EA of LD and LDA, and of ST and STREL (R235). -/
def loadEa (r : Regs) (a b : Src) (m : MemMod) : DWord := r.rx a + (r.rv b).signExtend 64 + m.ext.getD 0
def storeEa (r : Regs) (a : Src) (m : MemMod) : DWord := r.rx a + m.ext.getD 0

/-- Outstanding memory requests of a core (R16). -/
def State.requests (s : State) (core : Nat) : Nat :=
  (s.posted.filter (·.core == core)).length + ((s.loads.filter fun l => l.walker.isNone && s.coreOf l.thread == core).map (·.reqs)).sum +
    (s.racc.filter fun a => a.live && a.core == core).length

/-- The wait for the memory-request budget (R16): without room for n requests the instruction is held at issue. -/
def State.budgetFor (s : State) (n : Nat) (go : State → Res) : Res := if 2048 < s.requests (s.coreOf s.t) + n then .stall s else go s

/-- The same for the one request of most accesses. -/
def State.budget (s : State) (go : State → Res) : Res := s.budgetFor 1 go

/-- R233 for an access of the executing thread; a write waits for a line that another workgroup cannot write back (R53). -/
def State.access (s : State) (va : DWord) (n : Nat) (k : AccKind) (go : State → Place → Res) : Res :=
  match s.check s.curAs s.curView va n k with
  | (s, .trap i) => .trap s i
  | (s, .wait w) => .wait s w
  | (s, .ok p) =>
    s.unlessBlocked (if k.writes then s.placeBlocked p else none) fun s => go s p

/-- A load of the executing agent leaves its value in flight (R234); poison writes nothing and raises POISON when it returns. -/
def State.flight (s : State) (d : Nat) (vals : List Word) (poison : Option DWord) (reqs : Nat := 1) : State :=
  let w := match s.cur with | .walker w => some w | _ => none
  { s with loads := s.loads ++ [{ thread := s.t, walker := w, d := d, vals := vals, poison := poison, pc := s.curRegs.pc, reqs := reqs }] }

/-- The read of a load at a checked place. -/
def State.loadAt (s : State) (va : DWord) (d : Nat) (w : Width) (p : Place) : State :=
  let s := s.demandPlace p
  s.flight d (loadVals w (s.fetchPlace s.curView p)) (if s.placeBad p then some va else none)

/-- A walker's read of n bytes within one page stays on compute-capable pages of its stack, at package scope (R81, R118). -/
def State.walkerPlace (s : State) (va : DWord) (n : Nat) : State × Chk Place :=
  match s.resolve s.curAs none va n .load with
  | (s, .trap i) => (s, .trap i)
  | (s, .wait w) => (s, .wait w)
  | (s, .ok p) =>
    match s.peekLeaf s.curAs va with
    | some (e, pa) =>
      if e.getLsbD 9 && paStack pa == (s.wlk s.w).stack && (s.aperFind s.curAs va).isNone then (s, .ok p)
      else (s, .trap (accTrap .access .load va))
    | none => (s, .trap (accTrap .access .load va))

/-- LD is in the walker profile in its plain forms only (R192, R235). -/
def aLd (m : MemMod) : Attr :=
  { walker := m.scope == .core && m.hint == .none && m.width != .b128, brk := true }

/-- LD (R235). -/
def execLd (h : Hdr) (a b : Src) (m : MemMod) (s : State) :=
  s.issueI ⟨aLd m, h, [.x a, .vi b], loadDst m.width h.d⟩ fun s r =>
    let va := loadEa r a b m
    match s.cur with
    | .walker _ =>
      if va.toNat % Width.bytes m.width != 0 then .trap s (accTrap .misaligned .load va)
      else match s.walkerPlace va (Width.bytes m.width) with
      | (s, .ok p) =>
        let s := s.demandPlace p
        if s.placeBad p then .none (s.updCmd (s.wlk s.w).cmd fun c => { c with eccUe := true })
        else .none (s.flight h.d.toNat (loadVals m.width (s.fetchPlace none p)) none)
      | (s, .trap i) => .trap s i
      | (s, .wait w) => .wait s w
    | _ => s.budget fun s => s.access va (Width.bytes m.width) .load fun s p => .none (s.loadAt va h.d.toNat m.width p)
/-- LDA (R235): an acquire at its scope. -/
def execLda (h : Hdr) (a b : Src) (m : MemMod) (s : State) :=
  s.issueI ⟨aMem, h, [.x a, .vi b], loadDst m.width h.d⟩ fun s r =>
    let va := loadEa r a b m
    s.budget fun s => s.access va (Width.bytes m.width) .load fun s p => .none (s.loadAt va h.d.toNat m.width p)
/-- ST (R235, R236). -/
def execSt (h : Hdr) (a b : Src) (m : MemMod) (s : State) :=
  s.issueI ⟨aMem, h, [.x a, storeOpd m.width b], .none⟩ fun s r =>
    s.budget fun s => s.access (storeEa r a m) (Width.bytes m.width) .store fun s p =>
      .none (s.storePlace (s.coreOf s.t) p (r.storeBytes m.width b))
/-- STREL (R235): at package or domain scope it first waits under R122; the release of R99 comes before its own write. -/
def execStrel (h : Hdr) (a b : Src) (m : MemMod) (s : State) :=
  s.issueI ⟨aMem, h, [.x a, storeOpd m.width b], .none⟩ fun s r =>
    let go := fun (s : State) => s.budget fun s => s.access (storeEa r a m) (Width.bytes m.width) .store fun s p =>
      s.releaseThen (s.coreOf s.t) m.scope fun s => .none (s.storePlace (s.coreOf s.t) p (r.storeBytes m.width b))
    if scopeFar m.scope then s.awaitRemote go else go s

/-! ### Stash loads and stores (R239) -/

/-- A stash access of the executing thread. -/
def State.stashAcc (s : State) (off n : Nat) (write : Bool) (go : State → Res) : Res :=
  match s.stashCheck (s.wgOf s.t) off n write with
  | (s, .trap i) => .trap s i
  | (s, .wait w) => .wait s w
  | (s, .ok ()) => go s

/-- A read that found poison raises POISON at the next boundary and writes nothing (R234, R406). -/
def State.poisoned (s : State) (addr : DWord) (d : Nat) : State :=
  s.asyncTrap s.t { cause := .poison, addr := addr, aux := BitVec.ofNat 64 d } (s.thr s.t).r.pc

/-- LDS at a stash address (R239). -/
def ldsAt (off : Nat) (w : Width) (d : BitVec 11) (s : State) : Res :=
  s.stashAcc off (Width.bytes w) false fun s =>
    let g := s.wgOf s.t
    if s.stashBad g off (Width.bytes w) then .none (s.poisoned (BitVec.ofNat 64 off) d.toNat)
    else .none (s.updRegs fun r => r.setVals d.toNat (loadVals w (s.stashBytes g off (Width.bytes w))))

/-- STS at a stash address (R239). -/
def stsAt (off : Nat) (bs : List Byte) (s : State) : Res :=
  s.stashAcc off bs.length true fun s => .none (s.stashPut (s.wgOf s.t) off bs)

/-- The stash address of LDS and of STS (R239). -/
def ldsOff (r : Regs) (a b : Src) : Nat := (r.rv a + r.rv b).toNat
def stsOff (r : Regs) (b : Src) (w : Width) (off : BitVec 8) : Nat := (r.rv b).toNat + off.toNat * Width.bytes w

/-- LDS (R239). -/
def execLds (h : Hdr) (a b : Src) (w : Width) (s : State) :=
  s.issueI ⟨aMem, h, [.v a, .vi b], loadDst w h.d⟩ fun s r => ldsAt (ldsOff r a b) w h.d s
/-- STS (R239). -/
def execSts (h : Hdr) (a b : Src) (w : Width) (off : BitVec 8) (s : State) :=
  s.issueI ⟨aMem, h, [storeOpd w a, .vi b], .none⟩ fun s r => stsAt (stsOff r b w off) (r.storeBytes w a) s

/-! ### LDX, PREFETCH, CCTL -/

/-- The four BF16 values of LDX from element bytes and exponents (R237). -/
def ldxVals (bfp4 : Bool) (eb e0 e1 : Nat) : List Word :=
  let el := fun j => if bfp4 then eb / 16 ^ j % 16 else eb / 256 ^ j % 256
  let h := fun j => bfpTo bf16 bfp4 (el j) e0 e1
  [BitVec.ofNat 32 (h 1 * 65536 + h 0), BitVec.ofNat 32 (h 3 * 65536 + h 2)]

/-- LDX (R237): both reads are checked before either takes effect. Which address a misaligned one records: log 101. -/
def execLdx (h : Hdr) (a b : Src) (sn : BitVec 6) (bfp4 : Bool) (s : State) :=
  s.issueI ⟨aMem, h, [.x a, .vi b], .x h.d⟩ fun s r =>
    let i := (r.rv b).toNat
    let base := r.rx a
    let sb := (s.crew (s.crewOf s.t)).s.get sn.toNat
    let ea := base + BitVec.ofNat 64 (if bfp4 then i / 2 else i)
    let n := if bfp4 then 2 else 4
    let eb := sb + BitVec.ofNat 64 (2 * (i / 32))
    if i % 4 != 0 || sb.toNat % 2 != 0 then
      .trap s (accTrap .misaligned .load (if i % 4 != 0 then ea else eb))
    else s.budgetFor 2 fun s => s.access ea n .load fun s p => s.access eb 2 .load fun s q =>
      let s := (s.demandPlace p).demandPlace q
      let vals := ldxVals bfp4 (leNat (s.fetchPlace s.curView p)) ((s.fetchPlace s.curView q).headD 0).toNat
        (((s.fetchPlace s.curView q).drop 1).headD 0).toNat
      .none (s.flight h.d.toNat vals (if s.placeBad p then some ea else if s.placeBad q then some eb else none) 2)

/-- PREFETCH (R238): it changes no state that a program can read. -/
def execPrefetch (h : Hdr) (a b : Src) (_ : Bool) (_ : BitVec 4) (_ : Option DWord) (s : State) :=
  s.issueI ⟨{}, h, [.x a, .vi b], .none⟩ fun s _ => .none s

/-- How the core keeps the copy of a code line: by its frame, or through an aperture by its buffer (R63, R242). -/
def State.icodeKey (s : State) (va : DWord) : Option Nat :=
  match s.aperFind s.curAs va with
  | some i =>
    let x := (s.part s.curAs.part).apers.get i
    let o := va57 va - va57 x.va
    codeKey (if x.xf == 1 then .conv x o 128 else .mem [aperPa x o] true)
  | none => (s.peekLeaf s.curAs va).map (·.2)

/-- CCTL (R242): .il1 changes timing only; .icode discards the core's fetched copies of the lines. -/
def execCctl (h : Hdr) (a b : Src) (op : CctlOp) (s : State) :=
  s.issueI ⟨aMem, h, [.x a, .vi b], .none⟩ fun s r =>
    let n := (r.rv b).toNat
    let va := r.rx a
    if n < 1 || 4096 < n then .trap s { cause := .illegalOperand }
    else if !canonical va || (va.getLsbD 56 && !s.curAs.sup) then .trap s (accTrap .access .load va)
    else match op with
      | .il1 => .none s
      | .icode =>
        let base := pcLine va
        let keys := (List.range n).filterMap fun i => s.icodeKey (base + BitVec.ofNat 64 (128 * i))
        .none (s.updCore (s.coreOf s.t) fun c => { c with icache := c.icache.filter fun e => !keys.contains e.1 })

end Sys2Proof.Machine
end

