-- ==== Sys2Proof/Machine/Sync.lean ====
section
/-! DEFINITION. Class 6: atomics, fences and waits (R243 to R251). -/

namespace Sys2Proof.Machine

/-- A 64-bit type (R244). -/
def tyWide : AtomTy → Bool
  | .s64 => true
  | .u64 => true
  | _ => false
def tySigned : AtomTy → Bool
  | .s32 => true
  | .s64 => true
  | _ => false

/-- The new value of an atomic at its width (R244). -/
def atomNew {w : Nat} (op : AtomOp) (sgn : Bool) (old b : BitVec w) : BitVec w :=
  let lt := if sgn then old.slt b else old.ult b
  let gt := if sgn then b.slt old else b.ult old
  match op with
  | .add => old + b
  | .min => if gt then b else old
  | .max => if lt then b else old
  | .and => old &&& b
  | .or => old ||| b
  | .xor => old ^^^ b
  | .exch => b
  | .incWrap => if b.toNat ≤ old.toNat then 0 else old + 1
  | .decWrap => if old.toNat = 0 || b.toNat < old.toNat then b else old - 1
  | .fadd => BitVec.ofNat w (f32.add .rne false old.toNat b.toNat).pat
  | .fmin => BitVec.ofNat w (f32.minmax false false false old.toNat b.toNat).pat
  | .fmax => BitVec.ofNat w (f32.minmax true false false old.toNat b.toNat).pat

/-- The new value from 64-bit carriers. -/
def atomVal (op : AtomOp) (ty : AtomTy) (old b : DWord) : DWord :=
  if tyWide ty then atomNew op (tySigned ty) old b
  else zext64 (atomNew op (tySigned ty) (old.setWidth 32) (b.setWidth 32))

/-- Size of an atomic, its operand and destination forms by type (R243). -/
def atomBytes (wide : Bool) : Nat := if wide then 8 else 4
def atomOpd (wide : Bool) (b : Src) : Opd := if wide then .xi b else .vi b
def atomDst (wide : Bool) (d : BitVec 11) : Dst := if wide then .x d else .v d
def Regs.atomB (r : Regs) (wide : Bool) (b : Src) : DWord := if wide then r.rx b else zext64 (r.rv b)

/-- The words of a value by width. -/
def wordsOf (wide : Bool) (x : DWord) : List Word := if wide then [x.setWidth 32, x.extractLsb' 32 32] else [x.setWidth 32]

/-- The order asks for a release (R99). -/
def ordRel : Order → Bool
  | .rel => true
  | .acqrel => true
  | _ => false

/-- An atomic first waits as R122 says when it releases at package or domain scope, and then releases (R99). -/
def State.atomOrder (s : State) (o : Order) (sc : Scope) (go : State → Res) : Res :=
  if ordRel o && scopeFar sc then s.awaitRemote go else go s
def State.atomRelease (s : State) (o : Order) (sc : Scope) (go : State → Res) : Res :=
  if ordRel o then s.releaseThen (s.coreOf s.t) sc go else go s

/-- The read of an atomic at its place, after the core's own earlier writes there (R96). -/
def State.atomRead (s : State) (p : Place) : State × DWord :=
  let s := (s.settlePlace (s.coreOf s.t) p).demandPlace p
  (s, dwOf (s.fetchPlace none p))

/-- An atomic add to a barrier object advances it (R108, R417). -/
def State.noteAtom (s : State) (op : AtomOp) (p : Place) : State := if op == .add then s.noteAdvance p.first else s

/-- ATOM (R243, R244): poison performs nothing and raises POISON at the next boundary. -/
def execAtom (h : Hdr) (a b : Src) (m : AtomMod) (s : State) :=
  let wide := tyWide m.ty
  s.issueI ⟨aMem, h, [.x a, atomOpd wide b], atomDst wide h.d⟩ fun s r =>
    s.atomOrder m.order m.scope fun s => s.budget fun s =>
      s.access (r.rx a) (atomBytes wide) .atomic fun s p => s.atomRelease m.order m.scope fun s =>
        let (s, old) := s.atomRead p
        if s.placeBad p then .none (s.flight h.d.toNat (wordsOf wide 0) (some (r.rx a)))
        else .none (((s.performPlace p (bytesOf (atomBytes wide) (atomVal m.op m.ty old (r.atomB wide b)))).noteAtom m.op p).flight
          h.d.toNat (wordsOf wide old) none)

/-- The expected value of CAS: vd before the instruction (R244). -/
def Regs.acc (r : Regs) (wide : Bool) (d : BitVec 11) : DWord := if wide then r.x d.toNat else zext64 (r.v.get d.toNat)

/-- CAS (R243, R244): a CAS that fails is a read. -/
def execCas (h : Hdr) (a b : Src) (b64 : Bool) (order : Order) (scope : Scope) (s : State) :=
  s.issueI ⟨aMem, h, [.x a, atomOpd b64 b, .reg h.d.toNat (if b64 then 2 else 1)], atomDst b64 h.d⟩ fun s r =>
    s.atomOrder order scope fun s => s.budget fun s =>
      s.access (r.rx a) (atomBytes b64) .atomic fun s p => s.atomRelease order scope fun s =>
        let (s, old) := s.atomRead p
        if s.placeBad p then .none (s.flight h.d.toNat (wordsOf b64 0) (some (r.rx a)))
        else
          let s := if old == r.acc b64 h.d then s.performPlace p (bytesOf (atomBytes b64) (r.atomB b64 b)) else s
          .none (s.flight h.d.toNat (wordsOf b64 old) none)

/-- An add on a mapped line is one to the object there, which the die directory serves from the stash (R55, R417). -/
def State.noteStash (s : State) (w off : Nat) (op : AtomOp) : State :=
  match (s.wg w).lines.get (off / 64) with
  | some { pa := some pl, .. } => if op == .add then s.noteAdvance (64 * pl + off % 64) else s
  | _ => s

/-- SATOM (R243, R244): at core scope in the workgroup's stash. -/
def execSatom (h : Hdr) (a b : Src) (m : AtomMod) (s : State) :=
  let wide := tyWide m.ty
  let n := atomBytes wide
  s.issueI ⟨aMem, h, [.v a, atomOpd wide b], atomDst wide h.d⟩ fun s r =>
    let off := (r.rv a).toNat
    s.stashAcc off n true fun s =>
      let g := s.wgOf s.t
      if s.stashBad g off n then .none (s.poisoned (BitVec.ofNat 64 off) h.d.toNat)
      else
        let old := dwOf (s.stashBytes g off n)
        let s := s.stashPut g off (bytesOf n (atomVal m.op m.ty old (r.atomB wide b)))
        let s := s.noteStash g off m.op
        .none (s.updRegs fun q => q.setVals h.d.toNat (wordsOf wide old))

/-- RED (R243, R244): performed on the stored bytes, poisoned or not (R406). -/
def execRed (h : Hdr) (a b : Src) (m : AtomMod) (s : State) :=
  let wide := tyWide m.ty
  s.issueI ⟨aMem, h, [.x a, atomOpd wide b], .none⟩ fun s r =>
    s.atomOrder m.order m.scope fun s => s.budget fun s =>
      s.access (r.rx a) (atomBytes wide) .atomic fun s p => s.atomRelease m.order m.scope fun s =>
        let (s, old) := s.atomRead p
        .none ((s.performPlace p (bytesOf (atomBytes wide) (atomVal m.op m.ty old (r.atomB wide b)))).noteAtom m.op p)

/-- FENCE (R245): beyond core scope the core's writes are performed; .pkg and .dom first wait as R122 says. -/
def execFence (h : Hdr) (scope : Scope) (s : State) :=
  s.issueI ⟨{}, h, [], .none⟩ fun s _ =>
    let go := fun (s : State) => s.releaseStall (s.coreOf s.t) scope .none
    if scopeFar scope then s.awaitRemote go else go s

/-- OPWAIT (R246). -/
def execOpwait (h : Hdr) (a b : Src) (s : State) :=
  s.issueI ⟨aMem, h, [.vi a, .vi b], .none⟩ fun s r =>
    let cls := (r.rv a).toNat
    let n := (r.rv b).toNat
    if 5 ≤ cls || 4095 < n then .trap s { cause := .illegalOperand }
    else if s.counter (s.crewOf s.t) cls ≤ n then .none s
    else .wait s (.opwait cls n)

/-- The saturating sum of a barrier object's increment (R248). -/
def boSum (old inc : DWord) : DWord := BitVec.ofNat 64 (min (old.toNat + inc.toNat) 0xFFFFFFFFFFFFFFFF)

/-- BOADD (R248). -/
def execBoadd (h : Hdr) (a b : Src) (scope : Scope) (s : State) :=
  s.issueI ⟨aMem, h, [.x a, .xi b], .none⟩ fun s r =>
    s.atomOrder .rel scope fun s => s.budget fun s =>
      s.access (r.rx a) 8 .atomic fun s p => s.releaseThen (s.coreOf s.t) scope fun s =>
        let (s, old) := s.atomRead p
        .none ((s.performPlace p (bytesOf 8 (boSum old (r.rx b)))).noteAdvance p.first)

/-- One reading of a WAITGE: its traps (R233, R249, R390), else the value. -/
def State.waitRead (s : State) (a : As) (core : Nat) (ea : DWord) : State × Chk DWord :=
  match s.check a (some core) ea 8 .wait with
  | (s, .trap i) => (s, .trap i)
  | (s, .wait w) => (s, .wait w)
  | (s, .ok (.value _)) => (s, .trap (accTrap (s.residency a ea .pageDiscarded) .wait ea))
  | (s, .ok p) =>
    let s := s.demandPlace p
    if s.placeBad p then (s, .trap { cause := .poison, addr := ea })
    else (s, .ok (dwOf (s.fetchPlace (some core) p)))

/-- WAITGE (R249): the first reading at issue, then the thread waits. -/
def execWaitge (h : Hdr) (a b : Src) (scope : Scope) (dl : Bool) (n : BitVec 6) (s : State) :=
  s.issueI ⟨aMem, h, [.x a, .xi b], .p h.d⟩ fun s r =>
    let deadline := if dl then some ((s.crew (s.crewOf s.t)).s.get n.toNat) else none
    s.budget fun s => match s.waitRead s.curAs (s.coreOf s.t) (r.rx a) with
    | (s, .trap i) => .trap s i
    | (s, .wait w) => .wait s w
    | (s, .ok x) =>
      if (r.rx b).toNat ≤ x.toNat then .p s true
      else match deadline with
        | some d => if d.toNat ≤ s.cyc.toNat then .p s false else .wait s (.waitge (r.rx a) (r.rx b) deadline scope h.d)
        | none => .wait s (.waitge (r.rx a) (r.rx b) none scope h.d)

/-- The full time of a promise (R250): W in [CYC − 2^47, CYC + 2^47) with W[47:0] = when. -/
def promiseTime (cyc p : DWord) : DWord := cyc + ((p.setWidth 48 - cyc.setWidth 48 : BitVec 48)).signExtend 64

/-- The promised time has come (R251). -/
def promiseDue (cyc w : DWord) : Bool := !(cyc - w).msb

/-- The operation of a promise has left the counter (R250). -/
def State.promiseDone (s : State) (c : Nat) (p : DWord) : Bool := !s.outstanding c (bits p 61 3) (bits p 48 13)

/-- PWAIT (R250, R251). -/
def execPwait (h : Hdr) (a : Src) (exact : Bool) (s : State) :=
  s.issueI ⟨aMem, h, [.x a], .none⟩ fun s r =>
    let p := r.rx a
    let w := promiseTime s.cyc p
    let done := s.promiseDone (s.crewOf s.t) p
    if 5 ≤ bits p 61 3 then .trap s { cause := .illegalOperand }
    else if done && !exact then .none s
    else if promiseDue s.cyc w then
      (if done then .none s else .trap s { cause := .promiseMissed, addr := p })
    else .wait s (.pwait p w exact)

end Sys2Proof.Machine
end

