-- ==== Sys2Proof/Machine/Remote.lean ====
section
/-! DEFINITION. Class 7 at the requester and the requester's events of the remote path (R120 to R124, R252 to R260). -/

namespace Sys2Proof.Machine

/-- Access size of a remote access (R253). -/
def rkBytes : RKind → Nat
  | .rld w _ => Width.bytes w
  | .rst w _ => Width.bytes w
  | .ratom _ ty _ => atomBytes (tyWide ty)
  | .rcas ty _ => atomBytes (tyWide ty)
  | .rboadd => 8
  | .topk => 8

/-- The kind of access (R394). -/
def rkAcc : RKind → AccKind
  | .rld _ _ => .load
  | .rst _ _ => .store
  | .topk => .load
  | _ => .atomic

/-- The access is a release at domain scope (R253). -/
def rkRel : RKind → Bool
  | .rst _ rel => rel
  | .ratom _ _ o => ordRel o
  | .rcas _ o => ordRel o
  | .rboadd => true
  | _ => false

/-- The words an access's reply writes to its destination (R252, R253). -/
def rkVals (k : RKind) (old : DWord) : List Word :=
  match k with
  | .rld w _ => loadVals w (bytesOf 8 old)
  | .ratom _ ty _ => wordsOf (tyWide ty) old
  | .rcas ty _ => wordsOf (tyWide ty) old
  | _ => []

/-- Entries of a list in memory (R78). -/
def entriesOf : Nat → List Byte → List (Word × Word)
  | 0, _ => []
  | n + 1, bs => (BitVec.ofNat 32 (leNat (bs.take 4)), BitVec.ofNat 32 (leNat ((bs.drop 4).take 4))) :: entriesOf n (bs.drop 8)

/-- The list of a contribution is read when it is sent, so that the read observes every older operation of its stream (R111, R260). -/
def State.fetchList (s : State) (a : RAccess) (k : Contribution) : State × Chk Contribution :=
  if k.list != [] then (s, .ok k)
  else match s.resolveRange (s.asOf a.thread) (some a.core) a.va (8 * k.k) .load with
    | (s, .ok ps) =>
      let s := s.demandAll ps
      (s, .ok { k with list := entriesOf k.k (s.fetchAll (some a.core) ps) })
    | (s, .trap i) => (s, .trap i)
    | (s, .wait w) => (s, .wait w)

/-- An access leaves for its owner (R252, R260). A contribution whose list no longer reads ends, and its thread takes the cause (log 80). -/
def State.sendAcc (s : State) (i : Nat) : State :=
  match s.racc[i]? with
  | none => s
  | some a =>
    let go := fun (s : State) (m : FabMsg) => (s.send a.owner m).updAcc i fun x => { x with sent := true, sentAt := s.cyc.toNat }
    match a.contrib with
    | some k =>
      match s.fetchList a k with
      | (s, .ok k) => (go s (.contrib { k with replay := a.replay })).updAcc i fun x => { x with contrib := some k }
      | (s, .trap e) =>
        (((s.updAcc i fun x => { x with live := false, tkid := none }).countDone a.crew 4 a.seq).asyncTrap a.thread e a.pc).wake
      | (s, .wait _) => s
    | none => go s (.request { src := s.links.pkg, part := (s.launch (s.wg (s.wgOfCrew a.crew)).launch).part, core := a.core,
                               lane := a.lane, acc := i, kind := a.kind, va := a.va, data := a.data, expect := a.expect,
                               hold := a.hold, replay := a.replay })

/-- Two accesses of one thread to one 64-byte line at one owner (R254). -/
def RAccess.sameLine (a b : RAccess) : Bool :=
  a.thread == b.thread && a.owner == b.owner && a.va.toNat / 64 == b.va.toNat / 64 && a.kind != .topk && b.kind != .topk

/-- An access waits to be sent: behind older operations of its stream, behind an older access of its thread to its line that has not been
sent, or while its workgroup is saved (R96, R111, R112, R124, R254). -/
def State.sendHeld (s : State) (i : Nat) (a : RAccess) : Bool :=
  (s.wg (s.wgOfCrew a.crew)).stage == .saved || s.streamBusy (s.wgOfCrew a.crew) a.stream a.order ||
    (List.range i).any fun j => match s.racc[j]? with | some b => b.live && !b.sent && a.sameLine b | none => false

/-- Accesses that nothing holds back any more leave, in issue order (R111, R112, R254). -/
def State.pump (s : State) : State :=
  (List.range s.racc.length).foldl (fun s i =>
    match s.racc[i]? with
    | some a => if a.live && !a.sent && !s.sendHeld i a then s.sendAcc i else s
    | none => s) s

/-- The opcode and c field of an instruction word, as a replay record holds them (R256). -/
def wordBits (i : Instr) : BitVec 22 :=
  match encode i with
  | some (w, _) => w.extractLsb' 0 12 ++ w.extractLsb' 53 10
  | none => 0

/-- The partition's fabric permissions reach a package (R252, R398). -/
def State.fabReach (s : State) (p : Nat) (pkg : BitVec 11) : Bool :=
  ((s.part p).fabPerm.get (pkg.toNat / 64)).getLsbD (pkg.toNat % 64)

/-- The counter check of an issue that adds to a counter (R246): the instruction stalls at 4,095, or traps under satrap. -/
def State.counterRoom (s : State) (cls : Nat) (go : State → Res) : Res :=
  if s.counter (s.crewOf s.t) cls < 4095 then go s
  else if (s.part s.curAs.part).satrap then .trap s { cause := .counterSaturated }
  else .stall s

/-- Accesses that hold ticket-table entries of a core (R254). -/
def State.tableUsed (s : State) (core : Nat) : Nat := (s.racc.filter fun a => a.live && a.core == core).length

/-- An access enters the ticket table and leaves, or waits for its stream or its line (R111, R253, R254). -/
def State.enterAcc (s : State) (a : RAccess) : State :=
  let i := s.racc.length
  let s := { s.openStream (s.wgOfCrew a.crew) a.stream .dom with racc := s.racc ++ [a] }
  if s.sendHeld i a then s else s.sendAcc i

/-- A remote access of the executing thread, after its local check and waits (R120, R246, R254). -/
def remoteEnter (ins : Instr) (kind : RKind) (hold : Bool) (stream d : Nat) (owner : BitVec 11) (va data expect : DWord)
    (contrib : Option Contribution) (s : State) : Res :=
  let t := s.t
  let core := s.coreOf t
  if 64 ≤ s.tableUsed core then .stall s
  else s.releaseThen core (if rkRel kind then .dom else .core) fun s =>
    let c := s.crewOf t
    let order := s.nextOrder
    let (s, seq) := if hold then (s, 0) else s.count c 4
    let i := s.racc.length
    let s := s.enterAcc
      { core := core, crew := c, thread := t, lane := s.laneOf t, owner := owner, kind := kind, va := va, data := data,
        expect := expect, d := d, hold := hold, stream := stream, scopeRel := rkRel kind, seq := seq, tkid := none, head := false,
        replay := none, sent := false, pc := (s.thr t).r.pc, order := order, word := wordBits ins,
        behind := if owner == s.links.pkg then s.posted.filter (·.core == core) else [],
        contrib := contrib.map fun k => { k with acc := i, core := core, lane := s.laneOf t } }
    if hold then .wait s (.held i) else .none s

/-- The local check (R252) and the waits of R122, R16, R246 and R254, in order. -/
def remoteIssue (ins : Instr) (kind : RKind) (hold : Bool) (stream : BitVec 3) (d : BitVec 11) (a : Src)
    (data expect : DWord) (s : State) (r : Regs) : Res :=
  let n := srcReg a
  let va := r.x n
  let own := r.v.get (n + 2)
  let k := rkAcc kind
  let pkg : BitVec 11 := own.setWidth 11
  if own.toNat / 2048 != 0 then .trap s { cause := .illegalOperand }
  else if va.toNat % rkBytes kind != 0 then .trap s (accTrap .misaligned k va)
  else if !canonical va || (va.getLsbD 56 && !s.curAs.sup) || !s.fabReach s.curAs.part pkg then .trap s (accTrap .access k va)
  else
    let enter := remoteEnter ins kind hold stream.toNat d.toNat pkg va data expect none
    let room := fun (s : State) => s.budget fun s => if hold then enter s else s.counterRoom 4 enter
    if rkRel kind then s.awaitRemote room else room s

/-- RLD (R253). -/
def execRld (h : Hdr) (a : Src) (w : Width) (acq : Bool) (s : State) :=
  s.issueI ⟨aMem, h, [.rptr a], loadDst w h.d⟩ (remoteIssue (.rld h a w acq) (.rld w acq) true 0 h.d a 0 0)
/-- B of a remote store, zero-extended (R253, R256). -/
def Regs.wordB (r : Regs) (w : Width) (b : Src) : DWord := match w with | .b64 => r.rx b | _ => zext64 (r.rv b)

/-- RST (R253). -/
def execRst (h : Hdr) (a b : Src) (w : Width) (rel : Bool) (stream : BitVec 3) (s : State) :=
  s.issueI ⟨aMem, h, [.rptr a, storeOpd w b], .none⟩ fun s r =>
    remoteIssue (.rst h a b w rel stream) (.rst w rel) false stream 0 a (r.wordB w b) 0 s r
/-- RATOM (R253). -/
def execRatom (h : Hdr) (a b : Src) (op : AtomOp) (ty : AtomTy) (order : Order) (stream : BitVec 3) (post : Bool) (s : State) :=
  s.issueI ⟨aMem, h, [.rptr a, atomOpd (tyWide ty) b], if post then .none else atomDst (tyWide ty) h.d⟩ fun s r =>
    remoteIssue (.ratom h a b op ty order stream post) (.ratom op ty order) (!post) stream h.d a (r.atomB (tyWide ty) b) 0 s r
/-- RCAS (R253): the expected value is vd at issue. -/
def execRcas (h : Hdr) (a b : Src) (ty : AtomTy) (order : Order) (s : State) :=
  s.issueI ⟨aMem, h, [.rptr a, atomOpd (tyWide ty) b, .reg h.d.toNat (if tyWide ty then 2 else 1)], atomDst (tyWide ty) h.d⟩
    fun s r => remoteIssue (.rcas h a b ty order) (.rcas ty order) true 0 h.d a (r.atomB (tyWide ty) b) (r.acc (tyWide ty) h.d) s r
/-- RBOADD (R253). -/
def execRboadd (h : Hdr) (a b : Src) (stream : BitVec 3) (s : State) :=
  s.issueI ⟨aMem, h, [.rptr a, .xi b], .none⟩ fun s r =>
    remoteIssue (.rboadd h a b stream) .rboadd false stream 0 a (r.rx b) 0 s r
/-- TKWAIT (R258). -/
def execTkwait (h : Hdr) (s : State) := s.issueI ⟨aMem, h, [], .none⟩ fun s _ => s.awaitRemote .none

/-- TKQUERY's snapshot of a crew's tickets (R259). -/
def State.tickets259 (s : State) (c : Nat) : DWord :=
  let ts := s.racc.filter fun a => a.live && a.crew == c && a.tkid.isSome
  let hs := ts.filter (·.head)
  let old := hs.foldl (fun (x : Option RAccess) a => match x with | some b => if b.tkAt ≤ a.tkAt then some b else some a | none => some a) none
  let oldest := ((old.bind (·.tkid)).getD 0xFFFF).toNat
  BitVec.ofNat 64 (hs.length + oldest * 2 ^ 16 + (ts.length - hs.length) * 2 ^ 32)

/-- TKQUERY (R259). -/
def execTkquery (h : Hdr) (s : State) := s.issueI ⟨{}, h, [], .x h.d⟩ fun s _ => .x s (s.tickets259 (s.crewOf s.t))

/-- The fields of a reduction descriptor's bytes (R260); none where a field breaks its map. -/
def State.redDesc (s : State) (bs : List Byte) : Option Contribution :=
  let n := leNat bs
  let g := nbits n 0 16
  let cnt := nbits n 16 12
  let k := nbits n 28 9
  let out := nbits n 128 64
  let bo := nbits n 192 64
  if s.noGroups.contains g || cnt < 1 || 2048 < cnt || k < 1 || 256 < k || nbits n 38 26 != 0 || nbits n 107 21 != 0 ||
      out % 8 != 0 || bo % 8 != 0 || nbits n 320 192 != 0 then none
  else
    some { src := s.links.pkg, part := s.curAs.part, acc := 0, group := g, n := cnt, k := k, flt := nbits n 37 1 == 1,
           round := nbits n 64 32, root := BitVec.ofNat 11 (nbits n 96 11), out := BitVec.ofNat 64 out,
           bo := BitVec.ofNat 64 bo, inc := BitVec.ofNat 64 (nbits n 256 64), list := [] }

/-- TOPKRED (R111, R260): the descriptor and the list are checked as reads; the list is read when the contribution is sent. -/
def execTopkred (h : Hdr) (a b : Src) (stream : BitVec 3) (s : State) :=
  s.issueI ⟨aMem, h, [.x a, .x b], .none⟩ fun s r =>
    let da := r.rx b
    let la := r.rx a
    s.budget fun s => s.access da 64 .load fun s p =>
      let s := s.demandPlace p
      match s.redDesc (s.fetchPlace s.curView p) with
      | none => .trap s { cause := .illegalOperand }
      | some k =>
        if la.toNat % 8 != 0 then .trap s (accTrap .misaligned .load la)
        else match s.resolveRange s.curAs s.curView la (8 * k.k) .load with
          | (s, .trap i) => .trap s i
          | (s, .wait w) => .wait s w
          | (s, .ok _) => s.counterRoom 4 (remoteEnter (.topkred h a b stream) .topk false stream.toNat 0 k.root la da 0 (some k))

/-! ### Events at the requester -/

/-- A message of the own fabric, or one that waits at the ingress, is taken; another one from another package is at hand whenever its
event comes (R394). -/
def State.heard (s : State) (src : BitVec 11) (m : FabMsg) : Option State :=
  if s.fabric.contains m then some { s with fabric := s.fabric.erase m }
  else if src == s.links.pkg then none
  else some s

/-- The access with number i. -/
def State.acc (s : State) (i : Nat) : Option RAccess := s.racc[i]?

/-- A notice names the line of an access (R257). -/
def Noticed.names (n : Noticed) (a : RAccess) : Bool :=
  n.owner == a.owner && n.thread == a.thread && n.line == a.va.toNat / 64

/-- An access has been performed or aborted: its table entry and count leave, streams and waits go on (R105, R120, R254). -/
def State.finishAcc (s : State) (i : Nat) : State :=
  match s.acc i with
  | none => s
  | some a =>
    let s := s.updAcc i fun x => { x with live := false, tkid := none }
    let s := if a.hold then s else s.countDone a.crew 4 a.seq
    let s : State := { s with noticed := s.noticed.filter fun n => s.racc.any fun b => b.live && n.names b }
    s.pump.wake

/-- The held thread of an access goes on past its instruction. -/
def State.heldOn (s : State) (i : Nat) (a : RAccess) (vals : List Word) : State :=
  if (s.thr a.thread).st == .parkedRemote (.held i) then
    s.updThr a.thread fun x => { x with r := x.r.setVals a.d vals }.goOn s.cyc.toNat none
  else s

/-- The first switch has accepted a contribution (R260). -/
def State.accepted (s : State) (i : Nat) : State := s.updAcc i fun x => { x with acked := x.kind == .topk }

/-- REMOTE_REPLY (R252, R257): a held thread receives its value, or POISON at its instruction; a posted access leaves. -/
def execRemoteReply (acc : Nat) (out : ROutcome) (s : State) : Host.Outcome State Fault Refusal :=
  match s.acc acc with
  | none => .next s
  | some a =>
    if !(a.live && a.sent) then .next s
    else match s.heard a.owner (.reply acc out) with
      | none => .next s
      | some s =>
        match out with
        | .done old => .next (((s.accepted acc).heldOn acc a (rkVals a.kind old)).finishAcc acc)
        | .poison =>
          if a.hold && (s.thr a.thread).st == .parkedRemote (.held acc) then
            .next ((s.stopThread a.thread 0 { cause := .poison, addr := a.va, aux := BitVec.ofNat 64 a.d } a.pc a.pc).finishAcc acc)
          else .next (s.finishAcc acc)

/-- The live accesses recorded under (owner, id), in record order (R255). -/
def State.recorded (s : State) (owner : BitVec 11) (tkid : BitVec 16) : List Nat :=
  (List.range s.racc.length).filter fun i =>
    match s.racc[i]? with
    | some a => a.live && a.owner == owner && a.tkid == some tkid
    | none => false

/-- The notice for this id and line has come already: the access was ticketed behind records that were sent again (R395). -/
def State.lateUnder (s : State) (a : RAccess) (tkid : BitVec 16) : Bool := s.noticed.any fun n => n.tkid == tkid && n.names a

/-- TICKET_RECEIVED (R120, R255): the access becomes a replay record, the first under its id as head; one under an id whose
records were already sent again follows them at once (R257, R395). A record that a kill discarded, or that ended otherwise, is released. -/
def execTicketReceived (acc : Nat) (tkid : BitVec 16) (s : State) : Host.Outcome State Fault Refusal :=
  match s.acc acc with
  | none => .next s
  | some a =>
    if !a.sent then .next s
    else match s.heard a.owner (.ticket acc tkid) with
      | none => .next s
      | some s =>
        if !(a.live || a.acked) then .next (s.send a.owner (.release s.links.pkg acc))
        else if s.lateUnder a tkid then .next ((s.updAcc acc fun x => { x with live := true, acked := false, replay := some tkid }).sendAcc acc)
        else
          let head := (s.recorded a.owner tkid) == []
          .next { (s.updAcc acc fun x => { x with live := true, acked := false, tkid := some tkid, head := head, replay := none, tkAt := s.tkCount }) with
            tkCount := s.tkCount + 1 }

/-- REPLAY_NOTICE (R124, R257): the head record and its shadow are sent again in record order with the recorded data; those of a workgroup
that is switched out when it is restored. -/
def execReplayNotice (owner : BitVec 11) (tkid : BitVec 16) (s : State) : Host.Outcome State Fault Refusal :=
  match s.heard owner (.notice owner tkid) with
  | none => .next s
  | some s =>
    let is := s.recorded owner tkid
    let note := ((is.head?.bind s.acc).map fun a => (⟨owner, tkid, a.thread, a.va.toNat / 64⟩ : Noticed)).toList
    let f := fun (s : State) i => s.updAcc i fun x => { x with tkid := none, head := false, replay := some tkid, sent := false }
    .next (is.foldl f { s with noticed := s.noticed ++ note }).pump

/-- One access ends aborted, with a trap of its thread; of a record that is saved the abort is kept (R123, R124). -/
def State.abortAcc (s : State) (i : Nat) (tkid : BitVec 16) : State :=
  match s.acc i with
  | some b =>
    if b.live || b.acked then
      let info : TrapInfo :=
        { cause := .ticketAbort, addr := b.va, aux := BitVec.ofNat 64 (tkid.toNat + b.owner.toNat * 65536) }
      ((s.heldOn i b []).asyncTrap b.thread info b.pc |>.updAcc i fun x => { x with acked := false }).finishAcc i
    else if b.saved then s.updAcc i fun x => { x with aborted := true }
    else s
  | none => s

/-- The records under (owner, id), those sent again and those that a switch-out saved among them. -/
def State.underId (s : State) (owner : BitVec 11) (tkid : BitVec 16) : List Nat :=
  (List.range s.racc.length).filter fun i =>
    match s.racc[i]? with
    | some a => (a.live || a.saved) && a.owner == owner && (a.tkid == some tkid || a.replay == some tkid)
    | none => false

/-- TICKET_ABORT (R123): every access under the id ends, each with a trap of its thread, and the owner is told (R395). -/
def execTicketAbort (acc : Nat) (tkid : BitVec 16) (s : State) : Host.Outcome State Fault Refusal :=
  match s.acc acc with
  | none => .next s
  | some a =>
    match s.heard a.owner (.abort acc tkid) with
    | none => .next s
    | some s =>
      let ids := if tkid == 0xFFFF then [acc]
        else (List.range s.racc.length).filter fun i => i == acc || (s.underId a.owner tkid).contains i
      let s := ids.foldl (fun s i => s.abortAcc i tkid) s
      .next (if tkid == 0xFFFF then s else s.send a.owner (.ack tkid))

end Sys2Proof.Machine
end

