-- ==== Sys2Proof/Machine/Engine.lean ====
section
/-! DEFINITION. Engine operations of class 9: operands (R293, R298 to R309), the check at issue (R294), acceptance (R292,
R296), and their run piece by piece (R295, R301 to R308). -/

namespace Sys2Proof.Machine

/-- The operand values of a class 9 operation (R298 to R309). -/
structure EngPar where
  dst     : DWord := 0
  src     : DWord := 0
  bo      : Option DWord := none
  inc     : Nat := 1
  n       : Nat := 0
  rows    : Nat := 1
  cols    : Nat := 0
  srows   : Nat := 0
  scols   : Nat := 0
  orow    : Int := 0
  ocol    : Int := 0
  sstride : Nat := 0
  dstride : Nat := 0
  pad     : Nat := 0
  es      : Nat := 1
  mcast   : Bool := false
  imode   : Bool := false
  shift   : Nat := 0
  base    : DWord := 0
  table   : Nat := 0
  ds      : Bool := false
  ss      : Bool := false
  bad     : Bool := false
  deriving DecidableEq, Repr

/-- The modifiers of a class 9 operation. -/
def engMod : Instr → EngMod
  | .copy _ _ _ m => m
  | .copyt _ _ _ m => m
  | .cbcopy _ _ _ m => m
  | .cdec _ _ _ m => m
  | .gather _ _ _ m => m
  | .scatter _ _ _ m => m
  | .zfill _ _ _ m => m
  | _ => ⟨0, .core, false, false, false, false, false⟩

/-- Two's complement value of n bits. -/
def signedOf (n x : Nat) : Int := if 2 ^ (n - 1) ≤ x then (x : Int) - 2 ^ n else x

/-- Two byte ranges meet. -/
def rangesMeet (a n b m : Nat) : Bool := a < b + m && b < a + n

/-- Rows, or columns, of a tile that lie inside the source's extent (R301): the first and one past the last. -/
def insideRange (o : Int) (t ext : Nat) : Nat × Nat :=
  let lo := (max 0 (-o)).toNat
  let hi := min t ((ext : Int) - o).toNat
  (lo, hi)

/-- The source span of a COPYT: lowest address and length; none where no element lies inside. -/
def EngPar.srcSpan (p : EngPar) : Option (Nat × Nat) :=
  let (i0, i1) := insideRange p.orow p.rows p.srows
  let (j0, j1) := insideRange p.ocol p.cols p.scols
  if i1 ≤ i0 || j1 ≤ j0 then none
  else
    let r0 := (p.orow + i0).toNat
    let r1 := (p.orow + i1 - 1).toNat
    let c0 := (p.ocol + j0).toNat
    let c1 := (p.ocol + j1).toNat
    some (p.src.toNat + r0 * p.sstride + c0 * p.es, (r1 - r0) * p.sstride + (c1 - c0) * p.es)

/-- The destination span of a COPYT. -/
def EngPar.dstSpan (p : EngPar) : Nat := (p.rows - 1) * p.dstride + p.cols * p.es

/-- The limits of COPYT (R299, R300). -/
def EngPar.tileBad (p : EngPar) : Bool :=
  p.rows == 0 || p.cols == 0 || (1 < p.rows && p.dstride < p.cols * p.es) || 2 ^ 26 < p.rows * p.cols * p.es ||
  (p.mcast && !p.ds) ||
  (p.ds == p.ss && (match p.srcSpan with
    | some (a, n) => rangesMeet p.dst.toNat p.dstSpan a n
    | none => false))

/-- A stash operand's upper half is zero (R293). -/
def hiBad (stash : Bool) (x : DWord) : Bool := stash && 2 ^ 32 ≤ x.toNat

/-- The operand values in the raw words: the two register quads, or the parameter block (R293, R300). -/
def engPar (i : Instr) (raw : Nat) : EngPar :=
  let m := engMod i
  let f := fun lo n => nbits raw lo n
  let dw := fun lo => BitVec.ofNat 64 (nbits raw lo 64)
  let count := f 128 32
  let aux := f 160 32
  let bo := if m.bo then some (dw (if m.pb then 128 else 192)) else none
  let b : EngPar := { dst := dw 0, src := dw 64, bo := bo, inc := if m.pb then f 192 32 else 1, ds := m.x8, ss := m.x9 }
  match i with
  | .copy _ _ _ _ =>
    { b with n := count,
             bad := count % 4 != 0 || count < 4 || 2 ^ 26 < count || hiBad b.ds b.dst || hiBad b.ss b.src ||
               (b.ds == b.ss && rangesMeet b.dst.toNat count b.src.toNat count) }
  | .copyt _ _ _ _ =>
    if m.pb then
      let es := 2 ^ f 416 2
      let p : EngPar := { b with rows := f 224 16, cols := f 240 16, srows := f 256 16, scols := f 272 16, es := es }
      let p : EngPar := { p with orow := signedOf 16 (f 288 16), ocol := signedOf 16 (f 304 16), sstride := f 320 32 }
      let p : EngPar := { p with dstride := f 352 32, pad := f 384 32, mcast := f 418 1 == 1 }
      { p with bad := p.tileBad || f 416 2 == 3 || f 419 93 != 0 || p.sstride % es != 0 || p.dstride % es != 0 ||
                 hiBad b.ds b.dst || hiBad b.ss b.src }
    else
      let rows := count / 65536
      let cols := count % 65536
      let p : EngPar := { b with rows := rows, cols := cols, srows := rows, scols := cols, es := 4 }
      let p : EngPar := { p with sstride := aux % 65536 * 4, dstride := aux / 65536 * 4 }
      { p with bad := p.tileBad || hiBad b.ds b.dst || hiBad b.ss b.src }
  | .cbcopy _ _ _ _ =>
    let es := 2 ^ nbits aux 4 2
    { b with n := count, table := aux % 4, es := es,
             bad := count < 1 || 2 ^ 24 < count || nbits aux 4 2 == 3 || nbits aux 2 2 != 0 || nbits aux 6 26 != 0 ||
               count * es % 4 != 0 || hiBad b.ds b.dst || hiBad b.ss b.src ||
               (b.ds == b.ss && rangesMeet b.dst.toNat (count * es) b.src.toNat count) }
  | .gather _ _ _ _ | .scatter _ _ _ _ =>
    let code := if m.pb then f 320 2 else aux % 4
    let n := if m.pb then f 224 32 else count
    { b with n := n, es := [4, 8, 16, 64].getD code 4, imode := m.pb && f 322 1 == 1, shift := if m.pb then f 323 3 else 0,
             base := if m.pb then dw 256 else 0,
             bad := n < 1 || 65536 < n || (if m.pb then f 326 186 != 0 else aux / 4 != 0) || hiBad b.ds b.dst || hiBad b.ss b.src }
  | .zfill _ _ _ _ => { b with n := count, bad := count % 4 != 0 || count < 4 || 2 ^ 26 < count || hiBad b.ds b.dst }
  | .cdec _ _ _ _ => { b with n := count, bad := hiBad b.ds b.dst }
  | _ => b

/-- Length of an index list (R307). -/
def EngPar.listLen (p : EngPar) : Nat := p.n * (if p.imode then 4 else 8)

/-- The ranges of an operation: in the stash or not, address, length, written. CDEC's destination has N bytes (R305). -/
def engRanges (i : Instr) (p : EngPar) (cdecN : Nat) : List (Bool × DWord × Nat × Bool) :=
  match i with
  | .copy _ _ _ _ => [(p.ss, p.src, p.n, false), (p.ds, p.dst, p.n, true)]
  | .copyt _ _ _ _ =>
    let (i0, i1) := insideRange p.orow p.rows p.srows
    let (j0, j1) := insideRange p.ocol p.cols p.scols
    (if j1 ≤ j0 then [] else (List.range (i1 - i0)).map fun k =>
      (p.ss, BitVec.ofNat 64 (p.src.toNat + (p.orow + (i0 + k : Nat)).toNat * p.sstride + (p.ocol + j0).toNat * p.es),
        (j1 - j0) * p.es, false)) ++
    (List.range p.rows).map fun k => (p.ds, BitVec.ofNat 64 (p.dst.toNat + k * p.dstride), p.cols * p.es, true)
  | .cbcopy _ _ _ _ => [(p.ss, p.src, p.n, false), (p.ds, p.dst, p.n * p.es, true)]
  | .cdec _ _ _ _ => [(p.ds, p.dst, cdecN, true)]
  | .gather _ _ _ _ => [(p.ss, p.src, p.listLen, false), (p.ds, p.dst, p.n * p.es, true)]
  | .scatter _ _ _ _ => [(p.ss, p.src, p.listLen, false), (p.ds, p.dst, p.n * p.es, false)]
  | .zfill _ _ _ _ => [(p.ds, p.dst, p.n, true)]
  | _ => []

/-- Step 4 of R294: a misaligned address, with the access kind it has. -/
def engMisaligned (i : Instr) (p : EngPar) : Option (DWord × Nat) :=
  let bad := fun (a : DWord) (n : Nat) (w : Bool) (stash : Bool) =>
    if a.toNat % n != 0 then some (a, if stash then 6 else if w then 5 else 4) else none
  let main := match i with
    | .copy _ _ _ _ => [bad p.src 4 false p.ss, bad p.dst 4 true p.ds]
    | .copyt _ _ _ _ => [bad p.src p.es false p.ss, bad p.dst p.es true p.ds]
    | .cbcopy _ _ _ _ => [bad p.dst 4 true p.ds]
    | .cdec _ _ _ _ => [bad p.dst 64 true p.ds]
    | .gather _ _ _ _ => [bad p.src (if p.imode then 4 else 8) false p.ss, bad p.dst p.es true p.ds]
    | .scatter _ _ _ _ => [bad p.src (if p.imode then 4 else 8) false p.ss, bad p.dst p.es false p.ds]
    | .zfill _ _ _ _ => [bad p.dst 4 true p.ds]
    | _ => []
  let b := match p.bo with | some a => if a.toNat % 8 != 0 then some (a, 2) else none | none => none
  (main ++ [b]).findSome? id

/-! ### The check at issue -/

/-- Step 3 of R294: stash ranges within the stash size, and no destination in a read-only range. -/
def State.engStash (s : State) (w : Nat) (rs : List (Bool × DWord × Nat × Bool)) : Option TrapInfo :=
  let acc := fun (a : DWord) => some ({ cause := .access, detail := 6, addr := a } : TrapInfo)
  (rs.findSome? fun (st, a, n, _) => if st && s.stashSize w < a.toNat + n then acc a else none) <|>
  (rs.findSome? fun (st, a, n, wr) =>
    if st && wr && (stashLines a.toNat n).any (fun l => match (s.wg w).entryOf l with | some e => e.ro | none => false)
    then acc a else none)

/-- Step 5 of R294 for the global ranges in order. -/
def State.engPages (s : State) : List (Bool × DWord × Nat × Bool) → State × Chk Unit
  | [] => (s, .ok ())
  | (st, a, n, wr) :: r =>
    if st then s.engPages r
    else match s.resolveRange s.curAs s.curView a n (if wr then .engWrite else .engRead) with
      | (s, .trap i) => (s, .trap i)
      | (s, .wait w) => (s, .wait w)
      | (s, .ok _) => s.engPages r

/-- The barrier object's check: an atomic outside every aperture (R64, R294). -/
def State.engBo (s : State) (bo : Option DWord) : State × Chk Unit :=
  match bo with
  | none => (s, .ok ())
  | some a =>
    if canonical a && (!a.getLsbD 56 || s.curAs.sup) && (s.aperFind s.curAs a).isSome then (s, .trap (accTrap .access .atomic a))
    else match s.resolve s.curAs s.curView a 8 .atomic with
      | (s, .trap i) => (s, .trap i)
      | (s, .wait w) => (s, .wait w)
      | (s, .ok _) => (s, .ok ())

/-- A parameter or command block in the stash (R294, step 1): its bytes as a number. -/
def State.stashBlock (s : State) (off : Nat) : Except TrapInfo Nat :=
  let w := s.wgOf s.t
  if s.stashSize w < off + 64 then .error { cause := .access, detail := 6, addr := BitVec.ofNat 64 off }
  else if off % 64 != 0 || ((s.wg w).entryOf (off / 64)).isSome then .error { cause := .illegalOperand }
  else .ok (leNat (s.stashBytes w off 64))

/-- n registers as a number. -/
def Regs.regsNat (r : Regs) (n : Nat) : Nat → Nat
  | 0 => 0
  | k + 1 => (r.v.get n).toNat + 2 ^ 32 * r.regsNat (n + 1) k

/-- Tile shape's scope (R103): the narrowest whose instance holds the whole tile. -/
def tileScope (l : Launch) : Nat :=
  if l.steal || (l.ta = 0 && l.tb = 0) then 0 else if l.ta ≤ 1 && l.tb ≤ 1 then 1 else if l.ta ≤ 4 && l.tb ≤ 3 then 2 else 3

def scopeNo : Scope → Nat
  | .core => 0 | .clus => 1 | .die => 2 | .pkg => 3 | .dom => 4

/-- Lines of 64 bytes that consecutive ranges touch, each counted once (R296). -/
def lineCount : Nat → List (Nat × Nat) → Nat
  | _, [] => 0
  | last, (a, n) :: r =>
    if n = 0 then lineCount last r
    else
      let lo := max (a / 64 + 1) (last + 1)
      let hi := (a + n - 1) / 64 + 1
      (hi + 1 - lo) + lineCount (max last hi) r

/-- Units of an operation's W (R296): under multicast, the lines that each member with threads left will receive (R302). -/
def State.engUnits (s : State) (i : Instr) (p : EngPar) (cdecN : Nat) : Nat :=
  match i with
  | .gather _ _ _ _ => p.n
  | .scatter _ _ _ _ => p.n
  | _ =>
    let dst := (engRanges i p cdecN).filterMap fun (_, a, n, w) => if w then some (a.toNat, n) else none
    if p.mcast then
      let w := s.wgOf s.t
      let ls := (List.range (s.stashSize w / 64)).filter fun l => dst.any fun e => rangesMeet e.1 e.2 (64 * l) 64
      (((s.tileWgs w).filter fun m => !s.wgDone m).map fun m => (ls.filter fun l => ((s.wg m).entryOf l).isNone).length).sum +
        (s.tileSize w - (s.tileWgs w).length) * ls.length
    else lineCount 0 dst

/-- Operations of the issue, from this thread's on (log 20): the threads of this crew whose guard is true and whose checks pass, those that `ck`
ends by `.stay` (R292). -/
def State.issueOps (s : State) (h : Hdr) (ops : List Opd) (ck : State → Regs → Res) : Nat :=
  1 + (s.issue.agents.filter fun
    | .thread u =>
      let r := (s.thr u).r
      s.crewOf u == s.crewOf s.t && r.guard h && !latchBad r ops &&
        (match ck { s with cur := .thread u } r with | .stay _ => true | _ => false)
    | _ => false).length

/-- The issue that finds no room for all its operations accepts none of them: its later threads stall or trap as well (R292). -/
def State.issueFull (s : State) : State := { s with issue := { s.issue with full := s.crewOf s.t :: s.issue.full } }

/-- The counter room of an issue of n engine operations (R292). -/
def State.engRoom (s : State) (n cls : Nat) (go : State → Res) : Res :=
  if s.counter (s.crewOf s.t) cls + n ≤ 4095 && !s.issue.full.contains (s.crewOf s.t) then go s
  else if (s.part s.curAs.part).satrap then .trap s.issueFull { cause := .counterSaturated }
  else .stall s.issueFull

/-- Operations in an engine's queue (R292, R310). -/
def State.engQueue (s : State) (core engine : Nat) : Nat :=
  (s.ops.filter fun o => o.live && o.core == core && o.engine == engine).length

/-- The core whose engine takes a workgroup's next operation of a stream: the one that took the stream's outstanding operations over, else
the issuing core (R44; log 78). -/
def State.engHome (s : State) (wg core engine stream : Nat) : Nat :=
  match s.ops.find? fun o => o.live && o.engine == engine && stream != 0 && o.stream == stream && s.wgOfCrew o.crew == wg with
  | some o => o.core
  | none => core

/-- The promise of an operation (R250, R296). -/
def promiseOf (w : DWord) (cls seq : Nat) : DWord :=
  BitVec.ofNat 64 (w.toNat % 2 ^ 48 + seq % 8192 * 2 ^ 48 + cls * 2 ^ 61)

/-- An operation is accepted: counted, queued, given its W (R292, R296). -/
def State.accept (s : State) (i : Instr) (engine cls stream : Nat) (scope : Scope) (bo : Option DWord) (inc units : Nat)
    (args : List Nat) : State × EngOp :=
  let t := s.t
  let c := s.crewOf t
  let core := s.coreOf t
  let prev := if engine = 1 then (s.core core).gathW else (s.core core).copyW
  let w := BitVec.ofNat 64 (max s.cyc.toNat prev.toNat + 768 + units)
  let order := s.nextOrder
  let (s, seq) := s.count c cls
  let op : EngOp :=
    { engine := engine, core := s.engHome (s.wgOfCrew c) core engine stream, icore := core, crew := c, thread := t, pc := (s.thr t).r.pc, instr := i, args := args,
      cls := cls, seq := seq, stream := stream, scope := scope, bo := bo, inc := inc, w := w, phase := .queued, prog := 0,
      order := order }
  let s := s.openStream (s.wgOfCrew c) stream scope
  let s := { s with ops := s.ops ++ [op] }
  (s.updCore core fun x => if engine = 1 then { x with gathW := w } else if engine = 0 then { x with copyW := w } else x, op)

/-- The engine of an operation: the gather engine's for GATHER and SCATTER, else the copy unit's (R292). -/
def engOf : Instr → Nat
  | .gather _ _ _ _ => 1
  | .scatter _ _ _ _ => 1
  | _ => 0

/-- An operation as its checks leave it: parameters, operand values, the coded entry and its N. -/
structure EngChk where
  p     : EngPar
  raw   : Nat
  extra : List Nat := []
  n     : Nat := 0
  deriving DecidableEq, Repr

/-- Steps 3 to 5 of R294. -/
def engPass (i : Instr) (c : EngChk) (s : State) (go : State → Res) : Res :=
  let rs := engRanges i c.p c.n
  match s.engStash (s.wgOf s.t) rs with
  | some x => .trap s x
  | none =>
    match engMisaligned i c.p with
    | some (a, k) => .trap s { cause := .misaligned, detail := k, addr := a }
    | none =>
      match s.engPages rs with
      | (s, .trap x) => .trap s x
      | (s, .wait w) => .wait s w
      | (s, .ok ()) =>
        match s.engBo c.p.bo with
        | (s, .trap x) => .trap s x
        | (s, .wait w) => .wait s w
        | (s, .ok ()) => go s

/-- Step 2 of R294: CDEC's entry, read as a load and kept (R305). -/
def engEntry (i : Instr) (c : EngChk) (s : State) (go : EngChk → State → Res) : Res :=
  if c.p.src.toNat % 16 != 0 then .trap s { cause := .misaligned, addr := c.p.src }
  else
    let ea := c.p.src + BitVec.ofNat 64 (16 * c.p.n)
    match s.resolve s.curAs s.curView ea 16 .load with
    | (s, .trap x) => .trap s x
    | (s, .wait w) => .wait s w
    | (s, .ok pl) =>
      let s := s.demandPlace pl
      if s.placeBad pl then .none (s.asyncTrap s.t { cause := .poison, addr := ea } (s.thr s.t).r.pc)
      else
        let n := leNat (s.fetchPlace s.curView pl)
        let e := entryOfNat n
        if e.bad false then .trap s { cause := .streamMalformed, detail := 2, addr := c.p.src, aux := BitVec.ofNat 64 c.p.n }
        else
          let c := { c with extra := [n], n := e.n }
          engPass i c s (go c)

/-- The checks of a class 9 operation in order (R294). That the scope clash of R110 stands with the field values of step 1 is the model's choice
(log 95). -/
def engCheck (i : Instr) (a b : Src) (s : State) (r : Regs) (go : EngChk → State → Res) : Res :=
  let m := engMod i
  let raw := if m.pb then s.stashBlock (r.rv a).toNat
    else .ok (r.regsNat (srcReg a) 4 + 2 ^ 128 * r.regsNat (srcReg b) 4)
  match raw with
  | .error c => .trap s c
  | .ok raw =>
    let p := engPar i raw
    let w := s.wgOf s.t
    if p.bad || (p.mcast && scopeNo m.scope < tileScope (s.launch (s.wg w).launch)) || s.streamClash w m.stream.toNat m.scope then
      .trap s { cause := .illegalOperand }
    else match i with
      | .cdec _ _ _ _ => engEntry i { p := p, raw := raw } s go
      | _ => engPass i { p := p, raw := raw } s (go { p := p, raw := raw })

/-- The sources of a class 9 operation (R293). -/
def engOpds (i : Instr) (a b : Src) : List Opd := if (engMod i).pb then [.vi a] else [.quad a, .quad b]

/-- The operations of a class 9 issue, from this thread's on (R292). -/
def State.engOps (s : State) (i : Instr) (h : Hdr) (a b : Src) : Nat :=
  s.issueOps h (engOpds i a b) fun s r => engCheck i a b s r fun _ s => .stay s

/-- A class 9 operation's own part: its checks (R294), the waits for room, then its acceptance (R292). A queue with fewer free places than the issue has operations takes
the lower lanes' and stalls the others, the model's choice (log 20). -/
def engBody (i : Instr) (h : Hdr) (a b : Src) (s : State) (r : Regs) : Res :=
  let n := s.engOps i h a b
  engCheck i a b s r fun c s => s.engRoom n (engOf i) fun s =>
    let m := engMod i
    if 64 ≤ s.engQueue (s.engHome (s.wgOf s.t) (s.coreOf s.t) (engOf i) m.stream.toNat) (engOf i) then .stall s
    else
      let (s, op) := s.accept i (engOf i) (engOf i) m.stream.toNat m.scope c.p.bo c.p.inc (s.engUnits i c.p c.n) (c.raw :: c.extra)
      if m.prom then .x s (promiseOf op.w op.cls op.seq) else .none s

/-- The issue of a class 9 operation. -/
def issEng (i : Instr) (h : Hdr) (a b : Src) (m : EngMod) (s : State) : Host.Outcome State Fault Refusal :=
  s.issueI ⟨aMem, h, engOpds i a b, if m.prom then .x h.d else .none⟩ (engBody i h a b)

/-- COPY (R298). -/
def execCopy (h : Hdr) (a b : Src) (m : EngMod) (s : State) := issEng (.copy h a b m) h a b m s
/-- COPYT (R299 to R302). -/
def execCopyt (h : Hdr) (a b : Src) (m : EngMod) (s : State) := issEng (.copyt h a b m) h a b m s
/-- CBCOPY (R304). -/
def execCbcopy (h : Hdr) (a b : Src) (m : EngMod) (s : State) := issEng (.cbcopy h a b m) h a b m s
/-- CDEC (R305, R306). -/
def execCdec (h : Hdr) (a b : Src) (m : EngMod) (s : State) := issEng (.cdec h a b m) h a b m s
/-- GATHER (R307, R308). -/
def execGather (h : Hdr) (a b : Src) (m : EngMod) (s : State) := issEng (.gather h a b m) h a b m s
/-- SCATTER (R307, R308). -/
def execScatter (h : Hdr) (a b : Src) (m : EngMod) (s : State) := issEng (.scatter h a b m) h a b m s
/-- ZFILL (R309). -/
def execZfill (h : Hdr) (a b : Src) (m : EngMod) (s : State) := issEng (.zfill h a b m) h a b m s

/-- The checks of CBLOAD (R303). -/
def cbloadCheck (a b : Src) (s : State) (r : Regs) (go : State → Res) : Res :=
  let va := r.rx a
  if 3 < (r.rv b).toNat then .trap s { cause := .illegalOperand }
  else if va.toNat % 64 != 0 then .trap s { cause := .misaligned, detail := 4, addr := va }
  else match s.engPages [(false, va, 1024, false)] with
    | (s, .trap c) => .trap s c
    | (s, .wait w) => .wait s w
    | (s, .ok ()) => go s

/-- The operations of a CBLOAD issue, from this thread's on (R292). -/
def State.cbloadOps (s : State) (h : Hdr) (a b : Src) : Nat :=
  s.issueOps h [.x a, .vi b] fun s r => cbloadCheck a b s r .stay

/-- CBLOAD (R303): the address pair and the table are its operand values. -/
def execCbload (h : Hdr) (a b : Src) (s : State) :=
  s.issueI ⟨aMem, h, [.x a, .vi b], .none⟩ fun s r =>
    let n := s.cbloadOps h a b
    cbloadCheck a b s r fun s => s.engRoom n 0 fun s =>
      if 64 ≤ s.engQueue (s.coreOf s.t) 0 then .stall s
      else .none (s.accept (.cbload h a b) 0 0 0 .core none 0 0 [(r.rx a).toNat + 2 ^ 64 * (r.rv b).toNat]).1

end Sys2Proof.Machine
end

