-- ==== Sys2Proof/Machine/EngineRun.lean ====
section
/-! DEFINITION. How an accepted engine operation of class 9 runs, completes, is held and fails (R105, R295, R297 to R309), as events of
the core's copy unit and gather engine. -/

namespace Sys2Proof.Machine

/-- The end of an access or of a piece of an operation. -/
inductive Run (α : Type) where
  | ok (s : State) (a : α)
  | hold (s : State) (i : TrapInfo)
  | busy (s : State)
  | fail (s : State) (i : TrapInfo)
  deriving DecidableEq, Repr

def Run.bind {α β : Type} (r : Run α) (f : State → α → Run β) : Run β :=
  match r with
  | .ok s a => f s a
  | .hold s i => .hold s i
  | .busy s => .busy s
  | .fail s i => .fail s i

/-- A trap met by an operation on its ranges: LEASE_VIOLATION ends it, any other holds it (R295, R388). -/
def Run.stop {α : Type} (s : State) (i : TrapInfo) : Run α := if i.cause = .leaseViolation then .fail s i else .hold s i

/-! ### One access of an operation -/

/-- Bytes read from the stash of a workgroup or from memory, and whether they are poisoned (R52, R104, R406). -/
def State.engRead (s : State) (a : As) (core w : Nat) (stash : Bool) (va : DWord) (n : Nat) : Run (List Byte × Bool) :=
  if stash then
    match s.fillLines w (stashLines va.toNat n) with
    | (s, .trap i) => .stop s i
    | (s, .wait _) => .busy s
    | (s, .ok ()) => .ok s (s.stashBytes w va.toNat n, s.stashBad w va.toNat n)
  else
    match s.resolveRange a (some core) va n .engRead with
    | (s, .trap i) => .stop s i
    | (s, .wait _) => .busy s
    | (s, .ok ps) =>
      let s := s.demandAll ps
      .ok s (s.fetchAll (some core) ps, s.anyBad ps)

/-- Keep of each 4-byte location of a piece written at an address, in a failed operation, the value the manual lets it have (R95, R295;
log 7): the runs of bytes that are written, with their places. -/
def chosen (s : State) (at_ : Nat) (all : Bool) (bs : List Byte) : List (Nat × Byte) :=
  ((List.range bs.length).zip bs).filter fun e => all || Config.freeTakeNew s.free ((at_ % 4 + e.1) / 4)

/-- Of the first bytes of `full` written at an address, those of whole 4-byte locations (R95, R156). -/
def wholeCells (at_ full : Nat) (bs : List Byte) : List Byte :=
  if bs.length < full then bs.take ((at_ + bs.length) / 4 * 4 - at_) else bs

/-- A core's write at physical bytes: posted while the memory-request budget has room (R16). A piece that meets a full budget has waited
before (`engPiece`); writes beyond it within a piece are performed behind the core's posted ones (R97). -/
def State.engPost (s : State) (core : Nat) (wv : Bool) (ws : List (Nat × Byte)) : State :=
  (runs ws).foldl (fun s r => if s.requests core < 2048 then s.post core r.1 r.2 wv else (s.flushCore core).perform r.1 r.2 wv) s

/-- The physical bytes of resolved places with the flags of their pages. -/
def placeCells : List Place → List (Nat × Bool)
  | [] => []
  | .mem pas wv :: r => pas.map (fun pa => (pa, wv)) ++ placeCells r
  | .conv _ _ _ :: r => placeCells r
  | .value _ :: r => placeCells r

/-- Bytes written by an operation. A poisoned source goes on as poison to a global destination only (R295). -/
def State.engWrite (s : State) (a : As) (core w : Nat) (stash : Bool) (va : DWord) (bs : List Byte) (bad all : Bool) : Run Unit :=
  let ws := chosen s va.toNat all bs
  if stash then
    match s.fillLines w (stashLines va.toNat bs.length) with
    | (s, .trap i) => .stop s i
    | (s, .wait _) => .busy s
    | (s, .ok ()) => .ok ((runs ws).foldl (fun s r => s.stashPut w (va.toNat + r.1) r.2) s) ()
  else
    match s.resolveRange a (some core) va bs.length .engWrite with
    | (s, .trap i) => .stop s i
    | (s, .wait _) => .busy s
    | (s, .ok ps) =>
      match s.blockedAll ps with
      | some (g, l) => .busy (s.wbRequest g l)
      | none =>
        let cells := placeCells ps
        let at_ := ws.filterMap fun e => (cells[e.1]?).map fun c => (c.1, e.2)
        let wv := match cells with | c :: _ => c.2 | [] => false
        if bad then
          let lines := (at_.map fun e => e.1 / 64).dedup
          let s := s.flushWhere fun p => p.core == core && lines.any fun l => overlaps4 p.pa p.bytes.length (64 * l) 64
          let s := (runs at_).foldl (fun s r => s.perform r.1 r.2 wv) s
          .ok { s with poison := lines.foldl (fun m l => m.insert l) s.poison } ()
        else .ok (s.engPost core wv at_) ()

/-! ### The pieces of an operation -/

/-- The operation's operand values, its coded entry, workgroup and address space. -/
def EngOp.par (o : EngOp) : EngPar := engPar o.instr (o.args.headD 0)
def EngOp.entry (o : EngOp) : CodedEntry := entryOfNat (o.args.getD 1 0)
def State.opWg (s : State) (o : EngOp) : Nat := s.wgOfCrew o.crew
def State.opAs (s : State) (o : EngOp) : As := s.asOf o.thread

/-- Bytes of a destination up to the end of its 64-byte line. -/
def lineRest (a n : Nat) : Nat := min n (64 - a % 64)

/-- Length in pieces' units: bytes, elements, intervals or reads. -/
def EngOp.size (o : EngOp) : Nat :=
  let p := o.par
  match o.instr with
  | .copy _ _ _ _ => p.n
  | .zfill _ _ _ _ => p.n
  | .cbcopy _ _ _ _ => p.n * p.es
  | .copyt _ _ _ _ => p.rows * p.cols * p.es
  | .gather _ _ _ _ => p.n
  | .scatter _ _ _ _ => p.n
  | .cdec _ _ _ _ => o.entry.intervals
  | .cbload _ _ _ => 1
  | _ => 0

/-- Where the piece at a place ends. -/
def EngOp.next (o : EngOp) (k : Nat) : Nat :=
  let p := o.par
  match o.instr with
  | .copy _ _ _ _ => k + lineRest (p.dst.toNat + k) (p.n - k)
  | .zfill _ _ _ _ => k + lineRest (p.dst.toNat + k) (p.n - k)
  | .cbcopy _ _ _ _ => k + lineRest (p.dst.toNat + k) (p.n * p.es - k)
  | .copyt _ _ _ _ =>
    let row := p.cols * p.es
    k + lineRest (p.dst.toNat + k / row * p.dstride + k % row) (row - k % row)
  | _ => k + 1

/-- The source bytes of [off, off + n) of row i of a COPYT: halo elements, and one read inside the extent (R301). -/
def State.tileRow (s : State) (a : As) (core w : Nat) (p : EngPar) (i off n : Nat) : Run (List Byte × Bool) :=
  let rr := p.orow + i
  let (j0, j1) := insideRange p.ocol p.cols p.scols
  let lo := max off (j0 * p.es)
  let hi := min (off + n) (j1 * p.es)
  let halo := fun (c : Nat) => (List.range c).map fun k => (BitVec.ofNat 8 (p.pad / 2 ^ (8 * (k % p.es))))
  if rr < 0 || (p.srows : Int) ≤ rr || hi ≤ lo then .ok s (halo n, false)
  else
    let src := (p.src.toNat : Int) + rr * p.sstride + p.ocol * p.es + lo
    (s.engRead a core w p.ss (BitVec.ofInt 64 src) (hi - lo)).bind fun s (bs, bad) =>
      .ok s (halo (lo - off) ++ bs ++ halo (off + n - hi), bad)

/-- Members of a multicast that take its writes (R302): activated, with threads left. -/
def State.mcastTo (s : State) (w : Nat) : List Nat :=
  (s.tileWgs w).filter fun m => (s.wg m).holds && !s.wgDone m

/-- A multicast write: bytes in a member's mapped ranges are left out (R302). -/
def State.mcastPut (s : State) (w off : Nat) (bs : List Byte) (all : Bool) : State :=
  let ws := chosen s off all bs
  (s.mcastTo w).foldl (fun s m =>
    let own := ws.filter fun e => ((s.wg m).entryOf ((off + e.1) / 64)).isNone
    (runs own).foldl (fun s r => s.stashPut m (off + r.1) r.2) s) s

/-- POISON of an operation (R295). -/
def poisonAt (va : DWord) : TrapInfo := { cause := .poison, addr := va }

/-- The register of CDEC's CRC in a resume point: interval in the low 32 bits, the register's complement above (R306). -/
def cdecAt (v : Nat) (crc : Word) : Nat := v + 2 ^ 32 * (~~~crc).toNat
def cdecIvl (k : Nat) : Nat := k % 2 ^ 32
def cdecCrc (k : Nat) : Word := ~~~(BitVec.ofNat 32 (k / 2 ^ 32))

/-- STREAM_MALFORMED of a coded tile (R155, R340). -/
def malformedAt (cond : Nat) (base : DWord) (t ivl : Nat) : TrapInfo :=
  { cause := .streamMalformed, detail := cond, addr := base, aux := BitVec.ofNat 64 (t + ivl % 65536 * 2 ^ 32) }

/-- The payload of a coded tile, byte by byte, as an operation reads it from the addresses at `base` (R104, R159). -/
def payloadRd (a : As) (core : Nat) (base : DWord) : Reader State := fun s off =>
  match s.resolve a (some core) (base + BitVec.ofNat 64 off) 1 .engRead with
  | (s, .ok pl) =>
    let s := s.demandPlace pl
    (s, if s.placeBad pl then .poison else .byte ((s.fetchPlace (some core) pl).headD 0).toNat)
  | (s, _) => (s, .miss)

/-- A read failure of a decoder: its place is read again for what it meets (R155). -/
def State.payloadStop (s : State) (a : As) (core : Nat) (va : DWord) : Run Unit :=
  match s.resolve a (some core) va 1 .engRead with
  | (s, .trap i) => .stop s i
  | (s, .wait _) => .busy s
  | (s, .ok _) => .busy s

/-- A list written over consecutive lines of the destination; in a failed operation each line has choices of its own (log 7). -/
def State.engWriteAll (s : State) (a : As) (core w : Nat) (stash all : Bool) (va : DWord) : Nat → List Byte → Run Unit
  | 0, _ => .ok s ()
  | fuel + 1, bs =>
    match bs with
    | [] => .ok s ()
    | _ :: _ =>
      let m := lineRest va.toNat bs.length
      if all && !stash && 2048 ≤ s.requests core then .busy s
      else (s.engWrite a core w stash va (bs.take m) false all).bind fun s () =>
        (if all then s else s.draw).engWriteAll a core w stash all (va + BitVec.ofNat 64 m) fuel (bs.drop m)

/-- Interval v of a CDEC, from the table slot of its workgroup (R152, R305); a wrong check value is recorded with the last interval's
number (log 67). With `all` false, the locations that could be decoded whole are written where a free choice takes them (R156; log 7). -/
def State.cdecPiece (s : State) (o : EngOp) (v : Nat) (crc : Word) (all : Bool) : Run Word :=
  let p := o.par
  let e := o.entry
  let w := s.opWg o
  let a := s.opAs o
  let base := p.src + BitVec.ofNat 64 e.poff
  let slot := (s.wg w).probs.getD e.tid {}
  let rd := payloadRd a o.icore base
  let mark := rdLe rd s (e.markAt v) 4
  match decInterval rd (if slot.full then slot.freq else []) e v mark.1 mark.2 with
  | (s, out, fin) =>
    let at_ := p.dst + BitVec.ofNat 64 (e.r * v)
    let put := fun (s : State) => s.engWriteAll a o.icore w p.ds all at_ (e.r + 1) (wholeCells at_.toNat (e.len v) (out.map (BitVec.ofNat 8 ·)))
    if !all then (put s).bind fun s () => .ok s crc
    else match fin with
      | .bad c => .fail s (malformedAt c p.src p.n v)
      | .poison off => .fail s (poisonAt (base + BitVec.ofNat 64 off))
      | .miss off =>
        match s.payloadStop a o.icore (base + BitVec.ofNat 64 off) with
        | .ok s () => .busy s
        | .hold s i => .hold s i
        | .busy s => .busy s
        | .fail s i => .fail s i
      | .ok () =>
        let crc' := crcBytes crc out
        if v + 1 = e.intervals && (crc' ^^^ 0xFFFFFFFF).toNat != e.crc then .fail s (malformedAt 7 p.src p.n v)
        else (put s).bind fun s () => .ok s crc'

/-- The address of element i of GATHER or SCATTER (R307). -/
def EngPar.elemAddr (p : EngPar) (raw : Nat) : DWord :=
  if p.imode then p.base + ((BitVec.ofNat 32 raw).signExtend 64 <<< p.shift) else BitVec.ofNat 64 raw

/-- An element of GATHER or SCATTER as its run ends. -/
def elemRun {α : Type} (i : Nat) (r : Run α) : Run α :=
  match r with
  | .ok s a => .ok s a
  | .busy s => .busy s
  | .hold s c =>
    match c.cause with
    | .access => .fail s { c with aux := BitVec.ofNat 64 i }
    | _ => .hold s { c with aux := BitVec.ofNat 64 i }
  | .fail s c => .fail s { c with aux := BitVec.ofNat 64 i }

/-- A hold on the index list or on the contiguous side names the element too (R308, R340). -/
def listRun {α : Type} (i : Nat) (r : Run α) : Run α :=
  match r with
  | .hold s c => .hold s { c with aux := BitVec.ofNat 64 i }
  | x => x

/-- Element i of GATHER or SCATTER: its address, its read and its write (R307, R308). -/
def State.elemPiece (s : State) (o : EngOp) (scatter : Bool) (i : Nat) (all : Bool) : Run Unit :=
  let p := o.par
  let w := s.opWg o
  let a := s.opAs o
  let isz := if p.imode then 4 else 8
  let at_ := p.src + BitVec.ofNat 64 (isz * i)
  (listRun i (s.engRead a o.icore w p.ss at_ isz)).bind fun s (lb, lbad) =>
    if lbad then .fail s (poisonAt at_)
    else
      let ea := p.elemAddr (leNat lb)
      let cont := p.dst + BitVec.ofNat 64 (p.es * i)
      if ea.toNat % p.es != 0 then
        .fail s { cause := .misaligned, detail := if scatter then 5 else 4, addr := ea, aux := BitVec.ofNat 64 i }
      else if scatter then
        (listRun i (s.engRead a o.icore w p.ds cont p.es)).bind fun s (bs, bad) =>
          if bad then .fail s (poisonAt cont) else elemRun i (s.engWrite a o.icore w false ea bs false all)
      else
        (elemRun i (s.engRead a o.icore w false ea p.es)).bind fun s (bs, bad) =>
          if bad then .fail s { poisonAt ea with aux := 0 } else listRun i (s.engWrite a o.icore w p.ds cont bs false all)

/-- CBLOAD's read, and the whole table at once (R303). -/
def State.cbloadPiece (s : State) (o : EngOp) (all : Bool) : Run Unit :=
  let raw := o.args.headD 0
  let va := BitVec.ofNat 64 (raw % 2 ^ 64)
  let k := raw / 2 ^ 64
  (s.engRead (s.opAs o) o.icore (s.opWg o) false va 1024).bind fun s (bs, bad) =>
    if bad then .fail s (poisonAt va)
    else if !all then .ok s ()
    else .ok (s.updWg (s.opWg o) fun g =>
      { g with books := (List.range 256).foldl (fun m e =>
          m.set (256 * k + e) (BitVec.ofNat 32 (leNat ((bs.drop (4 * e)).take 4)))) g.books }) ()

/-- One piece of an operation from a resume point; `all` is false in a failed operation's remaining locations. The answer is the
next resume point. -/
def State.engPart (s : State) (o : EngOp) (k : Nat) (all : Bool) : Run Nat :=
  let p := o.par
  let w := s.opWg o
  let a := s.opAs o
  let nx := o.next k
  let m := nx - k
  match o.instr with
  | .copy _ _ _ _ =>
    (s.engRead a o.icore w p.ss (p.src + BitVec.ofNat 64 k) m).bind fun s (bs, bad) =>
      if bad && p.ds then .fail s (poisonAt (p.src + BitVec.ofNat 64 k))
      else (s.engWrite a o.icore w p.ds (p.dst + BitVec.ofNat 64 k) bs bad all).bind fun s () => .ok s nx
  | .zfill _ _ _ _ =>
    (s.engWrite a o.icore w p.ds (p.dst + BitVec.ofNat 64 k) (List.replicate m 0) false all).bind fun s () => .ok s nx
  | .copyt _ _ _ _ =>
    let row := p.cols * p.es
    let dst := p.dst + BitVec.ofNat 64 (k / row * p.dstride + k % row)
    (s.tileRow a o.icore w p (k / row) (k % row) m).bind fun s (bs, bad) =>
      if bad && p.ds then .fail s (poisonAt p.src)
      else if p.mcast then .ok (s.mcastPut w dst.toNat bs all) nx
      else (s.engWrite a o.icore w p.ds dst bs bad all).bind fun s () => .ok s nx
  | .cbcopy _ _ _ _ =>
    let src := p.src + BitVec.ofNat 64 (k / p.es)
    (s.engRead a o.icore w p.ss src (m / p.es)).bind fun s (cs, bad) =>
      if bad then .fail s (poisonAt src)
      else
        let bs := cs.flatMap fun c => bytesOf p.es ((s.wg w).books.get (256 * p.table + c.toNat))
        (s.engWrite a o.icore w p.ds (p.dst + BitVec.ofNat 64 k) bs false all).bind fun s () => .ok s nx
  | .cdec _ _ _ _ =>
    (s.cdecPiece o (cdecIvl k) (cdecCrc k) all).bind fun s crc => .ok s (cdecAt (cdecIvl k + 1) crc)
  | .gather _ _ _ _ => (s.elemPiece o false k all).bind fun s () => .ok s nx
  | .scatter _ _ _ _ => (s.elemPiece o true k all).bind fun s () => .ok s nx
  | .cbload _ _ _ => (s.cbloadPiece o all).bind fun s () => .ok s nx
  | _ => .ok s nx

/-- A piece of an operation, which waits for the request budget of the issuing core, also where a sibling's engine took the operation over
(R16, R44): whose budget is used then is the model's choice (log 32). -/
def State.engPiece (s : State) (o : EngOp) (k : Nat) (all : Bool) : Run Nat :=
  if all && 2048 ≤ s.requests o.icore then .busy s else s.engPart o k all

/-- The units done at a resume point. -/
def EngOp.doneAt (o : EngOp) (k : Nat) : Nat :=
  match o.instr with
  | .cdec _ _ _ _ => cdecIvl k
  | _ => k

/-- An operation from a resume point to its end, its hold or its failure, with the resume point reached. -/
def State.engRun (s : State) (o : EngOp) : Nat → Nat → Run Unit × Nat
  | 0, k => (.ok s (), k)
  | fuel + 1, k =>
    if o.size ≤ o.doneAt k then (.ok s (), k)
    else match s.engPiece o k true with
      | .ok s k' => s.engRun o fuel k'
      | .hold s i => (.hold s i, k)
      | .busy s => (.busy s, k)
      | .fail s i => (.fail s i, k)

/-- The remaining locations of a failed operation: each holds its old value or the one the operation writes there (R295; log 7). -/
def State.engRest (s : State) (o : EngOp) : Nat → Nat → State
  | 0, _ => s
  | fuel + 1, k =>
    if o.size ≤ o.doneAt k then s
    else
      let s := match s.engPiece o k false with
        | .ok s _ => s.draw
        | _ => s.draw
      match o.instr with
      | .cdec _ _ _ _ => s.engRest o fuel (cdecIvl k + 1)
      | _ => s.engRest o fuel (o.next k)

/-! ### Completion and failure -/

/-- An operation leaves its queue and its counter; streams and waits go on (R105, R111). -/
def State.opLeave (s : State) (n : Nat) (o : EngOp) : State :=
  ((s.updOp n fun x => { x with live := false }).countDone o.crew o.cls o.seq).pump.wake

/-- The core's posted writes are performed before an operation's increment, at its scope, and before the next operation of its stream (R99,
R105, R111). -/
def State.opSettle (s : State) (o : EngOp) : State := if o.stream = 0 then s.release o.icore o.scope else s.flushCore o.icore

/-- Completion in the order of R105: writes, increment with its release, count. Writes that have to wait delay it (R53); an object that no
longer takes the increment holds the operation at its end (R295). -/
def State.opFinish (s : State) (n : Nat) (o : EngOp) : Run Unit :=
  if o.stream = 0 && o.bo.isNone then .ok (s.opLeave n o) ()
  else
    let s := s.opSettle o
    match if o.stream = 0 && !scopeWide o.scope then none else s.postBlocked o.icore, o.bo with
    | some (w, l), _ => .busy (s.wbRequest w l)
    | none, none => .ok (s.opLeave n o) ()
    | none, some b =>
      match s.boAdvance (some o.icore) (s.opAs o) b o.inc with
      | (s, .trap i) => .stop s i
      | (s, .wait _) => .busy s
      | (s, .ok ()) => .ok (s.opLeave n o) ()

/-- A failed operation ends with the trap of the issuing thread and no increment. The writes of a stream's operation are performed before the
next of its stream; where some have to wait, so does the end (R53, R111), at the resume point `k` before the failure: a switch-out
meanwhile saves that point, from which the restored operation fails again (R156, R160). -/
def State.opEnd (s : State) (n : Nat) (o : EngOp) (k : Nat) (i : TrapInfo) : State :=
  let s := if o.stream = 0 then s else s.flushCore o.icore
  match if o.stream = 0 then none else s.postBlocked o.icore with
  | some (w, l) => (s.wbRequest w l).updOp n fun x => { x with phase := .failing i, prog := k }
  | none => (s.asyncTrap o.thread i o.pc).opLeave n o

/-- The end of R295: the remaining locations, then the trap of the issuing thread. -/
def State.opFail (s : State) (n : Nat) (o : EngOp) (k : Nat) (i : TrapInfo) : State := (s.engRest o (o.size + 1) k).opEnd n o k i

/-- A hold of R295: a service request of kind 5 that names the issuing thread and the operation (R338, R340). -/
def State.opHold (s : State) (n : Nat) (o : EngOp) (k : Nat) (i : TrapInfo) : State :=
  let s := s.updOp n fun x => { x with phase := .held i, prog := k }
  s.putRec { s.trapRec o.thread 5 i (s.thr o.thread).r.pc o.pc with op := some n }

/-- The operation is running on its engine, in a context that runs (R297, R349). -/
def State.opRuns (s : State) (o : EngOp) : Bool :=
  o.live && (o.phase == .started || o.phase == .serviced) && s.ctxPhase (s.partOf o.thread) (s.ctxOf o.thread) == 0

/-- An operation of class 9. -/
def isClass9 : Instr → Bool
  | .copy _ _ _ _ => true
  | .copyt _ _ _ _ => true
  | .cbcopy _ _ _ _ => true
  | .cdec _ _ _ _ => true
  | .gather _ _ _ _ => true
  | .scatter _ _ _ _ => true
  | .zfill _ _ _ _ => true
  | .cbload _ _ _ => true
  | _ => false

/-- Table of a CBLOAD or CBCOPY. -/
def EngOp.bookOf (o : EngOp) : Option Nat :=
  match o.instr with
  | .cbload _ _ _ => some (o.args.headD 0 / 2 ^ 64)
  | .cbcopy _ _ _ _ => some o.par.table
  | _ => none

/-- An older operation of the workgroup that loads, or reads, the same table (R303). -/
def State.bookBusy (s : State) (o : EngOp) : Bool :=
  s.ops.any fun x =>
    x.live && x.order < o.order && s.opWg x == s.opWg o && o.bookOf.isSome && x.bookOf == o.bookOf &&
    (match o.instr, x.instr with
      | .cbcopy _ _ _ _, .cbcopy _ _ _ _ => false
      | _, _ => true)

/-- Every member of a multicast that has not exited has been activated (R302). -/
def State.mcastReady (s : State) (w : Nat) : Bool :=
  (s.tileWgs w).length == s.tileSize w && (s.tileWgs w).all fun m => s.wgDone m || (s.wg m).started

/-- ENGINE_OPERATION_START (R111, R297, R302, R303). -/
def execEngineOperationStart (op : Nat) (s : State) : Host.Outcome State Fault Refusal :=
  match s.ops[op]? with
  | none => .next s
  | some o =>
    if o.live && isClass9 o.instr && o.phase == .queued && !s.streamBusy (s.opWg o) o.stream o.order && !s.bookBusy o &&
        s.ctxPhase (s.partOf o.thread) (s.ctxOf o.thread) == 0 && s.requests o.icore < 2048 &&
        (!o.par.mcast || s.mcastReady (s.opWg o)) then
      .next (s.updOp op fun x => { x with phase := .started })
    else .next s

/-- The run of a started operation. -/
def State.opRun (s : State) (o : EngOp) : Run Unit × Nat := s.engRun o (o.size + 1) o.prog

/-- ENGINE_OPERATION_COMPLETE (R105, R295, R298 to R309): the operation runs to its end or its failure. -/
def execEngineOperationComplete (op : Nat) (s : State) : Host.Outcome State Fault Refusal :=
  match s.ops[op]? with
  | none => .next s
  | some o =>
    if s.opRuns o && isClass9 o.instr then
      match s.opRun o with
      | (.ok s' (), _) =>
        match s'.opFinish op o with
        | .ok s'' () => .next s''
        | .fail s'' i => .next (s''.opFail op o o.size i)
        | _ => .next s
      | (.fail s' i, k) => .next (s'.opFail op o k i)
      | _ => .next s
    else match o.phase with
      | .failing i => .next (if o.live then s.opEnd op o o.prog i else s)
      | _ => .next s

/-- The state were no switch of a migration in progress. -/
def State.noSwitch (s : State) : State := { s with migs := s.migs.map fun m => { m with switching := false } }

/-- A running operation waits where it stands for a page under migration (R295, R393). -/
def State.opWaits (s : State) (o : EngOp) : Bool :=
  s.opRuns o && (match s.engPiece o o.prog true, s.noSwitch.engPiece o o.prog true with
    | .busy _, .busy _ => false
    | .busy _, _ => true
    | _, _ => false)

/-- An operation is held (R295): its page fails, or is under migration. -/
def State.opHeld (s : State) (o : EngOp) : Bool := (match o.phase with | .held _ => true | _ => false) || s.opWaits o

/-- CPQ's snapshot (R310). -/
def State.cpqVal (s : State) (c core : Nat) : DWord :=
  let held := (s.ops.filter fun o => o.live && o.crew == c && isClass9 o.instr && s.opHeld o).length
  BitVec.ofNat 64 (s.counter c 0 % 4096 + s.counter c 1 % 4096 * 2 ^ 12 + s.engQueue core 0 * 2 ^ 24 + s.engQueue core 1 * 2 ^ 32 +
    held * 2 ^ 40)

/-- CPQ (R310). -/
def execCpq (h : Hdr) (s : State) := s.issueI ⟨aMem, h, [], .x h.d⟩ fun s _ => .x s (s.cpqVal (s.crewOf s.t) (s.coreOf s.t))

/-- ENGINE_OPERATION_STEAL (R44): an idle engine of a sibling core takes a queued operation, or every queued one of its stream
when none of the stream has started. -/
def execEngineOperationSteal (op core : Nat) (s : State) : Host.Outcome State Fault Refusal :=
  match s.ops[op]? with
  | none => .next s
  | some o =>
    let queued := fun (x : EngOp) => x.live && x.phase == .queued && x.core == o.core && x.engine == o.engine
    let mates := fun (x : EngOp) => x.live && x.phase == .queued && x.engine == o.engine && x.stream == o.stream && s.opWg x == s.opWg o
    let running := s.ops.any fun x => x.live && x.phase != .queued && x.stream == o.stream && s.opWg x == s.opWg o && x.engine == o.engine
    if queued o && o.engine ≤ 1 && core != o.core && core < 512 && clusterId core == clusterId o.core &&
        s.engQueue core o.engine == 0 && !(o.stream != 0 && running) then
      if o.stream = 0 then .next (s.updOp op fun x => { x with core := core })
      else .next { s with ops := s.ops.map fun x => if mates x then { x with core := core } else x }
    else .next s

end Sys2Proof.Machine
end

