-- ==== Sys2Proof/Machine/Basin.lean ====
section
/-! DEFINITION. Class 10 and the commands of the basin dies: index descriptors and records (R68 to R70), snapshots (R71, R72), distances
(R75), scans and row transfers (R84 to R87), checks, completion and status (R88 to R92, R311 to R318, R435). -/

namespace Sys2Proof.Machine

/-! ### Fields of the command block and of the index descriptor (R68, R312 to R315) -/

def Cmd.f (c : Cmd) (lo n : Nat) : Nat := nbits c.block lo n
def Cmd.fx (c : Cmd) (lo : Nat) : DWord := BitVec.ofNat 64 (c.f lo 64)
def Cmd.d (c : Cmd) (lo n : Nat) : Nat := nbits c.desc lo n
def Cmd.as (c : Cmd) : As := ⟨c.part, c.ctx, c.sup, none⟩
def Cmd.out (c : Cmd) : DWord := c.fx 256
def Cmd.bo (c : Cmd) : DWord := c.fx 320
def Cmd.inc (c : Cmd) : Nat := c.f 384 16
def Cmd.k (c : Cmd) : Nat := c.f 416 9
def Cmd.n (c : Cmd) : Nat := if c.kind = 2 then c.f 400 16 else c.f 400 12
def Cmd.metric (c : Cmd) : Nat := if c.kind = 1 then c.f 411 2 else c.f 425 2
def Cmd.vfmt (c : Cmd) : Nat := if c.kind = 1 then c.d 68 4 else c.f 205 4
def Cmd.dim (c : Cmd) : Nat := if c.kind = 1 then c.d 72 13 else c.f 192 13
def Cmd.zlog (c : Cmd) : Nat := if c.kind = 1 then c.d 85 3 else c.f 209 3
def Cmd.z (c : Cmd) : Nat := 2 ^ (c.zlog + 6)
def Cmd.nstack (c : Cmd) : Nat := c.d 64 4
def Cmd.maxdeg (c : Cmd) : Nat := c.d 88 16
def Cmd.ranks (c : Cmd) : Bool := c.kind ≤ 2

/-- Bytes of a vector (R69). -/
def vecBytes (fmt dim : Nat) : Nat :=
  match fmt with
  | 0 => dim
  | 1 => 2 * dim
  | 2 => dim + 2 * (dim / 32)
  | _ => dim / 8
def Cmd.vbytes (c : Cmd) : Nat := vecBytes c.vfmt c.dim

/-- Offset of the neighbour count in a record (R69). -/
def Cmd.cntOff (c : Cmd) : Nat := (8 + c.vbytes + 3) / 4 * 4

/-- Formats and dimensions that exist, and metrics that fit (R68, R75). -/
def vecBad (fmt dim : Nat) : Bool := 3 < fmt || dim == 0 || (fmt == 2 && dim % 32 != 0) || (fmt == 3 && dim % 8 != 0)
def metricBad (fmt m : Nat) : Bool := m == 3 || ((m == 2) != (fmt == 3))

/-- The distances are float (R75). -/
def Cmd.flt (c : Cmd) : Bool := c.vfmt == 1 || c.vfmt == 2

/-- A node's home stack and the address of its record (R68). -/
def Cmd.nodeStack (c : Cmd) (n : Nat) : Nat := c.d (128 + 4 * (n % c.nstack)) 4
def Cmd.nodeAddr (c : Cmd) (n : Nat) : DWord :=
  BitVec.ofNat 64 (c.d (256 + 64 * (n % c.nstack)) 64 + c.z * (n / c.nstack))

/-- The descriptor fails R68 or its vbo is misaligned (R89). -/
def Cmd.descBad (c : Cmd) : Bool :=
  c.nstack == 0 || 12 < c.nstack || vecBad c.vfmt c.dim || 4 < c.zlog ||
  (List.range (min c.nstack 12)).any (fun k => 11 < c.d (128 + 4 * k) 4 || c.d (256 + 64 * k) 64 % c.z != 0) ||
  c.z < c.cntOff + 4 + 4 * c.maxdeg || c.d 104 24 != 0 || c.d 176 80 != 0 || c.d 0 64 % 8 != 0

/-! ### Distances (R75) -/

/-- The FP32 pattern of element e of a BF16 or BFP8 vector. -/
def vecElem (fmt dim : Nat) (v : List Byte) (e : Nat) : Nat :=
  let b := fun i => (v.getD i 0).toNat
  if fmt = 1 then (b (2 * e) + 256 * b (2 * e + 1)) * 65536
  else bfpTo bf16 false (b e) (b (dim + 2 * (e / 32))) (b (dim + 2 * (e / 32) + 1)) * 65536

/-- A float sum in element order. -/
def floatSum (term : Nat → Nat) (dim : Nat) : Nat :=
  (List.range dim).foldl (fun s e => (f32.add .rne false s (term e)).pat) 0

/-- Bits set in a byte. -/
def byteOnes (b : Byte) : Nat := ((List.range 8).filter fun i => b.getLsbD i).length

/-- The distance of record vector `a` from query `q`. -/
def distance (fmt metric dim : Nat) (q a : List Byte) : Word :=
  let ie := fun (v : List Byte) e => (v.getD e 0).toInt
  match fmt with
  | 0 =>
    let term := fun e => if metric = 0 then (ie a e - ie q e) * (ie a e - ie q e) else -(ie a e * ie q e)
    BitVec.ofInt 32 ((List.range dim).foldl (fun s e => s + term e) 0)
  | 3 => BitVec.ofNat 32 ((List.range (dim / 8)).foldl (fun s i => s + byteOnes (a.getD i 0 ^^^ q.getD i 0)) 0)
  | _ =>
    let x := vecElem fmt dim a
    let y := vecElem fmt dim q
    if metric = 0 then
      BitVec.ofNat 32 (floatSum (fun e =>
        let d := (f32.sub .rne false (x e) (y e)).pat
        (f32.mul .rne false d d).pat) dim)
    else
      let t := floatSum (fun e => (f32.mul .rne false (x e) (y e)).pat) dim
      BitVec.ofNat 32 (if t = 0x7FC00000 then t else f32.flip t)

/-- The distance that stands for a record that cannot be read (R320). -/
def Cmd.farDist (c : Cmd) : Word := if c.flt then 0x7F800000 else 0x7FFFFFFF

/-- A record's header against a snapshot (R71). -/
def visibleAt (s birth death : Nat) : Bool := birth ≤ s && s < death

/-! ### Reading for a command (R118) -/

/-- Bytes read for a command, and whether they are uncorrectable. -/
def State.cmdRead (s : State) (c : Cmd) (va : DWord) (n : Nat) : State × Chk (List Byte × Bool) :=
  match s.resolveRange c.as none va n .engRead with
  | (s, .trap i) => (s, .trap i)
  | (s, .wait w) => (s, .wait w)
  | (s, .ok ps) =>
    let s := s.demandAll ps
    (s, .ok (s.fetchAll none ps, s.anyBad ps))

/-- The walk of R383 to a level 1 leaf that is well formed but for its released pin (R89, NB_NOT_PINNED). -/
def State.walkNb (s : State) (t va : Nat) : List Nat → Option DWord
  | [] => none
  | lvl :: lower =>
    let e := s.readPhys8 (t + 8 * nbits va (12 + 9 * lvl) 9)
    if !e.getLsbD 0 then none
    else if e.getLsbD 1 then
      if e.getLsbD 9 && !e.getLsbD 52 && !s.malformed (e ||| BitVec.ofNat 64 (2 ^ 52)) lvl then some e else none
    else if s.malformed e lvl then none
    else s.walkNb (bits e 12 40 * 4096) va lower

/-- The compute-capable page of an operand: its physical address and whether it is pinned; none is NB_NOT_CAPABLE (R65, R89). A
WHOP's address is taken as a read (log 64). That a leaf which forbids the access is NB_NOT_CAPABLE too is the model's choice (log 53). -/
def State.nbPage (s : State) (a : As) (va : DWord) (write : Bool) : State × Option (Nat × Bool) :=
  let k := if write then AccKind.engWrite else .engRead
  if !canonical va || (va.getLsbD 56 && !a.sup) || (s.aperFind a va).isSome then (s, none)
  else match if (s.markBlocked a va 1 k).isSome then (s, s.walkLeaf a va) else s.leafOf a va with
    | (s, some l) => if leafPermits l.entry a.sup k && l.entry.getLsbD 9 then (s, some (l.pa va, true)) else (s, none)
    | (s, none) =>
      let root := s.rootOf a va
      if root.getLsbD 0 then
        match s.walkNb (bits root 12 40 * 4096) (va57 va) [4, 3, 2, 1, 0] with
        | some e => if leafPermits e a.sup k then (s, some (leafFrame e 1 + va57 va % 2 ^ 21, false)) else (s, none)
        | none => (s, none)
      else (s, none)

/-- The stack that holds an operand, through an aperture or its pages, its pin released or not; none where it does not translate (R88, R329). Of
an aperture of transform 1 it is that of the element plane, the model's choice (log 97). -/
def State.operandStack (s : State) (a : As) (va : DWord) : Option Nat :=
  let root := s.rootOf a va
  let held := fun (pa : Nat) => if paIsPackage pa then some (paStack pa) else none
  match s.aperFind a va, s.peekLeaf a va with
  | some i, _ =>
    let x := (s.part a.part).apers.get i
    let o := va57 va - va57 x.va
    held (if x.xf == 1 then x.pa0.toNat + o / 2 else aperPa x o)
  | none, some (_, pa) => held pa
  | none, none =>
    if root.getLsbD 0 then (s.walkNb (bits root 12 40 * 4096) (va57 va) [4, 3, 2, 1, 0]).map fun e => paStack (leafFrame e 1) else none

/-- The status of a failed read of a command (R435). -/
def State.readStatus (s : State) (c : Cmd) (va : DWord) : Nat :=
  match (s.nbPage c.as va false).2 with
  | some (_, false) => 3
  | _ => 1

/-! ### The checks before a command starts (R89, R312) -/

/-- R312: the record, the result list and the barrier object as writes. -/
def State.dropCheck (s : State) (c : Cmd) : State × Chk Unit :=
  if c.out.toNat % 32 != 0 then (s, .trap (accTrap .misaligned .engWrite c.out))
  else
    let list := if c.ranks && 1 ≤ c.k && c.k ≤ 256 then 8 * c.k else 0
    match s.resolveRange c.as none c.out (32 + list) .engWrite with
    | (s, .trap i) => (s, .trap i)
    | (s, .wait w) => (s, .wait w)
    | (s, .ok _) =>
      if c.bo.toNat % 8 != 0 then (s, .trap (accTrap .misaligned .engWrite c.bo))
      else if (s.aperFind c.as c.bo).isSome then (s, .trap (accTrap .access .engWrite c.bo))
      else match s.resolve c.as none c.bo 8 .engWrite with
        | (s, .trap i) => (s, .trap i)
        | (s, .wait w) => (s, .wait w)
        | (s, .ok _) => (s, .ok ())

/-- How the checks of R89 end: passed, with the snapshot; a status; or again later. -/
inductive Verdict where
  | pass (snap : Word)
  | reject (st : Nat)
  | later
  deriving DecidableEq, Repr

/-- SNAPSHOT_AHEAD and HEAP_K (R72, R76); an uncorrectable version object is ECC_UE, after HEAP_K (log 53). -/
def State.checkSnap (s : State) (c : Cmd) (vbo : DWord) : State × Verdict :=
  match s.cmdRead c vbo 8 with
  | (s, .trap _) => (s, .reject 1)
  | (s, .wait _) => (s, .later)
  | (s, .ok (bs, bad)) =>
    let v := BitVec.ofNat 32 (min (leNat bs) 0xFFFFFFFE)
    let snap := BitVec.ofNat 32 (c.f 432 32)
    if !bad && snap != 0xFFFFFFFF && v.toNat < snap.toNat then (s, .reject 5)
    else if c.k = 0 || 256 < c.k then (s, .reject 6)
    else if bad then (s, .reject 9)
    else (s, .pass (if snap == 0xFFFFFFFF then v else snap))

/-- The first record number of a scan (R84). -/
def Cmd.j0 (c : Cmd) : Nat :=
  let o := c.f 0 21
  let q := 1024 / c.z
  64 * (q * (o / 1024 / 64) + o % 1024 / c.z) + o / 1024 % 64

/-- NBSCAN's checks in the order of R89. -/
def State.checkScan (s : State) (c : Cmd) : State × Verdict :=
  match s.nbPage c.as (c.fx 0) false with
  | (s, none) => (s, .reject 1)
  | (s, some (_, pinned)) =>
    if 4 < c.zlog || c.f 0 64 % c.z != 0 then (s, .reject 4)
    else if 2 ^ 21 / c.z < c.j0 + c.n then (s, .reject 2)
    else if !pinned then (s, .reject 3)
    else if c.n == 0 || vecBad c.vfmt c.dim || metricBad c.vfmt c.metric || c.z < 8 + c.vbytes || c.f 212 12 != 0 || c.f 427 5 != 0 ||
        c.f 128 64 % 8 != 0 then (s, .reject 4)
    else s.checkSnap c (c.fx 128)

/-- The checks of a row transfer in the order of R89 (R85, R315). -/
def State.checkRows (s : State) (c : Cmd) : State × Verdict :=
  let copy := c.kind = 3
  match s.nbPage c.as (c.fx 0) true with
  | (s, none) => (s, .reject 1)
  | (s, some (dpa, dpin)) =>
    match if copy then s.nbPage c.as (c.fx 64) false else (s, some (dpa, dpin)) with
    | (s, none) => (s, .reject 1)
    | (s, some (spa, spin)) =>
      if c.f 0 64 % 1024 != 0 || (copy && c.f 64 64 % 1024 != 0) then (s, .reject 4)
      else if 2 ^ 21 < c.f 0 21 + 1024 * c.n || (copy && 2 ^ 21 < c.f 64 21 + 1024 * c.n) || paStack dpa != paStack spa then
        (s, .reject 2)
      else if !dpin || !spin then (s, .reject 3)
      else if c.n == 0 || 2048 < c.n || c.f 128 128 != 0 || c.f 412 52 != 0 || (!copy && (c.f 64 64 != 0 || c.f 464 48 != 0)) then
        (s, .reject 4)
      else (s, .pass 0)

/-! ### Issue -/

/-- A walker holds its place in an engine (R80, R326). -/
def WPhase.inEngine : WPhase → Bool
  | .running => true
  | .ending => true
  | _ => false

/-- Commands queued at a basin die (R88), those that hold a heap unit (R76), a visited slice (R81), and its walker places (R80). -/
def State.dieQueue (s : State) (stack : Nat) : Nat := (s.cmds.filter fun c => c.live && !c.started && c.queue == stack).length
def State.heapsUsed (s : State) (stack : Nat) : Nat :=
  (s.cmds.filter fun c => c.live && c.started && !c.rejected && c.ranks && c.stack == stack).length
def State.slicesUsed (s : State) (stack : Nat) : Nat :=
  (s.cmds.filter fun c => c.live && c.started && c.slices.contains stack).length
def State.engineUsed (s : State) (stack engine : Nat) : Nat :=
  (s.walkers.filter fun w => w.stack == stack && w.engine == engine && w.phase.inEngine).length
def State.walkersUsed (s : State) (stack : Nat) : Nat := (s.walkers.filter fun w => w.stack == stack && w.phase.inEngine).length

/-- A value read without a trace, for the choice of a target die (R88). -/
def State.peekNat (s : State) (a : As) (va : DWord) (n : Nat) : Option Nat :=
  match (s.resolveRange a none va n .engRead).2 with
  | .ok ps => some (leNat (s.fetchAll none ps))
  | _ => none

/-- The target die of a command: the front die where its operand cannot be read (R88, R311). Of a SEARCH whose descriptor will fail R68 it is
that of the stack number which the descriptor holds there, the model's choice (log 91). -/
def State.targetStack (s : State) (a : As) (kind block front : Nat) : Nat :=
  let fx := fun lo => BitVec.ofNat 64 (nbits block lo 64)
  if kind = 1 then
    match s.peekNat a (fx 0) 128, s.peekNat a (fx 128) 4 with
    | some desc, some n => let k := nbits desc 64 4; if k = 0 then front else nbits desc (128 + 4 * (n % k)) 4
    | _, _ => front
  else (s.operandStack a (fx 0)).getD front

/-- A command is accepted into the queue of its target die (R88): counted, with its deadline widened (R312). The issue is a release at core
scope, and what the core wrote is where the die reads it (R104). -/
def State.acceptCmd (s : State) (kind block front target : Nat) (m : BasMod) : State :=
  let c := s.crewOf s.t
  let order := s.nextOrder
  let (s, seq) := s.count c 3
  let dl := BitVec.ofNat 64 (nbits block 464 48)
  let deadline := if dl = 0 || kind = 4 then none else some (promiseTime s.cyc dl)
  let cmd : Cmd :=
    { kind := kind, block := block, crew := c, thread := s.t, core := s.coreOf s.t, part := s.curAs.part, ctx := s.curAs.ctx,
      sup := s.curAs.sup, pc := s.curRegs.pc, seq := seq, stream := m.stream.toNat, scope := m.scope,
      stack := if kind = 1 then front else target, queue := target, front := front, forwarded := kind != 1, deadline := deadline, order := order }
  { s.openStream (s.wgOfCrew c) m.stream.toNat m.scope with cmds := s.cmds ++ [cmd] }

/-- The issue checks of a basin command: only the block's operand and the stream's scope (R110, R311). -/
def basCheck (a : Src) (m : BasMod) (s : State) (r : Regs) (go : Nat → State → Res) : Res :=
  match if m.pb then s.stashBlock (r.rv a).toNat else .ok (r.regsNat (srcReg a) 16) with
  | .error c => .trap s c
  | .ok block =>
    if s.streamClash (s.wgOf s.t) m.stream.toNat m.scope then .trap s { cause := .illegalOperand } else go block s

/-- The source of a basin command (R311). -/
def basOpds (a : Src) (m : BasMod) : List Opd := [if m.pb then .vi a else .block a]

/-- The commands of a basin issue, from this thread's on (R292). -/
def State.basOps (s : State) (h : Hdr) (a : Src) (m : BasMod) : Nat :=
  s.issueOps h (basOpds a m) fun s r => basCheck a m s r fun _ s => .stay s

/-- The issue of a basin command (R311): what the core wrote is released first (R104), then the target is found, whose full queue holds the
issue (R88). -/
def issBas (kind : Nat) (h : Hdr) (a : Src) (m : BasMod) (s : State) : Host.Outcome State Fault Refusal :=
  s.issueI ⟨aMem, h, basOpds a m, .none⟩ fun s r =>
    let n := s.basOps h a m
    basCheck a m s r fun block s => s.engRoom n 3 fun s => s.releaseStall (s.coreOf s.t) .die fun s =>
      let front := 3 * coreDie (s.coreOf s.t)
      let target := s.targetStack s.curAs kind block front
      if 256 ≤ s.dieQueue target then .stall s else .none (s.acceptCmd kind block front target m)

/-- SEARCH (R311, R313). -/
def execSearch (h : Hdr) (a : Src) (m : BasMod) (s : State) := issBas 1 h a m s
/-- NBSCAN (R311, R314). -/
def execNbscan (h : Hdr) (a : Src) (m : BasMod) (s : State) := issBas 2 h a m s
/-- NBROWCOPY (R311, R315). -/
def execNbrowcopy (h : Hdr) (a : Src) (m : BasMod) (s : State) := issBas 3 h a m s
/-- NBROWZERO (R311, R315). -/
def execNbrowzero (h : Hdr) (a : Src) (m : BasMod) (s : State) := issBas 4 h a m s

/-- VPUBLISH (R71, R316): a version at its end raises ILLEGAL_OPERAND with nothing written. -/
def execVpublish (h : Hdr) (a : Src) (s : State) :=
  s.issueI ⟨aMem, h, [.x a], .v h.d⟩ fun s r =>
    s.budget fun s => s.access (r.rx a) 8 .atomic fun s p => s.awaitRemote fun s => s.releaseThen (s.coreOf s.t) .pkg fun s =>
      let (s, old) := s.atomRead p
      if s.placeBad p then .none (s.poisoned (r.rx a) h.d.toNat)
      else if 0xFFFFFFFE ≤ old.toNat then .trap s { cause := .illegalOperand }
      else .v ((s.performPlace p (bytesOf 8 (old + 1))).noteAdvance p.first) ((old + 1).setWidth 32)

/-- VSNAP (R317). -/
def execVsnap (h : Hdr) (a : Src) (s : State) :=
  s.issueI ⟨aMem, h, [.x a], .v h.d⟩ fun s r =>
    s.budget fun s => s.access (r.rx a) 8 .load fun s p =>
      let s := s.demandPlace p
      if s.placeBad p then .none (s.poisoned (r.rx a) h.d.toNat)
      else .v s (BitVec.ofNat 32 (min (leNat (s.fetchPlace s.curView p)) 0xFFFFFFFE))

/-- BQUERY's snapshot of a basin die (R318). -/
def State.bqueryVal (s : State) (k : Nat) : DWord :=
  BitVec.ofNat 64 (min (s.dieQueue k) 256 + (16 - s.heapsUsed k) * 2 ^ 16 + (1024 - s.walkersUsed k) * 2 ^ 32 +
    (128 - s.slicesUsed k) * 2 ^ 48)

/-- BQUERY (R318): the reply is the die's state at issue, in flight as a load (R16, R234). -/
def execBquery (h : Hdr) (a : Src) (s : State) :=
  s.issueI ⟨aMem, h, [.vi a], .x h.d⟩ fun s r =>
    let k := (r.rv a).toNat
    if 11 < k then .trap s { cause := .illegalOperand }
    else s.budget fun s => .none (s.flight h.d.toNat (wordsOf true (s.bqueryVal k)) none)

/-! ### Start -/

/-- A command leaves: its counter and its stream go on (R92, R312). -/
def State.cmdLeave (s : State) (n : Nat) (c : Cmd) : State :=
  let s := s.endWalkers n
  ((s.updCmd n fun x => { x with live := false, offers := [] }).countDone c.crew 3 c.seq).pump.wake

/-- A command is dropped with a trap of its issuer (R312, R435). -/
def State.cmdDrop (s : State) (n : Nat) (c : Cmd) (i : TrapInfo) : State := (s.cmdLeave n c).asyncTrap c.thread i c.pc

/-- A command is rejected; its completion record is still to be written (R92). -/
def State.cmdReject (s : State) (n st : Nat) : State := s.updCmd n fun x => { x with started := true, rejected := true, status := st }

/-- The query is read once (R313); a failed read ends the command (R435); an uncorrectable one leaves none, so that every record counts as
uncorrectable, the model's choice (log 96). None while its page is switching (R393). -/
def State.readQuery (s : State) (n : Nat) (c : Cmd) : Option State :=
  match s.cmdRead c (c.fx 64) c.vbytes with
  | (s, .ok (bs, bad)) => some (s.updCmd n fun x => { x with query := if bad then [] else bs, eccUe := x.eccUe || bad })
  | (s, .trap _) => some (s.updCmd n fun x => { x with status := s.readStatus c (c.fx 64) })
  | (_, .wait _) => none

/-- Entry i of the list (R80, R313): its walker, on its home stack, on engine i mod 16 (log 63). -/
def State.startEntry (s : State) (n : Nat) (c : Cmd) (i node : Nat) : State :=
  let w : Walker :=
    { cmd := n, stack := c.nodeStack node, engine := i % 16,
      r := { pc := c.fx 192 + 8, v := (Store.set (Store.set [] 0 (BitVec.ofNat 32 node)) 1 (BitVec.ofNat 32 i)) } }
  { s with walkers := s.walkers ++ [w] }

/-- The entries beyond the first are read at start; a failed read ends the command, an uncorrectable entry is skipped (R90, R435). None while a
page is switching (R393). -/
def State.startEntries (s : State) (n : Nat) (c : Cmd) : Nat → Nat → Option State
  | 0, _ => some s
  | left + 1, i =>
    let va := c.fx 128 + BitVec.ofNat 64 (4 * i)
    if i = 0 then (s.startEntry n c 0 c.first).startEntries n c left 1
    else match s.cmdRead c va 4 with
      | (s, .ok (bs, bad)) =>
        if bad then (s.updCmd n fun x => { x with eccUe := true }).startEntries n c left (i + 1)
        else (s.startEntry n c i (leNat bs)).startEntries n c left (i + 1)
      | (s, .trap _) => some (s.updCmd n fun x => { x with status := s.readStatus c va })
      | (_, .wait _) => none

/-- The status of a command so far. -/
def State.cmdStatus (s : State) (n : Nat) : Nat := match s.cmds[n]? with | some c => c.status | none => 0

/-- A command starts: its snapshot, its query and its walkers (R72, R80); none while one of its reads is delayed. -/
def State.cmdBegin (s : State) (n : Nat) (c : Cmd) (snap : Word) : Option State :=
  let s := s.updCmd n fun x => { x with started := true, snapshot := snap, slices := if c.kind = 1 then [c.stack] else [] }
  (if c.ranks then s.readQuery n c else some s).bind fun s =>
    (if c.kind = 1 && s.cmdStatus n == 0 then s.startEntries n c (c.f 400 11) 0 else some s).map fun s =>
      if s.cmdStatus n == 0 then s else s.endWalkers n

/-- A command may be taken from its die's queue: its stream has drained (R111), a heap unit and a visited slice are free. -/
def State.cmdReady (s : State) (c : Cmd) : Bool :=
  c.live && !c.started && !s.streamBusy (s.wgOfCrew c.crew) c.stream c.order &&
  (!c.ranks || s.heapsUsed c.stack < 16) && (c.kind != 1 || s.slicesUsed c.stack < 128)

/-- BASIN_COMMAND_START: the checks of R312 and R89, for SEARCH those that the front die left, then the start (R72, R88, R118). A row
copy's target and stack are those of its da where sa lies in another stack, the model's choice (log 53). -/
def execBasinCommandStart (cmd : Nat) (s : State) : Host.Outcome State Fault Refusal :=
  match s.cmds[cmd]? with
  | none => .next s
  | some c =>
    if !(s.cmdReady c && c.forwarded) then .next s
    else
      match if c.kind = 1 then (s, .ok ()) else s.dropCheck c with
      | (s', .trap i) => .next (s'.cmdDrop cmd c i)
      | (_, .wait _) => .next s
      | (s', .ok ()) =>
        let s' := if c.kind = 1 then s' else s'.updCmd cmd fun x => { x with found := s'.operandStack c.as (c.fx 0) }
        match if c.kind = 1 then s'.checkSnap c (BitVec.ofNat 64 (c.d 0 64)) else if c.kind = 2 then s'.checkScan c else s'.checkRows c with
        | (_, .later) => .next s
        | (s', .reject st) => .next (s'.cmdReject cmd st)
        | (s', .pass snap) => .next ((s'.cmdBegin cmd c snap).getD s)

/-- The front die's checks of R89, with the descriptor and the first entry (R311). Where one of these is uncorrectable, the checks that need
it are left out and ECC_UE stands in its place of the table (log 53). -/
def State.frontCheck (s : State) (n : Nat) (c : Cmd) : Option State :=
  match s.cmdRead c (c.fx 0) 128 with
  | (_, .wait _) => none
  | (s, .trap _) => some (s.cmdReject n 1)
  | (s, .ok (db, dbad)) =>
    match s.cmdRead c (c.fx 128) 4 with
    | (_, .wait _) => none
    | (s, .trap _) => some (s.cmdReject n 1)
    | (s, .ok (eb, ebad)) =>
      let c := { c with desc := leNat db, first := leNat eb }
      let s := s.updCmd n fun x => { x with desc := c.desc, first := c.first }
      if c.f 0 64 % 128 != 0 || c.f 128 64 % 4 != 0 || c.f 192 64 % 128 != 0 || c.f 400 11 == 0 || 1024 < c.f 400 11 ||
          c.f 413 3 != 0 || c.f 425 7 != 0 || c.metric == 3 || (!dbad && (c.descBad || metricBad c.vfmt c.metric)) then some (s.cmdReject n 4)
      else if dbad then some (s.cmdReject n (if c.k = 0 || 256 < c.k then 6 else 9))
      else if ebad then
        match s.checkSnap c (BitVec.ofNat 64 (c.d 0 64)) with
        | (_, .later) => none
        | (s, .reject st) => some (s.cmdReject n st)
        | (s, .pass _) => some (s.cmdReject n 9)
      else
        let home := c.nodeStack c.first
        if 256 ≤ s.dieQueue home && home != c.queue then none
        else some (s.updCmd n fun x => { x with forwarded := true, stack := home, queue := home })

/-- SEARCH_FORWARD (R311, R312). -/
def execSearchForward (cmd : Nat) (s : State) : Host.Outcome State Fault Refusal :=
  match s.cmds[cmd]? with
  | none => .next s
  | some c =>
    if !(c.live && !c.started && !c.forwarded && !s.streamBusy (s.wgOfCrew c.crew) c.stream c.order) then .next s
    else match s.dropCheck c with
      | (s', .trap i) => .next (s'.cmdDrop cmd c i)
      | (_, .wait _) => .next s
      | (s', .ok ()) => .next ((s'.frontCheck cmd c).getD s)

/-! ### The work of scans and row transfers -/

/-- One record of a scan (R66, R73, R84, R90). -/
def State.scanRecord (s : State) (c : Cmd) (j : Nat) : State × Chk Cmd :=
  let q := 1024 / c.z
  let strip := j % 64 + 64 * (j / (64 * q))
  let o := 1024 * strip + c.z * (j / 64 % q)
  let va := BitVec.ofNat 64 (c.f 0 64 - c.f 0 21 + o)
  match s.cmdRead c va (8 + c.vbytes) with
  | (s, .trap i) => (s, .trap { i with addr := va })
  | (s, .wait w) => (s, .wait w)
  | (s, .ok (bs, bad)) =>
    let c := { c with evals := c.evals + 1 }
    if bad || c.query == [] then (s, .ok { c with eccUe := true })
    else if visibleAt c.snapshot.toNat (leNat (bs.take 4)) (leNat ((bs.drop 4).take 4)) then
      let d := distance c.vfmt c.metric c.dim c.query (bs.drop 8)
      (s, .ok { c with heap := heapOffer c.flt c.k c.heap (d, BitVec.ofNat 32 (c.f 224 32 + j)) })
    else (s, .ok c)

/-- m records of a scan from record j on; a failed read ends the command (R435). -/
def State.scanRun (s : State) (c : Cmd) : Nat → Nat → Run Cmd
  | 0, _ => .ok s c
  | m + 1, j =>
    match s.scanRecord c j with
    | (s, .ok c) => s.scanRun c m (j + 1)
    | (s, .trap i) => .ok s { c with status := s.readStatus c i.addr }
    | (s, .wait _) => .busy s

/-- The 64-byte lines of n strips from a physical address. -/
def rowLines (pa n : Nat) : List Nat := (List.range (16 * n)).map (pa / 64 + ·)

/-- Every source line whose dirty copy a stash holds is written back, and each is demand-read (R87, R405); the transfer waits where one
cannot be written back (R53). -/
def State.rowPrepare (s : State) : List Nat → Run Unit
  | [] => .ok s ()
  | l :: r =>
    match s.dirFind l with
    | some (w, k) => match s.wbKeeper w k with
      | none => ((s.cleanLine w k).demand (64 * l) 2).rowPrepare r
      | some (v, i) => .busy (s.wbRequest v i)
    | none => (s.demand (64 * l) 2).rowPrepare r

/-- A destination line takes its bytes, poison with it; the write always counts (R85, R90, R391). -/
def State.rowPut (s : State) (line : Nat) (bs : List Byte) (bad : Bool) : State :=
  let s := s.perform (64 * line) bs true
  if bad then { s with poison := s.poison.insert line } else s

/-- Strip pairs that move in the DRAM (R86). -/
def Cmd.inDram (c : Cmd) (spa dpa m : Nat) : Nat :=
  if c.kind = 4 then m
  else ((List.range m).filter fun i =>
    let x := spa % 2 ^ 21 / 1024 + i
    let y := dpa % 2 ^ 21 / 1024 + i
    spa / 2 ^ 21 == dpa / 2 ^ 21 && x % 64 == y % 64 && x / 1024 == y / 1024).length

/-- A row transfer of m strips, as through a temporary buffer (R85 to R87, R90, R435); it waits where a line cannot be written back yet. -/
def State.rowRun (s : State) (c : Cmd) (m : Nat) : Run Cmd :=
  match s.resolve c.as none (c.fx 0) 1024 .engWrite, if c.kind = 3 then s.resolve c.as none (c.fx 64) 1024 .engRead else (s, .ok (.value [])) with
  | (s, .wait _), _ => .busy s
  | _, (s, .wait _) => .busy s
  | _, (s, .trap _) => .ok s { c with status := s.readStatus c (c.fx 64) }
  | (s, .trap _), _ => .ok s { c with status := match (s.nbPage c.as (c.fx 0) true).2 with | some (_, false) => 3 | _ => 1 }
  | (s, .ok dp), (_, .ok sp) =>
    let src := if c.kind = 3 then rowLines sp.first m else []
    (s.rowPrepare src).bind fun s () =>
      let dst := rowLines dp.first m
      match dst.findSome? fun l => s.demandBlocked (64 * l) 64 with
      | some (w, l) => .busy (s.wbRequest w l)
      | none =>
        let cells := if c.kind = 3 then src.map fun l => (s.viewBytes none (64 * l) 64, s.isPoison (64 * l))
          else dst.map fun _ => (List.replicate 64 0, false)
        let s := (dst.zip cells).foldl (fun s e => s.rowPut e.1 e.2.1 e.2.2) s
        let a := c.inDram sp.first dp.first m
        .ok s { c with countA := a, countB := m - a, eccUe := c.eccUe || cells.any (·.2) }

/-- How many records or strips were done when the deadline came is open (R90, R315; log 7). -/
def State.partDone (s : State) (n : Nat) : Nat := ((Config.freeByte s.free 0).toNat + 256 * (Config.freeByte s.free 1).toNat) % (n + 1)

/-- The work of a scan or row transfer, whole, or as far as its deadline let it come; once done it is not done again. What a deadline leaves done
is the first records from j0 on, or the first strips, in ascending order, the model's choice (log 7). -/
def State.cmdWork (s : State) (c : Cmd) : Run Cmd :=
  if c.rejected || c.worked || c.kind = 1 || (c.status != 0 && c.status != 8) then .ok s c
  else
    let m := if c.status = 8 then s.partDone c.n else c.n
    let s := if c.status = 8 then s.draw else s
    (if c.kind = 2 then s.scanRun c m c.j0 else s.rowRun c m).bind fun s c => .ok s { c with worked := true }

/-! ### Completion -/

/-- The completion record (R91, R329); fault_pc holds the low 32 bits of the walker's PC, the model's choice (log 90). -/
def Cmd.recordBytes (c : Cmd) (cyc : DWord) : List Byte :=
  let st := if c.status = 0 && c.eccUe then 9 else c.status
  let ca := if c.rejected then 0 else if c.ranks then c.heap.length else c.countA
  let walk := st = 7
  leBytes 1 st ++ leBytes 1 c.kind ++ leBytes 1 (c.found.getD c.stack) ++ [0] ++ bytesOf 4 c.snapshot ++ leBytes 2 ca ++ leBytes 2 c.countB ++
    leBytes 4 c.evals ++ leBytes 4 (if walk then c.faultPc.toNat else 0) ++
    bytesOf 4 (if walk then c.faultNode else 0xFFFFFFFF) ++ bytesOf 8 cyc

/-- A write of a completing command: done, failed, or again later. -/
def State.cmdWrite (s : State) (c : Cmd) (va : DWord) (bs : List Byte) : Run Unit :=
  match s.resolveRange c.as none va bs.length .engWrite with
  | (s, .trap i) => .fail s i
  | (s, .wait _) => .busy s
  | (s, .ok ps) => match s.blockedAll ps with
    | some (w, l) => .busy (s.wbRequest w l)
    | none => .ok (s.performAll ps bs) ()

/-- The order of R92: the list, the record, the object's increment. -/
def State.cmdFinish (s : State) (c : Cmd) : Run Unit :=
  let list := if c.ranks && !c.rejected then heapBytes c.flt c.k c.heap else []
  (if list = [] then .ok s () else s.cmdWrite c (c.out + 32) list).bind fun s () =>
    (s.cmdWrite c c.out (c.recordBytes s.cyc)).bind fun s () =>
      match s.boAdvance (some c.core) c.as c.bo c.inc with
      | (s, .trap i) => .fail s i
      | (s, .wait _) => .busy s
      | (s, .ok ()) => .ok s ()

/-- The deadline of a command has come (R89). -/
def State.cmdLate (s : State) (c : Cmd) : Bool := match c.deadline with | some d => promiseDue s.cyc d | none => false

/-- The work of a SEARCH is over: a status ended it, or its last walker has ended and its offers have reached the heap (R83, R90). -/
def State.searchOver (s : State) (n : Nat) (c : Cmd) : Bool :=
  c.kind != 1 || c.rejected || c.status != 0 || (c.offers == [] && s.walkers.all fun w => w.cmd != n || w.phase == .done)

/-- BASIN_COMMAND_COMPLETE (R83 to R87, R90 to R92, R435). -/
def execBasinCommandComplete (cmd : Nat) (s : State) : Host.Outcome State Fault Refusal :=
  match s.cmds[cmd]? with
  | none => .next s
  | some c =>
    if !(c.live && c.started) || !s.searchOver cmd c || (c.status == 0 && !c.worked && s.cmdLate c) then .next s
    else match s.cmdWork c with
      | .ok s' c' =>
        match s'.cmdFinish c' with
        | .ok s' () => .next ((s'.updCmd cmd fun _ => c').cmdLeave cmd c')
        | .fail s' i => .next ((s'.updCmd cmd fun _ => c').cmdDrop cmd c' i)
        | .busy s' => .next (s'.updCmd cmd fun _ => c')
        | _ => .next s
      | .busy s' => .next s'
      | _ => .next s

/-- BASIN_COMMAND_TIMEOUT (R89, R90, R315): CYC has reached the deadline of a running command. -/
def execBasinCommandTimeout (cmd : Nat) (s : State) : Host.Outcome State Fault Refusal :=
  match s.cmds[cmd]? with
  | none => .next s
  | some c =>
    if c.live && c.started && !c.rejected && !c.worked && c.status == 0 && s.cmdLate c then
      .next ((s.updCmd cmd fun x => { x with status := 8 }).endWalkers cmd)
    else .next s

/-- The walkers of a command whose last offers have reached the heap end (R326). -/
def State.offersReached (s : State) (cmd merged : Nat) : State :=
  { s with walkers := s.walkers.map fun (w : Walker) =>
      if w.cmd = cmd && w.phase == .ending && w.last ≤ merged then { w with phase := .done } else w }

/-- HEAP_OFFER (R77, R321, R326): the oldest offer reaches the heap. -/
def execHeapOffer (cmd : Nat) (s : State) : Host.Outcome State Fault Refusal :=
  match s.cmds[cmd]? with
  | none => .next s
  | some c =>
    match c.offers with
    | x :: rest =>
      if c.live && c.status == 0 then 
        .next ((s.updCmd cmd fun y =>
          { y with heap := heapOffer c.flt c.k c.heap x, offers := rest, merged := c.merged + 1 }).offersReached cmd (c.merged + 1))
      else .next s
    | [] => .next s

end Sys2Proof.Machine
end

