-- ==== Sys2Proof/Machine/Collect.lean ====
section
/-! DEFINITION. Crew collectives (R35, R36, R214, R226 to R231), their rendezvous, and the exit of a thread (R211), which may
complete one. -/

namespace Sys2Proof.Machine

/-- An empty header, for comparing instructions by opcode and c alone. -/
def hdr0 : Hdr := ⟨0, false, 0, false⟩

/-- What two collectives must share: opcode and c (R36). -/
def collKey : Instr → Instr
  | .packbfp _ _ m => .packbfp hdr0 .zero m
  | .unpackbfp _ _ m => .unpackbfp hdr0 .zero m
  | .hadam _ _ m => .hadam hdr0 .zero m
  | .shfl _ _ _ m lg b => .shfl hdr0 .zero .zero m lg b
  | .bcast _ _ t b => .bcast hdr0 .zero t b
  | .redux _ _ op ty rm => .redux hdr0 .zero op ty rm
  | .scan _ _ op ty rm e => .scan hdr0 .zero op ty rm e
  | .matchv _ _ al b => .matchv hdr0 .zero al b
  | .vote _ q neg m => .vote hdr0 q neg m
  | i => i

/-- Header, first source and width of a collective; whether its destination is a pair or a predicate. -/
def collHdr : Instr → Hdr
  | .packbfp h _ _ => h
  | .unpackbfp h _ _ => h
  | .hadam h _ _ => h
  | .shfl h _ _ _ _ _ => h
  | .bcast h _ _ _ => h
  | .redux h _ _ _ _ => h
  | .scan h _ _ _ _ _ => h
  | .matchv h _ _ _ => h
  | .vote h _ _ _ => h
  | _ => hdr0
def collA : Instr → Src
  | .packbfp _ a _ => a
  | .unpackbfp _ a _ => a
  | .hadam _ a _ => a
  | .shfl _ a _ _ _ _ => a
  | .bcast _ a _ _ => a
  | .redux _ a _ _ _ => a
  | .scan _ a _ _ _ _ => a
  | .matchv _ a _ _ => a
  | _ => .zero
def collWide : Instr → Bool
  | .shfl _ _ _ _ _ b => b
  | .bcast _ _ _ b => b
  | .redux _ _ _ ty _ => ty == .s64
  | .scan _ _ _ ty _ _ => ty == .s64
  | .matchv _ _ _ b => b
  | _ => false
def collDst (i : Instr) : Dst :=
  let d := (collHdr i).d
  match i with
  | .matchv _ _ _ _ => .v d
  | .vote _ _ _ m => if m == .ballot then .v d else .p d
  | _ => if collWide i then .x d else .v d

/-- The value of a source by width. -/
def Regs.rw (r : Regs) (wide : Bool) (a : Src) : DWord := if wide then r.rx a else zext64 (r.rv a)

/-- A thread's part at a rendezvous. -/
structure Party where
  thread : Nat
  instr  : Instr
  active : Bool
  deriving DecidableEq, Repr

/-- The arrived thread of a crew with number i, if it has not exited. -/
def State.partAt (s : State) (c i : Nat) : Option Party :=
  let t := (s.crew c).base + i
  match (s.thr t).st with
  | .waiting (.coll ins g _ _) => some ⟨t, ins, g⟩
  | _ => none

/-- Thread i's contribution to data movement: an inactive thread supplies its register, or zero for a latch or z; an exited one
zero (R226). -/
def State.contrib (s : State) (c i : Nat) : DWord :=
  match s.partAt c i with
  | some p =>
    let a := collA p.instr
    let r := (s.thr p.thread).r
    if p.active then r.rw (collWide p.instr) a
    else match a with | .v _ => r.rw (collWide p.instr) a | _ => 0
  | none => 0

/-- Thread i's contribution to a reduction: an inactive or exited thread supplies the identity (R226). -/
def State.contribOr (s : State) (c i : Nat) (id : DWord) : DWord :=
  match s.partAt c i with
  | some p => if p.active then (s.thr p.thread).r.rw (collWide p.instr) (collA p.instr) else id
  | none => id

/-- The thread with number i is active at the rendezvous. -/
def State.activeAt (s : State) (c i : Nat) : Bool :=
  match s.partAt c i with
  | some p => p.active
  | none => false

/-- Identities of R228. -/
def redId (op : RedOp) (ty : RedTy) : DWord :=
  match op, ty with
  | .add, .f32 => 0x80000000
  | .add, _ => 0
  | .min, .s32 => 0x7FFFFFFF
  | .min, .u32 => 0xFFFFFFFF
  | .min, .f32 => 0x7F800000
  | .min, .s64 => 0x7FFFFFFFFFFFFFFF
  | .max, .s32 => 0x80000000
  | .max, .u32 => 0
  | .max, .f32 => 0xFF800000
  | .max, .s64 => 0x8000000000000000
  | .and, .s64 => 0xFFFFFFFFFFFFFFFF
  | .and, _ => 0xFFFFFFFF
  | _, _ => 0

/-- One step of a reduction with its flags (R228). -/
def redStep (op : RedOp) (ty : RedTy) (rm : Rnd) (ftz : Bool) (a b : DWord) : DWord × BitVec 9 :=
  let lt := match ty with
    | .s32 => (a.setWidth 32).slt (b.setWidth 32)
    | .s64 => a.slt b
    | _ => a.ult b
  match op with
  | .add =>
    match ty with
    | .f32 => let r := f32.add rm ftz a.toNat b.toNat; (BitVec.ofNat 64 r.pat, r.fl)
    | .s64 => (a + b, 0)
    | _ => (((a + b).setWidth 32).setWidth 64, 0)
  | .min => if ty == .f32 then let r := f32.minmax false false ftz a.toNat b.toNat; (BitVec.ofNat 64 r.pat, r.fl)
            else (if lt then a else b, 0)
  | .max => if ty == .f32 then let r := f32.minmax true false ftz a.toNat b.toNat; (BitVec.ofNat 64 r.pat, r.fl)
            else (if lt then b else a, 0)
  | .and => (a &&& b, 0)
  | .or => (a ||| b, 0)
  | .xor => (a ^^^ b, 0)

/-- One level of the pairwise tree of REDUX (R228). -/
def redLevel (f : DWord → DWord → DWord × BitVec 9) : List DWord → List DWord × BitVec 9
  | a :: b :: r =>
    let x := f a b
    let y := redLevel f r
    (x.1 :: y.1, x.2 ||| y.2)
  | l => (l, 0)

/-- REDUX over the 32 contributions in thread order (R228). -/
def reduceTree (f : DWord → DWord → DWord × BitVec 9) (l : List DWord) : DWord × BitVec 9 :=
  let r := (List.range 5).foldl (fun (acc : List DWord × BitVec 9) _ =>
    let x := redLevel f acc.1; (x.1, acc.2 ||| x.2)) (l, 0)
  (r.1.headD 0, r.2)

/-- SCAN: the running results and flags (R228). -/
def scanList (f : DWord → DWord → DWord × BitVec 9) : DWord × BitVec 9 → List DWord → List (DWord × BitVec 9)
  | _, [] => []
  | u, t :: r => let x := f u.1 t; let y := (x.1, u.2 ||| x.2); y :: scanList f y r

/-- SHFL's source thread (R227); none when it is not valid. -/
def shflSrc (mode : ShflMode) (lg : Nat) (i n : Nat) : Option Nat :=
  let N := 2 ^ (5 - lg)
  let base := i - i % N
  match mode with
  | .idx => some (base + n % N)
  | .up => if n < 32 && base + n ≤ i then some (i - n) else none
  | .down => if n < 32 && i + n < base + N then some (i + n) else none
  | .xor => some (i ^^^ (n % N))

/-- The words of a packed block across the crew (R230). -/
def packWord (bfp4 : Bool) (els : List Nat) (e0 e1 : Nat) (i : Nat) : Nat :=
  if bfp4 then
    if i < 4 then (List.range 8).foldl (fun a j => a + els.getD (8 * i + j) 0 * 16 ^ j) 0
    else if i = 4 then e0 + 256 * e1 else 0
  else
    if i < 8 then (List.range 4).foldl (fun a j => a + els.getD (4 * i + j) 0 * 256 ^ j) 0
    else if i = 8 then e0 + 256 * e1 else 0

/-- Element i and the exponents read from the words of the crew (R230). -/
def unpackElem (bfp4 : Bool) (w : Nat → Nat) (i : Nat) : Nat × Nat × Nat :=
  if bfp4 then (w (i / 8) / 16 ^ (i % 8) % 16, w 4 % 256, w 4 / 256 % 256)
  else (w (i / 4) / 256 ^ (i % 4) % 256, w 8 % 256, w 8 / 256 % 256)

/-- The result and flags that a collective gives to active thread i (R214, R227 to R231), under the NUMCFG of its first arrival
(R226). A minimum or maximum of SCAN is over the contributions of its range alone (R228; log 57). -/
def State.collRes (s : State) (c : Nat) (ftz : Bool) (spread : Nat) (ins : Instr) (i : Nat) : DWord × BitVec 9 :=
  match ins with
  | .packbfp _ _ m =>
    let xs := (List.range 32).map fun j => f32.val ftz ((s.contrib c j).toNat)
    let (els, e0, e1) := quantise m spread xs
    (BitVec.ofNat 64 (packWord m els e0 e1 i), 0)
  | .unpackbfp _ _ m =>
    let (el, e0, e1) := unpackElem m (fun j => (s.contrib c j).toNat) i
    (BitVec.ofNat 64 (f32.flushIn ftz (bfpTo f32 m el e0 e1)), 0)
  | .hadam _ _ m =>
    let lo := if m then i / 16 * 16 else 0
    let ys := (List.range (if m then 16 else 32)).map fun j => (s.contrib c (lo + j)).toNat
    let r := hadamard (f32.add .rne ftz) (f32.sub .rne ftz) (if m then 4 else 5) ys
    (BitVec.ofNat 64 (r.1.getD (i - lo) 0), r.2)
  | .shfl _ a b mode lg wide =>
    let r := (s.thr ((s.crew c).base + i)).r
    match shflSrc mode lg.toNat i (r.rv b).toNat with
    | some j => (s.contrib c j, 0)
    | none => (r.rw wide a, 0)
  | .bcast _ _ t _ => (s.contrib c t.toNat, 0)
  | .redux _ _ op ty rm =>
    reduceTree (redStep op ty rm ftz) ((List.range 32).map fun j => s.contribOr c j (redId op ty))
  | .scan _ _ op ty rm excl =>
    let ts := (List.range 32).map fun j => s.contribOr c j (redId op ty)
    let u := if op == .min || op == .max then ts.headD 0 else redId op ty
    let us := (redId op ty, 0) :: scanList (redStep op ty rm ftz) (u, 0) ts
    us.getD (if excl then i else i + 1) (0, 0)
  | .matchv _ _ al _ =>
    let act := (List.range 32).filter fun j => s.activeAt c j
    let mask := fun (l : List Nat) => BitVec.ofNat 64 (l.foldl (fun a j => a + 2 ^ j) 0)
    if al then (if act.all fun j => s.contrib c j == s.contrib c i then mask act else 0, 0)
    else (mask (act.filter fun j => s.contrib c j == s.contrib c i), 0)
  | .vote _ q neg m =>
    let act := (List.range 32).filter fun j => s.activeAt c j
    let t := fun j => (s.thr ((s.crew c).base + j)).r.pred q != neg
    match m with
    | .any => (if act.any t then 1 else 0, 0)
    | .all => (if act.all t then 1 else 0, 0)
    | .eq => (if act.all (fun j => t j == t i) then 1 else 0, 0)
    | .ballot => (BitVec.ofNat 64 ((act.filter t).foldl (fun a j => a + 2 ^ j) 0), 0)
  | _ => (0, 0)

/-- A destination receives a value. -/
def Regs.setDst (r : Regs) (d : Dst) (x : DWord) : Regs :=
  match d with
  | .v d => r.setV d.toNat (x.setWidth 32)
  | .x d => r.setX d.toNat x
  | .p d => r.setP (d.setWidth 4) (x.getLsbD 0)
  | _ => r

/-- A matching collective takes effect for all arrived threads at once: only active threads write (R35). -/
def State.collective (s : State) (c : Nat) (ftz : Bool) (spread : Nat) : State :=
  let res := (List.range 32).map fun i => (s.partAt c i).map fun p => (p, s.collRes c ftz spread p.instr i)
  res.foldl (fun s o =>
    match o with
    | some (p, x, fl) => s.updThr p.thread fun y =>
        let y := if p.active then { y with r := y.r.setDst (collDst p.instr) x, status := y.status ||| fl } else y
        y.goOn s.cyc.toNat none
    | none => s) s

/-- The rendezvous of a crew once every non-exited thread has arrived at one: it completes, or does not match (R32, R35, R36). -/
def State.tryRdv (s : State) (c : Nat) : State :=
  let rs := (s.live c).map fun t => rdvOf (s.thr t)
  match rs with
  | [] => s
  | .none :: _ => s
  | .elect :: r => if r.contains .none then s else if r.all (· == .elect) then s.election c else s.mismatch c
  | .cbar :: r =>
    if r.contains .none then s
    else if r.all (· == .cbar) then (s.live c).foldl (fun s t => s.updThr t fun x => x.goOn s.cyc.toNat none) s
    else s.mismatch c
  | .coll i _ ftz spread :: r =>
    if r.contains .none then s
    else if r.all (fun x => match x with | .coll j _ _ _ => collKey j == collKey i | _ => false) then s.collective c ftz spread
    else s.mismatch c

/-- The last non-exited thread of a listed crew exits while a member waits at the cinch latch: every leader waiting there raises
ILLEGAL_COLLECTIVE, and nothing is posted (R37, R277). -/
def State.cinchExit (s : State) (c : Nat) : State :=
  if s.live c != [] then s
  else
    let s : State := { s with joints := s.joints.map fun j => if j.posted.isNone && j.crews.contains c then { j with live := false } else j }
    (s.wgCrews (s.crew c).wg).foldl (fun s k =>
    if (s.crew k).members.contains (s.crew c).num then
      (s.live k).foldl (fun s t => match (s.thr t).st with
        | .waiting (.cinch _ seq) =>
          (s.stopThread t 0 { cause := .illegalCollective } (s.thr t).r.pc (s.thr t).r.pc).countDone k 2 seq
        | _ => s) s
    else s) s

/-- EXIT (R211): the thread ends and leaves every rendezvous and barrier. -/
def State.exitThread (s : State) (t : Nat) : State :=
  let c := s.crewOf t
  let w := s.wgOf t
  ((((s.exitOne t).tryRdv c).cinchExit c).tryWgbar w).tryTilebar w

/-- NUMCFG at the first arrival of the rendezvous the crew has open, else now (R226). -/
def State.rdvCfg (s : State) (c : Nat) : Bool × Nat :=
  match (s.live c).findSome? fun t => match (s.thr t).st with | .waiting (.coll _ _ f sp) => some (f, sp) | _ => none with
  | some x => x
  | none => ((s.part s.curAs.part).ftz, (s.part s.curAs.part).spread)

/-- A thread arrives at a collective; a leader raises ILLEGAL_COLLECTIVE (R34, R36). -/
def arrive (ins : Instr) (s : State) (r : Regs) : Res :=
  if s.isLeader s.t then .trap s { cause := .illegalCollective }
  else
    let c := s.crewOf s.t
    let cfg := s.rdvCfg c
    .stay ((s.hold (.coll ins (r.guard (collHdr ins)) cfg.1 cfg.2)).tryRdv c)

/-- The issue of a collective: it takes part whatever its guard (R167). -/
def issColl (ins : Instr) (ops : List Opd) (s : State) : Host.Outcome State Fault Refusal :=
  s.issueI ⟨{ brk := true, coll := true }, collHdr ins, ops, collDst ins⟩ (arrive ins)

/-- PACKBFP (R230). -/
def execPackbfp (h : Hdr) (a : Src) (bfp4 : Bool) (s : State) := issColl (.packbfp h a bfp4) [.v a] s
/-- UNPACKBFP (R230). -/
def execUnpackbfp (h : Hdr) (a : Src) (bfp4 : Bool) (s : State) := issColl (.unpackbfp h a bfp4) [.v a] s
/-- HADAM (R231). -/
def execHadam (h : Hdr) (a : Src) (h16 : Bool) (s : State) := issColl (.hadam h a h16) [.v a] s
/-- SHFL (R227). -/
def execShfl (h : Hdr) (a b : Src) (mode : ShflMode) (lg : BitVec 3) (b64 : Bool) (s : State) :=
  issColl (.shfl h a b mode lg b64) [if b64 then .x a else .v a, .vi b] s
/-- BCAST (R227). -/
def execBcast (h : Hdr) (a : Src) (t : BitVec 5) (b64 : Bool) (s : State) :=
  issColl (.bcast h a t b64) [if b64 then .x a else .v a] s
/-- REDUX (R228). -/
def execRedux (h : Hdr) (a : Src) (op : RedOp) (ty : RedTy) (rm : Rnd) (s : State) :=
  issColl (.redux h a op ty rm) [if ty == .s64 then .x a else .v a] s
/-- SCAN (R228). -/
def execScan (h : Hdr) (a : Src) (op : RedOp) (ty : RedTy) (rm : Rnd) (excl : Bool) (s : State) :=
  issColl (.scan h a op ty rm excl) [if ty == .s64 then .x a else .v a] s
/-- MATCH (R229). -/
def execMatchv (h : Hdr) (a : Src) (all b64 : Bool) (s : State) :=
  issColl (.matchv h a all b64) [if b64 then .x a else .v a] s
/-- VOTE (R214). -/
def execVote (h : Hdr) (q : BitVec 4) (neg : Bool) (mode : VoteMode) (s : State) := issColl (.vote h q neg mode) [] s

end Sys2Proof.Machine
end

