-- ==== Sys2Proof/Machine/Logic.lean ====
section
/-! DEFINITION. Class 1: logic, shifts, bit fields, compares, predicates, moves and special registers (R201 to R207). -/

namespace Sys2Proof.Machine

/-- Shifts of R202 at width w; an amount of w or more gives zeros, or copies of the sign. -/
def shlBy {w : Nat} (a : BitVec w) (n : Word) : BitVec w := a <<< n.toNat
def shrBy {w : Nat} (a : BitVec w) (n : Word) : BitVec w := a >>> n.toNat
def sarBy {w : Nat} (a : BitVec w) (n : Word) : BitVec w := a.sshiftRight n.toNat

/-- ROT (R202). -/
def rotBy (right : Bool) (a n : Word) : Word :=
  if right then a.rotateRight (n.toNat % 32) else a.rotateLeft (n.toNat % 32)

/-- Numbers of bits (R201). -/
def popCount (a : Word) : Word := BitVec.ofNat 32 (((List.range 32).filter fun i => a.getLsbD i).length)
def leadZeros (a : Word) : Word := BitVec.ofNat 32 (((List.range 32).takeWhile fun i => !a.getLsbD (31 - i)).length)
def trailZeros (a : Word) : Word := BitVec.ofNat 32 (((List.range 32).takeWhile fun i => !a.getLsbD i).length)

/-- BFE (R202). -/
def fieldOf (pos : BitVec 5) (len : BitVec 6) (sgn : Bool) (a : Word) : Word :=
  let k := min len.toNat (32 - pos.toNat)
  if k = 0 then 0
  else
    let f := a.toNat / 2 ^ pos.toNat % 2 ^ k
    if sgn && f / 2 ^ (k - 1) % 2 == 1 then BitVec.ofNat 32 (f + 2 ^ 32 - 2 ^ k) else BitVec.ofNat 32 f

/-- BFI (R202): the field of A is placed into B. -/
def insertField (pos : BitVec 5) (len : BitVec 6) (a b : Word) : Word :=
  let k := min len.toNat (32 - pos.toNat)
  let m : Word := BitVec.ofNat 32 ((2 ^ k - 1) * 2 ^ pos.toNat)
  (b &&& ~~~m) ||| ((a <<< pos.toNat) &&& m)

/-- BYSEL (R202). -/
def byteSel (sel : BitVec 12) (a b : Word) : Word :=
  let byte := fun i =>
    let j := bits sel (2 * i) 2
    ((if sel.getLsbD (8 + i) then b else a).extractLsb' (8 * j) 8).toNat
  BitVec.ofNat 32 (byte 0 + 256 * byte 1 + 65536 * byte 2 + 16777216 * byte 3)

/-- Conditions of ICMP and ICMP64 (R203). -/
def icond {w : Nat} (c : ICond) (u : Bool) (a b : BitVec w) : Bool :=
  let lt := if u then a.ult b else a.slt b
  let gt := if u then b.ult a else b.slt a
  match c with
  | .eq => a == b
  | .ne => a != b
  | .lt => lt
  | .le => !gt
  | .gt => gt
  | .ge => !lt

/-- The combining predicate (R203). -/
def combine (r : Regs) (x : Bool) : Comb → Bool
  | .none => x
  | .and q => x && r.pred q
  | .or q => x || r.pred q

/-- AND (R201). -/
def execAnd (h : Hdr) (a b : Src) (s : State) := issV2 h a b s (· &&& ·)
/-- OR (R201). -/
def execOr (h : Hdr) (a b : Src) (s : State) := issV2 h a b s (· ||| ·)
/-- XOR (R201). -/
def execXor (h : Hdr) (a b : Src) (s : State) := issV2 h a b s (· ^^^ ·)
/-- NOT (R201). -/
def execNot (h : Hdr) (a : Src) (s : State) := issV1 h a s (~~~ ·)
/-- ANDN (R201). -/
def execAndn (h : Hdr) (a b : Src) (s : State) := issV2 h a b s fun a b => a &&& ~~~b
/-- SHL (R202). -/
def execShl (h : Hdr) (a b : Src) (s : State) := issV2 h a b s shlBy
/-- SHR (R202). -/
def execShr (h : Hdr) (a b : Src) (s : State) := issV2 h a b s shrBy
/-- SAR (R202). -/
def execSar (h : Hdr) (a b : Src) (s : State) := issV2 h a b s sarBy
/-- ROT (R202). -/
def execRot (h : Hdr) (a b : Src) (r : Bool) (s : State) := issV2 h a b s (rotBy r)
/-- SHL64 (R202). -/
def execShl64 (h : Hdr) (a b : Src) (s : State) := issXS h a b s shlBy
/-- SHR64 (R202). -/
def execShr64 (h : Hdr) (a b : Src) (s : State) := issXS h a b s shrBy
/-- SAR64 (R202). -/
def execSar64 (h : Hdr) (a b : Src) (s : State) := issXS h a b s sarBy
/-- POPC (R201). -/
def execPopc (h : Hdr) (a : Src) (s : State) := issV1 h a s popCount
/-- CLZ (R201). -/
def execClz (h : Hdr) (a : Src) (s : State) := issV1 h a s leadZeros
/-- CTZ (R201). -/
def execCtz (h : Hdr) (a : Src) (s : State) := issV1 h a s trailZeros
/-- BREV (R201). -/
def execBrev (h : Hdr) (a : Src) (s : State) := issV1 h a s BitVec.reverse
/-- BFE (R202). -/
def execBfe (h : Hdr) (a : Src) (pos : BitVec 5) (len : BitVec 6) (sgn : Bool) (s : State) := issV1 h a s (fieldOf pos len sgn)
/-- BFI (R202). -/
def execBfi (h : Hdr) (a b : Src) (pos : BitVec 5) (len : BitVec 6) (s : State) := issV2 h a b s (insertField pos len)
/-- BYSEL (R202). -/
def execBysel (h : Hdr) (a b : Src) (sel : BitVec 12) (s : State) := issV2 h a b s (byteSel sel)
/-- ICMP (R203). -/
def execIcmp (h : Hdr) (a b : Src) (cond : ICond) (u : Bool) (comb : Comb) (s : State) :=
  s.issueI ⟨aLane, h, [.v a, .vi b], .p h.d⟩ fun s r => .p s (combine r (icond cond u (r.rv a) (r.rv b)) comb)
/-- ICMP64 (R203). -/
def execIcmp64 (h : Hdr) (a b : Src) (cond : ICond) (u : Bool) (comb : Comb) (s : State) :=
  s.issueI ⟨aLane, h, [.x a, .xi b], .p h.d⟩ fun s r => .p s (combine r (icond cond u (r.rx a) (r.rx b)) comb)
/-- PLOG (R204). -/
def execPlog (h : Hdr) (pa pb lut : BitVec 4) (s : State) :=
  s.issueI ⟨aLane, h, [], .p h.d⟩ fun s r => .p s (lut.getLsbD (2 * (r.pred pa).toNat + (r.pred pb).toNat))
/-- MOV (R201). -/
def execMov (h : Hdr) (a : Src) (s : State) := issV1 h a s id
/-- MOV64 (R201). -/
def execMov64 (h : Hdr) (a : Src) (s : State) := s.issueI ⟨aLane, h, [.x a], .x h.d⟩ fun s r => .x s (r.rx a)
/-- SEL (R204). -/
def execSel (h : Hdr) (a b : Src) (q : BitVec 4) (neg : Bool) (s : State) :=
  s.issueI ⟨aLane, h, [.v a, .vi b], .v h.d⟩ fun s r => .v s (if r.pred q != neg then r.rv a else r.rv b)
/-- P2V (R204). -/
def execP2v (h : Hdr) (s : State) := s.issueI ⟨aLane, h, [], .v h.d⟩ fun s r => .v s (r.predBits.setWidth 32)
/-- V2P (R204). -/
def execV2p (h : Hdr) (a b : Src) (s : State) :=
  s.issueI ⟨aLane, h, [.v a, .vi b], .none⟩ fun s r =>
    let m : BitVec 16 := (r.rv b).setWidth 16 &&& 0xFFFE
    .none (s.updRegs fun r' => { r' with p := (r'.p &&& ~~~m) ||| ((r.rv a).setWidth 16 &&& m) })

/-! ### Special and scalar registers (R205 to R207) -/

/-- %gang (R265). -/
def Crew.gangReg (c : Crew) : DWord :=
  BitVec.ofNat 64 ((c.members.zip (List.range 6)).foldl (fun a (m, i) => a + m * 16 ^ i) 0 + c.members.length * 2 ^ 24 +
    c.idx * 2 ^ 27 + c.wf.toNat * 2 ^ 30 + c.tl.toNat * 2 ^ 31)

/-- %lmask: the non-exited threads of the crew (R206). -/
def State.lmask (s : State) (c : Nat) : DWord :=
  BitVec.ofNat 64 (((List.range 32).filter fun i => !s.hasExited ((s.crew c).base + i)).foldl (fun a i => a + 2 ^ i) 0)

/-- POOL_CFG of a core (R47). -/
def CoreSt.poolCfg (c : CoreSt) : DWord := BitVec.ofNat 64 (c.pb1 + c.pb2 * 2 ^ 16 + c.pb3 * 2 ^ 32)

/-- NUMCFG and TCFG of a partition (R61, R134). -/
def Part.numcfg (p : Part) : DWord := BitVec.ofNat 64 (p.ftz.toNat + 16 * p.spread)
def Part.tcfg (p : Part) : DWord := BitVec.ofNat 64 p.ut.toNat

/-- The value of a special register for a thread; none where the number names no register (R206). -/
def State.special (s : State) (t : Nat) (n : BitVec 8) : Option DWord :=
  let c := s.crewOf t
  let w := s.wg (s.wgOf t)
  let l := s.launch (s.launchOf t)
  let nat := fun (x : Nat) => some (BitVec.ofNat 64 x)
  match n.toNat with
  | 0x00 => nat w.wx
  | 0x01 => nat w.wy
  | 0x02 => nat w.wz
  | 0x03 => nat l.w
  | 0x04 => nat l.h
  | 0x05 => nat l.d
  | 0x06 => nat (coreX w.core)
  | 0x07 => nat (coreY w.core)
  | 0x08 => nat (coreDie w.core)
  | 0x09 => nat (coreCluster w.core)
  | 0x0A => nat (s.crew c).num
  | 0x0B => nat w.ncrew
  | 0x0C => nat (s.quadOf c)
  | 0x0D => nat (s.thr t).num
  | 0x0E => nat (s.laneOf t)
  | 0x0F => nat w.prio
  | 0x10 => some s.cyc
  | 0x11 => some (s.crew c).vtim
  | 0x12 => some (s.crew c).vtcmp
  | 0x13 => some (zext64 (s.thr t).status)
  | 0x14 => some (s.core w.core).poolCfg
  | 0x15 => some (s.part l.part).numcfg
  | 0x16 => some (s.part l.part).tcfg
  | 0x17 => some (s.crew c).gangReg
  | 0x18 => some (s.lmask c)
  | 0x19 => some (zext64 s.links.pkg)
  | 0x1A => nat l.regcnt
  | 0x1B => nat (l.stash4k * 4096)
  | _ => none

/-- Registers of R206 that hold 64 bits: a 32-bit write to one is zero-extended (R205). -/
def sreadVal (s : State) (r : SpecOp) : Option DWord :=
  match r with
  | .scalar n => some ((s.crew (s.crewOf s.t)).s.get n.toNat)
  | .special n => s.special s.t n

/-- SREAD (R205): every read of one issue returns the value from before it (R207); the issue's threads run in lane order, and
an SREAD writes no special register. -/
def execSread (h : Hdr) (r : SpecOp) (b64 : Bool) (s : State) :=
  s.issueI ⟨{}, h, [], if b64 then .x h.d else .v h.d⟩ fun s _ =>
    match sreadVal s r with
    | none => .trap s { cause := .illegalOperand }
    | some x => if b64 then .x s x else .v s (x.setWidth 32)

/-- SWRITE (R205): %vtcmp, %status and s0 to s63 are writable; the threads of an issue run in lane order, so the highest %tid
is kept (R207). -/
def execSwrite (h : Hdr) (r : SpecOp) (b64 : Bool) (a : Src) (s : State) :=
  s.issueI ⟨{}, h, [if b64 then .x a else .v a], .none⟩ fun s g =>
    let x := if b64 then g.rx a else zext64 (g.rv a)
    match r with
    | .scalar n => .none (s.updCrew (s.crewOf s.t) fun c => { c with s := c.s.set n.toNat x })
    | .special n =>
      match n.toNat with
      | 0x12 => .none (s.updCrew (s.crewOf s.t) fun c => { c with vtcmp := x })
      | 0x13 => .none (s.updThr s.t fun y => { y with status := statusWrite y.status x })
      | _ => .trap s { cause := .illegalOperand }

end Sys2Proof.Machine
end

