-- ==== Sys2Proof/Machine/RemoteOwner.lean ====
section
/-! DEFINITION. The owner's side of the remote path (R123, R125, R394, R395), the reduction tree (R261) and fabric failures
(R252, R413). -/

namespace Sys2Proof.Machine

/-- The owner's address space for a partition: its exported context at user level (R394). -/
def State.ownerAs (s : State) (q : Nat) : As := ⟨q, bits (s.part q).xcfg 16 16, false, none⟩

/-- Partition q serves a package (R394, step 1). -/
def State.serves (s : State) (q : Nat) (src : BitVec 11) : Bool :=
  (s.part q).xcfg.getLsbD 0 && ((s.part q).xperm.get (src.toNat / 64)).getLsbD (src.toNat % 64)

/-- The key of a shadow entry (R394). -/
def Shadow.fits (x : Shadow) (p : RPacket) : Bool :=
  x.src == p.src && x.core == p.core && x.lane == p.lane && x.line == p.va.toNat / 64

/-- The next ticket id: ascending with wrap, held by no live ticket and never 0xFFFF (R394). -/
def nextId (live : List (BitVec 16)) : Nat → BitVec 16 → BitVec 16
  | 0, x => x
  | n + 1, x => if x == 0xFFFF || live.contains x then nextId live n (x + 1) else x

/-- A new ticket without its shadow entry: the service record of its cause is written (R394, R396). -/
def State.newTicket (s : State) (q : Nat) (src : BitVec 11) (acc : Nat) (va : DWord) (cause : Option Nat) (write : Bool)
    (mig : Option Nat) : State × BitVec 16 :=
  let ctx := (s.ownerAs q).ctx
  let id := nextId (s.tickets.map (·.id)) 65536 s.tkNext
  let s := { s with
    tickets := s.tickets ++ [{ id := id, part := q, ctx := ctx, va := va, mig := mig, notified := false, src := src, head := acc }],
    tkNext := id + 1 }
  let s := match cause with
    | some c => s.updPart q fun x =>
        { x with svc := x.svc ++ [{ id := id.toNat, cause := c, write := write, pkg := src.toNat, ctx := ctx, va := va, len := 0,
                                    cyc := s.cyc }] }
    | none => s
  (s, id)

/-- A ticket and its shadow end. -/
def State.dropTicket (s : State) (src : BitVec 11) (id : BitVec 16) : State :=
  { s with tickets := s.tickets.filter fun t => !(t.src == src && t.id == id),
           shadows := s.shadows.filter fun x => !(x.src == src && x.tkid == id) }

/-- A ticket ends aborted: its shadow answers every later arrival with the same abort (R395). -/
def State.abortTicket (s : State) (t : Ticket) (acc : Nat) : State :=
  ({ s with tickets := s.tickets.filter (· != t),
            shadows := s.shadows.map fun x => if x.src == t.src && x.tkid == t.id then { x with aborted := true } else x } :
    State).send t.src (.abort acc t.id)

/-- A replayed access has ended at the owner: the first of them, the head, ends the ticket and its shadow (R121, R395). -/
def State.replayDone (s : State) (p : RPacket) : State :=
  match p.replay with
  | none => s
  | some id => s.dropTicket p.src id

/-- The owner's tables have no room for some new tickets with their shadows (R394). -/
def State.ticketsFull (s : State) (n : Nat) : Bool := 4096 < s.tickets.length + n || 4096 < s.shadows.length + n

/-- A message may take n tickets: there is room, and no other waits before it (R394). -/
def State.ticketRoom (s : State) (m : FabMsg) (n : Nat) : Bool :=
  n == 0 || (!s.ticketsFull n && ((s.tkWait.filter fun x => s.fabric.contains x).head?.all (· == m)))

/-- A message waits for a ticket behind those that wait already (R394). -/
def State.ticketLater (s : State) (m : FabMsg) : State := if s.tkWait.contains m then s else { s with tkWait := s.tkWait ++ [m] }

/-- The old value and the performance of an access at its place (R244, R248, R253). -/
def ownerPerform (s : State) (p : RPacket) (pl : Place) : State × ROutcome :=
  let s := s.demandPlace pl
  if s.placeBad pl && p.hold then (s, .poison)
  else
    let old := dwOf (s.fetchPlace none pl)
    match p.kind with
    | .rst w _ => (s.performPlace pl ((bytesOf 8 p.data).take (Width.bytes w)), .done 0)
    | .ratom op ty _ =>
      ((s.performPlace pl (bytesOf (atomBytes (tyWide ty)) (atomVal op ty old p.data))).noteAtom op pl, .done old)
    | .rcas ty _ => (if old == p.expect then s.performPlace pl (bytesOf (atomBytes (tyWide ty)) p.data) else s, .done old)
    | .rboadd => ((s.performPlace pl (bytesOf 8 (boSum old p.data))).noteAdvance pl.first, .done 0)
    | .rld _ _ => (s, .done old)
    | .topk => (s, .done old)

/-- Posted writes, older than an access to the own package, of its core to the location: they take effect first (R96). -/
def State.olderAt (s : State) (p : RPacket) : Place → List PostedW
  | .mem (pa :: r) _ =>
    match s.acc p.acc with
    | some a => if p.src == s.links.pkg then
        a.behind.filter fun w => s.posted.contains w && overlaps4 w.pa w.bytes.length pa (r.length + 1) else []
    | none => []
  | _ => []

/-- The posted writes older than an access of the own package to its location are performed, but for those that have to wait (R53, R96). -/
def State.settleOlder (s : State) (p : RPacket) (pl : Place) : State :=
  let ws := s.olderAt p pl
  if ws = [] then s else s.flushWhere ws.contains

/-- The access is ticketed under a new id with its shadow entry, in place of those that a replayed head had (R121, R257, R394). -/
def State.ticketAccess (s : State) (p : RPacket) (cause : Option Nat) (mig : Option Nat) : State :=
  let (s, id) := (s.replayDone p).newTicket p.part p.src p.acc p.va cause (match p.kind with | .rld _ _ => false | _ => true) mig
  ({ s with shadows := s.shadows ++ [{ src := p.src, core := p.core, lane := p.lane, line := p.va.toNat / 64, tkid := id,
                                       aborted := false }] } : State).send p.src (.ticket p.acc id)

/-- A refusal: without a ticket, or of the head of a ticket, which ends, its shadow aborted with it (R123, R394, R395). -/
def State.refuse (s : State) (p : RPacket) : State :=
  match s.tickets.find? fun t => t.src == p.src && some t.id == p.replay with
  | some t => s.abortTicket t p.acc
  | none => s.send p.src (.abort p.acc 0xFFFF)

/-- Step 4 of R394: translate and perform, refuse or ticket; false where the access waits at the ingress. -/
def State.ownerServe (s : State) (p : RPacket) : State × Bool :=
  let new := if s.tickets.any fun t => t.src == p.src && some t.id == p.replay then 0 else 1
  let ticket := fun (s : State) (cause mig : Option Nat) =>
    if s.ticketRoom (.request p) new then (s.ticketAccess p cause mig, true) else (s.ticketLater (.request p), false)
  match s.resolve (s.ownerAs p.part) none p.va (rkBytes p.kind) (rkAcc p.kind) with
  | (s, .ok pl) =>
    let s := s.settleOlder p pl
    match (if (rkAcc p.kind).writes then s.placeBlocked pl else none).orElse fun _ =>
        (s.olderAt p pl).findSome? fun w => s.demandBlocked w.pa w.bytes.length with
    | some (w, l) => (s.wbRequest w l, false)
    | none =>
      let (s, out) := ownerPerform (s.replayDone p) p pl
      (s.send p.src (.reply p.acc out), true)
  | (s, .wait (.migration m)) => ticket s none (some m)
  | (s, .wait _) => (s, false)
  | (s, .trap i) =>
    match i.cause with
    | .translation => ticket s (some 0) none
    | .pageDiscarded => ticket s (some 1) none
    | _ => (s.refuse p, true)

/-- The owner's handling of an access in the order of R394: one that meets a shadow entry is ticketed under its id, but for the replayed head
(R121, R395). -/
def State.ownerHandle (s : State) (p : RPacket) : State × Bool :=
  if !s.serves p.part p.src then (s.refuse p, true)
  else if (s.aperFind (s.ownerAs p.part) p.va).isSome then (s.refuse p, true)
  else match s.shadows.find? (·.fits p) with
    | some x =>
      if x.aborted then (s.send p.src (.abort p.acc x.tkid), true)
      else if p.replay == some x.tkid then s.ownerServe p
      else (s.send p.src (.ticket p.acc x.tkid), true)
    | none => s.ownerServe p

/-- Packets that are here from the same package, core, lane and line before this one (R254, R412). -/
def firstOfLine (p : RPacket) : List FabMsg → Bool
  | [] => true
  | .request q :: r =>
    if q = p then true
    else if q.src == p.src && q.core == p.core && q.lane == p.lane && q.va.toNat / 64 == p.va.toNat / 64 &&
      (p.replay.isNone || q.replay.isSome) then false
    else firstOfLine p r
  | _ :: r => firstOfLine p r

/-- A message waits at the ingress, at its place among those that wait (R394). -/
def State.ingress (s : State) (old : List FabMsg) (m : FabMsg) : State :=
  { s with fabric := if old.contains m then old else old ++ [m] }

/-- REMOTE_ACCESS_ARRIVAL (R394): an access that is at the head of its line's packets is handled; one that has to wait, and one behind it,
waits at the ingress in arrival order. -/
def execRemoteAccessArrival (pkt : RPacket) (s : State) : Host.Outcome State Fault Refusal :=
  match s.heard pkt.src (.request pkt) with
  | none => .next s
  | some _ =>
    if !firstOfLine pkt s.fabric then .next (s.ingress s.fabric (.request pkt))
    else match s.ownerHandle pkt with
      | (s'', true) => .next { s'' with fabric := s''.fabric.erase (.request pkt), tkWait := s''.tkWait.erase (.request pkt) }
      | (s'', false) => .next (s''.ingress s.fabric (.request pkt))

/-- ABORT_ACKNOWLEDGEMENT (R395): the aborted shadow entry is removed. -/
def execAbortAcknowledgement (tkid : BitVec 16) (s : State) : Host.Outcome State Fault Refusal :=
  let own := s.fabric.contains (.ack tkid)
  let s' := { s with fabric := s.fabric.erase (.ack tkid) }
  .next { s' with shadows := s'.shadows.filter fun x => !(x.aborted && x.tkid == tkid && (own || x.src != s.links.pkg)) }

/-- REPLAY_RECORD_RELEASE (R395): the ticket and its shadow are freed and nothing is performed. -/
def execReplayRecordRelease (src : BitVec 11) (acc : Nat) (s : State) : Host.Outcome State Fault Refusal :=
  match s.heard src (.release src acc) with
  | none => .next s
  | some s => .next ((s.tickets.filter fun t => t.src == src && t.head == acc).foldl (fun s t => s.dropTicket src t.id) s)

/-- A replay notice or TICKET_ABORT goes out for a live ticket (R395). -/
def State.answerTicket (s : State) (t : Ticket) (abort : Bool) : State :=
  if abort then s.abortTicket t t.head
  else
    ({ s with tickets := s.tickets.map fun x => if x == t then { x with notified := true, mig := none } else x } : State).send t.src
      (.notice s.links.pkg t.id)

/-! ### The reduction tree (R261) -/

/-- Contributions agree in the fields the first fixes. -/
def sameRound (a b : Contribution) : Bool :=
  a.n == b.n && a.k == b.k && a.flt == b.flt && a.root == b.root && a.out == b.out && a.bo == b.bo && a.inc == b.inc

/-- Every contribution of a round is ticketed, each under its own id with its shadow entry (R261, R394). -/
def State.ticketRound (s : State) (r : Round) (va : DWord) (cause mig : Option Nat) : State :=
  r.accs.foldl (fun s k =>
    let (s, id) := s.newTicket r.part k.src k.acc va cause true mig
    ({ s with shadows := s.shadows ++ [{ src := k.src, core := k.core, lane := k.lane, line := va.toNat / 64, tkid := id, aborted := false }] } : State).send k.src (.ticket k.acc id)) s

/-- The completed round's list and increment at the root: written, or refused, or ticketed (R261); false where the round has to wait at the
ingress. -/
def State.roundEnd (s : State) (r : Round) (m : FabMsg) : State × Bool :=
  let k := r.first
  let a := s.ownerAs r.part
  let done := fun (s : State) => { s with rounds := s.rounds.filter fun x => !(x.first.group == k.group && x.first.round == k.round) }
  let abortAll := fun (s : State) => (r.accs.foldl (fun s x => s.send x.src (.abort x.acc 0xFFFF)) (done s), true)
  let ticketAll := fun (s : State) (va : DWord) (cause : Option Nat) (mig : Option Nat) =>
    if s.ticketRoom m r.accs.length then ((done s).ticketRound r va cause mig, true) else (s.ticketLater m, false)
  let fail := fun (s : State) (i : TrapInfo) =>
    match i.cause with
    | .translation => ticketAll s i.addr (some 0) none
    | .pageDiscarded => ticketAll s i.addr (some 1) none
    | _ => abortAll s
  if !s.serves r.part k.src || (s.aperFind a k.out).isSome || (s.aperFind a k.bo).isSome then abortAll s
  else match s.resolveRange a none k.out (8 * k.k) .store with
    | (s, .trap i) => fail s i
    | (s, .wait (.migration m)) => ticketAll s k.out none (some m)
    | (s, .wait _) => (s, false)
    | (s, .ok ps) =>
      match s.resolve a none k.bo 8 .atomic with
      | (s, .trap i) => fail s i
      | (s, .wait (.migration m)) => ticketAll s k.bo none (some m)
      | (s, .wait _) => (s, false)
      | (s, .ok q) =>
        match s.blockedAll (ps ++ [q]) with
        | some (w, l) => (s.wbRequest w l, false)
        | none =>
          let s := s.performAll ps (heapBytes k.flt k.k r.list)
          let s := (s.boAdvance none a k.bo k.inc.toNat).1
          ((r.accs.getLast?.toList).foldl (fun s x => s.send x.src (.reply x.acc (.done 0))) (done s), true)

/-- A contribution that was ticketed has come again: its ticket and its shadow end (R257, R395). -/
def State.contribBack (s : State) (k : Contribution) : State :=
  match k.replay with
  | some id => s.dropTicket k.src id
  | none => s

/-- A contribution that has been taken is merged into its round, or refused where its fields differ; the n-th completes the round, or waits at
the ingress, as before it was taken, while the round cannot complete (R261). -/
def State.takeContrib (s0 s : State) (k : Contribution) : State :=
  let s' := s0.contribBack k
  let same := fun (x : Round) => x.first.group == k.group && x.first.round == k.round
  let r := (s'.rounds.find? same).getD { first := { k with list := [], replay := none }, got := 0, list := [], accs := [], part := k.part }
  if !sameRound r.first k then s'.send k.src (.abort k.acc 0xFFFF)
  else
    let r := { r with got := r.got + 1, list := k.list.foldl (heapOffer k.flt k.k) r.list, accs := r.accs ++ [{ k with list := [], replay := none }] }
    let s' := { s' with rounds := s'.rounds.filter (fun x => !same x) ++ [r] }
    if r.got < k.n then s'.send k.src (.reply k.acc (.done 0))
    else match s'.roundEnd r (.contrib k) with
      | (s'', true) => { s'' with tkWait := s''.tkWait.erase (.contrib k) }
      | (s'', false) => { s''.ingress s.fabric (.contrib k) with rounds := s.rounds, tickets := s.tickets, shadows := s.shadows }

/-- TOPKRED_CONTRIBUTION (R261). -/
def execTopkredContribution (k : Contribution) (s : State) : Host.Outcome State Fault Refusal :=
  if k.root != s.links.pkg then .next s
  else match s.heard k.src (.contrib k) with
    | none => .next s
    | some s0 => .next (s0.takeContrib s k)

/-- Nothing has come back for an access for 2 ms, or the link that it left by has failed after its retries (R252, R413). -/
def State.fabricLost (s : State) (acc : Nat) (a : RAccess) : Bool :=
  a.tkid.isNone && (Config.fabricTimeout ≤ s.cyc.toNat - a.sentAt || s.links.linkLost acc)

/-- A message of this package. -/
def State.ownMsg (s : State) : FabMsg → Bool
  | .request p => p.src == s.links.pkg
  | .contrib k => k.src == s.links.pkg
  | _ => true

/-- What an access that has ended left at the own fabric is gone: it will not be served, and a late reply is discarded (R413). -/
def State.lateGone (s : State) (acc : Nat) : State :=
  let gone := fun (m : FabMsg) => (isMsgOf acc m && s.ownMsg m) || (match m with | .reply i _ => i == acc | _ => false)
  { s with fabric := s.fabric.filter fun m => !gone m, tkWait := s.tkWait.filter fun m => !gone m }

/-- The owner performs a message that waited at its ingress. -/
def State.performMsg (s : State) : FabMsg → State
  | .request p => (s.ownerHandle p).1
  | .contrib k => s.takeContrib s k
  | _ => s

/-- FABRIC_ERROR (R252, R413): the access ends; it may or may not have been performed (log 11). -/
def execFabricError (acc : Nat) (s : State) : Host.Outcome State Fault Refusal :=
  match s.acc acc with
  | none => .next s
  | some a =>
    if !(a.live && a.sent && s.fabricLost acc a) then .next s
    else
      let mine := s.fabric.find? fun m => isMsgOf acc m && s.ownMsg m
      let s' := (s.lateGone acc).draw
      let s' := match mine with
        | some m => if Config.fabricPerformed s.free then (s'.performMsg m).lateGone acc else s'
        | none => s'
      let info : TrapInfo := { cause := .fabricError, addr := a.va, aux := zext64 a.owner }
      .next (((s'.heldOn acc a []).asyncTrap a.thread info a.pc).finishAcc acc)

end Sys2Proof.Machine
end

