-- ==== Sys2Proof/Machine/StashMap.lean ====
section
/-! DEFINITION. The map instructions (R51, R53, R240, R241) and the eviction of a registration (R53). -/

namespace Sys2Proof.Machine

/-- Stash ranges an accepted operation accesses (R240): those of class 9. -/
def EngOp.stashRanges (o : EngOp) : List (Nat × Nat) :=
  (engRanges o.instr o.par o.entry.n).filterMap fun (st, a, n, _) => if st then some (a.toNat, n) else none

/-- An outstanding operation of the workgroup accesses one of the stash ranges (R240). -/
def State.stashBusy (s : State) (w : Nat) (rs : List (Nat × Nat)) : Bool :=
  s.ops.any fun o => o.live && s.opWg o == w &&
    o.stashRanges.any fun x => rs.any fun y => rangesMeet x.1 x.2 y.1 y.2

/-- The stash range of an entry. -/
def MapEnt.range (e : MapEnt) : Nat × Nat := (e.off, 64 * e.lines)

/-- The entry of a register quadruple; none where a reserved or must-be-zero bit is set (R51). -/
def entryOfQuad (n : Nat) : Option MapEnt :=
  if nbits n 0 6 != 0 || nbits n 57 7 != 0 || nbits n 64 6 != 0 || nbits n 105 23 != 0 || nbits n 86 16 == 0 ||
      49152 < nbits n 86 16 then none
  else some { gva := nbits n 0 57, off := nbits n 64 22, lines := nbits n 86 16, ro := nbits n 102 1 == 1, nofill := nbits n 103 1 == 1 }

/-- SMAP's refusals that depend on the workgroup (R51). -/
def State.smapBad (s : State) (w : Nat) (e : MapEnt) : Bool :=
  let es := (s.wg w).maps.filterMap id
  s.stashSize w < e.off + 64 * e.lines || 8 ≤ es.length ||
    es.any fun x => rangesMeet x.off (64 * x.lines) e.off (64 * e.lines) || rangesMeet x.gva (64 * x.lines) e.gva (64 * e.lines)

/-- The lowest free slot. -/
def freeMap (ms : List (Option MapEnt)) : Nat := ((List.range 8).find? fun i => (ms.getD i none).isNone).getD 0

/-- A slot's entry is replaced. -/
def setMap (ms : List (Option MapEnt)) (i : Nat) (e : Option MapEnt) : List (Option MapEnt) :=
  (List.range 8).map fun j => if j = i then e else ms.getD j none

/-- The map instructions of one issue are carried out in lane order: behind one that stalls or waits, those of higher lanes do too (R240). -/
def State.mapTurn (s : State) (go : State → Res) : Res :=
  let keep := fun (s : State) (w : Option Wait) => { s with issue := { s.issue with behind := some w } }
  match s.issue.behind with
  | some (some w) => .wait s w
  | some none => .stall s
  | none => match go s with
    | .stall s => .stall (keep s none)
    | .wait s w => .wait (keep s (some w)) w
    | x => x

/-- SMAP (R51, R240): the entry is installed in the lowest free slot; its lines are unfilled. -/
def execSmap (h : Hdr) (a : Src) (s : State) :=
  s.issueI ⟨aMem, h, [.quad a], .v h.d⟩ fun s r => s.mapTurn fun s =>
    let w := s.wgOf s.t
    match entryOfQuad (r.regsNat (srcReg a) 4) with
    | none => .trap s { cause := .illegalOperand }
    | some e =>
      if s.stashBusy w [e.range] then .stall s
      else if s.smapBad w e then .trap s { cause := .illegalOperand }
      else
        let i := freeMap (s.wg w).maps
        .v (s.updWg w fun g => { g with maps := setMap g.maps i (some e) }) (BitVec.ofNat 32 i)

/-- Lines of an entry. -/
def MapEnt.lineList (e : MapEnt) : List Nat := (List.range e.lines).map (e.off / 64 + ·)

/-- The lines of an entry after SUNMAP: filled ones keep their bytes, unfilled ones read zero; no line is mapped (R241). A line's poison
mark goes with its record, the model's choice (log 85). -/
def State.dropEntry (s : State) (w i : Nat) (e : MapEnt) : State :=
  s.updWg w fun g =>
    { g with
      stash := e.lineList.foldl (fun m l =>
        match g.lines.get l with | some _ => m | none => putBytes m (64 * l) (List.replicate 64 0)) g.stash,
      lines := e.lineList.foldl (fun m l => m.set l none) g.lines,
      maps := setMap g.maps i none }

/-- SUNMAP (R53, R240, R241). -/
def execSunmap (h : Hdr) (a : Src) (s : State) :=
  s.issueI ⟨aMem, h, [.vi a], .none⟩ fun s r => s.mapTurn fun s =>
    let w := s.wgOf s.t
    let i := (r.rv a).toNat
    match (s.wg w).maps.getD i none with
    | none => .trap s { cause := .illegalOperand }
    | some e =>
      if s.stashBusy w [e.range] then .stall s
      else match s.cleanLines w e.lineList with
        | (s, .ok ()) => .none (s.dropEntry w i e)
        | (s, .trap c) => .trap s c
        | (s, .wait x) => .wait s x

/-- A mapped line's global address falls in [A, A + 64·n), or every mapped line is covered (R241). -/
def Wg.covers (g : Wg) (all : Bool) (va n line : Nat) : Bool :=
  match g.entryOf line with
  | some e => all || (va ≤ (e.gvaOf line).toNat && (e.gvaOf line).toNat < va + 64 * n)
  | none => false

/-- The covered lines of a workgroup that are filled: SFLUSH and SINV change no other (R241). -/
def Wg.coveredLines (g : Wg) (all : Bool) (va n : Nat) : List Nat := g.filled.filter (g.covers all va n)

/-- The operand checks of SFLUSH and SINV (R241). -/
def sflushBad (all : Bool) (va : DWord) (n : Nat) : Option TrapInfo :=
  if all then none
  else if va.toNat % 64 != 0 then some { cause := .misaligned, detail := 6, addr := va }
  else if n < 1 || 49152 < n then some { cause := .illegalOperand }
  else none

/-- The sources of SFLUSH and SINV: none under .all (R240, R241). -/
def flushOps (a b : Src) (all : Bool) : List Opd := if all then [] else [.x a, .vi b]

/-- SFLUSH (R53, R240, R241): covered dirty lines are written back in turn and become clean. -/
def execSflush (h : Hdr) (a b : Src) (all : Bool) (s : State) :=
  s.issueI ⟨aMem, h, flushOps a b all, .none⟩ fun s r => s.mapTurn fun s =>
    let w := s.wgOf s.t
    match sflushBad all (r.rx a) (r.rv b).toNat with
    | some c => .trap s c
    | none =>
      match s.cleanLines w ((s.wg w).coveredLines all (r.rx a).toNat (r.rv b).toNat) with
      | (s, .ok ()) => .none s
      | (s, .trap c) => .trap s c
      | (s, .wait x) => .wait s x

/-- Stash ranges of covered lines. -/
def lineRanges (ls : List Nat) : List (Nat × Nat) := ls.map fun l => (64 * l, 64)

/-- The stash lines that SINV covers, filled or not. -/
def Wg.coverRanges (g : Wg) (all : Bool) (va n : Nat) : List (Nat × Nat) :=
  g.maps.filterMap fun
    | some e =>
      if all then some e.range
      else
        let lo := max va (e.gvaOf (e.off / 64)).toNat
        let hi := min (va + 64 * n) ((e.gvaOf (e.off / 64)).toNat + 64 * e.lines)
        if lo < hi then some (e.off + (lo - (e.gvaOf (e.off / 64)).toNat), hi - lo) else none
    | none => none

/-- SINV (R53, R240, R241): covered lines become unfilled without write-back. -/
def execSinv (h : Hdr) (a b : Src) (all : Bool) (s : State) :=
  s.issueI ⟨aMem, h, flushOps a b all, .none⟩ fun s r => s.mapTurn fun s =>
    let w := s.wgOf s.t
    let va := (r.rx a).toNat
    let n := (r.rv b).toNat
    match sflushBad all (r.rx a) n with
    | some c => .trap s c
    | none =>
      if s.stashBusy w ((s.wg w).coverRanges all va n) then .stall s
      else
        .none (s.updWg w fun g =>
          { g with lines := (g.coveredLines all va n).foldl (fun m l => m.set l none) g.lines })

/-- REGISTRATION_EVICTION (R53): the line registered for a physical line is written back and becomes unfilled; one whose
write-back fails stays, with a request to the supervisor. -/
def execRegistrationEviction (line : Nat) (s : State) : Host.Outcome State Fault Refusal :=
  match s.dirFind line with
  | none => .next s
  | some (w, l) =>
    match s.wbKeeper w l with
    | none => .next (s.giveUp w l)
    | some (v, k) => .next (s.wbRequest v k)

end Sys2Proof.Machine
end

