-- ==== Sys2Proof/Machine/Tarn.lean ====
section
/-! DEFINITION. The tarn (R56 to R60) and its instructions (R262, R263, R282 to R290), with the events TARN_BANK_CLEARED, TARN_RELEASE,
TDRAIN_COMPLETE and ENGINE_OPERATION_HELD. -/

namespace Sys2Proof.Machine

/-! ### Allocations, rows and bands -/

/-- The allocation of a workgroup with a base bank (R57, R60); one whose TFREE waits no longer counts (R285). -/
def State.tarnAlloc (s : State) (core w b : Nat) : Option TAlloc :=
  (s.core core).allocs.find? fun a => a.wg == w && a.base == b && a.freeing.isNone

/-- The allocation that a TZERO, TREAD or TWRITE of the executing thread finds: one that stalled finds it still while a TFREE accepted after
it waits (R285). -/
def State.tarnSeen (s : State) (core w b : Nat) : Option TAlloc :=
  match s.tarnAlloc core w b, (s.thr s.t).tarn with
  | some a, _ => some a
  | none, some h => (s.core core).allocs.find? fun a => a.wg == w && a.base == b && h.acc < a.freeAcc
  | none, none => none

/-- Rows of an allocation (R56). -/
def TAlloc.rows (a : TAlloc) : Nat := 32 * a.n

/-- The key of an element of an allocation (R56). -/
def tarnKey (b row col : Nat) : Nat := 8192 * (b + row / 32) + 256 * (row % 32) + col

/-- Rows row0 … row0 + n - 1 are allocated to the workgroup from base b (R60). -/
def State.rowsHeld (s : State) (core w b row0 n : Nat) : Bool :=
  match s.tarnAlloc core w b with
  | some a => row0 + n ≤ a.rows
  | none => false

/-- The band of a crew: first row and one past the last (R59). -/
def TAlloc.band (a : TAlloc) (crew : Nat) : Option (Nat × Nat) :=
  match a.drainers with
  | none => some (0, a.rows)
  | some ds =>
    (ds.findIdx? (· == crew)).map fun i => (a.rows * i / ds.length, a.rows * (i + 1) / ds.length)

/-- Some allocated row of a range lies outside the crew's band (R59, R284, R286). -/
def TAlloc.bandBad (a : TAlloc) (crew row0 n : Nat) : Bool :=
  let hi := min (row0 + n) a.rows
  row0 < hi && (match a.band crew with
    | some (lo, top) => row0 < lo || top < hi
    | none => true)

/-- Free banks of a core: neither allocated nor clearing (R57). -/
def State.bankFree (s : State) (core b : Nat) : Bool :=
  b < 48 && !(s.core core).clearing.contains b && !(s.core core).allocs.any fun a => a.base ≤ b && b < a.base + a.n

/-- The lowest base of a run of n free banks (R57). -/
def State.tarnRun (s : State) (core n : Nat) : Option Nat :=
  (List.range (49 - n)).find? fun b => (List.range n).all fun i => s.bankFree core (b + i)

/-- A joint operation posted before a place in the order of acceptance, and not completed, writes rows of a range (R285). -/
def State.passBusy (s : State) (core b row0 n before : Nat) : Bool :=
  s.joints.any fun j => j.live && j.posted.isSome && j.core == core && j.base == b && j.acc < before &&
    rangesMeet (bits j.shape 16 11) (32 * j.crews.length) row0 n

/-- A TDRAIN that has not completed reads rows of a range; with `clr`, one that clears them (R285). -/
def State.drainBusy (s : State) (core b row0 n : Nat) (clr : Bool) (before : Nat) : Bool :=
  s.ops.any fun o => o.live && o.engine == 4 && o.icore == core && o.args.getD 2 48 == b && o.acc < before &&
    (match o.instr with | .tdrain _ _ _ _ _ _ c => !clr || c | _ => false) &&
    rangesMeet (nbits (o.args.getD 1 0) 0 11 + o.prog) (nbits (o.args.getD 1 0) 11 11 - o.prog) row0 n

/-- A TZERO, TREAD or TWRITE accepted before a place in the order of acceptance still waits for rows of a range; with `clr`, one that changes
them (R285). -/
def State.holdBusy (s : State) (core b row0 n : Nat) (clr : Bool) (before : Nat) : Bool :=
  s.threads.any fun x => match x.tarn with
    | some h => h.core == core && h.bank == b && h.acc < before && (!clr || h.clr) && rangesMeet h.row0 h.n row0 n
    | none => false

/-- Rows of a range wait for an older pass or tarn instruction: for an instruction that reads them, passes and those that change them (R285). -/
def State.rowsBusy (s : State) (core b row0 n : Nat) (reads : Bool) (before : Nat) : Bool :=
  s.passBusy core b row0 n before || s.drainBusy core b row0 n reads before || s.holdBusy core b row0 n reads before

/-! ### Issue of class 8 -/

/-- Attributes of a class 8 instruction that is issue-checked. -/
def aTarn : Attr := { brk := true }

/-- Class 8 issues only from a leader (R34, R262). -/
def State.leaderOnly (s : State) (go : State → Res) : Res :=
  if s.isLeader s.t then go s else .trap s { cause := .illegalCollective }

/-- The base bank in an s register of the issuing crew (R262). -/
def State.bankOf (s : State) (k : BitVec 6) : Nat := ((s.crew (s.crewOf s.t)).s.get k.toNat).toNat

/-- A base bank of 48 or more is ILLEGAL_OPERAND (R60, R262). -/
def State.withBank (s : State) (k : BitVec 6) (go : State → Nat → Res) : Res :=
  if 48 ≤ s.bankOf k then .trap s { cause := .illegalOperand } else go s (s.bankOf k)

/-- TCFG.ut of the executing thread's partition (R61). -/
def State.ut (s : State) : Bool := (s.part s.curAs.part).ut

/-- tu of %status is set (R60, R133). -/
def State.setTu (s : State) : State := s.updThr s.t fun x => { x with status := x.status ||| 0x100 }

/-- TALLOC (R57, R282). -/
def execTalloc (h : Hdr) (a : Src) (k : BitVec 6) (s32 : Bool) (s : State) :=
  s.issueI ⟨aTarn, h, [.vi a], .p h.d⟩ fun s r => s.leaderOnly fun s =>
    let n := (r.rv a).toNat
    let core := s.coreOf s.t
    if n < 1 || 48 < n then .trap s { cause := .illegalOperand }
    else match s.tarnRun core n with
      | none => .p s false
      | some b =>
        let al : TAlloc := { wg := s.wgOf s.t, base := b, n := n, i32 := s32, drainers := none }
        let s := s.updCore core fun c => { c with allocs := c.allocs ++ [al] }
        .p (s.updCrew (s.crewOf s.t) fun c => { c with s := c.s.set k.toNat (BitVec.ofNat 64 b) }) true

/-- An allocation's banks enter the clearing state (R56, R58). -/
def State.tarnRelease (s : State) (core w b : Nat) : State :=
  s.updCore core fun c =>
    { c with
      allocs := c.allocs.filter fun a => !(a.wg == w && a.base == b),
      clearing := c.clearing ++ ((c.allocs.filter fun a => a.wg == w && a.base == b).flatMap fun a =>
        (List.range a.n).map (a.base + ·)) }

/-- Passes posted to, or waiting for a table entry at, or drains issued from, an allocation have not completed, whatever rows the drains name,
or a TZERO, TREAD or TWRITE accepted before still waits (R58, R280, R285). -/
def State.allocBusy (s : State) (core : Nat) (a : TAlloc) : Bool :=
  (s.joints.any fun j => j.live && j.core == core && j.base == a.base && j.wg == a.wg) ||
    (s.threads.any fun x => match x.tarn with | some h => h.core == core && h.bank == a.base | none => false) ||
    s.ops.any fun o => o.live && o.engine == 4 && o.icore == core && o.args.getD 2 48 == a.base && s.wgOfCrew o.crew == a.wg

/-- TFREE (R58, R283, R285): with older passes, drains or stalled instructions outstanding the leader stalls, and the banks are released once
those have completed. -/
def execTfree (h : Hdr) (k : BitVec 6) (s : State) :=
  s.issueI ⟨aTarn, h, [], .none⟩ fun s _ => s.leaderOnly fun s => s.withBank k fun s b =>
    let core := s.coreOf s.t
    let w := s.wgOf s.t
    match (s.core core).allocs.find? (fun a => a.wg == w && a.base == b && (a.freeing.isNone || a.freeing == some s.t)) with
    | none => .trap s { cause := .illegalOperand }
    | some al =>
      if s.allocBusy core al then
        let mark := fun (a : TAlloc) => if a == al && a.freeing.isNone then { a with freeing := some s.t, freeAcc := s.accs } else a
        .stall { s.updCore core fun c => { c with allocs := c.allocs.map mark } with accs := s.accs + 1 }
      else .none (s.tarnRelease core w b)

/-- The drainers of a TOWN list; none where it is ill-formed (R283). -/
def drainersOf (l : DWord) (n ncrew : Nat) : Option (List Nat) :=
  let ds := (List.range n).map fun i => bits l (4 * i) 4
  if n < 1 || 16 < n || ds.any (ncrew ≤ ·) || ds.dedup != ds || (n < 16 && l.toNat / 16 ^ n != 0) then none else some ds

/-- TOWN (R59, R283). -/
def execTown (h : Hdr) (a b : Src) (k : BitVec 6) (s : State) :=
  s.issueI ⟨aTarn, h, [.x a, .vi b], .none⟩ fun s r => s.leaderOnly fun s => s.withBank k fun s bank =>
    let core := s.coreOf s.t
    let w := s.wgOf s.t
    match drainersOf (r.rx a) (r.rv b).toNat (s.wg w).ncrew, s.tarnAlloc core w bank with
    | some ds, some al =>
      .none (s.updCore core fun c => { c with allocs := c.allocs.map fun x => if x == al then { x with drainers := some ds } else x })
    | _, _ => .trap s { cause := .illegalOperand }

/-- Rows set to zero (R284). -/
def zeroRows (t : Store Word) (b row0 n : Nat) : Store Word :=
  (List.range n).foldl (fun t i => (List.range 256).foldl (fun t c => t.set (tarnKey b (row0 + i) c) 0) t) t

/-- The place in the order of acceptance of a TZERO, TREAD or TWRITE: that of its first attempt, whose mark it takes up (R285). -/
def State.tarnAccept (s : State) : State × Nat :=
  (s.updThr s.t fun x => { x with tarn := none }, match (s.thr s.t).tarn with | some h => h.acc | none => s.accs)

/-- A TZERO, TREAD or TWRITE goes on, or stalls with its place kept while older work on its rows is unfinished (R285). -/
def State.tarnTurn (s : State) (acc core bank row0 n : Nat) (reads : Bool) (go : State → Res) : Res :=
  if s.rowsBusy core bank row0 n reads acc then
    .stall { s.updThr s.t fun x => { x with tarn := some ⟨acc, core, bank, row0, n, !reads⟩ } with accs := max s.accs (acc + 1) }
  else go s

/-- TZERO (R284): no band check. -/
def execTzero (h : Hdr) (a b : Src) (k : BitVec 6) (s : State) :=
  s.issueI ⟨aTarn, h, [.vi a, .vi b], .none⟩ fun s r => s.leaderOnly fun s => s.withBank k fun s bank =>
    let core := s.coreOf s.t
    let al := s.tarnSeen core (s.wgOf s.t) bank
    let (s, acc) := s.tarnAccept
    let row0 := (r.rv a).toNat
    let n := (r.rv b).toNat
    if n < 1 || 1536 < n then .trap s { cause := .illegalOperand }
    else if !(al.any fun a => row0 + n ≤ a.rows) then .trap s { cause := .tarnUnalloc }
    else s.tarnTurn acc core bank row0 n false fun s => .none (s.updCore core fun c => { c with tarn := zeroRows c.tarn bank row0 n })

/-- A cell word's column and row (R263). -/
def cellCol (x : Word) : Nat := bits x 0 8
def cellRow (x : Word) : Nat := bits x 8 11
def cellBad (x : Word) : Bool := bits x 19 13 != 0

/-- The crew number of the executing thread. -/
def State.crewNo (s : State) : Nat := (s.crew (s.crewOf s.t)).num

/-- TREAD (R60, R284). -/
def execTread (h : Hdr) (a : Src) (k : BitVec 6) (s : State) :=
  s.issueI ⟨aTarn, h, [.vi a], .v h.d⟩ fun s r => s.leaderOnly fun s => s.withBank k fun s bank =>
    let core := s.coreOf s.t
    let seen := s.tarnSeen core (s.wgOf s.t) bank
    let (s, acc) := s.tarnAccept
    let x := r.rv a
    if cellBad x then .trap s { cause := .illegalOperand }
    else match seen with
      | some al =>
        if al.rows ≤ cellRow x then (if s.ut then .trap s { cause := .tarnUnalloc } else .v s.setTu 0)
        else if al.bandBad s.crewNo (cellRow x) 1 then .trap s { cause := .tarnBand }
        else s.tarnTurn acc core bank (cellRow x) 1 true fun s => .v s ((s.core core).tarn.get (tarnKey bank (cellRow x) (cellCol x)))
      | none => if s.ut then .trap s { cause := .tarnUnalloc } else .v s.setTu 0

/-- TWRITE (R60, R284). -/
def execTwrite (h : Hdr) (a b : Src) (k : BitVec 6) (s : State) :=
  s.issueI ⟨aTarn, h, [.vi a, .vi b], .none⟩ fun s r => s.leaderOnly fun s => s.withBank k fun s bank =>
    let core := s.coreOf s.t
    let seen := s.tarnSeen core (s.wgOf s.t) bank
    let (s, acc) := s.tarnAccept
    let x := r.rv a
    if cellBad x then .trap s { cause := .illegalOperand }
    else match seen with
      | some al =>
        if al.rows ≤ cellRow x then .trap s { cause := .tarnUnalloc }
        else if al.bandBad s.crewNo (cellRow x) 1 then .trap s { cause := .tarnBand }
        else s.tarnTurn acc core bank (cellRow x) 1 false fun s => .none (s.updCore core fun c => { c with tarn := c.tarn.set (tarnKey bank (cellRow x) (cellCol x)) (r.rv b) })
      | none => .trap s { cause := .tarnUnalloc }

/-- TSTAT's snapshot (R290). -/
def State.tstat (s : State) (core w b crew : Nat) : DWord :=
  let free := ((List.range 48).filter (s.bankFree core)).length
  let base := if 48 ≤ b then 0 else b
  match s.tarnAlloc core w b with
  | some al =>
    let band := al.band crew
    let (lo, hi) := band.getD (0, 1)
    BitVec.ofNat 64 (base + al.n * 2 ^ 6 + (if al.i32 then 2 ^ 12 else 0) + 2 ^ 13 + lo * 2 ^ 16 +
      (if band.isSome then 2 ^ 27 else 0) + (hi - 1) * 2 ^ 32 + free * 2 ^ 48)
  | none => BitVec.ofNat 64 (base + free * 2 ^ 48)

/-- TSTAT (R290). -/
def execTstat (h : Hdr) (k : BitVec 6) (s : State) :=
  s.issueI ⟨aTarn, h, [], .x h.d⟩ fun s _ => s.leaderOnly fun s =>
    .x s (s.tstat (s.coreOf s.t) (s.wgOf s.t) (s.bankOf k) s.crewNo)

/-! ### TDRAIN -/

/-- Bytes a drained row's elements and exponents take (R288). -/
def drRow : DrFmt → Nat
  | .f32 => 1024 | .s32 => 1024 | .bf16 => 512 | .s8 => 256 | .bfp8 => 256 | .bfp4 => 128
def drExp : DrFmt → Nat
  | .bfp8 => 16 | .bfp4 => 16 | _ => 0

/-- TDRAIN (R286, R289): a MATRIX operation of the issuing crew; NUMCFG.spread is latched. -/
def execTdrain (h : Hdr) (a b : Src) (k : BitVec 6) (fmt : DrFmt) (tr : DrTr) (clr : Bool) (s : State) :=
  s.issueI ⟨aTarn, h, [.x a, .x b], .none⟩ fun s r => s.leaderOnly fun s => s.withBank k fun s bank =>
    let w := s.wgOf s.t
    let core := s.coreOf s.t
    let word := r.rx b
    let row0 := bits word 0 11
    let n := bits word 11 11
    let al := s.tarnAlloc core w bank
    let m := match al with | some x => x.rows | none => 0
    let i32 := match al with | some x => x.i32 | none => false
    if bits word 22 10 != 0 || n < 1 || 1536 < n || (fmt == .s32 && (!i32 || tr != .none)) then
      .trap s { cause := .illegalOperand }
    else if m < row0 + n && (clr || s.ut) then .trap s { cause := .tarnUnalloc }
    else if (match al with | some x => x.bandBad s.crewNo row0 n | none => false) then .trap s { cause := .tarnBand }
    else
      let va := r.rx a
      let tu := m < row0 + n
      if va.toNat % 64 != 0 then .trap s { cause := .misaligned, detail := 5, addr := va }
      else match s.engPages [(false, va, (drRow fmt + drExp fmt) * n, true)] with
        | (s, .trap c) => .trap s c
        | (s, .wait x) => .wait s x
        | (s, .ok ()) =>
          s.counterRoom 2 fun s =>
            let s := if tu then s.setTu else s
            let (s, _) := s.accept (.tdrain h a b k fmt tr clr) 4 2 0 .core none 0 0
              [va.toNat, word.toNat, bank, (s.part s.curAs.part).spread, m, if i32 then 1 else 0]
            let s := s.updOp (s.ops.length - 1) fun o => { o with acc := s.accs }
            .none { s with accs := s.accs + 1 }

/-- The conversion of R287 before the format: Array_Round(V(C) · σ). -/
def drainScale (i32 : Bool) (sigma : Nat) (c : Word) : Nat :=
  let v : FV := if i32 then .fin (c.toInt < 0) c.toInt.natAbs 1 else arrayVal c.toNat
  arrayRound (v.mul (arrayVal sigma)).1

/-- Array_Round as the Rnd of R137, on patterns. -/
def arrAdd (a b : Nat) : FR := ⟨arrayAdd (arrayVal a) (arrayVal b), 0⟩
def arrSub (a b : Nat) : FR := ⟨arrayAdd (arrayVal a) (arrayVal (f32.flip b)), 0⟩

/-- The transform over consecutive groups (R287). -/
def drainHad (lg : Nat) : Nat → List Nat → List Nat
  | 0, _ => []
  | g + 1, y => (hadamard arrAdd arrSub lg (y.take (2 ^ lg))).1 ++ drainHad lg g (y.drop (2 ^ lg))

/-- Saturation of an FP32 pattern to a signed byte (R287). -/
def drainS8 (y : Nat) : Byte :=
  match f32.val true y with
  | .nan _ => 0
  | .inf s => if s then 0x80 else 0x7F
  | .fin s n d => BitVec.ofInt 8 (saturate (toIntRnd .rne s n d).1 (-128) 127)

/-- Two 4-bit elements a byte, the even element low (R130). -/
def nibbles : List Nat → List Byte
  | a :: b :: r => BitVec.ofNat 8 (a + 16 * b) :: nibbles r
  | _ => []

/-- BFP blocks of a row: element bytes and exponent bytes (R136, R288). -/
def drainBfp (bfp4 : Bool) (spread : Nat) : Nat → List Nat → List Byte × List Byte
  | 0, _ => ([], [])
  | g + 1, y =>
    let (el, e0, e1) := quantise bfp4 spread ((y.take 32).map fun x => f32.val false x)
    let (bs, es) := drainBfp bfp4 spread g (y.drop 32)
    ((if bfp4 then nibbles el else el.map (BitVec.ofNat 8 ·)) ++ bs, BitVec.ofNat 8 e0 :: BitVec.ofNat 8 e1 :: es)

/-- A drained row in its format: element bytes and exponent bytes (R287, R288). -/
def drainRow (fmt : DrFmt) (tr : DrTr) (i32 : Bool) (sigma spread : Nat) (cs : List Word) : List Byte × List Byte :=
  match fmt with
  | .s32 => (cs.flatMap (bytesOf 4), [])
  | _ =>
    let y := cs.map (drainScale i32 sigma)
    let y := match tr with
      | .none => y
      | .h16 => drainHad 4 16 y
      | .h32 => drainHad 5 8 y
    match fmt with
    | .bf16 => (y.flatMap fun x => leBytes 2 (bf16.deliver .rne false (f32.val false x, 0)).pat, [])
    | .s8 => (y.map drainS8, [])
    | .bfp8 => drainBfp false spread 8 y
    | .bfp4 => drainBfp true spread 8 y
    | _ => (y.flatMap fun x => leBytes 4 x, [])

/-- The operands of a TDRAIN operation. -/
structure DrPar where
  va    : DWord
  row0  : Nat
  n     : Nat
  sigma : Nat
  bank  : Nat
  spread : Nat
  m     : Nat
  i32   : Bool
  fmt   : DrFmt
  tr    : DrTr
  clr   : Bool
  deriving DecidableEq, Repr

def EngOp.dr (o : EngOp) : DrPar :=
  let a := fun i => o.args.getD i 0
  let (fmt, tr, clr) := match o.instr with
    | .tdrain _ _ _ _ f t c => (f, t, c)
    | _ => (.f32, .none, false)
  { va := BitVec.ofNat 64 (a 0), row0 := nbits (a 1) 0 11, n := nbits (a 1) 11 11, sigma := a 1 / 2 ^ 32, bank := a 2,
    spread := a 3, m := a 4, i32 := a 5 == 1, fmt := fmt, tr := tr, clr := clr }

/-- The 256 elements of an allocation row; an unallocated row is zero (R60, R287). -/
def State.tarnRow (s : State) (core : Nat) (p : DrPar) (r : Nat) : List Word :=
  (List.range 256).map fun c => if r < p.m then (s.core core).tarn.get (tarnKey p.bank r c) else 0

/-- Row i of a drain, written and, under .clr, cleared (R287 to R289). -/
def State.drainPiece (s : State) (o : EngOp) (i : Nat) (all : Bool) : Run Unit :=
  let p := o.dr
  let a := s.opAs o
  let w := s.opWg o
  let (bs, es) := drainRow p.fmt p.tr p.i32 p.sigma p.spread (s.tarnRow o.icore p (p.row0 + i))
  (s.engWriteAll a o.icore w false all (p.va + BitVec.ofNat 64 (drRow p.fmt * i)) 17 bs).bind fun s () =>
    (s.engWriteAll a o.icore w false all (p.va + BitVec.ofNat 64 (drRow p.fmt * p.n + drExp p.fmt * i)) 2 es).bind fun s () =>
      if p.clr && all then .ok (s.updCore o.icore fun c => { c with tarn := zeroRows c.tarn p.bank (p.row0 + i) 1 }) ()
      else .ok s ()

/-- Rows of a drain from a row on. -/
def State.drainRun (s : State) (o : EngOp) : Nat → Nat → Run Unit × Nat
  | 0, k => (.ok s (), k)
  | fuel + 1, k =>
    if o.dr.n ≤ k then (.ok s (), k)
    else match s.drainPiece o k true with
      | .ok s () => s.drainRun o fuel (k + 1)
      | .hold s i => (.hold s i, k)
      | .busy s => (.busy s, k)
      | .fail s i => (.fail s i, k)

/-- The rows that a failed drain leaves old or drained (R289; log 7). -/
def State.drainRest (s : State) (o : EngOp) : Nat → Nat → State
  | 0, _ => s
  | fuel + 1, k =>
    if o.dr.n ≤ k then s
    else match s.drainPiece o k false with
      | .ok s () => s.draw.drainRest o fuel (k + 1)
      | _ => s.draw.drainRest o fuel (k + 1)

/-- A drain that its core may process: its context runs, and no older pass, clearing drain or waiting tarn
instruction is unfinished on its rows (R285, R289). -/
def State.drainReady (s : State) (o : EngOp) : Bool :=
  o.live && o.engine == 4 && (match o.phase with | .held _ => false | _ => true) &&
    s.ctxPhase (s.partOf o.thread) (s.ctxOf o.thread) == 0 &&
    !(s.joints.any fun j => j.live && j.posted.isSome && j.core == o.icore && j.base == o.dr.bank && j.acc < o.acc &&
      rangesMeet (bits j.shape 16 11) (32 * j.crews.length) (o.dr.row0 + o.prog) (o.dr.n - o.prog)) &&
    !s.drainBusy o.icore o.dr.bank (o.dr.row0 + o.prog) (o.dr.n - o.prog) (!o.dr.clr) o.acc &&
    !s.holdBusy o.icore o.dr.bank (o.dr.row0 + o.prog) (o.dr.n - o.prog) (!o.dr.clr) o.acc

/-- The failure of a drain (R289). -/
def State.drainFail (s : State) (n : Nat) (o : EngOp) (k : Nat) (i : TrapInfo) : State :=
  ((s.drainRest o 1537 k).asyncTrap o.thread i o.pc).opLeave n o

/-- TDRAIN_COMPLETE (R105, R287 to R289). -/
def execTdrainComplete (op : Nat) (s : State) : Host.Outcome State Fault Refusal :=
  match s.ops[op]? with
  | none => .next s
  | some o =>
    if s.drainReady o then
      match s.drainRun o 1537 o.prog with
      | (.ok s' (), _) => .next (s'.opLeave op o)
      | (.fail s' i, k) => .next (s'.drainFail op o k i)
      | _ => .next s
    else .next s

/-- ENGINE_OPERATION_HELD (R289, R295, R306): the operation has met a failing page after acceptance; its resume point stands before
it, and the request is made; under a migration's switch or another's write-back hold it waits at its resume point (R393). -/
def execEngineOperationHeld (op : Nat) (s : State) : Host.Outcome State Fault Refusal :=
  match s.ops[op]? with
  | none => .next s
  | some o =>
    if s.opRuns o && isClass9 o.instr then
      match s.opRun o with
      | (.hold s' i, k) => .next (s'.opHold op o k i)
      | (.ok s' (), k) =>
        match s'.opFinish op o with
        | .hold s'' i => .next (s''.opHold op o k i)
        | .busy s'' => .next (s''.updOp op fun x => { x with prog := k })
        | _ => .next s
      | (.busy s', k) => .next (s'.updOp op fun x => { x with prog := k })
      | _ => .next s
    else if s.drainReady o then
      match s.drainRun o 1537 o.prog with
      | (.hold s' i, k) => .next (s'.opHold op o k i)
      | (.busy s', k) => .next (s'.updOp op fun x => { x with prog := k })
      | _ => .next s
    else .next s

/-- TARN_BANK_CLEARED (R56): a clearing bank's elements are zero and it is free. -/
def execTarnBankCleared (core bank : Nat) (s : State) : Host.Outcome State Fault Refusal :=
  if (s.core core).clearing.contains bank then
    .next (s.updCore core fun c =>
      { c with clearing := c.clearing.filter (· != bank), tarn := zeroRows c.tarn bank 0 32 })
  else .next s

/-- TARN_RELEASE (R58, R285, R360): the passes and drains that a TFREE or a kill waits for have completed; the banks enter the clearing
state and the leader of a TFREE goes on. -/
def execTarnRelease (core base : Nat) (s : State) : Host.Outcome State Fault Refusal :=
  match (s.core core).allocs.find? fun a => a.base == base && (a.freeing.isSome || a.killed) with
  | none => .next s
  | some al =>
    if al.killed then .next (if s.tarnUsed core al then s else s.tarnRelease core al.wg base)
    else
      let t := al.freeing.getD 0
      if s.allocBusy core al || !(s.hasExited t || (s.thr t).st == .ready) then .next s
      else
        let s := s.tarnRelease core al.wg base
        if s.hasExited t then .next s
        else .next (s.updThr t fun x => x.goOn s.cyc.toNat none)

end Sys2Proof.Machine
end

