-- ==== Sys2Proof/Machine/Matrix.lean ====
section
/-! DEFINITION. The matrix engine (R264 to R281, R377): gangs, weight tiles, the cinch latch, and passes with their arithmetic (R139 to
R145). -/

namespace Sys2Proof.Machine

/-! ### Gangs and formats -/

/-- The members of a GANG list of n crews; none where R264 refuses it. -/
def gangOf (a : Word) (n ncrew self : Nat) : Option (List Nat) :=
  let ms := (List.range n).map fun i => bits a (4 * i) 4
  if n < 2 || 6 < n || ms.any (ncrew ≤ ·) || ms.dedup != ms || !ms.contains self || a.toNat / 16 ^ n != 0 then none else some ms

/-- The crews of a gang, by index, as a crew's register lists them. -/
def State.gangCrews (s : State) (c : Nat) : List Nat := (s.crew c).members.map ((s.wg (s.wgOfCrew c)).base + ·)

/-- wf and tl of every member of a gang (R265). -/
def State.setGangBits (s : State) (c : Nat) (f : Crew → Crew) : State :=
  (s.gangCrews c).foldl (fun s k => if (s.crew k).members == (s.crew c).members then s.updCrew k f else s) s

/-- wf and tl of every member of a tile's own gang (R265, R271, R272): of a former gang, those that have not joined the next one of its
member 0. -/
def State.setTileBits (s : State) (t : Tile) (f : Crew → Crew) : State :=
  if t.old && (s.crew t.crew).members == t.gang then s
  else (t.gang.map ((s.wg (s.wgOfCrew t.crew)).base + ·)).foldl (fun s k => if (s.crew k).members == t.gang then s.updCrew k f else s) s

/-- GANG's effect on the crew (R264, R265): the register, the count, and the tiles of its former gang; wf and tl show what member 0
shows. -/
def State.setGang (s : State) (c : Nat) (ms : List Nat) : State :=
  let s := if (s.crew c).idx = 0 then s.setGangBits c fun x => { x with tl := false } else s
  let i := (ms.findIdx? (· == (s.crew c).num)).getD 0
  let m0 := s.crew ((s.wg (s.wgOfCrew c)).base + ms.headD 0)
  let same := i != 0 && m0.members == ms
  let s := s.updCrew c fun x =>
    { x with members := ms, idx := i, wf := same && m0.wf, tl := same && m0.tl, gcount := 1 }
  { s with tiles := s.tiles.map fun t => if t.crew == c then { t with old := true } else t }

/-- GANG (R264). -/
def execGang (h : Hdr) (a : Src) (n : BitVec 3) (s : State) :=
  s.issueI ⟨aTarn, h, [.vi a], .none⟩ fun s r => s.leaderOnly fun s =>
    let c := s.crewOf s.t
    if n = 0 then (if a == .zero then .none (s.setGang c []) else .trap s { cause := .illegalOperand })
    else match gangOf (r.rv a) n.toNat (s.wg (s.wgOf s.t)).ncrew s.crewNo with
      | some ms => .none (s.setGang c ms)
      | none => .trap s { cause := .illegalOperand }

/-- MFMT (R266). -/
def execMfmt (h : Hdr) (afmt : MFmt) (op : MOp) (s : State) :=
  s.issueI ⟨aTarn, h, [], .none⟩ fun s _ => s.leaderOnly fun s =>
    .none (s.updCrew (s.crewOf s.t) fun c => { c with afmt := afmt, mop := op })

/-- An accepted MWLOAD or CDEC of the workgroup still decodes with a table slot (R152). -/
def State.slotBusy (s : State) (w k : Nat) : Bool :=
  s.ops.any fun o => o.live && s.opWg o == w &&
    match o.instr with
    | .cdec _ _ _ _ => o.entry.tid == k
    | .mwload _ _ _ coded _ _ => coded && o.entry.tid == k
    | _ => false

/-- DPTAB (R151, R152, R269). -/
def execDptab (h : Hdr) (a : Src) (k : BitVec 2) (s : State) :=
  s.issueI ⟨aMem, h, [.x a], .none⟩ fun s r => s.leaderOnly fun s =>
    let va := r.rx a
    if va.toNat % 64 != 0 then .trap s (accTrap .misaligned .load va)
    else match s.resolveRange s.curAs s.curView va 512 .load with
      | (s, .trap c) => .trap s c
      | (s, .wait x) => .wait s x
      | (s, .ok ps) =>
        let s := s.demandAll ps
        let fs := freqsOf 256 (s.fetchAll s.curView ps)
        let w := s.wgOf s.t
        if s.anyBad ps then .none (s.poisoned va 0)
        else if !freqOk fs then .trap s { cause := .streamMalformed, detail := 1, addr := va }
        else if s.slotBusy w k.toNat then .stall s
        else .none (s.updWg w fun g => { g with probs := g.probs.set k.toNat { full := true, freq := fs } })

/-! ### Weight tiles -/

/-- The number of a format, as rawfmt (R148, R267). -/
def fmtNo : MFmt → Nat
  | .bf16 => 0 | .bfp8 => 1 | .bfp4 => 2 | .int8 => 3
def fmtOf : Nat → MFmt
  | 1 => .bfp8 | 2 => .bfp4 | 3 => .int8 | _ => .bf16

/-- Rows K of a tile (R148), and units u and register footprint of an A format (R274, R275). -/
def tileK : MFmt → Nat
  | .bf16 => 64 | .bfp8 => 128 | .bfp4 => 256 | .int8 => 128
def unitOf : MFmt → Nat
  | .bf16 => 1 | .bfp8 => 2 | .bfp4 => 4 | .int8 => 2
def footOf : MFmt → Nat
  | .bf16 => 32 | .bfp8 => 34 | .bfp4 => 36 | .int8 => 32

/-- The tile record of an operation. -/
def State.tileOf (s : State) (op : Nat) : Option Nat := s.tiles.findIdx? fun t => t.op == op

/-- The latest MWLOAD of a crew since its GANG (R268, R277). -/
def State.curTile (s : State) (c : Nat) : Option Nat :=
  (List.range s.tiles.length).foldl (fun a i =>
    match s.tiles[i]? with
    | some t => if t.crew == c && !t.old then some i else a
    | none => a) none

/-- A tile is released (R268). -/
def State.tileReleased (s : State) (i : Nat) : Bool :=
  match s.tiles[i]? with
  | none => true
  | some t =>
    let later := (List.range s.tiles.length).any fun j => i < j && (match s.tiles[j]? with
      | some u => u.crew == t.crew && (u.latched || u.failed)
      | none => false)
    let reads := s.joints.any fun j => j.live && j.tile == i
    let gone := match (s.wg (s.wgOfCrew t.crew)).stage with
      | .exited => true
      | .killed => true
      | .saved => true
      | _ => false
    gone || ((t.old || later) && !reads)

/-- Tiles that hold slots, of those that `p` selects (R268). -/
def State.slotsUsed (s : State) (p : Tile → Bool) : Nat :=
  ((List.range s.tiles.length).filter fun i =>
    match s.tiles[i]? with | some t => t.slot && p t && !s.tileReleased i | none => false).length

/-- An MWLOAD whose fetch may begin or go on: its context runs, its stream lets it, and a slot is held or free (R111, R268). -/
def State.fetchReady (s : State) (t : Tile) (o : EngOp) : Bool :=
  o.live && (match o.phase with | .held _ => false | _ => true) && s.ctxPhase (s.partOf o.thread) (s.ctxOf o.thread) == 0 &&
    (t.slot || (!s.streamBusy (s.opWg o) o.stream o.order && s.slotsUsed (·.crew == t.crew) < 2 &&
      s.slotsUsed (·.cluster == t.cluster) < 8))

/-- MWLOAD (R270): the tile's record is made with the operation. Its arguments are the address and the coded entry. -/
def execMwload (h : Hdr) (a b : Src) (coded : Bool) (bfmt : MFmt) (stream : BitVec 3) (s : State) :=
  s.issueI ⟨aMem, h, if coded then [.x a, .vi b] else [.x a], .none⟩ fun s r => s.leaderOnly fun s =>
    let c := s.crewOf s.t
    let va := r.rx a
    let t := (r.rv b).toNat
    let enter := fun (s : State) (e : Nat) (fmt : MFmt) =>
      let (s, op) := s.accept (.mwload h a b coded bfmt stream) 3 2 stream.toNat .core none 0 0 [va.toNat, e, t]
      let tile : Tile :=
        { cluster := clusterId op.core, crew := c, op := s.ops.length - 1, bfmt := fmt, coded := coded, gang := (s.crew c).members }
      let s := s.updOp (s.ops.length - 1) fun o => { o with acc := s.accs }
      { s with tiles := s.tiles ++ [tile], accs := s.accs + 1 }
    if (s.crew c).members = [] || (s.crew c).idx != 0 then .trap s { cause := .illegalCollective }
    else if coded then
      if va.toNat % 16 != 0 then .trap s (accTrap .misaligned .load va)
      else
        let ea := va + BitVec.ofNat 64 (16 * t)
        match s.resolve s.curAs s.curView ea 16 .load with
        | (s, .trap i) => .trap s i
        | (s, .wait x) => .wait s x
        | (s, .ok pl) =>
          let s := s.demandPlace pl
          let n := leNat (s.fetchPlace s.curView pl)
          if s.placeBad pl then .none (s.poisoned ea 0)
          else if (entryOfNat n).bad true then
            .trap s { cause := .streamMalformed, detail := 2, addr := va, aux := BitVec.ofNat 64 t }
          else s.counterRoom 2 fun s => .none (enter s n (fmtOf (entryOfNat n).rawfmt))
    else if va.toNat % 64 != 0 then .trap s (accTrap .misaligned .load va)
    else match s.resolveRange s.curAs s.curView va (rawSymbols (fmtNo bfmt)) .load with
      | (s, .trap i) => .trap s i
      | (s, .wait x) => .wait s x
      | (s, .ok _) => s.counterRoom 2 fun s => .none (enter s 0 bfmt)

/-- Bytes of a tile's source that its slot holds: the plain tile, or the payload of a coded one (R157, R271). -/
def Tile.bytes (t : Tile) (o : EngOp) : Nat := if t.coded then o.entry.plen else rawSymbols (fmtNo t.bfmt)

/-- The next line of a tile's source is fetched (R271). -/
def State.tileLine (s : State) (t : Tile) (o : EngOp) : Run Tile :=
  let k := t.data.length
  let va : DWord := BitVec.ofNat 64 (o.args.headD 0 + (if t.coded then o.entry.poff else 0) + k)
  (s.engRead (s.opAs o) o.icore (s.opWg o) false va (lineRest va.toNat (t.bytes o - k))).bind fun s (bs, bad) =>
    if bad then .fail s (poisonAt va) else .ok s { t with data := t.data ++ bs }

/-- The next marker of a coded tile is fetched (R150, R158; log 69). -/
def State.tileMark (s : State) (t : Tile) (o : EngOp) : Run Tile :=
  let va : DWord := BitVec.ofNat 64 (o.args.headD 0 + o.entry.poff + o.entry.markAt t.marks.length)
  (s.engRead (s.opAs o) o.icore (s.opWg o) false va 4).bind fun s (bs, bad) =>
    if bad then .fail s (poisonAt va) else .ok s { t with marks := t.marks ++ [leNat bs] }

/-- The table with which a tile of an operation is decoded, until it is latched (R152); for a latched tile that a restoration fetches again it
is the slot as it stands then, the model's choice (log 87). -/
def State.tileTable (s : State) (o : EngOp) : List Nat :=
  let slot := (s.wg (s.opWg o)).probs.getD o.entry.tid {}
  if slot.full then slot.freq else []

/-- The bytes of an interval are in the slot as far as the next marker says (R150, R160; log 69). -/
def Tile.holdsInterval (t : Tile) (o : EngOp) (v : Nat) : Bool :=
  t.bytes o ≤ t.data.length || (v + 1 < o.entry.intervals && t.marks.getD (v + 1) 0 ≤ t.data.length)

/-- The check decode of one interval, whose symbols are discarded (R154, R156, R158, R273); a wrong check value is recorded with the number of
the interval after which it was compared, the last one, or the one before the saved ivl of a restored fetch (log 67). None where it needs a byte that has not been fetched. -/
def State.tileCheck (s : State) (t : Tile) (o : EngOp) (k : Nat) : Option (Run Nat) :=
  let e := o.entry
  let v := cdecIvl k
  let base : DWord := BitVec.ofNat 64 (o.args.headD 0)
  let bad := fun (c : Nat) => some (Run.fail s (malformedAt c base (o.args.getD 2 0) v))
  let (out, fin) := decFetched t.data.toArray t.marks (s.tileTable o) e v
  match fin with
  | .ok () =>
    let crc := crcBytes (cdecCrc k) out
    if (v + 1 = e.intervals && (crc ^^^ 0xFFFFFFFF).toNat != e.crc) ||
        (match o.crcAt with | some (at', c) => v + 1 == at' && crc != c | none => false) then bad 7
    else some (.ok s (cdecAt (v + 1) crc))
  | .bad c => bad c
  | _ => if t.data.length < t.bytes o then none else bad 4

/-- The next piece of a tile's fetch: a line of its source, or of a coded one a marker, or the check decode of the next interval once its bytes
are there; none at the end (R158, R160, R271, R272). -/
def State.tileStep (s : State) (o : EngOp) (t : Tile) (k : Nat) : Option (Run (Tile × Nat)) :=
  let v := cdecIvl k
  let more := t.coded && v < o.entry.intervals
  let line := if t.data.length < t.bytes o then some ((s.tileLine t o).bind fun s t => .ok s (t, k)) else none
  if more && t.marks.length < min o.entry.intervals (v + 2) then some ((s.tileMark t o).bind fun s t => .ok s (t, k))
  else if more && t.holdsInterval o v then
    match s.tileCheck t o k with
    | some r => some (r.bind fun s k => .ok s (t, k))
    | none => line
  else line

/-- The fetch of a tile from where it stands; the tile as far as it has come, and its resume point (R158, R160, R271, R272). -/
def State.tileRun (s : State) (o : EngOp) : Nat → Tile → Nat → Run Unit × Tile × Nat
  | 0, t, k => (.ok s (), t, k)
  | fuel + 1, t, k =>
    match s.tileStep o t k with
    | none => (.ok s (), t, k)
    | some (.ok s (t, k)) => s.tileRun o fuel t k
    | some (.hold s i) => (.hold s i, t, k)
    | some (.busy s) => (.busy s, t, k)
    | some (.fail s i) => (.fail s i, t, k)

/-- Steps enough for a fetch: its lines, markers and intervals. -/
def tileFuel (t : Tile) (o : EngOp) : Nat := t.bytes o / 64 + 3 + 2 * o.entry.intervals

/-- A fetch from where it stands to its end, its hold or its failure. -/
def State.tileFetch (s : State) (t : Tile) (o : EngOp) : Run Unit × Tile × Nat := s.tileRun o (tileFuel t o) { t with slot := true } o.prog

/-- A joint operation is cancelled: nothing is written and each member's count leaves (R272). -/
def State.cancelJoint (s : State) (n : Nat) (j : Joint) : State :=
  (j.crews.zip j.seqs).foldl (fun s e => s.countDone e.1 2 e.2) (s.updJoint n fun x => { x with live := false })

/-- A tile fails (R272): wf, the cancelled joint operations that read it, the trap of the issuing leader, and the count. -/
def State.tileFail (s : State) (n op : Nat) (o : EngOp) (i : TrapInfo) : State :=
  let s := s.updTile n fun t => { t with slot := true, failed := true }
  let s := match s.tiles[n]? with | some t => s.setTileBits t fun c => { c with wf := true } | none => s
  let s := (List.range s.joints.length).foldl (fun s k =>
    match s.joints[k]? with
    | some j => if j.live && j.posted.isSome && j.granted.isNone && j.tile == n then s.cancelJoint k j else s
    | none => s) s
  (s.asyncTrap o.thread i o.pc).opLeave op o

/-- TILE_LATCH (R158, R271): the fetch ends with the tile latched, or with its failure (R156, R272). -/
def execTileLatch (tile : Nat) (s : State) : Host.Outcome State Fault Refusal :=
  match s.tiles[tile]? with
  | none => .next s
  | some t =>
    match s.ops[t.op]? with
    | none => .next s
    | some o =>
      if s.fetchReady t o then
        match s.tileFetch t o with
        | (.ok s' (), t', k) =>
          let s' := (s'.updOp t.op fun x => { x with prog := k }).updTile tile fun _ => { t' with latched := true, table := s'.tileTable o }
          .next ((if t.again then s' else s'.setTileBits t fun c => { c with tl := true, wf := false }).opLeave t.op o)
        | (.fail s' i, _, _) => .next (s'.tileFail tile t.op o i)
        | _ => .next s
      else .next s

/-- TILE_FETCH_HELD (R272): the fetch is held at its resume point with a service request; under a migration's switch it waits
(R393). -/
def execTileFetchHeld (tile : Nat) (s : State) : Host.Outcome State Fault Refusal :=
  match s.tiles[tile]? with
  | none => .next s
  | some t =>
    match s.ops[t.op]? with
    | none => .next s
    | some o =>
      if s.fetchReady t o then
        match s.tileFetch t o with
        | (.hold s' i, t', k) => .next ((s'.updTile tile fun _ => t').opHold t.op o k i)
        | (.busy s', t', k) => .next ((s'.updTile tile fun _ => t').updOp t.op fun x => { x with prog := k })
        | _ => .next s
      else .next s

/-! ### Joint operations -/

/-- The fields of a shape word and of a window word (R275). -/
def shKc (x : Word) : Nat := bits x 0 6
def shQmask (x : Word) : Nat := bits x 6 4
def shRow0 (x : Word) : Nat := bits x 16 11
def winKb (x : Word) : Nat := bits x 0 8
def winKa (x : Word) : Nat := bits x 8 8

/-- What a member presents at the latch (R277). -/
structure MmaArgs where
  wide  : Bool
  ovr   : Bool
  k     : Nat
  va    : Nat
  shape : Word
  win   : Word
  deriving DecidableEq, Repr

/-- The operands of an MMA or MMAW, from the leader's registers. -/
def mmaArgs (i : Instr) (r : Regs) : Option MmaArgs :=
  match i with
  | .mma _ a b k o => some ⟨false, o, k.toNat, srcReg a, r.rv b, 0⟩
  | .mmaw _ a b k o => some ⟨true, o, k.toNat, srcReg a, (r.rx b).setWidth 32, (r.rx b).extractLsb' 32 32⟩
  | _ => none

/-- The combinations of R139. -/
def comboOk (a b : MFmt) (op : MOp) : Bool :=
  match op with
  | .mad => (a == .bf16 && b != .int8) || (a != .bf16 && a == b)
  | _ => a == .bf16 && b == .bf16

/-- The checks of R276 after the gang's, in order. -/
def State.mmaCheck (s : State) (c : Nat) (m : MmaArgs) : Option TrapInfo :=
  let ill : Option TrapInfo := some { cause := .illegalOperand }
  let base := ((s.crew c).s.get m.k).toNat
  let f := (s.crew c).afmt
  let u := unitOf f
  let nk := (shKc m.shape + 1) * u
  let bfp := f == .bfp8 || f == .bfp4
  let core := (s.wg (s.wgOfCrew c)).core
  let row := shRow0 m.shape + 32 * (s.crew c).idx
  if 48 ≤ base || bits m.shape 10 6 != 0 || bits m.shape 27 5 != 0 || bits m.win 16 16 != 0 || shQmask m.shape = 15 then ill
  else if 64 < winKa m.win + shKc m.shape + 1 || 64 < winKb m.win + shKc m.shape + 1 then ill
  else if bfp && (winKa m.win * u % 32 != 0 || nk % 32 != 0) then ill
  else if (s.launch (s.wg (s.wgOfCrew c)).launch).regcnt < m.va + footOf f then ill
  else if !s.rowsHeld core (s.wgOfCrew c) base row 32 then some { cause := .tarnUnalloc }
  else match s.tarnAlloc core (s.wgOfCrew c) base with
    | some al => if al.i32 != (f == .int8) then ill else none
    | none => some { cause := .tarnUnalloc }

/-- The leader of a crew that waits at the cinch latch, with its instruction and issue number. -/
def State.atLatch (s : State) (c : Nat) : Option (Nat × Instr × Nat) :=
  (s.live c).findSome? fun t => match (s.thr t).st with
    | .waiting (.cinch i seq) => some (t, i, seq)
    | _ => none

/-- Every waiting leader of some crews takes a trap at its own MMA, and its count leaves (R277). -/
def State.latchTrap (s : State) (cs : List Nat) (i : TrapInfo) : State :=
  cs.foldl (fun s c =>
    match s.atLatch c with
    | some (t, _, seq) => (s.stopThread t 0 i (s.thr t).r.pc (s.thr t).r.pc).countDone c 2 seq
    | none => s) s

/-- What the latch compares of a member: its operands, base bank, format and operation (R277, check 3). -/
def State.latchKey (s : State) (c : Nat) : Option (MmaArgs × Nat × MFmt × MOp) :=
  match s.atLatch c with
  | some (t, i, _) =>
    (mmaArgs i (s.thr t).r).map fun m =>
      ({ m with va := 0, k := 0 }, ((s.crew c).s.get m.k).toNat, (s.crew c).afmt, (s.crew c).mop)
  | none => none

/-- The registers of a thread's row as it would be posted. -/
def State.rowWords (s : State) (t va n : Nat) : List Word := (List.range n).map fun i => (s.thr t).r.v.get (va + i)

/-- Entries of a cluster's reservation table (R280). -/
def State.tableLen (s : State) (cl : Nat) : Nat :=
  (s.joints.filter fun j => j.live && j.posted.isSome && j.cluster == cl).length

/-- A checked joint operation is posted: its rows are held as they are, the leaders go on; one whose tile has failed is cancelled
(R272, R277, R279, R280). -/
def State.postJoint (s : State) (n : Nat) (j : Joint) : State :=
  let rows := (j.crews.zip j.va).flatMap fun e => (s.crewThreads e.1).map fun t => s.rowWords t e.2 j.foot
  let s := s.updJoint n fun x =>
    { x with posted := some s.cyc.toNat, acc := s.accs, rows := rows }
  let s := { s with accs := s.accs + 1 }
  let s := j.crews.foldl (fun s c =>
    let s := match s.atLatch c with
      | some (t, _, _) => s.updThr t fun x => x.goOn s.cyc.toNat none
      | none => s
    s.updCrew c fun x => { x with gcount := (x.gcount + 1) % 2 ^ 24 }) s
  match s.tiles[j.tile]? with
  | some t => if t.failed then s.cancelJoint n j else s
  | none => s

/-- The evaluation of the latch for a crew's list (R37, R277). -/
def State.evalLatch (s : State) (c : Nat) : State :=
  let cs := s.gangCrews c
  let ready := cs.all fun k => (s.atLatch k).isSome && (s.crew k).gcount == (s.crew c).gcount &&
    !s.joints.any fun j => j.live && j.posted.isNone && j.crews.contains k
  if !ready then s
  else if cs.any fun k => (s.crew k).members != (s.crew c).members then s.latchTrap cs { cause := .illegalOperand }
  else if cs.any fun k => s.live k == [] then s.latchTrap cs { cause := .illegalCollective }
  else if cs.any fun k => s.latchKey k != s.latchKey c then s.latchTrap cs { cause := .illegalOperand }
  else
    let m0 := cs.headD c
    match s.curTile m0, s.latchKey c with
    | some ti, some (m, base, f, op) =>
      match s.tiles[ti]? with
      | none => s
      | some tile =>
        let u := unitOf f
        let nk := (shKc m.shape + 1) * u
        let bfp := tile.bfmt == .bfp8 || tile.bfmt == .bfp4
        let w := s.wgOfCrew c
        let core := (s.wg w).core
        if !comboOk f tile.bfmt op then s.latchTrap cs { cause := .illegalOperand }
        else if bfp && (winKb m.win * u % 32 != 0 || nk % 32 != 0) then s.latchTrap cs { cause := .illegalOperand }
        else if !s.rowsHeld core w base (shRow0 m.shape) (32 * cs.length) then s.latchTrap cs { cause := .tarnUnalloc }
        else
          let vas := cs.map fun k => match s.atLatch k with
            | some (t, i, _) => match mmaArgs i (s.thr t).r with | some m => m.va | none => 0
            | none => 0
          let seqs := cs.map fun k => match s.atLatch k with | some (_, _, q) => q | none => 0
          let j : Joint :=
            { cluster := clusterId core, core := core, wg := w, crews := cs, seqs := seqs, thread := (s.atLatch m0).elim 0 (·.1),
              pc := (s.thr ((s.atLatch m0).elim 0 (·.1))).r.pc, instr := (s.atLatch m0).map (·.2.1), base := base, va := vas,
              foot := footOf f, shape := m.shape, window := m.win, ovr := m.ovr, afmt := f, mop := op, tile := ti,
              prio := (s.wg w).prio }
          let n := s.joints.length
          let s : State := { s with joints := s.joints ++ [j] }
          if s.tableLen j.cluster < 16 then s.postJoint n j else s
    | _, _ => s.latchTrap cs { cause := .illegalOperand }

/-- An MMA or MMAW after its checks: it counts, waits at the latch, and the latch evaluates (R276, R277). -/
def mmaBody (i : Instr) (s : State) (r : Regs) : Res :=
  s.leaderOnly fun s =>
    let c := s.crewOf s.t
    if (s.crew c).members = [] then .trap s { cause := .illegalCollective }
    else match mmaArgs i r with
      | none => .trap s { cause := .illegalOperand }
      | some m =>
        match s.mmaCheck c m with
        | some t => .trap s t
        | none =>
          s.counterRoom 2 fun s =>
            let (s, seq) := s.count c 2
            let s := s.hold (.cinch i seq)
            let lists := c :: (s.wgCrews (s.wgOfCrew c)).filter fun k => k != c && (s.atLatch k).isSome && (s.gangCrews k).contains c
            .stay (lists.foldl (fun s k => if (s.atLatch k).isSome then s.evalLatch k else s) s)

/-- MMA (R275 to R277). -/
def execMma (h : Hdr) (a b : Src) (k : BitVec 6) (ovr : Bool) (s : State) :=
  s.issueI ⟨aTarn, h, [.va a (footOf (s.crew (s.crewOf s.t)).afmt), .vi b], .none⟩ (mmaBody (.mma h a b k ovr))
/-- MMAW (R275 to R277). -/
def execMmaw (h : Hdr) (a b : Src) (k : BitVec 6) (ovr : Bool) (s : State) :=
  s.issueI ⟨aTarn, h, [.va a (footOf (s.crew (s.crewOf s.t)).afmt), .x b], .none⟩ (mmaBody (.mmaw h a b k ovr))

/-- JOINT_OPERATION_POST (R280): a reservation entry is free for a joint operation that waits at the latch. -/
def execJointOperationPost (joint : Nat) (s : State) : Host.Outcome State Fault Refusal :=
  match s.joints[joint]? with
  | none => .next s
  | some j =>
    if j.live && j.posted.isNone && s.tableLen j.cluster < 16 then .next (s.postJoint joint j) else .next s

/-! ### The arithmetic of a pass (R139 to R144) -/

/-- A element k of a row: its bits, and the exponents of its block (R274). -/
def aBits (f : MFmt) (row : List Word) (k : Nat) : Nat :=
  match f with
  | .bf16 => bits (row.getD (k / 2) 0) (16 * (k % 2)) 16
  | .bfp4 => bits (row.getD (k / 8) 0) (4 * (k % 8)) 4
  | _ => bits (row.getD (k / 4) 0) (8 * (k % 4)) 8
def aExp (row : List Word) (k : Nat) : Nat × Nat :=
  let j := k / 32
  (bits (row.getD (32 + j / 2) 0) (16 * (j % 2)) 8, bits (row.getD (32 + j / 2) 0) (16 * (j % 2) + 8) 8)

/-- The raw tile at the operand port: a coded one is decoded from the slot's bytes with the latched table (R157, R158). -/
def Tile.raw (t : Tile) (o : Option EngOp) : List Byte :=
  match t.coded, o with
  | true, some o => ((List.range o.entry.intervals).flatMap fun v => (decFetched t.data.toArray t.marks t.table o.entry v).1).map (BitVec.ofNat 8 ·)
  | _, _ => t.data

/-- Element (k, col) of a tile and its exponents (R267). -/
def bBits (f : MFmt) (d : List Byte) (k col : Nat) : Nat :=
  let e := tileK f * col + k
  match f with
  | .bf16 => (d.getD (2 * e) 0).toNat + 256 * (d.getD (2 * e + 1) 0).toNat
  | .bfp4 => (d.getD (e / 2) 0).toNat / (if e % 2 = 1 then 16 else 1) % 16
  | _ => (d.getD e 0).toNat
def bExp (f : MFmt) (d : List Byte) (k col : Nat) : Nat × Nat :=
  let e := tileK f * col + k
  ((d.getD (32768 + 2 * (e / 32)) 0).toNat, (d.getD (32768 + 2 * (e / 32) + 1) 0).toNat)

/-- A value below 2^−126 in magnitude is a zero of its sign (R140). -/
def tinyZero : FV → FV
  | .fin s n d => if n * 2 ^ 126 < d then .fin s 0 1 else .fin s n d
  | x => x

/-- The values a BF16-rate pass reads (R140). -/
def aVal (row : List Word) (k : Nat) : FV := bf16.val true (aBits .bf16 row k)
def bVal (f : MFmt) (d : List Byte) (k col : Nat) : FV :=
  match f with
  | .bf16 => bf16.val true (bBits f d k col)
  | .bfp4 => let (e0, e1) := bExp f d k col; tinyZero (bfpVal true (bBits f d k col) e0 e1)
  | _ => let (e0, e1) := bExp f d k col; tinyZero (bfpVal false (bBits f d k col) e0 e1)

/-- The value of a BFP block from its 32 element pairs (R142): fields (selected exponent, sign, magnitude). -/
def blockVal (bfp4 : Bool) (ps : List ((Nat × Bool × Nat) × (Nat × Bool × Nat))) : FV :=
  if ps.any fun p => p.1.1 = 255 || p.2.1 = 255 then .nan false
  else
    let t : Int := ps.foldl (fun t p =>
      if p.1.1 = 0 || p.2.1 = 0 then t
      else
        let m : Int := p.1.2.2 * p.2.2.2 * 2 ^ (p.1.1 + p.2.1)
        if p.1.2.1 != p.2.2.1 then t - m else t + m) 0
    .fin (t < 0) t.natAbs (2 ^ (254 + (if bfp4 then 2 else 10)))

/-- The minimum or maximum of R144 on patterns: NaN wins, −0.0 lies below +0.0. -/
def arrMinMax (max : Bool) (a b : Nat) : Nat := (f32.minmax max true false a b).pat

/-- C as the arrays read it (R140). -/
def cRead (c : Word) : Nat := f32.flushIn true c.toNat

/-- A product as the sum of R141 takes it: one beyond the FP32 range acts as an infinity (log 70). -/
def passProd (a b : FV) : FV :=
  match (a.mul b).1 with
  | .fin s n d => if 2 ^ 128 * d ≤ n then .inf s else .fin s n d
  | x => x

/-- Pass_Update of a floating-point sum (R141, R142): the terms in ascending k. -/
def sumUpdate (ovr : Bool) (ts : List FV) (c : Word) : Word :=
  let s := ts.foldl (fun s p => arrayAdd (arrayVal s) p) 0
  BitVec.ofNat 32 (if ovr then s else arrayAdd (arrayVal c.toNat) (arrayVal s))

/-- Pass_Update of an INT8 pass (R143). -/
def intUpdate (ovr : Bool) (ps : List (Int × Int)) (c : Word) : Word :=
  let s : Int := ps.foldl (fun s p => s + p.1 * p.2) 0
  BitVec.ofInt 32 (if ovr then s else c.toInt + s)

/-- An operand is neither +0.0 nor −0.0; NaN counts as non-zero (R144). -/
def fvNonzero : FV → Bool
  | .fin _ n _ => n != 0
  | _ => true

/-- Pass_Update of a semiring (R144). -/
def semiUpdate (op : MOp) (ovr : Bool) (ps : List (FV × FV)) (c : Word) : Word :=
  match op with
  | .orand =>
    let s := ps.any fun p => fvNonzero p.1 && fvNonzero p.2
    if s || (!ovr && fvNonzero (arrayVal c.toNat)) then 0x3F800000 else 0
  | _ =>
    let max := op != .minplus
    let step := fun (p : FV × FV) => match op with
      | .maxtimes => arrayRound (p.1.mul p.2).1
      | _ => arrayAdd p.1 p.2
    let s := ps.foldl (fun s p => arrMinMax max s (step p)) (f32.infPat max)
    BitVec.ofNat 32 (if ovr then s else arrMinMax max (cRead c) s)

/-- Pass_Update for one row and column (R278). -/
def passElem (j : Joint) (bfmt : MFmt) (data : List Byte) (row : List Word) (col : Nat) (c : Word) : Word :=
  let u := unitOf j.afmt
  let nk := (shKc j.shape + 1) * u
  let ka := winKa j.window * u
  let kb := winKb j.window * u
  match j.afmt with
  | .bf16 =>
    let ps := (List.range nk).map fun i => (aVal row (ka + i), bVal bfmt data (kb + i) col)
    match j.mop with
    | .mad => sumUpdate j.ovr (ps.map fun p => passProd p.1 p.2) c
    | op => semiUpdate op j.ovr ps c
  | .int8 =>
    intUpdate j.ovr ((List.range nk).map fun i =>
      ((BitVec.ofNat 8 (aBits .int8 row (ka + i))).toInt, (BitVec.ofNat 8 (bBits .int8 data (kb + i) col)).toInt)) c
  | f =>
    let four := f == .bfp4
    let fields := fun (i : Nat) =>
      let (a0, a1) := aExp row (ka + i)
      let (b0, b1) := bExp f data (kb + i) col
      (bfpFields four (aBits f row (ka + i)) a0 a1, bfpFields four (bBits f data (kb + i) col) b0 b1)
    sumUpdate j.ovr ((List.range (nk / 32)).map fun g =>
      arrayVal (arrayRound (blockVal four ((List.range 32).map fun i => fields (32 * g + i))))) c

/-- The effect of a pass on the tarn (R278). -/
def passTarn (j : Joint) (bfmt : MFmt) (data : List Byte) (tarn : Store Word) : Store Word :=
  let rows := j.rows
  (List.range rows.length).foldl (fun m i =>
    let row := rows.getD i []
    (List.range 256).foldl (fun m col =>
      if (shQmask j.shape) / 2 ^ (col / 64) % 2 = 1 then m
      else
        let k := tarnKey j.base (shRow0 j.shape + i) col
        m.set k (passElem j bfmt data row col (m.get k))) m) tarn

/-! ### Grant and completion -/

/-- Cycles to load a tile into the arrays (R281). -/
def loadCycles (t : Tile) (o : Option EngOp) : Nat :=
  if t.coded then
    match o with
    | some o => let d := 8 * min o.entry.intervals 64; (o.entry.n + d - 1) / d
    | none => 16
  else 16

/-- An entry is eligible for grant (R280, R349). -/
def State.eligible (s : State) (n : Nat) (j : Joint) : Bool :=
  j.live && j.posted.isSome && j.granted.isNone &&
    (match s.tiles[j.tile]? with | some t => t.latched | none => false) &&
    !((List.range n).any fun k => match s.joints[k]? with
      | some x => x.live && x.posted.isSome && x.granted.isNone && x.crews == j.crews
      | none => false) &&
    !s.drainBusy j.core j.base (shRow0 j.shape) (32 * j.crews.length) false j.acc &&
    !s.holdBusy j.core j.base (shRow0 j.shape) (32 * j.crews.length) false j.acc &&
    s.ctxPhase (s.launch (s.wg j.wg).launch).part (s.launch (s.wg j.wg).launch).ctx == 0

/-- An entry's age has reached 4,096 cycles (R377). -/
def State.jointAged (s : State) (j : Joint) : Bool := j.aged || 4096 ≤ s.cyc.toNat - j.posted.getD 0

/-- The arbiter's order of two eligible entries (R377). -/
def State.grantBefore (s : State) (a b : Joint) : Bool :=
  let key := fun (j : Joint) => (j.posted.getD 0, coreInCluster j.core, (s.crew (j.crews.headD 0)).num)
  let lt := fun (x y : Nat × Nat × Nat) => x.1 < y.1 || (x.1 == y.1 && (x.2.1 < y.2.1 || (x.2.1 == y.2.1 && x.2.2 < y.2.2)))
  match s.jointAged a, s.jointAged b with
  | true, true => lt (key a) (key b)
  | true, false => true
  | false, true => false
  | false, false => b.prio < a.prio || (a.prio == b.prio && lt (key a) (key b))

/-- The entry the arbiter grants (R377). -/
def State.grantee (s : State) (cl : Nat) : Option (Nat × Joint) :=
  (List.range s.joints.length).foldl (fun best n =>
    match s.joints[n]? with
    | some j =>
      if j.cluster == cl && s.eligible n j then
        match best with
        | some (m, b) => if s.grantBefore j b then some (n, j) else some (m, b)
        | none => some (n, j)
      else best
    | none => best) none

/-- PASS_GRANT (R279 to R281, R377). -/
def execPassGrant (cluster : Nat) (s : State) : Host.Outcome State Fault Refusal :=
  if (s.clusters.get cluster).pass.isSome then .next s
  else match s.grantee cluster with
    | none => .next s
    | some (n, j) =>
      let w := if (s.clusters.get cluster).array == some j.tile then 0
        else match s.tiles[j.tile]? with | some t => loadCycles t (s.ops[t.op]?) | none => 16
      let endAt := s.cyc.toNat + w + 32 * j.crews.length + 42
      .next { (s.updJoint n fun x => { x with granted := some (s.cyc.toNat + w + 2) }) with
        clusters := s.clusters.upd cluster fun c => { c with pass := some n, endAt := endAt } }

/-- PASS_COMPLETE (R278, R280, R281): the tarn writes, then each member's count. -/
def execPassComplete (cluster : Nat) (s : State) : Host.Outcome State Fault Refusal :=
  match (s.clusters.get cluster).pass with
  | none => .next s
  | some n =>
    if s.cyc.toNat < (s.clusters.get cluster).endAt then .next s
    else match s.joints[n]? with
      | none => .next s
      | some j =>
        let s := match s.tiles[j.tile]? with
          | some t =>
            let raw := t.raw (s.ops[t.op]?)
            s.updCore j.core fun c => { c with tarn := passTarn j t.bfmt raw c.tarn }
          | none => s
        let s := (j.crews.zip j.seqs).foldl (fun s e => s.countDone e.1 2 e.2) (s.updJoint n fun x => { x with live := false })
        .next { s with clusters := s.clusters.upd cluster fun c => { c with pass := none, endAt := 0, array := some j.tile } }.wake

/-- ENTRY_AGED (R377). -/
def execEntryAged (joint : Nat) (s : State) : Host.Outcome State Fault Refusal :=
  match s.joints[joint]? with
  | none => .next s
  | some j =>
    if j.live && j.posted.isSome && 4096 ≤ s.cyc.toNat - j.posted.getD 0 then
      .next (s.updJoint joint fun x => { x with aged := true })
    else .next s

/-- A pass of a stopping context that is still in its load phase returns to the table (R281); that of a killed workgroup, no longer granted,
goes with it (R360). -/
def State.returnPasses (s : State) (p ctx : Nat) : State :=
  (List.range 128).foldl (fun s cl =>
    match (s.clusters.get cl).pass with
    | none => s
    | some n =>
      match s.joints[n]? with
      | none => s
      | some j =>
        let l := s.launch (s.wg j.wg).launch
        if l.part = p && l.ctx = ctx && s.cyc.toNat < j.granted.getD 0 then
          { (s.updJoint n fun x => { x with granted := none, live := (s.wg j.wg).stage != .killed }) with
            clusters := s.clusters.upd cl fun c => { c with pass := none, endAt := 0 } }
        else s) s

end Sys2Proof.Machine
end

