-- ==== Sys2Proof/Machine/Resources.lean ====
section
/-! DEFINITION. What a core holds: workgroups, register area, thread slots, stash area and carve (R22, R39, R42, R47 to R49), and the
contexts in use (R334, R345). -/

namespace Sys2Proof.Machine

/-- Workgroups admitted to a core: waiting for activation, active, parked or exiting (R22, R48). -/
def State.admittedAt (s : State) (core : Nat) : List Nat :=
  (List.range s.wgs.length).filter fun w => (s.wg w).core == core && (s.wg w).holds

/-- A workgroup occupies an activation place. -/
def Wg.occupies (g : Wg) : Bool :=
  match g.stage with
  | .active => true
  | .exiting => true
  | _ => false

/-- Active workgroups of a core. -/
def State.activeAt' (s : State) (core : Nat) : List Nat := (s.admittedAt core).filter fun w => (s.wg w).occupies

/-- Register area of a workgroup in bytes (R22). -/
def State.regNeed (s : State) (w : Nat) : Nat := (s.wg w).ncrew * 32 * (s.launch (s.wg w).launch).regcnt * 4

/-- Crews of n that a rotation places in a quadrant (R24). -/
def quadCrews (n rot q : Nat) : Nat := ((List.range n).filter fun j => (j + rot) % 4 == q).length

/-- Stashes placed in a core's stash area: offset and size (R49). -/
def State.stashRuns (s : State) (core : Nat) (but : Nat) : List (Nat × Nat) :=
  ((s.admittedAt core).filter fun w => w != but && (s.wg w).splaced).map fun w => ((s.wg w).sbase, s.stashSize w)

/-- A free run of a size in a stash area of `area` bytes: of several the lowest, which is the model's choice (R49; log 60). -/
def freeRun (area size : Nat) (used : List (Nat × Nat)) : Option Nat :=
  (0 :: used.map fun e => e.1 + e.2).foldl (fun best b =>
    if b + size ≤ area && used.all (fun e => !rangesMeet b size e.1 e.2) then
      match best with
      | some x => if b < x then some b else best
      | none => some b
    else best) none

/-- Stash area of a core in bytes. -/
def CoreSt.stashArea (c : CoreSt) : Nat := (c.pb2 - c.pb1) * 4096

/-- Where a workgroup's stash stands, or would be placed. -/
def State.stashPlace (s : State) (w : Nat) : Option Nat :=
  let g := s.wg w
  if g.splaced then some g.sbase
  else if s.stashSize w = 0 then some 0
  else freeRun (s.core g.core).stashArea (s.stashSize w) (s.stashRuns g.core w)

/-- The register area, crew places and thread slots have room beside the active workgroups `act` (R22). -/
def State.roomFor (s : State) (w : Nat) (act : List Nat) : Bool :=
  let g := s.wg w
  act.length < 16 && (act.map fun x => (s.wg x).ncrew).sum + g.ncrew ≤ 64 &&
    (act.map s.regNeed).sum + s.regNeed w ≤ (s.core g.core).pb1 * 4096 &&
    (List.range 4).all fun q =>
      (act.map fun x => quadCrews (s.wg x).ncrew (s.wg x).rot.toNat q).sum + quadCrews g.ncrew g.rot.toNat q ≤ 16

/-- A workgroup fits its core now (R22, R49). -/
def State.fits (s : State) (w : Nat) : Bool :=
  s.roomFor w (s.activeAt' (s.wg w).core) && (s.stashPlace w).isSome

/-- Launches in states 1 and 2 (R368). -/
def State.launchCount (s : State) : Nat := (s.launches.filter fun l => l.state == 1 || l.state == 2).length

/-- The rectangle of a launch at an origin lies within a partition (R374). -/
def Launch.fitsAt (l : Launch) (p : Part) (x y : Nat) : Bool :=
  p.px ≤ x && p.py ≤ y && x + l.w ≤ p.px + 2 ^ p.pa && y + l.h ≤ p.py + 2 ^ p.pb

/-- The carve of a launch is its core's (R48). -/
def State.carveIs (s : State) (l : Launch) (core : Nat) : Bool :=
  let c := s.core core
  l.pb1 == c.pb1 && l.pb2 == c.pb2 && l.pb3 == c.pb3

/-- A number from fields: position, width, value. -/
def pack (fs : List (Nat × Nat × Nat)) : Nat := (fs.map fun (lo, n, v) => v % 2 ^ n * 2 ^ lo).sum

/-- A workgroup's coordinates as wx in [4:0], wy in [8:5], wz in [24:9] (R353, R376). -/
def coordBits (x y z : Nat) : Nat := pack [(0, 5, x), (5, 4, y), (9, 16, z)]

/-- The columns (wx, wy) of a launch. -/
def Launch.columns (l : Launch) : List (Nat × Nat) := (List.range (l.w * l.h)).map fun i => (i % l.w, i / l.w)

/-- Workgroups of a launch's column that have been distributed: each column in ascending wz (R22, R369). -/
def State.columnNext (s : State) (l : Nat) (c : Nat × Nat) : Nat :=
  (s.wgs.filter fun g => g.launch == l && g.wx == c.1 && g.wy == c.2 && g.stage != .saved).length

/-- The core of a workgroup of a placed launch, by its coordinates. -/
def Launch.coreAt (l : Launch) (c : Nat) : Nat := 32 * (l.oy + nbits c 5 4) + l.ox + nbits c 0 5

/-- The next workgroups of a launch: returned ones, then the next of each column. -/
def State.nextWgs (s : State) (l : Nat) : List Nat :=
  let x := s.launch l
  x.returned ++ (if x.total ≤ x.dist then [] else x.columns.filterMap fun c =>
    if s.columnNext l c < x.d then some (coordBits c.1 c.2 (s.columnNext l c)) else none)

/-- A workgroup of a launch waits to be admitted to a core: a returned one, or the next of a column (R22, R48, R349). -/
def State.waitsAt (s : State) (l core : Nat) : Bool := (s.nextWgs l).any fun c => (s.launch l).coreAt c == core

/-- The launches with a workgroup that waits for a core's carve to become theirs, with the cycle since which each waits (R48). -/
def State.carveWaits (s : State) (core : Nat) : List (Nat × Nat) :=
  (s.core core).carve.filter fun e =>
    (s.launch e.1).state == 2 && !(s.launch e.1).ended && !s.carveIs (s.launch e.1) core && s.waitsAt e.1 core

/-- A core admits no more of its own carve, for a launch that has waited too long for another (R48). -/
def State.carveClosed (s : State) (core : Nat) : Bool := (s.carveWaits core).any fun e => (s.core core).closed.contains e.1

/-- A core takes a launch's carve, which it may while it holds no admitted workgroup: launches of the same carve wait no more (R48). -/
def State.setCarve (s : State) (l : Launch) (core : Nat) : State :=
  s.updCore core fun c =>
    { c with
      pb1 := l.pb1, pb2 := l.pb2, pb3 := l.pb3, closed := [],
      carve := c.carve.filter fun e => !((s.launch e.1).pb1 == l.pb1 && (s.launch e.1).pb2 == l.pb2 && (s.launch e.1).pb3 == l.pb3) }

/-- A launch that has no workgroup waiting at a core any more waits for its carve no more (R48). -/
def State.carveTidy (s : State) (l core : Nat) : State :=
  if s.waitsAt l core || !(s.core core).carve.any (·.1 == l) then s
  else s.updCore core fun c => { c with carve := c.carve.filter (·.1 != l) }

/-- A launch that leaves its cores waits for no carve any more: a later wait begins anew (R48). -/
def State.carveDrop (s : State) (l : Nat) : State :=
  (s.cores.map (·.1)).foldl (fun s core =>
    s.updCore core fun c => { c with carve := c.carve.filter (·.1 != l), closed := c.closed.filter (· != l) }) s

/-! ### Blocked workgroups (R39) -/

/-- A thread is blocked in the WAIT class, by its trap, or parked-remote (R26, R39, R337); that a thread stopped by its crew's TIMER is
blocked too is the model's choice (log 62). -/
def State.blocked (s : State) (t : Nat) : Bool :=
  match (s.thr t).st with
  | .waiting _ => true
  | .parkedRemote _ => true
  | .ready => (s.crew (s.crewOf t)).timer
  | _ => false

/-- A crew is blocked (R39). -/
def State.crewBlocked (s : State) (c : Nat) : Bool :=
  (s.live c).all s.blocked ||
  match (s.crew c).leader with
  | some n => s.blocked ((s.crew c).base + n) && (s.live c).all fun t => (s.thr t).num == n || (s.thr t).st == .sleeping
  | none => false

/-- An active workgroup is eligible to park (R39). -/
def State.eligibleToPark (s : State) (w : Nat) : Bool :=
  (s.wg w).stage == .active && (s.wgThreads w).any (fun t => !s.hasExited t) && (s.wgCrews w).all s.crewBlocked

/-- The cycle since which a workgroup has been blocked (R39). -/
def State.blockedSince (s : State) (w : Nat) : Nat := ((s.wg w).blockedAt).getD s.cyc.toNat

/-- Each workgroup's blocking is dated: the cycle in which it became eligible to park, none while it is not (R39). -/
def State.noteBlocked (s : State) : State :=
  (List.range s.wgs.length).foldl (fun s w =>
    let since := if s.eligibleToPark w then some ((s.wg w).blockedAt.getD s.cyc.toNat) else none
    if since == (s.wg w).blockedAt then s else s.updWg w fun g => { g with blockedAt := since }) s

/-- A parked workgroup is a candidate for activation once a thread's condition is met (R39). -/
def State.parkedReady (s : State) (w : Nat) : Bool :=
  (s.wg w).stage == .parked && (s.wgThreads w).any fun t => (s.thr t).st == .ready && !(s.crew (s.crewOf t)).timer

/-! ### Contexts in use -/

/-- A launch is present: taken, waiting or running. -/
def Launch.present (l : Launch) : Bool := l.state ≤ 2

/-- Launches of a context that are present. -/
def State.ctxLaunches (s : State) (p ctx : Nat) : List Nat :=
  (List.range s.launches.length).filter fun l => (s.launch l).part == p && (s.launch l).ctx == ctx && (s.launch l).present

/-- CTXSTATE (R345). -/
def State.ctxState (s : State) (p ctx : Nat) : Nat :=
  if s.ctxPhase p ctx != 0 then s.ctxPhase p ctx else if (s.ctxLaunches p ctx).isEmpty then 0 else 1

/-- The context is in use (R334). -/
def State.ctxUsed (s : State) (p ctx : Nat) : Bool := s.ctxState p ctx != 0

/-- Workgroups of a context. -/
def State.ctxWgs (s : State) (p ctx : Nat) : List Nat :=
  (List.range s.wgs.length).filter fun w => (s.launch (s.wg w).launch).part == p && (s.launch (s.wg w).launch).ctx == ctx

/-- A context's run record changes. -/
def State.updCtx (s : State) (p ctx : Nat) (f : CtxRun → CtxRun) : State :=
  s.updPart p fun x => { x with ctxs := x.ctxs.upd ctx f }

end Sys2Proof.Machine
end

