-- ==== Sys2Proof/Machine/Image.lean ====
section
/-! DEFINITION. The save image of a context as bytes (R256, R351 to R356, R376). Log 21 lists what the manual leaves to the device: the
order of the sections and the operand words of joint operations. -/

namespace Sys2Proof.Machine

/-- Scopes by code (R232). -/
def scopeOfNo : Nat → Scope
  | 0 => .core | 1 => .clus | 2 => .die | 3 => .pkg | _ => .dom

/-- A and B formats and operations by code (R266). -/
def mopNo : MOp → Nat
  | .mad => 0 | .minplus => 1 | .maxplus => 2 | .maxtimes => 3 | .orand => 4
def mopOf : Nat → MOp
  | 0 => .mad | 1 => .minplus | 2 => .maxplus | 3 => .maxtimes | _ => .orand

/-- The first word of an instruction. -/
def wordOf (i : Instr) : Nat := match encode i with | some (w, _) => w.toNat | none => 0

/-- The workgroups of a context that a save image holds: started ones that are at a core, or that a kill left with operations. -/
def State.imageWgs (s : State) (p ctx : Nat) : List Nat :=
  (s.ctxWgs p ctx).filter fun w =>
    (s.wg w).started && (s.wg w).stage != .saved &&
      ((s.wg w).holds || s.ops.any fun o => o.live && s.wgOfCrew o.crew == w)

/-- Workgroups not yet started: admitted ones, by index. -/
def State.unstartedWgs (s : State) (l : Nat) : List Nat :=
  (List.range s.wgs.length).filter fun w => (s.wg w).launch == l && !(s.wg w).started && (s.wg w).stage == .admitted

/-- The workgroups of a launch that have not been distributed, nor returned. -/
def State.undistributed (s : State) (l : Nat) : List Nat :=
  let x := s.launch l
  if x.total ≤ x.dist then []
  else x.columns.flatMap fun c =>
    (List.range (x.d - s.columnNext l c)).map fun i => coordBits c.1 c.2 (s.columnNext l c + i)

/-! ### Threads and crews (R354, R355) -/

/-- What a waiting thread's record says of its wait: wcond, w0, w1, w2, scope, .dl, .exact, predicate. -/
structure WaitImg where
  code  : Nat := 0
  w0    : Nat := 0
  w1    : Nat := 0
  w2    : Nat := 0
  scope : Nat := 0
  dl    : Nat := 0
  exact : Nat := 0
  d     : Nat := 0
  deriving DecidableEq, Repr

/-- A wait as its record gives it; `rep` numbers the replay records. -/
def Wait.img (rep : Nat → Nat) : Wait → WaitImg
  | .wgbar => { code := 1 }
  | .tilebar => { code := 2 }
  | .cbar => { code := 3 }
  | .coll i _ f sp => { code := 4, w0 := wordOf i, w1 := f.toNat + 2 * sp }
  | .elect d => { code := 5, d := d.toNat }
  | .waitge ea tg dl sc d =>
    { code := 6, w0 := ea.toNat, w1 := tg.toNat, w2 := (dl.getD 0).toNat, scope := scopeNo sc, dl := dl.isSome.toNat, d := d.toNat }
  | .opwait c n => { code := 7, w0 := c, w1 := n }
  | .sleep dl => { code := 8, w0 := dl.toNat }
  | .pwait p _ e => { code := 9, w0 := p.toNat, exact := e.toNat }
  | .cinch i _ => { code := 10, w0 := wordOf i }
  | .held a => { code := 11, w0 := rep a }
  | .remote _ => { code := 12 }
  | _ => {}

/-- Insertion by a key, behind equal ones. -/
def insertKey (key : Nat → Nat) (x : Nat) : List Nat → List Nat
  | [] => [x]
  | y :: r => if key x < key y then x :: y :: r else y :: insertKey key x r

/-- The ticket that an access is recorded under. -/
def State.ticketOf (s : State) (i : Nat) : Option (BitVec 11 × BitVec 16) := (s.racc[i]?).bind fun a => a.tkid.map fun k => (a.owner, k)

/-- The replay records of a workgroup, by index, in ticket order, each shadow after its head (R124, R255, R353); accesses that have no
ticket follow (log 21). -/
def State.replayRecs (s : State) (w : Nat) : List Nat :=
  let mine := (List.range s.racc.length).filter fun i =>
    match s.racc[i]? with | some a => a.live && s.wgOfCrew a.crew == w | none => false
  let place := fun i => ((s.racc[i]?).map (·.tkAt)).getD 0
  let byPlace := (mine.filter fun i => (s.ticketOf i).isSome).foldl (fun l i => insertKey place i l) []
  (byPlace.map s.ticketOf).eraseDups.flatMap (fun k => mine.filter fun i => s.ticketOf i == k) ++
    mine.filter fun i => (s.ticketOf i).isNone

/-- State code, wait and trap of a thread's record (R354); a TIMER's record goes with the thread it names. -/
def State.threadTrap (s : State) (t : Nat) : Option (Nat × TrapInfo × DWord) :=
  match (s.thr t).st with
  | .waiting (.trap k i opc) => some (k, i, opc)
  | _ =>
    if (s.crew (s.crewOf t)).timer && (((s.crew (s.crewOf t)).leader.map ((s.crew (s.crewOf t)).base + ·)).getD
        ((s.live (s.crewOf t)).headD (s.crew (s.crewOf t)).base) == t) then some (2, { cause := .timer }, (s.thr t).r.pc)
    else (s.thr t).async.head?.map fun a => (1, a.info, a.opc)

/-- The cause in a thread's record is its first pending asynchronous one. -/
def State.asyncSaved (s : State) (t : Nat) : Bool :=
  match (s.thr t).st with
  | .waiting (.trap _ _ _) => false
  | _ => (s.threadTrap t).any (·.1 == 1)

/-- State codes of R354. -/
def State.threadCode (s : State) (t : Nat) : Nat :=
  match (s.thr t).st with
  | .ready => if (s.threadTrap t).any (·.1 == 2) then 6 else 0
  | .fetchSuspended _ => 0
  | .waiting (.trap _ _ _) => 6
  | .waiting _ => 2
  | .parkedRemote _ => 3
  | .sleeping => 4
  | .exited => 5

/-- The 192-byte record of a thread (R354). -/
def State.threadImg (s : State) (w t : Nat) : List Byte :=
  let x := s.thr t
  let rep := fun a => ((s.replayRecs w).findIdx? (· == a)).getD 0
  let i : WaitImg := match x.st with
    | .waiting y => y.img rep
    | .parkedRemote y => y.img rep
    | _ => {}
  let tr := s.threadTrap t
  let tc := match tr with | some (_, y, _) => y.cause.code | none => 0
  let tk := match tr with | some (k, _, _) => k | none => 0
  let tp := match tr with | some (_, y, o) => (o.toNat, y.addr.toNat, y.aux.toNat) | none => (0, 0, 0)
  leBytes 192 (pack
    ([(0, 64, x.r.pc.toNat), (64, 3, s.threadCode t), (67, 1, (s.isLeader t).toNat), (68, 4, i.code), (72, 8, tc), (80, 3, tk),
      (83, 3, i.scope), (86, 1, i.dl), (87, 1, i.exact), (88, 4, i.d), (96, 16, x.r.predBits.toNat), (112, 8, x.r.written.toNat),
      (120, 3, x.r.k.toNat), (128, 32, x.status.toNat), (192, 64, i.w0), (256, 64, i.w1), (320, 64, i.w2), (384, 64, tp.1),
      (448, 64, tp.2.1), (512, 64, tp.2.2)] ++
     (List.range 8).map fun j => (1024 + 64 * j, 64, (x.r.latch.get j).toNat)))

/-- The 1,024-byte record of a crew (R355). -/
def State.crewImg (s : State) (c : Nat) : List Byte :=
  let x := s.crew c
  let lead := match x.leader with
    | some n => 128 + 32 * s.quadOf c + n
    | none => 0
  leBytes 1024 (pack
    ((List.range 64).map (fun k => (64 * k, 64, (x.s.get k).toNat)) ++
     [(4096, 32, x.gangReg.toNat), (4128, 24, x.gcount), (4152, 1, (s.atLatch c).isSome.toNat),
      (4160, 3, fmtNo x.afmt), (4163, 3, mopNo x.mop)] ++
     (List.range 5).map (fun n => (4224 + 12 * n, 12, s.counter c n)) ++
     (List.range 5).map (fun n => (4288 + 13 * n, 13, x.iss.get n)) ++
     [(4416, 64, x.vtim.toNat), (4480, 64, x.vtcmp.toNat), (4544, 8, lead)]))

/-! ### The workgroup state, the tarn, engine and replay records (R256, R356) -/

/-- A stash map entry in the form of R51. -/
def entryImg : Option MapEnt → Nat
  | some e => pack [(0, 57, e.gva), (64, 22, e.off), (86, 16, e.lines), (102, 1, e.ro.toNat), (103, 1, e.nofill.toNat), (104, 1, 1)]
  | none => 0

/-- Allocations of a workgroup. -/
def State.wgAllocs (s : State) (w : Nat) : List TAlloc := (s.core (s.wg w).core).allocs.filter (·.wg == w)

/-- An entry of the tarn directory. -/
def TAlloc.img (a : TAlloc) : Nat :=
  let ds := a.drainers.getD []
  pack ([(0, 6, a.base), (6, 6, a.n), (12, 1, a.i32.toNat), (13, 5, ds.length)] ++
    (ds.zip (List.range 16)).map fun (d, i) => (18 + 4 * i, 4, d))

/-- The 8,192 bytes of the workgroup-state section (R356). -/
def State.wgStateImg (s : State) (w : Nat) : List Byte :=
  let g := s.wg w
  (List.range 8).flatMap (fun i => leBytes 16 (entryImg (g.maps.getD i none))) ++
  (List.range 16).map (fun i => match g.streams.get i with
    | some x => if 1 ≤ i && i ≤ 7 then BitVec.ofNat 8 (scopeNo x.scope + 128 * x.isOpen.toNat) else 0
    | none => 0) ++
  [BitVec.ofNat 8 (pack ((List.range 4).map fun k => (k, 1, (!(g.probs.getD k {}).full).toNat)))] ++
  List.replicate 111 0 ++
  (List.range 4).flatMap (fun k => (List.range 256).flatMap fun e => leBytes 2 ((g.probs.getD k {}).freq.getD e 0)) ++
  (List.range 1024).flatMap (fun e => bytesOf 4 (g.books.get e)) ++
  (let al := (s.wgAllocs w).flatMap fun a => leBytes 16 a.img
   al ++ List.replicate (1792 - al.length) 0)

/-- Operand values of an operation at acceptance, and the entry kept beside them (R292, R356). -/
def EngOp.operands (o : EngOp) : Nat :=
  let a := fun i => o.args.getD i 0
  match o.instr with
  | .mwload _ _ _ _ _ _ => pack [(0, 64, a 0), (64, 32, a 2)]
  | .tdrain _ _ _ _ _ _ _ => pack [(0, 64, a 0), (64, 64, a 1), (128, 8, a 2), (136, 16, a 4), (152, 1, a 5)]
  | _ => a 0

/-- The interval that a coded operation resumes at and the CRC before it; a restored fetch that is still behind its saved point keeps that
point (R160, R273). -/
def EngOp.reached (o : EngOp) : Nat × Word :=
  match o.crcAt with
  | some (i, c) => if cdecIvl o.prog < i then (i, c) else (cdecIvl o.prog, cdecCrc o.prog)
  | none => (cdecIvl o.prog, cdecCrc o.prog)

/-- The 64-byte resume point: the record of R160 for a coded fetch or a CDEC, else the next byte, element or row, and Δ. -/
def EngOp.resume (o : EngOp) : Nat :=
  let a := fun i => o.args.getD i 0
  let dec := fun (base tile kind : Nat) =>
    pack [(0, 128, a 1), (128, 57, base), (192, 32, tile), (224, 16, o.reached.1), (240, 2, kind), (256, 32, o.reached.2.toNat)]
  match o.instr with
  | .mwload _ _ _ coded _ _ => if coded then dec (a 0) (a 2) 1 else pack [(0, 64, o.prog)]
  | .cdec _ _ _ _ => dec o.par.src.toNat o.par.n 2
  | .tdrain _ _ _ _ _ _ _ => pack [(0, 32, o.prog), (32, 8, a 3)]
  | _ => pack [(0, 64, o.prog)]

/-- The engine record of an operation; `flags` tells a tile that is latched, failed or of a former gang (R273, R291). -/
def State.opImg (s : State) (o : EngOp) (flags : Nat) : List Byte :=
  leBytes 192 (pack [(0, 3, o.engine), (3, 5, (s.crew o.crew).num), (8, 7, s.laneOf o.thread), (15, 1, (o.phase != .queued).toNat),
    (32, 32, o.seq), (64, 64, o.pc.toNat), (128, 64, wordOf o.instr), (192, 64, o.w.toNat), (256, 512, o.operands + flags * 2 ^ 96),
    (768, 512, o.resume)])

/-- Operand values of a joint operation (R291): what it was posted with, its members' crews, issue numbers and rows, and its tile. -/
def State.jointOperands (s : State) (j : Joint) : Nat :=
  let num := fun c => (s.crew c).num
  let tile := match s.tiles[j.tile]? with | some t => (match s.ops[t.op]? with | some o => o.seq | none => 0) | none => 0
  pack ([(0, 32, j.shape.toNat), (32, 32, j.window.toNat), (64, 8, j.base), (72, 3, j.crews.length), (243, 1, j.ovr.toNat),
      (244, 3, fmtNo j.afmt), (247, 3, mopNo j.mop), (250, 13, tile)] ++
    (j.crews.zip (List.range 6)).map (fun (c, i) => (75 + 4 * i, 4, num c)) ++
    (j.seqs.zip (List.range 6)).map (fun (q, i) => (99 + 13 * i, 13, q)) ++
    (j.va.zip (List.range 6)).map fun (v, i) => (177 + 11 * i, 11, v))

/-- The engine record of a posted joint operation. -/
def State.jointImg (s : State) (j : Joint) : List Byte :=
  leBytes 192 (pack [(0, 3, 2), (3, 5, (s.crew (j.crews.headD 0)).num), (8, 7, s.laneOf j.thread), (15, 1, 0), (32, 32, j.seqs.headD 0),
    (64, 64, j.pc.toNat), (128, 64, (j.instr.map wordOf).getD 0), (256, 512, s.jointOperands j)])

/-- Tiles of a workgroup to fetch again: those not latched and not failed, and latched or failed ones not released (R273). -/
def State.tileFlags (s : State) (w i : Nat) : Option Nat :=
  match s.tiles[i]? with
  | none => none
  | some t =>
    let open' := match s.ops[t.op]? with | some o => o.live | none => false
    if s.wgOfCrew t.crew != w then none
    else if open' || !s.tileReleased i then some (pack ([(0, 1, t.latched.toNat), (1, 1, t.failed.toNat), (2, 1, t.old.toNat), (27, 3, t.gang.length)] ++
      (t.gang.zip (List.range 6)).map fun (c, i) => (3 + 4 * i, 4, c)))
    else none

/-- Matrix-engine records of a workgroup with their place of acceptance. -/
def State.matrixImgs (s : State) (w : Nat) : List (Nat × List Byte) :=
  ((List.range s.tiles.length).filterMap fun i =>
    match s.tileFlags w i, (s.tiles[i]?).bind fun t => s.ops[t.op]? with
    | some f, some o => some (o.acc, s.opImg o f)
    | _, _ => none) ++
  (s.joints.filter fun j => j.live && j.posted.isSome && j.granted.isNone && j.wg == w).map (fun j => (j.acc, s.jointImg j)) ++
  (s.ops.filter fun o => o.live && o.engine == 4 && s.opWg o == w).map fun o => (o.acc, s.opImg o 0)

/-- Insertion by place of acceptance. -/
def insertBy (x : Nat × List Byte) : List (Nat × List Byte) → List (Nat × List Byte)
  | [] => [x]
  | y :: r => if x.1 < y.1 then x :: y :: r else y :: insertBy x r

/-- Engine records of a workgroup: copy unit, gather engine, matrix engine, each in acceptance order (R356). -/
def State.engineImgs (s : State) (w : Nat) : List (List Byte) :=
  let eng := fun n => (s.ops.filter fun o => o.live && o.engine == n && s.opWg o == w).map fun o => s.opImg o 0
  eng 0 ++ eng 1 ++ ((s.matrixImgs w).foldl (fun a x => insertBy x a) []).map (·.2)

/-- A replay record (R256); an access that has no ticket yet carries the id that no ticket has (log 21). -/
def State.replayImg (s : State) (i : Nat) : List Byte :=
  match s.racc[i]? with
  | none => List.replicate 48 0
  | some a =>
    leBytes 48 (pack [(0, 16, (a.tkid.getD 0xFFFF).toNat), (16, 11, a.owner.toNat), (32, 10, bits a.word 0 10), (42, 12, bits a.word 10 12),
      (54, 1, a.hold.toNat), (55, 1, (a.head || a.tkid.isNone).toNat), (64, 57, a.va.toNat), (128, 64, a.data.toNat), (192, 64, a.expect.toNat),
      (256, 11, if a.hold then a.d else 0), (267, 7, a.lane), (274, 4, (s.crew a.crew).num)])

/-! ### Workgroup images and the launch section (R353, R376) -/

/-- The registers of a workgroup, thread by thread (R353). -/
def State.regsImg (s : State) (w : Nat) : List Byte :=
  let n := (s.launch (s.wg w).launch).regcnt
  (s.wgThreads w).flatMap fun t => (List.range n).flatMap fun i => bytesOf 4 ((s.thr t).r.v.get i)

/-- The stash, mapped lines zero (R353). -/
def State.stashImg (s : State) (w : Nat) : List Byte :=
  (List.range (s.stashSize w)).map fun i => if ((s.wg w).entryOf (i / 64)).isSome then 0 else (s.wg w).stash.get i

/-- The rows of a workgroup's allocations. -/
def State.tarnImg (s : State) (w : Nat) : List Byte :=
  (s.wgAllocs w).flatMap fun a => (List.range a.rows).flatMap fun r => (List.range 256).flatMap fun c =>
    bytesOf 4 ((s.core (s.wg w).core).tarn.get (tarnKey a.base r c))

/-- Zero bytes up to a multiple of m. -/
def padTo (m : Nat) (bs : List Byte) : List Byte := bs ++ List.replicate ((m - bs.length % m) % m) 0

/-- Running offsets of sections from a start. -/
def offsets (start : Nat) : List (List Byte) → List Nat
  | [] => []
  | x :: r => start :: offsets (start + x.length) r

/-- One workgroup image, padded to a multiple of 4,096 (R353). -/
def State.wgImg (s : State) (w : Nat) : List Byte :=
  let g := s.wg w
  let l := s.launch g.launch
  let eng := s.engineImgs w
  let rep := (s.replayRecs w).map s.replayImg
  let secs := [(s.wgThreads w).flatMap (s.threadImg w), (s.wgCrews w).flatMap s.crewImg, s.regsImg w, s.stashImg w, s.wgStateImg w,
    s.tarnImg w, eng.flatten, rep.flatten]
  let hdr := leBytes 256 (pack
    ([(0, 16, l.lnum), (16, 25, coordBits g.wx g.wy g.wz), (41, 5, coreX g.core), (46, 4, coreY g.core), (50, 2, g.rot.toNat),
      (52, 5, g.ncrew), (57, 3, g.prio), (60, 1, (g.stage == .parked).toNat), (64, 16, l.regcnt), (96, 32, s.stashSize w),
      (640, 16, eng.length), (656, 16, rep.length), (672, 8, (s.wgAllocs w).length)] ++
     ((offsets 256 secs).zip (List.range 8)).map fun (o, i) => (128 + 64 * i, 64, o)))
  padTo 4096 (hdr ++ secs.flatten)

/-- TILEBAR arrivals of a launch: tile and arrived members (R376). -/
def State.tilebarImg (s : State) (l : Nat) : List Nat :=
  let x := s.launch l
  let arr := (List.range s.wgs.length).filter fun w =>
    (s.wg w).launch == l && (s.wg w).holds && (s.wgThreads w).any fun t => atBarrier true (s.thr t)
  let key := fun w => coordBits ((s.wg w).wx / 2 ^ x.ta) ((s.wg w).wy / 2 ^ x.tb) (s.wg w).wz
  ((arr.map key).dedup).map fun k => k + ((arr.filter fun w => key w == k && s.arrived true w).length) * 2 ^ 32

/-- Priority that a launch's undistributed workgroups would take now (R369). -/
def State.launchPrio (s : State) (l : Nat) : Nat :=
  let x := s.launch l
  x.fixPrio.getD (min x.prio ((s.part x.part).lqs.get x.queue).cap)

/-- Workgroups of a launch not yet started: returned, admitted and undistributed ones (R376). -/
def State.notStarted (s : State) (l : Nat) : List Nat :=
  let x := s.launch l
  (s.unstartedWgs l).map (fun w => coordBits (s.wg w).wx (s.wg w).wy (s.wg w).wz) ++ x.returned ++ s.undistributed l

/-- Ascending wz. -/
def insertWz (x : Nat) : List Nat → List Nat
  | [] => [x]
  | y :: r => if x / 512 < y / 512 then x :: y :: r else y :: insertWz x r

/-- One launch's entry, padded to 8 (R376). -/
def State.launchImg (s : State) (l : Nat) : List Byte :=
  let x := s.launch l
  let u := (s.notStarted l).foldl (fun a c => insertWz c a) []
  let t := s.tilebarImg l
  padTo 8 (leBytes 128 x.raw.toNat ++ leBytes 2 x.lnum ++ leBytes 1 x.state ++ leBytes 1 (s.launchPrio l) ++ leBytes 4 u.length ++
    u.flatMap (leBytes 4) ++ leBytes 4 t.length ++ t.flatMap (leBytes 8))

/-- The launch section (R376). -/
def State.launchSec (s : State) (p ctx : Nat) : List Byte :=
  let ls := s.ctxLaunches p ctx
  padTo 8 (leBytes 4 ls.length) ++ ls.flatMap s.launchImg

/-- The image of a context without the fields that the supervisor writes: header, workgroup directory, launch section, workgroup
images (R352). -/
def State.image (s : State) (p ctx : Nat) (capacity bo : Nat) : List Byte :=
  let ws := s.imageWgs p ctx
  let imgs := ws.map s.wgImg
  let launchAt := 64 + 8 * ws.length
  let front := launchAt + (s.launchSec p ctx).length
  let start := (front + 4095) / 4096 * 4096
  let used := start + (imgs.map (·.length)).sum
  let hdr := leBytes 64 (pack [(0, 16, 0xC7A5), (16, 8, 1), (32, 16, ctx), (48, 16, ws.length), (64, 64, capacity), (128, 64, bo),
    (192, 64, used), (256, 64, launchAt), (320, 64, 64), (384, 64, s.cyc.toNat)])
  padTo 4096 (hdr ++ (offsets start imgs).flatMap (leBytes 8) ++ s.launchSec p ctx) ++ imgs.flatten

/-- CTXSZ (R345). -/
def State.ctxSize (s : State) (p ctx : Nat) : Nat :=
  if s.ctxState p ctx = 3 then (s.image p ctx 0 0).length else 0

end Sys2Proof.Machine
end

