-- ==== Sys2Proof/Machine/ImageLoad.lean ====
section
/-! DEFINITION. Reading a save image: its checks (R357) and the restoration of a context from it (R358). -/

namespace Sys2Proof.Machine

/-- The n bytes of an image at an offset, as a number. -/
def imgNat (bs : List Byte) (off n : Nat) : Nat := leNat ((bs.drop off).take n)

/-- The first of some checks that fails, by its offset. -/
def firstBad : List (Nat × Bool) → Option Nat
  | [] => none
  | (o, ok) :: r => if ok then firstBad r else some o

/-- Check 0x01 of R366: the reserved bits of a launch record are zero, and sa and sb unless steal = 1. -/
def Launch.reservedOk (l : Launch) : Bool :=
  l.f 182 10 == 0 && l.f 222 2 == 0 && l.f 249 7 == 0 && l.f 672 32 == 0 && l.f 768 256 == 0 &&
    (l.steal || (l.sa == 0 && l.sb == 0))

/-- The fields of a launch record are in their ranges (R365). -/
def Launch.rangesOk (l : Launch) : Bool := l.reservedOk && l.ta ≤ 5 && l.tb ≤ 4 && l.sa ≤ 5 && l.sb ≤ 4

/-- The TILEBAR tiles and the steal tile of a launch lie within a partition, and its rectangle is whole tiles (R366, R374). -/
def Launch.tilesOk (l : Launch) (p : Part) : Bool :=
  l.w % 2 ^ l.ta == 0 && l.h % 2 ^ l.tb == 0 && l.ta ≤ p.pa && l.tb ≤ p.pb &&
    (!l.steal || (l.ta == 0 && l.tb == 0 && l.sa ≤ p.pa && l.sb ≤ p.pb)) &&
    (!l.org || (l.rox % 2 ^ l.ta == 0 && l.roy % 2 ^ l.tb == 0))

/-- Causes by code (R335). -/
def causeOf (n : Nat) : Option Cause :=
  [.illegalOpcode, .illegalFormat, .illegalOperand, .illegalPair, .illegalLatch, .badTarget, .illegalLine, .privilege, .illegalContext,
   .illegalCollective, .misaligned, .access, .leaseViolation, .pageDiscarded, .translation, .tarnUnalloc, .tarnBand, .streamMalformed,
   .promiseMissed, .assert, .breakpoint, .userTrap, .timer, .stashMap, .poison, .fabricError, .ticketAbort, .counterSaturated].find?
    fun (c : Cause) => c.code == n

/-! ### The launch section (R376) -/

/-- One entry of the launch section as read, with its offset. -/
structure LaunchEnt where
  off   : Nat
  raw   : BitVec 1024
  lnum  : Nat
  state : Nat
  prio  : Nat
  todo  : List Nat
  tiles : List Nat
  deriving DecidableEq, Repr

/-- The entry at an offset, and the offset after it. -/
def launchEnt (bs : List Byte) (o : Nat) : LaunchEnt × Nat :=
  let u := imgNat bs (o + 132) 4
  let t := imgNat bs (o + 136 + 4 * u) 4
  let stop := o + 140 + 4 * u + 8 * t
  ({ off := o, raw := BitVec.ofNat 1024 (imgNat bs o 128), lnum := imgNat bs (o + 128) 2, state := imgNat bs (o + 130) 1,
     prio := imgNat bs (o + 131) 1, todo := (List.range u).map fun i => imgNat bs (o + 136 + 4 * i) 4,
     tiles := (List.range t).map fun i => imgNat bs (o + 140 + 4 * u + 8 * i) 8 }, (stop + 7) / 8 * 8)

/-- The entries of the launch section, while they lie in the image. -/
def launchEnts (bs : List Byte) : Nat → Nat → List LaunchEnt
  | 0, _ => []
  | n + 1, o => if bs.length < o + 140 + 4 * imgNat bs (o + 132) 4 then [] else (launchEnt bs o).1 :: launchEnts bs n (launchEnt bs o).2

/-- The ranges of an entry, its rectangle, origin, steal tile and TILEBAR tiles within the partition (R374; log 82). -/
def LaunchEnt.checks (p : Part) (e : LaunchEnt) : List (Nat × Bool) :=
  let l : Launch := { raw := e.raw }
  let inside := fun (c : Nat) => nbits c 0 5 < l.w && nbits c 5 4 < l.h && nbits c 9 16 < l.d && nbits c 25 7 == 0
  [(e.off, l.rangesOk && l.w ≤ 2 ^ p.pa && l.h ≤ 2 ^ p.pb && (!l.org || l.fitsAt p l.rox l.roy) && l.tilesOk p), (e.off + 130, e.state == 1 || e.state == 2), (e.off + 131, e.prio ≤ 7), (e.off + 136, e.todo.all inside),
    (e.off + 140 + 4 * e.todo.length, e.tiles.all fun t => nbits t 25 7 == 0 && nbits t 48 16 == 0)]

/-! ### Workgroup images (R353 to R356) -/

/-- Launch entries of an image. -/
def imgLaunches (bs : List Byte) : List LaunchEnt :=
  let o := imgNat bs 0x20 8
  launchEnts bs (imgNat bs o 4) (o + 8)

/-- The launch entry of a workgroup image at an offset. -/
def imgLaunchOf (bs : List Byte) (o : Nat) : Option LaunchEnt := (imgLaunches bs).find? (·.lnum == imgNat bs o 2)

/-- Offset of section i of a workgroup image. -/
def secAt (bs : List Byte) (o i : Nat) : Nat := o + imgNat bs (o + 16 + 8 * i) 8

/-- Crews of a workgroup image. -/
def imgCrews (bs : List Byte) (o : Nat) : Nat := nbits (imgNat bs (o + 2) 6) 36 5

/-- A gang register's list is one GANG could have made (R264, R265). -/
def gangOk (g n : Nat) : Bool :=
  let k := nbits g 24 3
  (k == 0 && nbits g 0 24 == 0 && nbits g 27 5 == 0) ||
    (2 ≤ k && k ≤ 6 && nbits g 27 3 < k && ((List.range k).all fun i => nbits g (4 * i) 4 < n) && nbits g 0 24 / 16 ^ k == 0)

/-- The instruction of a word that takes no extension. -/
def instrOf (w : Nat) : Option Instr :=
  match decodeWord (BitVec.ofNat 64 w) 0 with
  | .ok i => if takesExt (BitVec.ofNat 64 w) then none else some i
  | .format _ => none

/-- The instruction belongs to an engine's records. -/
def engineFits (e : Nat) : Instr → Bool
  | .copy _ _ _ _ => e == 0
  | .copyt _ _ _ _ => e == 0
  | .cbload _ _ _ => e == 0
  | .cbcopy _ _ _ _ => e == 0
  | .cdec _ _ _ _ => e == 0
  | .zfill _ _ _ _ => e == 0
  | .gather _ _ _ _ => e == 1
  | .scatter _ _ _ _ => e == 1
  | .mma _ _ _ _ _ => e == 2
  | .mmaw _ _ _ _ _ => e == 2
  | .mwload _ _ _ _ _ _ => e == 3
  | .tdrain _ _ _ _ _ _ _ => e == 4
  | _ => false

/-- What a replay record's opcode and c field say the access does (R253, R256). -/
def kindOf (op c : Nat) : Option Instr :=
  if op == 0x1C5 || op == 0x1C6 then none
  else instrOf (c + (if op == 0x1C0 then 0x808 else 0) * 2 ^ 12 + op * 2 ^ 53)

/-- The ranges of a thread record. -/
def threadChecks (bs : List Byte) (o : Nat) : List (Nat × Bool) :=
  let n := imgNat bs o 192
  [(o + 8, nbits n 64 3 != 1 && nbits n 64 3 != 7 && nbits n 68 4 ≤ 12), (o + 9, nbits n 72 8 == 0 || (causeOf (nbits n 72 8)).isSome),
    (o + 10, nbits n 80 3 ≤ 3 && nbits n 83 3 ≤ 4), (o + 11, nbits n 92 4 == 0), (o + 15, nbits n 123 5 == 0),
    (o + 16, nbits n 133 3 == 0 && nbits n 137 23 == 0), (o + 20, nbits n 160 32 == 0), (o + 72, nbits n 576 448 == 0)]

/-- The ranges of a crew record; `q` is its quadrant. -/
def crewChecks (bs : List Byte) (o q ncrew : Nat) : List (Nat × Bool) :=
  [(o + 512, gangOk (imgNat bs (o + 512) 4) ncrew), (o + 516, nbits (imgNat bs (o + 516) 4) 25 7 == 0),
    (o + 520, nbits (imgNat bs (o + 520) 1) 0 3 ≤ 3 && nbits (imgNat bs (o + 520) 1) 3 3 ≤ 4 && nbits (imgNat bs (o + 520) 1) 6 2 == 0),
    (o + 568, imgNat bs (o + 568) 1 < 128 || nbits (imgNat bs (o + 568) 1) 5 2 == q)]

/-- The ranges of a workgroup-state section. -/
def wgStateChecks (bs : List Byte) (o size allocs ncrew : Nat) : List (Nat × Bool) :=
  (List.range 8).map (fun i =>
    let e := imgNat bs (o + 16 * i) 16
    let ok : Bool := match entryOfQuad (e % 2 ^ 104) with | some x => x.off + 64 * x.lines ≤ size && nbits e 105 23 == 0 | none => false
    (o + 16 * i, nbits e 57 7 == 0 && nbits e 105 23 == 0 && (nbits e 104 1 == 0 || ok))) ++
  (List.range 7).map (fun i =>
    (o + 129 + i, decide (nbits (imgNat bs (o + 129 + i) 1) 0 3 ≤ 4) && nbits (imgNat bs (o + 129 + i) 1) 3 4 == 0)) ++
  [(o + 144, decide (imgNat bs (o + 144) 1 < 16))] ++
  (List.range 4).map (fun k =>
    (o + 256 + 512 * k, nbits (imgNat bs (o + 144) 1) k 1 == 1 || freqOk (freqsOf 256 ((bs.drop (o + 256 + 512 * k)).take 512)))) ++
  (List.range allocs).map fun i =>
    let a := imgNat bs (o + 6400 + 16 * i) 16
    (o + 6400 + 16 * i, 1 ≤ nbits a 6 6 && nbits a 0 6 + nbits a 6 6 ≤ 48 && nbits a 13 5 ≤ 16 && nbits a 82 46 == 0 &&
      (List.range (nbits a 13 5)).all fun j => nbits a (18 + 4 * j) 4 < ncrew)

/-- An operation from its engine record. -/
def restoreOp (bs : List Byte) (r core base : Nat) (crews : Nat → Nat) (order acc : Nat) (i : Instr) : EngOp :=
  let n := imgNat bs r 32
  let e := nbits n 0 3
  let c := nbits n 3 5
  let args := imgNat bs (r + 32) 64
  let res := imgNat bs (r + 96) 64
  let coded := match i with | .mwload _ _ _ x _ _ => x | _ => false
  let ivl := nbits res 224 16
  let crc : Word := BitVec.ofNat 32 (nbits res 256 32)
  let av := match i with
    | .mwload _ _ _ _ _ _ => [nbits args 0 64, nbits res 0 128, nbits args 64 32]
    | .tdrain _ _ _ _ _ _ _ =>
      [nbits args 0 64, nbits args 64 64, nbits args 128 8, nbits res 32 8, nbits args 136 16, nbits args 152 1]
    | .cdec _ _ _ _ => [args, nbits res 0 128]
    | _ => [args]
  let p := engPar i args
  { engine := e, core := core, icore := core, crew := base + c, thread := crews (base + c) + nbits n 8 5, pc := BitVec.ofNat 64 (nbits n 64 64),
    instr := i, args := av, cls := if e = 0 then 0 else if e = 1 then 1 else 2, seq := nbits n 32 13,
    stream := match i with
      | .mwload _ _ _ _ _ st => st.toNat
      | .tdrain _ _ _ _ _ _ _ => 0
      | .cbload _ _ _ => 0
      | i => (engMod i).stream.toNat,
    scope := match i with
      | .mwload _ _ _ _ _ _ => .core
      | .tdrain _ _ _ _ _ _ _ => .core
      | .cbload _ _ _ => .core
      | i => (engMod i).scope,
    bo := if e ≤ 1 then (match i with | .cbload _ _ _ => none | _ => p.bo) else none,
    inc := if e ≤ 1 then p.inc else 0, w := BitVec.ofNat 64 (nbits n 192 64), phase := .queued,
    prog := match i with
      | .cdec _ _ _ _ => cdecAt ivl crc
      | .mwload _ _ _ _ _ _ => 0
      | .tdrain _ _ _ _ _ _ _ => nbits res 0 32
      | _ => nbits res 0 64,
    order := order, acc := acc, crcAt := if coded && 0 < ivl then some (ivl, crc) else none }

/-- The operand values of an engine record are such as its instruction could have been accepted with, and its reserved bits are zero: of a
class 9 copy by the checks of R293 and R299 to R309, of a joint operation by those of R277, of a TDRAIN by those of R286 (R356, R357). -/
def argsOk (regs ncrew : Nat) (i : Instr) (args : Nat) : Bool :=
  match i with
  | .mma _ _ _ _ _ | .mmaw _ _ _ _ _ =>
    let shape : Word := BitVec.ofNat 32 (nbits args 0 32)
    let k := nbits args 72 3
    bits shape 10 6 == 0 && bits shape 27 5 == 0 && shQmask shape != 15 && nbits args 48 16 == 0 && nbits args 64 8 < 48 &&
      2 ≤ k && k ≤ 6 && ((List.range k).all fun j => nbits args (75 + 4 * j) 4 < ncrew) && nbits args 75 24 / 16 ^ k == 0 &&
      nbits args 99 78 / 2 ^ (13 * k) == 0 && nbits args 244 3 ≤ 3 && nbits args 247 3 ≤ 4 &&
      ((List.range k).all fun j => nbits args (177 + 11 * j) 11 + footOf (fmtOf (nbits args 244 3)) ≤ regs) &&
      nbits args 177 66 / 2 ^ (11 * k) == 0 && args / 2 ^ 263 == 0
  | .mwload _ _ _ coded _ _ =>
    let k := nbits args 123 3
    (coded || nbits args 64 32 == 0) && k ≤ 6 && ((List.range k).all fun j => nbits args (99 + 4 * j) 4 < ncrew) &&
      nbits args 99 24 / 16 ^ k == 0 && args / 2 ^ 126 == 0
  | .tdrain _ _ _ _ _ _ _ =>
    let n := nbits args 75 11
    nbits args 86 10 == 0 && 1 ≤ n && n ≤ 1536 && nbits args 128 8 < 48 && nbits args 136 16 ≤ 1536 && args / 2 ^ 153 == 0
  | .cbload _ _ _ => args / 2 ^ 66 == 0
  | i => !(engPar i args).bad && ((engMod i).pb || args / 2 ^ 256 == 0)

/-- The resume point of an engine record is in its range and its reserved bits are zero: the record of R160 for a coded fetch or a CDEC, the
next byte or element of another copy, the row and Δ of a TDRAIN (R134, R356, R357). -/
def resumeOk (i : Instr) (args res size : Nat) : Bool :=
  let dec := fun (mw : Bool) =>
    !(entryOfNat (nbits res 0 128)).bad mw && nbits res 185 7 == 0 && nbits res 240 2 ≤ 2 && nbits res 242 14 == 0 &&
      nbits res 224 16 ≤ (entryOfNat (nbits res 0 128)).intervals && nbits res 288 224 == 0
  match i with
  | .mma _ _ _ _ _ | .mmaw _ _ _ _ _ => res == 0
  | .mwload _ _ _ coded _ _ => if coded then dec true else res / 2 ^ 64 == 0
  | .cdec _ _ _ _ => dec false
  | .tdrain _ _ _ _ _ _ _ => nbits res 0 32 ≤ nbits args 75 11 && 1 ≤ nbits res 32 8 && nbits res 32 8 ≤ 15 && res / 2 ^ 40 == 0
  | _ => res ≤ size

/-- The ranges of an engine record. -/
def engineChecks (bs : List Byte) (o regs ncrew : Nat) : List (Nat × Bool) :=
  let n := imgNat bs o 32
  let args := imgNat bs (o + 32) 64
  let res := imgNat bs (o + 96) 64
  let i := instrOf (nbits n 128 64)
  let on := fun (f : Instr → Bool) => match i with | some i => f i | none => true
  [(o, nbits n 0 3 ≤ 4 && nbits n 3 5 < ncrew), (o + 4, nbits n 32 32 < 8192),
    (o + 16, match i with | some i => engineFits (nbits n 0 3) i | none => false), (o + 32, on fun i => argsOk regs ncrew i args),
    (o + 96, on fun i => resumeOk i args res (restoreOp bs o 0 0 (fun _ => 0) 0 0 i).size)]

/-- The ranges of a replay record (R256). -/
def replayChecks (bs : List Byte) (o ncrew : Nat) : List (Nat × Bool) :=
  let n := imgNat bs o 48
  [(o + 3, nbits n 27 5 == 0), (o + 4, (kindOf (nbits n 32 10) (nbits n 42 12)).isSome && 0x1C0 ≤ nbits n 32 10 && nbits n 32 10 ≤ 0x1C7),
    (o + 7, nbits n 56 8 == 0), (o + 15, nbits n 121 7 == 0), (o + 34, nbits n 274 4 < ncrew), (o + 35, nbits n 278 106 == 0)]

/-- The core of a workgroup image lies in the partition, at its place in a rectangle there, or in a STEAL launch anywhere in its rectangle
(R21, R43, R374; log 82). -/
def Launch.coreOk (l : Launch) (p : Part) (n : Nat) : Bool :=
  let x := nbits n 25 5
  let y := nbits n 30 4
  let ox := x - nbits n 0 5
  let oy := y - nbits n 5 4
  p.px ≤ x && x < p.px + 2 ^ p.pa && p.py ≤ y && y < p.py + 2 ^ p.pb &&
    if l.steal then !l.org || (l.rox ≤ x && x < l.rox + l.w && l.roy ≤ y && y < l.roy + l.h)
    else nbits n 0 5 ≤ x && nbits n 5 4 ≤ y && ox % 2 ^ l.ta == 0 && oy % 2 ^ l.tb == 0 && l.fitsAt p ox oy &&
      (!l.org || (ox == l.rox && oy == l.roy))

/-- The ranges of a workgroup image at an offset. -/
def wgChecks (p : Part) (bs : List Byte) (o : Nat) : List (Nat × Bool) :=
  match imgLaunchOf bs o with
  | none => [(o, false)]
  | some e =>
    let l : Launch := { raw := e.raw }
    let n := imgNat bs (o + 2) 6
    let nc := imgCrews bs o
    let size := imgNat bs (o + 12) 4
    let rot := nbits n 34 2
    let eng := imgNat bs (o + 0x50) 2
    let rep := imgNat bs (o + 0x52) 2
    let al := imgNat bs (o + 0x54) 1
    [(o + 2, nbits n 0 5 < l.w && nbits n 5 4 < l.h && nbits n 9 16 < l.d && l.coreOk p n), (o + 6, nc == l.ncrew), (o + 7, nbits n 45 3 == 0),
      (o + 8, imgNat bs (o + 8) 2 == l.regcnt), (o + 12, size == l.stash4k * 4096), (o + 0x52, rep ≤ 64), (o + 0x54, al ≤ 48)] ++
    (List.range 8).map (fun i => (o + 16 + 8 * i, decide (secAt bs o i ≤ bs.length))) ++
    (List.range (32 * nc)).flatMap (fun t => threadChecks bs (secAt bs o 0 + 192 * t)) ++
    (List.range nc).flatMap (fun c => crewChecks bs (secAt bs o 1 + 1024 * c) ((c + rot) % 4) nc) ++
    wgStateChecks bs (secAt bs o 4) size al nc ++
    (List.range eng).flatMap (fun i => engineChecks bs (secAt bs o 6 + 192 * i) l.regcnt nc) ++
    (List.range rep).flatMap fun i => replayChecks bs (secAt bs o 7 + 48 * i) nc

/-- Offsets of the workgroup images. -/
def imgDir (bs : List Byte) : List Nat := (List.range (imgNat bs 6 2)).map fun i => imgNat bs (imgNat bs 0x28 8 + 8 * i) 8

/-- The first field of an image out of its range, by offset (R357, step 3). -/
def imageBad (p : Part) (bs : List Byte) : Option Nat :=
  match firstBad [(3, imgNat bs 3 1 == 0), (0x18, bs.length == imgNat bs 0x18 8 && 64 ≤ bs.length),
      (0x20, imgNat bs 0x20 8 + 8 ≤ bs.length), (0x28, imgNat bs 0x28 8 + 8 * imgNat bs 6 2 ≤ bs.length), (0x38, imgNat bs 0x38 8 == 0)] with
  | some o => some o
  | none =>
    let o := imgNat bs 0x20 8
    let ls := imgLaunches bs
    match firstBad ((o, ls.length == imgNat bs o 4) :: ls.flatMap (LaunchEnt.checks p)) with
    | some o => some o
    | none =>
      let dir := imgDir bs
      match firstBad ((dir.zip (List.range dir.length)).map fun (d, i) =>
          (imgNat bs 0x28 8 + 8 * i, d % 4096 == 0 && d + 256 ≤ bs.length)) with
      | some o => some o
      | none => dir.findSome? fun d => firstBad (wgChecks p bs d)

/-! ### Restoring (R358) -/

/-- A launch of the image: the one that was saved under its number, else a new one; its index. The saved origin stays where the record as the
image holds it still fits there (R374, R376). -/
def State.restoreLaunch (s : State) (p ctx : Nat) (e : LaunchEnt) : State × Nat :=
  let r : Launch := { raw := e.raw }
  let f := fun (l : Launch) =>
    { l with
      placed := l.placed && r.fitsAt (s.part p) l.ox l.oy && l.ox % 2 ^ r.ta == 0 && l.oy % 2 ^ r.tb == 0 &&
        (!r.org || (l.ox == r.rox && l.oy == r.roy))
      raw := e.raw, part := p, queue := 64, lnum := e.lnum, ctx := ctx, state := e.state, fixPrio := some e.prio,
      dist := r.total, returned := e.todo }
  match s.launches.findIdx? fun l => l.part == p && l.ctx == ctx && l.lnum == e.lnum && l.state == 6 with
  | some i => (s.updLaunch i f, i)
  | none => ({ s with launches := s.launches ++ [f {}] }, s.launches.length)

/-- A thread's wait from its record; `acc0` is the index of the workgroup's first replay record, `acc1` the one after its last, `seq` its
crew's latest MATRIX issue number. -/
def State.restoreWait (s : State) (n : Nat) (r : Regs) (acc0 acc1 seq : Nat) : Option Wait :=
  let w0 := nbits n 192 64
  let d : BitVec 11 := BitVec.ofNat 11 (nbits n 88 4)
  match nbits n 68 4 with
  | 1 => some .wgbar
  | 2 => some .tilebar
  | 3 => some .cbar
  | 4 =>
    let w1 := nbits n 256 64
    (instrOf w0).map fun i => .coll i (r.guard (collHdr i)) (w1 % 2 == 1) (w1 / 2 % 16)
  | 5 => some (.elect d)
  | 6 => some (.waitge (BitVec.ofNat 64 w0) (BitVec.ofNat 64 (nbits n 256 64))
      (if nbits n 86 1 = 1 then some (BitVec.ofNat 64 (nbits n 320 64)) else none) (scopeOfNo (nbits n 83 3)) d)
  | 7 => some (.opwait w0 (nbits n 256 64))
  | 8 => some (.sleep (BitVec.ofNat 64 w0))
  | 9 => some (.pwait (BitVec.ofNat 64 w0) (promiseTime s.cyc (BitVec.ofNat 64 w0)) (nbits n 87 1 == 1))
  | 10 => (instrOf w0).map fun i => .cinch i seq
  | 11 => some (.held (acc0 + w0))
  | 12 => some (.remote acc1)
  | _ => none

/-- A thread's state from its record. -/
def State.restoreTState (s : State) (n : Nat) (r : Regs) (acc0 acc1 seq : Nat) : TState :=
  match nbits n 64 3 with
  | 2 => ((s.restoreWait n r acc0 acc1 seq).map TState.waiting).getD .ready
  | 3 => ((s.restoreWait n r acc0 acc1 seq).map TState.parkedRemote).getD .ready
  | 4 => .sleeping
  | 5 => .exited
  | 6 =>
    match causeOf (nbits n 72 8) with
    | some c =>
      if nbits n 80 3 = 2 then .ready
      else .waiting (.trap (nbits n 80 3)
        { cause := c, addr := BitVec.ofNat 64 (nbits n 448 64), aux := BitVec.ofNat 64 (nbits n 512 64) } (BitVec.ofNat 64 (nbits n 384 64)))
    | none => .ready
  | _ => .ready

/-- A thread from its record and its registers; the next PC is that of the instruction it waits in, which takes no extension word (R165). -/
def State.restoreThread (s : State) (crew num n : Nat) (regs : List Byte) (cnt acc0 acc1 seq : Nat) (late : List AsyncTrap) : Thread :=
  let r : Regs :=
    { pc := BitVec.ofNat 64 (nbits n 0 64), npc := nextPc (BitVec.ofNat 64 (nbits n 0 64)) false,
      v := (List.range cnt).foldl (fun m i => m.set i (BitVec.ofNat 32 (imgNat regs (4 * i) 4))) [],
      p := BitVec.ofNat 16 (nbits n 96 16) &&& ~~~1#16,
      latch := (List.range 8).foldl (fun m j => m.set j (BitVec.ofNat 64 (nbits n (1024 + 64 * j) 64))) [],
      written := BitVec.ofNat 8 (nbits n 112 8), k := BitVec.ofNat 3 (nbits n 120 3) }
  let pend : List AsyncTrap :=
    if nbits n 64 3 != 6 && nbits n 80 3 = 1 then
      ((causeOf (nbits n 72 8)).map fun c =>
        ({ info := { cause := c, addr := BitVec.ofNat 64 (nbits n 448 64), aux := BitVec.ofNat 64 (nbits n 512 64) },
           opc := BitVec.ofNat 64 (nbits n 384 64) } : AsyncTrap)).toList
    else []
  { crew := crew, num := num, r := r, status := BitVec.ofNat 9 (nbits n 128 9), st := s.restoreTState n r acc0 acc1 seq,
    async := pend ++ late, lastIssue := s.cyc.toNat, readyAt := s.cyc.toNat }

/-- The operations that a restored crew still waits for, by class (R105, R250): its counters say how many, its issue numbers which;
those of `open'` are not done. -/
def restoreOutst (counts iss : Nat) (open' : List (Nat × Nat)) : List Outst :=
  (List.range 5).flatMap fun cls =>
    let k := nbits counts (12 * cls) 12
    let q := nbits iss (13 * cls) 13
    (List.range k).map fun i =>
      let seq := (q + 8192 - k + i) % 8192
      ⟨cls, seq, !open'.contains (cls, seq)⟩

/-- A crew from its record. -/
def restoreCrew (bs : List Byte) (o wg num base : Nat) (timer : Bool) (open' : List (Nat × Nat)) : Crew :=
  let g := imgNat bs (o + 512) 4
  let n := nbits g 24 3
  let counts := imgNat bs (o + 528) 8
  let iss := imgNat bs (o + 536) 9
  let lead := imgNat bs (o + 568) 1
  { wg := wg, num := num, base := base,
    s := (List.range 64).foldl (fun m k => m.set k (BitVec.ofNat 64 (imgNat bs (o + 8 * k) 8))) [],
    members := (List.range n).map fun i => nbits g (4 * i) 4, idx := nbits g 27 3, wf := nbits g 30 1 == 1, tl := nbits g 31 1 == 1,
    gcount := nbits (imgNat bs (o + 516) 4) 0 24, afmt := fmtOf (nbits (imgNat bs (o + 520) 1) 0 3),
    mop := mopOf (nbits (imgNat bs (o + 520) 1) 3 3), outst := restoreOutst counts iss open',
    iss := (List.range 5).foldl (fun m c => m.set c (nbits iss (13 * c) 13)) [],
    vtim := BitVec.ofNat 64 (imgNat bs (o + 552) 8), vtcmp := BitVec.ofNat 64 (imgNat bs (o + 560) 8),
    leader := if 128 ≤ lead then some (lead % 32) else none, timer := timer }

/-- Class and issue number of an engine record's operation, unless its count has left (a latched tile). -/
def recOpen (bs : List Byte) (o : Nat) : Option (Nat × Nat) :=
  let e := nbits (imgNat bs o 1) 0 3
  if e = 3 && nbits (imgNat bs (o + 32) 16) 96 2 != 0 then none
  else some (if e = 0 then 0 else if e = 1 then 1 else 2, imgNat bs (o + 4) 4 % 8192)

/-- Open operations of crew c of a workgroup image: engine records, the members of joint operations, the oldest of its remote counts
as many as posted replay records, an MMA that waits at the latch (R37, R291), and basin commands still running for it. -/
def State.restoreOpen (s : State) (bs : List Byte) (o c crew : Nat) : List (Nat × Nat) :=
  let eng := (List.range (imgNat bs (o + 0x50) 2)).map fun i => secAt bs o 6 + 192 * i
  let own := eng.filterMap fun r => if nbits (imgNat bs r 1) 3 5 = c && nbits (imgNat bs r 1) 0 3 != 2 then recOpen bs r else none
  let joint := eng.flatMap fun r =>
    if nbits (imgNat bs r 1) 0 3 = 2 then
      let n := imgNat bs (r + 32) 64
      (List.range (nbits n 72 3)).filterMap fun i => if nbits n (75 + 4 * i) 4 = c then some (2, nbits n (99 + 13 * i) 13) else none
    else []
  let posted := ((List.range (imgNat bs (o + 0x52) 2)).filter fun i =>
    let n := imgNat bs (secAt bs o 7 + 48 * i) 48
    nbits n 274 4 == c && nbits n 54 1 == 0).length
  let co := secAt bs o 1 + 1024 * c
  let k := nbits (imgNat bs (co + 528) 8) 48 12
  let q := nbits (imgNat bs (co + 536) 9) 52 13
  let latch := if nbits (imgNat bs (co + 516) 4) 24 1 = 1 then [(2, (nbits (imgNat bs (co + 536) 9) 26 13 + 8191) % 8192)] else []
  own ++ joint ++ latch ++ ((List.range posted).map fun i => (4, (q + 8192 - k + i) % 8192)) ++
    (s.cmds.filter fun x => x.live && x.crew == crew).map fun x => (3, x.seq)

/-- A workgroup's own part of its image: stash, entries, tables, streams. -/
def restoreWg (bs : List Byte) (o : Nat) (g : Wg) : Wg :=
  let size := imgNat bs (o + 12) 4
  let st := secAt bs o 4
  { g with
    stash := putBytes [] 0 ((bs.drop (secAt bs o 3)).take size),
    maps := (List.range 8).map fun i =>
      let e := imgNat bs (st + 16 * i) 16
      if nbits e 104 1 = 1 then entryOfQuad (e % 2 ^ 104) else none,
    lines := [],
    probs := (List.range 4).map fun k =>
      if nbits (imgNat bs (st + 144) 1) k 1 = 1 then {}
      else { full := true, freq := (List.range 256).map fun e => imgNat bs (st + 256 + 512 * k + 2 * e) 2 },
    books := (List.range 1024).foldl (fun m e => m.set e (BitVec.ofNat 32 (imgNat bs (st + 2304 + 4 * e) 4))) [],
    streams := (List.range 7).foldl (fun m i =>
      let b := imgNat bs (st + 129 + i) 1
      if 128 ≤ b then m.set (i + 1) (some ⟨scopeOfNo (nbits b 0 3), true⟩) else m) [],
    wbHold := false }

/-- The tarn allocations of a workgroup image. -/
def imgAllocs (bs : List Byte) (o w : Nat) : List TAlloc :=
  (List.range (imgNat bs (o + 0x54) 1)).map fun i =>
    let a := imgNat bs (secAt bs o 4 + 6400 + 16 * i) 16
    let n := nbits a 13 5
    { wg := w, base := nbits a 0 6, n := nbits a 6 6, i32 := nbits a 12 1 == 1,
      drainers := if n = 0 then none else some ((List.range n).map fun j => nbits a (18 + 4 * j) 4) }

/-- Restore the rows of allocations, in directory order. -/
def restoreTarn (bs : List Byte) : Nat → List TAlloc → Store Word → Store Word
  | _, [], t => t
  | o, a :: r, t =>
    restoreTarn bs (o + 1024 * a.rows) r ((List.range (256 * a.rows)).foldl (fun m e =>
      m.set (tarnKey a.base (e / 256) (e % 256)) (BitVec.ofNat 32 (imgNat bs (o + 4 * e) 4))) t)

/-- The place of a restored operation among those of its stream: the one that it had, where the core still has it (R111). -/
def State.savedOrder (s : State) (o : EngOp) : Nat :=
  s.ops.foldl (fun n x => if x.saved && x.crew == o.crew && x.cls == o.cls && x.seq == o.seq && x.instr == o.instr then x.order else n) o.order

/-- One engine record is queued again (R273, R291, R297). -/
def State.restoreRec (s : State) (bs : List Byte) (r w : Nat) : State :=
  let g := s.wg w
  let n := imgNat bs r 32
  let e := nbits n 0 3
  let args := imgNat bs (r + 32) 64
  match instrOf (nbits n 128 64) with
  | none => s
  | some i =>
    if e = 2 then
      let k := nbits args 72 3
      let crews := (List.range k).map fun j => g.base + nbits args (75 + 4 * j) 4
      let va := (List.range k).map fun j => nbits args (177 + 11 * j) 11
      let f := fmtOf (nbits args 244 3)
      let tile := (List.range s.tiles.length).foldl (fun best i =>
        match (s.tiles[i]?).bind fun t => (s.ops[t.op]?).map fun x => (t.crew, x.seq) with
        | some (c, q) => if c == crews.headD 0 && q == nbits args 250 13 then i else best
        | none => best) s.tiles.length
      let rows := (crews.zip va).flatMap fun x => (s.crewThreads x.1).map fun t => s.rowWords t x.2 (footOf f)
      let j : Joint :=
        { cluster := clusterId g.core, core := g.core, wg := w, crews := crews, seqs := (List.range k).map fun j => nbits args (99 + 13 * j) 13,
          thread := (s.crew (crews.headD 0)).base + nbits n 8 5, pc := BitVec.ofNat 64 (nbits n 64 64), instr := some i,
          base := nbits args 64 8, va := va, foot := footOf f, rows := rows, shape := BitVec.ofNat 32 (nbits args 0 32),
          window := BitVec.ofNat 32 (nbits args 32 32), ovr := nbits args 243 1 == 1, afmt := f, mop := mopOf (nbits args 247 3), tile := tile,
          prio := g.prio, posted := some s.cyc.toNat, acc := s.accs }
      { s with joints := s.joints ++ [j], accs := s.accs + 1 }
    else
      let op := restoreOp bs r g.core g.base (fun c => (s.crew c).base) s.nextOrder s.accs i
      let op := { op with order := s.savedOrder op }
      let flags := nbits args 96 30
      let op := { op with live := !(e = 3 && nbits flags 1 1 = 1) }
      let s := { s with ops := s.ops ++ [op], accs := s.accs + 1 }
      match i with
      | .mwload _ _ _ coded bf _ =>
        let fmt := if coded then fmtOf op.entry.rawfmt else bf
        let t : Tile :=
          { cluster := clusterId g.core, crew := op.crew, op := s.ops.length - 1, bfmt := fmt, coded := coded,
            gang := (List.range (nbits flags 27 3)).map fun j => nbits flags (3 + 4 * j) 4,
            slot := nbits flags 1 1 = 1, failed := nbits flags 1 1 = 1, again := nbits flags 0 1 = 1, old := nbits flags 2 1 = 1 }
        { s with tiles := s.tiles ++ [t] }
      | _ => s

/-- What an access does, from its instruction (R253). -/
def remoteKind : Instr → Option (RKind × Nat)
  | .rld _ _ w acq => some (.rld w acq, 0)
  | .rst _ _ _ w rel st => some (.rst w rel, st.toNat)
  | .ratom _ _ _ op ty o st _ => some (.ratom op ty o, st.toNat)
  | .rcas _ _ _ ty o => some (.rcas ty o, 0)
  | .rboadd _ _ _ st => some (.rboadd, st.toNat)
  | .topkred _ _ _ st => some (.topk, st.toNat)
  | _ => none

/-- A contribution read again from its descriptor, its list to be read when it is sent (R111, R260); none where it no longer reads. -/
def State.rereadContrib (s : State) (a : As) (core acc lane : Nat) (da : DWord) : State × Option Contribution :=
  match s.check a (some core) da 64 .load with
  | (s, .ok p) =>
    let s := s.demandPlace p
    (s, (s.redDesc (s.fetchPlace (some core) p)).map fun k => { k with part := a.part, acc := acc, core := core, lane := lane })
  | (s, _) => (s, none)

/-- The record of an access that a switch-out saved, as the core still has it: what the image does not hold of it is its place among the
operations of its stream, and an abort that came meanwhile (R111, R123). -/
def State.savedAcc (s : State) (a : RAccess) : Option Nat :=
  (List.range s.racc.length).find? fun i =>
    match s.racc[i]? with
    | some b => b.saved && b.crew == a.crew && b.thread == a.thread && b.word == a.word && b.va == a.va && b.data == a.data &&
        b.owner == a.owner && b.tkid == a.replay
    | none => false

/-- One replay record is reissued under its id, or ends if its ticket was aborted (R123, R124, R257, R358); one without a ticket leaves
once its stream lets it (R111). A contribution whose descriptor no longer reads is sent as a plain request that merges nothing, the model's
choice (log 92). -/
def State.restoreReplay (s : State) (bs : List Byte) (r w : Nat) : State :=
  let g := s.wg w
  let n := imgNat bs r 48
  match (kindOf (nbits n 32 10) (nbits n 42 12)).bind remoteKind with
  | none => s
  | some (kind, stream) =>
    let crew := g.base + nbits n 274 4
    let thread := (s.crew crew).base + nbits n 267 5
    let hold := nbits n 54 1 == 1
    let va : DWord := (BitVec.ofNat 57 (nbits n 64 57)).signExtend 64
    let posted := (s.racc.filter fun a => a.live && a.crew == crew && !a.hold).length
    let i := s.racc.length
    let (s, contrib) :=
      if kind == .topk then s.rereadContrib (s.asOf thread) g.core i (nbits n 267 7) (BitVec.ofNat 64 (nbits n 128 64)) else (s, none)
    let a : RAccess :=
      { core := g.core, crew := crew, thread := thread, lane := nbits n 267 7, owner := BitVec.ofNat 11 (nbits n 16 11), kind := kind, va := va,
        data := BitVec.ofNat 64 (nbits n 128 64), expect := BitVec.ofNat 64 (nbits n 192 64), d := nbits n 256 11, hold := hold,
        stream := stream, scopeRel := rkRel kind, seq := (((s.crew crew).outst.filter (·.cls == 4)).map (·.seq)).getD posted 0,
        tkid := none, head := false, replay := if nbits n 0 16 = 0xFFFF then none else some (BitVec.ofNat 16 (nbits n 0 16)), sent := false,
        pc := if hold then (s.thr thread).r.pc else 0, order := s.nextOrder,
        word := BitVec.ofNat 22 (nbits n 32 22),
        contrib := contrib }
    let (b, s) := match s.savedAcc a with
      | some j => ((s.racc[j]?).getD a, s.updAcc j fun x => { x with saved := false })
      | none => (a, s)
    let again := match a.contrib, b.contrib with | some k, some q => some { k with list := q.list } | x, _ => x
    let s : State := { s with racc := s.racc ++ [{ a with order := b.order, pc := b.pc, contrib := again }] }
    if b.aborted then s.abortAcc i (a.replay.getD 0xFFFF) else if a.replay.isSome then s.sendAcc i else s

/-- The workgroup record for an image: the one saved at these coordinates, else a new one with new crews and threads; its index. -/
def State.restoreSlot (s : State) (l x y z nc : Nat) : State × Nat :=
  match s.wgs.findIdx? fun g => g.launch == l && g.wx == x && g.wy == y && g.wz == z && g.ncrew == nc && g.started && g.stage == .saved with
  | some w => (s, w)
  | none =>
    let b := s.crews.length
    let t := s.threads.length
    let g : Wg := { launch := l, wx := x, wy := y, wz := z, base := b, ncrew := nc, stage := .saved, started := true }
    ({ s with
        wgs := s.wgs ++ [g],
        crews := s.crews ++ (List.range nc).map fun j => { wg := s.wgs.length, num := j, base := t + 32 * j },
        threads := s.threads ++ (List.range (32 * nc)).map fun i => { crew := b + i / 32, num := i % 32 } }, s.wgs.length)

/-- A new record of kind 0 to 3 for a thread that was saved trapped (R358, step 5). Its detail and half, which R354 does not save, are 0, the
model's choice (log 98). -/
def State.restoreRecord (s : State) (t n : Nat) : State :=
  let k := nbits n 80 3
  if nbits n 64 3 = 6 || (k = 2 && nbits n 72 8 = Cause.code .timer) then
    match causeOf (nbits n 72 8) with
    | some c =>
      let i : TrapInfo := { cause := c, addr := BitVec.ofNat 64 (nbits n 448 64), aux := BitVec.ofNat 64 (nbits n 512 64) }
      s.putRec { s.trapRec t k i (BitVec.ofNat 64 (nbits n 0 64)) (BitVec.ofNat 64 (nbits n 384 64)) with restored := true }
    | none => s
  else s

/-- What the core still held of a workgroup's saved operations and accesses is dropped: the image has restored them (R111, R358). -/
def State.unsave (s : State) (w : Nat) : State :=
  { s with
    ops := s.ops.map fun o => if s.wgOfCrew o.crew = w then { o with saved := false } else o,
    racc := s.racc.map fun a => if s.wgOfCrew a.crew = w then { a with saved := false } else a }

/-- Room and state of one workgroup (R48, R280, R357, R358 steps 1 to 5); none while there is no room, in the reservation table too. A latch whose members have all arrived is
evaluated again (R37, R291). -/
def State.placeWg (s : State) (bs : List Byte) (o : Nat) (ls : List (Nat × Nat)) : Option State :=
  let n := imgNat bs (o + 2) 6
  let l := ((ls.find? (·.1 == imgNat bs o 2)).map (·.2)).getD 0
  let core := 32 * nbits n 30 4 + nbits n 25 5
  let nc := imgCrews bs o
  let (s, w) := s.restoreSlot l (nbits n 0 5) (nbits n 5 4) (nbits n 9 16) nc
  let lr := s.launch l
  let free := (s.admittedAt core).isEmpty
  if (!(s.carveIs lr core) && !free) || s.carveClosed core then none
  else
    let s := if s.carveIs lr core then s else s.setCarve lr core
    let rot : BitVec 2 := BitVec.ofNat 2 (nbits n 34 2)
    let s := s.updWg w fun g => { g with core := core, rot := rot, prio := nbits n 41 3, splaced := false, stage := .admitted, order := s.wgs.length }
    let als := imgAllocs bs o w
    let posts := ((List.range (imgNat bs (o + 0x50) 2)).filter fun i => nbits (imgNat bs (secAt bs o 6 + 192 * i) 1) 0 3 == 2).length
    if !(s.fits w) || 16 < s.tableLen (clusterId core) + posts || 64 < (s.admittedAt core).length || als.any (fun a => (List.range a.n).any fun i => !s.bankFree core (a.base + i)) then none
    else
      let parked := nbits n 44 1 == 1
      let s := s.updWg w fun g =>
        restoreWg bs o { g with
          sbase := (s.stashPlace w).getD 0, splaced := true, stage := if parked then .parked else .active, since := s.cyc.toNat,
          forced := false }
      let s := s.updCore core fun c => { c with allocs := c.allocs ++ als, tarn := restoreTarn bs (secAt bs o 5) als c.tarn }
      let g := s.wg w
      let rec0 := fun (i : Nat) => imgNat bs (secAt bs o 0 + 192 * i) 192
      let s := (List.range nc).foldl (fun s c =>
        let timer := (List.range 32).any fun t => nbits (rec0 (32 * c + t)) 72 8 == Cause.code .timer && nbits (rec0 (32 * c + t)) 80 3 == 2
        s.updCrew (g.base + c) fun x =>
          restoreCrew bs (secAt bs o 1 + 1024 * c) w c x.base timer (s.restoreOpen bs o c (g.base + c))) s
      let cnt := imgNat bs (o + 8) 2
      let acc0 := s.racc.length
      let s := (List.range (32 * nc)).foldl (fun s i =>
        let c := g.base + i / 32
        let t := (s.crew c).base + i % 32
        let seq := ((s.crew c).iss.get 2 + 8191) % 8192
        s.updThr t fun x =>
          s.restoreThread c (i % 32) (rec0 i) ((bs.drop (secAt bs o 2 + 4 * cnt * i)).take (4 * cnt)) cnt acc0
            (acc0 + imgNat bs (o + 0x52) 2) seq x.async) s
      let s := (List.range (imgNat bs (o + 0x52) 2)).foldl (fun s i => s.restoreReplay bs (secAt bs o 7 + 48 * i) w) s
      let s := (List.range (imgNat bs (o + 0x50) 2)).foldl (fun s i => s.restoreRec bs (secAt bs o 6 + 192 * i) w) s
      let s := (List.range nc).foldl (fun s c => if (s.atLatch (g.base + c)).isSome then s.evalLatch (g.base + c) else s) s
      some ((List.range (32 * nc)).foldl (fun s i => s.restoreRecord ((s.crew (g.base + i / 32)).base + i % 32) (rec0 i)) (s.unsave w).pump)

/-- Every workgroup of an image in turn; none while one has no room. -/
def State.placeWgs (s : State) (bs : List Byte) (ls : List (Nat × Nat)) : List Nat → Option State
  | [] => some s
  | o :: r =>
    match s.placeWg bs o ls with
    | some s => s.placeWgs bs ls r
    | none => none

/-- The origin of a restored launch that has none: from a workgroup that was not stolen (R21, R376). -/
def State.restoreOrigin (s : State) (l : Nat) : State :=
  if (s.launch l).placed || (s.launch l).steal then s
  else match s.wgs.find? fun g => g.launch == l && g.started with
    | some g => s.updLaunch l fun x => { x with ox := coreX g.core - g.wx, oy := coreY g.core - g.wy, placed := true }
    | none => s

/-- The workgroups of a restored launch that its image names nowhere have exited: their records (R213, R376). -/
def State.restoreExited (s : State) (l : Nat) (todo : List Nat) : State :=
  let x := s.launch l
  let held := (s.wgs.filter fun g => g.launch == l && g.stage != .saved).map fun g => coordBits g.wx g.wy g.wz
  let cs := (x.columns.flatMap fun c => (List.range x.d).map fun z => coordBits c.1 c.2 z).filter fun c => !todo.contains c && !held.contains c
  { s with wgs := s.wgs ++ cs.map fun c =>
      { launch := l, wx := nbits c 0 5, wy := nbits c 5 4, wz := nbits c 9 16, ncrew := x.ncrew, stage := .exited } }

/-- The whole restoration of an image, where there is room (R358, steps 1 to 6), also among the 1,024 launches in states 1 and 2 (R368;
log 89). -/
def State.restore (s : State) (p ctx : Nat) (bs : List Byte) : Option State :=
  if 1024 < s.launchCount + (imgLaunches bs).length then none
  else
  let (s, ls) := (imgLaunches bs).foldl (fun (a : State × List (Nat × Nat)) e =>
    let (s, i) := a.1.restoreLaunch p ctx e
    (s, a.2 ++ [(e.lnum, i)])) (s, [])
  (s.placeWgs bs ls (imgDir bs)).map fun s =>
    ((imgLaunches bs).zip ls).foldl (fun s e => (s.restoreOrigin e.2.2).restoreExited e.2.2 e.1.todo) s

end Sys2Proof.Machine
end

