-- ==== Sys2Proof/Machine/SysRegs.lean ====
section
/-! DEFINITION. The system registers: their numbers, reading and writing (R344 to R346, R375, R398, R407, R423, R434). -/

namespace Sys2Proof.Machine

/-! ### The trap window (R343) -/

/-- The slot and record that a handle names in a partition, if it is held at that generation (R339, R342). -/
def State.recOf (s : State) (p handle : Nat) : Option (Nat × Nat × TrapRec) :=
  let core := nbits handle 0 9
  let slot := nbits handle 9 6
  let x := (s.core core).slots.get slot
  match x.held with
  | some r => if nbits handle 24 8 == 0 && x.gen.toNat == nbits handle 15 9 && r.part == p then some (core, slot, r) else none
  | none => none

/-- The thread of the open window (R343). -/
def State.winThread (s : State) (p : Nat) : Option Nat :=
  if (s.part p).twinValid then
    match s.recOf p (s.part p).twin.toNat with
    | some (_, _, r) => if r.kind ≤ 3 then r.thread else none
    | none => none
  else none

/-- TWIN is written: the window opens on a held record of kind 0 to 3. -/
def State.wTwin (s : State) (p : Nat) (x : DWord) : State :=
  let ok := match s.recOf p (bits x 0 32) with
    | some (_, _, r) => r.kind ≤ 3 && r.thread.isSome
    | none => false
  s.updPart p fun q => { q with twin := x.setWidth 32, twinValid := ok }

/-- An access through the window: a stale or invalid one closes it (R343). -/
def State.winTouch (s : State) (p : Nat) : State :=
  if (s.winThread p).isNone then s.updPart p fun q => { q with twinValid := false } else s

/-- A window register is written (R343, R345). -/
def State.wWindow (s : State) (p reg idx : Nat) (x : DWord) : State :=
  match s.winThread p with
  | none => s.winTouch p
  | some t =>
    let onR := fun (f : Regs → Regs) => s.updThr t fun y => { y with r := f y.r }
    match reg with
    | 0x005 => s.updThr t fun y => { y with r := { y.r with pc := x }, passed := false, inv := none }
    | 0x006 => onR fun r => { r with p := x.setWidth 16 &&& ~~~1#16 }
    | 0x007 => s.updThr t fun y => { y with status := x.setWidth 9 &&& 0x11F }
    | 0x008 => if idx < s.regcnt t then onR fun r => r.setV idx (x.setWidth 32) else s
    | 0x009 => onR fun r => { r with latch := r.latch.set idx x }
    | 0x00A => onR fun r => { r with k := x.setWidth 3, written := x.extractLsb' 8 8 }
    | _ => s.updCrew (s.crewOf t) fun c => { c with s := c.s.set idx x }

/-- A window register is read. -/
def State.rWindow (s : State) (p reg idx : Nat) : DWord :=
  match s.winThread p with
  | none => 0
  | some t =>
    let r := (s.thr t).r
    match reg with
    | 0x005 => r.pc
    | 0x006 => zext64 r.predBits
    | 0x007 => zext64 (s.thr t).status
    | 0x008 => zext64 (r.v.get idx)
    | 0x009 => r.latch.get idx
    | 0x00A => BitVec.ofNat 64 (r.k.toNat + r.written.toNat * 256)
    | _ => (s.crew (s.crewOf t)).s.get idx

/-! ### The registers' numbers (R344) -/

/-- Entries of a register: none if its number is not assigned, 0 if it is not indexed. -/
def State.regEntries (s : State) (p reg : Nat) : Option Nat :=
  if reg ≤ 0x007 || reg == 0x00A || (0x010 ≤ reg && reg ≤ 0x013) then some 0
  else if reg = 0x008 then some (match s.winThread p with | some t => s.regcnt t | none => 2048)
  else if reg = 0x009 then some 8
  else if reg = 0x00B then some 64
  else if reg = 0x00C || reg = 0x00D then some 65536
  else if reg = 0x100 || reg = 0x101 then some 64
  else if reg = 0x102 || reg = 0x103 then some 0
  else if reg = 0x200 then some 65535
  else if reg = 0x201 || reg = 0x203 || (0x205 ≤ reg && reg ≤ 0x20A) then some 0
  else if reg = 0x202 || reg = 0x204 then some 32
  else if 0x210 ≤ reg && reg ≤ 0x214 then some 16
  else if reg = 0x300 || reg = 0x304 then some 0
  else if reg = 0x301 then some 3072
  else if reg = 0x302 then some 48
  else if reg = 0x303 then some 192
  else if reg = 0x305 then some 384
  else if reg = 0x381 then some 18
  else if reg = 0x387 then some 2
  else if reg = 0x388 || reg = 0x389 then some 64
  else if 0x38A ≤ reg && reg ≤ 0x38E then some 32
  else if reg = 0x38F then some 16
  else if 0x380 ≤ reg && reg ≤ 0x386 then some 0
  else if reg = 0x3C0 then some 8
  else if 0x3C1 ≤ reg && reg ≤ 0x3C3 then some 0
  else none

/-- Read-only registers. -/
def regReadOnly (reg : Nat) : Bool :=
  [0x00C, 0x00D, 0x102, 0x209, 0x20A, 0x301, 0x302, 0x303, 0x304, 0x305, 0x380, 0x381, 0x382, 0x383, 0x384, 0x385, 0x387, 0x38E, 0x38F,
    0x3C0, 0x3C1, 0x3C2, 0x3C3].contains reg

/-! ### Reading -/

def LaunchQ.cfg (q : LaunchQ) : DWord :=
  BitVec.ofNat 64 (pack [(0, 1, q.en.toNat), (1, 1, q.sup.toNat), (2, 4, q.lgn), (8, 3, q.cap), (16, 16, q.ctx)])

def Aper.cfg (a : Aper) : DWord :=
  BitVec.ofNat 64 (pack [(0, 1, a.en.toNat), (1, 1, a.user.toNat), (2, 2, a.xf.toNat), (4, 3, a.zlog.toNat)])

/-- PART_CFG (R375). -/
def State.partCfg (s : State) (p : Nat) : DWord :=
  let x := s.part p
  BitVec.ofNat 64 (pack [(0, 4, p), (4, 5, x.px), (9, 4, x.py), (13, 3, x.pa), (16, 3, x.pb)])

/-- Registers of *Stacks, basin links and error handling* (R407). -/
def State.rMem (s : State) (p reg idx : Nat) : DWord :=
  match reg with
  | 0x300 => BitVec.ofNat 64 (s.part p).donate.toNat
  | 0x301 => dwOf ((List.range 8).map fun m => (s.stk (idx / 256)).slotTbl.get (64 * (idx / 8 % 32) + 8 * (idx % 8) + m))
  | 0x302 => zext64 ((s.stk (idx / 4)).errCnt.get (idx % 4))
  | 0x303 => (s.stk (idx / 16)).errLog.get (idx % 16)
  | 0x304 => BitVec.ofNat 64 (pack [(0, 8, s.scrubPeriod.toNat), (8, 32, s.scrubPasses.toNat)])
  | _ => zext64 ((s.stk (idx / 32)).erase.get (idx % 32))

/-- REIN_STAT (R423). -/
def ReinLink.stat (l : ReinLink) : DWord :=
  BitVec.ofNat 64 (pack [(0, 20, l.retries.toNat), (20, 8, l.retrains.toNat), (28, 12, l.auth.toNat), (40, 1, l.txKg.toNat),
    (41, 15, l.escapes.toNat), (56, 1, l.down.toNat)])

def SpStream.cfg (x : SpStream) : DWord := BitVec.ofNat 64 (pack [(0, 1, x.en.toNat), (1, 5, x.lg), (6, 4, x.part)])

/-- Registers of *Rein fabric, host attachment and spring ports* (R423). -/
def State.rLinks (s : State) (reg idx : Nat) : DWord :=
  let l := s.links
  match reg with
  | 0x380 => BitVec.ofNat 64 (pack [(0, 11, l.pkg.toNat), (11, 18, l.enabled.toNat)])
  | 0x381 => (l.rein.get idx).stat
  | 0x382 => BitVec.ofNat 64 (pack [(0, 4, l.hostPart.toNat), (4, 1, l.hostUp.toNat)])
  | 0x383 => BitVec.ofNat 64 (pack [(0, 16, l.hdmBase.toNat), (16, 16, l.hdmLen.toNat)])
  | 0x384 => zext64 l.phcSec
  | 0x385 => zext64 l.phcNs
  | 0x386 => BitVec.ofNat 64 (pack [(0, 32, l.phcStep.toNat), (32, 24, l.phcRate.toNat)])
  | 0x387 =>
    let x := l.ports.get idx
    BitVec.ofNat 64 (pack [(0, 16, x.fcs.toNat), (16, 16, x.runts.toNat), (32, 16, x.oversize.toNat), (48, 16, x.unmatched.toNat)])
  | 0x388 => l.keys.get idx
  | 0x389 => l.ctls.get idx
  | 0x38A => (l.streams.get idx).base
  | 0x38B => (l.streams.get idx).pbo
  | 0x38C => (l.streams.get idx).cbo
  | 0x38D => (l.streams.get idx).cfg
  | 0x38E =>
    let x := l.streams.get idx
    BitVec.ofNat 64 (pack [(0, 32, x.seq.toNat % 2 ^ 32), (32, 31, x.drops.toNat), (63, 1, x.err.toNat)])
  | _ => l.msix.get idx

/-- OWN_STAT and FW_STAT (R434). -/
def Hk.ownStat (h : Hk) : DWord := BitVec.ofNat 64 (pack [(0, 2, h.owner), (2, 1, h.succ.isSome.toNat), (3, 8, h.last.toNat)])
def Hk.fwStat (h : Hk) : DWord := BitVec.ofNat 64 (pack [(0, 1, h.slot.toNat), (1, 1, h.fwErr.toNat), (2, 3, h.failStep.toNat)])

/-- Registers of *Bring-up, ownership and firmware* (R428, R434). -/
def State.rHk (s : State) (reg idx : Nat) : DWord :=
  let h := s.hk
  let img := fun (b : Bool) => h.images.getD b.toNat []
  match reg with
  | 0x3C0 =>
    if idx = 0 then BitVec.ofNat 64 (pack [(0, 8, h.form), (8, 3, 4), (11, 4, 12)])
    else if idx = 1 then h.serial
    else if idx = 2 then BitVec.ofNat 64 (pack [(0, 32, (Config.imageVersion (img h.slot)).toNat), (32, 32, h.floor)])
    else 0
  | 0x3C1 => h.ownStat
  | 0x3C2 => h.fwStat
  | _ => BitVec.ofNat 64 (pack [(0, 16, h.watts.toNat), (16, 4, h.clkStep.toNat), (20, 1, h.basinThr.toNat)])

/-- The value of a register of a partition, zero-extended (R344). -/
def State.sysRead (s : State) (p reg idx : Nat) : DWord :=
  let x := s.part p
  match reg with
  | 0x000 => x.tqBase
  | 0x001 => BitVec.ofNat 64 (pack [(0, 1, x.tqEn.toNat), (8, 5, x.tqLgn)])
  | 0x002 => x.tqPbo
  | 0x003 => x.tqCbo
  | 0x004 => BitVec.ofNat 64 (pack [(0, 32, x.twin.toNat), (32, 1, (s.winThread p).isSome.toNat)])
  | 0x00C => BitVec.ofNat 64 (s.ctxSize p idx)
  | 0x00D => BitVec.ofNat 64 (s.ctxState p idx)
  | 0x010 => x.numcfg
  | 0x011 => BitVec.ofNat 64 x.ut.toNat
  | 0x012 => BitVec.ofNat 64 x.satrap.toNat
  | 0x013 => zext64 x.xlock
  | 0x100 => (x.lqs.get idx).base
  | 0x101 => (x.lqs.get idx).cfg
  | 0x102 => s.partCfg p
  | 0x103 => BitVec.ofNat 64 x.schedXlock.toNat
  | 0x200 => x.roots.get idx
  | 0x201 => x.supRoot
  | 0x202 => x.fabPerm.get idx
  | 0x203 => x.xcfg
  | 0x204 => x.xperm.get idx
  | 0x205 => x.svqBase
  | 0x206 => BitVec.ofNat 64 (pack [(0, 1, x.svqEn.toNat), (8, 5, x.svqLgn)])
  | 0x207 => x.svqPbo
  | 0x208 => x.svqCbo
  | 0x209 => BitVec.ofNat 64 (pack [(0, 13, s.tickets.length), (16, 13, s.shadows.length)])
  | 0x20A => zext64 s.tlbGen
  | 0x210 => (x.apers.get idx).cfg
  | 0x211 => (x.apers.get idx).va
  | 0x212 => (x.apers.get idx).len
  | 0x213 => (x.apers.get idx).pa0
  | 0x214 => (x.apers.get idx).pa1
  | _ => if reg < 0x100 then s.rWindow p reg idx else if reg < 0x380 then s.rMem p reg idx else if reg < 0x3C0 then s.rLinks reg idx
    else s.rHk reg idx

/-! ### Writing -/

/-- A multiple of 2^n: low bits ignore writes. -/
def lowClear (n : Nat) (x : DWord) : DWord := x >>> n <<< n

/-- TQ_CFG and SVQ_CFG: en, and a queue size of 6 to 16 (R346). -/
def queueCfg (old : Nat) (x : DWord) : Bool × Nat :=
  (x.getLsbD 0, if 6 ≤ bits x 8 5 && bits x 8 5 ≤ 16 then bits x 8 5 else old)

def State.wTqCfg (s : State) (p : Nat) (x : DWord) : State :=
  s.updPart p fun q => { q with tqEn := (queueCfg q.tqLgn x).1, tqLgn := (queueCfg q.tqLgn x).2 }

/-- NUMCFG (R4, R134): a spread of 0 and locked fields keep their values. -/
def State.wNumcfg (s : State) (p : Nat) (x : DWord) : State :=
  s.updPart p fun q =>
    { q with ftz := if q.xlock.getLsbD 0 then q.ftz else x.getLsbD 0,
             spread := if q.xlock.getLsbD 1 || bits x 4 4 = 0 then q.spread else bits x 4 4 }

/-- XLOCK_CFG: bits are only ever set (R4, R346). -/
def State.wXlock (s : State) (p : Nat) (x : DWord) : State := s.updPart p fun q => { q with xlock := q.xlock ||| x.setWidth 4 }

/-- SCHED_XLOCK: set only (R375). -/
def State.wSchedXlock (s : State) (p : Nat) (x : DWord) : State :=
  s.updPart p fun q => { q with schedXlock := q.schedXlock || x.getLsbD 0 }

/-- Bytes of a launch queue: header and 2^(lgn+4) slots (R363). -/
def LaunchQ.size (q : LaunchQ) : Nat := 256 + 128 * 2 ^ (q.lgn + 4)

/-- LQ_BASE (R363, R375): ignored while the queue is in use, and for an address not of class 0b00 or in the park region. -/
def State.wLqBase (s : State) (p i : Nat) (x : DWord) : State :=
  let b := lowClear 12 x
  let q := (s.part p).lqs.get i
  if q.en || !paIsPackage b.toNat || s.meetsPark b.toNat q.size then s
  else s.updPart p fun y => { y with lqs := y.lqs.upd i fun z => { z with base := b } }

/-- LQ_CFG (R363, R369, R375): in use, only en and cap change; a size that would touch the park region leaves lgn unchanged. -/
def State.wLqCfg (s : State) (p i : Nat) (x : DWord) : State :=
  s.updPart p fun y => { y with lqs := y.lqs.upd i fun q =>
    let q' := { q with en := x.getLsbD 0, cap := bits x 8 3 }
    if q.en then q'
    else
      { q' with sup := x.getLsbD 1, lgn := if bits x 2 4 ≤ 8 && !s.meetsPark q.base.toNat ({ q with lgn := bits x 2 4 } : LaunchQ).size then bits x 2 4 else q.lgn,
                ctx := if bits x 16 16 = 0xFFFF then q.ctx else bits x 16 16 } }

/-- CTX_ROOT and SUP_ROOT: en and the root table (R379, R398); cached translations change only under R386. -/
def rootBits (x : DWord) : DWord := x &&& 0x000FFFFFFFFFF001

def State.wRoot (s : State) (p : Nat) (c : Option Nat) (x : DWord) : State :=
  match c with
  | some c => s.updPart p fun q => { q with roots := q.roots.set c (rootBits x) }
  | none => s.updPart p fun q => { q with supRoot := rootBits x }

/-- MEM_CFG.donate; channels take it up at their next round (R401, R407). -/
def State.wMemCfg (s : State) (p : Nat) (x : DWord) : State := s.updPart p fun q => { q with donate := x.getLsbD 0 }

/-- Some table below one at a level maps a pinned compute-capable frame at an address (R65, R383). -/
def State.mapsNb (s : State) (pa : Nat) : Nat → Nat → Bool
  | 0, _ => false
  | lvl + 1, t => (List.range 512).any fun i =>
      let e := s.readPhys8 (t + 8 * i)
      e.getLsbD 0 && !s.malformed e (lvl + 1) &&
        if e.getLsbD 1 then e.getLsbD 9 && lvl == 0 && leafFrame e 1 == pa else s.mapsNb pa lvl (bits e 12 40 * 4096)

/-- An address is the frame of a pinned compute-capable page of the partition. -/
def State.isNbFrame (s : State) (p pa : Nat) : Bool :=
  ((s.part p).supRoot :: (s.part p).roots.map (·.2)).any fun r => r.getLsbD 0 && s.mapsNb pa 4 (bits r 12 40 * 4096)

/-- An extent of package memory clear of the park region. -/
def State.extentOk (s : State) (pa n : Nat) : Bool := paIsPackage pa && paIsPackage (pa + n - 1) && !s.meetsPark pa n

/-- An aperture that may be enabled (R397). -/
def State.aperOk (s : State) (p : Nat) (a : Aper) : Bool :=
  let n := a.len.toNat
  let va := va57 a.va
  canonical a.va && va + n ≤ 2 ^ 57 && va / 2 ^ 56 == (va + n - 1) / 2 ^ 56 &&
  (match a.xf.toNat with
    | 1 => s.extentOk a.pa0.toNat (n / 2) && s.extentOk a.pa1.toNat (n / 32)
    | 2 => s.extentOk a.pa0.toNat (2 ^ 21) && n ≤ 2 ^ 21 && s.isNbFrame p a.pa0.toNat
    | 3 => s.extentOk a.pa0.toNat n && n % 8192 == 0
    | _ => s.extentOk a.pa0.toNat n) && a.zlog.toNat ≤ 4

/-- APER_CFG (R397): in use, only en changes; an aperture that breaks the rule stays off. -/
def State.wAperCfg (s : State) (p i : Nat) (x : DWord) : State :=
  let a := (s.part p).apers.get i
  let a' : Aper :=
    if a.en then { a with en := x.getLsbD 0 }
    else
      let b := { a with user := x.getLsbD 1, xf := x.extractLsb' 2 2, zlog := x.extractLsb' 4 3 }
      { b with en := x.getLsbD 0 && s.aperOk p b }
  s.updPart p fun q => { q with apers := q.apers.set i a' }

/-- The other aperture registers: ignored while the aperture is in use (R397). -/
def State.wAper (s : State) (p i : Nat) (f : Aper → Aper) : State :=
  s.updPart p fun q => { q with apers := q.apers.upd i fun a => if a.en then a else f a }

/-- Clearing an aperture's en completes once the requests in egress queues are performed, as an invalidation is (R387, R397). -/
def State.aperDrains (s : State) (p i : Nat) (x : DWord) : Bool :=
  ((s.part p).apers.get i).en && !x.getLsbD 0 && s.posted != []

/-- A new generation with its invalidation in progress (R387). -/
def State.startInv (s : State) : State := { s with tlbGen := s.tlbGen + 1, tlbinvs := s.tlbinvs ++ [{ gen := s.tlbGen + 1 }] }

/-- Invalidations in progress (R387). -/
def State.invCount (s : State) : Nat := (s.tlbinvs.filter (·.live)).length

/-- PHC moved by a number of nanoseconds (R419, R423). -/
def Links.phcMove (l : Links) (d : Int) : Links :=
  let t : Int := (l.phcSec.toNat * 1000000000 + l.phcNs.toNat : Nat) + d
  let u := (t % (2 ^ 48 * 1000000000)).toNat
  { l with phcSec := BitVec.ofNat 48 (u / 1000000000), phcNs := BitVec.ofNat 32 (u % 1000000000) }

/-- PHC_ADJ (R423): one step per write; the rate applies from the write. -/
def State.wPhcAdj (s : State) (x : DWord) : State :=
  let l := s.links.phcMove (x.setWidth 32).toInt
  { s with links := { l with phcStep := x.setWidth 32, phcRate := x.extractLsb' 32 24 } }

/-- Stream registers: written by the owning partition's supervisor, and not while the stream is on (R423). -/
def State.wStream (s : State) (p i : Nat) (f : SpStream → SpStream) : State :=
  if (s.links.streams.get i).part = p && !(s.links.streams.get i).en then
    { s with links := { s.links with streams := s.links.streams.upd i f } }
  else s

/-- SPS_CFG (R423): en = 1 restarts the stream at seq 0 and drops 0 and clears err. -/
def State.wSpsCfg (s : State) (p i : Nat) (x : DWord) : State :=
  let y := s.links.streams.get i
  if y.part != p then s
  else
    let lg := if y.en || bits x 1 5 < 12 || 30 < bits x 1 5 then y.lg else bits x 1 5
    let y := { y with lg := lg, en := x.getLsbD 0 }
    let y := if x.getLsbD 0 then { y with err := false, seq := 0, drops := 0, lost := 0 } else y
    { s with links := { s.links with streams := s.links.streams.set i y } }

/-- Registers whose write only stores a value (R344). -/
def State.wPlain (s : State) (p reg idx : Nat) (x : DWord) : State :=
  let u := fun f => s.updPart p f
  match reg with
  | 0x000 => u fun q => { q with tqBase := lowClear 12 x }
  | 0x002 => u fun q => { q with tqPbo := lowClear 3 x }
  | 0x003 => u fun q => { q with tqCbo := lowClear 3 x }
  | 0x011 => u fun q => { q with ut := if q.xlock.getLsbD 2 then q.ut else x.getLsbD 0 }
  | 0x012 => u fun q => { q with satrap := if q.xlock.getLsbD 3 then q.satrap else x.getLsbD 0 }
  | 0x202 => u fun q => { q with fabPerm := q.fabPerm.set idx x }
  | 0x203 => u fun q => { q with xcfg := x &&& 0xFFFF0001 }
  | 0x204 => u fun q => { q with xperm := q.xperm.set idx x }
  | 0x205 => u fun q => { q with svqBase := lowClear 12 x }
  | 0x206 => u fun q => { q with svqEn := (queueCfg q.svqLgn x).1, svqLgn := (queueCfg q.svqLgn x).2 }
  | 0x207 => u fun q => { q with svqPbo := lowClear 3 x }
  | 0x208 => u fun q => { q with svqCbo := lowClear 3 x }
  | 0x211 => s.wAper p idx fun a => { a with va := lowClear 12 x }
  | 0x212 => s.wAper p idx fun a => { a with len := lowClear 12 x }
  | 0x213 => s.wAper p idx fun a => { a with pa0 := x }
  | 0x214 => s.wAper p idx fun a => { a with pa1 := x }
  | 0x388 => if p = 0 then { s with links := { s.links with keys := s.links.keys.set idx (x &&& 0x0FFFFFFFFFFFFFFF) } } else s
  | 0x389 => if p = 0 then { s with links := { s.links with ctls := s.links.ctls.set idx (x &&& 0x1FFFFFF) } } else s
  | 0x38A => s.wStream p idx fun y => { y with base := x }
  | 0x38B => s.wStream p idx fun y => { y with pbo := lowClear 3 x }
  | 0x38C => s.wStream p idx fun y => { y with cbo := lowClear 3 x }
  | _ => s

/-- A write of a register of a partition (R344); an aperture's disable has its own wait. -/
def State.sysWrite (s : State) (p reg idx : Nat) (x : DWord) : State :=
  match reg with
  | 0x001 => s.wTqCfg p x
  | 0x004 => s.wTwin p x
  | 0x010 => s.wNumcfg p x
  | 0x013 => s.wXlock p x
  | 0x100 => s.wLqBase p idx x
  | 0x101 => s.wLqCfg p idx x
  | 0x103 => s.wSchedXlock p x
  | 0x200 => s.wRoot p (some idx) x
  | 0x201 => s.wRoot p none x
  | 0x210 => s.wAperCfg p idx x
  | 0x300 => s.wMemCfg p x
  | 0x386 => s.wPhcAdj x
  | 0x38D => s.wSpsCfg p idx x
  | _ => if 0x005 ≤ reg && reg ≤ 0x00B then s.wWindow p reg idx x else s.wPlain p reg idx x

end Sys2Proof.Machine
end

