-- ==== Sys2Proof/Machine/Fetch.lean ====
section
/-! DEFINITION. Fetching and decoding the executing agent's next instruction (R161 to R165, R174, R178), and what comes before
a thread issues (R336, R347, R349). -/

namespace Sys2Proof.Machine

/-- What the fetch gives: an instruction to execute, or a state in which the agent's part of the issue is over. -/
inductive Fetched where
  | run (i : Instr) (s : State)
  | over (s : State)
  deriving DecidableEq, Repr

/-- The first pending asynchronous cause of a thread is taken: kind 1, or the kill and kind 4 record of LEASE_VIOLATION is its
raiser's act (R335, R336). -/
def State.takeAsync (s : State) (t : Nat) : State :=
  match (s.thr t).async with
  | [] => s
  | a :: rest =>
    (s.updThr t fun x => { x with async := rest }).stopThread t 1 a.info (s.thr t).r.pc a.opc

/-- A thread may issue: ready, its crew not held by TIMER, its workgroup active and not about to be parked by force, its context running
(R26, R41, R347, R349, R361). -/
def State.mayIssue (s : State) (t : Nat) : Bool :=
  (s.thr t).st == .ready && !(s.crew (s.crewOf t)).timer && (s.wg (s.wgOf t)).stage == .active && !(s.wg (s.wgOf t)).stopping &&
  s.ctxPhase (s.partOf t) (s.ctxOf t) == 0 && !(s.part (s.partOf t)).halted

/-- The agent may run its part of the issue: a context stop that falls into the issue does not cut it short (R336, R349). -/
def State.curMayRun (s : State) : Bool :=
  match s.cur with
  | .thread t =>
    (s.thr t).st == .ready && !(s.crew (s.crewOf t)).timer && (s.wg (s.wgOf t)).stage == .active
  | .walker w => (s.wlk w).phase == .running
  | .none => false

/-- Executing an instruction of the line at the agent's PC: the header checks, the chain begun by a target, then the word. The
model's choices (log 84): word 0 as a PC is tested by start bit 0, PC bits [2:0] are ignored (R165), and the chain that a target begins is begun
though its word traps (R174). -/
def State.fetchIn (s : State) (line : List Byte) : Fetched :=
  let pc := s.curRegs.pc
  let w := pcWord pc
  if lineBad line || !lineStart line w then .over (s.raise { cause := .illegalLine })
  else if (match s.cur with | .walker _ => lineKind line != 1 | _ => lineKind line != 0) then
    .over (s.raise { cause := .illegalContext })
  else
    let word := lineWord line w
    let ext := takesExt word
    let s := s.updRegs fun r =>
      let r := if lineTarget line w then r.breakChain else r
      { r with npc := nextPc pc ext }
    match decodeWord word (if ext then lineWord line (w + 1) else 0) with
    | .format half => .over (s.raise { cause := .illegalFormat, half := half })
    | .ok i => .run i s

/-- The first fetch of a thread checks the launch's entry PC (R165). -/
def State.entryCheck (s : State) : State × Chk Unit :=
  match s.cur with
  | .thread t =>
    if (s.thr t).entry then
      match s.checkTarget s.curAs s.curView (s.thr t).r.pc with
      | (s, .ok ()) => (s.updThr t fun x => { x with entry := false }, .ok ())
      | (s, .trap i) => (s.updThr t fun x => { x with entry := false }, .trap i)
      | (s, .wait w) => (s, .wait w)
    else (s, .ok ())
  | _ => (s, .ok ())

/-- The issue time of the agent (R29). -/
def State.stamp (s : State) : State :=
  match s.cur with
  | .thread t => s.updThr t fun x => { x with prevIssue := x.lastIssue, lastIssue := s.cyc.toNat }
  | _ => s

/-- A pending asynchronous cause of the executing thread, which it takes before its instruction. -/
def State.curAsync (s : State) : Bool :=
  match s.cur with
  | .thread t => s.asyncDue t
  | _ => false

/-- A walker's PC lies in its command's image of 64 KiB (R313). -/
def State.inImage (s : State) : Bool :=
  match s.cur with
  | .walker w =>
    match s.cmds[(s.wlk w).cmd]? with
    | some c =>
      let lo := nbits c.block 192 64
      lo ≤ (s.wlk w).r.pc.toNat && (s.wlk w).r.pc.toNat < lo + 65536
    | none => true
  | _ => true

/-- The executing agent's next instruction. -/
def State.fetch (s : State) : Fetched :=
  if !s.curMayRun then .over s
  else if s.curAsync then .over (s.takeAsync s.t)
  else if !s.inImage then .over (s.raise { cause := .access })
  else
    match s.stamp.entryCheck with
    | (s, .trap i) => .over (s.raise i)
    | (s, .wait w) => .over (s.hold w)
    | (s, .ok ()) =>
      match s.fetchLine s.curAs s.curView s.curRegs.pc with
      | (s, .trap i) => .over (s.raise i)
      | (s, .wait w) => .over (s.hold w)
      | (s, .ok line) => s.fetchIn line

end Sys2Proof.Machine
end

