-- ==== Sys2Proof/Machine/ThreadEvents.lean ====
section
/-! DEFINITION. Events of threads and crews: timers and deadlines (R211, R249, R251, R347), asynchronous traps (R336), returning data
(R234), concluded checks (R30), performed writes (R97), and the trap and service queues (R338, R396). -/

namespace Sys2Proof.Machine

/-- A workgroup whose threads are at its core: admitted threads exist and are neither switched out nor gone. -/
def State.resident (s : State) (t : Nat) : Bool :=
  t < s.threads.length && match (s.wg (s.wgOf t)).stage with
    | .active => true
    | .parked => true
    | _ => false

/-- A crew whose VTIM counts: active, in a context that is not stopped (R347). -/
def State.crewRuns (s : State) (c : Nat) : Bool :=
  c < s.crews.length && (s.wg (s.wgOfCrew c)).stage == .active &&
    (let l := s.launch (s.wg (s.wgOfCrew c)).launch; s.ctxPhase l.part l.ctx ≤ 2)

/-- The thread a TIMER record names: the leader, else the lowest-numbered non-exited thread (R347). -/
def State.timerThread (s : State) (c : Nat) : Nat :=
  match (s.crew c).leader with
  | some n => (s.crew c).base + n
  | none => (s.live c).headD (s.crew c).base

/-- TIMER (R347): VTIM has reached VTCMP. -/
def execTimer (crew : Nat) (s : State) : Host.Outcome State Fault Refusal :=
  let c := s.crew crew
  if s.crewRuns crew && !c.timer && c.vtcmp.toNat ≤ c.vtim.toNat && s.live crew != [] then
    let t := s.timerThread crew
    let s := s.putRec (s.trapRec t 2 { cause := .timer } (s.thr t).r.pc (s.thr t).r.pc)
    .next (s.updCrew crew fun x => { x with vtcmp := 0xFFFFFFFFFFFFFFFF, timer := true })
  else .next s

/-- One reading of a waiting WAITGE: it ends at its target or takes its trap (R249), or the value read is still below the target, and the
answer is true. A reading that a migration's switch delays answers false (R393). -/
def State.waitgeTest (s : State) (t : Nat) (ea target : DWord) (d : BitVec 11) : State × Bool :=
  match s.waitRead (s.asOf t) (s.coreOf t) ea with
  | (s, .trap i) => (s.stopThread t 0 i (s.thr t).r.pc (s.thr t).r.pc, false)
  | (s, .wait _) => (s, false)
  | (s, .ok x) =>
    if target.toNat ≤ x.toNat then (s.updThr t fun y => y.goOn s.cyc.toNat (some (d, true)), false) else (s, true)

/-- WAITGE_REREAD (R249); the reading waits for the request budget (R16). -/
def execWaitgeReread (thread : Nat) (s : State) : Host.Outcome State Fault Refusal :=
  match (s.thr thread).st with
  | .waiting (.waitge ea target _ _ d) => if s.resident thread && s.requests (s.coreOf thread) < 2048 then .next (s.waitgeTest thread ea target d).1 else .next s
  | _ => .next s

/-- WAITGE_DEADLINE (R249): the value is tested before the deadline, by a reading that waits for the request budget (R16). -/
def execWaitgeDeadline (thread : Nat) (s : State) : Host.Outcome State Fault Refusal :=
  match (s.thr thread).st with
  | .waiting (.waitge ea target (some dl) _ d) =>
    if s.resident thread && dl.toNat ≤ s.cyc.toNat && s.requests (s.coreOf thread) < 2048 then
      match s.waitgeTest thread ea target d with
      | (s, false) => .next s
      | (s, true) => .next (s.updThr thread fun y => y.goOn s.cyc.toNat (some (d, false)))
    else .next s
  | _ => .next s

/-- SLEEPUNTIL_DEADLINE (R211). -/
def execSleepuntilDeadline (thread : Nat) (s : State) : Host.Outcome State Fault Refusal :=
  match (s.thr thread).st with
  | .waiting (.sleep dl) =>
    if s.resident thread && dl.toNat ≤ s.cyc.toNat then .next (s.updThr thread fun y => y.goOn s.cyc.toNat none) else .next s
  | _ => .next s

/-- PROMISE_MISSED (R251): at W the completion test decides. -/
def execPromiseMissed (thread : Nat) (s : State) : Host.Outcome State Fault Refusal :=
  match (s.thr thread).st with
  | .waiting (.pwait p w _) =>
    if s.resident thread && promiseDue s.cyc w then
      if s.promiseDone (s.crewOf thread) p then .next (s.updThr thread fun y => y.goOn s.cyc.toNat none)
      else .next (s.stopThread thread 0 { cause := .promiseMissed, addr := p } (s.thr thread).r.pc (s.thr thread).r.pc)
    else .next s
  | _ => .next s

/-- ASYNC_TRAP_DELIVERY (R336, R337). -/
def execAsyncTrapDelivery (thread : Nat) (s : State) : Host.Outcome State Fault Refusal :=
  if s.mayIssue thread && s.asyncDue thread then .next (s.takeAsync thread) else .next s

/-- What held a check has ended (R53, R393). -/
def State.checkFree (s : State) : Wait → Bool
  | .migration m => match s.migs[m]? with | some x => !x.switching | none => true
  | .writeBack w l => s.wbOk w l
  | _ => false

/-- TRANSLATION_CHECK_DONE (R30): a suspended thread makes its check again, which passes or traps at the instruction. -/
def execTranslationCheckDone (thread : Nat) (s : State) : Host.Outcome State Fault Refusal :=
  match (s.thr thread).st with
  | .fetchSuspended w =>
    if s.resident thread && s.checkFree w then
      .next (s.updThr thread fun x => { x with st := .ready, readyAt := s.cyc.toNat })
    else .next s
  | _ => .next s

/-- An older posted write of the same core meets a write: locations keep a core's order (R97). -/
def State.postedReady (s : State) (n : Nat) : Bool :=
  match s.posted[n]? with
  | some w => (s.posted.take n).all fun o => o.core != w.core || !overlaps4 o.pa o.bytes.length w.pa w.bytes.length
  | none => false

/-- WRITE_PERFORMED (R53, R96, R97, R391). -/
def execWritePerformed (w : Nat) (s : State) : Host.Outcome State Fault Refusal :=
  match s.posted[w]? with
  | none => .next s
  | some x =>
    if s.postedReady w then
      match s.demandBlocked x.pa x.bytes.length with
      | some (g, l) => .next (s.wbRequest g l)
      | none => .next ({ s with posted := s.posted.eraseIdx w }.perform x.pa x.bytes x.wv)
    else .next s

/-! ### The trap queue and the service queue -/

/-- A handle (R339). -/
def handleOf (core slot : Nat) (gen : BitVec 9) : Nat := core % 512 + slot % 64 * 2 ^ 9 + gen.toNat * 2 ^ 15

/-- The 64 bytes of a trap record (R339). -/
def TrapRec.bytes (r : TrapRec) (handle seq : Nat) : List Byte :=
  let b := fun (x : Bool) => if x then 1 else 0
  leBytes 64 (r.info.cause.code + r.kind % 8 * 2 ^ 8 + b r.info.half * 2 ^ 11 + r.crew % 16 * 2 ^ 12 + r.lane % 128 * 2 ^ 16 +
    r.core % 512 * 2 ^ 23 + r.ctx % 65536 * 2 ^ 32 + r.info.detail % 256 * 2 ^ 48 + b r.sup * 2 ^ 56 + b r.restored * 2 ^ 57 +
    handle * 2 ^ 64 + seq % 2 ^ 32 * 2 ^ 96 + r.tpc.toNat * 2 ^ 128 + r.opc.toNat * 2 ^ 192 + r.info.addr.toNat * 2 ^ 256 +
    r.info.aux.toNat * 2 ^ 320 + r.cyc.toNat * 2 ^ 384)

/-- The 32 bytes of a service record (R396). -/
def SvcRec.bytes (r : SvcRec) : List Byte :=
  leBytes 32 (r.id % 65536 + r.cause % 4 * 2 ^ 16 + (if r.write then 2 ^ 18 else 0) + r.pkg % 2048 * 2 ^ 19 + r.ctx % 65536 * 2 ^ 32 +
    r.va.toNat * 2 ^ 64 + r.len.toNat * 2 ^ 128 + r.cyc.toNat * 2 ^ 192)

/-- A record appended to a queue of 2^lgn records of n bytes: written at its place, then the produced object advanced; false while the
queue is full, does not translate, or a line cannot be written back (R53, R338, R396). -/
def State.queueWrite (s : State) (p : Nat) (base pbo cbo : DWord) (lgn n : Nat) (bs : Nat → List Byte) : State × Bool :=
  let a : As := ⟨p, 0, true, none⟩
  match s.check a none pbo 8 .atomic with
  | (s, .ok pb) =>
    match s.check a none cbo 8 .load with
    | (s, .ok cb) =>
      let s := s.demandAll [pb, cb]
      let r := leNat (s.fetchPlace none pb)
      let c := leNat (s.fetchPlace none cb)
      if 2 ^ lgn ≤ (r + 2 ^ 64 - c) % 2 ^ 64 then (s, false)
      else
        match s.resolve a none (base + BitVec.ofNat 64 (n * (r % 2 ^ lgn))) n .store with
        | (s, .ok pl) =>
          match s.blockedAll [pb, pl] with
          | some (w, l) => (s.wbRequest w l, false)
          | none => (((s.performPlace pl (bs r)).boAdvance none a pbo 1).1, true)
        | (s, _) => (s, false)
    | (s, _) => (s, false)
  | (s, _) => (s, false)

/-- An unwritten record of the same instruction with a lower lane goes first (R336). -/
def State.recFirst (s : State) (core slot : Nat) (r : TrapRec) : Bool :=
  (List.range 64).all fun i =>
    i == slot || (let x := (s.core core).slots.get i
      x.written || match x.held with
        | some q => !(q.cyc == r.cyc && q.opc == r.opc && q.kind == r.kind && q.lane < r.lane)
        | none => true)

/-- TRAP_RECORD_WRITE (R338, R339). -/
def execTrapRecordWrite (core slot : Nat) (s : State) : Host.Outcome State Fault Refusal :=
  let x := (s.core core).slots.get slot
  match x.held with
  | none => .next s
  | some r =>
    let p := s.part r.part
    if x.written || !p.tqEn || !s.recFirst core slot r then .next s
    else match s.queueWrite r.part p.tqBase p.tqPbo p.tqCbo p.tqLgn 64 (r.bytes (handleOf core slot x.gen)) with
      | (s, true) => .next (s.updCore core fun c => { c with slots := c.slots.upd slot fun y => { y with written := true } })
      | (s, false) => .next s

/-- SERVICE_RECORD_WRITE (R396). -/
def execServiceRecordWrite (part : Nat) (s : State) : Host.Outcome State Fault Refusal :=
  let p := s.part part
  match p.svc with
  | [] => .next s
  | r :: rest =>
    if !p.svqEn then .next s
    else match s.queueWrite part p.svqBase p.svqPbo p.svqCbo p.svqLgn 32 (fun _ => r.bytes) with
      | (s, true) => .next (s.updPart part fun x => { x with svc := rest })
      | (s, false) => .next s

end Sys2Proof.Machine
end

