-- ==== Sys2Proof/Machine/System.lean ====
section
/-! DEFINITION. Class 12 (R341 to R362, R388 to R395). -/

namespace Sys2Proof.Machine

/-- Attributes of class 12: privileged, core profile, breaks a chain (R341). -/
def aSys : Attr := { brk := true, priv := true }

def illegal (s : State) : Res := .trap s { cause := .illegalOperand }

/-! ### SRET (R342) -/

/-- Acts that a record's kind permits (R342). -/
def actOk (kind : Nat) : SretAct → Bool
  | .resume => true
  | .fail => kind == 5
  | .exit => kind ≤ 3

/-- A trapped thread goes on at its resume PC, or at B (R342). -/
def State.resumeThread (s : State) (t : Nat) (pc : Option DWord) : State :=
  match (s.thr t).st with
  | .waiting (.trap _ _ _) =>
    s.updThr t fun x => { x with st := .ready, readyAt := s.cyc.toNat, r := { x.r with pc := pc.getD x.r.pc } }
  | _ => s

/-- A context that an ASSERT stopped runs again; one that PREEMPT or HALT stops as well stays stopped (R342, R350). -/
def State.resumeCtx (s : State) (p ctx : Nat) : State :=
  (s.updCtx p ctx fun c => { c with phase := if c.phase ≤ 3 && !c.preempted then 0 else c.phase }).wake

/-- WGKILL.ctx: every launch of the context (R360). -/
def State.killCtx (s : State) (p ctx : Nat) : State := (s.ctxLaunches p ctx).foldl (fun s l => s.killLaunch l) s

/-- The dirty line of a workgroup whose global address a service request names. -/
def Wg.lineAt (g : Wg) (gva : DWord) : Option Nat :=
  g.filled.find? fun l => match g.entryOf l with | some e => e.gvaOf l == gva | none => false

/-- A write-back that the supervisor cannot service: the line is discarded and the launch's status says so (R53, R359). -/
def State.loseLine (s : State) (w : Nat) (gva : DWord) : State :=
  let s := match (s.wg w).lineAt gva with
    | some l => s.updWg w fun g => { g with lines := g.lines.set l none, wbHold := false }
    | none => s.updWg w fun g => { g with wbHold := false }
  s.updLaunch (s.wg w).launch fun l => { l with wbLost := true }

/-- SRET.fail of a held operation (R272, R289, R295). -/
def State.failOp (s : State) (n : Nat) : State :=
  match s.ops[n]? with
  | none => s
  | some o =>
    match o.live, o.phase with
    | true, .held i =>
      match o.instr with
      | .tdrain _ _ _ _ _ _ _ => s.drainFail n o o.prog i
      | .mwload _ _ _ _ _ _ => match s.tileOf n with | some t => s.tileFail t n o i | none => s
      | _ => s.opFail n o o.prog i
    | _, _ => s

/-- SRET.resume of a held operation: it continues from its resume point. -/
def State.serviceOp (s : State) (n : Nat) : State :=
  s.updOp n fun o => match o.phase with | .held _ => { o with phase := .serviced } | _ => o

/-- A thread of a crew that TIMER holds exits with the others of its crew (R342). -/
def State.exitCrew (s : State) (c : Nat) : State := (s.live c).foldl (fun s t => s.exitThread t) s

/-- The act of SRET on a record whose slot has been freed (R342). -/
def State.sretAct (s : State) (q : TrapRec) (act : SretAct) (pc : Option DWord) : State :=
  let t := q.thread.getD 0
  let c := s.crewOf t
  if q.kind ≤ 1 then (if act = .exit then s.exitThread t else s.resumeThread t pc)
  else if q.kind = 2 then
    let s := s.updCrew c fun x => { x with timer := false }
    if act = .exit then s.exitCrew c else s
  else if q.kind = 3 then
    (if act = .exit then s.killCtx q.part q.ctx else (s.resumeThread t pc).resumeCtx q.part q.ctx)
  else if q.kind = 5 then
    match q.op with
    | some n => if act = .fail then s.failOp n else s.serviceOp n
    | none =>
      let w := q.wg.getD 0
      if act = .fail then s.loseLine w q.info.addr else s.updWg w fun g => { g with wbHold := false }
  else s

/-- SRET (R342); a kill of a context that is being saved waits until the save ends, as WGKILL's does (R360). -/
def execSret (h : Hdr) (a b : Src) (act : SretAct) (pc : Bool) (s : State) :=
  s.issueI ⟨aSys, h, .v a :: (if pc then [.x b] else []), .p h.d⟩ fun s r =>
    match s.recOf s.curAs.part (r.rv a).toNat with
    | none => .p s false
    | some (core, slot, q) =>
      if !actOk q.kind act || (pc && (act != .resume || !(q.kind ≤ 1 || q.kind == 3))) then illegal s
      else if q.kind = 3 && act = .exit && s.ctxPhase q.part q.ctx = 4 then .stall s
      else .p ((s.freeSlotAt core slot).sretAct q act (if pc then some (r.rx b) else none)) true

/-! ### SYSRD and SYSWR (R344) -/

/-- The entry that the a field selects, where number, index and access are as the register's table says; that of a register without an index
is not read (R344; R169 refuses another a than z there). -/
def State.sysIdx (s : State) (reg : Nat) (a : Src) (idx : Nat) (write : Bool) : Option Nat :=
  match s.regEntries s.curAs.part reg with
  | none => none
  | some n =>
    if write && regReadOnly reg then none
    else if n = 0 then some 0
    else if a == .zero || n ≤ idx then none else some idx

/-- SYSRD (R344); a read of PHC keeps the nanoseconds of its instant for the thread, which PHC_NS gives (R423; log 75). -/
def execSysrd (h : Hdr) (a : Src) (reg : BitVec 10) (s : State) :=
  s.issueI ⟨aSys, h, [.vi a], .x h.d⟩ fun s r =>
    match s.sysIdx reg.toNat a (r.rv a).toNat false with
    | none => illegal s
    | some i =>
      let x := if reg = 0x385 then zext64 (s.thr s.t).phcNs else s.sysRead s.curAs.part reg.toNat i
      let s := if reg = 0x384 then s.updThr s.t fun y => { y with phcNs := s.links.phcNs } else s
      .x (if reg.toNat ≤ 0x00B && 0x004 ≤ reg.toNat then s.winTouch s.curAs.part else s) x

/-- An instruction that has started an invalidation stalls at issue until it is acknowledged, then goes on (R362, R387, R397). -/
def State.afterInv (s : State) (go : State → Res) : Res :=
  match (s.thr s.t).inv with
  | some i => if (s.tlbinvs[i]?).any (·.live) then .stall s else .none (s.updThr s.t fun x => { x with inv := none })
  | none => go s

/-- An invalidation starts, at most eight at a time, and the instruction stalls for it (R387). -/
def State.stallInv (s : State) (f : State → State) : Res :=
  if 8 ≤ s.invCount then .stall s else .stall ((f s).startInv.updThr s.t fun x => { x with inv := some s.tlbinvs.length })

/-- Register i of the thread of the partition's window is held by a joint operation, so that a write of it stalls (R279, R343). -/
def State.windowHeld (s : State) (p i : Nat) : Bool := (s.winThread p).any fun t => s.regHeld (s.crewOf t) (i, 1)

/-- SYSWR (R344); the disable of an aperture in use waits for its requests (R397), a write of TVREG for a pass that holds the register (R279). -/
def execSyswr (h : Hdr) (a b : Src) (reg : BitVec 10) (s : State) :=
  s.issueI ⟨aSys, h, [.vi a, .xi b], .none⟩ fun s r => s.afterInv fun s =>
    match s.sysIdx reg.toNat a (r.rv a).toNat true with
    | none => illegal s
    | some i =>
      let p := s.curAs.part
      if reg = 0x210 && s.aperDrains p i (r.rx b) then s.stallInv fun s => s.sysWrite p 0x210 i (r.rx b)
      else if reg = 0x008 && s.windowHeld p i then .stall s
      else .none (s.sysWrite p reg.toNat i (r.rx b))

/-! ### Contexts (R349 to R361) -/

/-- A context operand of more than 16 bits (R341). -/
def ctxBad (x : Word) : Bool := 65536 ≤ x.toNat

/-- The address space in which the device follows a supervisor's addresses later. -/
def supAs (p ctx : Nat) : As := ⟨p, ctx, true, none⟩

/-- A kind 6 record of no thread (R340, R349, R367). -/
def State.orphanRec (s : State) (p ctx : Nat) (sup : Bool) (i : TrapInfo) : State :=
  s.putRec { info := i, part := p, kind := 6, crew := 0, lane := 0, core := 0, ctx := ctx, sup := sup, tpc := 0, opc := 0, cyc := s.cyc }

/-- A barrier object advanced by 1 by the device with a release at .pkg; one that does not translate leaves a record (R349), and one whose
page is switching is advanced once that has ended (R393). -/
def State.advanceOr (s : State) (p ctx objCtx : Nat) (bo : DWord) : State :=
  match s.boAdvance none (supAs p objCtx) bo 1 with
  | (s, .trap i) => s.orphanRec p ctx false i
  | (s, .wait _) => s.updCtx p ctx fun c => { c with bos := c.bos ++ [(objCtx, bo)] }
  | (s, .ok _) => s

/-- CTXSAVE (R351): the checks; the save itself is CTXSAVE_COMPLETE. -/
def execCtxsave (h : Hdr) (a b : Src) (s : State) :=
  s.issueI ⟨aSys, h, [.vi a, .x b], .none⟩ fun s r =>
    let p := s.curAs.part
    let c := (r.rv a).toNat
    let va := r.rx b
    if ctxBad (r.rv a) then illegal s
    else if !s.ctxUsed p c then .none s
    else if s.ctxState p c != 3 then illegal s
    else if va.toNat % 4096 != 0 then .trap s (accTrap .misaligned .store va)
    else match s.resolve s.curAs s.curView va 64 .load with
      | (s, .trap i) => .trap s i
      | (s, .wait w) => .wait s w
      | (s, .ok pl) =>
        let s := s.demandPlace pl
        if nbits (leNat (s.fetchPlace s.curView pl)) 64 64 < s.ctxSize p c then illegal s
        else match s.resolveRange s.curAs s.curView va (s.ctxSize p c) .store with
          | (s, .trap i) => .trap s i
          | (s, .wait w) => .wait s w
          | (s, .ok _) => .none (s.updCtx p c fun x => { x with phase := 4, area := va, areaCtx := s.curAs.ctx })

/-- Check 4 of R357 and the start of the load; the thread waits for room. -/
def loadBegin (s : State) (p c : Nat) (bs : List Byte) (va : DWord) : Res :=
  if c = 0xFFFF || s.ctxState p c != 0 then illegal s
  else
    .wait (s.updCtx p c fun x => { x with phase := 5, area := va, areaCtx := s.curAs.ctx, image := bs, thread := some s.t }) (.image c)

/-- CTXLOAD (R357, R358): b = z resumes a stopped context in place. -/
def execCtxload (h : Hdr) (a b : Src) (s : State) :=
  s.issueI ⟨aSys, h, [.vi a, .x b], .none⟩ fun s r =>
    let p := s.curAs.part
    let c := (r.rv a).toNat
    let va := r.rx b
    if ctxBad (r.rv a) then illegal s
    else if b == .zero then
      if s.ctxState p c != 3 then illegal s
      else .none ((s.updCtx p c fun x => { x with phase := 0, preempted := false }).wake)
    else match s.resolveRange s.curAs s.curView va 64 .load with
      | (s, .trap i) => .trap s i
      | (s, .wait w) => .wait s w
      | (s, .ok ps) =>
        let s := s.demandAll ps
        let used := imgNat (s.fetchAll s.curView ps) 0x18 8
        match s.resolveRange s.curAs s.curView va (max 64 used) .load with
        | (s, .trap i) => .trap s i
        | (s, .wait w) => .wait s w
        | (s, .ok ps) =>
          let s := s.demandAll ps
          let bs := (s.fetchAll s.curView ps).take (max 64 used)
          if imgNat bs 0 2 != 0xC7A5 || imgNat bs 2 1 != 1 || imgNat bs 4 2 != c then illegal s
          else match imageBad (s.part p) bs with
            | some o => .trap s { cause := .illegalOperand, addr := BitVec.ofNat 64 o }
            | none => loadBegin s p c bs va

/-- PREEMPT (R349): a context that is loading stops once it has been restored. -/
def execPreempt (h : Hdr) (a b : Src) (s : State) :=
  s.issueI ⟨aSys, h, [.vi a, .x b], .none⟩ fun s r =>
    let p := s.curAs.part
    let c := (r.rv a).toNat
    if ctxBad (r.rv a) then illegal s
    else if !s.ctxUsed p c then .none s
    else if 3 ≤ s.ctxPhase p c && s.ctxPhase p c != 5 then
      .none ((s.updCtx p c fun x => { x with preempted := true }).advanceOr p c s.curAs.ctx (r.rx b))
    else .none ((s.stopCtx p c true (some (s.curAs.ctx, r.rx b))).returnPasses p c)

/-- Fields of a WGKILL target that its scope does not use, and bits [63:57], are zero (R360). -/
def killOk (x : DWord) : KillScope → Bool
  | .wg => bits x 57 7 == 0
  | .launch => bits x 32 32 == 0
  | .ctx => bits x 16 48 == 0

/-- The workgroups and launches that a target names end (R360). -/
def State.kill (s : State) (p : Nat) (x : DWord) (scope : KillScope) : State :=
  let c := bits x 0 16
  let ls := (s.ctxLaunches p c).filter fun l => scope == .ctx || (s.launch l).lnum == bits x 16 16
  let s : State := match scope with
    | .wg => (List.range s.wgs.length).foldl (fun (s : State) w =>
        let g := s.wg w
        if ls.contains g.launch && g.wx == bits x 32 5 && g.wy == bits x 37 4 && g.wz == bits x 41 16 && g.present then
          ((s.killWg w).updLaunch g.launch fun l => { l with killed := true }).tryTilebar w
        else s) s
    | _ => ls.foldl (fun (s : State) l => s.killLaunch l) s
  s.pump.wake

/-- WGKILL (R360): it waits while the context is being saved. -/
def execWgkill (h : Hdr) (a : Src) (scope : KillScope) (s : State) :=
  s.issueI ⟨aSys, h, [.x a], .none⟩ fun s r =>
    let x := r.rx a
    let p := s.curAs.part
    if !killOk x scope then illegal s
    else if s.ctxPhase p (bits x 0 16) = 4 then .stall s
    else .none (s.kill p x scope)

/-- The contexts of a partition that have launches or are loading (R361). -/
def State.partCtxs (s : State) (p : Nat) : List Nat :=
  ((s.launches.filter fun l => l.part == p && l.present).map (·.ctx) ++ ((s.part p).ctxs.filter fun x => x.2.phase == 5).map (·.1)).dedup

/-- The partition stops: every context as by PREEMPT, no more distribution, the code to the housekeeping controller (R361, R417). -/
def State.haltPart (s : State) (p : Nat) (code : BitVec 8) : State :=
  let s := (s.partCtxs p).foldl (fun s c => (s.stopCtx p c true none).returnPasses p c) s
  let s := s.updPart p fun x => { x with halted := true, haltCode := code }
  ({ s with hk := { s.hk with halts := s.hk.halts ++ [(p, code.toNat)] } } : State).noteVec0

/-- HALT (R361). -/
def execHalt (h : Hdr) (code : BitVec 8) (s : State) :=
  s.issueI ⟨aSys, h, [], .none⟩ fun s _ => .none (s.haltPart s.curAs.part code)

/-! ### Translation (R362, R387 to R395) -/

/-- A context id that a translation instruction may name: in use, exported, or the supervisor half (R334, R379, R398). -/
def State.ctxNamed (s : State) (p c : Nat) : Bool :=
  s.ctxUsed p c || c == 0xFFFF || ((s.part p).xcfg.getLsbD 0 && bits (s.part p).xcfg 16 16 == c)

/-- The cached leaves that a TLBINV covers are removed (R387). -/
def State.dropTlb (s : State) (p c : Nat) (mode : TlbMode) (lo n : Nat) : State :=
  { s with tlb := s.tlb.filter fun l =>
      !(l.part == p && match mode with
        | .all => true
        | .ctx => l.ctx == c
        | _ => l.ctx == c && l.base / l.size * l.size < lo + n && lo < l.base / l.size * l.size + l.size) }

/-- The operands of TLBINV: .ctx ignores the value of A, not its encoding (R362). -/
def tlbOps (a b : Src) (mode : TlbMode) : List Opd := if mode = .all then [] else [.x a, .x b]

/-- TLBINV (R362, R387). -/
def execTlbinv (h : Hdr) (a b : Src) (mode : TlbMode) (s : State) :=
  s.issueI ⟨aSys, h, tlbOps a b mode, .none⟩ fun s r => s.afterInv fun s =>
    let p := s.curAs.part
    let x := if mode = .all then 0 else r.rx b
    let c := bits x 0 16
    let va := r.rx a
    let count := if mode = .range then (if bits x 16 32 = 0 then 2 ^ 32 else bits x 16 32) else 1
    if bits x 48 16 != 0 || (mode != .range && bits x 16 32 != 0) then illegal s
    else if (mode = .page || mode = .range) && !canonical va then illegal s
    else if mode != .all && !s.ctxNamed p c then .none s
    else
      let tail := if mode = .range then va57 va % 4096 else 0
      s.stallInv fun s => s.dropTlb p c mode (va57 va / 4096 * 4096) (4096 * count + tail)

/-- Every page of a range is mapped in its context by a valid leaf that is not discarded, and the state after the reads of its page tables;
`fuel` pages at most (R388, R405). -/
def State.resident' (s : State) (a : As) (va : DWord) : Nat → Nat → State × Bool
  | 0, _ => (s, true)
  | fuel + 1, n =>
    if n == 0 then (s, true)
    else
      let s := s.demandLeaf a va false
      match s.peekLeaf a va with
      | some (e, _) => if e.getLsbD 10 then (s, false) else s.resident' a (va + 4096) fuel (n - 4096)
      | none => (s, false)

/-- A lease entry is taken for a range, where it can be granted (R388). -/
def State.grantLease (s : State) (p : Nat) (launch : Option Nat) (ctx : Nat) (sup : Bool) (base len : DWord) : State × Bool :=
  let used := (s.part p).leases.map (·.id)
  match (List.range 256).find? fun i => !used.contains i with
  | none => (s, false)
  | some i =>
    match s.resident' ⟨p, ctx, sup, none⟩ base (len.toNat / 4096) len.toNat with
    | (s, true) =>
      (s.updPart p fun x => { x with leases := x.leases ++ [{ id := i, launch := launch, ctx := ctx, base := base, len := len }] }, true)
    | (s, false) => (s, false)

/-- A completed LEASE has the leases that wait tried again (R368, R389). -/
def State.retryLeases (s : State) (p : Nat) : State :=
  { s with launches := s.launches.map fun l => if l.part == p && l.state == 1 then { l with lastTry := 0 } else l }

/-- LEASE (R388, R389). -/
def execLease (h : Hdr) (a : Src) (rel : Bool) (s : State) :=
  s.issueI ⟨aSys, h, [.x a], .p h.d⟩ fun s r =>
    s.access (r.rx a) 32 .load fun s pl =>
      let s := s.demandPlace pl
      let n := leNat (s.fetchPlace s.curView pl)
      let p := s.curAs.part
      let c := nbits n 128 16
      let base : DWord := BitVec.ofNat 64 n
      let len : DWord := BitVec.ofNat 64 (n / 2 ^ 64)
      if base.toNat % 4096 != 0 || len.toNat % 4096 != 0 || len.toNat < 4096 || nbits n 144 112 != 0 then illegal s
      else if !s.ctxNamed p c then .p s false
      else if rel then
        let mine := fun (l : Lease) => l.launch.isNone && l.ctx == c && l.base == base && l.len == len
        match (s.part p).leases.find? mine with
        | some l => .p ((s.updPart p fun x => { x with leases := x.leases.erase l }).retryLeases p) true
        | none => .p (s.retryLeases p) false
      else match s.grantLease p none c true base len with
        | (s, b) => .p (s.retryLeases p) b

/-- Counters of the 4 KiB units of a page (R391, R392). -/
def State.unitCounts (s : State) (pa size : Nat) : List DWord := (List.range (size / 4096)).map fun i => s.wvc.get (wvcKey (pa + 4096 * i))

/-- The copy of a page: its visible bytes, and its poison, without counting (R391, R392, R405, R406). -/
def State.copyPage (s : State) (old dst size : Nat) : State :=
  let s := s.demandRange old size
  let bad := (List.range (size / 64)).filter fun i => s.isPoison (old + 64 * i)
  let s := s.perform dst (s.viewBytes none old size) false
  { s with poison := s.poison ++ bad.map fun i => dst / 64 + i }

/-- The latest issue of a thread that may issue stalled. -/
def State.stillStalls (s : State) (t : Nat) : Bool := s.mayIssue t && (s.thr t).lastIssue < (s.thr t).stalled

/-- A PGMIG that stalled before this thread's still stalls: they start in the order in which they issued (R392). -/
def State.migAhead (s : State) (t : Nat) : Bool :=
  (s.migWait.takeWhile (· != t)).any s.stillStalls

/-- PGMIG (R392): its checks, v0 and the copy; MIGRATION_SWITCH_END begins and ends the switch. -/
def execPgmig (h : Hdr) (a : Src) (s : State) :=
  s.issueI ⟨aSys, h, [.x a], .p h.d⟩ fun s r =>
    s.access (r.rx a) 32 .load fun s pl =>
      let s := s.demandPlace pl
      let n := leNat (s.fetchPlace s.curView pl)
      let p := s.curAs.part
      let va : DWord := BitVec.ofNat 64 n
      let dst := nbits n 64 64
      let c := nbits n 128 16
      let as := supAs p c
      let root := s.rootOf as va
      if nbits n 144 112 != 0 then illegal s
      else if !s.ctxNamed p c then .p s false
      else if !canonical va || !root.getLsbD 0 then illegal s
      else
      let s := s.demandWalk as va
      match s.walk (bits root 12 40 * 4096) (va57 va) [4, 3, 2, 1, 0] with
        | none => illegal s
        | some (e, slot, lvl) =>
          let size := 2 ^ leafBits e lvl
          let base : DWord := va - BitVec.ofNat 64 (va57 va % size)
          let slot0 := slot / (8 * 2 ^ sizeCode e lvl) * (8 * 2 ^ sizeCode e lvl)
          if e.getLsbD 10 || e.getLsbD 9 || e.getLsbD 52 || !e.getLsbD 11 || 2 ^ 21 < size || !paIsPackage dst || dst % size != 0 ||
              s.meetsPark dst size || s.migs.any (fun m => m.live && m.slot == slot0) then illegal s
          else if 16 ≤ (s.migs.filter (·.live)).length || s.migAhead s.t then
            let ahead := s.migWait.filter fun x => x == s.t || s.stillStalls x
            .stall { s with migWait := if ahead.contains s.t then ahead else ahead ++ [s.t] }
          else s.unlessBlocked (s.demandBlocked dst size) fun s =>
            let s : State := { s with migWait := s.migWait.erase s.t }
            let old := leafFrame e lvl
            let m : Migration :=
              { part := p, thread := some s.t, d := h.d, ctx := tagOf as va, va := base, size := size, old := old, dst := dst,
                v0 := s.unitCounts old size, slot := slot0, lvl := lvl, switching := false, since := s.cyc.toNat }
            .wait { s.copyPage old dst size with migs := s.migs ++ [m] } (.pgmig s.migs.length)

/-- TKPOST (R395). -/
def execTkpost (h : Hdr) (a : Src) (abort : Bool) (s : State) :=
  s.issueI ⟨aSys, h, [.x a], .none⟩ fun s r =>
    s.access (r.rx a) 16 .load fun s pl =>
      let s := s.demandPlace pl
      let n := leNat (s.fetchPlace s.curView pl)
      let p := s.curAs.part
      let va := nbits n 0 64
      let c := nbits n 64 16
      let lg := nbits n 80 8
      if lg < 12 || 32 < lg || va % 2 ^ lg != 0 || nbits n 88 40 != 0 then illegal s
      else if !s.ctxNamed p c then .none s
      else
        let hit := s.tickets.filter fun t =>
          t.part == p && t.ctx == c && t.mig.isNone && va ≤ t.va.toNat && t.va.toNat < va + 2 ^ lg
        .none (hit.foldl (fun s t => s.answerTicket t abort) s)

end Sys2Proof.Machine
end

