-- ==== Sys2Proof/Machine/ContextEvents.lean ====
section
/-! DEFINITION. Events of contexts and translation: a stop, a save, a restoration (R349 to R358), an invalidation's acknowledgement (R387)
and the switch of a migration (R392, R393). -/

namespace Sys2Proof.Machine

/-! ### The stop of a context (R349) -/

/-- A thread belongs to a context. -/
def State.inCtx (s : State) (p ctx t : Nat) : Bool := s.partOf t == p && s.ctxOf t == ctx

/-- A thread of the context is still in a check or in an instruction that it issued (R349, step 1); one that waits for another's
write-back makes its check again when the context runs. -/
def State.ctxSuspended (s : State) (p ctx : Nat) : Bool :=
  (List.range s.threads.length).any fun t =>
    (match (s.thr t).st with
      | .fetchSuspended (.writeBack _ _) => false
      | .fetchSuspended _ => true
      | _ => false) && s.inCtx p ctx t

/-- A load of the context is in flight. -/
def State.ctxLoads (s : State) (p ctx : Nat) : Bool := s.loads.any fun l => l.walker.isNone && s.inCtx p ctx l.thread

/-- A granted pass of the context runs (R349, step 2). -/
def State.ctxPass (s : State) (p ctx : Nat) : Bool :=
  s.joints.any fun j => j.live && j.granted.isSome && (let l := s.launch (s.wg j.wg).launch; l.part == p && l.ctx == ctx)

/-- A remote access of the context is in flight, neither acknowledged nor ticketed (R349, step 4). -/
def State.ctxFlight (s : State) (p ctx : Nat) : Bool :=
  s.racc.any fun a => a.live && a.sent && a.tkid.isNone && s.inCtx p ctx a.thread

/-- Every core has finished the steps of R349. -/
def State.ctxQuiet (s : State) (p ctx : Nat) : Bool :=
  !s.ctxSuspended p ctx && !s.ctxLoads p ctx && !s.ctxPass p ctx && !s.ctxFlight p ctx

/-- Every barrier object that waits for a context's stop is advanced (R349). -/
def State.advanceAll (s : State) (p ctx : Nat) : State :=
  (((s.part p).ctxs.get ctx).bos).foldl (fun s b => s.advanceOr p ctx b.1 b.2) (s.updCtx p ctx fun c => { c with bos := [] })

/-- CONTEXT_STOPPED (R31, R349): the context is stopped, and the objects advance; one without launches is unknown again. An object whose
advance had to wait (R393) is advanced by a later occurrence. -/
def execContextStopped (part : Nat) (ctx : BitVec 16) (s : State) : Host.Outcome State Fault Refusal :=
  let c := ctx.toNat
  if s.ctxPhase part c = 2 then
    if s.ctxQuiet part c then
      let f := fun (x : CtxRun) =>
        if (s.ctxLaunches part c).isEmpty then { x with phase := 0, preempted := false } else { x with phase := 3 }
      .next ((s.updCtx part c f).advanceAll part c)
    else .next s
  else .next (if s.ctxPhase part c = 5 then s else s.advanceAll part c)

/-! ### The save (R351) -/

/-- The stashes of some workgroups are written back and released (R54); false where a line fails (R53). -/
def State.releaseWgs (s : State) : List Nat → State × Bool
  | [] => (s, true)
  | w :: r =>
    match s.releaseLines w (s.wg w).filled with
    | (s, true) => s.releaseWgs r
    | (s, false) => (s, false)

/-- The banks of a workgroup that is switched out are free at once, and read zero when they are allocated again (R57, R62). -/
def State.dropTarn (s : State) (core w : Nat) : State :=
  s.updCore core fun c =>
    let mine := c.allocs.filter (·.wg == w)
    { c with allocs := c.allocs.filter (·.wg != w), tarn := mine.foldl (fun t a => zeroRows t a.base 0 a.rows) c.tarn }

/-- What a saved context held is freed: tarn, trap slots, ticket table entries, engine queue places, workgroups (R351). -/
def State.ctxFree (s : State) (p ctx : Nat) : State :=
  let ws := s.imageWgs p ctx
  let inWs := fun (c : Nat) => ws.contains (s.wgOfCrew c)
  let ls := s.ctxLaunches p ctx
  let s := ws.foldl (fun s w => s.dropTarn (s.wg w).core w) s
  let s := (s.cores.map (·.1)).foldl (fun s core => s.dropSlots core fun r => r.part == p && r.ctx == ctx) s
  let s : State :=
    { s with
      threads := (List.range s.threads.length).map fun t =>
        if inWs (s.crewOf t) then { s.thr t with async := if s.asyncSaved t then (s.thr t).async.drop 1 else (s.thr t).async, tarn := none, inv := none }
        else s.thr t,
      racc := s.racc.map fun a => if inWs a.crew then { a with live := false, saved := a.live } else a,
      ops := s.ops.map fun o => if inWs o.crew then { o with live := false, saved := o.saved || o.live } else o,
      joints := s.joints.map fun j => if ws.contains j.wg then { j with live := false } else j,
      tiles := s.tiles.map fun t => if inWs t.crew then { t with slot := false, old := true } else t }
  let s := ls.foldl (fun s l => (s.unstartedWgs l).foldl (fun s w => s.updWg w fun g => { g with stage := .saved }) s) s
  let s := ws.foldl (fun s w => s.updWg w fun g => { g with stage := .saved, stash := [], maps := [], lines := [], wbHold := false }) s
  ls.foldl (fun s l => (s.carveDrop l).updLaunch l fun x => { x with state := 6 }) s

/-- The write of the image over its area, which keeps its capacity and object (R352), where the area can take it now. -/
def State.writeImage (s : State) (p ctx : Nat) : Tried (State × DWord) :=
  let x := (s.part p).ctxs.get ctx
  let a := supAs p x.areaCtx
  match s.resolve a none x.area 64 .load with
  | (s, .ok h) =>
    let s := s.demandPlace h
    let hd := leNat (s.fetchPlace none h)
    let bs := s.image p ctx (nbits hd 64 64) (nbits hd 128 64)
    match s.resolveRange a none x.area bs.length .store with
    | (s, .ok ps) => match s.blockedAll ps with
      | some b => .error (some b)
      | none => .ok (s.performAll ps bs, BitVec.ofNat 64 (nbits hd 128 64))
    | _ => .error none
  | _ => .error none

/-- CTXSAVE_COMPLETE (R54, R62, R124, R351 to R356, R376). -/
def execCtxsaveComplete (part : Nat) (ctx : BitVec 16) (s : State) : Host.Outcome State Fault Refusal :=
  let c := ctx.toNat
  if s.ctxPhase part c = 4 && s.ctxQuiet part c then
    match s.releaseWgs (s.imageWgs part c) with
    | (s, false) => .next s
    | (s, true) =>
      match s.writeImage part c with
      | .error b => .next (s.askBlocked b)
      | .ok (s, bo) =>
        let objCtx := ((s.part part).ctxs.get c).areaCtx
        .next (((s.ctxFree part c).updCtx part c fun x => { x with phase := 0, preempted := false }).advanceOr part c objCtx bo)
  else .next s

/-! ### The restoration (R358) -/

/-- CTXLOAD_RESTORE (R54, R62, R124, R152, R160, R357, R358): once there is room the context is restored and its threads take up their
states; the thread that loads goes on. -/
def execCtxloadRestore (part : Nat) (ctx : BitVec 16) (s : State) : Host.Outcome State Fault Refusal :=
  let c := ctx.toNat
  let x := (s.part part).ctxs.get c
  if s.ctxPhase part c = 5 then
    match s.restore part c x.image with
    | none => .next s
    | some s =>
      let s := s.updCtx part c fun y => { y with phase := if y.preempted then 2 else 0, image := [], thread := none }
      let s := s.wake.advanceOr part c x.areaCtx (BitVec.ofNat 64 (imgNat x.image 0x10 8))
      match x.thread with
      | some t => .next (if (s.thr t).st == .fetchSuspended (.image c) then s.updThr t fun y => y.goOn s.cyc.toNat none else s)
      | none => .next s
  else .next s

/-! ### Invalidations (R387) -/

/-- No request stamped with one of the eight generations before `g` is left (R387). -/
def State.invDone (s : State) (g : BitVec 4) : Bool :=
  s.posted.all fun w => (g - w.gen).toNat = 0 || 8 < (g - w.gen).toNat

/-- INVALIDATION_ACKNOWLEDGED (R386, R387). -/
def execInvalidationAcknowledged (i : Nat) (s : State) : Host.Outcome State Fault Refusal :=
  match s.tlbinvs[i]? with
  | none => .next s
  | some x =>
    if x.live && s.invDone x.gen then
      .next { s with tlbinvs := s.tlbinvs.modify i fun y => { y with live := false } }
    else .next s

/-! ### The switch of a migration (R392, R393) -/

/-- Posted writes to a page are performed. -/
def State.flushPage (s : State) (pa size : Nat) : State :=
  s.flushWhere fun w => w.pa < pa + size && pa < w.pa + w.bytes.length

/-- The registrations of a page's lines are given up as for a write (R55); false where one's write-back fails (R53). -/
def State.giveUpPage (s : State) (pa : Nat) : Nat → State × Bool
  | 0 => (s, true)
  | n + 1 =>
    match s.giveUpPage pa n with
    | (s, false) => (s, false)
    | (s, true) =>
      match s.dirFind (pa / 64 + n) with
      | some (w, l) => match s.wbKeeper w l with | none => (s.giveUp w l, true) | some (v, k) => (s.wbRequest v k, false)
      | none => (s, true)

/-- A leaf entry with its frame replaced; its size code and flags stay (R382, R392). -/
def leafMoved (e : DWord) (lvl dst : Nat) : DWord :=
  let b := leafBits e lvl
  BitVec.ofNat 64 (e.toNat % 2 ^ b + dst % 2 ^ 52 / 2 ^ b * 2 ^ b + e.toNat / 2 ^ 52 * 2 ^ 52)

/-- The new frame is written into every replica of the leaf, each keeping its own a and d (R382, R392). -/
def State.moveLeaf (s : State) (m : Migration) : State :=
  let e0 := s.readPhys8 m.slot
  (List.range (2 ^ sizeCode e0 m.lvl)).foldl (fun s i =>
    s.putEntry (m.slot + 8 * i) (leafMoved (s.readPhys8 (m.slot + 8 * i)) m.lvl m.dst)) s

/-- The destination's content after a switch that does not commit is open (R392; log 7). -/
def State.freePage (s : State) (pa size : Nat) : State :=
  { (s.perform pa ((List.range size).map fun i => Config.freeByte s.free i) false) with free := s.free + 1 }

/-- A switch ends: held tickets get their notices, the thread its predicate (R393, R395). -/
def State.endSwitch (s : State) (i : Nat) (m : Migration) (b : Bool) : State :=
  let s : State := { s with migs := s.migs.modify i fun x => { x with live := false, switching := false } }
  let s := (s.tickets.filter fun t => t.mig == some i).foldl (fun s t => s.answerTicket t false) s
  match m.thread with
  | some t =>
    if (s.thr t).st == .fetchSuspended (.pgmig i) then s.updThr t fun y => y.goOn s.cyc.toNat (some (m.d, b)) else s
  | none => s

/-- A switch commits: the leaf names the new frame and the page's old translation is invalidated as by TLBINV.page. -/
def State.commitSwitch (s : State) (m : Migration) : State :=
  let s := s.moveLeaf m
  let s := (s.dropTlb m.part m.ctx .page (va57 m.va) m.size).flushWhere fun _ => true
  { s with tlbGen := s.tlbGen + 1 }

/-- MIGRATION_SWITCH_END (R125, R392, R393): the switch begins at its first occurrence and ends at its second. -/
def execMigrationSwitchEnd (i : Nat) (s : State) : Host.Outcome State Fault Refusal :=
  match s.migs[i]? with
  | none => .next s
  | some m =>
    if !m.live then .next s
    else if !m.switching then .next { s with migs := s.migs.modify i fun x => { x with switching := true } }
    else
      match (s.flushPage m.old m.size).giveUpPage m.old (m.size / 64) with
      | (s, false) => .next s
      | (s, true) =>
        let s := s.demandRange m.slot (8 * 2 ^ sizeCode (s.readPhys8 m.slot) m.lvl)
        if s.posted.any fun w => w.pa < m.old + m.size && m.old < w.pa + w.bytes.length then .next s
        else if (s.demandBlocked m.slot (8 * 2 ^ sizeCode (s.readPhys8 m.slot) m.lvl)).isSome then
          .next (s.askBlocked (s.demandBlocked m.slot (8 * 2 ^ sizeCode (s.readPhys8 m.slot) m.lvl)))
        else if s.unitCounts m.old m.size == m.v0 then .next ((s.commitSwitch m).endSwitch i m true)
        else .next ((s.freePage m.dst m.size).endSwitch i m false)

end Sys2Proof.Machine
end

