-- ==== Sys2Proof/Machine/Control.lean ====
section
/-! DEFINITION. Class 2: control transfers, waits, leaders, barriers and requested traps (R208 to R215). -/

namespace Sys2Proof.Machine

/-- Attributes of a breaker that only a core issues. -/
def aBrk : Attr := { brk := true }

/-- The target of a short or long form; the instruction's own word is at the PC (R208). -/
def Regs.target (r : Regs) : Target → DWord
  | .short off => r.pc + off.signExtend 64 * 8
  | .long t => t

/-- A transfer to a checked target; a failing target writes nothing (R209). -/
def jumpTo (s : State) (t : DWord) (link : State → State) : Res :=
  match s.checkTarget s.curAs s.curView t with
  | (s, .ok ()) => .jump (link s) t
  | (s, .trap i) => .trap s i
  | (s, .wait w) => .wait s w

/-- BRA (R209). -/
def execBra (h : Hdr) (t : Target) (s : State) :=
  s.issueI ⟨{ walker := true, brk := true }, h, [], .none⟩ fun s r => jumpTo s (r.target t) id
/-- BRX (R209). -/
def execBrx (h : Hdr) (a : Src) (s : State) :=
  s.issueI ⟨aBrk, h, [.x a], .none⟩ fun s r => jumpTo s (r.rx a) id
/-- CALL (R209): the link is the next start word. -/
def execCall (h : Hdr) (t : Target) (s : State) :=
  s.issueI ⟨aBrk, h, [], .x h.d⟩ fun s r => jumpTo s (r.target t) fun s => s.updRegs fun g => if h.nw then g else g.setX h.d.toNat r.npc
/-- CALLX (R209): A is read first. -/
def execCallx (h : Hdr) (a : Src) (s : State) :=
  s.issueI ⟨aBrk, h, [.x a], .x h.d⟩ fun s r => jumpTo s (r.rx a) fun s => s.updRegs fun g => if h.nw then g else g.setX h.d.toNat r.npc
/-- RET (R209). -/
def execRet (h : Hdr) (a : Src) (s : State) :=
  s.issueI ⟨aBrk, h, [.x a], .none⟩ fun s r => jumpTo s (r.rx a) id
/-- LOOPD (R210). -/
def execLoopd (h : Hdr) (a : Src) (t : Target) (s : State) :=
  s.issueI ⟨aBrk, h, [.v a], .v h.d⟩ fun s r =>
    if (r.rv a).toNat ≤ 1 then .v s 0
    else jumpTo s (r.target t) fun s => s.updRegs fun g => if h.nw then g else g.setV h.d.toNat (r.rv a - 1)
/-- EXIT (R211). -/
def execExit (h : Hdr) (s : State) :=
  s.issueI ⟨aBrk, h, [], .none⟩ fun s _ => .stay (s.exitThread s.t)
/-- NOP (R211). -/
def execNop (h : Hdr) (s : State) := s.issueI ⟨aLane, h, [], .none⟩ fun s _ => .none s
/-- YIELD (R211): the bundle that issued ranks last among its equals. -/
def execYield (h : Hdr) (s : State) :=
  s.issueI ⟨{}, h, [], .none⟩ fun s _ =>
    .none { s with bundles := s.bundles.map fun b => if b.threads.contains s.t then { b with yielded := true } else b }
/-- SLEEPUNTIL (R211). -/
def execSleepuntil (h : Hdr) (a : Src) (s : State) :=
  s.issueI ⟨aBrk, h, [.x a], .none⟩ fun s r =>
    if (r.rx a).toNat ≤ s.cyc.toNat then .none s else .wait s (.sleep (r.rx a))
/-- ELECT (R32, R212). -/
def execElect (h : Hdr) (s : State) :=
  s.issueI ⟨{ brk := true, coll := true }, h, [], .p h.d⟩ fun s _ =>
    if (s.crew (s.crewOf s.t)).leader.isSome then .trap s { cause := .illegalCollective }
    else .stay ((s.hold (.elect h.d)).tryRdv (s.crewOf s.t))
/-- WAKE (R33, R212). -/
def execWake (h : Hdr) (s : State) :=
  s.issueI ⟨aBrk, h, [], .none⟩ fun s _ =>
    if s.isLeader s.t then .none (s.wakeCrew (s.crewOf s.t)) else .trap s { cause := .illegalCollective }
/-- CBAR (R36, R212). -/
def execCbar (h : Hdr) (s : State) :=
  s.issueI ⟨{ brk := true, coll := true }, h, [], .none⟩ fun s _ =>
    if s.isLeader s.t then .trap s { cause := .illegalCollective }
    else .stay ((s.hold .cbar).tryRdv (s.crewOf s.t))
/-- WGBAR (R212, R213). -/
def execWgbar (h : Hdr) (s : State) :=
  s.issueI ⟨aBrk, h, [], .none⟩ fun s _ => .stay ((s.hold .wgbar).tryWgbar (s.wgOf s.t))
/-- The scope of TILEBAR: a core's where a tile is one core, else one that is wider (R103). -/
def State.tileScope (s : State) (t : Nat) : Scope :=
  let l := s.launch (s.launchOf t)
  if l.ta == 0 && l.tb == 0 then .core else .clus

/-- TILEBAR (R103, R212, R213): a release on arrival, which waits as any release (R53). -/
def execTilebar (h : Hdr) (s : State) :=
  s.issueI ⟨aBrk, h, [], .none⟩ fun s _ =>
    s.releaseStall (s.coreOf s.t) (s.tileScope s.t) fun s => .stay ((s.hold .tilebar).tryTilebar (s.wgOf s.t))

/-- ASSERT (R215): a false condition stops the whole context with a record of kind 3. -/
def execAssert (h : Hdr) (q : BitVec 4) (neg : Bool) (a : Src) (s : State) :=
  s.issueI ⟨aBrk, h, [.x a], .none⟩ fun s r =>
    if r.pred q != neg then .none s
    else .stay ((s.stopNext 3 { cause := .assert, addr := r.rx a }).stopCtx (s.partOf s.t) (s.ctxOf s.t) false none)
/-- BRK (R215). -/
def execBrk (h : Hdr) (code : BitVec 8) (s : State) :=
  s.issueI ⟨aBrk, h, [], .none⟩ fun s _ => .stay (s.stopNext 0 { cause := .breakpoint, aux := zext64 code })
/-- TRAP (R215). -/
def execTrap (h : Hdr) (code : BitVec 8) (a : Src) (s : State) :=
  s.issueI ⟨aBrk, h, [.v a], .none⟩ fun s r =>
    .stay (s.stopNext 0 { cause := .userTrap, addr := zext64 (r.rv a), aux := zext64 code })

end Sys2Proof.Machine
end

