-- ==== Sys2Proof/Machine/Launches.lean ====
section
/-! DEFINITION. Launches: LAUNCH (R216, R364), the taking of records and their checks (R363 to R368), status and completion (R367), and
distribution (R369, R370). -/

namespace Sys2Proof.Machine

/-! ### The launch unit's memory accesses -/

/-- An 8-byte read of physical memory and a write, by the launch unit (R363). -/
def State.readQ (s : State) (pa : Nat) : Nat := leNat (s.viewBytes none pa 8)
def State.writeQ (s : State) (pa : Nat) (x : Nat) : State := s.perform pa (leBytes 8 x) true

/-- Address of slot i of a queue (R363). -/
def LaunchQ.slot (q : LaunchQ) (i : Nat) : Nat := q.base.toNat + 256 + 128 * (i % 2 ^ (q.lgn + 4))

/-- The queue in use of a partition whose base is a physical address. -/
def Part.queueAt (x : Part) (pa : Nat) : Option LaunchQ :=
  (x.lqs.find? fun e => e.1 < 64 && e.2.en && e.2.base.toNat == pa).map (·.2)

/-- The address space of a launch's record (R365). -/
def State.asOfLaunch (s : State) (l : Nat) : As :=
  let x := s.launch l
  ⟨x.part, x.ctx, x.sup, none⟩

/-! ### LAUNCH (R216) -/

/-- Steps 1 and 2 of R364: slot i is reserved and written. -/
def State.reserve (s : State) (q : LaunchQ) (bs : List Byte) : State :=
  let base := q.base.toNat
  let i := s.readQ (base + 0x10)
  (s.writeQ (base + 0x10) (i + 1)).perform (q.slot i) bs true

/-- Step 3 of R364: the queue's object advances. -/
def State.publish (s : State) (base : Nat) : State :=
  (s.writeQ base (min (s.readQ base + 1) 0xFFFFFFFFFFFFFFFF)).noteAdvance base

/-- An append of the partition whose turn has come advances the object of the queue that it was reserved in, wherever that queue's base now is,
and its LAUNCH is done; one whose object's line a stash still holds asks for it (R53, R216, R364). -/
def State.publishWaiting (s : State) (part : Nat) : State :=
  let due := (s.part part).appends.filter fun a => a.slot == s.readQ a.base
  match due.find? fun a => (s.demandBlocked a.base 8).isNone with
  | none => due.foldl (fun s a => s.askBlocked (s.demandBlocked a.base 8)) s
  | some a =>
    let s := (s.publish a.base).updPart part fun x => { x with appends := x.appends.erase a }
    match (s.thr a.thread).st with
    | .fetchSuspended (.append d) => s.updThr a.thread fun x => x.goOn s.cyc.toNat (some (d, true))
    | _ => s

/-- A line of a queue's objects or of its next slot cannot be written back (R53). -/
def State.queueBlocked (s : State) (q : LaunchQ) : Option (Nat × Nat) :=
  (s.demandBlocked q.base.toNat 24).orElse fun _ => s.demandBlocked (q.slot (s.readQ (q.base.toNat + 0x10))) 128

/-- Records appended, taken and reserved (R363). -/
def State.queueFull (s : State) (q : LaunchQ) : Bool :=
  2 ^ (q.lgn + 4) ≤ s.readQ (q.base.toNat + 0x10) - s.readQ (q.base.toNat + 8)

/-- LAUNCH (R216, R364): once its slot is reserved and written it waits for the appenders that reserved before it. The model's choices: A is
checked whole before B (log 83), and a record in a poisoned line is copied as it is stored (log 81). -/
def execLaunch (h : Hdr) (a b : Src) (s : State) :=
  s.issueI ⟨aBrk, h, [.x a, .x b], .p h.d⟩ fun s r => s.awaitRemote fun s =>
    s.access (r.rx a) 128 .load fun s rec' =>
      let s := s.demandPlace rec'
      if (r.rx b).toNat % 4096 != 0 then .trap s (accTrap .misaligned .store (r.rx b))
      else match s.resolve s.curAs s.curView (r.rx b) 8 .store with
      | (s, .trap i) => .trap s i
      | (s, .wait w) => .wait s w
      | (s, .ok pl) =>
        let deny := Res.trap s (accTrap .access .store (r.rx b))
        match pl with
        | .value _ => deny
        | .conv _ _ _ => deny
        | .mem pas _ =>
          match (s.part s.curAs.part).queueAt (pas.headD 0) with
          | none => deny
          | some q =>
            if q.sup && !s.curAs.sup then deny
            else
              let base := q.base.toNat
              s.releaseThen (s.coreOf s.t) .pkg fun s =>
              let s := s.demandRange base 24
              if s.queueFull q then .p s false
              else s.unlessBlocked (s.queueBlocked q) fun s =>
                let i := s.readQ (base + 0x10)
                let s := s.reserve q (s.fetchPlace s.curView rec')
                if s.readQ base == i then .p (s.publish base) true
                else
                  .wait (s.updPart s.curAs.part fun x => { x with appends := x.appends ++ [{ base := base, slot := i, thread := s.t }] })
                    (.append h.d)

/-! ### Status words and completion objects (R367) -/

/-- The status word of a launch. -/
def Launch.statusWord (l : Launch) : Nat :=
  pack [(0, 3, l.state), (8, 8, l.code), (16, 1, l.tarnLeak.toNat), (17, 1, l.wbLost.toNat), (18, 1, l.orphan.toNat),
    (19, 1, l.leaseFatal.toNat), (20, 1, l.leaseWait.toNat), (32, 16, l.lnum), (48, 16, l.ctx)]

/-- The kind 6 record of a status write or advance that fails (R367). -/
def State.launchRec (s : State) (l : Nat) (i : TrapInfo) : State :=
  let x := s.launch l
  let c : Cause := if i.cause = .access then .access else .translation
  s.orphanRec x.part x.ctx x.sup { cause := c, detail := i.detail, addr := i.addr, aux := BitVec.ofNat 64 x.lnum }

/-- The status word is written whole; it waits while its page is switching (R367, R393). -/
def State.putStatus (s : State) (l : Nat) : Tried State :=
  let x := s.launch l
  if x.statusVa = 0 then .ok s
  else match s.check (s.asOfLaunch l) none x.statusVa 8 .store with
    | (s, .ok pl) => match s.placeBlocked pl with
      | some b => .error (some b)
      | none => .ok (s.performPlace pl (leBytes 8 x.statusWord))
    | (s, .trap i) => .ok (s.launchRec l i)
    | (_, .wait _) => .error none

/-- The done object is advanced by inc with a release that covers every write of the launch (R367). -/
def State.putDone (s : State) (l : Nat) : Tried State :=
  let x := s.launch l
  if x.done = 0 then .ok s
  else
    let s := s.flushWhere fun _ => true
    match s.posted.findSome? fun w => s.demandBlocked w.pa w.bytes.length with
    | some b => .error (some b)
    | none =>
      match s.boAdvance none (s.asOfLaunch l) x.done x.inc with
      | (s, .ok ()) => .ok s
      | (s, .trap i) => .ok (s.launchRec l i)
      | (_, .wait (.writeBack w k)) => .error (some (w, k))
      | (_, .wait _) => .error none

/-- A launch enters a state, with its status word. -/
def State.enter (s : State) (l : Nat) (f : Launch → Launch) : Tried State := (s.updLaunch l f).putStatus l

/-- A launch ends in a state: its leases are released, the status word is written, done is advanced (R366, R367). -/
def State.endLaunch (s : State) (l : Nat) (state code : Nat) : Tried State :=
  let p := (s.launch l).part
  let s := s.updPart p fun x => { x with leases := x.leases.filter fun e => e.launch != some l }
  (s.enter l fun x => { x with state := state, code := code }).bind fun s => s.putDone l

/-! ### The checks of R366 -/

/-- Ranges of a lease list: base and length. -/
def leaseRanges (n : Nat) (bs : List Byte) : List (Nat × Nat) :=
  (List.range n).map fun i => (leNat ((bs.drop (16 * i)).take 8), leNat ((bs.drop (16 * i + 8)).take 8))

/-- The lease list of a launch; none where its read fails. -/
def State.leaseList (s : State) (l : Nat) : State × Option (List (Nat × Nat)) :=
  let x := s.launch l
  if x.nlease = 0 then (s, some [])
  else match s.resolveRange (s.asOfLaunch l) none x.leases (16 * x.nlease) .load with
    | (s, .ok ps) =>
      let s := s.demandAll ps
      (s, some (leaseRanges x.nlease (s.fetchAll none ps)))
    | (s, _) => (s, none)

/-- A range that breaks check 0x07. -/
def leaseBad (e : Nat × Nat) : Bool := e.1 % 4096 != 0 || e.2 % 4096 != 0 || e.2 == 0

/-- The checks of R366 in order, each with its code; `list` is the lease list where it could be read. -/
def Launch.checks (l : Launch) (p : Part) (sup : Bool) (list : Option (List (Nat × Nat))) : List (Nat × Bool) :=
  [(1, l.reservedOk),
   (2, l.done.toNat % 8 == 0 && l.statusVa.toNat % 8 == 0 && l.dep0.toNat % 8 == 0 && l.dep1.toNat % 8 == 0 && l.leases.toNat % 16 == 0),
   (3, l.w % 2 ^ l.ta == 0 && l.h % 2 ^ l.tb == 0 && l.w ≤ 2 ^ p.pa && l.h ≤ 2 ^ p.pb),
   (4, !l.steal || (l.ta == 0 && l.tb == 0 && l.sa ≤ 5 && l.sb ≤ 4 && l.sa ≤ p.pa && l.sb ≤ p.pb)),
   (5, 8 ≤ l.pb1 && l.pb1 < l.pb2 && l.pb2 < l.pb3 && l.pb3 ≤ 752),
   (6, l.ncrew * 32 * l.regcnt * 4 ≤ l.pb1 * 4096 && l.stash4k ≤ l.pb2 - l.pb1),
   (7, l.nlease ≤ 16 && (match list with | some es => es.all fun e => !leaseBad e | none => true)),
   (8, !l.sup || sup),
   (9, !l.org || (l.rox % 2 ^ l.ta == 0 && l.roy % 2 ^ l.tb == 0 && l.fitsAt p l.rox l.roy))]

/-- A record whose org, ox and oy are locked is taken with those fields 0 (R4, R366, R375). -/
def maskOrigin (raw : BitVec 1024) : BitVec 1024 := raw &&& ~~~(BitVec.ofNat 1024 (1023 * 2 ^ 239))

/-- The record of slot cons of a queue is copied, cons advances, and the launch gets its number (R364, R365). -/
def State.takeRecord (s : State) (part q : Nat) : State :=
  let x := s.part part
  let lq := x.lqs.get q
  let i := s.readQ (lq.base.toNat + 8)
  let s := s.demandRange (lq.slot i) 128
  let raw := BitVec.ofNat 1024 (leNat (s.viewBytes none (lq.slot i) 128))
  let raw := if x.schedXlock && !lq.sup then maskOrigin raw else raw
  let s := s.writeQ (lq.base.toNat + 8) (i + 1)
  let l : Launch := { raw := raw, part := part, queue := q, lnum := x.lnext.toNat, ctx := lq.ctx }
  { s.updPart part fun y => { y with lnext := y.lnext + 1 } with launches := s.launches ++ [l] }

/-- The launch unit observes a record it may take (R364, R368). -/
def State.recordReady (s : State) (part q : Nat) : Bool :=
  let lq := (s.part part).lqs.get q
  q < 64 && lq.en && s.readQ (lq.base.toNat + 8) < s.readQ lq.base.toNat && s.launchCount < 1024 &&
    (s.demandBlocked (lq.base.toNat + 8) 8).isNone

/-- LAUNCH_RECORD_TAKE (R364 to R368): the record is checked; it enters state 1, or is rejected. -/
def execLaunchRecordTake (part q : Nat) (s : State) : Host.Outcome State Fault Refusal :=
  let s := (if q < 64 && ((s.part part).lqs.get q).en then s.demandRange ((s.part part).lqs.get q).base.toNat 24 else s).publishWaiting part
  if !s.recordReady part q then .next s
  else
    let s' := s.takeRecord part q
    let l := s.launches.length
    let (s', list) := s'.leaseList l
    match firstBad ((s'.launch l).checks (s'.part part) ((s'.part part).lqs.get q).sup list) with
    | some code => .next (s.orAsk (s'.endLaunch l 4 code))
    | none => .next (s.orAsk (s'.enter l fun x => { x with state := 1 }))

/-! ### Dependences and leases (R368) -/

/-- A dependence object holds a value at or above its target; one that does not translate is unmet. -/
def State.depMet (s : State) (l : Nat) (dep tgt : DWord) : State × Bool :=
  if dep = 0 then (s, true)
  else match s.check (s.asOfLaunch l) none dep 8 .load with
    | (s, .ok pl) =>
      let s := s.demandPlace pl
      (s, tgt.toNat ≤ leNat (s.fetchPlace none pl))
    | (s, _) => (s, false)

/-- Both dependences of a launch are met. -/
def State.depsMet (s : State) (l : Nat) : State × Bool :=
  let x := s.launch l
  match s.depMet l x.dep0 x.tgt0 with
  | (s, true) => s.depMet l x.dep1 x.tgt1
  | (s, false) => (s, false)

/-- An earlier launch of the same queue still waits in state 1 (R368); restored launches queue by context. -/
def State.heldBack (s : State) (l : Nat) : Bool :=
  let x := s.launch l
  (s.launches.take l).any fun y => y.part == x.part && y.queue == x.queue && y.state == 1 && (x.queue != 64 || y.ctx == x.ctx)

/-- The entry number that a LEASE_WAIT record gives: the lowest free one, else an open value (R396; log 22). -/
def State.leaseId (s : State) (p : Nat) : Nat :=
  let used := (s.part p).leases.map (·.id)
  ((List.range 256).find? fun i => !used.contains i).getD (Config.freeByte s.free 0).toNat

/-- A LEASE_WAIT record for a range (R388, R396). -/
def State.leaseAsk (s : State) (l i : Nat) (e : Nat × Nat) : State :=
  let x := s.launch l
  if x.asked.contains i then s
  else
    let r : SvcRec := { id := s.leaseId x.part, cause := 2, write := false, pkg := s.links.pkg.toNat, ctx := x.ctx,
                        va := BitVec.ofNat 64 e.1, len := BitVec.ofNat 64 e.2, cyc := s.cyc }
    let s := (s.updPart x.part fun y => { y with svc := y.svc ++ [r] }).updLaunch l fun y => { y with asked := y.asked ++ [i] }
    { s with free := s.free + 1 }

/-- The leases of a launch's ranges not yet held are tried in turn (R368, R388). -/
def State.takeLeases (s : State) (l : Nat) (es : List (Nat × Nat)) : State :=
  (es.zip (List.range es.length)).foldl (fun (s : State) (e, i) =>
    let x := s.launch l
    if x.leased.contains i then s
    else match s.grantLease x.part (some l) x.ctx x.sup (BitVec.ofNat 64 e.1) (BitVec.ofNat 64 e.2) with
      | (s, true) => s.updLaunch l fun y => { y with leased := y.leased ++ [i] }
      | (s, false) => s.leaseAsk l i e) s

/-- The launch waits for a lease: leasewait, and the cycle of this try. -/
def State.waitLease (s : State) (l : Nat) : Tried State :=
  let f := fun (y : Launch) => { y with leaseWait := true, lastTry := max 1 s.cyc.toNat }
  if (s.launch l).leaseWait then .ok (s.updLaunch l f) else s.enter l f

/-- A launch whose dependences are met takes its leases and leaves state 1, waits, or is rejected (R366, R368). -/
def State.tryLeave (s : State) (l : Nat) : Tried State :=
  match s.leaseList l with
  | (s, none) => s.waitLease l
  | (s, some es) =>
    if es.any leaseBad then s.endLaunch l 4 7
    else
      let s := s.takeLeases l es
      if (s.launch l).leased.length < es.length then s.waitLease l
      else s.enter l fun y => { y with state := 2, leftAt := s.cyc.toNat }

/-- A launch in state 1 that may leave it now. -/
def State.mayLeave (s : State) (l : Nat) : Bool :=
  l < s.launches.length && (s.launch l).state == 1 && !(s.launch l).ended && !s.heldBack l

/-- DEPENDENCE_RETEST (R368). -/
def execDependenceRetest (launch : Nat) (s : State) : Host.Outcome State Fault Refusal :=
  if s.mayLeave launch && !(s.launch launch).leaseWait then
    match s.depsMet launch with
    | (s, false) => .next s
    | (s, true) => .next (s.orAsk (s.tryLeave launch))
  else .next s

/-- LEASE_RETRY (R366, R368): after a LEASE, or 2^20 cycles. -/
def execLeaseRetry (launch : Nat) (s : State) : Host.Outcome State Fault Refusal :=
  let x := s.launch launch
  if s.mayLeave launch && x.leaseWait && (x.lastTry = 0 || Config.longWait ≤ s.cyc.toNat - x.lastTry) then
    match s.depsMet launch with
    | (s, false) => .next s
    | (s, true) => .next (s.orAsk (s.tryLeave launch))
  else .next s

/-! ### Completion (R367) -/

/-- A kill or exit of a workgroup is over: of a killed one, its started operations, passes and basin commands (R360). -/
def State.wgOver (s : State) (w : Nat) : Bool :=
  match (s.wg w).stage with
  | .exited => true
  | .saved => true
  | .killed =>
    !(s.ops.any fun o => o.live && s.opWg o == w) && !(s.joints.any fun j => j.live && j.wg == w) &&
      !(s.cmds.any fun c => c.live && s.wgOfCrew c.crew == w)
  | _ => false

/-- Every workgroup of a launch has exited or been killed (R367). -/
def State.launchOver (s : State) (l : Nat) : Bool :=
  let x := s.launch l
  (x.ended || (x.state == 2 && x.total ≤ x.dist && x.returned.isEmpty)) &&
    (List.range s.wgs.length).all fun w => (s.wg w).launch != l || s.wgOver w

/-- LAUNCH_COMPLETE (R367): state 3, or 5 after a kill; a stopped context without launches is unknown again. -/
def execLaunchComplete (launch : Nat) (s : State) : Host.Outcome State Fault Refusal :=
  let x := s.launch launch
  if launch < s.launches.length && (x.state == 1 || x.state == 2) && s.launchOver launch then
    match s.endLaunch launch (if x.killed || x.leaseFatal then 5 else 3) 0 with
    | .error b => .next (s.askBlocked b)
    | .ok s =>
      let f := fun (c : CtxRun) => if c.phase = 3 then { c with phase := 0, preempted := false } else c
      .next (if (s.ctxLaunches x.part x.ctx).isEmpty then s.updCtx x.part x.ctx f else s)
  else .next s

/-! ### Distribution (R369, R370) -/

/-- Admitted workgroups of the cores of a rectangle. -/
def State.admittedIn (s : State) (l : Launch) (x y : Nat) : Nat :=
  (l.columns.map fun c => (s.admittedAt (32 * (y + c.2) + x + c.1)).length).sum

/-- Permitted origins of a launch, lowest Y0 then lowest X0 first (R370). -/
def Launch.origins (l : Launch) (p : Part) : List (Nat × Nat) :=
  ((List.range 512).map fun i => (i % 32, i / 32)).filter fun o =>
    o.1 % 2 ^ l.ta == 0 && o.2 % 2 ^ l.tb == 0 && l.fitsAt p o.1 o.2

/-- The origin of a launch (R370). -/
def State.originOf (s : State) (l : Launch) : Nat × Nat :=
  if l.org then (l.rox, l.roy)
  else ((l.origins (s.part l.part)).foldl (fun (best : Option (Nat × Nat × Nat)) o =>
    let n := s.admittedIn l o.1 o.2
    match best with
    | some (m, _, _) => if n < m then some (n, o.1, o.2) else best
    | none => some (n, o.1, o.2)) none).elim (0, 0) (·.2)

/-- The launch has its origin. -/
def State.place (s : State) (l : Nat) : State :=
  if (s.launch l).placed then s
  else
    let o := s.originOf (s.launch l)
    s.updLaunch l fun x => { x with ox := o.1, oy := o.2, placed := true }

/-- A core admits a workgroup of a launch (R22, R48). -/
def State.admits (s : State) (l : Launch) (core : Nat) : Bool :=
  (s.admittedAt core).length < 64 && s.carveIs l core && !s.carveClosed core

/-- The next workgroup of a launch that its core admits: of the lowest wz (R369). -/
def State.nextAdmit (s : State) (l : Nat) : Option Nat :=
  ((s.nextWgs l).filter fun c => s.admits (s.launch l) ((s.launch l).coreAt c)).foldl (fun best c =>
    match best with
    | some b => if c / 512 < b / 512 then some c else best
    | none => some c) none

/-- A launch is ready to distribute (R349, R360, R361, R369). -/
def State.distributes (s : State) (l : Nat) : Bool :=
  let x := s.launch l
  l < s.launches.length && x.state == 2 && !x.ended && !(s.part x.part).halted && s.ctxPhase x.part x.ctx == 0

/-- Launch m is served before launch l (R369). -/
def State.servedBefore (s : State) (m l : Nat) : Bool :=
  let a := s.launchPrio m
  let b := s.launchPrio l
  b < a || (a == b && ((s.launch m).leftAt < (s.launch l).leftAt || ((s.launch m).leftAt == (s.launch l).leftAt && m < l)))

/-- No other launch of the partition is to be served first. -/
def State.servedNow (s : State) (l : Nat) : Bool :=
  (List.range s.launches.length).all fun m =>
    m == l || (s.launch m).part != (s.launch l).part || !s.distributes m || !s.servedBefore m l ||
      (s.launch m).placed && (s.nextAdmit m).isNone

/-- The next place in the order of admissions. -/
def State.nextAdmission (s : State) : Nat := (s.wgs.map fun g => g.order + 1).foldl max 0

/-- A workgroup is admitted to a core, which chooses its rotation (R22, R24, R369; log 6). -/
def State.admitTo (s : State) (l c : Nat) : State :=
  let x := s.launch l
  let g : Wg :=
    { launch := l, wx := nbits c 0 5, wy := nbits c 5 4, wz := nbits c 9 16, core := x.coreAt c, rot := Config.rotation s.free,
      ncrew := x.ncrew, prio := s.launchPrio l, since := s.cyc.toNat, order := s.nextAdmission }
  let s := s.updLaunch l fun y =>
    if y.returned.contains c then { y with returned := y.returned.erase c } else { y with dist := y.dist + 1 }
  let s := s.updCore g.core fun y => { y with taken := none }
  ({ s with wgs := s.wgs ++ [g], free := s.free + 1 } : State).carveTidy l g.core

/-- A launch with another carve than a core's begins to wait for it (R48). -/
def State.carveAsk (s : State) (l : Nat) : State :=
  (s.nextWgs l).foldl (fun s c =>
    let core := (s.launch l).coreAt c
    if !s.carveIs (s.launch l) core && !(s.core core).carve.any (·.1 == l) then
      s.updCore core fun x => { x with carve := x.carve ++ [(l, s.cyc.toNat)] }
    else s) s

/-- WORKGROUP_DISTRIBUTION (R21, R22, R48, R369, R370); a placed launch asks for its carves while another is served. -/
def execWorkgroupDistribution (launch : Nat) (s : State) : Host.Outcome State Fault Refusal :=
  if s.distributes launch && s.servedNow launch then
    let s := (s.place launch).carveAsk launch
    match s.nextAdmit launch with
    | some c => .next (s.admitTo launch c)
    | none => .next s
  else if s.distributes launch && (s.launch launch).placed then .next (s.carveAsk launch)
  else .next s

/-- CARVE_WAIT_EXPIRY (R48): once a workgroup has waited 2^20 cycles for another carve, an occupied core admits no more of its own. -/
def execCarveWaitExpiry (core : Nat) (s : State) : Host.Outcome State Fault Refusal :=
  let late := (s.carveWaits core).filter fun e => Config.longWait ≤ s.cyc.toNat - e.2
  if !(s.admittedAt core).isEmpty && !late.isEmpty then .next (s.updCore core fun c => { c with closed := late.map (·.1) })
  else .next s

/-- The launch for which a core has just changed its carve still has a workgroup to be admitted there. -/
def State.carveTaken (s : State) (core : Nat) : Bool :=
  match (s.core core).taken with
  | some l => s.distributes l && s.waitsAt l core
  | none => false

/-- CARVE_CHANGE (R48): an emptied core takes the carve that waits for it, of several that of the launch that asked first (log 59). -/
def execCarveChange (core : Nat) (s : State) : Host.Outcome State Fault Refusal :=
  match s.carveWaits core with
  | (l, _) :: _ =>
    if (s.admittedAt core).isEmpty && !s.carveTaken core then
      .next ((s.setCarve (s.launch l) core).updCore core fun c => { c with taken := some l })
    else .next s
  | [] => .next s

end Sys2Proof.Machine
end

