-- ==== Sys2Proof/Machine/CoreEvents.lean ====
section
/-! DEFINITION. What a core does with its admitted workgroups: activation (R22, R25, R371), parking (R39, R41, R42, R49, R372), exit (R359)
and stealing (R43, R373). -/

namespace Sys2Proof.Machine

/-! ### Activation -/

/-- A workgroup may be activated when it fits: it waits, or is parked with a condition met; its context runs and its launch has not
ended; of one launch's waiting workgroups the lowest wz (R22, R371, R372). -/
def State.wantsPlace (s : State) (w : Nat) : Bool :=
  let g := s.wg w
  let l := s.launch g.launch
  !l.ended && !(s.part l.part).halted && s.ctxPhase l.part l.ctx == 0 &&
    match g.stage with
    | .admitted => (s.admittedAt g.core).all fun v => !((s.wg v).stage == .admitted && (s.wg v).launch == g.launch && (s.wg v).wz < g.wz)
    | .parked => s.parkedReady w
    | _ => false

/-- A workgroup waits for activation: admitted, or parked with a condition met (R371, R372). -/
def State.waitsPlace (s : State) (w : Nat) : Bool := (s.wg w).stage == .admitted || ((s.wg w).stage == .parked && s.wantsPlace w)

/-- The cycle since which a workgroup waits for activation: a parked one from its first thread that became ready (R39, R372). -/
def State.waitsSince (s : State) (w : Nat) : Nat :=
  match (s.wg w).stage with
  | .parked =>
    ((s.wgThreads w).filter fun t => (s.thr t).st == .ready).foldl (fun n t => min n (max (s.wg w).since (s.thr t).readyAt)) s.cyc.toNat
  | _ => (s.wg w).since

/-- A workgroup admitted before this one blocks its activation (R371, R372). -/
def State.isBlocked (s : State) (w : Nat) : Bool :=
  (s.admittedAt (s.wg w).core).any fun v =>
    v != w && s.waitsPlace v && (s.wg v).blocks && (s.wg v).order < (s.wg w).order && !s.fits v

/-- Candidates for activation at a core: a workgroup for which another was parked comes alone (R41, R371). -/
def State.candidates (s : State) (core : Nat) : List Nat :=
  let ws := (s.admittedAt core).filter s.wantsPlace
  match ws.filter fun w => (s.wg w).forced with
  | [] => ws.filter fun w => !s.isBlocked w
  | fs => fs

/-- Of two candidates, the one with the higher %prio, then the earlier admitted (R371). -/
def State.betterOf (s : State) (best : Option Nat) (w : Nat) : Option Nat :=
  match best with
  | none => some w
  | some b =>
    if (s.wg b).prio < (s.wg w).prio || ((s.wg b).prio == (s.wg w).prio && (s.wg w).order < (s.wg b).order) then some w else some b

/-- The workgroup that a core activates next. -/
def State.nextActive (s : State) (core : Nat) : Option Nat := ((s.candidates core).filter s.fits).foldl s.betterOf none

/-- The threads of a crew at first activation (R25). -/
def newThread (crew num : Nat) (pc : DWord) (now : Nat) : Thread :=
  { crew := crew, num := num, r := { pc := pc, npc := pc }, lastIssue := now, readyAt := now, entry := true }

/-- The first activation of a workgroup: its crews and threads, its stash zero and without entries (R25, R50, R152). -/
def State.start (s : State) (w : Nat) : State :=
  let g := s.wg w
  let l := s.launch g.launch
  let b := s.crews.length
  let t := s.threads.length
  let s : State :=
    { s with
      crews := s.crews ++ (List.range g.ncrew).map fun j => { wg := w, num := j, base := t + 32 * j, s := Store.set [] 0 l.args },
      threads := s.threads ++ (List.range (32 * g.ncrew)).map fun i => newThread (b + i / 32) (i % 32) l.entry s.cyc.toNat }
  s.updWg w fun x => { x with base := b, started := true }

/-- A workgroup becomes active: its stash is placed, its ready threads may issue from now on (R22, R42, R49). -/
def State.activate (s : State) (w : Nat) : State :=
  let place := (s.stashPlace w).getD 0
  let s := if (s.wg w).started then s else s.start w
  let s := s.updWg w fun g =>
    { g with stage := .active, since := s.cyc.toNat, sbase := place, splaced := true, forced := false, blocks := false }
  (s.wgThreads w).foldl (fun s t => s.updThr t fun x => { x with readyAt := s.cyc.toNat }) s

/-- WORKGROUP_ACTIVATION (R22, R24, R25, R42, R371). -/
def execWorkgroupActivation (core : Nat) (s : State) : Host.Outcome State Fault Refusal :=
  match s.nextActive core with
  | some w => .next (s.activate w)
  | none => .next s

/-- ACTIVATION_BLOCK (R371, R372): a workgroup has waited 65,536 cycles without fitting. -/
def execActivationBlock (wg : Nat) (s : State) : Host.Outcome State Fault Refusal :=
  if wg < s.wgs.length && s.waitsPlace wg && Config.fitWait ≤ s.cyc.toNat - s.waitsSince wg && !s.fits wg then
    .next (s.updWg wg fun x => { x with blocks := true })
  else .next s

/-! ### Parking -/

/-- Of some workgroups the one with the least value, the lowest index first. -/
def leastBy (f : Nat → Nat) (ws : List Nat) : Option Nat :=
  ws.foldl (fun best w => match best with | some b => if f w < f b then some w else best | none => some w) none

/-- A workgroup's stash is moved out: lines written back and released once its operations have left the stash (R42, R54); false
while it cannot be. -/
def State.moveOut (s : State) (w : Nat) : State × Bool :=
  if s.stashBusy w [(0, s.stashSize w)] then (s, false)
  else match s.releaseLines w (s.wg w).filled with
    | (s, false) => (s, false)
    | (s, true) => (s.updWg w fun g => { g with splaced := false }, true)

/-- A workgroup is parked: the place, the register area and the thread slots are free (R42). -/
def State.parkWg (s : State) (w : Nat) : State :=
  s.updWg w fun g => { g with stage := .parked, since := s.cyc.toNat, stopping := false }

/-- Parked workgroups of a core whose stashes stand in place (R49). -/
def State.parkedInPlace (s : State) (core : Nat) : List Nat :=
  (s.admittedAt core).filter fun v => (s.wg v).stage == .parked && (s.wg v).splaced && 0 < s.stashSize v

/-- Active workgroups of a core that are eligible to park (R39). -/
def State.eligibleAt (s : State) (core : Nat) : List Nat := (s.activeAt' core).filter s.eligibleToPark

/-- The parked workgroup whose stash is moved out next: of those whose stash stands in place the one parked longest, while a workgroup that
waits finds no run of stash area (R49). -/
def State.nextMoved (s : State) (core : Nat) : Option Nat :=
  if (s.admittedAt core).any fun w => s.wantsPlace w && (s.stashPlace w).isNone then
    leastBy (fun v => (s.wg v).since) (s.parkedInPlace core)
  else none

/-- The first of R49's two stages still stands before a workgroup: it finds no run of stash area while the stash of a parked workgroup is
left in place. A workgroup that lacks something else does not wait for that stage. -/
def State.beforeMoves (s : State) (core w : Nat) : Bool := (s.stashPlace w).isNone && (s.nextMoved core).isSome

/-- The eligible workgroup blocked longest is parked where some workgroup does not fit (R39). -/
def State.parkEligible (s : State) (core : Nat) : State :=
  if (s.candidates core).any fun w => !s.fits w && !s.beforeMoves core w then
    match leastBy s.blockedSince (s.eligibleAt core) with
    | some v => s.parkWg v
    | none => s
  else s

/-- WORKGROUP_PARK (R39, R42, R49, R372): where a workgroup that waits finds no run of stash area, first the stashes of parked workgroups are
moved out; then the eligible workgroup blocked longest is parked for one that does not fit, even while a stash cannot be moved out, unless it
is the stash area that it lacks. -/
def execWorkgroupPark (core : Nat) (s : State) : Host.Outcome State Fault Refusal :=
  match s.nextMoved core with
  | none => .next (s.parkEligible core)
  | some v =>
    match s.moveOut v with
    | (s, true) => .next s
    | (s, false) => .next (s.parkEligible core)

/-- Resources that an active workgroup holds would make room for a waiting one once freed, the stashes of parked workgroups moved out (R41,
R49). -/
def State.makesRoom (s : State) (w v : Nat) : Bool :=
  let core := (s.wg w).core
  let size := s.stashSize w
  s.roomFor w ((s.activeAt' core).filter (· != v)) &&
    ((s.stashPlace w).isSome || (freeRun (s.core core).stashArea size
      (((s.activeAt' core).filter fun x => x != w && x != v && (s.wg x).splaced).map fun x => ((s.wg x).sbase, s.stashSize x))).isSome)

/-- The victim of a forced parking: of another launch, active longest, with no matrix operation that holds its registers (R41). -/
def State.victimFor (s : State) (w : Nat) : Option Nat :=
  leastBy (fun v => (s.wg v).since) ((s.activeAt' (s.wg w).core).filter fun v =>
    (s.wg v).stage == .active && (s.wg v).launch != (s.wg w).launch && s.makesRoom w v)

/-- Posted joint operations of a workgroup still hold registers (R279). -/
def State.regsHeld (s : State) (w : Nat) : Bool := s.joints.any fun j => j.live && j.posted.isSome && j.wg == w

/-- The workgroup for which a core would park by force: it has waited 2^20 cycles, and as long since the last test; one that finds no run of
stash area waits until the stashes of parked workgroups are moved out (R41, R49, R372). -/
def State.forceFor (s : State) (core : Nat) : Option Nat :=
  (s.admittedAt core).find? fun w =>
    s.wantsPlace w && !(s.wg w).forced && Config.longWait ≤ s.cyc.toNat - max (s.waitsSince w) (s.wg w).tested && !s.fits w &&
      !s.beforeMoves core w

/-- The threads of a core's victim, if any, stop at their instruction boundaries, those of any other active workgroup go on (R41). -/
def State.stopOnly (s : State) (core : Nat) (victim : Option Nat) : State :=
  (s.activeAt' core).foldl (fun s x =>
    if (s.wg x).stopping == (victim == some x) then s else s.updWg x fun g => { g with stopping := victim == some x }) s

/-- FORCED_PARK (R41, R49): the victim stops and is parked, after the passes that hold its registers have read them, its stash moved out where
the lack is of stash area. -/
def execForcedPark (core : Nat) (s : State) : Host.Outcome State Fault Refusal :=
  match s.forceFor core with
  | none => .next (s.stopOnly core none)
  | some w =>
    if !(s.eligibleAt core).isEmpty then .next (s.stopOnly core none)
    else match s.victimFor w with
      | none => .next ((s.stopOnly core none).updWg w fun g => { g with tested := s.cyc.toNat })
      | some v =>
        if s.regsHeld v then .next (s.stopOnly core (some v))
        else match if (s.stashPlace w).isSome then (s, true) else s.moveOut v with
          | (s, false) => .next (s.stopOnly core (some v))
          | (s, true) => .next (((s.stopOnly core none).parkWg v).updWg w fun g => { g with forced := true })

/-! ### Exit (R359) -/

/-- An operation of the workgroup that reads or writes its stash or tarn is outstanding (R359, step 1). -/
def State.exitWaits (s : State) (w : Nat) : Bool :=
  (s.ops.any fun o => o.live && s.opWg o == w && (o.engine == 4 || !o.stashRanges.isEmpty)) ||
    s.joints.any fun j => j.live && j.wg == w

/-- Steps 3 and 4 of R359: tarn, map entries, tables, trap slots, register area and stash are freed. -/
def State.freeWg (s : State) (w : Nat) : State :=
  let g := s.wg w
  let s := if (s.wgAllocs w).isEmpty then s else s.updLaunch g.launch fun l => { l with tarnLeak := true }
  let s := (s.freeTarn g.core w).dropSlots g.core (wgSlot w)
  s.updWg w fun x => { x with stage := .exited, maps := [], lines := [], stash := [], wbHold := false }

/-- WORKGROUP_EXIT (R53, R359): the last thread has exited. -/
def execWorkgroupExit (wg : Nat) (s : State) : Host.Outcome State Fault Refusal :=
  let g := s.wg wg
  if wg < s.wgs.length && g.started && (g.stage == .active || g.stage == .parked) && (s.wgThreads wg).all s.hasExited && !s.exitWaits wg &&
      s.ctxPhase (s.asOfWg wg).part (s.asOfWg wg).ctx != 4 then
    match s.releaseLines wg g.filled with
    | (s, false) => .next s
    | (s, true) => .next ((s.freeWg wg).tryTilebar wg)
  else .next s

/-! ### Stealing -/

/-- Unstarted workgroups of a launch admitted at a core. -/
def State.unstartedAt (s : State) (l core : Nat) : List Nat :=
  (s.unstartedWgs l).filter fun w => (s.wg w).core == core

/-- A core lies in a launch's rectangle. -/
def Launch.covers (l : Launch) (core : Nat) : Bool :=
  l.ox ≤ coreX core && coreX core < l.ox + l.w && l.oy ≤ coreY core && coreY core < l.oy + l.h

/-- Two cores lie in the same steal tile of a launch. -/
def Launch.stealMates (l : Launch) (a b : Nat) : Bool :=
  coreX a / 2 ^ l.sa == coreX b / 2 ^ l.sa && coreY a / 2 ^ l.sb == coreY b / 2 ^ l.sb

/-- An idle core (R43). -/
def State.idleCore (s : State) (core : Nat) : Bool :=
  core < 512 && ((s.admittedAt core).all fun w => (s.wg w).started) && (s.activeAt' core).length < 16

/-- WORKGROUP_STEAL (R24, R43, R373). -/
def execWorkgroupSteal (wg core : Nat) (s : State) : Host.Outcome State Fault Refusal :=
  let g := s.wg wg
  let l := s.launch g.launch
  let mates := (List.range 512).filter fun c => c != core && l.covers c && l.stealMates c core
  if wg < s.wgs.length && g.stage == .admitted && !g.started && l.steal && s.distributes g.launch && s.idleCore core && l.covers core &&
      g.core != core && l.stealMates g.core core && s.admits l core &&
      (s.unstartedAt g.launch g.core).all (fun w => (s.wg w).wz ≤ g.wz) &&
      mates.all (fun c => (s.unstartedAt g.launch c).length ≤ (s.unstartedAt g.launch g.core).length) then
    let s := s.updWg wg fun x => { x with core := core, rot := Config.rotation s.free, order := s.nextAdmission, since := s.cyc.toNat }
    .next { s with free := s.free + 1 }
  else .next s

end Sys2Proof.Machine
end

