-- ==== Sys2Proof/Machine/FloatExec.lean ====
section
/-! DEFINITION. Class 3 and CVT (R218 to R225). -/

namespace Sys2Proof.Machine

/-- Core-only instructions that break no chain and raise no trap of their own (R187). -/
def aFloat : Attr := {}

/-- The shapes of R218: FP32 results from one, two or three v operands. -/
def issF1 (h : Hdr) (a : Src) (s : State) (f : Bool → Nat → FR) : Host.Outcome State Fault Refusal :=
  s.issueI ⟨aFloat, h, [.v a], .v h.d⟩ fun s r => fres s (f s.ftz (r.rv a).toNat)
def issF2 (h : Hdr) (a b : Src) (s : State) (f : Bool → Nat → Nat → FR) : Host.Outcome State Fault Refusal :=
  s.issueI ⟨aFloat, h, [.v a, .v b], .v h.d⟩ fun s r => fres s (f s.ftz (r.rv a).toNat (r.rv b).toNat)
def issF3 (h : Hdr) (a b : Src) (c : Opd) (s : State) (f : Bool → Nat → Nat → Regs → FR) : Host.Outcome State Fault Refusal :=
  s.issueI ⟨aFloat, h, [.v a, .v b, c], .v h.d⟩ fun s r => fres s (f s.ftz (r.rv a).toNat (r.rv b).toNat r)

/-- Two packed elements, each computed alone; both flags are set (R223). -/
def packed (f : Nat → Nat → Nat → FR) (a b c : Nat) : FR :=
  let x := f (a % 65536) (b % 65536) (c % 65536)
  let y := f (a / 65536) (b / 65536) (c / 65536)
  ⟨x.pat + 65536 * y.pat, x.fl ||| y.fl⟩

/-- The format of packed elements (R218). -/
def half (isF16 : Bool) : Fmt := if isF16 then f16 else bf16

/-- FADD (R219). -/
def execFadd (h : Hdr) (a b : Src) (rm : Rnd) (s : State) := issF2 h a b s (f32.add rm)
/-- FSUB (R219). -/
def execFsub (h : Hdr) (a b : Src) (rm : Rnd) (s : State) := issF2 h a b s (f32.sub rm)
/-- FMUL (R219). -/
def execFmul (h : Hdr) (a b : Src) (rm : Rnd) (s : State) := issF2 h a b s (f32.mul rm)
/-- FFMA (R218, R219). -/
def execFfma (h : Hdr) (a b c : Src) (s : State) :=
  issF3 h a b (.v c) s fun ftz a b r => fused f32 f32 .rne ftz [(a, b)] (r.rv c).toNat
/-- FMIN (R220). -/
def execFmin (h : Hdr) (a b : Src) (nanp : Bool) (s : State) := issF2 h a b s (f32.minmax false nanp)
/-- FMAX (R220). -/
def execFmax (h : Hdr) (a b : Src) (nanp : Bool) (s : State) := issF2 h a b s (f32.minmax true nanp)
/-- FABS (R220). -/
def execFabs (h : Hdr) (a : Src) (s : State) := issF1 h a s fun ftz a => ⟨f32.abs ftz a, 0⟩
/-- FNEG (R220). -/
def execFneg (h : Hdr) (a : Src) (s : State) := issF1 h a s fun ftz a => ⟨f32.negate ftz a, 0⟩
/-- FRCP (R222). -/
def execFrcp (h : Hdr) (a : Src) (_ : Rnd) (s : State) := issF1 h a s f32.rcp
/-- FRSQ (R222). -/
def execFrsq (h : Hdr) (a : Src) (_ : Rnd) (s : State) := issF1 h a s f32.rsq
/-- FSQRT (R219). -/
def execFsqrt (h : Hdr) (a : Src) (rm : Rnd) (s : State) := issF1 h a s (f32.sqrt rm)
/-- FDIV (R219). -/
def execFdiv (h : Hdr) (a b : Src) (rm : Rnd) (s : State) := issF2 h a b s (f32.div rm)
/-- FEXP2 (R222, log 5). -/
def execFexp2 (h : Hdr) (a : Src) (_ : Rnd) (s : State) := issF1 h a s fun ftz a => exp2Op ftz (BitVec.ofNat 32 a)
/-- FLOG2 (R222, log 5). -/
def execFlog2 (h : Hdr) (a : Src) (_ : Rnd) (s : State) := issF1 h a s fun ftz a => log2Op ftz (BitVec.ofNat 32 a)
/-- FCLASS (R220). -/
def execFclass (h : Hdr) (a : Src) (s : State) := issF1 h a s fun ftz a => ⟨f32.class ftz a, 0⟩
/-- HADD2 (R223). -/
def execHadd2 (h : Hdr) (a b : Src) (f16 : Bool) (rm : Rnd) (s : State) :=
  issF2 h a b s fun ftz a b => packed (fun x y _ => (half f16).add rm ftz x y) a b 0
/-- HMUL2 (R223). -/
def execHmul2 (h : Hdr) (a b : Src) (f16 : Bool) (rm : Rnd) (s : State) :=
  issF2 h a b s fun ftz a b => packed (fun x y _ => (half f16).mul rm ftz x y) a b 0
/-- HFMA2 (R223): the addend is vd before the instruction. -/
def execHfma2 (h : Hdr) (a b : Src) (f16 : Bool) (rm : Rnd) (s : State) :=
  issF3 h a b (.reg h.d.toNat 1) s fun ftz a b r =>
    packed (fun x y z => fused (half f16) (half f16) rm ftz [(x, y)] z) a b (r.v.get h.d.toNat).toNat
/-- HMINMAX2 (R220, R223). -/
def execHminmax2 (h : Hdr) (a b : Src) (f16 max nanp : Bool) (s : State) :=
  issF2 h a b s fun ftz a b => packed (fun x y _ => (half f16).minmax max nanp ftz x y) a b 0
/-- FDOT2 (R223): both products and vd, rounded once to FP32. -/
def execFdot2 (h : Hdr) (a b : Src) (f16 : Bool) (rm : Rnd) (s : State) :=
  issF3 h a b (.reg h.d.toNat 1) s fun ftz a b r =>
    fused f32 (half f16) rm ftz [(a % 65536, b % 65536), (a / 65536, b / 65536)] (r.v.get h.d.toNat).toNat
/-- FCMP (R221). -/
def execFcmp (h : Hdr) (a b : Src) (cond : FCond) (comb : Comb) (s : State) :=
  s.issueI ⟨aFloat, h, [.v a, .v b], .p h.d⟩ fun s r =>
    let c := f32.cmp s.ftz cond (r.rv a).toNat (r.rv b).toNat
    let x := match comb with | .none => c.1 | .and q => c.1 && r.pred q | .or q => c.1 || r.pred q
    .p (s.setFlags c.2) x
/-- CVT (R224, R225). -/
def execCvt (h : Hdr) (a : Src) (src dst : CvtFmt) (rm : Rnd) (sat : Bool) (s : State) :=
  s.issueI ⟨aFloat, h, [if src == .s64 then .x a else .v a], if dst == .s64 then .x h.d else .v h.d⟩ fun s r =>
    let x := cvtOp s.ftz src dst rm sat (if src == .s64 then r.rx a else zext64 (r.rv a))
    if dst == .s64 then .x (s.setFlags x.2) x.1 else .v (s.setFlags x.2) (x.1.setWidth 32)

end Sys2Proof.Machine
end

