-- ==== Sys2Proof/Machine/LinkEvents.lean ====
section
/-! DEFINITION. The Rein links' receiving side, key renewal and retraining (R408 to R412), the host port (R415 to R417), and the spring
ports (R418 to R423). -/

namespace Sys2Proof.Machine

/-- A change of one Rein link, after which packets that wait may be sent. -/
def State.updRein (s : State) (i : Nat) (f : ReinLink → ReinLink) : State :=
  { s with links := ({ s.links with rein := s.links.rein.upd i f } : Links).pumpFlits s.cyc.toNat }

/-- A link of the package that is enabled and carries traffic (R408, R423). -/
def State.reinUp (s : State) (i : Nat) : Bool :=
  i < 18 && s.links.carries i && !(s.links.rein.get i).trying

/-- A flit's bank is one that the receiver takes and has a key for (R410, R411). -/
def ReinLink.takesBank (l : ReinLink) (kg : Bool) : Bool := (kg == l.rxKg || l.rxNew) && (l.keys.getD (2 + kg.toNat) none).isSome

/-- A flit verifies: its tag is right, under a bank in force, with a counter that no accepted flit has used (R408, R410, R411). -/
def ReinLink.verifies (l : ReinLink) (f : Flit) : Bool := f.tagOk && l.takesBank f.kg && l.rxCtr.getD f.kg.toNat 0 ≤ f.ctr

/-- The packets that end in an accepted flit, decoded in order against the receiver's table, which the flit's updates change (R409). -/
def decodeHeaders : Store (List Nat) → List FlitPacket → List (List Nat × FabMsg) × Store (List Nat)
  | t, [] => ([], t)
  | t, p :: r =>
    let x := decodeHeaders (formUpdate t p.hdr) r
    (if p.more then x.1 else (formFields t p.hdr, p.msg) :: x.1, x.2)

/-- The receiver asks for the flits from the expected one on (R408; log 23). -/
def ReinLink.ask (l : ReinLink) : ReinLink :=
  { l with asked := true, retries := satInc l.retries, wire := l.wire ++ [.retry l.rxSeq] }

/-- The receiver after an accepted flit: the first under the new bank ends the old one (R408 to R411). -/
def ReinLink.accept (l : ReinLink) (kg : Bool) (ctr : Nat) (t : Store (List Nat)) : ReinLink :=
  { l with
    headers := t, rxCtr := l.rxCtr.set kg.toNat (ctr + 1), rxSeq := l.rxSeq + 1, fails := 0, asked := false, rxKg := kg, rxNew := l.rxNew && kg == l.rxKg,
    keys := if kg == l.rxKg then l.keys else l.keys.set (2 + l.rxKg.toNat) none }

/-- FLIT_RECEIVED (R408 to R411): accepted when it is the next one and its tag verifies under a bank in force: its packets for this
package arrive. Else it is discarded, with every later flit, and a retry requested from the expected one, once for each time it is sent. A tag that
does not verify counts in REIN_STAT.auth (R411); the expected flit that fails four sends in a row makes the link retrain. -/
def execFlitReceived (link : Nat) (f : Flit) (s : State) : Host.Outcome State Fault Refusal :=
  let l := s.links.rein.get link
  if !s.reinUp link then .next s
  else if !l.verifies f then
    .next (s.updRein link fun l =>
      let l := { l with auth := satInc l.auth }
      if f.seq == l.rxSeq then { l.ask with fails := l.fails + 1, trying := 4 ≤ l.fails + 1 } else if l.asked then l else l.ask)
  else if f.seq != l.rxSeq then .next (if l.asked then s else s.updRein link ReinLink.ask)
  else
    let x := decodeHeaders l.headers f.payload
    let mine := (x.1.filter fun p => p.1[1]? == some s.links.pkg.toNat).map (·.2)
    let s := s.updRein link fun l => l.accept f.kg f.ctr x.2
    .next { s with fabric := s.fabric ++ mine, links := s.links.acked link f.ack s.cyc.toNat }

/-- RETRY_REQUEST (R408): the peer asks for the stored flits from one on; they are sent again as first sent. Four failed sends in a row of
one flit make the link retrain. -/
def execRetryRequest (link : Nat) (seq : BitVec 12) (s : State) : Host.Outcome State Fault Refusal :=
  let l := s.links.rein.get link
  match l.buffer.findIdx? (·.seq == seq) with
  | some k =>
    if s.reinUp link then
      let n := if l.txLast == seq then l.txFails + 1 else 1
      .next (s.updRein link fun l =>
        { l with
          retries := satInc l.retries, txLast := seq, txFails := n, trying := 4 ≤ n,
          wire := if 4 ≤ n then l.wire else l.wire ++ ((l.buffer.drop k).filter fun f => !f.stale).map .flit })
    else .next s
  | none => .next s

/-- REIN_LINK_RETRAIN (R408, R409): it clears the header tables, and the stored flits are sent with whole headers; the third that fails in a
row takes the link down. -/
def execReinLinkRetrain (link : Nat) (ok : Bool) (s : State) : Host.Outcome State Fault Refusal :=
  let l := s.links.rein.get link
  if link < 18 && l.trying && !l.down then
    .next (s.updRein link fun l =>
      let l := { l with retrains := satInc l.retrains }
      if ok then ({ l with trying := false, fails := 0, txFails := 0, badTrains := 0, asked := false } : ReinLink).rewrite link
      else { l with badTrains := l.badTrains + 1, down := 3 ≤ l.badTrains + 1 })
  else .next s

/-- A renewal can begin: the link has its SPDM session, and the inactive banks are free at both directions (R411). -/
def ReinLink.renewable (l : ReinLink) : Bool := l.session && !l.rxNew && l.buffer.all fun f => f.stale || f.kg == l.txKg

/-- KEY_UPDATE (R411): the next keys stand in the inactive banks; new flits use the new bank, whose counter starts at 0 (R410), and the
receiver takes either until the first flit under the new one. -/
def execKeyUpdate (link : Nat) (s : State) : Host.Outcome State Fault Refusal :=
  let l := s.links.rein.get link
  if link < 18 && l.renewable then
    let s' := s.updRein link fun l =>
      let new := !l.txKg
      ({ l with
        keys := (l.keys.set new.toNat (some s.free)).set (2 + (!l.rxKg).toNat) (some s.free),
        txKg := new, txCtr := l.txCtr.set new.toNat 0, rxCtr := l.rxCtr.set (!l.rxKg).toNat 0, rxNew := true, wantRekey := false,
        stopped := false } : ReinLink).recode link |>.retire
    .next s'.draw
  else .next s

/-- FLIT_COUNTER_REKEY (R411): a bank's counter has reached 2^47. -/
def execFlitCounterRekey (link : Nat) (s : State) : Host.Outcome State Fault Refusal :=
  .next (if link < 18 then s.updRein link ReinLink.rekeyCheck else s)

/-- FLIT_COUNTER_EXHAUSTED (R411): a counter at 2^48 − 1 stops new flits; none is discarded, and retries go on. -/
def execFlitCounterExhausted (link : Nat) (s : State) : Host.Outcome State Fault Refusal :=
  .next (if link < 18 then s.updRein link ReinLink.rekeyCheck else s)

/-- 100 µs in cycles (R412). -/
def stallTime : Nat := 125000

/-- A packet has stood at the head of its adaptive queue for 100 µs (R412). -/
def Egress.stalled (e : Egress) (now : Nat) : Bool := !e.escape && !e.sent && e.link.isSome && e.since.any fun t => t + stallTime ≤ now

/-- ESCAPE_CHANNEL_MOVE (R412): a packet that has waited 100 µs at the head of an adaptive queue moves, and with it every later one of its
pair. -/
def execEscapeChannelMove (pkt : Nat) (s : State) : Host.Outcome State Fault Refusal :=
  match s.links.egress.find? fun e => e.pkt == pkt && e.stalled s.cyc.toNat with
  | some e =>
    let s : State := { s with links := { s.links with
      egress := s.links.egress.map fun (y : Egress) => if y.dst == e.dst && pkt ≤ y.pkt && !y.sent then { y with escape := true } else y } }
    .next (s.updRein (e.link.getD 0) fun x => { x with escapes := satInc x.escapes })
  | none => .next s

/-! ### The host port -/

/-- The package address of n bytes of the window, or none beyond it (R416). -/
def State.hdmPa (s : State) (off : DWord) (n : Nat) : Option Nat :=
  let pa := s.links.hdmBase.toNat * 2 ^ 30 + off.toNat
  if off.toNat + n ≤ s.links.hdmLen.toNat * 2 ^ 30 && 0 < n && paIsPackage pa && paIsPackage (pa + n - 1) then some pa else none

/-- An answer to the host. -/
def State.answerHost (s : State) (r : HostRsp) : State := { s with links := { s.links with hostOut := s.links.hostOut ++ [r] } }

/-- CXL_MEM_READ (R406, R416). -/
def execCxlMemRead (off : DWord) (n : Nat) (s : State) : Host.Outcome State Fault Refusal :=
  if !s.links.hostUp then .next s
  else match s.hdmPa off n with
    | none => .next (s.answerHost .error)
    | some pa =>
      let s := s.demandRange pa n
      .next (s.answerHost (.data (s.viewBytes none pa n) ((run pa n).any s.isPoison)))

/-- A vector's messages may be sent: MSI-X is on and neither the function nor the vector is masked (R417). -/
def Links.msixOpen (l : Links) (vec : Nat) : Bool := l.msixOn && !l.msixMask && !(l.msixTbl.get vec).mask

/-- MSIX_SIGNAL (R417): a vector's message is sent to its table entry's address; advances made before it are one message. Of a vector that
is masked the pending bit is set. -/
def execMsixSignal (vec : Nat) (s : State) : Host.Outcome State Fault Refusal :=
  if s.links.msixPend.contains vec then
    let l := { s.links with msixPend := s.links.msixPend.filter (· != vec) }
    let e := l.msixTbl.get vec
    .next { s with links :=
      if l.msixOpen vec then { l with msixSent := l.msixSent ++ [{ vec := vec, addr := e.addr, data := e.data }] }
      else { l with msixPba := if l.msixPba.contains vec then l.msixPba else l.msixPba ++ [vec] } }
  else .next s

/-- Pending vectors that are masked no more are signalled, and their pending bits cleared (R417). -/
def Links.unmask (l : Links) : Links :=
  { l with msixPend := l.msixPend ++ l.msixPba.filter (fun v => l.msixOpen v && !l.msixPend.contains v),
           msixPba := l.msixPba.filter fun v => !l.msixOpen v }

/-- The host writes an entry of the MSI-X table (R417). -/
def State.setMsixEntry (s : State) (vec : Nat) (e : MsixEntry) : State :=
  if vec < 16 then { s with links := ({ s.links with msixTbl := s.links.msixTbl.set vec e } : Links).unmask } else s

/-- The host sets MSI-X enable and the function mask (R417). -/
def State.setMsixControl (s : State) (on mask : Bool) : State :=
  { s with links := ({ s.links with msixOn := on, msixMask := mask } : Links).unmask }

/-! ### Spring ports -/

/-- The number that n bytes of a frame give in network order. -/
def netNat (bs : List Byte) (o n : Nat) : Nat := ((bs.drop o).take n).foldl (fun a b => 256 * a + b.toNat) 0

/-- The fields of a frame that rules compare, where it has them: EtherType, IPv4 destination, UDP destination port, VLAN id (R420;
log 25). -/
structure FrameKey where
  ethertype : Nat
  ip        : Option Nat
  udp       : Option Nat
  vlan      : Option Nat
  deriving DecidableEq, Repr

def frameKey (bs : List Byte) : FrameKey :=
  let tagged := netNat bs 12 2 = 0x8100
  let e := if tagged then 16 else 12
  let et := netNat bs e 2
  let ip := e + 2
  let ihl := netNat bs ip 1 % 16 * 4
  let isIp := et = 0x0800
  let udp4 := isIp && netNat bs (ip + 9) 1 = 17 && netNat bs (ip + 6) 2 % 2 ^ 13 = 0
  let udp6 := et = 0x86DD && netNat bs (ip + 6) 1 = 17
  { ethertype := et, ip := if isIp then some (netNat bs (ip + 16) 4) else none,
    udp := if udp4 then some (netNat bs (ip + ihl + 2) 2) else if udp6 then some (netNat bs (ip + 42) 2) else none,
    vlan := if tagged then some (netNat bs 14 2 % 4096) else none }

/-- An enabled rule whose compared fields all equal the frame's (R420, R423). -/
def ruleMatches (key ctl : DWord) (k : FrameKey) : Bool :=
  ctl.getLsbD 24 && (!ctl.getLsbD 16 || k.ethertype == bits ctl 0 16) && (!ctl.getLsbD 17 || k.ip == some (bits key 0 32)) &&
  (!ctl.getLsbD 18 || k.udp == some (bits key 32 16)) && (!ctl.getLsbD 19 || k.vlan == some (bits key 48 12))

/-- The stream of a frame: the first rule that matches (R420). -/
def State.frameStream (s : State) (port : Nat) (bs : List Byte) : Option Nat :=
  ((List.range 32).find? fun r => ruleMatches (s.links.keys.get (32 * port + r)) (s.links.ctls.get (32 * port + r)) (frameKey bs)).map
    fun r => bits (s.links.ctls.get (32 * port + r)) 20 4

/-- A frame of a stream is dropped (R420, R422). -/
def SpStream.drop (x : SpStream) : SpStream := { x with drops := satInc x.drops, lost := x.lost + 1, seq := x.seq + 1 }

/-- A record's header (R421). -/
def recordHeader (sec : BitVec 48) (ns : BitVec 32) (len port stream : Nat) (x : SpStream) : List Byte :=
  bytesOf 4 ns ++ bytesOf 6 sec ++ leBytes 2 len ++ leBytes 4 (port + 2 * stream) ++ bytesOf 8 x.seq ++ bytesOf 4 x.lost ++ leBytes 4 0

/-- An 8-byte object at a physical address. -/
def State.readObj (s : State) (pa : DWord) : Nat := leNat (s.viewBytes none pa.toNat 8)

/-- A frame is placed in its stream's region or dropped (R113, R422). -/
def State.placeFrame (s : State) (i port stream : Nat) (bs : List Byte) (sec : BitVec 48) (ns : BitVec 32) : State :=
  let x := s.links.streams.get i
  let upd := fun (s : State) (f : SpStream → SpStream) => { s with links := { s.links with streams := s.links.streams.upd i f } }
  let n := 2 ^ (x.lg - 6)
  let s := if x.en && !x.err then (s.demandRange x.pbo.toNat 8).demandRange x.cbo.toNat 8 else s
  let p := s.readObj x.pbo
  let c := s.readObj x.cbo
  let u := (32 + bs.length + 63) / 64
  let wrap := if n < p % n + u then n - p % n else 0
  if !x.en || x.err then upd s SpStream.drop
  else if p < c then upd s fun x => { x.drop with err := true }
  else if n < p - c + wrap + u then upd s SpStream.drop
  else
    let s := if wrap = 0 then s else s.perform (x.base.toNat + 64 * (p % n)) (recordHeader sec ns 0 port stream x) true
    let rec_ := recordHeader sec ns bs.length port stream x ++ bs
    let s := s.perform (x.base.toNat + 64 * ((p + wrap) % n)) (rec_ ++ List.replicate (64 * u - rec_.length) 0) true
    let s := (s.perform x.pbo.toNat (leBytes 8 (min (p + wrap + u) 0xFFFFFFFFFFFFFFFF)) true).noteAdvance x.pbo.toNat
    upd s fun x => { x with seq := x.seq + 1 }

/-- A line that a frame's placing writes and that cannot be written back: the port waits with the frame (R53). One that is dropped writes
none (R422). -/
def State.frameBlocked (s : State) (i len : Nat) : Option (Nat × Nat) :=
  let x := s.links.streams.get i
  let n := 2 ^ (x.lg - 6)
  let p := s.readObj x.pbo
  let c := s.readObj x.cbo
  let u := (32 + len + 63) / 64
  let at_ := fun (k : Nat) => x.base.toNat + 64 * (k % n)
  if !x.en || x.err || p < c || n < p - c + (if n < p % n + u then n - p % n else 0) + u then none
  else if n < p % n + u then ((s.demandBlocked (at_ p) 32).orElse fun _ => s.demandBlocked (at_ 0) (64 * u)).orElse fun _ => s.demandBlocked x.pbo.toNat 8
  else (s.demandBlocked (at_ p) (64 * u)).orElse fun _ => s.demandBlocked x.pbo.toNat 8

/-- A counter of a port advances (R418, R420, R423). -/
def State.countPort (s : State) (port : Nat) (f : Port → Port) : State :=
  { s with links := { s.links with ports := s.links.ports.upd port f } }

/-! ### Writes that come in at a port -/

/-- A line that a port's write needs and that cannot be written back (R53). -/
def State.portBlocked (s : State) : PortWait → Option (Nat × Nat)
  | .store pa bytes => s.demandBlocked pa bytes.length
  | .window pa bytes _ => s.demandBlocked pa bytes.length
  | .frame i _ _ bytes _ _ => s.frameBlocked i bytes.length

/-- A port's write is performed: of the host in its memory or in the window, where poison leaves its lines poisoned, or of a frame (R119, R391,
R406, R416, R422). -/
def State.portWrite (s : State) : PortWait → State
  | .store pa bytes => s.perform pa bytes false
  | .window pa bytes poison =>
    let s := s.perform pa bytes true
    let lines := ((run pa bytes.length).map (· / 64)).dedup
    ({ s with poison := if poison then lines.foldl (fun m l => m.insert l) s.poison else s.poison } : State).answerHost .written
  | .frame i port stream bytes sec ns => s.placeFrame i port stream bytes sec ns

/-- Of two writes at the ports the later may not be performed before the earlier: the host's, or those of one stream. -/
def PortWait.behind : PortWait → PortWait → Bool
  | .frame i _ _ _ _ _, .frame j _ _ _ _ _ => i == j
  | .frame _ _ _ _ _ _, _ => false
  | _, .frame _ _ _ _ _ _ => false
  | _, _ => true

/-- A write comes in at a port: performed on arrival, or it waits, with the supervisor asked for the line (R53, R119). -/
def State.portIn (s : State) (w : PortWait) : State :=
  let later : State := { s with portWait := s.portWait ++ [w] }
  if s.portWait.any w.behind then later
  else match s.portBlocked w with
    | some b => later.askBlocked (some b)
    | none => s.portWrite w

/-- The writes that wait at the ports are tried again, in order (R53). -/
def State.portRetry (s : State) : State := s.portWait.foldl State.portIn { s with portWait := [] }

/-- CXL_MEM_WRITE (R119, R416). -/
def execCxlMemWrite (off : DWord) (bytes : List Byte) (poison : Bool) (s : State) : Host.Outcome State Fault Refusal :=
  if !s.links.hostUp then .next s
  else match s.hdmPa off bytes.length with
    | none => .next (s.answerHost .error)
    | some pa => .next (s.portIn (.window pa bytes poison))

/-- The host writes its own memory, of class 0b01 (R380, R415). -/
def State.hostStore (s : State) (pa : Nat) (bytes : List Byte) : State :=
  if nbits pa 50 2 = 1 && nbits (pa + bytes.length - 1) 50 2 = 1 && pa < 2 ^ 52 then s.portIn (.store pa bytes) else s

/-- FRAME_RECEIVED (R418 to R422): the frame is counted as bad, or stamped, matched and placed. -/
def execFrameReceived (port : Nat) (bytes : List Byte) (fcsOk : Bool) (s : State) : Host.Outcome State Fault Refusal :=
  if 1 < port || (s.links.ports.get port).down then .next s
  else if bytes.length < 64 then .next (s.countPort port fun x => { x with runts := satInc x.runts })
  else if 9216 < bytes.length then .next (s.countPort port fun x => { x with oversize := satInc x.oversize })
  else if !fcsOk then .next (s.countPort port fun x => { x with fcs := satInc x.fcs })
  else
    let stamp := s.links.phcMove ((Config.stampJitter s.free).val - 4 : Int)
    match s.frameStream port bytes with
    | none => .next (s.draw.countPort port fun x => { x with unmatched := satInc x.unmatched })
    | some k => .next (s.draw.portIn (.frame (16 * port + k) port k bytes stamp.phcSec stamp.phcNs))

end Sys2Proof.Machine
end

