-- ==== Sys2Proof/Machine/Housekeeping.lean ====
section
/-! DEFINITION. The housekeeping controller: reset, ownership, owner requests, firmware, SPDM, power (R424 to R434). -/

namespace Sys2Proof.Machine

/-! ### Answers (R428, R430 to R432) -/

def State.updHk (s : State) (f : Hk → Hk) : State := { s with hk := f s.hk }

/-- A change of the controller's state; one of OWN_STAT or FW_STAT signals vector 0 (R417). -/
def State.setHk (s : State) (f : Hk → Hk) : State :=
  let t := s.updHk f
  if t.hk.ownStat != s.hk.ownStat || t.hk.fwStat != s.hk.fwStat then t.noteVec0 else t

/-- An answer to a claimant, to the request of an opcode and a tag (R431). -/
def State.answer (s : State) (claimant : Nat) (opcode : BitVec 16) (tag : BitVec 32) (status : Nat) (body : List Byte) : State :=
  s.updHk fun h => { h with out := h.out ++ [⟨claimant, opcode, tag, status, body⟩] }

/-- An answer as bytes: its header, which echoes opcode and tag, and its body (R431). -/
def HkMsg.bytes (m : HkMsg) : List Byte :=
  bytesOf 2 m.opcode ++ leBytes 2 m.body.length ++ bytesOf 4 m.tag ++ leBytes 8 m.status ++ m.body

/-- Requesters of SPDM: the three claimants' transports, and the peers of the Rein links as 3 to 20 (R411, R428, R430). -/
def spdmPeers : Nat := 21

/-- An SPDM answer to a requester, whose content lies outside the manual (R428; log 10). -/
def State.spdm (s : State) (claimant kind : Nat) : State :=
  if claimant < spdmPeers then (s.answer claimant 0 0 0 (Config.spdmPayload s.free kind)).draw else s

def execGetVersion (claimant : Nat) (s : State) : Host.Outcome State Fault Refusal := .next (s.spdm claimant 0)
def execGetCapabilities (claimant : Nat) (s : State) : Host.Outcome State Fault Refusal := .next (s.spdm claimant 1)
def execNegotiateAlgorithms (claimant : Nat) (s : State) : Host.Outcome State Fault Refusal := .next (s.spdm claimant 2)
def execGetDigests (claimant : Nat) (s : State) : Host.Outcome State Fault Refusal := .next (s.spdm claimant 3)
def execGetCertificate (claimant : Nat) (s : State) : Host.Outcome State Fault Refusal := .next (s.spdm claimant 4)
/-- CHALLENGE (R428): an ML-DSA-87 signature over the requester's nonce. -/
def execChallenge (claimant nonce : Nat) (s : State) : Host.Outcome State Fault Refusal := .next (s.spdm claimant (16 + nonce))
/-- GET_MEASUREMENTS (R428): measurements 0 to 3. -/
def execGetMeasurements (claimant index : Nat) (s : State) : Host.Outcome State Fault Refusal :=
  .next (s.spdm claimant (if index < 4 then 8 + index else 5))
/-- The first keys of a link whose peer has opened a session (R410, R411). -/
def ReinLink.keyed (l : ReinLink) (n : Nat) : ReinLink :=
  { l with session := true, keys := [some n, none, some n, none], txKg := false, rxKg := false, rxNew := false, txCtr := [0, 0], rxCtr := [0, 0],
           wantRekey := false, stopped := false }

/-- KEY_EXCHANGE (R411, R428, R430): a secured session opens on the transport; one with the peer of a link that has none keys the link. -/
def execKeyExchange (claimant : Nat) (s : State) : Host.Outcome State Fault Refusal :=
  if claimant < 3 then
    .next ((s.spdm claimant 6).updHk fun h => { h with sessions := h.sessions.insert claimant, sessKeys := h.sessKeys + 1 })
  else if claimant < spdmPeers && !(s.links.rein.get (claimant - 3)).session then
    .next ((s.spdm claimant 6).updRein (claimant - 3) fun l => l.keyed s.free)
  else .next (s.spdm claimant 6)

/-! ### Reset (R424) -/

/-- An image is valid (R426). -/
def Hk.valid (h : Hk) (slot : Bool) : Bool :=
  Config.imageOk (h.images.getD slot.toNat []) && h.floor ≤ (Config.imageVersion (h.images.getD slot.toNat [])).toNat

/-- The image that the ROM boots: the valid one with the higher version, A if both are equal (R426). -/
def Hk.bootSlot (h : Hk) : Option Bool :=
  let v := fun (b : Bool) => (Config.imageVersion (h.images.getD b.toNat [])).toNat
  match h.valid false, h.valid true with
  | true, true => some (v false < v true)
  | true, false => some false
  | false, true => some true
  | false, false => none

/-- Links and ports that do not come up in step 5 (R424): Rein links 0 to 17, the CXL port 18, the spring ports 19 and 20. A Rein link that
does not has no session and no keys. -/
def Links.fail (l : Links) (failed : BitVec 21) : Links :=
  { l with
    rein := (List.range 18).foldl (fun (m : Store ReinLink) i =>
      if failed.getLsbD i then m.upd i fun x => { x with down := true, session := false, keys := [none, none, none, none] } else m) l.rein,
    hostUp := !failed.getLsbD 18,
    ports := [0, 1].foldl (fun (m : Store Port) i => if failed.getLsbD (19 + i) then m.upd i fun x => { x with down := true } else m) l.ports }

/-- Every link keyed with keys of a new number, so that no nonce comes again under a key of before (R410, R411). -/
def Links.keyed (l : Links) (n : Nat) : Links :=
  { l with rein := (List.range 18).foldl (fun (m : Store ReinLink) i => m.upd i fun x => { x with keys := [some n, none, some n, none] }) l.rein }

/-- A package reset (R424): every register and memory as after power-on; flash, fuses, identity and the answers already sent stay. Step 1
fails when no image is valid; steps 2 and 3 may: then the sequence stops, the package is in the failed state and no link or port comes up;
step 5 is reported for each link and port (log 74). -/
def State.boot (s : State) (failStep : BitVec 3) (failed : BitVec 21) : State :=
  let h := s.hk
  let slot := h.bootSlot
  let min := match slot with | some b => (Config.imageMin (h.images.getD b.toNat [])).toNat | none => 0
  let hk : Hk :=
    { out := h.out, images := h.images, serial := h.serial, form := h.form, floor := max h.floor min,
      slot := slot.getD h.slot,
      failStep := if slot.isNone then 1 else if failStep = 2 || failStep = 3 then failStep else 0 }
  { State.reset with hk := hk, free := s.free + 2, links := Links.fail (Links.keyed {} (s.free + 1)) (if hk.failStep = 0 then failed else BitVec.allOnes 21) }

/-- PACKAGE_RESET (R424): power-on, PERST# or RESET_PACKAGE, with the step that fails, or none, and the links and ports that do not come up;
it ends in the owner election. -/
def execPackageReset (failStep : BitVec 3) (failed : BitVec 21) (s : State) : Host.Outcome State Fault Refusal := .next (s.boot failStep failed)

/-- A partition holds a context (R425). -/
def State.holdsCtx (s : State) (p : Nat) : Bool :=
  s.launches.any (fun l => l.part == p && l.present) || (s.part p).ctxs.any fun e => e.2.phase != 0

/-- A partition reset (R4, R361, R424): every context is stopped and discarded with its work, the partition's registers and locks are
cleared; the rectangle, which the owner set, stays, and so does a stop for a failed basin link (R402). -/
def State.resetPart (s : State) (p : Nat) : State :=
  let ls := (List.range s.launches.length).filter fun l => (s.launch l).part == p
  let s := ls.foldl (fun s l => (s.killLaunch l).updLaunch l fun x => { x with state := if x.state ≤ 2 || x.state = 6 then 5 else x.state }) s
  let mine := fun (c : Nat) => (s.launch (s.wg (s.wgOfCrew c)).launch).part == p
  let s := (List.range 512).foldl (fun s c => s.dropSlots c fun r => r.part == p) s
  let s : State :=
    { s with
      ops := s.ops.map fun o => if mine o.crew then { o with live := false } else o,
      joints := s.joints.map fun j => if mine (j.crews.headD 0) then { j with live := false } else j,
      racc := s.racc.map fun a => if mine a.crew then { a with live := false, acked := false } else a,
      cmds := s.cmds.map fun c => if c.part = p then { c with live := false } else c,
      walkers := s.walkers.map fun w =>
        if (match s.cmds[w.cmd]? with | some c => c.part == p | none => false) then { w with phase := .done } else w,
      links := { s.links with streams := s.links.streams.filterMap fun e =>
        if e.2.part = p then (if p = 0 then none else some (e.1, { part := p })) else some e } }
  let failed := (List.range 12).any fun k => (s.stk k).down
  s.updPart p fun x =>
    { enabled := x.enabled, px := x.px, py := x.py, pa := x.pa, pb := x.pb, halted := failed && x.halted,
      haltCode := if failed then x.haltCode else 0 }

/-! ### Owner requests (R429, R431) -/

/-- A request is refused: only OWN_STAT.last changes (R431). -/
def State.hkRefuse (s : State) (st : Nat) : State × Nat := (s.setHk fun h => { h with last := BitVec.ofNat 8 st }, st)

/-- The latest answer that `p` selects changes. -/
def amendLast (p : HkMsg → Bool) (f : HkMsg → HkMsg) : List HkMsg → List HkMsg
  | [] => []
  | m :: r => if p m && !r.any p then f m :: r else m :: amendLast p f r

/-- CLAIM (R429): the first claim wins, and of two completed in one cycle that of the lowest claimant, so that the other's answer becomes
0x02; a named successor's completes while its handover is pending. -/
def State.claimBy (s : State) (cl : Nat) : State × Nat :=
  let h := s.hk
  if h.owner = cl then (s, 0)
  else if h.owner = 3 then (s.setHk fun h => { h with owner := cl, succ := none, claimAt := some s.cyc.toNat }, 0)
  else if h.succ == some cl && s.cyc.toNat < h.succAt + Config.handoverTime then
    (s.setHk fun h => { h with owner := cl, succ := none, claimAt := none }, 0)
  else if h.claimAt == some s.cyc.toNat && cl < h.owner then
    (s.setHk fun h =>
      { h with owner := cl, succ := none, last := 2,
               out := amendLast (fun m => m.claimant == h.owner && m.opcode == 1 && m.status == 0) (fun m => { m with status := 2 }) h.out }, 0)
  else s.hkRefuse 2

/-- A rectangle is a mesh tile (R12, R374). -/
def meshTile (px py pa pb : Nat) : Bool :=
  pa ≤ 5 && pb ≤ 4 && px % 2 ^ pa == 0 && py % 2 ^ pb == 0 && px + 2 ^ pa ≤ 32 && py + 2 ^ pb ≤ 16

/-- Two partitions' rectangles overlap. -/
def Part.overlaps (x : Part) (px py pa pb : Nat) : Bool :=
  x.px < px + 2 ^ pa && px < x.px + 2 ^ x.pa && x.py < py + 2 ^ pb && py < x.py + 2 ^ x.pb

/-- SET_PARTITION (R374, R425, R431); after a basin link has failed every partition of the package stays stopped (R402). -/
def State.setPartition (s : State) (p px py pa pb : Nat) (en : Bool) : State × Nat :=
  if 15 < p then s.hkRefuse 4
  else if en && !(meshTile px py pa pb &&
      !((List.range 16).any fun q => q != p && (s.part q).enabled && (s.part q).overlaps px py pa pb)) then s.hkRefuse 4
  else if s.holdsCtx p then s.hkRefuse 3
  else if en then
    let s := s.updPart p fun x => { x with enabled := true, px := px, py := py, pa := pa, pb := pb }
    match (List.range 12).find? fun k => (s.stk k).down with
    | some k => (if (s.part p).halted then s else s.haltPart p (BitVec.ofNat 8 (0xB0 + k)), 0)
    | none => (s, 0)
  else (s.updPart p fun x => { x with enabled := false }, 0)

/-- The partition that a slot byte names (R407). -/
def slotByte (b : Byte) : Option Nat := if b.getLsbD 4 then some (bits b 0 4) else none

/-- SET_SLOTS (R400, R425, R431): the table of the channel at its next round boundary; the reserved bits of its bytes are ignored (R7, R407). -/
def State.setSlots (s : State) (stack chan : Nat) (bytes : List Byte) : State × Nat :=
  let slots := bytes.map (· &&& 0x1F)
  let old := fun i => (s.stk stack).slotTbl.get (64 * chan + i)
  let changed := (List.range 64).flatMap fun i =>
    if slots.getD i 0 == old i then [] else (slotByte (old i)).toList ++ (slotByte (slots.getD i 0)).toList
  if 11 < stack || 31 < chan || slots.length != 64 then s.hkRefuse 4
  else if changed.any s.holdsCtx then s.hkRefuse 3
  else (s.updStk stack fun k => { k with pending := k.pending.set chan (some slots) }, 0)

/-- IMAGE_ACTIVATE (R427): the inactive image is verified, and the switch armed; one that fails leaves the running image in place. -/
def State.imageActivate (s : State) : State × Nat :=
  if s.hk.valid !s.hk.slot then (s.updHk fun h => { h with armed := true }, 0)
  else (s.setHk fun h => { h with fwErr := true, armed := false }).hkRefuse 5

/-- IMAGE_WRITE (R427): bytes of the inactive slot; what was verified there before is no longer what a switch would run (R3). -/
def State.imageStore (s : State) (off : Nat) (bytes : List Byte) : State :=
  s.updHk fun h => { h with armed := false, images := h.images.modify (!h.slot).toNat fun m => putBytes m off bytes }

/-- A stream's owner changes (R423, R431). -/
def State.setStream (s : State) (port stream part : Nat) : State × Nat :=
  let i := 16 * port + stream
  if 1 < port || 15 < stream || 15 < part then s.hkRefuse 4
  else if (s.links.streams.get i).en then s.hkRefuse 3
  else ({ s with links := { s.links with streams := s.links.streams.upd i fun x => { x with part := part } } }, 0)

/-- The opcode of a request (R431). -/
def reqOpcode : OwnerReq → BitVec 16
  | .claim => 0x1
  | .handover _ => 0x2
  | .setPartition _ _ _ _ _ _ => 0x3
  | .setSlots _ _ _ => 0x4
  | .setHost _ _ _ => 0x5
  | .setStream _ _ _ => 0x6
  | .setRein _ _ => 0x7
  | .imageWrite _ _ => 0x8
  | .imageActivate => 0x9
  | .rekey _ => 0xA
  | .setMsix _ _ _ => 0xB
  | .resetPartition _ => 0xC
  | .resetPackage => 0xD
  | .other op => op

/-- The effect of an owner request and its status (R431). -/
def State.ownerReq (s : State) (cl : Nat) (inSession : Bool) (req : OwnerReq) : State × Nat :=
  if !inSession then s.hkRefuse 4
  else if s.hk.owner != cl && reqOpcode req != 1 then s.hkRefuse 1
  else match req with
    | .claim => s.claimBy cl
    | .handover succ =>
      if 2 < succ || succ = cl then s.hkRefuse 4
      else (s.setHk fun h => { h with succ := some succ, succAt := s.cyc.toNat }, 0)
    | .setPartition p px py pa pb en => s.setPartition p px.toNat py.toNat pa.toNat pb.toNat en
    | .setSlots stack chan slots => s.setSlots stack chan slots
    | .setHost part base len =>
      if 768 < base.toNat + len.toNat then s.hkRefuse 4
      else ({ s with links := { s.links with hostPart := part, hdmBase := base, hdmLen := len } }, 0)
    | .setStream port stream part => s.setStream port stream part.toNat
    | .setRein pkg links =>
      if (List.range 16).any s.holdsCtx then s.hkRefuse 3
      else ({ s with links := ({ s.links with pkg := pkg, enabled := links } : Links).pumpFlits s.cyc.toNat }, 0)
    | .imageWrite off bytes =>
      if 4064 < bytes.length then s.hkRefuse 4
      else (s.imageStore off bytes, 0)
    | .imageActivate => s.imageActivate
    | .rekey link =>
      if 17 < link then s.hkRefuse 4
      else ({ s with links := { s.links with rein := s.links.rein.upd link fun l => { l with wantRekey := true } } }, 0)
    | .setMsix vec pa en =>
      if 15 < vec || pa.toNat % 8 != 0 || !paIsPackage pa.toNat then s.hkRefuse 4
      else ({ s with links := { s.links with msix := s.links.msix.set vec (zext64 pa ||| (if en then 1 else 0)) } }, 0)
    | .resetPartition p => if 15 < p then s.hkRefuse 4 else (s.resetPart p, 0)
    | .resetPackage => (s, 0)
    | .other _ => s.hkRefuse 4

/-- RESET_PACKAGE begins after its response has been sent (R431); which of its steps fails is free (log 74). -/
def State.afterAnswer (s : State) (st : Nat) (req : OwnerReq) : State :=
  match req with
  | .resetPackage => if st = 0 then (s.boot (Config.bootStep s.free) (Config.bootFailed s.free)).draw else s
  | _ => s

/-- An owner request by a claimant on its own transport, inside an open session of it or not (R430, R431); a package in the failed state
answers none (R424). -/
def State.owned (s : State) (cl : Nat) (h : ReqHdr) (req : OwnerReq) : Host.Outcome State Fault Refusal :=
  if cl < 3 && s.hk.failStep == 0 then
    let req := match h.bad with | some op => .other op | none => req
    let (t, st) := s.ownerReq cl (h.secured && s.hk.sessions.contains cl) req
    .next ((t.answer cl (reqOpcode req) h.tag st []).afterAnswer st req)
  else .next s

/-- CLAIM (R429, R431). -/
def execClaim (claimant : Nat) (h : ReqHdr) (s : State) := s.owned claimant h .claim
/-- HANDOVER (R429, R431). -/
def execHandover (claimant succ : Nat) (h : ReqHdr) (s : State) := s.owned claimant h (.handover succ)
/-- SET_PARTITION (R431). -/
def execSetPartition (claimant p : Nat) (px : BitVec 5) (py : BitVec 4) (pa pb : BitVec 3) (en : Bool) (h : ReqHdr) (s : State) :=
  s.owned claimant h (.setPartition p px py pa pb en)
/-- SET_SLOTS (R431). -/
def execSetSlots (claimant stack chan : Nat) (slots : List Byte) (h : ReqHdr) (s : State) :=
  s.owned claimant h (.setSlots stack chan slots)
/-- SET_HOST (R416, R431). -/
def execSetHost (claimant : Nat) (part : BitVec 4) (base len : BitVec 16) (h : ReqHdr) (s : State) :=
  s.owned claimant h (.setHost part base len)
/-- SET_STREAM (R431). -/
def execSetStream (claimant port stream : Nat) (part : BitVec 4) (h : ReqHdr) (s : State) :=
  s.owned claimant h (.setStream port stream part)
/-- SET_REIN (R431). -/
def execSetRein (claimant : Nat) (pkg : BitVec 11) (links : BitVec 18) (h : ReqHdr) (s : State) :=
  s.owned claimant h (.setRein pkg links)
/-- IMAGE_WRITE (R427, R431). -/
def execImageWrite (claimant off : Nat) (bytes : List Byte) (h : ReqHdr) (s : State) :=
  s.owned claimant h (.imageWrite off bytes)
/-- IMAGE_ACTIVATE (R427, R431). -/
def execImageActivate (claimant : Nat) (h : ReqHdr) (s : State) := s.owned claimant h .imageActivate
/-- REKEY (R411, R431). -/
def execRekey (claimant link : Nat) (h : ReqHdr) (s : State) := s.owned claimant h (.rekey link)
/-- SET_MSIX (R417, R431). -/
def execSetMsix (claimant vec : Nat) (pa : BitVec 52) (en : Bool) (h : ReqHdr) (s : State) :=
  s.owned claimant h (.setMsix vec pa en)
/-- RESET_PARTITION (R424, R431). -/
def execResetPartition (claimant p : Nat) (h : ReqHdr) (s : State) := s.owned claimant h (.resetPartition p)
/-- RESET_PACKAGE (R424, R431). -/
def execResetPackage (claimant : Nat) (h : ReqHdr) (s : State) := s.owned claimant h .resetPackage

/-! ### The mailbox in the BAR (R431, R432) -/

/-- The request of an opcode and a body; one whose body has another length is malformed (R431). The places and widths of a body's fields are
the model's where the manual gives none (log 72). -/
def bodyReq (op : BitVec 16) (b : List Byte) : OwnerReq :=
  let f := fun (o n : Nat) => leNat ((b.drop o).take n)
  let n := b.length
  match op.toNat with
  | 0x1 => if n = 0 then .claim else .other op
  | 0x2 => if n = 1 then .handover (f 0 1) else .other op
  | 0x3 =>
    let x := BitVec.ofNat 64 (f 0 8)
    if n = 9 then .setPartition (bits x 0 4) (x.extractLsb' 4 5) (x.extractLsb' 9 4) (x.extractLsb' 13 3) (x.extractLsb' 16 3) (f 8 1 % 2 == 1)
    else .other op
  | 0x4 => if n = 66 then .setSlots (f 0 1) (f 1 1) (b.drop 2) else .other op
  | 0x5 => if n = 5 then .setHost (BitVec.ofNat 4 (f 0 1)) (BitVec.ofNat 16 (f 1 2)) (BitVec.ofNat 16 (f 3 2)) else .other op
  | 0x6 => if n = 3 then .setStream (f 0 1) (f 1 1) (BitVec.ofNat 4 (f 2 1)) else .other op
  | 0x7 => if n = 6 then .setRein (BitVec.ofNat 11 (f 0 2)) (BitVec.ofNat 18 (f 2 4)) else .other op
  | 0x8 => if 16 ≤ n then .imageWrite (f 0 16) (b.drop 16) else .other op
  | 0x9 => if n = 0 then .imageActivate else .other op
  | 0xA => if n = 1 then .rekey (f 0 1) else .other op
  | 0xB => if n = 10 then .setMsix (f 0 1) (BitVec.ofNat 52 (f 1 8)) (f 9 1 % 2 == 1) else .other op
  | 0xC => if n = 1 then .resetPartition (f 0 1) else .other op
  | 0xD => if n = 0 then .resetPackage else .other op
  | _ => .other op

/-- A request's header and body: its tag and what it asks for; one whose header has set bits in [127:64], whose length is not that of its
body, or whose body is longer than 4,080 bytes is malformed (R431). -/
def parseReq (bs : List Byte) : BitVec 32 × OwnerReq :=
  let op := BitVec.ofNat 16 (leNat (bs.take 2))
  let body := bs.drop 16
  let good := 16 ≤ bs.length && leNat ((bs.drop 8).take 8) == 0 && leNat ((bs.drop 2).take 2) == body.length && body.length ≤ 4080
  (BitVec.ofNat 32 (leNat ((bs.drop 4).take 4)), if good then bodyReq op body else .other op)

/-- The controller acts on a change of MB_REQ: it carries the request out, writes the response buffer, and sets MB_RSP (R432). A request
that is not inside the transport's open session is refused (R430). -/
def State.mailbox (s : State) (val : DWord) (app : Option (List Byte)) : State :=
  let s := s.updHk fun h => { h with mbReq := val }
  let (tag, req) := parseReq (app.getD [])
  let (t, st) := s.ownerReq 0 (app.isSome && s.hk.sessions.contains 0) req
  let rsp := Config.secured t.free (HkMsg.bytes ⟨0, (reqOpcode req), tag, st, []⟩)
  let t := (t.answer 0 (reqOpcode req) tag st []).updHk fun h => { h with mbRsp := val, rspBuf := putBytes [] 0 (rsp.take 4096) }
  (t.draw.noteVec0).afterAnswer st req

/-- The host writes bytes of the BAR: MB_REQ with one 8-byte write, or the request buffer; every other offset ignores the write (R432). -/
def State.barWrite (s : State) (off : Nat) (bytes : List Byte) (app : Option (List Byte)) : State :=
  if off = 0 && bytes.length = 8 then
    if dwOf bytes == s.hk.mbReq || s.hk.failStep != 0 then s else s.mailbox (dwOf bytes) app
  else
    s.updHk fun h =>
      { h with reqBuf := (List.range bytes.length).foldl (fun (m : Store Byte) i =>
          if 0x1000 ≤ off + i && off + i < 0x2000 then m.set (off + i - 0x1000) (bytes.getD i 0) else m) h.reqBuf }

/-- A byte of the BAR as the host reads it (R432). -/
def State.barByte (s : State) (off : Nat) : Byte :=
  if off < 8 then s.hk.mbReq.extractLsb' (8 * off) 8
  else if off < 16 then s.hk.mbRsp.extractLsb' (8 * (off - 8)) 8
  else if 0x1000 ≤ off && off < 0x2000 then s.hk.reqBuf.get (off - 0x1000)
  else if 0x2000 ≤ off && off < 0x3000 then s.hk.rspBuf.get (off - 0x2000)
  else 0

/-- MB_REQ_WRITE (R415, R417, R432): the host's write on CXL.io, or to its own memory. -/
def execMbReqWrite (w : HostWrite) (s : State) : Host.Outcome State Fault Refusal :=
  if !s.links.hostUp then .next s
  else match w with
    | .bar off bytes app => .next (s.barWrite off bytes app)
    | .msixEntry vec e => .next (s.setMsixEntry vec e)
    | .msixControl on mask => .next (s.setMsixControl on mask)
    | .memory pa bytes => .next (s.hostStore pa bytes)

/-- HANDOVER_LAPSE (R429): 10 s without the successor's claim. -/
def execHandoverLapse (s : State) : Host.Outcome State Fault Refusal :=
  if s.hk.succ.isSome && s.hk.succAt + Config.handoverTime ≤ s.cyc.toNat then
    .next (s.setHk fun h => { h with succ := none })
  else .next s

/-- FIRMWARE_SWITCH (R427): the armed image runs; each step of this model leaves no command under decode. -/
def execFirmwareSwitch (s : State) : Host.Outcome State Fault Refusal :=
  if s.hk.armed then
    .next (s.setHk fun h =>
      { h with armed := false, slot := !h.slot, fwErr := false, testing := some s.cyc.toNat, prev := h.images.getD h.slot.toNat [] })
  else .next s

/-- FIRMWARE_SELF_TEST_FAIL (R427): within 1 s of the switch the previous image resumes, as it was when it last ran (R3; log 76). -/
def execFirmwareSelfTestFail (s : State) : Host.Outcome State Fault Refusal :=
  match s.hk.testing with
  | some t =>
    if s.cyc.toNat < t + Config.selfTestTime then
      .next (s.setHk fun h =>
        { h with slot := !h.slot, fwErr := true, testing := none, armed := false, prev := [], images := h.images.set (!h.slot).toNat h.prev })
    else .next s
  | none => .next s

/-- POWER_THROTTLE (R433): timing only, but for PWR_STAT; the basin logic is throttled only when the clock has been lowered. -/
def execPowerThrottle (watts : BitVec 16) (step : BitVec 4) (basin : Bool) (s : State) : Host.Outcome State Fault Refusal :=
  if basin && step == 0 then .next s else .next (s.updHk fun h => { h with watts := watts, clkStep := step, basinThr := basin })

end Sys2Proof.Machine
end

