-- ==== Sys2Proof/Machine/Pair.lean ====
section
/-! DEFINITION. The pair word (R171 to R174, R193) and the words without an assigned opcode (R191). -/

namespace Sys2Proof.Machine

/-- The half is a chain breaker, like its full form (R190). -/
def Cop.brk : Cop → Bool
  | .lds => true
  | .sts => true
  | _ => false

/-- The half lies in the walker profile (R190, R193). -/
def Cop.walker : Cop → Bool
  | .nop | .iadd | .isub | .imul | .and | .or | .xor | .shl | .shr | .sar | .mov | .imin | .imax => true
  | .fadd | .fsub | .fmul | .fmin | .fmax | .hadd2 | .hmul2 | .lds | .sts => false

/-- The half reads d, takes an imm10, writes d (R172, R173). -/
def Cop.readsD : Cop → Bool
  | .mov | .lds | .nop => false
  | _ => true
def Cop.imm : Cop → Bool
  | .iadd | .isub | .imul | .and | .or | .xor | .shl | .shr | .sar | .imin | .imax | .lds | .sts => true
  | _ => false
def Cop.writes : Cop → Bool
  | .sts | .nop => false
  | _ => true

/-- A half as the issue of its full form (R172). -/
def halfIss (x : Half) : Iss :=
  let src := if Cop.imm x.cop then Opd.vi x.s else Opd.v x.s
  ⟨{ walker := Cop.walker x.cop, brk := Cop.brk x.cop }, ⟨0, false, x.d.setWidth 11, x.nw⟩,
    if Cop.readsD x.cop then [.reg x.d.toNat 1, src] else [src],
    if Cop.writes x.cop then .v (x.d.setWidth 11) else .none⟩

/-- Banks a half reads and writes (R173). -/
def halfReads (x : Half) : List Nat :=
  (if Cop.readsD x.cop then [x.d.toNat % 4] else []) ++ (match x.s with | .v n => [n.toNat % 4] | _ => [])
def halfWrites (x : Half) : List Nat := if x.nw || !Cop.writes x.cop then [] else [x.d.toNat % 4]

/-- The bank rules of R173 fail. -/
def pairBad (a b : Half) : Bool :=
  (halfWrites a).any (halfWrites b).contains ||
  (List.range 4).any fun k => 2 < ((halfReads a ++ halfReads b).filter (· == k)).length

/-- The result and flags of a half that computes a register (R172): the full form without modifiers. -/
def halfVal (ftz : Bool) (r : Regs) (x : Half) : Word × BitVec 9 :=
  let a := r.v.get x.d.toNat
  let b := r.rv x.s
  let f := fun (y : FR) => (BitVec.ofNat 32 y.pat, y.fl)
  match x.cop with
  | .iadd => (a + b, 0)
  | .isub => (a - b, 0)
  | .imul => (a * b, 0)
  | .and => (a &&& b, 0)
  | .or => (a ||| b, 0)
  | .xor => (a ^^^ b, 0)
  | .shl => (shlBy a b, 0)
  | .shr => (shrBy a b, 0)
  | .sar => (sarBy a b, 0)
  | .mov => (b, 0)
  | .imin => (if wlt false a b then a else b, 0)
  | .imax => (if wlt false a b then b else a, 0)
  | .fadd => f (f32.add .rne ftz a.toNat b.toNat)
  | .fsub => f (f32.sub .rne ftz a.toNat b.toNat)
  | .fmul => f (f32.mul .rne ftz a.toNat b.toNat)
  | .fmin => f (f32.minmax false false ftz a.toNat b.toNat)
  | .fmax => f (f32.minmax true false ftz a.toNat b.toNat)
  | .hadd2 => f (packed (fun x y _ => bf16.add .rne ftz x y) a.toNat b.toNat 0)
  | .hmul2 => f (packed (fun x y _ => bf16.mul .rne ftz x y) a.toNat b.toNat 0)
  | .nop => (0, 0)
  | .lds => (0, 0)
  | .sts => (0, 0)

/-- The stash check of a half that reaches the stash (R172, R239). -/
def halfCheck (s : State) (r : Regs) (x : Half) : State × Chk Unit :=
  match x.cop with
  | .lds => s.stashCheck (s.wgOf s.t) (r.rv x.s).toNat 4 false
  | .sts => s.stashCheck (s.wgOf s.t) (r.rv x.s).toNat 4 true
  | _ => (s, .ok ())

/-- A half takes effect, its registers and latches read from before the word (R172, R174). -/
def halfRun (s : State) (r : Regs) (x : Half) : State :=
  let g := s.wgOf s.t
  let off := (r.rv x.s).toNat
  match x.cop with
  | .nop => s.updRegs (chainNone false)
  | .lds =>
    let s := if s.stashBad g off 4 then s.poisoned (BitVec.ofNat 64 off) x.d.toNat
      else s.updRegs fun q => q.setVals x.d.toNat (loadVals .b32 (s.stashBytes g off 4))
    s.updRegs (chainNone true)
  | .sts => (s.stashPut g off (bytesOf 4 (r.v.get x.d.toNat))).updRegs (chainNone true)
  | _ =>
    let y := halfVal s.ftz r x
    (s.setFlags y.2).updRegs fun q => chainRes false (zext64 y.1) (if x.nw then q else q.setV x.d.toNat y.1)

/-- Steps 3, 5 and 6 of R178 for a pair: the first that fails. -/
def State.pairChecks (s : State) (a b : Half) : Option TrapInfo :=
  let onWalker := match s.cur with | .walker _ => true | _ => false
  let opdOk := fun x => (halfIss x).ops.all (Opd.ok s.curCnt) && (x.nw || (halfIss x).dst.ok s.curCnt)
  if onWalker && !Cop.walker a.cop then some { cause := .illegalContext }
  else if onWalker && !Cop.walker b.cop then some { cause := .illegalContext, half := true }
  else if !opdOk a then some { cause := .illegalOperand }
  else if !opdOk b then some { cause := .illegalOperand, half := true }
  else if pairBad a b then some { cause := .illegalPair }
  else none

/-- Step 7 of R178 for a pair: after a breaker in half A, no latch of half B's chain is written (R174, R190; log 17). -/
def pairLatchBad (r : Regs) (a b : Half) : Option TrapInfo :=
  if latchBad r (halfIss a).ops then some { cause := .illegalLatch }
  else if latchBad (if Cop.brk a.cop then r.breakChain else r) (halfIss b).ops then some { cause := .illegalLatch, half := true }
  else none

/-- Both halves: the stash checks, then half A and half B (R172). -/
def pairBody (a b : Half) (s : State) : State :=
  let r := s.curRegs
  match halfCheck s r a with
  | (s, .trap i) => s.raise i
  | (s, .wait w) => s.hold w
  | (s, .ok ()) =>
    match halfCheck s r b with
    | (s, .trap i) => s.raise { i with half := true }
    | (s, .wait w) => s.hold w
    | (s, .ok ()) => (halfRun (halfRun s r a) r b).advance

/-- The pair word (R171 to R173). -/
def execPairWord (ha hb : Half) (s : State) : Host.Outcome State Fault Refusal :=
  match s.cur with
  | .none => .fault .noAgent
  | _ =>
    if s.hazard (halfIss ha) || s.hazard (halfIss hb) || s.holds (halfIss ha) || s.holds (halfIss hb) then .next s
    else match s.pairChecks ha hb with
      | some i => .next (s.raise i)
      | none =>
        match pairLatchBad s.curRegs ha hb with
        | some i => .next (s.raise i)
        | none => .next (pairBody ha hb ((s.begin (halfIss ha)).begin (halfIss hb)))

/-- A word without an assigned opcode: ILLEGAL_OPCODE, whatever its guard (R178, R191). -/
def execUnassignedOpcode (_w : DWord) (half : Bool) (s : State) : Host.Outcome State Fault Refusal :=
  match s.cur with
  | .none => .fault .noAgent
  | _ => .next (s.raise { cause := .illegalOpcode, half := half })

end Sys2Proof.Machine
end

