-- ==== Sys2Proof/Machine/RegEvents.lean ====
section
/-! DEFINITION. Register writes as events (R343 to R346, R375, R397, R398, R407, R423), and the events of the memory system: patrol
scrub, channel slots, basin links (R400 to R405). -/

namespace Sys2Proof.Machine

/-- A register write of one of the 16 partitions (R374). -/
def State.regPart (s : State) (p : Nat) (t : State) : Host.Outcome State Fault Refusal := if p < 16 then .next t else .next s

/-- An index that a register has (R344). -/
def State.regIdx (s : State) (p reg idx : Nat) : Bool :=
  match s.regEntries p reg with
  | some n => if n = 0 then idx = 0 else idx < n
  | none => false

/-- TWIN_WRITE (R343). -/
def execTwinWrite (part : Nat) (val : DWord) (s : State) := s.regPart part (s.wTwin part val)

/-- TRAP_WINDOW_WRITE (R343, R345). -/
def execTrapWindowWrite (part : Nat) (reg idx : Nat) (val : DWord) (s : State) :=
  s.regPart part (if 0x005 ≤ reg && reg ≤ 0x00B && s.regIdx part reg idx then s.wWindow part reg idx val else s)

/-- XLOCK_CFG_WRITE (R4, R346). -/
def execXlockCfgWrite (part : Nat) (val : DWord) (s : State) := s.regPart part (s.wXlock part val)

/-- SCHED_XLOCK_WRITE (R4, R375). -/
def execSchedXlockWrite (part : Nat) (val : DWord) (s : State) := s.regPart part (s.wSchedXlock part val)

/-- TQ_CFG_WRITE (R346). -/
def execTqCfgWrite (part : Nat) (val : DWord) (s : State) := s.regPart part (s.wTqCfg part val)

/-- LQ_CFG_WRITE (R369, R375). -/
def execLqCfgWrite (part q : Nat) (val : DWord) (s : State) := s.regPart part (if q < 64 then s.wLqCfg part q val else s)

/-- LQ_BASE_WRITE (R363, R375). -/
def execLqBaseWrite (part q : Nat) (val : DWord) (s : State) := s.regPart part (if q < 64 then s.wLqBase part q val else s)

/-- APER_CFG_WRITE (R397): a disable completes as an invalidation does (R387). -/
def execAperCfgWrite (part i : Nat) (val : DWord) (s : State) :=
  s.regPart part
    (if i < 16 then
      if s.aperDrains part i val && s.invCount < 15 then (s.wAperCfg part i val).startInv else s.wAperCfg part i val
    else s)

/-- CTX_ROOT_WRITE (R379, R398). -/
def execCtxRootWrite (part : Nat) (ctx : Option Nat) (val : DWord) (s : State) :=
  s.regPart part (match ctx with | some c => if c < 65535 then s.wRoot part ctx val else s | none => s.wRoot part none val)

/-- NUMCFG_WRITE (R4, R134). -/
def execNumcfgWrite (part : Nat) (val : DWord) (s : State) := s.regPart part (s.wNumcfg part val)

/-- PHC_ADJ_WRITE (R423). -/
def execPhcAdjWrite (val : DWord) (s : State) : Host.Outcome State Fault Refusal := .next (s.wPhcAdj val)

/-- SPS_CFG_WRITE (R423). -/
def execSpsCfgWrite (part i : Nat) (val : DWord) (s : State) := s.regPart part (if i < 32 then s.wSpsCfg part i val else s)

/-- MEM_CFG_WRITE (R401, R407). -/
def execMemCfgWrite (part : Nat) (val : DWord) (s : State) := s.regPart part (s.wMemCfg part val)

/-- SYSTEM_REGISTER_WRITE (R344): a writable register that exists takes the value. -/
def execSystemRegisterWrite (part reg idx : Nat) (val : DWord) (s : State) :=
  s.regPart part (if s.regIdx part reg idx && !regReadOnly reg then s.sysWrite part reg idx val else s)

/-! ### Scrubbing (R404, R405) -/

/-- The end of a patrol pass: it counts, and the groups' corrected reads of the period are forgotten (R404, R407). -/
def State.endPass (s : State) : State :=
  let s := { s with scrubPasses := satInc s.scrubPasses }
  (List.range 12).foldl (fun s k => s.updStk k fun x => { x with tsvCnt := [] }) s

/-- Lines of the package's stacks. -/
def patrolLines : Nat := 12 * 2 ^ 30

/-- SCRUB_CFG.period in cycles (R407). -/
def State.scrubTime (s : State) : Nat := s.scrubPeriod.toNat * 3600 * 1250000000

/-- The patrol's next line is due: the lines of a pass are spread evenly over the period (R405; log 24). -/
def State.patrolDue (s : State) : Bool := s.patrolFrom * patrolLines + s.patrol * s.scrubTime ≤ s.cyc.toNat * patrolLines

/-- The patrol goes on to the next line; after the last one a pass is complete and the next begins a period later (R404, R405, R407). -/
def State.patrolOn (s : State) : State :=
  if s.patrol + 1 < patrolLines then { s with patrol := s.patrol + 1 }
  else { s.endPass with patrol := 0, patrolFrom := s.patrolFrom + s.scrubTime }

/-- PATROL_SCRUB (R405): the line to which the patrol has come is read from the array (log 24). -/
def execPatrolScrub (stack line : Nat) (s : State) : Host.Outcome State Fault Refusal :=
  if stack < 12 && line < 2 ^ 30 && 2 ^ 30 * stack + line == s.patrol && s.patrolDue then
    .next (s.readArray (stack * 2 ^ 36 + 64 * line) 1).patrolOn
  else .next s

/-! ### Channel slots (R400, R401) -/

/-- The partition that owns a slot: one that is configured (R400). -/
def State.slotOwner (s : State) (k : StackSt) (chan n : Nat) : Option Nat :=
  let b := k.slotTbl.get (64 * chan + n)
  let p := bits b 0 4
  if b.getLsbD 4 && (s.part p).enabled then some p else none

/-- The next partition in round-robin order after r that `p` selects. -/
def nextTurn (r : Nat) (p : Nat → Bool) : Option Nat := ((List.range 16).map fun i => (r + 1 + i) % 16).find? p

/-- The partition that a slot serves (R401); `hold` are the partitions with donate = 0. -/
def State.slotServes (s : State) (k : StackSt) (chan : Nat) (pending : List Nat) : Option Nat :=
  let hold := k.noDonate.get chan
  let donates := fun p => !hold.testBit p
  let owns := fun p => (List.range 64).any fun n => s.slotOwner k chan n == some p
  let r := k.rr.get chan
  match s.slotOwner k chan (k.slotNo.get chan) with
  | some p =>
    if pending.contains p then some p
    else if donates p then nextTurn r fun q => pending.contains q && donates q
    else none
  | none => nextTurn r fun q => pending.contains q && (donates q || !owns q)

/-- The partition to which a request is charged; requests of the controllers use the fixed share and no slot (R400). -/
def State.chargedTo (s : State) : Requester → Option Nat
  | .thread t => some (s.partOf t)
  | .engine o => (s.ops[o]?).map fun x => s.partOf x.thread
  | .stash w => some (s.launch (s.wg w).launch).part
  | .basin c => (s.cmds[c]?).map (·.part)
  | .behalf r => s.chargedTo r
  | .remote q => some q
  | .launchUnit p _ => some p
  | .context p _ => some p
  | .host => some s.links.hostPart.toNat
  | .spring i => some (s.links.streams.get i).part
  | .controller => none

/-- CHANNEL_SLOT_ALLOCATION (R400, R401): the slot is granted among the partitions to which the pending requests are charged; a round's 64
slots end at its boundary. -/
def execChannelSlotAllocation (stack chan : Nat) (reqs : List Requester) (s : State) : Host.Outcome State Fault Refusal :=
  let k := s.stk stack
  let pending := reqs.filterMap s.chargedTo
  if stack < 12 && chan < 32 && k.slotNo.get chan < 64 then
    let who := s.slotServes k chan pending
    let own := s.slotOwner k chan (k.slotNo.get chan)
    .next (s.updStk stack fun x =>
      { x with granted := x.granted.set chan who, slotNo := x.slotNo.upd chan (· + 1),
               rr := match who with | some p => if own == some p then x.rr else x.rr.set chan p | none => x.rr })
  else .next s

/-- Partitions whose MEM_CFG.donate is 0, as a mask. -/
def State.holders (s : State) : Nat := ((List.range 16).filter fun p => !(s.part p).donate).foldl (fun a p => a + 2 ^ p) 0

/-- SLOT_ROUND_BOUNDARY (R401, R407): a new table and the donate settings come into force. -/
def execSlotRoundBoundary (stack chan : Nat) (s : State) : Host.Outcome State Fault Refusal :=
  if stack < 12 && chan < 32 then
    let m := s.holders
    .next (s.updStk stack fun x =>
      { x with
        slotTbl := match x.pending.get chan with
          | some t => (List.range 64).foldl (fun a i => a.set (64 * chan + i) (t.getD i 0)) x.slotTbl
          | none => x.slotTbl
        pending := x.pending.set chan none, slotNo := x.slotNo.set chan 0, noDonate := x.noDonate.set chan m })
  else .next s

/-! ### Basin links (R402, R403) -/

/-- A counter of ERR_CNT advances (R403, R407). -/
def StackSt.countErr (k : StackSt) (cls : Nat) : StackSt := { k with errCnt := k.errCnt.upd cls satInc }

/-- A beat is refused or discarded: it will be resent once, and 16 replays within 1 µs make the link retrain (R402). -/
def StackSt.replay (k : StackSt) (now : Nat) : StackSt :=
  let at_ := (k.replayAt.filter fun c => now < c + 1250) ++ [now]
  { k.countErr 0 with replayAt := at_, trying := k.trying || 16 ≤ at_.length }

/-- How far a beat lies behind the one that a direction's receiver expects. -/
def BeatDir.behind (d : BeatDir) (seq : BitVec 8) : Nat := (seq - d.expect).toNat

/-- A beat that the transmitter can have sent: one of its replay buffer, or the next new one while the buffer has room (R402). -/
def BeatDir.mayCome (d : BeatDir) (seq : BitVec 8) : Bool := d.behind seq < d.sent || (d.behind seq == d.sent && d.sent < 128)

/-- BEAT_RECEIVED (R402): in one direction of a link (0 to the stack, 1 from it), the expected beat is accepted, which leaves the replay
buffer, or refused on its CRC; the beats that follow a refused one are discarded and resent. -/
def execBeatReceived (stack : Nat) (up : Bool) (seq : BitVec 8) (crcOk : Bool) (s : State) : Host.Outcome State Fault Refusal :=
  let d := (s.stk stack).dirs.get up.toNat
  if stack < 12 && !(s.stk stack).trying && !(s.stk stack).down && d.mayCome seq then
    let d' := { d with sent := max d.sent (d.behind seq + 1) }
    .next (s.updStk stack fun k =>
      if seq != d.expect then { k.replay s.cyc.toNat with dirs := k.dirs.set up.toNat d' }
      else if crcOk then { k with dirs := k.dirs.set up.toNat { expect := d.expect + 1, sent := d'.sent - 1, fails := 0 } }
      else
        let k := { k.replay s.cyc.toNat with dirs := k.dirs.set up.toNat { d' with fails := d.fails + 1 } }
        { k with trying := k.trying || 4 ≤ d.fails + 1 })
  else .next s

/-- BASIN_LINK_RETRAIN (R402): a retrain counts; the third that fails in a row makes the link fail and stops every partition. -/
def execBasinLinkRetrain (stack : Nat) (ok : Bool) (s : State) : Host.Outcome State Fault Refusal :=
  if stack < 12 && (s.stk stack).trying && !(s.stk stack).down then
    let s := s.updStk stack fun k => k.countErr 1
    if ok then .next (s.updStk stack fun k =>
      { k with trying := false, dirs := [0, 1].foldl (fun m i => m.upd i fun d => { d with fails := 0 }) k.dirs, badTrains := 0, replayAt := [] })
    else
      let s := s.updStk stack fun k => { k with badTrains := k.badTrains + 1, down := 3 ≤ k.badTrains + 1 }
      if (s.stk stack).down then
        .next (((List.range 16).filter fun p => (s.part p).enabled).foldl (fun s p => s.haltPart p (BitVec.ofNat 8 (0xB0 + stack))) s)
      else .next s
  else .next s

end Sys2Proof.Machine
end

