-- ==== Sys2Proof/Machine/Walker.lean ====
section
/-! DEFINITION. Class 11 and the walkers of the basin dies (R79 to R83, R319 to R326). -/

namespace Sys2Proof.Machine

/-- Attributes of a walker-only instruction. -/
def aWalk : Attr := { walker := true, core := false }
def aWalkBrk : Attr := { walker := true, core := false, brk := true }

/-- The executing walker's command. -/
def State.curCmd (s : State) : Option Cmd := s.cmds[(s.wlk s.w).cmd]?
def State.updCurCmd (s : State) (f : Cmd → Cmd) : State := s.updCmd (s.wlk s.w).cmd f

/-- An instruction of class 11 with its command. -/
def State.withCmd (s : State) (go : Cmd → Res) : Res :=
  match s.curCmd with
  | some c => go c
  | none => .stay s

/-- Bytes of a record on the walker's stack, and whether they are uncorrectable (R81, R319). -/
def State.recordAt (s : State) (c : Cmd) (node off n : Nat) (go : State → List Byte → Bool → Res) : Res :=
  if c.nodeStack node != (s.wlk s.w).stack then .trap s { cause := .access }
  else match s.walkerPlace (c.nodeAddr node + BitVec.ofNat 64 off) n with
    | (s, .trap i) => .trap s i
    | (s, .wait w) => .wait s w
    | (s, .ok p) =>
      let s := s.demandPlace p
      go s (s.fetchPlace none p) (s.placeBad p)

/-- WDIST's results: distance, predicate and tag (R320). -/
def wdistEnd (q : BitVec 4) (node : Word) (vis : Bool) (d : Word) (s : State) : Res :=
  let s := s.updWlk s.w fun x => { x with r := x.r.setP q vis, tagId := node, tagVis := vis }
  .v (s.updCurCmd fun c => { c with evals := c.evals + 1 }) d

/-- WDIST (R320). -/
def execWdist (h : Hdr) (a : Src) (q : BitVec 4) (s : State) :=
  s.issueI ⟨aWalkBrk, h, [.v a], .v h.d⟩ fun s r => s.withCmd fun c =>
    let node := r.rv a
    s.recordAt c node.toNat 0 (8 + c.vbytes) fun s bs bad =>
      if bad || c.query == [] then wdistEnd q node false c.farDist (s.updCurCmd fun c => { c with eccUe := true })
      else
        let vis := visibleAt c.snapshot.toNat (leNat (bs.take 4)) (leNat ((bs.drop 4).take 4))
        wdistEnd q node vis (distance c.vfmt c.metric c.dim c.query (bs.drop 8)) s

/-- WHEAP (R321): an offer of the tagged, invisible node is rejected. -/
def execWheap (h : Hdr) (a b : Src) (s : State) :=
  s.issueI ⟨aWalk, h, [.v a, .vi b], .none⟩ fun s r =>
    let x := s.wlk s.w
    if x.tagId == r.rv b && !x.tagVis then .none s
    else
      let place := match s.curCmd with | some c => c.merged + c.offers.length + 1 | none => 0
      .none ((s.updCurCmd fun c => { c with offers := c.offers ++ [(r.rv a, r.rv b)] }).updWlk s.w fun x => { x with last := place })

/-- The neighbour list of R322 from the count field and the ids. -/
def nbrVals (maxdeg first m : Nat) (bs : List Byte) (bad : Bool) : List Word :=
  let cnt := if bad then 0 else min (leNat (bs.take 2)) maxdeg
  BitVec.ofNat 32 cnt :: (List.range m).map fun j =>
    if first + j < cnt then BitVec.ofNat 32 (leNat ((bs.drop (4 + 4 * (first + j))).take 4)) else 0xFFFFFFFF

/-- WNBRS (R322). That one bad line of the count or of the whole list gives the count 0 is the model's choice (log 86). -/
def execWnbrs (h : Hdr) (a b : Src) (m : BitVec 5) (s : State) :=
  s.issueI ⟨aWalkBrk, h, [.v a, .vi b], .run h.d (m.toNat + 1)⟩ fun s r => s.withCmd fun c =>
    s.recordAt c (r.rv a).toNat c.cntOff (4 + 4 * c.maxdeg) fun s bs bad =>
      let s := if bad then s.updCurCmd fun c => { c with eccUe := true } else s
      .none (s.updRegs fun g => g.setVals h.d.toNat (nbrVals c.maxdeg (r.rv b).toNat m.toNat bs bad))

/-- The bit of a node in the visited slice of a stack (R81). -/
def Cmd.visitBit (c : Cmd) (stack node : Nat) : Nat := 2 ^ 18 * stack + node / c.nstack % 2 ^ 18

/-- WVISIT (R323). -/
def execWvisit (h : Hdr) (a : Src) (s : State) :=
  s.issueI ⟨aWalk, h, [.v a], .p h.d⟩ fun s r => s.withCmd fun c =>
    let bit := c.visitBit (s.wlk s.w).stack (r.rv a).toNat
    .p (s.updCurCmd fun c => { c with visited := if c.visited.contains bit then c.visited else bit :: c.visited })
      (c.visited.contains bit)

/-- The registers a mask names; the others read as zero (R82). -/
def Regs.masked (r : Regs) (m : Word) : Store Word := r.v.filter fun e => e.1 < 32 && m.getLsbD e.1

/-- Loads of the walker are in flight: a hop and a spawn wait for them (R82, R234). -/
def State.walkerLoads (s : State) : Bool := s.loads.any fun l => l.walker == some s.w

/-- WHOP to a stack (R82, R324). -/
def hopTo (s : State) (m : Word) (stack : Nat) : Res :=
  .stay (s.updWlk s.w fun x =>
    { x with r := { pc := x.r.npc, npc := x.r.npc, v := x.r.masked m, p := x.r.p }, phase := .hopping stack })

/-- WHOP (R324): its address needs read permission (log 64). -/
def execWhop (h : Hdr) (a b : Src) (node : Bool) (s : State) :=
  s.issueI ⟨aWalkBrk, h, [if node then .v a else .x a, .vi b], .none⟩ fun s r => s.withCmd fun c =>
    if s.walkerLoads then .stall s
    else if node then hopTo s (r.rv b) (c.nodeStack (r.rv a).toNat)
    else match s.nbPage c.as (r.rx a) false with
      | (s, some (pa, true)) => if paIsPackage pa then hopTo s (r.rv b) (paStack pa) else .trap s { cause := .access }
      | (s, _) => .trap s { cause := .access }

/-- Walkers of a command that have not ended (R80). -/
def State.liveWalkers (s : State) (cmd : Nat) : Nat := (s.walkers.filter fun w => w.cmd == cmd && w.phase != .done).length

/-- WSPAWN (R325): the child takes the parent's predicates after this write, and a place on its parent's engine (log 63). -/
def execWspawn (h : Hdr) (b : Src) (off : BitVec 11) (s : State) :=
  s.issueI ⟨aWalk, h, [.vi b], .p h.d⟩ fun s r =>
    if s.walkerLoads then .stall s
    else match s.checkTarget s.curAs none (r.target (.short off)) with
      | (s, .trap i) => .trap s i
      | (s, .wait w) => .wait s w
      | (s, .ok ()) =>
        let x := s.wlk s.w
        if 1024 ≤ s.liveWalkers x.cmd then .p s false
        else
          let p := (r.setP (h.d.setWidth 4) true).p
          let child : Walker :=
            { cmd := x.cmd, stack := x.stack, engine := x.engine, tagId := x.tagId, tagVis := x.tagVis,
              r := { pc := r.target (.short off), v := r.masked (r.rv b), p := p } }
          .p { s with walkers := s.walkers ++ [child] } true

/-- WDONE (R326): the walker ends, once its posted offers have reached the heap. -/
def execWdone (h : Hdr) (s : State) :=
  s.issueI ⟨aWalkBrk, h, [], .none⟩ fun s _ =>
    let ended := (s.wlk s.w).last ≤ (match s.curCmd with | some c => c.merged | none => 0)
    .stay (s.updWlk s.w fun x => { x with phase := if ended then .done else .ending })

/-! ### Events of walkers -/

/-- An engine of a basin die has a free walker place (R67, R80). -/
def State.enginePlace (s : State) (stack engine : Nat) : Bool := s.engineUsed stack engine < 64

/-- The command holds a visited slice of a die, or takes a free one (R81). -/
def State.takeSlice (s : State) (cmd stack : Nat) : Option State :=
  match s.cmds[cmd]? with
  | some c =>
    if c.slices.contains stack then some s
    else if s.slicesUsed stack < 128 then some (s.updCmd cmd fun x => { x with slices := x.slices ++ [stack] })
    else none
  | none => none

/-- A walker runs, where its die has a slice and its engine a place. -/
def State.walkerRun (s : State) (w : Nat) : State :=
  let x := s.wlk w
  if s.enginePlace x.stack x.engine then
    match s.takeSlice x.cmd x.stack with
    | some s => s.updWlk w fun x => { x with phase := .running }
    | none => s
  else s

/-- WALKER_CHILD_START (R80, R325). -/
def execWalkerChildStart (walker : Nat) (s : State) : Host.Outcome State Fault Refusal :=
  match s.walkers[walker]? with
  | some x => if x.phase == .starting then .next (s.walkerRun walker) else .next s
  | none => .next s

/-- WALKER_HOP_ARRIVAL (R82): the walker resumes at the destination, or waits there for a place. That the engine with its own engine's number
takes it is the model's choice (log 63). -/
def execWalkerHopArrival (walker : Nat) (s : State) : Host.Outcome State Fault Refusal :=
  match (s.walkers[walker]?.map (·.phase) : Option WPhase) with
  | some (.hopping k) => .next ((s.updWlk walker fun x => { x with stack := k, phase := .resuming }).walkerRun walker)
  | some .resuming => .next (s.walkerRun walker)
  | _ => .next s

/-- WALKER_STEAL (R45): another engine of the die with free places takes a walker that waits. -/
def execWalkerSteal (walker engine : Nat) (s : State) : Host.Outcome State Fault Refusal :=
  let x := s.wlk walker
  let waits := match x.phase with | .starting => true | .resuming => true | _ => false
  if walker < s.walkers.length && waits && engine < 16 && engine != x.engine && s.enginePlace x.stack engine then
    .next (s.updWlk walker fun x => { x with engine := engine })
  else .next s

end Sys2Proof.Machine
end

