-- ==== Sys2Proof/Machine/Held.lean ====
section
/-! DEFINITION. When a thread's next instruction may issue (R29, R33, R234, R279): what each instruction reads and writes, and whether a load
in flight or a posted joint operation holds it. -/

namespace Sys2Proof.Machine

/-- The issue of each instruction of format F: its attributes (R188, R189), guard, sources and destination as its table of operands gives
them (R196, R198, R201, R212, R218, R232, R268 to R291, R311, R320, R341); `foot` is the footprint of the crew's A rows (R277). Pair words and
events have none. -/
def issOf (foot : Nat) : Instr → Option Iss
  | .iadd h a b => some ⟨aLane, h, [.v a, .vi b], .v h.d⟩
  | .isub h a b => some ⟨aLane, h, [.v a, .vi b], .v h.d⟩
  | .imul h a b => some ⟨aLane, h, [.v a, .vi b], .v h.d⟩
  | .imulh h a b _ => some ⟨aLane, h, [.v a, .vi b], .v h.d⟩
  | .imad h a b c => some ⟨aLane, h, [.v a, .vi b, .v c], .v h.d⟩
  | .idiv h a b _ => some ⟨aLane, h, [.v a, .vi b], .v h.d⟩
  | .irem h a b _ => some ⟨aLane, h, [.v a, .vi b], .v h.d⟩
  | .imin h a b _ => some ⟨aLane, h, [.v a, .vi b], .v h.d⟩
  | .imax h a b _ => some ⟨aLane, h, [.v a, .vi b], .v h.d⟩
  | .iabs h a => some ⟨aLane, h, [.v a], .v h.d⟩
  | .ineg h a => some ⟨aLane, h, [.v a], .v h.d⟩
  | .iaddsat h a b _ => some ⟨aLane, h, [.v a, .vi b], .v h.d⟩
  | .isubsat h a b _ => some ⟨aLane, h, [.v a, .vi b], .v h.d⟩
  | .isad h a b _ => some ⟨aLane, h, [.v a, .vi b], .v h.d⟩
  | .idot4 h a b _ _ => some ⟨aLane, h, [.v a, .vi b], .v h.d⟩
  | .iadd64 h a b => some ⟨aLane, h, [.x a, .xi b], .x h.d⟩
  | .isub64 h a b => some ⟨aLane, h, [.x a, .xi b], .x h.d⟩
  | .imul64 h a b => some ⟨aLane, h, [.x a, .xi b], .x h.d⟩
  | .imad64 h a b c => some ⟨aLane, h, [.x a, .xi b, .x c], .x h.d⟩
  | .lea h a b _ _ _ => some ⟨aLane, h, [.x a, .vi b], .x h.d⟩
  | .movi h _ => some ⟨aLane, h, [], .v h.d⟩
  | .movi64 h _ => some ⟨aLane, h, [], .x h.d⟩
  | .and h a b => some ⟨aLane, h, [.v a, .vi b], .v h.d⟩
  | .or h a b => some ⟨aLane, h, [.v a, .vi b], .v h.d⟩
  | .xor h a b => some ⟨aLane, h, [.v a, .vi b], .v h.d⟩
  | .not h a => some ⟨aLane, h, [.v a], .v h.d⟩
  | .andn h a b => some ⟨aLane, h, [.v a, .vi b], .v h.d⟩
  | .shl h a b => some ⟨aLane, h, [.v a, .vi b], .v h.d⟩
  | .shr h a b => some ⟨aLane, h, [.v a, .vi b], .v h.d⟩
  | .sar h a b => some ⟨aLane, h, [.v a, .vi b], .v h.d⟩
  | .rot h a b _ => some ⟨aLane, h, [.v a, .vi b], .v h.d⟩
  | .shl64 h a b => some ⟨aLane, h, [.x a, .vi b], .x h.d⟩
  | .shr64 h a b => some ⟨aLane, h, [.x a, .vi b], .x h.d⟩
  | .sar64 h a b => some ⟨aLane, h, [.x a, .vi b], .x h.d⟩
  | .popc h a => some ⟨aLane, h, [.v a], .v h.d⟩
  | .clz h a => some ⟨aLane, h, [.v a], .v h.d⟩
  | .ctz h a => some ⟨aLane, h, [.v a], .v h.d⟩
  | .brev h a => some ⟨aLane, h, [.v a], .v h.d⟩
  | .bfe h a _ _ _ => some ⟨aLane, h, [.v a], .v h.d⟩
  | .bfi h a b _ _ => some ⟨aLane, h, [.v a, .vi b], .v h.d⟩
  | .bysel h a b _ => some ⟨aLane, h, [.v a, .vi b], .v h.d⟩
  | .icmp h a b _ _ _ => some ⟨aLane, h, [.v a, .vi b], .p h.d⟩
  | .icmp64 h a b _ _ _ => some ⟨aLane, h, [.x a, .xi b], .p h.d⟩
  | .plog h _ _ _ => some ⟨aLane, h, [], .p h.d⟩
  | .mov h a => some ⟨aLane, h, [.v a], .v h.d⟩
  | .mov64 h a => some ⟨aLane, h, [.x a], .x h.d⟩
  | .sel h a b _ _ => some ⟨aLane, h, [.v a, .vi b], .v h.d⟩
  | .p2v h => some ⟨aLane, h, [], .v h.d⟩
  | .v2p h a b => some ⟨aLane, h, [.v a, .vi b], .none⟩
  | .sread h _ b64 => some ⟨{}, h, [], if b64 then .x h.d else .v h.d⟩
  | .swrite h _ b64 a => some ⟨{}, h, [if b64 then .x a else .v a], .none⟩
  | .bra h _ => some ⟨{ walker := true, brk := true }, h, [], .none⟩
  | .brx h a => some ⟨aBrk, h, [.x a], .none⟩
  | .call h _ => some ⟨aBrk, h, [], .x h.d⟩
  | .callx h a => some ⟨aBrk, h, [.x a], .x h.d⟩
  | .ret h a => some ⟨aBrk, h, [.x a], .none⟩
  | .exit h => some ⟨aBrk, h, [], .none⟩
  | .nop h => some ⟨aLane, h, [], .none⟩
  | .yield h => some ⟨{}, h, [], .none⟩
  | .elect h => some ⟨{ brk := true, coll := true }, h, [], .p h.d⟩
  | .wake h => some ⟨aBrk, h, [], .none⟩
  | .cbar h => some ⟨{ brk := true, coll := true }, h, [], .none⟩
  | .wgbar h => some ⟨aBrk, h, [], .none⟩
  | .tilebar h => some ⟨aBrk, h, [], .none⟩
  | .vote h q neg mode => some ⟨{ brk := true, coll := true }, h, [], collDst (.vote h q neg mode)⟩
  | .assert h _ _ a => some ⟨aBrk, h, [.x a], .none⟩
  | .brk h _ => some ⟨aBrk, h, [], .none⟩
  | .trap h _ a => some ⟨aBrk, h, [.v a], .none⟩
  | .sleepuntil h a => some ⟨aBrk, h, [.x a], .none⟩
  | .loopd h a _ => some ⟨aBrk, h, [.v a], .v h.d⟩
  | .launch h a b => some ⟨aBrk, h, [.x a, .x b], .p h.d⟩
  | .fadd h a b _ => some ⟨aFloat, h, [.v a, .v b], .v h.d⟩
  | .fsub h a b _ => some ⟨aFloat, h, [.v a, .v b], .v h.d⟩
  | .fmul h a b _ => some ⟨aFloat, h, [.v a, .v b], .v h.d⟩
  | .ffma h a b c => some ⟨aFloat, h, [.v a, .v b, .v c], .v h.d⟩
  | .fmin h a b _ => some ⟨aFloat, h, [.v a, .v b], .v h.d⟩
  | .fmax h a b _ => some ⟨aFloat, h, [.v a, .v b], .v h.d⟩
  | .fabs h a => some ⟨aFloat, h, [.v a], .v h.d⟩
  | .fneg h a => some ⟨aFloat, h, [.v a], .v h.d⟩
  | .fcmp h a b _ _ => some ⟨aFloat, h, [.v a, .v b], .p h.d⟩
  | .frcp h a _ => some ⟨aFloat, h, [.v a], .v h.d⟩
  | .frsq h a _ => some ⟨aFloat, h, [.v a], .v h.d⟩
  | .fsqrt h a _ => some ⟨aFloat, h, [.v a], .v h.d⟩
  | .fdiv h a b _ => some ⟨aFloat, h, [.v a, .v b], .v h.d⟩
  | .fexp2 h a _ => some ⟨aFloat, h, [.v a], .v h.d⟩
  | .flog2 h a _ => some ⟨aFloat, h, [.v a], .v h.d⟩
  | .fclass h a => some ⟨aFloat, h, [.v a], .v h.d⟩
  | .hadd2 h a b _ _ => some ⟨aFloat, h, [.v a, .v b], .v h.d⟩
  | .hmul2 h a b _ _ => some ⟨aFloat, h, [.v a, .v b], .v h.d⟩
  | .hfma2 h a b _ _ => some ⟨aFloat, h, [.v a, .v b, .reg h.d.toNat 1], .v h.d⟩
  | .hminmax2 h a b _ _ _ => some ⟨aFloat, h, [.v a, .v b], .v h.d⟩
  | .fdot2 h a b _ _ => some ⟨aFloat, h, [.v a, .v b, .reg h.d.toNat 1], .v h.d⟩
  | .cvt h a src dst _ _ => some ⟨aFloat, h, [if src == .s64 then .x a else .v a], if dst == .s64 then .x h.d else .v h.d⟩
  | .packbfp h a bfp4 => some ⟨{ brk := true, coll := true }, h, [.v a], collDst (.packbfp h a bfp4)⟩
  | .unpackbfp h a bfp4 => some ⟨{ brk := true, coll := true }, h, [.v a], collDst (.unpackbfp h a bfp4)⟩
  | .hadam h a h16 => some ⟨{ brk := true, coll := true }, h, [.v a], collDst (.hadam h a h16)⟩
  | .shfl h a b mode lg b64 => some ⟨{ brk := true, coll := true }, h, [if b64 then .x a else .v a, .vi b], collDst (.shfl h a b mode lg b64)⟩
  | .bcast h a t b64 => some ⟨{ brk := true, coll := true }, h, [if b64 then .x a else .v a], collDst (.bcast h a t b64)⟩
  | .redux h a op ty rm => some ⟨{ brk := true, coll := true }, h, [if ty == .s64 then .x a else .v a], collDst (.redux h a op ty rm)⟩
  | .scan h a op ty rm excl => some ⟨{ brk := true, coll := true }, h, [if ty == .s64 then .x a else .v a], collDst (.scan h a op ty rm excl)⟩
  | .matchv h a all b64 => some ⟨{ brk := true, coll := true }, h, [if b64 then .x a else .v a], collDst (.matchv h a all b64)⟩
  | .ld h a b m => some ⟨aLd m, h, [.x a, .vi b], loadDst m.width h.d⟩
  | .st h a b m => some ⟨aMem, h, [.x a, storeOpd m.width b], .none⟩
  | .lda h a b m => some ⟨aMem, h, [.x a, .vi b], loadDst m.width h.d⟩
  | .strel h a b m => some ⟨aMem, h, [.x a, storeOpd m.width b], .none⟩
  | .lds h a b w => some ⟨aMem, h, [.v a, .vi b], loadDst w h.d⟩
  | .sts h a b w _ => some ⟨aMem, h, [storeOpd w a, .vi b], .none⟩
  | .ldx h a b _ _ => some ⟨aMem, h, [.x a, .vi b], .x h.d⟩
  | .prefetch h a b _ _ _ => some ⟨{}, h, [.x a, .vi b], .none⟩
  | .smap h a => some ⟨aMem, h, [.quad a], .v h.d⟩
  | .sunmap h a => some ⟨aMem, h, [.vi a], .none⟩
  | .sflush h a b all => some ⟨aMem, h, flushOps a b all, .none⟩
  | .sinv h a b all => some ⟨aMem, h, flushOps a b all, .none⟩
  | .cctl h a b _ => some ⟨aMem, h, [.x a, .vi b], .none⟩
  | .atom h a b m => some ⟨aMem, h, [.x a, atomOpd (tyWide m.ty) b], atomDst (tyWide m.ty) h.d⟩
  | .cas h a b b64 _ _ => some ⟨aMem, h, [.x a, atomOpd b64 b, .reg h.d.toNat (if b64 then 2 else 1)], atomDst b64 h.d⟩
  | .satom h a b m => some ⟨aMem, h, [.v a, atomOpd (tyWide m.ty) b], atomDst (tyWide m.ty) h.d⟩
  | .red h a b m => some ⟨aMem, h, [.x a, atomOpd (tyWide m.ty) b], .none⟩
  | .fence h _ => some ⟨{}, h, [], .none⟩
  | .opwait h a b => some ⟨aMem, h, [.vi a, .vi b], .none⟩
  | .boadd h a b _ => some ⟨aMem, h, [.x a, .xi b], .none⟩
  | .waitge h a b _ _ _ => some ⟨aMem, h, [.x a, .xi b], .p h.d⟩
  | .pwait h a _ => some ⟨aMem, h, [.x a], .none⟩
  | .rld h a w _ => some ⟨aMem, h, [.rptr a], loadDst w h.d⟩
  | .rst h a b w _ _ => some ⟨aMem, h, [.rptr a, storeOpd w b], .none⟩
  | .ratom h a b _ ty _ _ post => some ⟨aMem, h, [.rptr a, atomOpd (tyWide ty) b], if post then .none else atomDst (tyWide ty) h.d⟩
  | .rcas h a b ty _ => some ⟨aMem, h, [.rptr a, atomOpd (tyWide ty) b, .reg h.d.toNat (if tyWide ty then 2 else 1)], atomDst (tyWide ty) h.d⟩
  | .rboadd h a b _ => some ⟨aMem, h, [.rptr a, .xi b], .none⟩
  | .tkwait h => some ⟨aMem, h, [], .none⟩
  | .tkquery h => some ⟨{}, h, [], .x h.d⟩
  | .topkred h a b _ => some ⟨aMem, h, [.x a, .x b], .none⟩
  | .gang h a _ => some ⟨aTarn, h, [.vi a], .none⟩
  | .mfmt h _ _ => some ⟨aTarn, h, [], .none⟩
  | .dptab h a _ => some ⟨aMem, h, [.x a], .none⟩
  | .mwload h a b coded _ _ => some ⟨aMem, h, if coded then [.x a, .vi b] else [.x a], .none⟩
  | .mma h a b _ _ => some ⟨aTarn, h, [.va a foot, .vi b], .none⟩
  | .mmaw h a b _ _ => some ⟨aTarn, h, [.va a foot, .x b], .none⟩
  | .talloc h a _ _ => some ⟨aTarn, h, [.vi a], .p h.d⟩
  | .tfree h _ => some ⟨aTarn, h, [], .none⟩
  | .town h a b _ => some ⟨aTarn, h, [.x a, .vi b], .none⟩
  | .tzero h a b _ => some ⟨aTarn, h, [.vi a, .vi b], .none⟩
  | .tread h a _ => some ⟨aTarn, h, [.vi a], .v h.d⟩
  | .twrite h a b _ => some ⟨aTarn, h, [.vi a, .vi b], .none⟩
  | .tdrain h a b _ _ _ _ => some ⟨aTarn, h, [.x a, .x b], .none⟩
  | .tstat h _ => some ⟨aTarn, h, [], .x h.d⟩
  | .copy h a b m => some ⟨aMem, h, if m.pb then [.vi a] else [.quad a, .quad b], if m.prom then .x h.d else .none⟩
  | .copyt h a b m => some ⟨aMem, h, if m.pb then [.vi a] else [.quad a, .quad b], if m.prom then .x h.d else .none⟩
  | .cbload h a b => some ⟨aMem, h, [.x a, .vi b], .none⟩
  | .cbcopy h a b m => some ⟨aMem, h, if m.pb then [.vi a] else [.quad a, .quad b], if m.prom then .x h.d else .none⟩
  | .cdec h a b m => some ⟨aMem, h, if m.pb then [.vi a] else [.quad a, .quad b], if m.prom then .x h.d else .none⟩
  | .gather h a b m => some ⟨aMem, h, if m.pb then [.vi a] else [.quad a, .quad b], if m.prom then .x h.d else .none⟩
  | .scatter h a b m => some ⟨aMem, h, if m.pb then [.vi a] else [.quad a, .quad b], if m.prom then .x h.d else .none⟩
  | .zfill h a b m => some ⟨aMem, h, if m.pb then [.vi a] else [.quad a, .quad b], if m.prom then .x h.d else .none⟩
  | .cpq h => some ⟨aMem, h, [], .x h.d⟩
  | .vpublish h a => some ⟨aMem, h, [.x a], .v h.d⟩
  | .vsnap h a => some ⟨aMem, h, [.x a], .v h.d⟩
  | .bquery h a => some ⟨aMem, h, [.vi a], .x h.d⟩
  | .wdist h a _ => some ⟨aWalkBrk, h, [.v a], .v h.d⟩
  | .wheap h a b => some ⟨aWalk, h, [.v a, .vi b], .none⟩
  | .wnbrs h a b m => some ⟨aWalkBrk, h, [.v a, .vi b], .run h.d (m.toNat + 1)⟩
  | .wvisit h a => some ⟨aWalk, h, [.v a], .p h.d⟩
  | .whop h a b node => some ⟨aWalkBrk, h, [if node then .v a else .x a, .vi b], .none⟩
  | .wspawn h b _ => some ⟨aWalk, h, [.vi b], .p h.d⟩
  | .wdone h => some ⟨aWalkBrk, h, [], .none⟩
  | .sret h a b _ pc => some ⟨aSys, h, .v a :: (if pc then [.x b] else []), .p h.d⟩
  | .sysrd h a _ => some ⟨aSys, h, [.vi a], .x h.d⟩
  | .syswr h a b _ => some ⟨aSys, h, [.vi a, .xi b], .none⟩
  | .ctxsave h a b => some ⟨aSys, h, [.vi a, .x b], .none⟩
  | .ctxload h a b => some ⟨aSys, h, [.vi a, .x b], .none⟩
  | .tlbinv h a b mode => some ⟨aSys, h, tlbOps a b mode, .none⟩
  | .preempt h a b => some ⟨aSys, h, [.vi a, .x b], .none⟩
  | .wgkill h a _ => some ⟨aSys, h, [.x a], .none⟩
  | .lease h a _ => some ⟨aSys, h, [.x a], .p h.d⟩
  | .pgmig h a => some ⟨aSys, h, [.x a], .p h.d⟩
  | .tkpost h a _ => some ⟨aSys, h, [.x a], .none⟩
  | .halt h _ => some ⟨aSys, h, [], .none⟩
  | .search h a m => some ⟨aMem, h, [if m.pb then .vi a else .block a], .none⟩
  | .nbscan h a m => some ⟨aMem, h, [if m.pb then .vi a else .block a], .none⟩
  | .nbrowcopy h a m => some ⟨aMem, h, [if m.pb then .vi a else .block a], .none⟩
  | .nbrowzero h a m => some ⟨aMem, h, [if m.pb then .vi a else .block a], .none⟩
  | _ => none

/-- The parts of a word as its meaning issues them: a pair has two, an event none. -/
def partsOf (foot : Nat) : Instr → List Iss
  | .pairWord a b => [halfIss a, halfIss b]
  | i => (issOf foot i).toList

/-- The instruction at a thread's PC, where its line can be fetched now. -/
def State.nextIns (s : State) (t : Nat) : Option Instr :=
  let pc := (s.thr t).r.pc
  match (s.fetchLine (s.asOf t) (some (s.coreOf t)) pc).2 with
  | .ok line =>
    let w := pcWord pc
    match decodeWord (lineWord line w) (lineWord line (w + 1)) with
    | .ok i => some i
    | .format _ => none
  | _ => none

/-- An instruction waits at issue in a thread for a load in flight (R234) or for the rows of a posted joint operation (R279). -/
def State.heldAt (s : State) (t : Nat) (i : Instr) : Bool :=
  let s := { s with cur := .thread t }
  (partsOf (footOf (s.crew (s.crewOf t)).afmt) i).any fun p => s.hazard p || s.holds p

/-- A thread's next instruction is not held. -/
def State.eligibleNow (s : State) (t : Nat) : Bool :=
  (s.loads.isEmpty && s.joints.all fun j => !(j.live && j.posted.isSome)) ||
    match s.nextIns t with
    | some i => !s.heldAt t i
    | none => true

end Sys2Proof.Machine
end

