-- ==== Sys2Proof/Machine/Sched.lean ====
section
/-! DEFINITION. Bundles and their issue (R27 to R29, R33), the clocks (R347, R419), and the model's scheduler of events (log 3): in each
cycle the events that may be due, then at most one issue per quadrant, scalar sequencer and walker. -/

namespace Sys2Proof.Machine

/-! ### Bundles -/

/-- The thread is inside a latch chain (R28, R174). -/
def Thread.inChain (x : Thread) : Bool := x.r.k != 0 || x.r.written != 0

/-- A thread's waiting time (R29): from its last issue or from when it became ready. -/
def State.waited (s : State) (t : Nat) : Nat := s.cyc.toNat - max (s.thr t).lastIssue (s.thr t).readyAt

/-- The threads of a quadrant that may issue there: of crews without a leader (R24, R33). -/
def State.quadReady (s : State) (core quad : Nat) : List Nat :=
  (List.range s.threads.length).filter fun t =>
    s.coreOf t == core && s.quadOf (s.crewOf t) == quad && (s.crew (s.crewOf t)).leader.isNone && s.mayIssue t

/-- The hash entry of a thread's pair (R27): the tag is the launch number's low 8 bits. -/
def State.entryIndex (s : State) (t : Nat) : Nat :=
  let pc := (s.thr t).r.pc
  bits pc 3 8 ^^^ bits pc 11 8 ^^^ ((s.launch (s.launchOf t)).lnum % 256)

/-- Two threads are of one pair: the same launch and PC (R27). -/
def State.samePair (s : State) (t u : Nat) : Bool := s.launchOf t == s.launchOf u && (s.thr t).r.pc == (s.thr u).r.pc

/-- Insert a thread into a list by waiting time, longest first. -/
def State.byWait (s : State) (t : Nat) : List Nat → List Nat
  | [] => [t]
  | u :: r => if s.waited u < s.waited t then t :: u :: r else u :: s.byWait t r

/-- A bundle inside a latch chain (R28). -/
def State.bundleChained (s : State) (b : Bundle) : Bool := b.threads.any fun t => (s.thr t).inChain

/-- A thread is one of a pair that issued before another on its lane, or as early and comes first (R27). -/
def State.lanePrior (s : State) (v u : Nat) : Bool :=
  s.samePair v u && s.laneOf v == s.laneOf u &&
    ((s.thr v).lastIssue < (s.thr u).lastIssue || ((s.thr v).lastIssue == (s.thr u).lastIssue && v < u))

/-- The entry of a thread's pair is held by another pair: of a bundle that keeps its threads, or of a thread that has waited longer
(R27). -/
def State.contested (s : State) (held : List Nat) (t : Nat) : Bool :=
  held.any fun u => s.entryIndex u == s.entryIndex t && !s.samePair u t

/-- The heads of the bundles to be formed, one for each pair that gets its entry: in the order of waiting time (R27). -/
def State.heads (s : State) (kept : List Nat) : List Nat → List Nat → List Nat
  | [], hs => hs
  | t :: r, hs => s.heads kept r (if hs.any (s.samePair t) || s.contested (kept ++ hs) t then hs else hs ++ [t])

/-- A quadrant re-forms its bundles (R27, R28): those inside a chain keep their threads; a thread inside a chain that has left its bundle
gets one of its own (R195); the others are regrouped, one bundle for each entry and at most one thread for each lane. -/
def State.reformQuad (s : State) (core quad : Nat) : State :=
  let mine := fun (b : Bundle) => b.core == core && b.quad == quad
  let kept := (s.bundles.filter fun b => mine b && s.bundleChained b)
  let pool := (s.quadReady core quad).filter fun t => !kept.any fun b => b.threads.contains t
  let own := (pool.filter fun t => (s.thr t).inChain).map fun t => { core := core, quad := quad, threads := [t] : Bundle }
  let free := pool.filter fun t => !(s.thr t).inChain
  let hs := s.heads ((kept ++ own).flatMap (·.threads)) (free.foldr (fun t l => s.byWait t l) []) []
  let new := hs.map fun h =>
    { core := core, quad := quad,
      threads := free.filter fun u => s.samePair h u && !free.any fun v => s.lanePrior v u : Bundle }
  { s with bundles := (s.bundles.filter fun b => !mine b) ++ kept ++ own ++ new }

/-- Threads that have left the ready state have left their bundles (R28). -/
def State.pruneBundles (s : State) : State :=
  { s with bundles := (s.bundles.map fun b => { b with threads := b.threads.filter s.mayIssue }).filter fun b => b.threads != [] }

/-- PERIODIC_REFORM (R28): on cycles with CYC mod 8 = 0. -/
def execPeriodicReform (core quad : Nat) (s : State) : Host.Outcome State Fault Refusal :=
  .next (if bits s.cyc 0 3 = 0 then s.reformQuad core quad else s)

/-- The longest waiting time among a bundle's threads (R29). -/
def State.bundleWait (s : State) (b : Bundle) : Nat := (b.threads.map s.waited).foldl max 0

/-- BUNDLE_URGENT (R29): the n-th bundle of the quadrant has waited 32 cycles. -/
def execBundleUrgent (core quad b : Nat) (s : State) : Host.Outcome State Fault Refusal :=
  match (s.bundles.filter fun x => x.core == core && x.quad == quad)[b]? with
  | some x =>
    if 32 ≤ s.bundleWait x then .next { s with bundles := s.bundles.map fun y => if y = x then { y with urgent := true } else y }
    else .next s
  | none => .next s

/-- A bundle's place in the order of R29, smallest first: urgent by waiting time, then priority, YIELD, and last issue. The
priority of a bundle with threads of several workgroups is the highest of theirs (log 61). -/
def State.bundleRank (s : State) (b : Bundle) : List Nat :=
  let p := ((b.threads.map fun t => (s.wg (s.wgOf t)).prio)).foldl max 0
  let last := match b.threads.map fun t => (s.thr t).lastIssue with | [] => 0 | x :: r => r.foldl min x
  if b.urgent then [0, 2 ^ 64 - s.bundleWait b] else [1, 7 - p, b.yielded.toNat, last]

/-- Lexicographic order. -/
def lexLt : List Nat → List Nat → Bool
  | a :: x, b :: y => a < b || (a == b && lexLt x y)
  | [], _ :: _ => true
  | _, [] => false

/-- The first of a list by rank. -/
def pickBest (f : Bundle → List Nat) : List Bundle → Option Bundle
  | [] => none
  | b :: r => match pickBest f r with
    | some c => if lexLt (f c) (f b) then some c else some b
    | none => some b

/-- Insert by lane. -/
def State.byLane (s : State) (t : Nat) : List Nat → List Nat
  | [] => [t]
  | u :: r => if s.laneOf t < s.laneOf u then t :: u :: r else u :: s.byLane t r

/-- A thread of a bundle may take part in its issue: it may issue in a quadrant and stands at the bundle's PC. -/
def State.inBundle (s : State) (head t : Nat) : Bool :=
  s.mayIssue t && (s.crew (s.crewOf t)).leader.isNone && (s.thr t).r.pc == (s.thr head).r.pc

/-- A bundle with the threads that take part in its issue. -/
def State.issuing (s : State) (b : Bundle) : Bundle :=
  match b.threads.find? fun t => s.mayIssue t && (s.crew (s.crewOf t)).leader.isNone with
  | some h => { b with threads := b.threads.filter (s.inBundle h) }
  | none => { b with threads := [] }

/-- A bundle may issue: none of its threads is held, and none has stalled in this cycle (R29, R234). -/
def State.canIssue (s : State) (b : Bundle) : Bool :=
  b.threads != [] && b.threads.all fun t => (s.thr t).stalled != s.cyc.toNat + 1 && s.eligibleNow t

/-- A quadrant issues one bundle whole, in lane order (R28, R29, R234). -/
def State.issueQuad (s : State) (core quad : Nat) : State :=
  let cands := ((s.bundles.filter fun b => b.core == core && b.quad == quad).map s.issuing).filter s.canIssue
  match pickBest s.bundleRank cands with
  | none => s
  | some b =>
    let t := b.threads.headD 0
    let s : State :=
      { s with bundles := s.bundles.map fun y => if y.threads.contains t then { y with urgent := false, yielded := false } else y }
    { s with issue := { agents := (b.threads.foldr s.byLane []).map .thread } }

/-- The scalar sequencer issues one leader's instruction, round-robin over the core's crews whose leader's next instruction is ready
(R33). -/
def State.issueLeader (s : State) (core : Nat) : State :=
  let leaders := (List.range s.crews.length).filterMap fun c =>
    match (s.crew c).leader with
    | some n =>
      let t := (s.crew c).base + n
      if s.coreOf t == core && s.mayIssue t && (s.thr t).stalled != s.cyc.toNat + 1 && s.eligibleNow t then some (c, t) else none
    | none => none
  let turn := (s.core core).seqTurn
  match (leaders.find? fun x => turn < x.1) <|> leaders.head? with
  | some (c, t) => { s.updCore core fun x => { x with seqTurn := c } with issue := { agents := [.thread t] } }
  | none => s

/-- The turn of a quadrant (0 to 3), of a scalar sequencer (4), or of a walker (5); a workgroup that an event of the cycle woke is blocked no
more (R39). -/
def State.take (s : State) (q : Nat × Nat) : State :=
  let s := s.noteBlocked
  if q.2 < 4 then s.issueQuad q.1 q.2
  else if q.2 = 4 then s.issueLeader q.1
  else if (s.wlk q.1).phase == .running then { s with issue := { agents := [.walker q.1] } }
  else s

/-! ### Returning data -/

/-- A thread that the returning load held becomes able to issue now (R29, R234). -/
def State.released (s : State) (t : Nat) (was : Bool) : State :=
  if !was && s.eligibleNow t then s.updThr t fun x => { x with readyAt := s.cyc.toNat } else s

/-- DATA_RETURN (R234, R406): the destination is written, or POISON is pending. -/
def execDataReturn (load : Nat) (s : State) : Host.Outcome State Fault Refusal :=
  match s.loads[load]? with
  | none => .next s
  | some l =>
    let was := s.eligibleNow l.thread
    let s := { s with loads := s.loads.eraseIdx load }
    match l.walker with
    | some w =>
      if (s.wlk w).phase == .done then .next s
      else .next (s.updWlk w fun x => { x with r := x.r.setVals l.d l.vals })
    | none =>
      match l.poison with
      | some a => .next (s.asyncTrap l.thread { cause := .poison, addr := a, aux := BitVec.ofNat 64 l.d } l.pc)
      | none =>
        if s.hasExited l.thread then .next s
        else .next ((s.updThr l.thread fun x => { x with r := x.r.setVals l.d l.vals }).released l.thread was)

/-! ### Clocks -/

/-- PHC in one cycle of 0.8 ns with its rate trim of units of 2^−40 (R419, R423): fractions of 1 / (5 · 2^40) ns. -/
def Links.phcTick (l : Links) : Links :=
  let unit := 5 * 2 ^ 40
  let n : Int := (l.phcFrac : Int) + 4 * 2 ^ 40 + 4 * l.phcRate.toInt
  { l.phcMove (n / unit) with phcFrac := (n % unit).toNat }

/-- One cycle passes: CYC, PHC, and VTIM of the crews that run (R347, R419, R424). -/
def State.clock (s : State) : State :=
  { s with
    cyc := s.cyc + 1, links := s.links.phcTick,
    crews := (List.range s.crews.length).map fun c =>
      if s.crewRuns c then { s.crew c with vtim := (s.crew c).vtim + 1 }
      else s.crew c }

/-! ### Events that may be due; each tests its own condition -/

/-- Indices of a list. -/
def idx {α : Type} (l : List α) : List Nat := List.range l.length

/-- Cores that hold workgroups. -/
def State.busyCores (s : State) : List Nat := (s.wgs.map (·.core)).dedup

def State.dueThreads (s : State) : List Instr :=
  (idx s.crews).map Instr.timer ++ s.loads.map (fun _ => Instr.dataReturn 0) ++ s.posted.map (fun _ => Instr.writePerformed 0) ++
  (idx s.threads).flatMap fun t =>
    match (s.thr t).st with
    | .waiting (.waitge _ _ dl _ _) => Instr.waitgeReread t :: (if dl.isSome then [Instr.waitgeDeadline t] else [])
    | .waiting (.sleep _) => [Instr.sleepuntilDeadline t]
    | .waiting (.pwait _ _ _) => [Instr.promiseMissed t]
    | .fetchSuspended _ => [Instr.translationCheckDone t]
    | .ready => if (s.thr t).async = [] then [] else [Instr.asyncTrapDelivery t]
    | _ => []

def State.dueBundles (s : State) : List Instr :=
  s.busyCores.flatMap fun c => (List.range 4).flatMap fun q =>
    (if bits s.cyc 0 3 = 0 then [Instr.periodicReform c q] else []) ++
    (List.range (max (s.bundles.filter fun b => b.core == c && b.quad == q).length
      (if bits s.cyc 0 3 = 0 then (s.quadReady c q).length else 0))).map fun b => Instr.bundleUrgent c q b

def State.dueCores (s : State) : List Instr :=
  (s.cores.flatMap fun e =>
    e.2.slots.filterMap (fun x => if x.2.held.isSome && !x.2.written then some (Instr.trapRecordWrite e.1 x.1) else none) ++
    e.2.clearing.map (Instr.tarnBankCleared e.1) ++
    (e.2.allocs.filter fun a => a.freeing.isSome || a.killed).map (fun a => Instr.tarnRelease e.1 a.base) ++
    (if e.2.carve = [] then [] else [Instr.carveWaitExpiry e.1, Instr.carveChange e.1])) ++
  (idx s.wgs).map Instr.workgroupExit ++ (idx s.wgs).map Instr.activationBlock ++
  s.busyCores.flatMap fun c => [Instr.workgroupPark c, Instr.forcedPark c, Instr.workgroupActivation c]

def State.dueLaunches (s : State) : List Instr :=
  (s.parts.flatMap fun e =>
    (if e.2.svc = [] then [] else [Instr.serviceRecordWrite e.1]) ++
    (if e.2.appends = [] then [] else [Instr.launchRecordTake e.1 0]) ++
    (e.2.lqs.filter fun q => q.2.en && (q.1 != 0 || e.2.appends = [])).map (fun q => Instr.launchRecordTake e.1 q.1) ++
    e.2.ctxs.flatMap fun x =>
      (if x.2.bos != [] && x.2.phase != 2 then [Instr.contextStopped e.1 (BitVec.ofNat 16 x.1)] else []) ++
      match x.2.phase with
      | 2 => [Instr.contextStopped e.1 (BitVec.ofNat 16 x.1)]
      | 4 => [Instr.ctxsaveComplete e.1 (BitVec.ofNat 16 x.1)]
      | 5 => [Instr.ctxloadRestore e.1 (BitVec.ofNat 16 x.1)]
      | _ => []) ++
  (idx s.launches).flatMap fun l =>
    if (s.launch l).state ≤ 2 then
      [Instr.dependenceRetest l, Instr.leaseRetry l, Instr.workgroupDistribution l, Instr.launchComplete l]
    else []

def State.dueOps (s : State) : List Instr :=
  ((idx s.ops).filter fun o => (s.ops[o]?.map (·.live)).getD false).flatMap (fun o =>
    [Instr.engineOperationStart o, Instr.engineOperationComplete o, Instr.tdrainComplete o, Instr.engineOperationHeld o]) ++
  ((idx s.joints).filter fun j => (s.joints[j]?.map (·.live)).getD false).flatMap (fun j =>
    [Instr.jointOperationPost j, Instr.entryAged j]) ++
  (idx s.tiles).flatMap (fun t => [Instr.tileLatch t, Instr.tileFetchHeld t]) ++
  (s.busyCores.map clusterId).dedup.flatMap fun c => [Instr.passComplete c, Instr.passGrant c]

def State.dueBasin (s : State) : List Instr :=
  ((idx s.cmds).filter fun c => (s.cmds[c]?.map (·.live)).getD false).flatMap (fun c =>
    [Instr.searchForward c, Instr.basinCommandStart c, Instr.heapOffer c, Instr.basinCommandTimeout c, Instr.basinCommandComplete c]) ++
  (idx s.walkers).flatMap fun w =>
    match (s.wlk w).phase with
    | .starting => [Instr.walkerChildStart w]
    | .hopping _ => [Instr.walkerHopArrival w]
    | .resuming => [Instr.walkerHopArrival w]
    | _ => []

def State.dueFabric (s : State) : List Instr :=
  ((idx s.racc).filter fun i => match s.racc[i]? with
    | some a => a.live && a.sent && s.fabricLost i a
    | none => false).map Instr.fabricError ++
  s.fabric.map fun
    | .request p => Instr.remoteAccessArrival p
    | .reply acc out => Instr.remoteReply acc out
    | .ticket acc tkid => Instr.ticketReceived acc tkid
    | .abort acc tkid => Instr.ticketAbort acc tkid
    | .notice owner tkid => Instr.replayNotice owner tkid
    | .ack tkid => Instr.abortAcknowledgement tkid
    | .release src acc => Instr.replayRecordRelease src acc
    | .contrib k => Instr.topkredContribution k

/-- The round boundaries, every 640 ns, of the channels for which one changes something (R400, R401). -/
def State.dueRounds (s : State) : List Instr :=
  if s.cyc.toNat % 800 = 0 then
    let hold := s.holders
    (List.range 12).flatMap fun i =>
      let k := s.stk i
      (List.range 32).filterMap fun c =>
        if (k.pending.get c).isSome || k.slotNo.get c != 0 || k.noDonate.get c != hold then some (Instr.slotRoundBoundary i c) else none
  else []

def State.dueRest (s : State) : List Instr :=
  (idx s.tlbinvs).filterMap (fun i => if (s.tlbinvs[i]?.map (·.live)).getD false then some (Instr.invalidationAcknowledged i) else none) ++
  (idx s.migs).filterMap (fun i => if (s.migs[i]?.map (·.live)).getD false then some (Instr.migrationSwitchEnd i) else none) ++
  (if s.hk.succ.isSome then [Instr.handoverLapse] else []) ++ (if s.hk.armed then [Instr.firmwareSwitch] else []) ++ s.dueRounds ++
  ((s.links.egress.filter (·.stalled s.cyc.toNat)).map fun e => Instr.escapeChannelMove e.pkt) ++ s.links.msixPend.map Instr.msixSignal ++
  (if s.patrolDue then [Instr.patrolScrub (s.patrol / 2 ^ 30) (s.patrol % 2 ^ 30)] else [])

/-- Everything that may be due in a cycle. -/
def State.due (s : State) : List Instr :=
  s.dueThreads ++ s.dueFabric ++ s.dueOps ++ s.dueBasin ++ s.dueRest ++ s.dueCores ++ s.dueLaunches ++ s.dueBundles

/-- The turns of a cycle: each busy core's scalar sequencer and quadrants, and each running walker. -/
def State.turns (s : State) : List (Nat × Nat) :=
  s.busyCores.flatMap (fun c => [(c, 4), (c, 0), (c, 1), (c, 2), (c, 3)]) ++
  ((idx s.walkers).filter fun w => (s.wlk w).phase == .running).map fun w => (w, 5)

/-- A cycle begins: what its turns blocked is dated in the cycle that ends (R39), then the clocks, the writes that wait at the ports, the re-forming asked for by breakers of the cycle before (R28), the events and the turns. -/
def State.tick (s : State) : State :=
  let s := s.noteBlocked.clock.portRetry.pruneBundles
  let s := if s.racc.any fun a => a.live && !a.sent && a.contrib.isSome then s.pump else s
  let s := s.reform.foldl (fun s q => s.reformQuad q.1 q.2) s
  { s with reform := [], agenda := s.due, turn := s.turns }

end Sys2Proof.Machine
end

