-- ==== Sys2Proof/Machine/Dispatch.lean ====
section
/-! DEFINITION. One arm per constructor of Instr: the meaning of that instruction or event. -/

namespace Sys2Proof.Machine

def exec (i : Instr) (s : State) : Host.Outcome State Fault Refusal :=
  match i with
  | .iadd h a b => Sys2Proof.Machine.execIadd h a b s
  | .isub h a b => Sys2Proof.Machine.execIsub h a b s
  | .imul h a b => Sys2Proof.Machine.execImul h a b s
  | .imulh h a b u => Sys2Proof.Machine.execImulh h a b u s
  | .imad h a b c => Sys2Proof.Machine.execImad h a b c s
  | .idiv h a b u => Sys2Proof.Machine.execIdiv h a b u s
  | .irem h a b u => Sys2Proof.Machine.execIrem h a b u s
  | .imin h a b u => Sys2Proof.Machine.execImin h a b u s
  | .imax h a b u => Sys2Proof.Machine.execImax h a b u s
  | .iabs h a => Sys2Proof.Machine.execIabs h a s
  | .ineg h a => Sys2Proof.Machine.execIneg h a s
  | .iaddsat h a b u => Sys2Proof.Machine.execIaddsat h a b u s
  | .isubsat h a b u => Sys2Proof.Machine.execIsubsat h a b u s
  | .isad h a b u => Sys2Proof.Machine.execIsad h a b u s
  | .idot4 h a b ua ub => Sys2Proof.Machine.execIdot4 h a b ua ub s
  | .iadd64 h a b => Sys2Proof.Machine.execIadd64 h a b s
  | .isub64 h a b => Sys2Proof.Machine.execIsub64 h a b s
  | .imul64 h a b => Sys2Proof.Machine.execImul64 h a b s
  | .imad64 h a b c => Sys2Proof.Machine.execImad64 h a b c s
  | .lea h a b sh u disp => Sys2Proof.Machine.execLea h a b sh u disp s
  | .movi h x => Sys2Proof.Machine.execMovi h x s
  | .movi64 h x => Sys2Proof.Machine.execMovi64 h x s
  | .and h a b => Sys2Proof.Machine.execAnd h a b s
  | .or h a b => Sys2Proof.Machine.execOr h a b s
  | .xor h a b => Sys2Proof.Machine.execXor h a b s
  | .not h a => Sys2Proof.Machine.execNot h a s
  | .andn h a b => Sys2Proof.Machine.execAndn h a b s
  | .shl h a b => Sys2Proof.Machine.execShl h a b s
  | .shr h a b => Sys2Proof.Machine.execShr h a b s
  | .sar h a b => Sys2Proof.Machine.execSar h a b s
  | .rot h a b r => Sys2Proof.Machine.execRot h a b r s
  | .shl64 h a b => Sys2Proof.Machine.execShl64 h a b s
  | .shr64 h a b => Sys2Proof.Machine.execShr64 h a b s
  | .sar64 h a b => Sys2Proof.Machine.execSar64 h a b s
  | .popc h a => Sys2Proof.Machine.execPopc h a s
  | .clz h a => Sys2Proof.Machine.execClz h a s
  | .ctz h a => Sys2Proof.Machine.execCtz h a s
  | .brev h a => Sys2Proof.Machine.execBrev h a s
  | .bfe h a pos len sgn => Sys2Proof.Machine.execBfe h a pos len sgn s
  | .bfi h a b pos len => Sys2Proof.Machine.execBfi h a b pos len s
  | .bysel h a b sel => Sys2Proof.Machine.execBysel h a b sel s
  | .icmp h a b cond u comb => Sys2Proof.Machine.execIcmp h a b cond u comb s
  | .icmp64 h a b cond u comb => Sys2Proof.Machine.execIcmp64 h a b cond u comb s
  | .plog h pa pb lut => Sys2Proof.Machine.execPlog h pa pb lut s
  | .mov h a => Sys2Proof.Machine.execMov h a s
  | .mov64 h a => Sys2Proof.Machine.execMov64 h a s
  | .sel h a b q neg => Sys2Proof.Machine.execSel h a b q neg s
  | .p2v h => Sys2Proof.Machine.execP2v h s
  | .v2p h a b => Sys2Proof.Machine.execV2p h a b s
  | .sread h r b64 => Sys2Proof.Machine.execSread h r b64 s
  | .swrite h r b64 a => Sys2Proof.Machine.execSwrite h r b64 a s
  | .bra h t => Sys2Proof.Machine.execBra h t s
  | .brx h a => Sys2Proof.Machine.execBrx h a s
  | .call h t => Sys2Proof.Machine.execCall h t s
  | .callx h a => Sys2Proof.Machine.execCallx h a s
  | .ret h a => Sys2Proof.Machine.execRet h a s
  | .exit h => Sys2Proof.Machine.execExit h s
  | .nop h => Sys2Proof.Machine.execNop h s
  | .yield h => Sys2Proof.Machine.execYield h s
  | .elect h => Sys2Proof.Machine.execElect h s
  | .wake h => Sys2Proof.Machine.execWake h s
  | .cbar h => Sys2Proof.Machine.execCbar h s
  | .wgbar h => Sys2Proof.Machine.execWgbar h s
  | .tilebar h => Sys2Proof.Machine.execTilebar h s
  | .vote h q neg mode => Sys2Proof.Machine.execVote h q neg mode s
  | .assert h q neg a => Sys2Proof.Machine.execAssert h q neg a s
  | .brk h code => Sys2Proof.Machine.execBrk h code s
  | .trap h code a => Sys2Proof.Machine.execTrap h code a s
  | .sleepuntil h a => Sys2Proof.Machine.execSleepuntil h a s
  | .loopd h a t => Sys2Proof.Machine.execLoopd h a t s
  | .launch h a b => Sys2Proof.Machine.execLaunch h a b s
  | .fadd h a b rm => Sys2Proof.Machine.execFadd h a b rm s
  | .fsub h a b rm => Sys2Proof.Machine.execFsub h a b rm s
  | .fmul h a b rm => Sys2Proof.Machine.execFmul h a b rm s
  | .ffma h a b c => Sys2Proof.Machine.execFfma h a b c s
  | .fmin h a b nanp => Sys2Proof.Machine.execFmin h a b nanp s
  | .fmax h a b nanp => Sys2Proof.Machine.execFmax h a b nanp s
  | .fabs h a => Sys2Proof.Machine.execFabs h a s
  | .fneg h a => Sys2Proof.Machine.execFneg h a s
  | .fcmp h a b cond comb => Sys2Proof.Machine.execFcmp h a b cond comb s
  | .frcp h a rm => Sys2Proof.Machine.execFrcp h a rm s
  | .frsq h a rm => Sys2Proof.Machine.execFrsq h a rm s
  | .fsqrt h a rm => Sys2Proof.Machine.execFsqrt h a rm s
  | .fdiv h a b rm => Sys2Proof.Machine.execFdiv h a b rm s
  | .fexp2 h a rm => Sys2Proof.Machine.execFexp2 h a rm s
  | .flog2 h a rm => Sys2Proof.Machine.execFlog2 h a rm s
  | .fclass h a => Sys2Proof.Machine.execFclass h a s
  | .hadd2 h a b f16 rm => Sys2Proof.Machine.execHadd2 h a b f16 rm s
  | .hmul2 h a b f16 rm => Sys2Proof.Machine.execHmul2 h a b f16 rm s
  | .hfma2 h a b f16 rm => Sys2Proof.Machine.execHfma2 h a b f16 rm s
  | .hminmax2 h a b f16 max nanp => Sys2Proof.Machine.execHminmax2 h a b f16 max nanp s
  | .fdot2 h a b f16 rm => Sys2Proof.Machine.execFdot2 h a b f16 rm s
  | .cvt h a src dst rm sat => Sys2Proof.Machine.execCvt h a src dst rm sat s
  | .packbfp h a bfp4 => Sys2Proof.Machine.execPackbfp h a bfp4 s
  | .unpackbfp h a bfp4 => Sys2Proof.Machine.execUnpackbfp h a bfp4 s
  | .hadam h a h16 => Sys2Proof.Machine.execHadam h a h16 s
  | .shfl h a b mode lg b64 => Sys2Proof.Machine.execShfl h a b mode lg b64 s
  | .bcast h a t b64 => Sys2Proof.Machine.execBcast h a t b64 s
  | .redux h a op ty rm => Sys2Proof.Machine.execRedux h a op ty rm s
  | .scan h a op ty rm excl => Sys2Proof.Machine.execScan h a op ty rm excl s
  | .matchv h a all b64 => Sys2Proof.Machine.execMatchv h a all b64 s
  | .ld h a b m => Sys2Proof.Machine.execLd h a b m s
  | .st h a b m => Sys2Proof.Machine.execSt h a b m s
  | .lda h a b m => Sys2Proof.Machine.execLda h a b m s
  | .strel h a b m => Sys2Proof.Machine.execStrel h a b m s
  | .lds h a b w => Sys2Proof.Machine.execLds h a b w s
  | .sts h a b w off => Sys2Proof.Machine.execSts h a b w off s
  | .ldx h a b sn bfp4 => Sys2Proof.Machine.execLdx h a b sn bfp4 s
  | .prefetch h a b l2 n1 ext => Sys2Proof.Machine.execPrefetch h a b l2 n1 ext s
  | .smap h a => Sys2Proof.Machine.execSmap h a s
  | .sunmap h a => Sys2Proof.Machine.execSunmap h a s
  | .sflush h a b all => Sys2Proof.Machine.execSflush h a b all s
  | .sinv h a b all => Sys2Proof.Machine.execSinv h a b all s
  | .cctl h a b op => Sys2Proof.Machine.execCctl h a b op s
  | .atom h a b m => Sys2Proof.Machine.execAtom h a b m s
  | .cas h a b b64 order scope => Sys2Proof.Machine.execCas h a b b64 order scope s
  | .satom h a b m => Sys2Proof.Machine.execSatom h a b m s
  | .red h a b m => Sys2Proof.Machine.execRed h a b m s
  | .fence h scope => Sys2Proof.Machine.execFence h scope s
  | .opwait h a b => Sys2Proof.Machine.execOpwait h a b s
  | .boadd h a b scope => Sys2Proof.Machine.execBoadd h a b scope s
  | .waitge h a b scope dl n => Sys2Proof.Machine.execWaitge h a b scope dl n s
  | .pwait h a exact => Sys2Proof.Machine.execPwait h a exact s
  | .rld h a w acq => Sys2Proof.Machine.execRld h a w acq s
  | .rst h a b w rel stream => Sys2Proof.Machine.execRst h a b w rel stream s
  | .ratom h a b op ty order stream post => Sys2Proof.Machine.execRatom h a b op ty order stream post s
  | .rcas h a b ty order => Sys2Proof.Machine.execRcas h a b ty order s
  | .rboadd h a b stream => Sys2Proof.Machine.execRboadd h a b stream s
  | .tkwait h => Sys2Proof.Machine.execTkwait h s
  | .tkquery h => Sys2Proof.Machine.execTkquery h s
  | .topkred h a b stream => Sys2Proof.Machine.execTopkred h a b stream s
  | .gang h a n => Sys2Proof.Machine.execGang h a n s
  | .mfmt h afmt op => Sys2Proof.Machine.execMfmt h afmt op s
  | .dptab h a k => Sys2Proof.Machine.execDptab h a k s
  | .mwload h a b coded bfmt stream => Sys2Proof.Machine.execMwload h a b coded bfmt stream s
  | .mma h a b k ovr => Sys2Proof.Machine.execMma h a b k ovr s
  | .mmaw h a b k ovr => Sys2Proof.Machine.execMmaw h a b k ovr s
  | .talloc h a k s32 => Sys2Proof.Machine.execTalloc h a k s32 s
  | .tfree h k => Sys2Proof.Machine.execTfree h k s
  | .town h a b k => Sys2Proof.Machine.execTown h a b k s
  | .tzero h a b k => Sys2Proof.Machine.execTzero h a b k s
  | .tread h a k => Sys2Proof.Machine.execTread h a k s
  | .twrite h a b k => Sys2Proof.Machine.execTwrite h a b k s
  | .tdrain h a b k fmt tr clr => Sys2Proof.Machine.execTdrain h a b k fmt tr clr s
  | .tstat h k => Sys2Proof.Machine.execTstat h k s
  | .copy h a b m => Sys2Proof.Machine.execCopy h a b m s
  | .copyt h a b m => Sys2Proof.Machine.execCopyt h a b m s
  | .cbload h a b => Sys2Proof.Machine.execCbload h a b s
  | .cbcopy h a b m => Sys2Proof.Machine.execCbcopy h a b m s
  | .cdec h a b m => Sys2Proof.Machine.execCdec h a b m s
  | .gather h a b m => Sys2Proof.Machine.execGather h a b m s
  | .scatter h a b m => Sys2Proof.Machine.execScatter h a b m s
  | .zfill h a b m => Sys2Proof.Machine.execZfill h a b m s
  | .cpq h => Sys2Proof.Machine.execCpq h s
  | .search h a m => Sys2Proof.Machine.execSearch h a m s
  | .nbscan h a m => Sys2Proof.Machine.execNbscan h a m s
  | .nbrowcopy h a m => Sys2Proof.Machine.execNbrowcopy h a m s
  | .nbrowzero h a m => Sys2Proof.Machine.execNbrowzero h a m s
  | .vpublish h a => Sys2Proof.Machine.execVpublish h a s
  | .vsnap h a => Sys2Proof.Machine.execVsnap h a s
  | .bquery h a => Sys2Proof.Machine.execBquery h a s
  | .wdist h a q => Sys2Proof.Machine.execWdist h a q s
  | .wheap h a b => Sys2Proof.Machine.execWheap h a b s
  | .wnbrs h a b m => Sys2Proof.Machine.execWnbrs h a b m s
  | .wvisit h a => Sys2Proof.Machine.execWvisit h a s
  | .whop h a b node => Sys2Proof.Machine.execWhop h a b node s
  | .wspawn h b off => Sys2Proof.Machine.execWspawn h b off s
  | .wdone h => Sys2Proof.Machine.execWdone h s
  | .sret h a b act pc => Sys2Proof.Machine.execSret h a b act pc s
  | .sysrd h a reg => Sys2Proof.Machine.execSysrd h a reg s
  | .syswr h a b reg => Sys2Proof.Machine.execSyswr h a b reg s
  | .ctxsave h a b => Sys2Proof.Machine.execCtxsave h a b s
  | .ctxload h a b => Sys2Proof.Machine.execCtxload h a b s
  | .tlbinv h a b mode => Sys2Proof.Machine.execTlbinv h a b mode s
  | .preempt h a b => Sys2Proof.Machine.execPreempt h a b s
  | .wgkill h a scope => Sys2Proof.Machine.execWgkill h a scope s
  | .lease h a rel => Sys2Proof.Machine.execLease h a rel s
  | .pgmig h a => Sys2Proof.Machine.execPgmig h a s
  | .tkpost h a abort => Sys2Proof.Machine.execTkpost h a abort s
  | .halt h code => Sys2Proof.Machine.execHalt h code s
  | .pairWord ha hb => Sys2Proof.Machine.execPairWord ha hb s
  | .unassignedOpcode w half => Sys2Proof.Machine.execUnassignedOpcode w half s
  | .periodicReform core quad => Sys2Proof.Machine.execPeriodicReform core quad s
  | .bundleUrgent core quad b => Sys2Proof.Machine.execBundleUrgent core quad b s
  | .timer crew => Sys2Proof.Machine.execTimer crew s
  | .waitgeReread thread => Sys2Proof.Machine.execWaitgeReread thread s
  | .waitgeDeadline thread => Sys2Proof.Machine.execWaitgeDeadline thread s
  | .sleepuntilDeadline thread => Sys2Proof.Machine.execSleepuntilDeadline thread s
  | .promiseMissed thread => Sys2Proof.Machine.execPromiseMissed thread s
  | .asyncTrapDelivery thread => Sys2Proof.Machine.execAsyncTrapDelivery thread s
  | .trapRecordWrite core slot => Sys2Proof.Machine.execTrapRecordWrite core slot s
  | .serviceRecordWrite part => Sys2Proof.Machine.execServiceRecordWrite part s
  | .launchRecordTake part q => Sys2Proof.Machine.execLaunchRecordTake part q s
  | .dependenceRetest launch => Sys2Proof.Machine.execDependenceRetest launch s
  | .leaseRetry launch => Sys2Proof.Machine.execLeaseRetry launch s
  | .workgroupDistribution launch => Sys2Proof.Machine.execWorkgroupDistribution launch s
  | .workgroupActivation core => Sys2Proof.Machine.execWorkgroupActivation core s
  | .workgroupPark core => Sys2Proof.Machine.execWorkgroupPark core s
  | .forcedPark core => Sys2Proof.Machine.execForcedPark core s
  | .activationBlock wg => Sys2Proof.Machine.execActivationBlock wg s
  | .carveWaitExpiry core => Sys2Proof.Machine.execCarveWaitExpiry core s
  | .carveChange core => Sys2Proof.Machine.execCarveChange core s
  | .workgroupExit wg => Sys2Proof.Machine.execWorkgroupExit wg s
  | .launchComplete launch => Sys2Proof.Machine.execLaunchComplete launch s
  | .engineOperationStart op => Sys2Proof.Machine.execEngineOperationStart op s
  | .engineOperationComplete op => Sys2Proof.Machine.execEngineOperationComplete op s
  | .engineOperationHeld op => Sys2Proof.Machine.execEngineOperationHeld op s
  | .jointOperationPost joint => Sys2Proof.Machine.execJointOperationPost joint s
  | .entryAged joint => Sys2Proof.Machine.execEntryAged joint s
  | .passGrant cluster => Sys2Proof.Machine.execPassGrant cluster s
  | .passComplete cluster => Sys2Proof.Machine.execPassComplete cluster s
  | .tileLatch tile => Sys2Proof.Machine.execTileLatch tile s
  | .tileFetchHeld tile => Sys2Proof.Machine.execTileFetchHeld tile s
  | .tdrainComplete op => Sys2Proof.Machine.execTdrainComplete op s
  | .tarnBankCleared core bank => Sys2Proof.Machine.execTarnBankCleared core bank s
  | .tarnRelease core base => Sys2Proof.Machine.execTarnRelease core base s
  | .basinCommandStart cmd => Sys2Proof.Machine.execBasinCommandStart cmd s
  | .searchForward cmd => Sys2Proof.Machine.execSearchForward cmd s
  | .walkerHopArrival walker => Sys2Proof.Machine.execWalkerHopArrival walker s
  | .walkerChildStart walker => Sys2Proof.Machine.execWalkerChildStart walker s
  | .heapOffer cmd => Sys2Proof.Machine.execHeapOffer cmd s
  | .basinCommandComplete cmd => Sys2Proof.Machine.execBasinCommandComplete cmd s
  | .basinCommandTimeout cmd => Sys2Proof.Machine.execBasinCommandTimeout cmd s
  | .remoteAccessArrival pkt => Sys2Proof.Machine.execRemoteAccessArrival pkt s
  | .remoteReply acc out => Sys2Proof.Machine.execRemoteReply acc out s
  | .ticketReceived acc tkid => Sys2Proof.Machine.execTicketReceived acc tkid s
  | .replayNotice owner tkid => Sys2Proof.Machine.execReplayNotice owner tkid s
  | .ticketAbort acc tkid => Sys2Proof.Machine.execTicketAbort acc tkid s
  | .replayRecordRelease src acc => Sys2Proof.Machine.execReplayRecordRelease src acc s
  | .abortAcknowledgement tkid => Sys2Proof.Machine.execAbortAcknowledgement tkid s
  | .topkredContribution k => Sys2Proof.Machine.execTopkredContribution k s
  | .contextStopped part ctx => Sys2Proof.Machine.execContextStopped part ctx s
  | .ctxsaveComplete part ctx => Sys2Proof.Machine.execCtxsaveComplete part ctx s
  | .ctxloadRestore part ctx => Sys2Proof.Machine.execCtxloadRestore part ctx s
  | .handoverLapse => Sys2Proof.Machine.execHandoverLapse s
  | .firmwareSwitch => Sys2Proof.Machine.execFirmwareSwitch s
  | .slotRoundBoundary stack chan => Sys2Proof.Machine.execSlotRoundBoundary stack chan s
  | .dataReturn load => Sys2Proof.Machine.execDataReturn load s
  | .translationCheckDone thread => Sys2Proof.Machine.execTranslationCheckDone thread s
  | .writePerformed w => Sys2Proof.Machine.execWritePerformed w s
  | .invalidationAcknowledged inv => Sys2Proof.Machine.execInvalidationAcknowledged inv s
  | .migrationSwitchEnd mig => Sys2Proof.Machine.execMigrationSwitchEnd mig s
  | .twinWrite part val => Sys2Proof.Machine.execTwinWrite part val s
  | .trapWindowWrite part reg idx val => Sys2Proof.Machine.execTrapWindowWrite part reg idx val s
  | .xlockCfgWrite part val => Sys2Proof.Machine.execXlockCfgWrite part val s
  | .schedXlockWrite part val => Sys2Proof.Machine.execSchedXlockWrite part val s
  | .tqCfgWrite part val => Sys2Proof.Machine.execTqCfgWrite part val s
  | .lqCfgWrite part q val => Sys2Proof.Machine.execLqCfgWrite part q val s
  | .lqBaseWrite part q val => Sys2Proof.Machine.execLqBaseWrite part q val s
  | .aperCfgWrite part idx val => Sys2Proof.Machine.execAperCfgWrite part idx val s
  | .ctxRootWrite part ctx val => Sys2Proof.Machine.execCtxRootWrite part ctx val s
  | .numcfgWrite part val => Sys2Proof.Machine.execNumcfgWrite part val s
  | .phcAdjWrite val => Sys2Proof.Machine.execPhcAdjWrite val s
  | .spsCfgWrite part idx val => Sys2Proof.Machine.execSpsCfgWrite part idx val s
  | .memCfgWrite part val => Sys2Proof.Machine.execMemCfgWrite part val s
  | .systemRegisterWrite part reg idx val => Sys2Proof.Machine.execSystemRegisterWrite part reg idx val s
  | .mbReqWrite w => Sys2Proof.Machine.execMbReqWrite w s
  | .workgroupSteal wg core => Sys2Proof.Machine.execWorkgroupSteal wg core s
  | .engineOperationSteal op core => Sys2Proof.Machine.execEngineOperationSteal op core s
  | .walkerSteal walker engine => Sys2Proof.Machine.execWalkerSteal walker engine s
  | .registrationEviction line => Sys2Proof.Machine.execRegistrationEviction line s
  | .fabricError acc => Sys2Proof.Machine.execFabricError acc s
  | .frameReceived port bytes fcsOk => Sys2Proof.Machine.execFrameReceived port bytes fcsOk s
  | .cxlMemRead off n => Sys2Proof.Machine.execCxlMemRead off n s
  | .cxlMemWrite off bytes poison => Sys2Proof.Machine.execCxlMemWrite off bytes poison s
  | .msixSignal vec => Sys2Proof.Machine.execMsixSignal vec s
  | .beatReceived stack up seq crcOk => Sys2Proof.Machine.execBeatReceived stack up seq crcOk s
  | .basinLinkRetrain stack ok => Sys2Proof.Machine.execBasinLinkRetrain stack ok s
  | .flitReceived link f => Sys2Proof.Machine.execFlitReceived link f s
  | .retryRequest link seq => Sys2Proof.Machine.execRetryRequest link seq s
  | .reinLinkRetrain link ok => Sys2Proof.Machine.execReinLinkRetrain link ok s
  | .flitCounterRekey link => Sys2Proof.Machine.execFlitCounterRekey link s
  | .escapeChannelMove pkt => Sys2Proof.Machine.execEscapeChannelMove pkt s
  | .getVersion claimant => Sys2Proof.Machine.execGetVersion claimant s
  | .getCapabilities claimant => Sys2Proof.Machine.execGetCapabilities claimant s
  | .negotiateAlgorithms claimant => Sys2Proof.Machine.execNegotiateAlgorithms claimant s
  | .getDigests claimant => Sys2Proof.Machine.execGetDigests claimant s
  | .getCertificate claimant => Sys2Proof.Machine.execGetCertificate claimant s
  | .challenge claimant nonce => Sys2Proof.Machine.execChallenge claimant nonce s
  | .getMeasurements claimant index => Sys2Proof.Machine.execGetMeasurements claimant index s
  | .keyExchange claimant => Sys2Proof.Machine.execKeyExchange claimant s
  | .keyUpdate link => Sys2Proof.Machine.execKeyUpdate link s
  | .claim claimant h => Sys2Proof.Machine.execClaim claimant h s
  | .handover claimant succ h => Sys2Proof.Machine.execHandover claimant succ h s
  | .setPartition claimant p px py pa pb en h => Sys2Proof.Machine.execSetPartition claimant p px py pa pb en h s
  | .setSlots claimant stack chan slots h => Sys2Proof.Machine.execSetSlots claimant stack chan slots h s
  | .setHost claimant part base len h => Sys2Proof.Machine.execSetHost claimant part base len h s
  | .setStream claimant port stream part h => Sys2Proof.Machine.execSetStream claimant port stream part h s
  | .setRein claimant pkg links h => Sys2Proof.Machine.execSetRein claimant pkg links h s
  | .imageWrite claimant off bytes h => Sys2Proof.Machine.execImageWrite claimant off bytes h s
  | .imageActivate claimant h => Sys2Proof.Machine.execImageActivate claimant h s
  | .firmwareSelfTestFail => Sys2Proof.Machine.execFirmwareSelfTestFail s
  | .rekey claimant link h => Sys2Proof.Machine.execRekey claimant link h s
  | .setMsix claimant vec pa en h => Sys2Proof.Machine.execSetMsix claimant vec pa en h s
  | .resetPartition claimant p h => Sys2Proof.Machine.execResetPartition claimant p h s
  | .resetPackage claimant h => Sys2Proof.Machine.execResetPackage claimant h s
  | .packageReset failStep failed => Sys2Proof.Machine.execPackageReset failStep failed s
  | .patrolScrub stack line => Sys2Proof.Machine.execPatrolScrub stack line s
  | .channelSlotAllocation stack chan pending => Sys2Proof.Machine.execChannelSlotAllocation stack chan pending s
  | .powerThrottle watts step basin => Sys2Proof.Machine.execPowerThrottle watts step basin s
  | .flitCounterExhausted link => Sys2Proof.Machine.execFlitCounterExhausted link s

end Sys2Proof.Machine
end

