-- ==== Sys2Proof/Machine/Place.lean ====
section
/-! DEFINITION. A program placed from outside: one instruction in a code line, with the launch, the workgroup and the agent that run it
(log 26). -/

namespace Sys2Proof.Machine

/-- Where the placed line stands: virtual and package physical address alike. -/
def placeAt : Nat := 0x1000

/-- Class of a start word (R186). -/
def wordClass (w : DWord) : Nat := if w.msb then 16 else bits w 59 4

/-- The placed line (R161, R162): the instruction at word 1, every other word a start word of zeros. -/
def placedLine (walker : Bool) (w x : DWord) : List Byte :=
  let starts := if takesExt w then 0x7FFF - 2 else 0x7FFF
  let header := starts + 2 ^ 15 + (if walker then 2 ^ 30 else 0)
  leBytes 8 header ++ bytesOf 8 w ++ bytesOf 8 x ++ List.replicate 104 0

/-- The cached leaf of the first 2 MiB: every permission, compute-capable and pinned, with a and d set (R382). -/
def placedLeaf : TlbLeaf :=
  { part := 0, ctx := 0, base := 0, span := 2 ^ 21, size := 2 ^ 21, entry := BitVec.ofNat 64 (2 ^ 52 + 0x3BF), slot := 2 ^ 21 }

/-- A supervisor launch of one workgroup with one crew of 2,048 registers and 4 KiB of stash (R365). -/
def placedLaunch : Launch :=
  { raw := BitVec.ofNat 1024 (placeAt + 8 + 255 * 2 ^ 170 + 2 ^ 181 + 2 ^ 224), state := 2, dist := 1, placed := true }

/-- A SEARCH of one walker, on an index of INT8 vectors in stack 0 (R68, R313). -/
def placedCmd : Cmd :=
  { kind := 1, block := placeAt * 2 ^ 192 + 2 ^ 400 + 2 ^ 416, desc := 2 ^ 64 + 8 * 2 ^ 72 + 11 * 2 ^ 88 + 0x2000 * 2 ^ 256,
    crew := 0, thread := 0, core := 0, part := 0, ctx := 0, sup := true, pc := 0, seq := 0, stream := 0, scope := .core, stack := 0,
    front := 0, forwarded := true, started := true, deadline := none, query := List.replicate 8 0, slices := [0], order := 0 }

/-- The instruction whose words are `w` and `x` stands where the next step fetches it: by thread 0 of a launch that is set up for it, a
leader for class 8, or by a walker for class 11. -/
def State.placeWord (s : State) (w x : DWord) : State :=
  let walker := wordClass w == 11
  let pc := BitVec.ofNat 64 (placeAt + 8)
  let s : State := { s with mem := (List.range 128).foldl (fun m i =>
    Store.set m (placeAt + i) ((placedLine walker w x).getD i 0)) s.mem }
  { s with
    tlb := [placedLeaf]
    launches := [placedLaunch]
    wgs := [{ stage := .active, started := true, splaced := true }]
    crews := [{ leader := if wordClass w == 8 then some 0 else none }]
    threads := (List.range 32).map fun n => { num := n, r := { pc := pc }, st := if n = 0 then .ready else .exited }
    parts := s.parts.upd 0 fun p => { p with enabled := true, pa := 5, pb := 4 }
    cmds := if walker then [placedCmd] else s.cmds
    walkers := if walker then [{ cmd := 0, stack := 0, engine := 0, r := { pc := pc }, phase := .running }] else s.walkers
    issue := { agents := [if walker then .walker 0 else .thread 0] } }

end Sys2Proof.Machine
end

