-- ==== Sys2Proof/Machine/Step.lean ====
section
/-! DEFINITION. One step of the package: the executing agent's instruction, an event, a turn of the cycle, or the next cycle. -/

namespace Sys2Proof.Machine

/-- The executing agent runs its next instruction, or its part of the issue is over. -/
def State.runCur (s : State) : Host.Outcome State Fault Refusal :=
  match s.fetch with
  | .over t => .next t
  | .run i t => exec i t

/-- One step (log 3). A package in the failed state runs nothing but a package reset; what else comes to it is lost (R424; log 74). -/
def step (s : State) : Host.Outcome State Fault Refusal :=
  if s.hk.failStep ≠ 0 then match s.agenda with
    | .packageReset f l :: rest => exec (.packageReset f l) { s with cur := .none, agenda := rest }
    | _ :: rest => .next { s with agenda := rest }
    | [] => .next s
  else match s.issue.agents with
    | a :: rest => State.runCur { s with cur := a, issue := { s.issue with agents := rest } }
    | [] => match s.agenda with
      | i :: rest => exec i { s with cur := .none, agenda := rest }
      | [] => match s.turn with
        | q :: rest => .next (State.take { s with turn := rest } q)
        | [] => .next s.tick

/-- The instruction whose bits are `w` stands where `step` fetches next (R161: little-endian words of 64 bits; log 26). -/
def State.withFetchWord (s : State) (nbits w : Nat) : State :=
  let v := w % 2 ^ nbits
  s.placeWord (BitVec.ofNat 64 v) (BitVec.ofNat 64 (v / 2 ^ 64))

end Sys2Proof.Machine
end

