-- ==== Sys2Proof/Safety.lean ====
section
/-! DEFINITION. What the statements are made in terms of: when an instruction executes (R178), what delivering its result leaves
(R168, R174), and what a run must keep. -/

namespace Sys2Proof.Machine

/-- The issue of each instruction of format F, for the executing agent. -/
def State.issOf (s : State) (i : Instr) : Option Iss := Machine.issOf (footOf (s.crew (s.crewOf s.t)).afmt) i

/-- Steps 3 to 7 of R178 pass for the executing agent, and nothing that its registers wait for is in flight (R234, R279): the
instruction executes now. -/
def State.ready (s : State) (i : Iss) : Bool :=
  s.agentIn && !s.hazard i && !s.holds i && (s.stepChecks i).isNone && s.curRegs.guard i.h && !latchBad s.curRegs i.ops

/-- The same for a rendezvous, which a thread reaches with a false guard too (R36, R167): the latch sources only count with a true one. -/
def State.arrives (s : State) (i : Iss) : Bool :=
  s.agentIn && !s.hazard i && !s.holds i && (s.stepChecks i).isNone && !(s.curRegs.guard i.h && latchBad s.curRegs i.ops)

/-- An instruction executes now. -/
def State.runs (s : State) (i : Instr) : Bool :=
  match s.issOf i with
  | some x => s.ready x
  | none => false

/-- A thread reaches a rendezvous now. -/
def State.joins (s : State) (i : Instr) : Bool :=
  match s.issOf i with
  | some x => s.arrives x
  | none => false

/-- The agent's registers after a v result of an instruction that is no breaker: d written unless nw, the result in latch k, the next
position of the chain, the next start word (R165, R168, R174). -/
def Regs.gotV (r : Regs) (h : Hdr) (x : Word) : Regs :=
  { r with pc := r.npc, v := if h.nw then r.v else r.v.set h.d.toNat x, latch := r.latch.set r.k.toNat (zext64 x),
           written := r.written ||| (1#8 <<< r.k.toNat), k := r.k + 1 }

/-- The same after an x result: d holds the low half, d + 1 the high half (R127, R168, R174). -/
def Regs.gotX (r : Regs) (h : Hdr) (x : DWord) : Regs :=
  { r with pc := r.npc, v := if h.nw then r.v else (r.v.set h.d.toNat (x.setWidth 32)).set (h.d.toNat + 1) (x.extractLsb' 32 32),
           latch := r.latch.set r.k.toNat x, written := r.written ||| (1#8 <<< r.k.toNat), k := r.k + 1 }

/-- The same without a v result: latch k is not written (R174). -/
def Regs.gotNone (r : Regs) : Regs :=
  { r with pc := r.npc, written := r.written &&& ~~~(1#8 <<< r.k.toNat), k := r.k + 1 }

/-- The same after a predicate result (R168, R174). -/
def Regs.gotP (r : Regs) (h : Hdr) (b : Bool) : Regs := (r.setP (h.d.setWidth 4) b).gotNone

/-- A breaker leaves no chain (R174). -/
def Regs.broke (r : Regs) : Regs := { r with pc := r.npc, written := 0, k := 0 }

/-- The executing agent goes on with these registers, and nothing else changes. -/
def State.goesOn (s : State) (r : Regs) : State :=
  match s.cur with
  | .thread t => s.updThr t fun x => { x with r := r, passed := false }
  | .walker w => s.updWlk w fun x => { x with r := r }
  | .none => s

/-- The thread's own quadrant re-forms its bundles in the next cycle, unless a leader issues (R28, R33). -/
def State.reforms (s : State) : State :=
  match s.cur with
  | .thread t => if s.isLeader t then s else { s with reform := s.reform.insert (s.coreOf t, s.quadOf (s.crewOf t)) }
  | _ => s

/-! ### Rounding, said of rational numbers (R126, R131 to R133) -/

/-- The number that a pattern stands for which is no NaN and no infinity (R126). -/
def Fmt.rat (f : Fmt) (x : Nat) : ℚ :=
  let m := x % 2 ^ (f.w - 1)
  let E := m / 2 ^ f.fb
  let F := m % 2 ^ f.fb
  let v : ℚ := if E = 0 then F * 2 ^ ((1 : ℤ) - f.bias - f.fb) else (2 ^ f.fb + F : ℕ) * 2 ^ ((E : ℤ) - f.bias - f.fb)
  if 2 ^ (f.w - 1) ≤ x then -v else v

/-- The number that an operand is read as: a subnormal one as zero under ftz (R132). -/
def Fmt.read (f : Fmt) (ftz : Bool) (x : Nat) : ℚ := if ftz ∧ f.ex x = 0 then 0 else f.rat x

/-- k is x rounded to an integer in a mode (R131). -/
def roundsTo (rm : Rnd) (x : ℚ) (k : ℤ) : Prop :=
  match rm with
  | .rne => |x - k| ≤ 1 / 2 ∧ (|x - k| = 1 / 2 → Even k)
  | .rz => k = if 0 ≤ x then ⌊x⌋ else ⌈x⌉
  | .rdn => k = ⌊x⌋
  | .rup => k = ⌈x⌉

/-- r is x, of sign neg where it is zero, rounded once to a format, with its flags (R131 to R133): y is x at the format's quantum, z at the
same precision with an unbounded exponent, which decides what is tiny (log 13). -/
def Fmt.rounded (f : Fmt) (rm : Rnd) (ftz neg : Bool) (x : ℚ) (r : FR) : Prop :=
  (x = 0 → r = ⟨f.zeroPat neg, 0⟩) ∧
  (x ≠ 0 → ∃ e k k' : ℤ, (2 : ℚ) ^ e ≤ |x| ∧ |x| < (2 : ℚ) ^ (e + 1) ∧
    let emin := (1 : ℤ) - f.bias
    let quantum : ℚ := 2 ^ (max e emin - f.fb)
    let y := k * quantum
    let z := k' * (2 : ℚ) ^ (e - f.fb)
    let top := (2 ^ (f.fb + 1) - 1) * (2 : ℚ) ^ ((f.bias : ℤ) - f.fb)
    let away : Bool := match rm with | .rne => true | .rz => false | .rdn => neg | .rup => !neg
    roundsTo rm (x / quantum) k ∧ roundsTo rm (x / 2 ^ (e - f.fb)) k' ∧ neg = decide (x < 0) ∧
    if top < |y| then r = ⟨if away then f.infPat neg else f.infPat neg - 1, fOF ||| fNX⟩
    else if ftz ∧ y ≠ 0 ∧ |y| < (2 : ℚ) ^ emin then r = ⟨f.zeroPat neg, fUF ||| fNX⟩
    else r.pat < 2 ^ f.w ∧ f.neg r.pat = neg ∧ f.rat r.pat = y ∧
      r.fl = if y = x then 0 else if |z| < (2 : ℚ) ^ emin then fUF ||| fNX else fNX)

/-- r is the positive root of x rounded once to a format that holds it as a normal number, with its flags (R131, R133, R219, R222). No
root of a number of the format, or of its inverse, lies half way between two numbers of the format. -/
def Fmt.rootOf (f : Fmt) (rm : Rnd) (x : ℚ) (r : FR) : Prop :=
  ∃ e k : ℤ, (4 : ℚ) ^ e ≤ x ∧ x < (4 : ℚ) ^ (e + 1) ∧ 0 < k ∧
    let y := x / 4 ^ (e - f.fb)
    (match rm with
      | .rne => ((k : ℚ) - 1 / 2) ^ 2 < y ∧ y < ((k : ℚ) + 1 / 2) ^ 2
      | .rup => ((k : ℚ) - 1) ^ 2 < y ∧ y ≤ (k : ℚ) ^ 2
      | _ => (k : ℚ) ^ 2 ≤ y ∧ y < ((k : ℚ) + 1) ^ 2) ∧
    r.pat < 2 ^ (f.w - 1) ∧ f.rat r.pat = k * (2 : ℚ) ^ (e - f.fb) ∧ r.fl = if (k : ℚ) ^ 2 = y then 0 else fNX

/-- Every byte reads as before: memory, the posted writes of each core, stashes and registrations. -/
def State.sameBytes (s t : State) : Prop := ∀ view pa, t.viewByte view pa = s.viewByte view pa

end Sys2Proof.Machine
end

