-- ==== Sys2Proof/Certificates/Slice0/Obligations.lean ====
section
/-! DEFINITION. The statements for the provers. Each says in its docstring which rule of spec/ it formalises. -/

section Statements

open Sys2Proof Sys2Proof.Machine

/-- R198: the 32-bit results of integer arithmetic. The instruction executes and answers exactly the state in which its thread or walker has
D in vd and in the latch of its chain position and goes on; nothing else changes. R198 and R200: the 64-bit results of class 0, LEA,
MOVI and MOVI64. -/
def Obligations.IntegerResults : Prop :=
  (∀ (s : State) (h : Hdr) (a b c : Src) (u ua ub : Bool),
      let A := s.curRegs.rv a
      let B := s.curRegs.rv b
      let C := s.curRegs.rv c
      let gives := fun (o : Host.Outcome State Fault Refusal) (x : Word) => o = .next (s.goesOn (s.curRegs.gotV h x))
      (s.ready ⟨aLane, h, [.v a, .vi b], .v h.d⟩ = true →
        gives (exec (.iadd h a b) s) (BitVec.ofNat 32 (A.toNat + B.toNat)) ∧
        gives (exec (.isub h a b) s) (BitVec.ofInt 32 ((A.toNat : Int) - B.toNat)) ∧
        gives (exec (.imul h a b) s) (BitVec.ofNat 32 (A.toNat * B.toNat)) ∧
        gives (exec (.imulh h a b false) s) (BitVec.ofInt 32 (A.toInt * B.toInt / 2 ^ 32)) ∧
        gives (exec (.imulh h a b true) s) (BitVec.ofNat 32 (A.toNat * B.toNat / 2 ^ 32)) ∧
        gives (exec (.imin h a b u) s) (if intOf u A ≤ intOf u B then A else B) ∧
        gives (exec (.imax h a b u) s) (if intOf u A ≤ intOf u B then B else A) ∧
        gives (exec (.iaddsat h a b false) s) (BitVec.ofInt 32 (max (-2 ^ 31) (min (2 ^ 31 - 1) (A.toInt + B.toInt)))) ∧
        gives (exec (.iaddsat h a b true) s) (BitVec.ofNat 32 (min (2 ^ 32 - 1) (A.toNat + B.toNat))) ∧
        gives (exec (.isubsat h a b false) s) (BitVec.ofInt 32 (max (-2 ^ 31) (min (2 ^ 31 - 1) (A.toInt - B.toInt)))) ∧
        gives (exec (.isubsat h a b true) s) (BitVec.ofNat 32 (A.toNat - B.toNat)) ∧
        gives (exec (.isad h a b u) s) (BitVec.ofInt 32 (|byteInt u A 0 - byteInt u B 0| + |byteInt u A 1 - byteInt u B 1| +
          |byteInt u A 2 - byteInt u B 2| + |byteInt u A 3 - byteInt u B 3|)) ∧
        gives (exec (.idot4 h a b ua ub) s) (BitVec.ofInt 32 (byteInt ua A 0 * byteInt ub B 0 + byteInt ua A 1 * byteInt ub B 1 +
          byteInt ua A 2 * byteInt ub B 2 + byteInt ua A 3 * byteInt ub B 3))) ∧
      (s.ready ⟨aLane, h, [.v a, .vi b, .v c], .v h.d⟩ = true →
        gives (exec (.imad h a b c) s) (BitVec.ofNat 32 (A.toNat * B.toNat + C.toNat))) ∧
      (s.ready ⟨aLane, h, [.v a], .v h.d⟩ = true →
        gives (exec (.iabs h a) s) (BitVec.ofInt 32 |A.toInt|) ∧
        gives (exec (.ineg h a) s) (BitVec.ofInt 32 (-A.toInt)))) ∧
  (∀ (s : State) (h : Hdr) (a b c : Src) (sh : BitVec 3) (u : Bool) (disp : Option DWord) (x : DWord),
      let A := s.curRegs.rx a
      let B := s.curRegs.rx b
      let C := s.curRegs.rx c
      let W := s.curRegs.rv b
      let gives := fun (i : Instr) (x : DWord) => exec i s = .next (s.goesOn (s.curRegs.gotX h x))
      (s.ready ⟨aLane, h, [.x a, .xi b], .x h.d⟩ = true →
        gives (.iadd64 h a b) (BitVec.ofNat 64 (A.toNat + B.toNat)) ∧
        gives (.isub64 h a b) (BitVec.ofInt 64 ((A.toNat : Int) - B.toNat)) ∧
        gives (.imul64 h a b) (BitVec.ofNat 64 (A.toNat * B.toNat))) ∧
      (s.ready ⟨aLane, h, [.x a, .xi b, .x c], .x h.d⟩ = true →
        gives (.imad64 h a b c) (BitVec.ofNat 64 (A.toNat * B.toNat + C.toNat))) ∧
      (s.ready ⟨aLane, h, [.x a, .vi b], .x h.d⟩ = true →
        gives (.lea h a b sh u disp) (BitVec.ofInt 64 ((A.toNat : Int) + intOf u W * 2 ^ sh.toNat + (disp.getD 0).toNat))) ∧
      (s.ready ⟨aLane, h, [], .x h.d⟩ = true → gives (.movi64 h x) x) ∧
      (s.ready ⟨aLane, h, [], .v h.d⟩ = true →
        exec (.movi h x) s = .next (s.goesOn (s.curRegs.gotV h (x.extractLsb' 0 32)))))

/-- R199, the whole of its pseudo-code: IDIV and IREM, signed and unsigned, for every A and B. -/
def Obligations.DivisionResults : Prop :=
  ∀ (s : State) (h : Hdr) (a b : Src), s.ready ⟨aLane, h, [.v a, .vi b], .v h.d⟩ = true →
    let A := s.curRegs.rv a
    let B := s.curRegs.rv b
    let gives := fun (i : Instr) (x : Word) => exec i s = .next (s.goesOn (s.curRegs.gotV h x))
    (B = 0 → ∀ u, gives (.idiv h a b u) 0xFFFFFFFF ∧ gives (.irem h a b u) A) ∧
    (A = 0x80000000 → B = 0xFFFFFFFF → gives (.idiv h a b false) 0x80000000 ∧ gives (.irem h a b false) 0) ∧
    (B ≠ 0 →
      gives (.idiv h a b true) (BitVec.ofNat 32 (A.toNat / B.toNat)) ∧
      gives (.irem h a b true) (BitVec.ofNat 32 (A.toNat - A.toNat / B.toNat * B.toNat))) ∧
    (B ≠ 0 → ¬(A = 0x80000000 ∧ B = 0xFFFFFFFF) →
      gives (.idiv h a b false) (BitVec.ofInt 32 (Int.tdiv A.toInt B.toInt)) ∧
      gives (.irem h a b false) (BitVec.ofInt 32 (A.toInt - Int.tdiv A.toInt B.toInt * B.toInt)))

/-- R201 and R202: logic, shifts, rotates and bit fields, each bit of D named by the bits of A and B. R201: POPC, CLZ and CTZ, each D said
by what it counts. R203 and R204: compares write p[d] alone, PLOG, SEL, P2V and V2P. -/
def Obligations.LogicAndPredicateResults : Prop :=
  ((∀ (s : State) (h : Hdr) (a b : Src) (r sgn : Bool) (pos : BitVec 5) (len : BitVec 6) (sel : BitVec 12),
        let A := s.curRegs.rv a
        let B := s.curRegs.rv b
        let X := s.curRegs.rx a
        let n := B.toNat
        let k := min len.toNat (32 - pos.toNat)
        let v := fun (i : Instr) (f : Nat → Bool) =>
          ∃ D : Word, exec i s = .next (s.goesOn (s.curRegs.gotV h D)) ∧ ∀ j < 32, D.getLsbD j = f j
        let x := fun (i : Instr) (f : Nat → Bool) =>
          ∃ D : DWord, exec i s = .next (s.goesOn (s.curRegs.gotX h D)) ∧ ∀ j < 64, D.getLsbD j = f j
        (s.ready ⟨aLane, h, [.v a, .vi b], .v h.d⟩ = true →
          v (.and h a b) (fun j => A.getLsbD j && B.getLsbD j) ∧
          v (.or h a b) (fun j => A.getLsbD j || B.getLsbD j) ∧
          v (.xor h a b) (fun j => A.getLsbD j != B.getLsbD j) ∧
          v (.andn h a b) (fun j => A.getLsbD j && !B.getLsbD j) ∧
          v (.shl h a b) (fun j => n ≤ j && A.getLsbD (j - n)) ∧
          v (.shr h a b) (fun j => A.getLsbD (j + n)) ∧
          v (.sar h a b) (fun j => if j + n < 32 then A.getLsbD (j + n) else A.getLsbD 31) ∧
          v (.rot h a b r) (fun j => A.getLsbD (if r then (j + n % 32) % 32 else (j + 32 - n % 32) % 32)) ∧
          v (.bfi h a b pos len) (fun j => if pos.toNat ≤ j ∧ j < pos.toNat + k then A.getLsbD (j - pos.toNat) else B.getLsbD j) ∧
          v (.bysel h a b sel) (fun j =>
            let i := j / 8
            let y := 8 * bits sel (2 * i) 2 + j % 8
            if sel.getLsbD (8 + i) then B.getLsbD y else A.getLsbD y)) ∧
        (s.ready ⟨aLane, h, [.x a, .vi b], .x h.d⟩ = true →
          x (.shl64 h a b) (fun j => n ≤ j && X.getLsbD (j - n)) ∧
          x (.shr64 h a b) (fun j => X.getLsbD (j + n)) ∧
          x (.sar64 h a b) (fun j => if j + n < 64 then X.getLsbD (j + n) else X.getLsbD 63)) ∧
        (s.ready ⟨aLane, h, [.v a], .v h.d⟩ = true →
          v (.not h a) (fun j => !A.getLsbD j) ∧
          v (.brev h a) (fun j => A.getLsbD (31 - j)) ∧
          v (.mov h a) (fun j => A.getLsbD j) ∧
          v (.bfe h a pos len sgn) (fun j => if j < k then A.getLsbD (pos.toNat + j) else sgn && 0 < k && A.getLsbD (pos.toNat + k - 1))) ∧
        (s.ready ⟨aLane, h, [.x a], .x h.d⟩ = true → x (.mov64 h a) fun j => X.getLsbD j)) ∧
    (∀ (s : State) (h : Hdr) (a : Src), s.ready ⟨aLane, h, [.v a], .v h.d⟩ = true →
        let A := s.curRegs.rv a
        let v := fun (i : Instr) (P : Nat → Prop) => ∃ D : Word, exec i s = .next (s.goesOn (s.curRegs.gotV h D)) ∧ P D.toNat
        v (.popc h a) (fun n => n = ((Finset.range 32).filter fun j => A.getLsbD j = true).card) ∧
        v (.clz h a) (fun n => if A = 0 then n = 32 else n < 32 ∧ A.getLsbD (31 - n) = true ∧ ∀ j < 32, 31 - n < j → A.getLsbD j = false) ∧
        v (.ctz h a) (fun n => if A = 0 then n = 32 else n < 32 ∧ A.getLsbD n = true ∧ ∀ j < n, A.getLsbD j = false))) ∧
  (∀ (s : State) (h : Hdr) (a b : Src) (u neg : Bool) (q pa pb lut : BitVec 4),
      let r := s.curRegs
      let p := fun (i : Instr) (b : Bool) => exec i s = .next (s.goesOn (r.gotP h b))
      let holds := fun (c : ICond) (x y : Int) => match c with
        | .eq => decide (x = y) | .ne => decide (x ≠ y) | .lt => decide (x < y)
        | .le => decide (x ≤ y) | .gt => decide (y < x) | .ge => decide (y ≤ x)
      let rd := fun {w : Nat} (y : BitVec w) => if u then (y.toNat : Int) else y.toInt
      (s.ready ⟨aLane, h, [.v a, .vi b], .p h.d⟩ = true → ∀ c,
        p (.icmp h a b c u .none) (holds c (rd (r.rv a)) (rd (r.rv b))) ∧
        p (.icmp h a b c u (.and q)) (holds c (rd (r.rv a)) (rd (r.rv b)) && r.pred q) ∧
        p (.icmp h a b c u (.or q)) (holds c (rd (r.rv a)) (rd (r.rv b)) || r.pred q)) ∧
      (s.ready ⟨aLane, h, [.x a, .xi b], .p h.d⟩ = true → ∀ c,
        p (.icmp64 h a b c u .none) (holds c (rd (r.rx a)) (rd (r.rx b))) ∧
        p (.icmp64 h a b c u (.and q)) (holds c (rd (r.rx a)) (rd (r.rx b)) && r.pred q) ∧
        p (.icmp64 h a b c u (.or q)) (holds c (rd (r.rx a)) (rd (r.rx b)) || r.pred q)) ∧
      (s.ready ⟨aLane, h, [], .p h.d⟩ = true →
        p (.plog h pa pb lut) (match r.pred pa, r.pred pb with
          | false, false => lut.getLsbD 0 | false, true => lut.getLsbD 1
          | true, false => lut.getLsbD 2 | true, true => lut.getLsbD 3)) ∧
      (s.ready ⟨aLane, h, [.v a, .vi b], .v h.d⟩ = true →
        exec (.sel h a b q neg) s = .next (s.goesOn (r.gotV h (if (r.pred q ^^ neg) = true then r.rv a else r.rv b)))) ∧
      (s.ready ⟨aLane, h, [], .v h.d⟩ = true →
        ∃ D : Word, exec (.p2v h) s = .next (s.goesOn (r.gotV h D)) ∧
          ∀ j < 32, D.getLsbD j = (decide (j < 16) && r.pred (BitVec.ofNat 4 j))) ∧
      (s.ready ⟨aLane, h, [.v a, .vi b], .none⟩ = true →
        ∃ P : BitVec 16, exec (.v2p h a b) s = .next (s.goesOn ({ r with p := P } : Regs).gotNone) ∧
          ∀ j : BitVec 4, ({ r with p := P } : Regs).pred j =
            if j ≠ 0 ∧ (r.rv b).getLsbD j.toNat = true then (r.rv a).getLsbD j.toNat else r.pred j))

/-- R222: FEXP2 is within 2 ulp of the power of two, FLOG2 within 2^-22 of the logarithm for operands from 0.5 to 2 and within 2 ulp
elsewhere, each is non-decreasing, and under ftz each gives what it gives without for the operand as read, a subnormal result replaced
by a zero of its sign. -/
def Obligations.ExponentialBounds : Prop :=
  ∀ (z : Bool) (a b : Word) (k : ℤ),
    let x := f32.rat a.toNat
    let fin := fun (a : Word) => f32.ex a.toNat ≠ 255
    let e := f32.rat (exp2Op false a).pat
    let l := f32.rat (log2Op false a).pat
    let flushed := fun (r : FR) => if f32.isSub r.pat then ⟨f32.zeroPat (f32.neg r.pat), 24⟩ else r
    let mono := fun (op : Word → FR) => fin (BitVec.ofNat 32 (op a).pat) → fin (BitVec.ofNat 32 (op b).pat) →
      f32.rat (op a).pat ≤ f32.rat (op b).pat
    (fin a → -150 < x → x < 128 → |(e : ℝ) - (2 : ℝ) ^ (x : ℝ)| ≤ 2 * (2 : ℝ) ^ (max ⌊x⌋ (-126) - 23)) ∧
    (fin a → 1 / 2 ≤ x → x < 2 → |(l : ℝ) - Real.logb 2 x| ≤ (2 : ℝ) ^ (-22 : ℤ)) ∧
    (fin a → 0 < x → x < 1 / 2 ∨ 2 ≤ x → (2 : ℝ) ^ k ≤ |Real.logb 2 x| → |Real.logb 2 x| < (2 : ℝ) ^ (k + 1) →
      |(l : ℝ) - Real.logb 2 x| ≤ 2 * (2 : ℝ) ^ (max k (-126) - 23)) ∧
    (fin a → fin b → f32.read z a.toNat ≤ f32.read z b.toNat →
      mono (exp2Op z) ∧ (0 < f32.read z a.toNat → mono (log2Op z))) ∧
    (let as : Word := if f32.ex a.toNat = 0 then a &&& 0x80000000 else a
     exp2Op true a = flushed (exp2Op false as) ∧ log2Op true a = flushed (log2Op false as))

/-- R178 in its order, with R167 and R174: for every instruction of format F, what comes before its own part. An instruction whose registers
are awaited stays; then the execution context, the privilege, the operands; a false guard has no effect, but breaks the chain of a
breaker; then the latches. -/
def Obligations.DecodeOrder : Prop :=
  ∀ (s : State) (i : Instr) (x : Iss), s.issOf i = some x → s.cur ≠ .none →
    let onWalker := match s.cur with | .walker _ => true | _ => false
    let awaited := s.hazard x || s.holds x
    let wrongAgent := if onWalker then !x.a.walker else !x.a.core
    let unprivileged := x.a.priv && !s.curAs.sup
    let badOperand := !(x.ops.all (Opd.ok s.curCnt) && (x.h.nw || x.dst.ok s.curCnt))
    (awaited = true → exec i s = .next s) ∧
    (awaited = false → wrongAgent = true → exec i s = .next (s.raise { cause := .illegalContext })) ∧
    (awaited = false → wrongAgent = false → unprivileged = true → exec i s = .next (s.raise { cause := .privilege })) ∧
    (awaited = false → wrongAgent = false → unprivileged = false → badOperand = true →
      exec i s = .next (s.raise { cause := .illegalOperand })) ∧
    (awaited = false → wrongAgent = false → unprivileged = false → badOperand = false →
      (s.curRegs.guard x.h = false → x.a.coll = false →
        exec i s = .next (if x.a.brk then s.reforms.goesOn s.curRegs.broke else s.goesOn s.curRegs.gotNone)) ∧
      (s.curRegs.guard x.h = true → latchBad s.curRegs x.ops = true → exec i s = .next (s.raise { cause := .illegalLatch })))

/-- R337 to R340: what a trap of a thread at its instruction does, whatever its cause but LEASE_VIOLATION. The record goes into the lowest
free slot of the core, or stays pending; the thread waits for its SRET, its registers unchanged; nothing else changes. -/
def Obligations.TrapEntry : Prop :=
  ∀ (s : State) (t : Nat) (c : TrapInfo), s.cur = .thread t → c.cause ≠ .leaseViolation →
    let core := s.coreOf t
    let pc := (s.thr t).r.pc
    let record : TrapRec :=
      { info := c, part := s.partOf t, kind := 0, crew := (s.crew (s.crewOf t)).num, lane := s.laneOf t, core := core, ctx := s.ctxOf t,
        sup := s.isSup t, tpc := pc, opc := pc, cyc := s.cyc, thread := some t, wg := some (s.wgOf t) }
    let stopped := fun (s : State) => s.updThr t fun x => { x with st := .waiting (.trap 0 c pc), passed := false, tarn := none, inv := none }
    (∀ k < 64, ((s.core core).slots.get k).held = none → (∀ j < k, ((s.core core).slots.get j).held ≠ none) →
      s.raise c = stopped (s.updCore core fun x =>
        { x with slots := x.slots.upd k fun y => { gen := y.gen, held := some record, written := false } })) ∧
    ((∀ k < 64, ((s.core core).slots.get k).held ≠ none) →
      s.raise c = stopped (s.updCore core fun x => { x with pend := x.pend ++ [record] }))

/-- R215: BRK, TRAP and ASSERT leave a record whose resume PC is the next start word and whose opc is their own; an ASSERT whose condition
holds goes on. -/
def Obligations.RequestedTraps : Prop :=
  ∀ (s : State) (t : Nat) (h : Hdr) (code : BitVec 8) (q : BitVec 4) (neg : Bool) (a : Src), s.cur = .thread t → t < s.threads.length →
    let r := (s.thr t).r
    let core := s.coreOf t
    let stops := fun (kind : Nat) (c : TrapInfo) (s' : State) =>
      (s'.thr t).st = .waiting (.trap kind c r.pc) ∧ (s'.thr t).r = { r with pc := r.npc, k := 0, written := 0 } ∧
      (∀ u, u ≠ t → s'.thr u = s.thr u) ∧ s'.mem = s.mem ∧
      ∀ k < 64, ((s.core core).slots.get k).held = none → (∀ j < k, ((s.core core).slots.get j).held ≠ none) →
        ∃ y : TrapRec, ((s'.core core).slots.get k).held = some y ∧ y.info = c ∧ y.kind = kind ∧ y.tpc = r.npc ∧ y.opc = r.pc ∧
          y.lane = s.laneOf t ∧ y.core = core ∧ y.ctx = s.ctxOf t ∧ y.cyc = s.cyc ∧ y.thread = some t
    (s.runs (.brk h code) = true →
      ∃ s', exec (.brk h code) s = .next s' ∧ stops 0 { cause := .breakpoint, aux := code.setWidth 64 } s') ∧
    (s.runs (.trap h code a) = true →
      ∃ s', exec (.trap h code a) s = .next s' ∧
        stops 0 { cause := .userTrap, addr := (r.rv a).setWidth 64, aux := code.setWidth 64 } s') ∧
    (s.runs (.assert h q neg a) = true →
      ((r.pred q ^^ neg) = true → exec (.assert h q neg a) s = .next (s.reforms.goesOn r.broke)) ∧
      ((r.pred q ^^ neg) = false →
        ∃ s', exec (.assert h q neg a) s = .next s' ∧ stops 3 { cause := .assert, addr := r.rx a } s' ∧
          (s.ctxPhase (s.partOf t) (s.ctxOf t) = 0 → s'.ctxPhase (s.partOf t) (s.ctxOf t) = 2)))

/-- R205 and R206: SREAD gives every special register of the table and the crew's scalar registers; a number outside the table traps. R133,
R205 and R206: SWRITE of a scalar register, of %vtcmp and of %status; every other number traps. -/
def Obligations.SpecialRegisters : Prop :=
  (∀ (s : State) (t : Nat) (h : Hdr) (b64 : Bool), s.cur = .thread t → (∀ r, s.runs (.sread h r b64) = true) →
      let c := s.crew (s.crewOf t)
      let w := s.wg (s.wgOf t)
      let l := s.launch (s.launchOf t)
      let gives := fun (r : SpecOp) (x : DWord) =>
        exec (.sread h r b64) s = .next (s.goesOn (if b64 then s.curRegs.gotX h x else s.curRegs.gotV h (x.extractLsb' 0 32)))
      let nat := fun (n : BitVec 8) (x : Nat) => gives (.special n) (BitVec.ofNat 64 x)
      (nat 0x00 w.wx ∧ nat 0x01 w.wy ∧ nat 0x02 w.wz ∧ nat 0x03 l.w ∧ nat 0x04 l.h ∧ nat 0x05 l.d) ∧
      (nat 0x06 (w.core % 32) ∧ nat 0x07 (w.core / 32) ∧ nat 0x08 (coreDie w.core) ∧ nat 0x09 (coreCluster w.core)) ∧
      (nat 0x0A c.num ∧ nat 0x0B w.ncrew ∧ nat 0x0C ((c.num + w.rot.toNat) % 4) ∧ nat 0x0D (s.thr t).num ∧
        nat 0x0E (32 * ((c.num + w.rot.toNat) % 4) + (s.thr t).num) ∧ nat 0x0F w.prio) ∧
      (gives (.special 0x10) s.cyc ∧ gives (.special 0x11) c.vtim ∧ gives (.special 0x12) c.vtcmp ∧
        gives (.special 0x13) ((s.thr t).status.setWidth 64)) ∧
      (gives (.special 0x14) (s.core w.core).poolCfg ∧ gives (.special 0x15) (s.part l.part).numcfg ∧
        gives (.special 0x16) (s.part l.part).tcfg ∧ gives (.special 0x17) c.gangReg ∧ gives (.special 0x18) (s.lmask (s.crewOf t)) ∧
        gives (.special 0x19) (s.links.pkg.setWidth 64) ∧ nat 0x1A l.regcnt ∧ nat 0x1B (l.stash4k * 4096)) ∧
      (∀ n : BitVec 6, gives (.scalar n) (c.s.get n.toNat)) ∧
      (∀ n : BitVec 8, 0x1C ≤ n.toNat → exec (.sread h (.special n) b64) s = .next (s.raise { cause := .illegalOperand }))) ∧
  (∀ (s : State) (t : Nat) (h : Hdr) (b64 : Bool) (a : Src), s.cur = .thread t → (∀ r, s.runs (.swrite h r b64 a) = true) →
      let x : DWord := if b64 then s.curRegs.rx a else (s.curRegs.rv a).setWidth 64
      (∀ n : BitVec 6, exec (.swrite h (.scalar n) b64 a) s =
        .next ((s.updCrew (s.crewOf t) fun c => { c with s := c.s.set n.toNat x }).goesOn s.curRegs.gotNone)) ∧
      exec (.swrite h (.special 0x12) b64 a) s =
        .next ((s.updCrew (s.crewOf t) fun c => { c with vtcmp := x }).goesOn s.curRegs.gotNone) ∧
      (∃ s', exec (.swrite h (.special 0x13) b64 a) s = .next s' ∧
        ∀ j, (s'.thr t).status.getLsbD j = ((s.thr t).status.getLsbD j && (x.getLsbD j || (decide (5 ≤ j) && decide (j ≠ 8))))) ∧
      (∀ n : BitVec 8, n ≠ 0x12 → n ≠ 0x13 → exec (.swrite h (.special n) b64 a) s = .next (s.raise { cause := .illegalOperand })))

/-- R165, R208 and R209: a transfer whose target passes the check goes there, with the link in xd for the calls; a target that fails traps
and writes nothing else; the chain is broken. -/
def Obligations.Transfers : Prop :=
  ∀ (s : State) (h : Hdr) (a : Src) (t : Target) (T : DWord),
    let r := s.curRegs
    let tried := s.reforms.checkTarget s.curAs s.curView T
    let named := match t with | .short o => r.pc + o.signExtend 64 * 8 | .long x => x
    let link := fun (r : Regs) => if h.nw then r else r.setX h.d.toNat r.npc
    let goes := fun (r' : Regs) => Host.Outcome.next (tried.1.goesOn { r' with pc := T, npc := T, written := 0, k := 0 })
    (tried.2 = .ok () →
      (s.runs (.bra h t) = true → T = named → exec (.bra h t) s = goes r) ∧
      (s.runs (.call h t) = true → T = named → exec (.call h t) s = goes (link r)) ∧
      (s.runs (.brx h a) = true → T = r.rx a → exec (.brx h a) s = goes r) ∧
      (s.runs (.callx h a) = true → T = r.rx a → exec (.callx h a) s = goes (link r)) ∧
      (s.runs (.ret h a) = true → T = r.rx a → exec (.ret h a) s = goes r) ∧
      (s.runs (.loopd h a t) = true → T = named → 2 ≤ (r.rv a).toNat → exec (.loopd h a t) s = goes (if h.nw then r else r.setV h.d.toNat (r.rv a - 1)))) ∧
    (∀ c, tried.2 = .trap c →
      (s.runs (.bra h t) = true → T = named → exec (.bra h t) s = .next (tried.1.raise c)) ∧
      (s.runs (.call h t) = true → T = named → exec (.call h t) s = .next (tried.1.raise c)) ∧
      (s.runs (.brx h a) = true → T = r.rx a → exec (.brx h a) s = .next (tried.1.raise c)) ∧
      (s.runs (.callx h a) = true → T = r.rx a → exec (.callx h a) s = .next (tried.1.raise c)) ∧
      (s.runs (.ret h a) = true → T = r.rx a → exec (.ret h a) s = .next (tried.1.raise c)) ∧
      (s.runs (.loopd h a t) = true → T = named → 2 ≤ (r.rv a).toNat → exec (.loopd h a t) s = .next (tried.1.raise c))) ∧
    (s.runs (.loopd h a t) = true → (r.rv a).toNat ≤ 1 →
      exec (.loopd h a t) s = .next (s.reforms.goesOn (if h.nw then r else r.setV h.d.toNat 0).broke)) ∧
    (T.toNat % 8 ≠ 0 ∨ T.toNat / 8 % 16 = 0 → s.checkTarget s.curAs s.curView T = (s, .trap { cause := .badTarget }))

/-- R29 and R211: NOP and YIELD leave the thread's state as it is but for the chain; SLEEPUNTIL completes at once or waits for its deadline.
R211: EXIT ends its thread: it is exited, its registers, predicates and latches read as zero, and no cause is pending in it. -/
def Obligations.WaitsNothingAndExit : Prop :=
  (∀ (s : State) (t : Nat) (h : Hdr) (a : Src),
      (s.runs (.nop h) = true → exec (.nop h) s = .next (s.goesOn s.curRegs.gotNone)) ∧
      (s.cur = .thread t → s.runs (.yield h) = true → ∃ bs : List Bundle, exec (.yield h) s = .next (State.goesOn { s with bundles := bs } s.curRegs.gotNone) ∧
        bs.length = s.bundles.length ∧ ∀ (n : Nat) (b : Bundle), s.bundles[n]? = some b → bs[n]? = some { b with yielded := b.yielded || b.threads.contains t }) ∧
      (s.cur = .thread t → s.runs (.sleepuntil h a) = true →
        ((s.curRegs.rx a).toNat ≤ s.cyc.toNat → exec (.sleepuntil h a) s = .next (s.reforms.goesOn s.curRegs.broke)) ∧
        (s.cyc.toNat < (s.curRegs.rx a).toNat → exec (.sleepuntil h a) s =
          .next (s.reforms.updThr t fun x => { x with st := .waiting (.sleep (s.curRegs.rx a)) })))) ∧
  (∀ (s : State) (t : Nat) (h : Hdr), s.cur = .thread t → t < s.threads.length → s.runs (.exit h) = true →
      ∃ s', exec (.exit h) s = .next s' ∧ (s'.thr t).st = .exited ∧ (s'.thr t).async = [] ∧
        (∀ n, (s'.thr t).r.v.get n = 0) ∧ (s'.thr t).r.p = 0 ∧ (∀ n, (s'.thr t).r.latch.get n = 0))

/-- R32, R33 and R212: the last arrival completes an election: the lowest arrived thread leads with p[d] = 1, the others sleep with p[d] =
0, each past its ELECT; WAKE ends the leadership and the sleepers are ready. An ELECT under a leader, a CBAR by one and a WAKE by
another thread are illegal. -/
def Obligations.Leaders : Prop :=
  ∀ (s : State) (t : Nat) (h : Hdr), s.cur = .thread t → t < s.threads.length → t ∈ s.live (s.crewOf t) → s.crewOf t < s.crews.length →
    let c := s.crewOf t
    let after := fun (u : Nat) (d : BitVec 11) (b : Bool) => ((s.thr u).r.setP (d.setWidth 4) b).broke
    (s.joins (.elect h) = true → (s.crew c).leader = none →
      (∀ u ∈ s.live c, u ≠ t → ∃ d, (s.thr u).st = .waiting (.elect d)) →
      ∃ s', exec (.elect h) s = .next s' ∧
        ∀ u ∈ s.live c, ∀ d, (u = t ∧ d = h.d ∨ u ≠ t ∧ (s.thr u).st = .waiting (.elect d)) →
          if (s.live c).head? = some u then
            (s'.crew c).leader = some (s.thr u).num ∧ (s'.thr u).st = .ready ∧ (s'.thr u).r = after u d true
          else (s'.thr u).st = .sleeping ∧ (s'.thr u).r = after u d false) ∧
    (s.joins (.elect h) = true → (s.crew c).leader ≠ none → exec (.elect h) s = .next (s.reforms.raise { cause := .illegalCollective })) ∧
    (s.runs (.wake h) = true → s.isLeader t = true →
      ∃ s', exec (.wake h) s = .next s' ∧ (s'.crew c).leader = none ∧ (s'.thr t).r = (s.thr t).r.broke ∧
        ∀ u ∈ s.crewThreads c, u ≠ t → (s.thr u).st = .sleeping → (s'.thr u).st = .ready ∧ (s'.thr u).r = (s.thr u).r) ∧
    (s.runs (.wake h) = true → s.isLeader t = false → exec (.wake h) s = .next (s.reforms.raise { cause := .illegalCollective })) ∧
    (s.joins (.cbar h) = true → s.isLeader t = true → exec (.cbar h) s = .next (s.raise { cause := .illegalCollective }))

/-- R36, R212 and R213: the last arrival at CBAR, WGBAR and TILEBAR releases every thread that waits there, each past its instruction; an
earlier arrival waits. A TILEBAR whose tile is more than one core releases first (R103), once its core's posted writes can be performed;
it waits for no remote access, at whatever tile scope, which is the model's reading (log 34). -/
def Obligations.Barriers : Prop :=
  ∀ (s : State) (t : Nat) (h : Hdr), s.cur = .thread t → t < s.threads.length →
    let w := s.wgOf t
    let waits := fun (b : Wait) => s.reforms.updThr t fun x => { x with st := .waiting b }
    let sent := s.reforms.release (s.coreOf t) (s.tileScope t)
    let sentAll := s.tileScope t ≠ .core → sent.postBlocked (s.coreOf t) = none
    let past := fun (s' : State) (u : Nat) => (s'.thr u).st = .ready ∧ (s'.thr u).r = (s.thr u).r.broke
    (s.joins (.cbar h) = true → s.isLeader t = false → t ∈ s.live (s.crewOf t) →
      (∀ u ∈ s.live (s.crewOf t), u ≠ t → (s.thr u).st = .waiting .cbar) →
      ∃ s', exec (.cbar h) s = .next s' ∧ ∀ u ∈ s.live (s.crewOf t), past s' u) ∧
    (s.joins (.cbar h) = true → s.isLeader t = false → (∃ u ∈ s.live (s.crewOf t), u ≠ t ∧ rdvOf (s.thr u) = .none) →
      exec (.cbar h) s = .next (waits .cbar)) ∧
    (s.runs (.wgbar h) = true → (s.wg w).started = true → t ∈ s.required w →
      ((∀ u ∈ s.required w, u ≠ t → (s.thr u).st = .waiting .wgbar) →
        ∃ s', exec (.wgbar h) s = .next s' ∧ ∀ u ∈ s.required w, past s' u) ∧
      ((∃ u ∈ s.required w, u ≠ t ∧ (s.thr u).st ≠ .waiting .wgbar) →
        exec (.wgbar h) s = .next (waits .wgbar))) ∧
    (s.runs (.tilebar h) = true → sentAll → w < s.wgs.length → s.wgDone w = false →
      ((∃ u ∈ s.required w, u ≠ t ∧ (s.thr u).st ≠ .waiting .tilebar) ∨ (s.tileWgs w).length ≠ s.tileSize w ∨
        (∃ m ∈ s.tileWgs w, m ≠ w ∧ s.wgDone m = false ∧ (s.required m = [] ∨ s.arrived true m = false))) →
      exec (.tilebar h) s = .next (sent.updThr t fun x => { x with st := .waiting .tilebar })) ∧
    (s.runs (.tilebar h) = true → sentAll → (s.wg w).started = true → (s.wg w).stage = .active → t ∈ s.required w → w ∈ s.tileWgs w →
      (s.tileWgs w).length = s.tileSize w → (∀ u ∈ s.required w, u ≠ t → (s.thr u).st = .waiting .tilebar) →
      (∀ m ∈ s.tileWgs w, m ≠ w → s.wgDone m = true ∨ s.required m ≠ [] ∧ s.arrived true m = true) →
      ∃ s', exec (.tilebar h) s = .next s' ∧ ∀ m ∈ s.tileWgs w, m = w ∨ s.wgDone m = false → ∀ u ∈ s.required m, past s' u)

/-- R131, R133, R218, R219, R220, R222 and R223: the results and flags of class 3. Each value is the exact value of its formula, read from
the operands' patterns under NUMCFG.ftz, rounded once in the instruction's mode (HFMA2 and FDOT2: the exact products and the exact sum
with vd before the instruction); its flags are added to %status; nothing else changes. What the values and the rounding in these results
are, said of rational numbers: the value of a pattern, the exact product and the exact sum with the sign of a zero, the one rounding
with overflow, underflow, flush and inexact (what is tiny: log 13); quotient, root, inverse and inverse root as the rounded exact ones;
minimum and maximum by the order in which -0.0 lies below +0.0; sign and class; and what FEXP2 and FLOG2 give at the operands of R222's
table, and between which powers or integers elsewhere. R222: FEXP2 and FLOG2 at the operands of the table, and the powers or integers
between which they lie elsewhere, with their flags. -/
def Obligations.FloatResults : Prop :=
  ((∀ (s : State) (t : Nat) (h : Hdr) (a b c : Src) (rm : Rnd) (nanp h16 : Bool), s.cur = .thread t →
        let z := s.ftz
        let A := (s.curRegs.rv a).toNat
        let B := (s.curRegs.rv b).toNat
        let C := (s.curRegs.rv c).toNat
        let V := fun (x : Nat) => f32.val z x
        let g := if h16 then f16 else bf16
        let P := fun (x : Nat) => g.val z x
        let D := (s.curRegs.v.get h.d.toNat).toNat
        let gives := fun (i : Instr) (r : FR) => s.runs i = true → exec i s =
          .next ((s.updThr t fun x => { x with status := x.status ||| r.fl }).goesOn (s.curRegs.gotV h (BitVec.ofNat 32 r.pat)))
        let pair := fun (lo hi : FR) => FR.mk (lo.pat + 65536 * hi.pat) (lo.fl ||| hi.fl)
        let lo := fun (x : Nat) => x % 65536
        let hi := fun (x : Nat) => x / 65536
        let prod := fun (x y : Nat) => (P x).mul (P y)
        let fma := fun (x y w : Nat) => g.deliver rm z ((sumFV rm [(prod x y).1, P w]).1, (sumFV rm [(prod x y).1, P w]).2 ||| (prod x y).2)
        (gives (.fadd h a b rm) (f32.deliver rm z (sumFV rm [V A, V B])) ∧
          gives (.fsub h a b rm) (f32.deliver rm z (sumFV rm [V A, V (Nat.xor B 0x80000000)])) ∧
          gives (.fmul h a b rm) (f32.deliver rm z ((V A).mul (V B))) ∧
          gives (.ffma h a b c) (f32.deliver .rne z
            ((sumFV .rne [((V A).mul (V B)).1, V C]).1, (sumFV .rne [((V A).mul (V B)).1, V C]).2 ||| ((V A).mul (V B)).2)) ∧
          gives (.fdiv h a b rm) (f32.div rm z A B) ∧ gives (.fsqrt h a rm) (f32.sqrt rm z A)) ∧
        (gives (.fmin h a b nanp) (f32.minmax false nanp z A B) ∧ gives (.fmax h a b nanp) (f32.minmax true nanp z A B) ∧
          gives (.fabs h a) ⟨f32.abs z A, 0⟩ ∧ gives (.fneg h a) ⟨f32.negate z A, 0⟩ ∧ gives (.fclass h a) ⟨f32.class z A, 0⟩) ∧
        (gives (.frcp h a rm) (f32.rcp z A) ∧ gives (.frsq h a rm) (f32.rsq z A) ∧
          gives (.fexp2 h a rm) (exp2Op z (s.curRegs.rv a)) ∧ gives (.flog2 h a rm) (log2Op z (s.curRegs.rv a))) ∧
        (gives (.hadd2 h a b h16 rm) (pair (g.deliver rm z (sumFV rm [P (lo A), P (lo B)])) (g.deliver rm z (sumFV rm [P (hi A), P (hi B)]))) ∧
          gives (.hmul2 h a b h16 rm) (pair (g.deliver rm z ((P (lo A)).mul (P (lo B)))) (g.deliver rm z ((P (hi A)).mul (P (hi B))))) ∧
          gives (.hfma2 h a b h16 rm) (pair (fma (lo A) (lo B) (lo D)) (fma (hi A) (hi B) (hi D))) ∧
          (∀ mx, gives (.hminmax2 h a b h16 mx nanp) (pair (g.minmax mx nanp z (lo A) (lo B)) (g.minmax mx nanp z (hi A) (hi B)))) ∧
          gives (.fdot2 h a b h16 rm) (f32.deliver rm z
            ((sumFV rm [(prod (lo A) (lo B)).1, (prod (hi A) (hi B)).1, V D]).1,
             (sumFV rm [(prod (lo A) (lo B)).1, (prod (hi A) (hi B)).1, V D]).2 ||| ((prod (lo A) (lo B)).2 ||| (prod (hi A) (hi B)).2))))) ∧
    (∀ (f : Fmt) (rm : Rnd) (z : Bool) (A B : Nat), f = f32 ∨ f = bf16 ∨ f = f16 → A < 2 ^ f.w → B < 2 ^ f.w →
        let fin := fun (x : Nat) => f.ex x ≠ 2 ^ f.eb - 1
        let neg := fun (x : Nat) => decide (2 ^ (f.w - 1) ≤ x)
        let v := fun (x : Nat) => f.read z x
        let nan := fun (x : Nat) => f.ex x = 2 ^ f.eb - 1 ∧ f.fr x ≠ 0
        let sig : BitVec 9 := if f.isSNaN A ∨ f.isSNaN B then 1 else 0
        let q := fun (s : Bool) (n d : Nat) => if s then -((n : ℚ) / d) else (n : ℚ) / d
        let low := fun (x : Nat) => x % 2 ^ (f.w - 1)
        let as := fun (x : Nat) => if z ∧ f.ex x = 0 then x - low x else x
        let ord := fun (x : Nat) => if neg x then -(low x : ℤ) - 1 else (low x : ℤ)
        let pick := fun (mx : Bool) => if (if mx then ord (as A) < ord (as B) else ord (as B) < ord (as A)) then as B else as A
        ((fin A → ∃ n d, f.val z A = .fin (neg A) n d ∧ 0 < d ∧ (n : ℚ) / d = |v A|) ∧
          (f.ex A = 2 ^ f.eb - 1 → f.fr A = 0 → f.val z A = .inf (neg A)) ∧
          (nan A → f.val z A = .nan (decide (f.fr A < 2 ^ (f.fb - 1))))) ∧
        (∀ s n d, 0 < d → f.rounded rm z s (q s n d) (f.round rm z s n d)) ∧
        (∀ fl g s n d, f.deliver rm z (.nan g, fl) = ⟨f.canon, fl⟩ ∧ f.deliver rm z (.inf s, fl) = ⟨f.infPat s, fl⟩ ∧
          f.deliver rm z (.fin s n d, fl) = ⟨(f.round rm z s n d).pat, fl ||| (f.round rm z s n d).fl⟩) ∧
        (∀ s n d t m e, (FV.fin s n d).mul (.fin t m e) = (.fin (s ^^ t) (n * m) (d * e), 0)) ∧
        (∀ ts : List (Bool × Nat × Nat), ts ≠ [] → (∀ x ∈ ts, 0 < x.2.2) →
          let sum := (ts.map fun x => q x.1 x.2.1 x.2.2).sum
          ∃ s n d, sumFV rm (ts.map fun x => .fin x.1 x.2.1 x.2.2) = (.fin s n d, 0) ∧ 0 < d ∧ q s n d = sum ∧
            (sum = 0 → (s = true ↔ (∀ x ∈ ts, x.1 = true) ∨ rm = .rdn ∧ ∃ x ∈ ts, x.1 = true))) ∧
        (fin A → fin B → v B ≠ 0 → v A ≠ 0 → f.rounded rm z (neg A ^^ neg B) (v A / v B) (f.div rm z A B)) ∧
        (fin A → fin B → v B ≠ 0 → v A = 0 → f.div rm z A B = ⟨f.zeroPat (neg A ^^ neg B), 0⟩) ∧
        (f = f32 → fin A → 0 < v A → f.rootOf rm (v A) (f.sqrt rm z A) ∧ f.rootOf .rne (v A)⁻¹ (f.rsq z A)) ∧
        (fin A → v A ≠ 0 → f.rounded .rne z (neg A) (v A)⁻¹ (f.rcp z A)) ∧
        (∀ mx np, f.minmax mx np z A B =
          ⟨if nan A ∧ nan B ∨ np = true ∧ (nan A ∨ nan B) then f.canon else if nan A then as B else if nan B then as A else pick mx, sig⟩) ∧
        (f.abs z A = (if nan A then f.canon else low (as A)) ∧
          f.negate z A = if nan A then f.canon else if neg A then as A - 2 ^ (f.w - 1) else as A + 2 ^ (f.w - 1)) ∧
        (∃ k < 10, f.class z A = 2 ^ k ∧
          (nan A → k = if f.fr A < 2 ^ (f.fb - 1) then 8 else 9) ∧
          (¬nan A → ¬fin A → k = if neg A then 0 else 7) ∧
          (fin A → v A = 0 → k = if neg A then 3 else 4) ∧
          (fin A → v A ≠ 0 → f.ex A = 0 → k = if neg A then 2 else 5) ∧
          (fin A → f.ex A ≠ 0 → k = if neg A then 1 else 6)))) ∧
  (∀ (z : Bool) (a : Word) (n : ℤ),
      let x := f32.read z a.toNat
      let fin := f32.ex a.toNat ≠ 255
      let nan := f32.ex a.toNat = 255 ∧ f32.fr a.toNat ≠ 0
      let sig : BitVec 9 := if nan ∧ f32.fr a.toNat < 2 ^ 22 then 1 else 0
      let e := exp2Op z a
      let l := log2Op z a
      let flags := fun (r : FR) => r.pat < 2 ^ 32 ∧ f32.ex r.pat ≠ 255 ∧ (r.fl = 16 ∨ r.fl = 24) ∧
        (f32.ex r.pat = 0 → f32.fr r.pat ≠ 0 → z = false ∧ r.fl = 24)
      (nan → e = ⟨0x7FC00000, sig⟩ ∧ l = ⟨0x7FC00000, sig⟩) ∧
      (a = 0x7F800000 → e = ⟨0x7F800000, 0⟩ ∧ l = ⟨0x7F800000, 0⟩) ∧ (a = 0xFF800000 → e = ⟨0, 0⟩ ∧ l = ⟨0x7FC00000, 1⟩) ∧
      (fin → x = n → -149 ≤ n → n ≤ 127 → if z ∧ n < -126 then e = ⟨0, 24⟩ else f32.rat e.pat = 2 ^ n ∧ e.pat < 2 ^ 31 ∧ e.fl = 0) ∧
      (fin → 128 ≤ x → e = ⟨0x7F800000, 20⟩) ∧ (fin → x ≤ -150 → e = ⟨0, 24⟩) ∧
      (fin → -150 < x → x < 128 → ⌊x⌋ ≠ x → flags e ∧ f32.rat e.pat ≤ 2 ^ (⌊x⌋ + 1) ∧
        (if ⌊x⌋ < -149 ∨ z ∧ ⌊x⌋ < -126 then 0 ≤ f32.rat e.pat else 2 ^ ⌊x⌋ ≤ f32.rat e.pat)) ∧
      (fin → x = 0 → l = ⟨0xFF800000, 2⟩) ∧ (fin → x < 0 → l = ⟨0x7FC00000, 1⟩) ∧
      (fin → x = 2 ^ n → f32.rat l.pat = n ∧ l.pat < 2 ^ 32 ∧ (n = 0 → l.pat = 0) ∧ l.fl = 0) ∧
      (fin → (2 : ℚ) ^ n < x → x < 2 ^ (n + 1) → flags l ∧ (n : ℚ) ≤ f32.rat l.pat ∧ f32.rat l.pat ≤ n + 1))

/-- R128, R133 and R219 to R222: the results that involve a NaN, an infinity or a zero: the canonical NaN, nv for a signalling NaN and an
invalid operation, dz for a division by zero. R221: FCMP for every pair of patterns: NaN makes only .ne and .nan true, the zeros are
equal, and nv is set by a signalling NaN. -/
def Obligations.FloatSpecialsAndCompares : Prop :=
  (∀ (A B : Nat) (rm : Rnd) (z : Bool) (f : Fmt), f = f32 ∨ f = bf16 ∨ f = f16 → A < 2 ^ f.w → B < 2 ^ f.w →
      let nan := f.isNaN A || f.isNaN B
      let sig := f.isSNaN A || f.isSNaN B
      let nv : BitVec 9 := if sig then 1 else 0
      (nan = true → f.add rm z A B = ⟨f.canon, nv⟩ ∧ f.sub rm z A B = ⟨f.canon, nv⟩ ∧ f.mul rm z A B = ⟨f.canon, nv⟩ ∧
        f.div rm z A B = ⟨f.canon, nv⟩) ∧
      (f.isInf A = true → f.isInf B = true →
        f.add rm z A B = (if f.neg A = f.neg B then ⟨A, 0⟩ else ⟨f.canon, 1⟩) ∧
        f.sub rm z A B = (if f.neg A = f.neg B then ⟨f.canon, 1⟩ else ⟨A, 0⟩) ∧ f.div rm z A B = ⟨f.canon, 1⟩) ∧
      (f.isInf A = true → f.isZero B = true → f.mul rm z A B = ⟨f.canon, 1⟩ ∧ f.mul rm z B A = ⟨f.canon, 1⟩) ∧
      (f.isZero A = true → f.isZero B = true → f.div rm z A B = ⟨f.canon, 1⟩) ∧
      (f.isNaN A = false → f.isZero A = false → f.isSub A = false → f.isZero B = true →
        f.div rm z A B = ⟨f.infPat (f.neg A != f.neg B), 2⟩) ∧
      (f.isZero A = true → f.sqrt rm z A = ⟨A, 0⟩ ∧ f.rcp z A = ⟨f.infPat (f.neg A), 2⟩ ∧ f.rsq z A = ⟨f.infPat (f.neg A), 2⟩) ∧
      (f.neg A = true → f.isNaN A = false → f.isZero A = false → f.isSub A = false → f.sqrt rm z A = ⟨f.canon, 1⟩ ∧ f.rsq z A = ⟨f.canon, 1⟩)) ∧
  (∀ (s : State) (t : Nat) (h : Hdr) (a b : Src) (cond : FCond) (q : BitVec 4), s.cur = .thread t →
      let z := s.ftz
      let A := (s.curRegs.rv a).toNat
      let B := (s.curRegs.rv b).toNat
      let un := f32.isNaN A || f32.isNaN B
      let nv : BitVec 9 := if f32.isSNaN A || f32.isSNaN B then 1 else 0
      let zero := fun x => f32.isZero x || z && f32.isSub x
      let ord := fun x => if zero x then 0 else if f32.neg x then -((x % 2 ^ 31 : Nat) : Int) else ((x % 2 ^ 31 : Nat) : Int)
      let r : Bool := match cond with
        | .eq => !un && ord A == ord B
        | .ne => un || ord A != ord B
        | .lt => !un && decide (ord A < ord B)
        | .le => !un && decide (ord A ≤ ord B)
        | .gt => !un && decide (ord B < ord A)
        | .ge => !un && decide (ord B ≤ ord A)
        | .num => !un
        | .nan => un
      let gives := fun (i : Instr) (b : Bool) => s.runs i = true →
        exec i s = .next ((s.updThr t fun x => { x with status := x.status ||| nv }).goesOn (s.curRegs.gotP h b))
      gives (.fcmp h a b cond .none) r ∧ gives (.fcmp h a b cond (.and q)) (r && s.curRegs.pred q) ∧
        gives (.fcmp h a b cond (.or q)) (r || s.curRegs.pred q))

/-- R131, R224 and R225: CVT, every source and destination format. Between integers it keeps the low bits or saturates; from an integer it
rounds once; to an integer it rounds in its mode and saturates with nv, or is inexact with nx, and a NaN gives 0 with nv; between float
formats it delivers the value rounded once, and to the same format the value rounded to an integral one. -/
def Obligations.Conversions : Prop :=
  ∀ (s : State) (t : Nat) (h : Hdr) (a : Src) (src dst : CvtFmt) (rm : Rnd) (sat : Bool), s.cur = .thread t →
    s.runs (.cvt h a src dst rm sat) = true →
    let X : DWord := if src = .s64 then s.curRegs.rx a else (s.curRegs.rv a).setWidth 64
    let gives := fun (x : DWord) (fl : BitVec 9) => exec (.cvt h a src dst rm sat) s =
      .next ((s.updThr t fun y => { y with status := y.status ||| fl }).goesOn
        (if dst = .s64 then s.curRegs.gotX h x else s.curRegs.gotV h (x.extractLsb' 0 32)))
    let int := fun (f : CvtFmt) => f ∈ [CvtFmt.s8, .u8, .s32, .s64]
    let fmt := fun (f : CvtFmt) => match f with | .bf16 => bf16 | .f16 => f16 | _ => f32
    let lo : Int := match dst with | .s8 => -2 ^ 7 | .u8 => 0 | .s64 => -2 ^ 63 | _ => -2 ^ 31
    let hi : Int := match dst with | .s8 => 2 ^ 7 - 1 | .u8 => 2 ^ 8 - 1 | .s64 => 2 ^ 63 - 1 | _ => 2 ^ 31 - 1
    let v : Int := match src with
      | .s8 => (X.extractLsb' 0 8).toInt
      | .u8 => (X.extractLsb' 0 8).toNat
      | .s64 => X.toInt
      | _ => (X.extractLsb' 0 32).toInt
    let V := (fmt src).val s.ftz (X.toNat % 2 ^ (fmt src).w)
    let q := fun (neg : Bool) (n d : Nat) => if neg then -((n : ℚ) / d) else (n : ℚ) / d
    let rounds := fun (x : ℚ) (y : Int) => match rm with
      | .rne => |x - y| ≤ 1 / 2 ∧ (|x - y| = 1 / 2 → Even y)
      | .rz => |(y : ℚ)| ≤ |x| ∧ |x - y| < 1 ∧ 0 ≤ x * y
      | .rdn => y = ⌊x⌋
      | .rup => y = ⌈x⌉
    let nx := fun (x : ℚ) (y : Int) => if x = y then (0 : BitVec 9) else 16
    (int src → int dst →
      (sat = true → gives (BitVec.ofInt 64 (max lo (min hi v))) 0) ∧
      (sat = false → ∃ y : Int, lo ≤ y ∧ y ≤ hi ∧ (y - v) % (hi - lo + 1) = 0 ∧ gives (BitVec.ofInt 64 y) 0)) ∧
    (int src → ¬int dst →
      let r := (fmt dst).round rm s.ftz (decide (v < 0)) v.natAbs 1
      gives (BitVec.ofNat 64 r.pat) r.fl) ∧
    (¬int src → int dst →
      (∀ g, V = .nan g → gives 0 1) ∧
      (∀ neg, V = .inf neg → gives (BitVec.ofInt 64 (if neg then lo else hi)) 1) ∧
      (∀ neg n d, V = .fin neg n d → ∃ y : Int, rounds (q neg n d) y ∧
        (y < lo → gives (BitVec.ofInt 64 lo) 1) ∧ (hi < y → gives (BitVec.ofInt 64 hi) 1) ∧
        (lo ≤ y → y ≤ hi → gives (BitVec.ofInt 64 y) (nx (q neg n d) y)))) ∧
    (¬int src → ¬int dst → src ≠ dst →
      let r := (fmt dst).deliver rm s.ftz (match V with | .nan sig => (.nan false, if sig then 1 else 0) | y => (y, 0))
      gives (BitVec.ofNat 64 r.pat) r.fl) ∧
    (¬int src → dst = src →
      (∀ g, V = .nan g → gives (BitVec.ofNat 64 (fmt src).canon) (if g then 1 else 0)) ∧
      (∀ neg, V = .inf neg → gives (BitVec.ofNat 64 ((fmt src).infPat neg)) 0) ∧
      (∀ neg n d, V = .fin neg n d → ∃ y : Int, rounds (q neg n d) y ∧
        gives (BitVec.ofNat 64 ((fmt src).round rm s.ftz neg y.natAbs 1).pat) (nx (q neg n d) y)))

/-- R232, R234 and R235: LD and LDA whose checks pass (R233) read the bytes at EA = A + Sign_Extend(B) + disp as their core sees them; the
registers they write take the value when the data returns, little-endian and extended by width; a line with poison gives POISON then. A
check that fails traps at the instruction. -/
def Obligations.Loads : Prop :=
  ∀ (s : State) (t w : Nat) (h : Hdr) (a b : Src) (m : MemMod),
    let r := s.curRegs
    let core := s.coreOf t
    let va := r.rx a + (r.rv b).signExtend 64 + m.ext.getD 0
    let vals := fun (bs : List Byte) =>
      let byte := fun (j : Nat) => bs.getD j 0
      let word := fun (j : Nat) => (byte (4 * j + 3) ++ byte (4 * j + 2) ++ byte (4 * j + 1) ++ byte (4 * j) : Word)
      match m.width with
      | .u8 => [(byte 0).setWidth 32]
      | .s8 => [(byte 0).signExtend 32]
      | .u16 => [(byte 1 ++ byte 0).setWidth 32]
      | .s16 => [(byte 1 ++ byte 0).signExtend 32]
      | .b32 => [word 0]
      | .b64 => [word 0, word 1]
      | .b128 => [word 0, word 1, word 2, word 3]
    (s.cur = .thread t → s.requests core < 2048 →
      let found := s.reforms.check s.curAs (some core) va (Width.bytes m.width) .load
      (∀ x, found.2 = .trap x →
        (s.runs (.ld h a b m) = true → exec (.ld h a b m) s = .next (found.1.raise x)) ∧
        (s.runs (.lda h a b m) = true → exec (.lda h a b m) s = .next (found.1.raise x))) ∧
      (∀ p, found.2 = .ok p →
        let s2 := found.1.demandPlace p
        let fly : LoadFly :=
          { thread := t, walker := none, d := h.d.toNat, vals := vals (s2.fetchPlace (some core) p),
            poison := if s2.placeBad p then some va else none, pc := r.pc }
        (s.runs (.ld h a b m) = true → exec (.ld h a b m) s = .next (State.goesOn { s2 with loads := s2.loads ++ [fly] } r.broke)) ∧
        (s.runs (.lda h a b m) = true → exec (.lda h a b m) s = .next (State.goesOn { s2 with loads := s2.loads ++ [fly] } r.broke)))) ∧
    (s.cur = .walker w → va.toNat % Width.bytes m.width = 0 → s.runs (.ld h a b m) = true →
      let found := s.walkerPlace va (Width.bytes m.width)
      ∀ p, found.2 = .ok p →
        let s2 := found.1.demandPlace p
        let fly : LoadFly :=
          { thread := s.t, walker := some w, d := h.d.toNat, vals := vals (s2.fetchPlace none p), poison := none, pc := r.pc }
        (s2.placeBad p = false → exec (.ld h a b m) s = .next (State.goesOn { s2 with loads := s2.loads ++ [fly] } r.broke)) ∧
        (s2.placeBad p = true → exec (.ld h a b m) s =
          .next ((s2.updCmd (s.wlk w).cmd fun c => { c with eccUe := true }).goesOn r.broke)))

/-- R97, R99, R235 and R236: ST and STREL whose checks pass post their bytes, STREL after the release of R99; a check that fails traps and
stores nothing. -/
def Obligations.Stores : Prop :=
  ∀ (s : State) (t : Nat) (h : Hdr) (a b : Src) (m : MemMod), s.cur = .thread t →
    let r := s.curRegs
    let core := s.coreOf t
    let va := r.rx a + m.ext.getD 0
    let found := s.reforms.check s.curAs (some core) va (Width.bytes m.width) .store
    let s1 := found.1
    let le := fun (n : Nat) (x : DWord) => (List.range n).map fun j => x.extractLsb' (8 * j) 8
    let bs : List Byte := match m.width with
      | .b64 => le 8 (r.rx b)
      | .b128 => (List.range 4).flatMap fun k => le 4 ((r.v.get (srcReg b + k)).setWidth 64)
      | w => le (Width.bytes w) ((r.rv b).setWidth 64)
    s.requests core < 2048 →
    (∀ x, found.2 = .trap x →
      (s.runs (.st h a b m) = true → exec (.st h a b m) s = .next (s1.raise x)) ∧
      (s.runs (.strel h a b m) = true → s.remotePending (s.crewOf t) s.racc.length = false →
        exec (.strel h a b m) s = .next (s1.raise x))) ∧
    (∀ pas wv, found.2 = .ok (.mem pas wv) → s1.placeBlocked (.mem pas wv) = none →
      (s.runs (.st h a b m) = true → exec (.st h a b m) s = .next ((s1.storePlace core (.mem pas wv) bs).goesOn r.broke)) ∧
      (s.runs (.strel h a b m) = true → s.remotePending (s.crewOf t) s.racc.length = false →
        (m.scope ≠ .core → (s1.flushCore core).postBlocked core = none) →
        exec (.strel h a b m) s =
          .next (((if m.scope = .core then s1 else s1.flushCore core).storePlace core (.mem pas wv) bs).goesOn r.broke)))

/-- R55, R95 to R97: after a plain store to bytes whose lines no stash has registered, the core that stored reads the stored bytes there and
every other byte as before; every other agent reads every byte as before. R55 and R97: a write performed at a home that no stash has
registered is read by every agent without a posted write there; every other byte reads as before. -/
def Obligations.StoredBytes : Prop :=
  (∀ (s : State) (core : Nat) (pas : List Nat) (bs : List Byte) (wv : Bool), pas.Nodup → pas.length = bs.length →
      (∀ pa ∈ pas, s.dirFind (pa / 64) = none) →
      let s' := s.storePlace core (.mem pas wv) bs
      (∀ j (hj : j < pas.length), s'.viewByte (some core) pas[j] = bs.getD j 0) ∧
      (∀ x, x ∉ pas → s'.viewByte (some core) x = s.viewByte (some core) x) ∧
      (∀ view x, view ≠ some core → s'.viewByte view x = s.viewByte view x) ∧ s'.mem = s.mem) ∧
  (∀ (s : State) (pa : Nat) (bs : List Byte) (wv : Bool), Memory.wf s.mem = true → s.arrayErr = [] →
      (∀ k < bs.length, s.dirFind ((pa + k) / 64) = none) →
      ∀ x, (s.perform pa bs wv).homeByte x = if pa ≤ x ∧ x < pa + bs.length then bs.getD (x - pa) 0 else s.homeByte x)

/-- R96, R243, R244 and R248: an atomic whose check passes reads the value in its place after its core's own earlier writes there and its
release, writes the new value of its operation there at once, and delivers the old one; CAS writes only where vd was the value there;
RED and BOADD deliver nothing. A check that fails traps; an ATOM or CAS that meets poison performs nothing and returns as POISON. -/
def Obligations.Atomics : Prop :=
  ∀ (s : State) (t : Nat) (h : Hdr) (a b : Src) (m : AtomMod) (b64 : Bool) (pas : List Nat) (wv : Bool), s.cur = .thread t →
    let r := s.curRegs
    let core := s.coreOf t
    let p : Place := .mem pas wv
    let wide := m.ty == .s64 || m.ty == .u64
    let sgn := m.ty == .s32 || m.ty == .s64
    let rel := m.order == .rel || m.order == .acqrel
    let n := fun (wide : Bool) => if wide then 8 else 4
    let found := fun (wide : Bool) => s.reforms.check s.curAs (some core) (r.rx a) (n wide) .atomic
    let released := fun (wide rel : Bool) (sc : Scope) => if rel && sc != .core then (found wide).1.flushCore core else (found wide).1
    let s3 := fun (wide rel : Bool) (sc : Scope) => ((released wide rel sc).settlePlace core p).demandPlace p
    let old := fun (wide rel : Bool) (sc : Scope) => dwOf ((s3 wide rel sc).fetchPlace none p)
    let new32 : Word → Word → Word := fun o x => match m.op with
      | .add => o + x
      | .min => if intOf (!sgn) x < intOf (!sgn) o then x else o
      | .max => if intOf (!sgn) o < intOf (!sgn) x then x else o
      | .and => o &&& x
      | .or => o ||| x
      | .xor => o ^^^ x
      | .exch => x
      | .incWrap => if x.toNat ≤ o.toNat then 0 else o + 1
      | .decWrap => if o = 0 ∨ x.toNat < o.toNat then x else o - 1
      | .fadd => BitVec.ofNat 32 (f32.add .rne false o.toNat x.toNat).pat
      | .fmin => BitVec.ofNat 32 (f32.minmax false false false o.toNat x.toNat).pat
      | .fmax => BitVec.ofNat 32 (f32.minmax true false false o.toNat x.toNat).pat
    let new64 : DWord → DWord → DWord := fun o x => match m.op with
      | .add => o + x
      | .min => if (if sgn then x.slt o else x.ult o) then x else o
      | .max => if (if sgn then o.slt x else o.ult x) then x else o
      | .and => o &&& x
      | .or => o ||| x
      | .xor => o ^^^ x
      | .exch => x
      | .incWrap => if x.toNat ≤ o.toNat then 0 else o + 1
      | .decWrap => if o = 0 ∨ x.toNat < o.toNat then x else o - 1
      | .fadd => BitVec.ofNat 64 (f32.add .rne false o.toNat x.toNat).pat
      | .fmin => BitVec.ofNat 64 (f32.minmax false false false o.toNat x.toNat).pat
      | .fmax => BitVec.ofNat 64 (f32.minmax true false false o.toNat x.toNat).pat
    let bytes := fun (wide : Bool) (x : DWord) => (List.range (n wide)).map fun j => x.extractLsb' (8 * j) 8
    let newBytes := fun (o : DWord) =>
      if wide then bytes true (new64 o (r.rx b)) else bytes false ((new32 (o.setWidth 32) (r.rv b)).setWidth 64)
    let fly := fun (wide : Bool) (o : DWord) =>
      let vals := if wide then [o.setWidth 32, o.extractLsb' 32 32] else [o.setWidth 32]
      ({ thread := t, walker := none, d := h.d.toNat, vals := vals, poison := none, pc := r.pc } : LoadFly)
    let deliver := fun (s : State) (wide : Bool) (o : DWord) => State.goesOn { s with loads := s.loads ++ [fly wide o] } r.broke
    let noted := fun (s : State) => if m.op = .add then s.noteAdvance (pas.headD 0) else s
    let good := fun (wide rel : Bool) (sc : Scope) =>
      (found wide).2 = .ok p ∧ (found wide).1.placeBlocked p = none ∧
      (rel = true → sc ≠ .core → ((found wide).1.flushCore core).postBlocked core = none) ∧
      (rel = true → sc = .pkg ∨ sc = .dom → s.remotePending (s.crewOf t) s.racc.length = false)
    let mayGo := fun (rel : Bool) (sc : Scope) => rel = true → sc = .pkg ∨ sc = .dom → s.remotePending (s.crewOf t) s.racc.length = false
    let poisoned := fun (s : State) (wide : Bool) =>
      State.goesOn { s with loads := s.loads ++ [{ fly wide 0 with poison := some (r.rx a) }] } r.broke
    s.requests core < 2048 →
    (mayGo rel m.scope → ∀ x, (found wide).2 = .trap x → ∀ i ∈ [Instr.atom h a b m, .red h a b m], s.runs i = true →
      exec i s = .next ((found wide).1.raise x)) ∧
    (mayGo rel m.scope → ∀ x, (found b64).2 = .trap x → s.runs (.cas h a b b64 m.order m.scope) = true →
      exec (.cas h a b b64 m.order m.scope) s = .next ((found b64).1.raise x)) ∧
    (mayGo true m.scope → ∀ x, (found true).2 = .trap x → s.runs (.boadd h a b m.scope) = true →
      exec (.boadd h a b m.scope) s = .next ((found true).1.raise x)) ∧
    (good wide rel m.scope → (s3 wide rel m.scope).placeBad p = true → s.runs (.atom h a b m) = true →
      exec (.atom h a b m) s = .next (poisoned (s3 wide rel m.scope) wide)) ∧
    (good b64 rel m.scope → (s3 b64 rel m.scope).placeBad p = true → s.runs (.cas h a b b64 m.order m.scope) = true →
      exec (.cas h a b b64 m.order m.scope) s = .next (poisoned (s3 b64 rel m.scope) b64)) ∧
    (good wide rel m.scope →
      let u := s3 wide rel m.scope
      let o := old wide rel m.scope
      (s.runs (.atom h a b m) = true → u.placeBad p = false →
        exec (.atom h a b m) s = .next (deliver (noted (u.performPlace p (newBytes o))) wide o)) ∧
      (s.runs (.red h a b m) = true → exec (.red h a b m) s = .next ((noted (u.performPlace p (newBytes o))).goesOn r.broke))) ∧
    (good b64 rel m.scope →
      let u := s3 b64 rel m.scope
      let o := old b64 rel m.scope
      s.runs (.cas h a b b64 m.order m.scope) = true → u.placeBad p = false →
        exec (.cas h a b b64 m.order m.scope) s = .next (deliver
          (if o = (if b64 then r.x h.d.toNat else (r.v.get h.d.toNat).setWidth 64) then
            u.performPlace p (bytes b64 (if b64 then r.rx b else (r.rv b).setWidth 64)) else u) b64 o)) ∧
    (good true true m.scope →
      let u := s3 true true m.scope
      s.runs (.boadd h a b m.scope) = true → exec (.boadd h a b m.scope) s = .next (((u.performPlace p (bytes true (BitVec.ofNat 64
        (min (2 ^ 64 - 1) ((old true true m.scope).toNat + (r.rx b).toNat))))).noteAdvance (pas.headD 0)).goesOn r.broke))

/-- R239, R243 and R244 in the stash: LDS reads, STS writes and SATOM reads and writes the bytes of the thread's own workgroup at the stash
address, once the checks of R239 have passed; a check that fails traps. An LDS or SATOM that meets poison takes POISON at its next
boundary, and writes neither its registers nor the stash (R406). -/
def Obligations.StashAccesses : Prop :=
  ∀ (s : State) (t : Nat) (h : Hdr) (a b : Src) (w : Width) (off : BitVec 8) (m : AtomMod), s.cur = .thread t → s.wgOf t < s.wgs.length →
    let r := s.curRegs
    let g := s.wgOf t
    let lo := (r.rv a + r.rv b).toNat
    let so := (r.rv b).toNat + off.toNat * Width.bytes w
    let wide := tyWide m.ty
    let n := if wide then 8 else 4
    let ao := (r.rv a).toNat
    let found := fun (x n : Nat) (write : Bool) => s.reforms.stashCheck g x n write
    let poison := fun (u : State) (x : Nat) =>
      let cause : TrapInfo := { cause := .poison, addr := BitVec.ofNat 64 x, aux := BitVec.ofNat 64 h.d.toNat }
      State.goesOn (u.updThr t fun y => { y with async := y.async ++ [⟨cause, (u.thr t).r.pc, u.cyc.toNat⟩] }) r.broke
    (s.runs (.lds h a b w) = true →
      let u := (found lo (Width.bytes w) false).1
      (∀ x, (found lo (Width.bytes w) false).2 = .trap x → exec (.lds h a b w) s = .next (u.raise x)) ∧
      ((found lo (Width.bytes w) false).2 = .ok () → u.stashBad g lo (Width.bytes w) = true → s.hasExited t = false →
        exec (.lds h a b w) s = .next (poison u lo)) ∧
      ((found lo (Width.bytes w) false).2 = .ok () → u.stashBad g lo (Width.bytes w) = false →
        exec (.lds h a b w) s = .next (u.goesOn
          (r.setVals h.d.toNat (loadVals w ((List.range (Width.bytes w)).map fun j => (u.wg g).stash.get (lo + j)))).broke))) ∧
    (s.runs (.sts h a b w off) = true →
      let u := (found so (Width.bytes w) true).1
      (∀ x, (found so (Width.bytes w) true).2 = .trap x → exec (.sts h a b w off) s = .next (u.raise x)) ∧
      ((found so (Width.bytes w) true).2 = .ok () → ∃ s' : State, exec (.sts h a b w off) s = .next (s'.goesOn r.broke) ∧
        (s'.wg g).stash = putBytes (u.wg g).stash so (r.storeBytes w a) ∧ s'.mem = u.mem ∧ s'.threads = u.threads ∧
        ∀ v, v ≠ g → s'.wg v = u.wg v)) ∧
    (s.runs (.satom h a b m) = true →
      let u := (found ao n true).1
      let old := dwOf ((List.range n).map fun j => (u.wg g).stash.get (ao + j))
      (∀ x, (found ao n true).2 = .trap x → exec (.satom h a b m) s = .next (u.raise x)) ∧
      ((found ao n true).2 = .ok () → u.stashBad g ao n = true → s.hasExited t = false → exec (.satom h a b m) s = .next (poison u ao)) ∧
      ((found ao n true).2 = .ok () → u.stashBad g ao n = false →
      ∃ s' : State, exec (.satom h a b m) s = .next (s'.goesOn (r.setVals h.d.toNat (wordsOf wide old)).broke) ∧
        (s'.wg g).stash = putBytes (u.wg g).stash ao (bytesOf n (atomVal m.op m.ty old (if wide then r.rx b
          else (r.rv b).setWidth 64))) ∧ s'.mem = u.mem ∧ s'.threads = u.threads ∧ ∀ v, v ≠ g → s'.wg v = u.wg v))

/-- R237, R238, R242 and R245 to R247: LDX, PREFETCH, CCTL, FENCE and OPWAIT, with the counts and addresses that they refuse. That LDX binds
the value that it returns at issue, and which address a misaligned LDX records, is the model's choice (log 27, log 101). -/
def Obligations.MemoryControls : Prop :=
  ∀ (s : State) (t : Nat) (h : Hdr) (a b : Src) (sn : BitVec 6) (bfp4 l2 : Bool) (n1 : BitVec 4) (ext : Option DWord) (scope : Scope),
    s.cur = .thread t →
    let r := s.curRegs
    let core := s.coreOf t
    (s.runs (.prefetch h a b l2 n1 ext) = true → exec (.prefetch h a b l2 n1 ext) s = .next (s.goesOn r.gotNone)) ∧
    (s.runs (.cctl h a b .il1) = true → 1 ≤ (r.rv b).toNat → (r.rv b).toNat ≤ 4096 → canonical (r.rx a) = true →
      ((r.rx a).getLsbD 56 = true → s.curAs.sup = true) →
      exec (.cctl h a b .il1) s = .next (s.reforms.goesOn r.broke) ∧
      ∃ lines, exec (.cctl h a b .icode) s =
          .next ((s.reforms.updCore core fun c => { c with icache := lines }).goesOn r.broke) ∧
        ∀ e, e ∈ lines ↔ e ∈ (s.core core).icache ∧
          ∀ k < (r.rv b).toNat, s.icodeKey (pcLine (r.rx a) + BitVec.ofNat 64 (128 * k)) ≠ some e.1) ∧
    (∀ op, s.runs (.cctl h a b op) = true →
      ((r.rv b).toNat < 1 ∨ 4096 < (r.rv b).toNat → exec (.cctl h a b op) s = .next (s.reforms.raise { cause := .illegalOperand })) ∧
      (1 ≤ (r.rv b).toNat → (r.rv b).toNat ≤ 4096 → canonical (r.rx a) = false ∨ ((r.rx a).getLsbD 56 = true ∧ s.curAs.sup = false) →
        exec (.cctl h a b op) s = .next (s.reforms.raise (accTrap .access .load (r.rx a))))) ∧
    (s.runs (.opwait h a b) = true → 5 ≤ (r.rv a).toNat ∨ 4095 < (r.rv b).toNat →
      exec (.opwait h a b) s = .next (s.reforms.raise { cause := .illegalOperand })) ∧
    (s.runs (.fence h scope) = true →
      (scope = .core → exec (.fence h scope) s = .next (s.goesOn r.gotNone)) ∧
      ((s.flushCore core).postBlocked core = none → scope = .clus ∨ scope = .die → exec (.fence h scope) s = .next ((s.flushCore core).goesOn r.gotNone)) ∧
      ((s.flushCore core).postBlocked core = none → scope = .pkg ∨ scope = .dom → s.remotePending (s.crewOf t) s.racc.length = false →
        exec (.fence h scope) s = .next ((s.flushCore core).goesOn r.gotNone))) ∧
    (s.runs (.opwait h a b) = true → (r.rv a).toNat < 5 → (r.rv b).toNat ≤ 4095 →
      exec (.opwait h a b) s = .next (if s.counter (s.crewOf t) (r.rv a).toNat ≤ (r.rv b).toNat then s.reforms.goesOn r.broke
        else s.reforms.updThr t fun x => { x with st := .waiting (.opwait (r.rv a).toNat (r.rv b).toNat) })) ∧
    (s.runs (.ldx h a b sn bfp4) = true →
      let i := (r.rv b).toNat
      let sb := (s.crew (s.crewOf t)).s.get sn.toNat
      (i % 4 ≠ 0 → exec (.ldx h a b sn bfp4) s =
        .next (s.reforms.raise (accTrap .misaligned .load (r.rx a + BitVec.ofNat 64 (if bfp4 then i / 2 else i))))) ∧
      (i % 4 = 0 → sb.toNat % 2 ≠ 0 → exec (.ldx h a b sn bfp4) s =
        .next (s.reforms.raise (accTrap .misaligned .load (sb + BitVec.ofNat 64 (2 * (i / 32))))))) ∧
    (∀ (p q : Place), s.runs (.ldx h a b sn bfp4) = true → s.requests core + 2 ≤ 2048 →
      let i := (r.rv b).toNat
      let sb := (s.crew (s.crewOf t)).s.get sn.toNat
      let ea := r.rx a + BitVec.ofNat 64 (if bfp4 then i / 2 else i)
      let eb := sb + BitVec.ofNat 64 (2 * (i / 32))
      let foundA := s.reforms.check s.curAs (some core) ea (if bfp4 then 2 else 4) .load
      let foundB := foundA.1.check s.curAs (some core) eb 2 .load
      i % 4 = 0 → sb.toNat % 2 = 0 → (∀ c, foundA.2 = .trap c → exec (.ldx h a b sn bfp4) s = .next (foundA.1.raise c)) ∧
      (foundA.2 = .ok p → ∀ c, foundB.2 = .trap c → exec (.ldx h a b sn bfp4) s = .next (foundB.1.raise c)) ∧
      (foundA.2 = .ok p → foundB.2 = .ok q →
      let s3 := (foundB.1.demandPlace p).demandPlace q
      let bytes := s3.fetchPlace (some core) p
      let e := fun (j : Nat) => (if bfp4 then (bytes.getD (j / 2) 0).toNat / 16 ^ (j % 2) % 16 else (bytes.getD j 0).toNat : Nat)
      let ex := fun (j : Nat) => ((s3.fetchPlace (some core) q).getD j 0).toNat
      let v := fun (j : Nat) => bfpTo bf16 bfp4 (e j) (ex 0) (ex 1)
      let vals : List Word := [BitVec.ofNat 32 (v 0 + 65536 * v 1), BitVec.ofNat 32 (v 2 + 65536 * v 3)]
      let bad := if s3.placeBad p then some ea else if s3.placeBad q then some eb else none
      let fly : LoadFly := { thread := t, walker := none, d := h.d.toNat, vals := vals, poison := bad, pc := r.pc, reqs := 2 }
      exec (.ldx h a b sn bfp4) s = .next (State.goesOn { s3 with loads := s3.loads ++ [fly] } r.broke)))

/-- R51, R53, R240 and R241: SMAP installs its entry in the lowest free slot and gives its number; SUNMAP writes the entry's dirty lines
back and frees the slot, the filled lines keeping their bytes; SFLUSH writes the covered dirty lines back; SINV makes the covered lines
unfilled. An operation of the workgroup that accesses the range holds them at issue, and behind a thread of the same issue that is held
so do those of higher lanes (R240: ascending lane order). A bit of SMAP's quad that R51's entry does not name is ignored, which is the
model's reading (log 33: `entryOfQuad`). -/
def Obligations.StashMaps : Prop :=
  ∀ (s : State) (t : Nat) (h : Hdr) (a b : Src) (all : Bool) (e : MapEnt) (i : Nat), s.cur = .thread t →
    let r := s.curRegs
    let w := s.wgOf t
    let slot := fun (g : Wg) (i : Nat) => g.maps.getD i none
    let va := (r.rx a).toNat
    let n := (r.rv b).toNat
    let behind := fun (s : State) => ({ s with issue := { s.issue with behind := some none } } : State).stallCur
    w < s.wgs.length →
    (s.issue.behind = none →
    (s.runs (.smap h a) = true → entryOfQuad (r.regsNat (srcReg a) 4) = some e →
      (s.stashBusy w [e.range] = true → exec (.smap h a) s = .next (behind s.reforms)) ∧
      (s.stashBusy w [e.range] = false → s.smapBad w e = true → exec (.smap h a) s = .next (s.reforms.raise { cause := .illegalOperand })) ∧
      (s.stashBusy w [e.range] = false → s.smapBad w e = false → i < 8 → slot (s.wg w) i = none → (∀ j < i, slot (s.wg w) j ≠ none) →
        ∃ s' : State, exec (.smap h a) s = .next (s'.goesOn (if h.nw then r else r.setV h.d.toNat (BitVec.ofNat 32 i)).broke) ∧
          slot (s'.wg w) i = some e ∧ (∀ j < 8, j ≠ i → slot (s'.wg w) j = slot (s.wg w) j) ∧
          (s'.wg w).stash = (s.wg w).stash ∧ (s'.wg w).lines = (s.wg w).lines ∧ s'.mem = s.mem)) ∧
    (s.runs (.sunmap h a) = true → (r.rv a).toNat < 8 → slot (s.wg w) (r.rv a).toNat = some e →
      let cleaned := s.reforms.cleanLines w e.lineList
      let u := cleaned.1
      (s.stashBusy w [e.range] = true → exec (.sunmap h a) s = .next (behind s.reforms)) ∧
      (s.stashBusy w [e.range] = false → (∀ c, cleaned.2 = .trap c → exec (.sunmap h a) s = .next (u.raise c)) ∧
        (cleaned.2 = .ok () →
          ∃ s' : State, exec (.sunmap h a) s = .next (s'.goesOn r.broke) ∧ slot (s'.wg w) (r.rv a).toNat = none ∧ s'.mem = u.mem ∧
            s'.threads = u.threads ∧ (∀ j < 8, j ≠ (r.rv a).toNat → slot (s'.wg w) j = slot (u.wg w) j) ∧
            (∀ x, e.off ≤ x → x < e.off + 64 * e.lines → e.off % 64 = 0 →
              (s'.wg w).stash.get x = (if ((u.wg w).lines.get (x / 64)).isSome then (u.wg w).stash.get x else 0) ∧
              (s'.wg w).lines.get (x / 64) = none) ∧
            (∀ x, (x < e.off ∨ e.off + 64 * e.lines ≤ x) → e.off % 64 = 0 →
              (s'.wg w).stash.get x = (u.wg w).stash.get x ∧ (s'.wg w).lines.get (x / 64) = (u.wg w).lines.get (x / 64))))) ∧
    (s.runs (.sunmap h a) = true → slot (s.wg w) (r.rv a).toNat = none →
      exec (.sunmap h a) s = .next (s.reforms.raise { cause := .illegalOperand })) ∧
    ((all = true ∨ va % 64 = 0 ∧ 1 ≤ n ∧ n ≤ 49152) →
      (s.runs (.sflush h a b all) = true →
        let cleaned := s.reforms.cleanLines w ((s.wg w).coveredLines all va n)
        (cleaned.2 = .ok () → exec (.sflush h a b all) s = .next (cleaned.1.goesOn r.broke)) ∧
        (∀ c, cleaned.2 = .trap c → exec (.sflush h a b all) s = .next (cleaned.1.raise c))) ∧
      (s.runs (.sinv h a b all) = true → s.stashBusy w ((s.wg w).coverRanges all va n) = true →
        exec (.sinv h a b all) s = .next (behind s.reforms)) ∧
      (s.runs (.sinv h a b all) = true → s.stashBusy w ((s.wg w).coverRanges all va n) = false →
        ∃ s' : State, exec (.sinv h a b all) s = .next (s'.goesOn r.broke) ∧ s'.mem = s.mem ∧ (s'.wg w).stash = (s.wg w).stash ∧
          (s'.wg w).maps = (s.wg w).maps ∧
          (s'.wg w).lines = ((s.wg w).coveredLines all va n).foldl (fun m l => m.set l none) (s.wg w).lines)) ∧
    (all = false → va % 64 ≠ 0 → (s.runs (.sflush h a b all) = true → exec (.sflush h a b all) s =
      .next (s.reforms.raise { cause := .misaligned, detail := 6, addr := r.rx a })))) ∧
    (∀ i ∈ [Instr.smap h a, .sunmap h a, .sflush h a b all, .sinv h a b all], s.runs i = true →
      (s.issue.behind = some none → exec i s = .next s.reforms.stallCur) ∧
      (∀ x, s.issue.behind = some (some x) → exec i s = .next (s.reforms.hold x)))

/-- R249 to R251: WAITGE ends with p[d] = 1 once the object has reached B, with 0 at a deadline that has come, and else waits; PWAIT ends
once the operation of its promise has left the counter, and under .exact not before its promised time W; a promised time that comes
first raises PROMISE_MISSED. -/
def Obligations.ObjectWaits : Prop :=
  ∀ (s : State) (t : Nat) (h : Hdr) (a b : Src) (scope : Scope) (dl exact : Bool) (n : BitVec 6) (x W : DWord), s.cur = .thread t →
    let r := s.curRegs
    let c := s.crewOf t
    let D := (s.crew c).s.get n.toNat
    let waits := fun (s : State) (w : Wait) => s.updThr t fun y => { y with st := .waiting w }
    (s.runs (.waitge h a b scope dl n) = true → s.requests (s.coreOf t) < 2048 → (s.reforms.waitRead s.curAs (s.coreOf t) (r.rx a)).2 = .ok x →
      let s1 := (s.reforms.waitRead s.curAs (s.coreOf t) (r.rx a)).1
      exec (.waitge h a b scope dl n) s = .next (
        if (r.rx b).toNat ≤ x.toNat then s1.goesOn (r.setP (h.d.setWidth 4) true).broke
        else if dl = true ∧ D.toNat ≤ s.cyc.toNat then s1.goesOn (r.setP (h.d.setWidth 4) false).broke
        else waits s1 (.waitge (r.rx a) (r.rx b) (if dl then some D else none) scope h.d))) ∧
    (s.runs (.pwait h a exact) = true →
      let P := r.rx a
      let done := s.outstanding c (bits P 61 3) (bits P 48 13) = false
      (5 ≤ bits P 61 3 → exec (.pwait h a exact) s = .next (s.reforms.raise { cause := .illegalOperand })) ∧
      (bits P 61 3 < 5 → W.setWidth 48 = P.setWidth 48 → -2 ^ 47 ≤ (W - s.cyc).toInt → (W - s.cyc).toInt < 2 ^ 47 →
        (done → exact = false → exec (.pwait h a exact) s = .next (s.reforms.goesOn r.broke)) ∧
        (done → exact = true → (W - s.cyc).toInt ≤ 0 → exec (.pwait h a exact) s = .next (s.reforms.goesOn r.broke)) ∧
        (¬done → (W - s.cyc).toInt ≤ 0 →
          exec (.pwait h a exact) s = .next (s.reforms.raise { cause := .promiseMissed, addr := P })) ∧
        (0 < (W - s.cyc).toInt → (¬done ∨ exact = true) →
          exec (.pwait h a exact) s = .next (waits s.reforms (.pwait P W exact)))))

/-- R120, R246, R252 to R254: a remote access that passes its local check, with room in the ticket table and the counter, enters the table
with its captured values; a held one parks its thread at the instruction until its reply, a posted one counts and lets it go on. A
package word with a reserved bit is illegal, a misaligned address MISALIGNED, a wide or forbidden one and a package out of reach ACCESS,
in this order; a posted access at a full counter traps under satrap and else stalls, and any access stalls while the ticket table is
full. -/
def Obligations.RemoteIssue : Prop :=
  ∀ (s : State) (t : Nat) (h : Hdr) (a b : Src) (w : Width) (acq rel : Bool) (stream : BitVec 3) (op : AtomOp) (ty : AtomTy)
    (order : Order), s.cur = .thread t → t < s.threads.length → s.crewOf t < s.crews.length → s.requests (s.coreOf t) < 2048 →
    let r := s.curRegs
    let c := s.crewOf t
    let va := r.x (srcReg a)
    let own := r.v.get (srcReg a + 2)
    let pkg : BitVec 11 := own.setWidth 11
    let local_ := fun (kind : RKind) => own.toNat < 2048 ∧ va.toNat % rkBytes kind = 0 ∧ canonical va = true ∧
      ((va.getLsbD 56 = true → s.curAs.sup = true)) ∧ s.fabReach s.curAs.part pkg = true ∧ s.tableUsed (s.coreOf t) < 64 ∧
      (rkRel kind = true → s.remotePending c s.racc.length = false ∧ (s.flushCore (s.coreOf t)).postBlocked (s.coreOf t) = none)
    let enters := fun (s' : State) (kind : RKind) (stream : Nat) (data expect : DWord) (hold : Bool) =>
      s'.racc.length = s.racc.length + 1 ∧
      ∃ x, s'.racc[s.racc.length]? = some x ∧ x.live = true ∧ x.core = s.coreOf t ∧ x.crew = c ∧ x.thread = t ∧
        x.lane = s.laneOf t ∧ x.owner = pkg ∧ x.kind = kind ∧ x.va = va ∧ x.data = data ∧ x.expect = expect ∧ x.hold = hold ∧
        x.stream = stream ∧ x.pc = r.pc ∧ x.tkid = none
    let held := fun (s' : State) => (s'.thr t).st = .parkedRemote (.held s.racc.length) ∧ (s'.thr t).r = r ∧
      (s'.crew c).outst = (s.crew c).outst
    let posted := fun (s' : State) => (s'.thr t).r = r.broke ∧ (s'.thr t).st = (s.thr t).st ∧
      (s'.crew c).outst = (s.crew c).outst ++ [⟨4, (s.crew c).iss.get 4, false⟩]
    (s.runs (.rld h a w acq) = true → local_ (.rld w acq) →
      ∃ s', exec (.rld h a w acq) s = .next s' ∧ enters s' (.rld w acq) 0 0 0 true ∧ held s') ∧
    (s.runs (.rst h a b w rel stream) = true → local_ (.rst w rel) → s.counter c 4 < 4095 →
      ∃ s', exec (.rst h a b w rel stream) s = .next s' ∧ enters s' (.rst w rel) stream.toNat (if w = .b64 then r.rx b else (r.rv b).setWidth 64) 0 false ∧
        posted s') ∧
    (s.runs (.ratom h a b op ty order stream false) = true → local_ (.ratom op ty order) →
      ∃ s', exec (.ratom h a b op ty order stream false) s = .next s' ∧
        enters s' (.ratom op ty order) stream.toNat (r.atomB (tyWide ty) b) 0 true ∧ held s') ∧
    (s.runs (.ratom h a b op ty order stream true) = true → local_ (.ratom op ty order) → s.counter c 4 < 4095 →
      ∃ s', exec (.ratom h a b op ty order stream true) s = .next s' ∧
        enters s' (.ratom op ty order) stream.toNat (r.atomB (tyWide ty) b) 0 false ∧ posted s') ∧
    (s.runs (.rcas h a b ty order) = true → local_ (.rcas ty order) →
      ∃ s', exec (.rcas h a b ty order) s = .next s' ∧
        enters s' (.rcas ty order) 0 (r.atomB (tyWide ty) b) (r.acc (tyWide ty) h.d) true ∧ held s') ∧
    (s.runs (.rboadd h a b stream) = true → local_ .rboadd → s.counter c 4 < 4095 →
      ∃ s', exec (.rboadd h a b stream) s = .next s' ∧ enters s' .rboadd stream.toNat (r.rx b) 0 false ∧ posted s') ∧
    (∀ x ∈ [(RKind.rld w acq, Instr.rld h a w acq, false), (.rst w rel, .rst h a b w rel stream, true),
        (.ratom op ty order, .ratom h a b op ty order stream false, false), (.ratom op ty order, .ratom h a b op ty order stream true, true),
        (.rcas ty order, .rcas h a b ty order, false), (.rboadd, .rboadd h a b stream, true)],
      let aligned := own.toNat < 2048 ∧ va.toNat % rkBytes x.1 = 0
      let reached := canonical va = true ∧ (va.getLsbD 56 = true → s.curAs.sup = true) ∧ s.fabReach s.curAs.part pkg = true
      let full := x.2.2 = true ∧ 4095 ≤ s.counter c 4
      s.runs x.2.1 = true →
        (2048 ≤ own.toNat → exec x.2.1 s = .next (s.reforms.raise { cause := .illegalOperand })) ∧
        (own.toNat < 2048 → va.toNat % rkBytes x.1 ≠ 0 → exec x.2.1 s = .next (s.reforms.raise (accTrap .misaligned (rkAcc x.1) va))) ∧
        (aligned → ¬reached → exec x.2.1 s = .next (s.reforms.raise (accTrap .access (rkAcc x.1) va))) ∧
        (aligned → reached → (rkRel x.1 = true → s.remotePending c s.racc.length = false) →
          (full → (s.part s.curAs.part).satrap = true → exec x.2.1 s = .next (s.reforms.raise { cause := .counterSaturated })) ∧
          (full → (s.part s.curAs.part).satrap = false → exec x.2.1 s = .next s.reforms.stallCur) ∧
          (¬full → 64 ≤ s.tableUsed (s.coreOf t) → exec x.2.1 s = .next s.reforms.stallCur)))

/-- R122, R258 to R260: TKWAIT waits for the crew's remote accesses, TKQUERY counts its tickets, TOPKRED posts the contribution that its
descriptor names, with the list as it reads when nothing of its stream, or of its workgroup's saving, holds the contribution back. -/
def Obligations.TicketInstructions : Prop :=
  ∀ (s : State) (t : Nat) (h : Hdr) (a b : Src) (stream : BitVec 3) (p : Place) (ps : List Place) (k : Contribution), s.cur = .thread t →
    t < s.threads.length → s.crewOf t < s.crews.length →
    let r := s.curRegs
    let c := s.crewOf t
    let view := some (s.coreOf t)
    let mine := s.racc.filter fun x => x.live && x.crew == c && x.tkid.isSome
    let heads := mine.filter (·.head)
    (s.runs (.tkwait h) = true →
      (s.remotePending c s.racc.length = false → exec (.tkwait h) s = .next (s.reforms.goesOn r.broke)) ∧
      (s.remotePending c s.racc.length = true → (s.thr t).passed = false → exec (.tkwait h) s =
        .next (s.reforms.updThr t fun x => { x with st := .parkedRemote (.remote s.racc.length) }))) ∧
    (s.runs (.tkquery h) = true → ∃ oldest : Nat,
      exec (.tkquery h) s = .next (s.goesOn (r.gotX h (BitVec.ofNat 64
        (heads.length + 2 ^ 16 * oldest + 2 ^ 32 * (mine.length - heads.length))))) ∧
      (heads = [] → oldest = 0xFFFF) ∧
      (heads ≠ [] → ∃ x ∈ heads, oldest = (x.tkid.getD 0xFFFF).toNat ∧ ∀ y ∈ heads, x.tkAt ≤ y.tkAt)) ∧
    (s.runs (.topkred h a b stream) = true → s.requests (s.coreOf t) < 2048 →
      let found := s.reforms.check s.curAs view (r.rx b) 64 .load
      let desc := found.1.demandPlace p
      let list := desc.resolveRange s.curAs view (r.rx a) (8 * k.k) .load
      let n := s.racc.length
      let isFor := fun (x : RAccess) (entries : List (Word × Word)) =>
        x.live = true ∧ x.kind = .topk ∧ x.owner = k.root ∧ x.hold = false ∧ x.crew = c ∧ x.core = s.coreOf t ∧ x.thread = t ∧
          x.stream = stream.toNat ∧ x.contrib = some { k with acc := n, core := s.coreOf t, lane := s.laneOf t, list := entries }
      found.2 = .ok p → desc.redDesc (desc.fetchPlace view p) = some k → (r.rx a).toNat % 8 = 0 →
      list.2 = .ok ps → s.counter c 4 < 4095 → s.tableUsed (s.coreOf t) < 64 →
      ∃ (u : State) (x : RAccess), isFor x [] ∧ u.racc = s.racc ++ [x] ∧ u.mem = list.1.mem ∧ u.posted = list.1.posted ∧
        (u.sendHeld n x = true → exec (.topkred h a b stream) s = .next (u.goesOn r.broke)) ∧
        (u.sendHeld n x = false → ∀ qs, (u.resolveRange s.curAs view (r.rx a) (8 * k.k) .load).2 = .ok qs →
          let read := (u.resolveRange s.curAs view (r.rx a) (8 * k.k) .load).1.demandAll qs
          ∃ s', exec (.topkred h a b stream) s = .next s' ∧ (s'.thr t).r = r.broke ∧
            ∃ y, s'.racc[n]? = some y ∧ y.sent = true ∧ isFor y (entriesOf k.k (read.fetchAll view qs))))

/-- R56 to R60, R262 to R263, R282 to R284 and R290: the tarn instructions of a leader whose operands are legal and whose rows no pass or
drain is using. TALLOC takes the lowest run of free banks, or answers 0; TFREE's banks go to clearing; TREAD reads and TWRITE writes one
element; TZERO clears rows; TOWN sets the drainers; TSTAT is a snapshot, of the fields of R290 (the band by R59). A TREAD whose rows
older work still uses stalls and keeps its place in the order of acceptance (R285). R34 and R262: every class 8 instruction of a thread
that leads no crew is ILLEGAL_COLLECTIVE. -/
def Obligations.TarnInstructions : Prop :=
  (∀ (s : State) (t : Nat) (h : Hdr) (a b : Src) (k : BitVec 6) (i32 : Bool) (al : TAlloc) (ds : List Nat) (B : Nat), s.cur = .thread t →
      s.isLeader t = true →
      let r := s.curRegs
      let c := s.crewOf t
      let w := s.wgOf t
      let core := s.coreOf t
      let n := (r.rv a).toNat
      let bank := ((s.crew c).s.get k.toNat).toNat
      let row := bits (r.rv a) 8 11
      let col := bits (r.rv a) 0 8
      let key := fun (row col : Nat) => 8192 * (bank + row / 32) + 256 * (row % 32) + col
      let place := match (s.thr t).tarn with | some x => x.acc | none => s.accs
      let u := s.updThr t fun x => { x with tarn := none }
      (s.runs (.talloc h a k i32) = true → 1 ≤ n → n ≤ 48 →
        (B + n ≤ 48 → (∀ j < n, s.bankFree core (B + j) = true) → (∀ b' < B, ∃ j < n, s.bankFree core (b' + j) = false) →
          exec (.talloc h a k i32) s = .next (State.goesOn
            ((s.updCore core fun x => { x with allocs := x.allocs ++ [{ wg := w, base := B, n := n, i32 := i32, drainers := none }] }).updCrew c
              fun x => { x with s := x.s.set k.toNat (BitVec.ofNat 64 B) }) (r.setP (h.d.setWidth 4) true).broke)) ∧
        ((∀ b' ≤ 48 - n, ∃ j < n, s.bankFree core (b' + j) = false) →
          exec (.talloc h a k i32) s = .next (s.goesOn (r.setP (h.d.setWidth 4) false).broke))) ∧
      (bank < 48 → s.tarnAlloc core w bank = some al →
        (s.runs (.tfree h k) = true → s.allocBusy core al = false →
          (s.core core).allocs.find? (fun x => x.wg == w && x.base == bank && (x.freeing.isNone || x.freeing == some t)) = some al →
          exec (.tfree h k) s = .next ((s.tarnRelease core w bank).goesOn r.broke)) ∧
        (s.runs (.town h a b k) = true → drainersOf (r.rx a) (r.rv b).toNat (s.wg w).ncrew = some ds →
          exec (.town h a b k) s = .next ((s.updCore core fun x =>
            { x with allocs := x.allocs.map fun y => if y = al then { y with drainers := some ds } else y }).goesOn r.broke)) ∧
        (s.runs (.tzero h a b k) = true → 1 ≤ (r.rv b).toNat → (r.rv b).toNat ≤ 1536 → n + (r.rv b).toNat ≤ 32 * al.n →
          u.rowsBusy core bank n (r.rv b).toNat false place = false →
          exec (.tzero h a b k) s =
            .next ((u.updCore core fun x => { x with tarn := zeroRows x.tarn bank n (r.rv b).toNat }).goesOn r.broke)) ∧
        (bits (r.rv a) 19 13 = 0 → row < 32 * al.n → al.bandBad (s.crew c).num row 1 = false →
          (s.runs (.tread h a k) = true → u.rowsBusy core bank row 1 true place = false →
            exec (.tread h a k) s = .next (u.goesOn (if h.nw then r else r.setV h.d.toNat ((s.core core).tarn.get (key row col))).broke)) ∧
          (s.runs (.twrite h a b k) = true → u.rowsBusy core bank row 1 false place = false →
            exec (.twrite h a b k) s =
              .next ((u.updCore core fun x => { x with tarn := x.tarn.set (key row col) (r.rv b) }).goesOn r.broke))) ∧
        (s.runs (.twrite h a b k) = true → bits (r.rv a) 19 13 = 0 → 32 * al.n ≤ row →
          exec (.twrite h a b k) s = .next (u.raise { cause := .tarnUnalloc })) ∧
        (s.runs (.twrite h a b k) = true → bits (r.rv a) 19 13 = 0 → row < 32 * al.n → al.bandBad (s.crew c).num row 1 = true →
          exec (.twrite h a b k) s = .next (u.raise { cause := .tarnBand })) ∧
        (s.runs (.tread h a k) = true → bits (r.rv a) 19 13 = 0 → row < 32 * al.n → al.bandBad (s.crew c).num row 1 = false →
          u.rowsBusy core bank row 1 true place = true → exec (.tread h a k) s =
            .next (State.stallCur { u.updThr t fun x => { x with tarn := some ⟨place, core, bank, row, 1, false⟩ } with accs := max s.accs (place + 1) }))) ∧
      (bank < 48 → s.tarnAlloc core w bank = none → (s.thr t).tarn = none → s.runs (.tread h a k) = true → bits (r.rv a) 19 13 = 0 →
        exec (.tread h a k) s = .next (if (s.part (s.partOf t)).ut then u.raise { cause := .tarnUnalloc }
          else (u.updThr t fun x => { x with status := x.status ||| 0x100 }).goesOn (if h.nw then r else r.setV h.d.toNat 0).broke)) ∧
      (s.runs (.tstat h k) = true →
        ∃ x : DWord, exec (.tstat h k) s = .next (s.goesOn (if h.nw then r else r.setX h.d.toNat x).broke) ∧
          bits x 0 6 = (if 48 ≤ bank then 0 else bank) ∧ bits x 48 6 = ((List.range 48).filter (s.bankFree core)).length ∧
          bits x 14 2 = 0 ∧ bits x 28 4 = 0 ∧ bits x 43 5 = 0 ∧ bits x 54 10 = 0 ∧
          (s.tarnAlloc core w bank = none → bits x 6 6 = 0 ∧ bits x 13 1 = 0) ∧
          (s.tarnAlloc core w bank = some al → 1 ≤ al.n → al.n ≤ 48 →
            bits x 6 6 = al.n ∧ bits x 12 1 = al.i32.toNat ∧ bits x 13 1 = 1 ∧
            (al.drainers = none → bits x 27 1 = 1 ∧ bits x 16 11 = 0 ∧ bits x 32 11 = 32 * al.n - 1) ∧
            (al.drainers = some ds → (s.crew c).num ∉ ds → bits x 27 1 = 0) ∧
            (∀ i, al.drainers = some ds → ds.length ≤ 16 → ds.findIdx? (· == (s.crew c).num) = some i →
              bits x 27 1 = 1 ∧ bits x 16 11 = 32 * al.n * i / ds.length ∧ bits x 32 11 = 32 * al.n * (i + 1) / ds.length - 1)))) ∧
  (∀ (s : State) (t : Nat) (i : Instr) (h : Hdr) (a b : Src) (k : BitVec 6) (k2 : BitVec 2) (n : BitVec 3) (x y : Bool) (f : MFmt) (o : MOp)
      (df : DrFmt) (tr : DrTr), s.cur = .thread t → s.isLeader t = false →
      i ∈ [.gang h a n, .mfmt h f o, .dptab h a k2, .mwload h a b x f n, .mma h a b k x, .mmaw h a b k x, .talloc h a k x, .tfree h k,
        .town h a b k, .tzero h a b k, .tread h a k, .twrite h a b k, .tdrain h a b k df tr y, .tstat h k] → s.runs i = true →
      exec i s = .next (s.reforms.raise { cause := .illegalCollective }))

/-- R264 to R266, R269 to R270, R275 to R277, R286 and R289: the matrix instructions of a leader whose operands and checks are legal: GANG
sets the gang register, and GANG.off clears it; an MMA or MMAW of a crew with no gang is ILLEGAL_COLLECTIVE; MFMT sets the format, DPTAB
a probability slot; MWLOAD and TDRAIN are accepted and counted; MMA and MMAW count and present at the latch, which then evaluates. -/
def Obligations.MatrixInstructions : Prop :=
  ∀ (s : State) (t : Nat) (h : Hdr) (a b : Src) (k : BitVec 6) (k2 : BitVec 2) (n st : BitVec 3) (ovr tclr : Bool) (f : MFmt) (o : MOp)
    (df : DrFmt) (tr : DrTr) (ms : List Nat) (ps : List Place) (al : TAlloc) (m : MmaArgs), s.cur = .thread t → t < s.threads.length →
    s.isLeader t = true → s.crewOf t < s.crews.length →
    let r := s.curRegs
    let c := s.crewOf t
    let w := s.wgOf t
    let core := s.coreOf t
    let va := r.rx a
    (s.runs (.gang h a n) = true → n ≠ 0 → gangOf (r.rv a) n.toNat (s.wg w).ncrew (s.crew c).num = some ms →
      ∃ s', exec (.gang h a n) s = .next s' ∧ (s'.crew c).members = ms ∧
        (s'.crew c).idx = (ms.findIdx? (· == (s.crew c).num)).getD 0 ∧ (s'.crew c).gcount = 1 ∧ (s'.thr t).r = r.broke ∧ s'.mem = s.mem) ∧
    (s.runs (.gang h a n) = true → n ≠ 0 → gangOf (r.rv a) n.toNat (s.wg w).ncrew (s.crew c).num = none →
      exec (.gang h a n) s = .next (s.raise { cause := .illegalOperand })) ∧
    (s.runs (.gang h a 0) = true → a ≠ .zero → exec (.gang h a 0) s = .next (s.raise { cause := .illegalOperand })) ∧
    (s.runs (.gang h .zero 0) = true →
      ∃ s', exec (.gang h .zero 0) s = .next s' ∧ (s'.crew c).members = [] ∧ (s'.crew c).gangReg = 0 ∧ (s'.crew c).gcount = 1 ∧
        (s'.thr t).r = r.broke ∧ s'.mem = s.mem) ∧
    (s.runs (.mfmt h f o) = true →
      exec (.mfmt h f o) s = .next ((s.updCrew c fun x => { x with afmt := f, mop := o }).goesOn r.broke)) ∧
    (s.runs (.dptab h a k2) = true → va.toNat % 64 = 0 → (s.resolveRange s.curAs (some core) va 512 .load).2 = .ok ps →
      let s2 := (s.resolveRange s.curAs (some core) va 512 .load).1.demandAll ps
      let fs := freqsOf 256 (s2.fetchAll (some core) ps)
      s2.anyBad ps = false → freqOk fs = true → s2.slotBusy w k2.toNat = false →
      exec (.dptab h a k2) s =
        .next ((s2.updWg w fun g => { g with probs := g.probs.set k2.toNat { full := true, freq := fs } }).goesOn r.broke)) ∧
    (s.runs (.mwload h a b false f st) = true → (s.crew c).members ≠ [] → (s.crew c).idx = 0 → va.toNat % 64 = 0 →
      let s1 := (s.resolveRange s.curAs (some core) va (rawSymbols (fmtNo f)) .load).1
      (s.resolveRange s.curAs (some core) va (rawSymbols (fmtNo f)) .load).2 = .ok ps → s1.counter c 2 < 4095 →
      ∃ s', exec (.mwload h a b false f st) s = .next s' ∧ (s'.thr t).r = r.broke ∧
        (s'.crew c).outst = (s1.crew c).outst ++ [⟨2, (s1.crew c).iss.get 2, false⟩] ∧
        ∃ x y, s'.ops = s1.ops ++ [x] ∧ s'.tiles = s1.tiles ++ [y] ∧ x.live = true ∧ x.phase = .queued ∧ x.cls = 2 ∧ x.crew = c ∧
          x.thread = t ∧ x.args.headD 0 = va.toNat ∧ y.crew = c ∧ y.op = s1.ops.length ∧ y.bfmt = f ∧ y.coded = false ∧
          y.gang = (s.crew c).members ∧ y.latched = false) ∧
    (∀ pl : Place, let ea := va + BitVec.ofNat 64 (16 * (r.rv b).toNat)
      let s1 := (s.resolve s.curAs (some core) ea 16 .load).1.demandPlace pl
      let word := leNat (s1.fetchPlace (some core) pl)
      s.runs (.mwload h a b true f st) = true → (s.crew c).members ≠ [] → (s.crew c).idx = 0 → va.toNat % 16 = 0 →
      (s.resolve s.curAs (some core) ea 16 .load).2 = .ok pl → s1.placeBad pl = false → (entryOfNat word).bad true = false →
      s1.counter c 2 < 4095 →
      ∃ s', exec (.mwload h a b true f st) s = .next s' ∧ (s'.thr t).r = r.broke ∧
        (s'.crew c).outst = (s1.crew c).outst ++ [⟨2, (s1.crew c).iss.get 2, false⟩] ∧
        ∃ x y, s'.ops = s1.ops ++ [x] ∧ s'.tiles = s1.tiles ++ [y] ∧ x.live = true ∧ x.phase = .queued ∧ x.cls = 2 ∧ x.crew = c ∧
          x.thread = t ∧ x.args = [va.toNat, word, (r.rv b).toNat] ∧ y.crew = c ∧ y.op = s1.ops.length ∧ y.coded = true ∧
          y.bfmt = fmtOf (entryOfNat word).rawfmt ∧ y.gang = (s.crew c).members ∧ y.latched = false) ∧
    (s.runs (.tdrain h a b k df tr tclr) = true → s.tarnAlloc core w ((s.crew c).s.get k.toNat).toNat = some al →
      let word := r.rx b
      let row0 := bits word 0 11
      let rows := bits word 11 11
      ((s.crew c).s.get k.toNat).toNat < 48 → bits word 22 10 = 0 → 1 ≤ rows → rows ≤ 1536 → row0 + rows ≤ 32 * al.n →
      (df = .s32 → al.i32 = true ∧ tr = .none) → al.bandBad (s.crew c).num row0 rows = false → va.toNat % 64 = 0 →
      let s1 := (s.engPages [(false, va, (drRow df + drExp df) * rows, true)]).1
      (s.engPages [(false, va, (drRow df + drExp df) * rows, true)]).2 = .ok () → s1.counter c 2 < 4095 →
      ∃ s' x, exec (.tdrain h a b k df tr tclr) s = .next s' ∧ (s'.thr t).r = r.broke ∧ s'.ops = s1.ops ++ [x] ∧ x.live = true ∧
        x.phase = .queued ∧ x.cls = 2 ∧ x.crew = c ∧ x.prog = 0 ∧
        (s'.crew c).outst = (s1.crew c).outst ++ [⟨2, (s1.crew c).iss.get 2, false⟩]) ∧
    (∀ i, (i = .mma h a b k ovr ∨ i = .mmaw h a b k ovr) → s.runs i = true → (s.crew c).members = [] →
      exec i s = .next (s.raise { cause := .illegalCollective })) ∧
    (∀ i, (i = .mma h a b k ovr ∨ i = .mmaw h a b k ovr) → s.runs i = true → (s.crew c).members ≠ [] → mmaArgs i r = some m →
      s.mmaCheck c m = none → s.counter c 2 < 4095 →
      let seq := (s.crew c).iss.get 2
      let waits := (s.updCrew c fun x =>
        { x with outst := x.outst ++ [⟨2, seq, false⟩], iss := x.iss.set 2 ((seq + 1) % 8192) }).updThr t fun x =>
          { x with st := .waiting (.cinch i seq) }
      let lists := c :: (waits.wgCrews (s.wgOfCrew c)).filter fun k => k != c && (waits.atLatch k).isSome && (waits.gangCrews k).contains c
      exec i s = .next (lists.foldl (fun s k => if (s.atLatch k).isSome then s.evalLatch k else s) waits))

/-- R292 to R294, R296, R298 to R302, R304 and R307 to R309: COPY, COPYT, CBCOPY, GATHER, SCATTER and ZFILL whose operands and checks are
legal, with room in the counter and the queue, are accepted: the operation is queued with its operands as read, it is counted and
numbered, its promised time W is max(cycle, the engine's last W) + 768 + its units, and a promise goes to xd. An issue that finds the
counter full accepts none of its operations: each stalls, or traps where SATRAP is set. The model's choices that these clauses rest on:
the operations of an issue are counted from the executing thread on, its earlier ones being in the counter by then (log 20: `engOps`),
and an operation goes to the engine that holds its stream's outstanding ones (log 78: `engHome`). R293 to R294, R305 and R310: CDEC
reads its entry at issue, as a load, and is accepted with it; a malformed entry traps; CPQ answers the crew's counts, the queues and the
held operations, in the fields of R310. That a misaligned tensor base of CDEC has the detail of a load is the model's reading (log 58),
as are the count of an issue's operations (log 20) and the engine of a stream (log 78). R292, R294 and R303: CBLOAD of an aligned table
into a codebook slot 0 to 3 is queued and counted (the issue's operations as log 20 counts them). -/
def Obligations.EngineInstructions : Prop :=
  (∀ (s : State) (t : Nat) (h : Hdr) (a b : Src) (m : EngMod) (raw : Nat) (i : Instr), s.cur = .thread t → t < s.threads.length →
      s.crewOf t < s.crews.length →
      (i = .copy h a b m ∨ i = .copyt h a b m ∨ i = .cbcopy h a b m ∨ i = .gather h a b m ∨ i = .scatter h a b m ∨ i = .zfill h a b m) →
      let r := s.curRegs
      let c := s.crewOf t
      let core := s.coreOf t
      let w := s.wgOf t
      let p := engPar i raw
      let ranges := engRanges i p 0
      let eng := if i = .gather h a b m ∨ i = .scatter h a b m then 1 else 0
      let prev := if eng = 1 then (s.core core).gathW else (s.core core).copyW
      let home := s.engHome w core eng m.stream.toNat
      let paged := s.reforms.engPages ranges
      let ready := paged.1.engBo p.bo
      s.runs i = true →
      (if m.pb then s.reforms.stashBlock (r.rv a).toNat = .ok raw
        else raw = r.regsNat (srcReg a) 4 + 2 ^ 128 * r.regsNat (srcReg b) 4) →
      p.bad = false → (p.mcast = true → tileScope (s.launch (s.wg w).launch) ≤ scopeNo m.scope) →
      s.streamClash w m.stream.toNat m.scope = false → s.reforms.engStash w ranges = none → engMisaligned i p = none →
      paged.2 = .ok () → ready.2 = .ok () →
      (s.counter c eng + s.reforms.engOps i h a b ≤ 4095 → c ∉ s.issue.full → s.engQueue home eng < 64 →
        ∃ (s' : State) (x : EngOp), exec i s = .next s' ∧ s'.ops = s.ops ++ [x] ∧ s'.mem = ready.1.mem ∧ x.live = true ∧ x.phase = .queued ∧
          x.instr = i ∧ x.args = [raw] ∧ x.engine = eng ∧ x.cls = eng ∧ x.core = home ∧ x.icore = core ∧ x.crew = c ∧ x.thread = t ∧ x.prog = 0 ∧
          x.stream = m.stream.toNat ∧ x.scope = m.scope ∧ x.bo = p.bo ∧ x.inc = p.inc ∧ x.seq = (s.crew c).iss.get eng ∧
          x.w = BitVec.ofNat 64 (max s.cyc.toNat prev.toNat + 768 + s.reforms.engUnits i p 0) ∧
          (s'.crew c).outst = (s.crew c).outst ++ [⟨eng, (s.crew c).iss.get eng, false⟩] ∧
          (s'.crew c).iss.get eng = ((s.crew c).iss.get eng + 1) % 8192 ∧
          (s'.thr t).r = (if m.prom ∧ h.nw = false then r.setX h.d.toNat (promiseOf x.w eng x.seq) else r).broke) ∧
      ((4095 < s.counter c eng + s.reforms.engOps i h a b ∨ c ∈ s.issue.full) →
        ∃ s' : State, s'.ops = s.ops ∧ s'.mem = ready.1.mem ∧ c ∈ s'.issue.full ∧ (s'.thr t).r = r ∧
          ((s.part s.curAs.part).satrap = false → exec i s = .next s') ∧
          ((s.part s.curAs.part).satrap = true → exec i s = .next (s'.raise { cause := .counterSaturated })))) ∧
  ((∀ (s : State) (t : Nat) (h : Hdr) (a b : Src) (m : EngMod) (raw : Nat) (pl : Place), s.cur = .thread t →
        t < s.threads.length → s.crewOf t < s.crews.length →
        let i := Instr.cdec h a b m
        let r := s.curRegs
        let c := s.crewOf t
        let core := s.coreOf t
        let w := s.wgOf t
        let p := engPar i raw
        let ea := p.src + BitVec.ofNat 64 (16 * p.n)
        (s.runs (.cpq h) = true →
          let held := (s.ops.filter fun o => o.live && o.crew == c && isClass9 o.instr && s.reforms.opHeld o).length
          ∃ x : DWord, exec (.cpq h) s = .next (s.reforms.goesOn (if h.nw then r else r.setX h.d.toNat x).broke) ∧
            (s.counter c 0 ≤ 4095 → s.counter c 1 ≤ 4095 → s.engQueue core 0 ≤ 64 → s.engQueue core 1 ≤ 64 → held ≤ 4095 →
              bits x 0 12 = s.counter c 0 ∧ bits x 12 12 = s.counter c 1 ∧ bits x 24 7 = s.engQueue core 0 ∧ bits x 31 1 = 0 ∧
              bits x 32 7 = s.engQueue core 1 ∧ bits x 39 1 = 0 ∧ bits x 40 12 = held ∧ bits x 52 12 = 0)) ∧
        (s.runs i = true →
          (if m.pb then s.reforms.stashBlock (r.rv a).toNat = .ok raw
            else raw = r.regsNat (srcReg a) 4 + 2 ^ 128 * r.regsNat (srcReg b) 4) →
          p.bad = false → s.streamClash w m.stream.toNat m.scope = false →
          (p.src.toNat % 16 ≠ 0 → exec i s = .next (s.reforms.raise { cause := .misaligned, addr := p.src })) ∧
          (p.src.toNat % 16 = 0 → (s.reforms.resolve s.curAs (some core) ea 16 .load).2 = .ok pl →
            let u := (s.reforms.resolve s.curAs (some core) ea 16 .load).1.demandPlace pl
            let word := leNat (u.fetchPlace (some core) pl)
            let e := entryOfNat word
            let paged := u.engPages (engRanges i p e.n)
            let ready := paged.1.engBo p.bo
            u.placeBad pl = false →
            let malformed : TrapInfo := { cause := .streamMalformed, detail := 2, addr := p.src, aux := BitVec.ofNat 64 p.n }
            (e.bad false = true → exec i s = .next (u.raise malformed)) ∧
            (e.bad false = false → u.engStash w (engRanges i p e.n) = none → engMisaligned i p = none →
              paged.2 = .ok () → ready.2 = .ok () → s.counter c 0 + s.reforms.engOps i h a b ≤ 4095 → c ∉ s.issue.full →
              s.engQueue (s.engHome w core 0 m.stream.toNat) 0 < 64 →
              ∃ (s' : State) (x : EngOp), exec i s = .next s' ∧ s'.ops = s.ops ++ [x] ∧ x.live = true ∧ x.phase = .queued ∧ x.instr = i ∧
                x.args = [raw, word] ∧ x.cls = 0 ∧ x.crew = c ∧ x.thread = t ∧
                (s'.crew c).outst = (s.crew c).outst ++ [⟨0, (s.crew c).iss.get 0, false⟩] ∧
                (s'.thr t).r = (if m.prom ∧ h.nw = false then r.setX h.d.toNat (promiseOf x.w 0 x.seq) else r).broke)))) ∧
    (∀ (s : State) (t : Nat) (h : Hdr) (a b : Src), s.cur = .thread t → t < s.threads.length → s.crewOf t < s.crews.length →
        let i := Instr.cbload h a b
        let r := s.curRegs
        let c := s.crewOf t
        let va := r.rx a
        s.runs i = true →
        (3 < (r.rv b).toNat → exec i s = .next (s.reforms.raise { cause := .illegalOperand })) ∧
        ((r.rv b).toNat ≤ 3 → va.toNat % 64 ≠ 0 →
          exec i s = .next (s.reforms.raise { cause := .misaligned, detail := 4, addr := va })) ∧
        ((r.rv b).toNat ≤ 3 → va.toNat % 64 = 0 → (s.reforms.engPages [(false, va, 1024, false)]).2 = .ok () →
          s.counter c 0 + s.reforms.cbloadOps h a b ≤ 4095 → c ∉ s.issue.full → s.engQueue (s.coreOf t) 0 < 64 →
          ∃ (s' : State) (x : EngOp), exec i s = .next s' ∧ s'.ops = s.ops ++ [x] ∧ x.live = true ∧ x.phase = .queued ∧ x.cls = 0 ∧
            x.crew = c ∧ x.args = [va.toNat + 2 ^ 64 * (r.rv b).toNat] ∧ (s'.thr t).r = r.broke ∧
            (s'.crew c).outst = (s.crew c).outst ++ [⟨0, (s.crew c).iss.get 0, false⟩])))

/-- R88, R92, R311 and R313 to R315: SEARCH, NBSCAN, NBROWCOPY and NBROWZERO with a readable block are queued with it at the front die or
the home die and counted in class 3; the issue is a release of what the core wrote, and no field of the block is checked. The commands
of an issue are counted as log 20 says, and a command whose operand cannot be read goes to the front die (log 53), the model's readings. -/
def Obligations.BasinCommands : Prop :=
  ∀ (s : State) (t : Nat) (h : Hdr) (a : Src) (m : BasMod) (kind block : Nat) (i : Instr), s.cur = .thread t → t < s.threads.length →
    s.crewOf t < s.crews.length →
    (kind = 1 ∧ i = .search h a m ∨ kind = 2 ∧ i = .nbscan h a m ∨ kind = 3 ∧ i = .nbrowcopy h a m ∨ kind = 4 ∧ i = .nbrowzero h a m) →
    let r := s.curRegs
    let c := s.crewOf t
    let front := 3 * (s.coreOf t / 128)
    let target := (s.reforms.flushCore (s.coreOf t)).targetStack s.curAs kind block front
    let dl := BitVec.ofNat 64 (nbits block 464 48)
    s.runs i = true →
    (if m.pb then s.reforms.stashBlock (r.rv a).toNat = .ok block else block = r.regsNat (srcReg a) 16) →
    s.streamClash (s.wgOf t) m.stream.toNat m.scope = false → s.counter c 3 + s.reforms.basOps h a m ≤ 4095 → c ∉ s.issue.full → s.dieQueue target < 256 →
    (s.flushCore (s.coreOf t)).postBlocked (s.coreOf t) = none →
    ∃ (s' : State) (x : Cmd), exec i s = .next s' ∧ s'.cmds = s.cmds ++ [x] ∧ s'.mem = (s.flushCore (s.coreOf t)).mem ∧ x.live = true ∧
      x.kind = kind ∧ x.block = block ∧ x.crew = c ∧ x.thread = t ∧ x.core = s.coreOf t ∧ x.pc = r.pc ∧ x.front = front ∧
      x.part = s.curAs.part ∧ x.ctx = s.curAs.ctx ∧ x.sup = s.curAs.sup ∧ x.started = false ∧ x.rejected = false ∧ x.status = 0 ∧
      x.stack = (if kind = 1 then front else target) ∧ x.forwarded = (kind != 1) ∧ x.stream = m.stream.toNat ∧ x.scope = m.scope ∧
      x.deadline = (if dl = 0 ∨ kind = 4 then none else some (promiseTime s.cyc dl)) ∧ x.seq = (s.crew c).iss.get 3 ∧
      (s'.thr t).r = r.broke ∧ (s'.crew c).outst = (s.crew c).outst ++ [⟨3, (s.crew c).iss.get 3, false⟩]

/-- R71, R72 and R316 to R318: VPUBLISH advances the version object by 1 and gives its low word, a version at its end traps with nothing
written; VSNAP reads a snapshot, saturated; BQUERY asks one of twelve dies for its state, in the fields of R318. -/
def Obligations.Versions : Prop :=
  ∀ (s : State) (t : Nat) (h : Hdr) (a : Src) (pas : List Nat) (wv : Bool), s.cur = .thread t → t < s.threads.length →
    let r := s.curRegs
    let core := s.coreOf t
    let p : Place := .mem pas wv
    let found := fun (k : AccKind) => s.reforms.check s.curAs (some core) (r.rx a) 8 k
    let d := fun (x : Word) => if h.nw then r.broke else (r.setV h.d.toNat x).broke
    (s.runs (.vpublish h a) = true → s.requests core < 2048 → s.remotePending (s.crewOf t) s.racc.length = false →
      (found .atomic).2 = .ok p →
      let s1 := (found .atomic).1
      let s2 := s1.flushCore core
      s1.placeBlocked p = none → s2.postBlocked core = none →
      let s3 := (s2.settlePlace core p).demandPlace p
      let old := dwOf (s3.fetchPlace none p)
      s3.placeBad p = false →
      exec (.vpublish h a) s = .next (
        if 0xFFFFFFFE ≤ old.toNat then s3.raise { cause := .illegalOperand }
        else ((s3.performPlace p ((List.range 8).map fun j => (old + 1).extractLsb' (8 * j) 8)).noteAdvance (pas.headD 0)).goesOn
          (d ((old + 1).setWidth 32)))) ∧
    (s.runs (.vsnap h a) = true → s.requests core < 2048 → (found .load).2 = .ok p →
      let s2 := (found .load).1.demandPlace p
      s2.placeBad p = false →
      exec (.vsnap h a) s = .next (s2.goesOn (d (BitVec.ofNat 32 (min (leNat (s2.fetchPlace (some core) p)) 0xFFFFFFFE))))) ∧
    (s.runs (.bquery h a) = true →
      let k := (r.rv a).toNat
      (11 < k → exec (.bquery h a) s = .next (s.reforms.raise { cause := .illegalOperand })) ∧
      (k ≤ 11 → s.requests core < 2048 → ∃ x : DWord,
        let fly : LoadFly := { thread := t, walker := none, d := h.d.toNat, vals := [x.setWidth 32, x.extractLsb' 32 32], poison := none, pc := r.pc }
        exec (.bquery h a) s = .next (State.goesOn { s.reforms with loads := s.loads ++ [fly] } r.broke) ∧
        bits x 0 9 = min (s.dieQueue k) 256 ∧ bits x 9 7 = 0 ∧ bits x 16 5 = 16 - s.heapsUsed k ∧ bits x 21 11 = 0 ∧
        bits x 32 11 = 1024 - s.walkersUsed k ∧ bits x 43 5 = 0 ∧ bits x 48 8 = 128 - s.slicesUsed k ∧ bits x 56 8 = 0))

/-- R75 and R77: the distance of a record's vector from the query's, and the heap of k pairs (distance, id) after an offer. Over INT8, L2SQ
and IP are the exact sums; over bits, HAMMING counts the bits that differ; over BF16 and BFP8 each term is rounded once and the sum is
formed in element order, each sum rounded, and IP is its negation, the canonical NaN kept; a BFP8 element counts with its exact value. A
heap stands in the order of its pairs, the smaller distance first, equal ones by id, float distances compared as numbers, -0.0 equal to
+0.0; its ids differ. A NaN is rejected; an id that is there is replaced by a smaller distance and else stays; a heap that is full gives
up its worst pair for a better one and else stays as it is. -/
def Obligations.Distances : Prop :=
  ∀ (metric dim k : Nat) (q a : List Byte) (flt : Bool) (heap : List (Word × Word)) (x : Word × Word),
    let key : Word → Int := fun d =>
      let e := (d.toNat / 2 ^ 23) % 256
      let m := d.toNat % 2 ^ 23
      if !flt then d.toInt
      else (if d.msb then -1 else 1) * ((if e = 0 then m else m + 2 ^ 23) * 2 ^ (max e 1) : Nat)
    let nan := fun (d : Word) => flt = true ∧ 0x7F800000 < d.toNat % 2 ^ 31
    let before := fun (y z : Word × Word) => key y.1 < key z.1 ∨ key y.1 = key z.1 ∧ y.2.toNat < z.2.toNat
    let isHeap := fun (l : List (Word × Word)) => l.Pairwise before ∧ (l.map (·.2)).Nodup ∧ l.length ≤ k ∧ ∀ y ∈ l, ¬nan y.1
    let kept := heapOffer flt k heap x
    (isHeap heap → 1 ≤ k →
      isHeap kept ∧ (nan x.1 → kept = heap) ∧
      (¬nan x.1 → ∀ y ∈ heap, y.2 = x.2 →
        (key x.1 < key y.1 → ∀ z, z ∈ kept ↔ z = x ∨ z ∈ heap ∧ z ≠ y) ∧ (key y.1 ≤ key x.1 → kept = heap)) ∧
      (¬nan x.1 → (∀ y ∈ heap, y.2 ≠ x.2) →
        (heap.length < k → ∀ z, z ∈ kept ↔ z = x ∨ z ∈ heap) ∧
        (∀ w, heap.length = k → heap.getLast? = some w →
          (before x w → ∀ z, z ∈ kept ↔ z = x ∨ z ∈ heap ∧ z ≠ w) ∧ (¬before x w → kept = heap)))) ∧
    (∀ e, vecElem 1 dim a e = ((a.getD (2 * e) 0).toNat + 256 * (a.getD (2 * e + 1) 0).toNat) * 65536) ∧
    (∀ e,
      let b := (a.getD e 0).toNat
      let ex := (a.getD (dim + 2 * (e / 32) + b / 128) 0).toNat
      let v := vecElem 2 dim a e
      let mant := if v / 2 ^ 23 % 256 = 0 then v % 2 ^ 23 else v % 2 ^ 23 + 2 ^ 23
      (ex = 255 → v = 0x7FC00000) ∧
      (ex = 0 → v = b / 64 % 2 * 2 ^ 31) ∧
      (1 ≤ ex → ex ≤ 254 → v < 2 ^ 32 ∧ v / 2 ^ 31 = b / 64 % 2 ∧ mant * 2 ^ (max (v / 2 ^ 23 % 256) 1) = b % 64 * 2 ^ (ex + 18))) ∧
    let el := fun (v : List Byte) (e : Nat) => (v.getD e 0).toInt
    distance 0 0 dim q a = BitVec.ofInt 32 (∑ e ∈ Finset.range dim, (el a e - el q e) ^ 2) ∧
    (metric ≠ 0 → distance 0 metric dim q a = BitVec.ofInt 32 (-∑ e ∈ Finset.range dim, el a e * el q e)) ∧
    (dim % 8 = 0 → distance 3 metric dim q a = BitVec.ofNat 32 (((Finset.range dim).filter fun e =>
      (a.getD (e / 8) 0).getLsbD (e % 8) ≠ (q.getD (e / 8) 0).getLsbD (e % 8)).card)) ∧
    (∀ (fmt : Nat) (sum : Nat → Nat), fmt = 1 ∨ fmt = 2 →
      let x := vecElem fmt dim a
      let y := vecElem fmt dim q
      let d := fun e => (f32.sub .rne false (x e) (y e)).pat
      let t := fun e => if metric = 0 then (f32.mul .rne false (d e) (d e)).pat else (f32.mul .rne false (x e) (y e)).pat
      sum 0 = 0 → (∀ e, sum (e + 1) = (f32.add .rne false (sum e) (t e)).pat) →
        distance fmt metric dim q a = BitVec.ofNat 32
          (if metric = 0 ∨ sum dim = 0x7FC00000 then sum dim else f32.flip (sum dim)))

/-- R79, R81 to R83 and R319 to R326: the instructions of a walker. WDIST gives the distance and the visibility of a node, and tags it;
WHEAP offers a pair, unless its node is the tagged invisible one; WNBRS reads the count and m neighbours; WVISIT tests and sets the
visited bit; WHOP leaves with the masked registers; WSPAWN adds a child; WDONE ends, at once or when its last posted offer has reached
the heap. The model's choices here: a spawned walker's engine is its parent's (log 63), WHOP's address needs read permission (log 64),
and one bad line of the list WNBRS names gives the count 0 (log 86). -/
def Obligations.WalkerInstructions : Prop :=
  ∀ (s : State) (w : Nat) (x : Walker) (c : Cmd) (h : Hdr) (a b : Src) (q : BitVec 4) (m : BitVec 5) (off : BitVec 11) (p : Place)
    (pa : Nat), s.cur = .walker w → s.walkers[w]? = some x → s.cmds[x.cmd]? = some c →
    let r := s.curRegs
    let node := r.rv a
    let hop := fun (s : State) (k : Nat) => State.updWlk s w fun x => { x with
      r := { pc := x.r.npc, npc := x.r.npc, v := x.r.v.filter fun e => e.1 < 32 && (r.rv b).getLsbD e.1, p := x.r.p },
      phase := .hopping k }
    (s.runs (.wdist h a q) = true → c.nodeStack node.toNat = x.stack →
      let found := s.walkerPlace (c.nodeAddr node.toNat) (8 + c.vbytes)
      found.2 = .ok p →
      let s2 := found.1.demandPlace p
      let bs := s2.fetchPlace none p
      let lost := s2.placeBad p = true ∨ c.query = []
      let birth := leNat (bs.take 4)
      let death := leNat ((bs.drop 4).take 4)
      let vis := !decide lost && decide (birth ≤ c.snapshot.toNat ∧ c.snapshot.toNat < death)
      let dist : Word := if lost then c.farDist else distance c.vfmt c.metric c.dim c.query (bs.drop 8)
      ∃ s', exec (.wdist h a q) s = .next s' ∧ (s'.wlk w).tagId = node ∧
        (s'.wlk w).r = (if h.nw then r.setP q vis else (r.setP q vis).setV h.d.toNat dist).broke ∧
        (s'.wlk w).tagVis = vis ∧ s'.cmds[x.cmd]? = some { c with evals := c.evals + 1, eccUe := decide lost || c.eccUe } ∧
        s'.mem = s2.mem) ∧
    (s.runs (.wheap h a b) = true → exec (.wheap h a b) s = .next (State.goesOn
      (if x.tagId = r.rv b ∧ x.tagVis = false then s
        else (s.updCmd x.cmd fun c => { c with offers := c.offers ++ [(node, r.rv b)] }).updWlk w fun y =>
          { y with last := c.merged + c.offers.length + 1 })
      r.gotNone)) ∧
    (s.runs (.wnbrs h a b m) = true → c.nodeStack node.toNat = x.stack →
      let found := s.walkerPlace (c.nodeAddr node.toNat + BitVec.ofNat 64 c.cntOff) (4 + 4 * c.maxdeg)
      found.2 = .ok p →
      let s2 := found.1.demandPlace p
      let bs := s2.fetchPlace none p
      let cnt := if s2.placeBad p then 0 else min (leNat (bs.take 2)) c.maxdeg
      ∃ s', exec (.wnbrs h a b m) s = .next s' ∧ (s'.wlk w).r.v.get h.d.toNat = BitVec.ofNat 32 cnt ∧ s'.mem = s2.mem ∧
        (∀ j < m.toNat, (s'.wlk w).r.v.get (h.d.toNat + 1 + j) =
          if (r.rv b).toNat + j < cnt then BitVec.ofNat 32 (leNat ((bs.drop (4 + 4 * ((r.rv b).toNat + j))).take 4)) else 0xFFFFFFFF) ∧
        (∀ n, n < h.d.toNat ∨ h.d.toNat + m.toNat < n → (s'.wlk w).r.v.get n = r.v.get n) ∧ (s'.wlk w).r.p = r.p ∧
        (s'.wlk w).r.pc = r.npc) ∧
    (s.runs (.wvisit h a) = true →
      let bit := 2 ^ 18 * x.stack + node.toNat / c.nstack % 2 ^ 18
      ∃ (s' : State) (c' : Cmd), exec (.wvisit h a) s = .next s' ∧ (s'.wlk w).r = r.gotP h (decide (bit ∈ c.visited)) ∧
        s'.cmds[x.cmd]? = some c' ∧ { c' with visited := c.visited } = c ∧ (∀ n, n ∈ c'.visited ↔ n = bit ∨ n ∈ c.visited) ∧
        s'.mem = s.mem) ∧
    (s.walkerLoads = false →
      (s.runs (.whop h a b true) = true → exec (.whop h a b true) s = .next (hop s (c.nodeStack node.toNat))) ∧
      (s.runs (.whop h a b false) = true →
        let found := s.nbPage c.as (r.rx a) false
        (found.2 = some (pa, true) → paIsPackage pa = true → exec (.whop h a b false) s = .next (hop found.1 (paStack pa))) ∧
        (found.2 = none → exec (.whop h a b false) s = .next (found.1.walkerFault w))) ∧
      (s.runs (.wspawn h b off) = true →
        let found := s.checkTarget s.curAs none (r.target (.short off))
        found.2 = .ok () →
        let full := 1024 ≤ s.liveWalkers x.cmd
        ∃ (s' : State), exec (.wspawn h b off) s = .next s' ∧ (s'.wlk w).r = r.gotP h (!decide full) ∧ s'.mem = found.1.mem ∧
          (full → s'.walkers.length = s.walkers.length) ∧
          (¬full → ∃ y : Walker, s'.walkers.length = s.walkers.length + 1 ∧ s'.walkers[s.walkers.length]? = some y ∧ y.cmd = x.cmd ∧
            y.stack = x.stack ∧ y.engine = x.engine ∧ y.tagId = x.tagId ∧ y.tagVis = x.tagVis ∧ y.phase = .starting ∧
            y.r.pc = r.target (.short off) ∧ y.r.p = (r.setP (h.d.setWidth 4) true).p ∧
            ∀ n, y.r.v.get n = if n < 32 ∧ (r.rv b).getLsbD n = true then r.v.get n else 0))) ∧
    (s.runs (.wdone h) = true → exec (.wdone h) s =
      .next (s.updWlk w fun y => { y with phase := if x.last ≤ c.merged then .done else .ending }))

/-- R34 to R36, R167 and R226: a collective by a leader is illegal; a thread that arrives waits until every non-exited thread of its crew
has arrived; the last arrival of a matching one completes it for all: each active thread takes its result and its flags, each goes on
past it; one that does not match is ILLEGAL_COLLECTIVE in every arrived thread. -/
def Obligations.CollectiveArrival : Prop :=
  ∀ (s : State) (t : Nat) (h : Hdr) (a b : Src) (e e2 : Bool) (sm : ShflMode) (lg : BitVec 3) (ln : BitVec 5) (op : RedOp) (ty : RedTy)
    (rm : Rnd) (q : BitVec 4) (vm : VoteMode) (i : Instr), s.cur = .thread t → t < s.threads.length → t ∈ s.live (s.crewOf t) →
    i ∈ [.packbfp h a e, .unpackbfp h a e, .hadam h a e, .shfl h a b sm lg e, .bcast h a ln e, .redux h a op ty rm, .scan h a op ty rm e,
      .matchv h a e e2, .vote h q e vm] →
    s.joins i = true →
    let c := s.crewOf t
    let cfg := s.rdvCfg c
    let s1 := s.reforms.updThr t fun x => { x with st := .waiting (.coll i (s.curRegs.guard h) cfg.1 cfg.2) }
    (s.isLeader t = true → exec i s = .next (s.reforms.raise { cause := .illegalCollective })) ∧
    (s.isLeader t = false →
      ((∃ u ∈ s.live c, u ≠ t ∧ rdvOf (s.thr u) = .none) → exec i s = .next s1) ∧
      ((∀ u ∈ s.live c, u ≠ t → ∃ j g f sp, (s.thr u).st = .waiting (.coll j g f sp) ∧ collKey j = collKey i) →
        ∃ s', exec i s = .next s' ∧ s'.mem = s.mem ∧
          ∀ n < 32, ∀ ins g f sp, (s1.crew c).base + n ∈ s.live c →
            (s1.thr ((s1.crew c).base + n)).st = .waiting (.coll ins g f sp) →
            let u := (s1.crew c).base + n
            let res := s1.collRes c cfg.1 cfg.2 ins n
            (s'.thr u).st = .ready ∧
            (s'.thr u).r = (if g then (s1.thr u).r.setDst (collDst ins) res.1 else (s1.thr u).r).broke ∧
            (s'.thr u).status = if g then (s1.thr u).status ||| res.2 else (s1.thr u).status) ∧
      ((∀ u ∈ s.live c, u ≠ t → rdvOf (s.thr u) ≠ .none) →
        (∃ u ∈ s.live c, u ≠ t ∧ ∀ j g f sp, (s.thr u).st = .waiting (.coll j g f sp) → collKey j ≠ collKey i) →
        ∃ s', exec i s = .next s' ∧ ∀ u ∈ s.live c, u < s.threads.length →
          (s'.thr u).st = .waiting (.trap 0 { cause := .illegalCollective } (s.thr u).r.pc)))

/-- R137, R214 and R226 to R231: the results of collectives, from the contributions of the 32 threads, and the flags of REDUX, SCAN and
HADAM: those of every step that formed the result, for HADAM of every step of its transform. The start of SCAN .min and .max (`run 1` is
the step of the first contribution with itself, and no identity enters) is the model's reading (log 57). R129 and R136: a block of 32
values as its exponents and elements, and the value of an element in FP32 and BF16. -/
def Obligations.CollectiveResults : Prop :=
  (∀ (s : State) (c sp n : Nat) (ftz : Bool) (h : Hdr) (a b : Src) (e : Bool) (lg : BitVec 3) (ln : BitVec 5) (op : RedOp) (ty : RedTy)
      (rm : Rnd) (q : BitVec 4), n < 32 →
      let res := fun (i : Instr) => (s.collRes c ftz sp i n).1
      let fls := fun (i : Instr) (k : Nat) => (s.collRes c ftz sp i n).2.getLsbD k = true
      let X := s.contrib c
      let reg := fun (j : Nat) => (s.thr ((s.crew c).base + j)).r
      let cnt := ((reg n).rv b).toNat
      let N := 2 ^ (5 - lg.toNat)
      let lo := n - n % N
      let T := fun (j : Nat) => (reg j).pred q != e
      let step := fun (x y : DWord) => (redStep op ty rm ftz x y).1
      let flag := fun (x y : DWord) (k : Nat) => (redStep op ty rm ftz x y).2.getLsbD k = true
      let Z := fun (j : Nat) => s.contribOr c j (redId op ty)
      let fst := if e then n / 16 * 16 else 0
      res (.shfl h a b .idx lg e) = X (lo + cnt % N) ∧
      (res (.shfl h a b .up lg e) = if cnt ≤ n % N ∧ cnt < 32 then X (n - cnt) else (reg n).rw e a) ∧
      (res (.shfl h a b .down lg e) = if cnt < 32 ∧ n % N + cnt < N then X (n + cnt) else (reg n).rw e a) ∧
      res (.shfl h a b .xor lg e) = X (n ^^^ (cnt % N)) ∧
      res (.bcast h a ln e) = X ln.toNat ∧
      (∃ tree : Nat → Nat → DWord, (∀ j < 32, tree 0 j = Z j) ∧
        (∀ l < 5, ∀ k < 2 ^ (4 - l), tree (l + 1) k = step (tree l (2 * k)) (tree l (2 * k + 1))) ∧ res (.redux h a op ty rm) = tree 5 0 ∧
        ∀ k < 9, fls (.redux h a op ty rm) k ↔ ∃ l < 5, ∃ j < 2 ^ (4 - l), flag (tree l (2 * j)) (tree l (2 * j + 1)) k) ∧
      (∃ run : Nat → DWord, run 0 = redId op ty ∧
        (let u := fun (j : Nat) => if j = 0 ∧ (op = .min ∨ op = .max) then Z 0 else run j
         (∀ j < 32, run (j + 1) = step (u j) (Z j)) ∧ res (.scan h a op ty rm e) = run (if e then n else n + 1) ∧
           ∀ k < 9, fls (.scan h a op ty rm e) k ↔ ∃ j < (if e then n else n + 1), flag (u j) (Z j) k)) ∧
      (∀ j < 64, (res (.matchv h a false e)).getLsbD j = true ↔ j < 32 ∧ s.activeAt c j = true ∧ X j = X n) ∧
      (∀ j < 64, (res (.matchv h a true e)).getLsbD j = true ↔
        j < 32 ∧ s.activeAt c j = true ∧ ∀ k < 32, s.activeAt c k = true → X k = X n) ∧
      (∀ m, m ≠ .ballot → res (.vote h q e m) = 0 ∨ res (.vote h q e m) = 1) ∧
      (res (.vote h q e .any) = 1 ↔ ∃ j < 32, s.activeAt c j = true ∧ T j = true) ∧
      (res (.vote h q e .all) = 1 ↔ ∀ j < 32, s.activeAt c j = true → T j = true) ∧
      (res (.vote h q e .eq) = 1 ↔ ∀ j < 32, s.activeAt c j = true → T j = T n) ∧
      (∀ j < 64, (res (.vote h q e .ballot)).getLsbD j = true ↔ j < 32 ∧ s.activeAt c j = true ∧ T j = true) ∧
      (∃ y : Nat → Nat → Nat, (∀ j < (if e then 16 else 32), y 0 j = (X (fst + j)).toNat) ∧
        (∀ l < (if e then 4 else 5), ∀ j < (if e then 16 else 32), y (l + 1) j =
          if j / 2 ^ l % 2 = 0 then (f32.add .rne ftz (y l j) (y l (j + 2 ^ l))).pat
          else (f32.sub .rne ftz (y l (j - 2 ^ l)) (y l j)).pat) ∧
        res (.hadam h a e) = BitVec.ofNat 64 (y (if e then 4 else 5) (n - fst)) ∧
        ∀ k < 9, fls (.hadam h a e) k ↔ ∃ l < (if e then 4 else 5), ∃ j < (if e then 16 else 32), j / 2 ^ l % 2 = 0 ∧
          ((f32.add .rne ftz (y l j) (y l (j + 2 ^ l))).fl.getLsbD k = true ∨ (f32.sub .rne ftz (y l j) (y l (j + 2 ^ l))).fl.getLsbD k = true)) ∧
      (let blk := quantise e sp ((List.range 32).map fun j => f32.val ftz (X j).toNat)
       let el := fun (j : Nat) => blk.1.getD j 0
       res (.packbfp h a e) = BitVec.ofNat 64 (
         if e then (if n < 4 then ∑ j ∈ Finset.range 8, el (8 * n + j) * 16 ^ j else if n = 4 then blk.2.1 + 256 * blk.2.2 else 0)
         else if n < 8 then ∑ j ∈ Finset.range 4, el (4 * n + j) * 256 ^ j else if n = 8 then blk.2.1 + 256 * blk.2.2 else 0)) ∧
      (let w := fun (j : Nat) => (X j).toNat
       let el := if e then w (n / 8) / 16 ^ (n % 8) % 16 else w (n / 4) / 256 ^ (n % 4) % 256
       let ex := w (if e then 4 else 8)
       res (.unpackbfp h a e) = BitVec.ofNat 64 (f32.flushIn ftz (bfpTo f32 e el (ex % 256) (ex / 256 % 256))))) ∧
  (∀ (b4 z : Bool) (sp : Nat) (X : Nat → Nat), (∀ j, X j < 2 ^ 32) →
      let c : Nat := if b4 then 2 else 32
      let top : Nat := if b4 then 3 else 63
      let el := fun (sel neg : Bool) (m : Nat) => (2 * sel.toNat + neg.toNat) * (top + 1) + m
      let blk := quantise b4 sp ((List.range 32).map fun j => f32.val z (X j))
      let E0 := blk.2.1
      let E1 := blk.2.2
      let at_ := fun (j : Nat) => blk.1.getD j 0
      let fin := fun (j : Nat) => f32.ex (X j) ≠ 255
      let nan := fun (j : Nat) => f32.ex (X j) = 255 ∧ f32.fr (X j) ≠ 0
      let neg := fun (j : Nat) => decide (2 ^ 31 ≤ X j)
      let mag := fun (j : Nat) => |f32.read z (X j)|
      ((∃ j < 32, nan j) → E0 = 255 ∧ E1 = 255 ∧ ∀ j < 32, at_ j = 0) ∧
      ((∀ j < 32, ¬nan j) →
        ((∀ j < 32, fin j ∧ mag j = 0) → E1 = 0) ∧ ((∃ j < 32, ¬fin j) → E1 = 254) ∧
        (∀ L : ℤ, (∀ j < 32, fin j ∧ mag j < 2 ^ (L + 1)) → (∃ j < 32, 2 ^ L ≤ mag j) → (E1 : ℤ) = max 1 (min 254 (L + 127))) ∧
        E0 = (if sp + 1 ≤ E1 then E1 - sp else 0) ∧
        ∀ j < 32, (¬fin j → at_ j = el true (neg j) top) ∧
          (fin j → ∃ m0 m1 : Nat, roundsTo .rne (mag j * 2 ^ (127 - (E0 : ℤ)) * c) m0 ∧ roundsTo .rne (mag j * 2 ^ (127 - (E1 : ℤ)) * c) m1 ∧
            at_ j = if 1 ≤ E0 ∧ m0 ≤ top then el false (neg j) m0 else if E1 = 0 then el false (neg j) 0 else el true (neg j) (min m1 top))) ∧
      (∀ f sel neg m e0 e1, f = f32 ∨ f = bf16 → m ≤ top → e0 < 256 → e1 < 256 →
        let E : Nat := if sel then e1 else e0
        let x := bfpTo f b4 (el sel neg m) e0 e1
        (E = 255 → x = f.canon) ∧
        (E ≠ 255 → x < 2 ^ f.w ∧ f.ex x ≠ 2 ^ f.eb - 1 ∧ (2 ^ (f.w - 1) ≤ x ↔ neg = true) ∧
          f.rat x = if E = 0 then 0 else (if neg then -1 else 1) * ((m : ℚ) / c) * 2 ^ ((E : ℤ) - 127))))

/-- R216, R363 and R364: LAUNCH of a readable record to a queue of its partition gives p[d] = 0 and changes nothing else where the queue is
full; else it reserves the next slot, writes the 128 bytes there and, once those before it are appended, advances the queue's object and
gives p[d] = 1: it waits where one is not. A misaligned B traps, an address that is no queue's base, or that of a supervisor's queue at
user level, is denied. That A is checked whole before B, and that a record in a poisoned line is copied as it is stored, is the model's
choice (logs 83, 81). -/
def Obligations.LaunchAppends : Prop :=
  ∀ (s : State) (t : Nat) (h : Hdr) (a b : Src) (rec' : Place) (pas : List Nat) (wv : Bool) (q : LaunchQ), s.cur = .thread t →
    s.runs (.launch h a b) = true → s.remotePending (s.crewOf t) s.racc.length = false →
    let r := s.curRegs
    let core := s.coreOf t
    let p := h.d.setWidth 4
    let le := fun (x : Nat) => (List.range 8).map fun j => (BitVec.ofNat 64 x).extractLsb' (8 * j) 8
    let found := s.reforms.check s.curAs (some core) (r.rx a) 128 .load
    let read := found.1.demandPlace rec'
    let objs := read.resolve s.curAs (some core) (r.rx b) 8 .store
    let queue := (objs.1.part s.curAs.part).queueAt (pas.headD 0)
    let denied := Host.Outcome.next (objs.1.raise (accTrap .access .store (r.rx b)))
    found.2 = .ok rec' →
    ((r.rx b).toNat % 4096 ≠ 0 → exec (.launch h a b) s = .next (read.raise (accTrap .misaligned .store (r.rx b)))) ∧
    ((r.rx b).toNat % 4096 = 0 → objs.2 = .ok (.mem pas wv) →
      (queue = none → exec (.launch h a b) s = denied) ∧
      (queue = some q → q.sup = true → s.curAs.sup = false → exec (.launch h a b) s = denied) ∧
      (queue = some q → (q.sup = true → s.curAs.sup = true) → (objs.1.flushCore core).postBlocked core = none →
        let base := q.base.toNat
        let size := 2 ^ (q.lgn + 4)
        let now := (objs.1.flushCore core).demandRange base 24
        let res := now.readQ (base + 16)
        let slot := base + 256 + 128 * (res % size)
        let put := (now.perform (base + 16) (le (res + 1)) true).perform slot (now.fetchPlace (some core) rec') true
        (size ≤ res - now.readQ (base + 8) → exec (.launch h a b) s = .next (now.goesOn (r.setP p false).broke)) ∧
        (res - now.readQ (base + 8) < size → now.demandBlocked base 24 = none → now.demandBlocked slot 128 = none →
          (put.readQ base = res → exec (.launch h a b) s = .next (((put.perform base (le (min (res + 1) (2 ^ 64 - 1))) true).noteAdvance
            base).goesOn (r.setP p true).broke)) ∧
          (put.readQ base ≠ res → exec (.launch h a b) s = .next (State.updThr (put.updPart s.curAs.part fun x =>
            { x with appends := x.appends ++ [{ base := base, slot := res, thread := t }] }) t
            fun x => { x with st := .fetchSuspended (.append h.d) })))))

/-- R335, R337 and R342: SRET of a handle that names no record gives p[d] = 0 and frees nothing; else it frees the slot and gives p[d] = 1.
By the record's kind: a stopped thread goes on at its resume PC, or at B, or exits; a crew that its timer stopped goes on, or exits; a
context that an ASSERT stopped runs again, unless PREEMPT or HALT stops it too, or is killed; a held operation or write-back goes on, or
fails: the operation ends and its thread takes the cause, the line is lost; of a record of kind 4 or 6 only the slot is freed. An act
that the kind does not permit is illegal. That the line of a failed write-back is discarded, and the launch's wb_lost set, is the
model's reading outside an exit (log 49). -/
def Obligations.TrapReturn : Prop :=
  ∀ (s : State) (t u core slot n c : Nat) (h : Hdr) (a b : Src) (act : SretAct) (pc : Bool) (q : TrapRec) (k : Nat) (i : TrapInfo)
    (opc : DWord) (o : EngOp), s.cur = .thread t → t < s.threads.length → s.runs (.sret h a b act pc) = true →
    let r := s.curRegs
    let p := h.d.setWidth 4
    let freed := fun (s' : State) => ((s'.core core).slots.get slot).held = none ∧
      ((s'.core core).slots.get slot).gen = ((s.core core).slots.get slot).gen + 1
    let yields := fun (s' : State) => exec (.sret h a b act pc) s = .next s' ∧ (s'.thr t).r = (r.setP p true).broke ∧ freed s'
    (s.recOf s.curAs.part (r.rv a).toNat = none →
      exec (.sret h a b act pc) s = .next (s.reforms.goesOn (r.setP p false).broke)) ∧
    (s.recOf s.curAs.part (r.rv a).toNat = some (core, slot, q) →
      ((act = .fail ∧ q.kind ≠ 5) ∨ (act = .exit ∧ 3 < q.kind) ∨ (pc = true ∧ (act ≠ .resume ∨ q.kind ∉ [0, 1, 3])) →
        exec (.sret h a b act pc) s = .next (s.reforms.raise { cause := .illegalOperand })) ∧
      ((s.core core).pend = [] → actOk q.kind act = true → (pc = true → act = .resume ∧ q.kind ∈ [0, 1, 3]) →
        (q.kind ≤ 1 → q.thread = some u → u < s.threads.length → u ≠ t → (s.thr u).st = .waiting (.trap k i opc) →
          (act = .resume → ∃ s', yields s' ∧ (s'.thr u).st = .ready ∧
            (s'.thr u).r = { (s.thr u).r with pc := if pc then r.rx b else (s.thr u).r.pc } ∧ s'.mem = s.mem) ∧
          (act = .exit → ∃ s', exec (.sret h a b act pc) s = .next s' ∧ (s'.thr u).st = .exited)) ∧
        (q.kind = 2 → q.thread = some u → s.crewOf u < s.crews.length → s.crewOf u ≠ s.crewOf t →
          (act = .resume → ∃ s', yields s' ∧ (s'.crew (s.crewOf u)).timer = false ∧
            (∀ v, v ≠ t → s'.thr v = s.thr v) ∧ s'.mem = s.mem) ∧
          (act = .exit → ∃ s', exec (.sret h a b act pc) s = .next s' ∧
            ∀ v ∈ s.live (s.crewOf u), v < s.threads.length → (s'.thr v).st = .exited)) ∧
        (q.kind = 3 → q.thread = some u → u < s.threads.length → u ≠ t → (s.thr u).st = .waiting (.trap k i opc) →
          (act = .resume → ∃ s', yields s' ∧ (s'.thr u).st = .ready ∧
            (s'.thr u).r = { (s.thr u).r with pc := if pc then r.rx b else (s.thr u).r.pc } ∧
            (s'.part q.part).ctxs.get q.ctx = (let x := (s.part q.part).ctxs.get q.ctx
              { x with phase := if x.phase ≤ 3 ∧ x.preempted = false then 0 else x.phase }) ∧ s'.mem = s.mem) ∧
          (act = .exit → s.ctxPhase q.part q.ctx = 4 → exec (.sret h a b act pc) s = .next s.reforms.stallCur) ∧
          (act = .exit → s.ctxPhase q.part q.ctx ≠ 4 → ∃ s', exec (.sret h a b act pc) s = .next s' ∧
            ∀ l < s.launches.length, l ∈ s.ctxLaunches q.part q.ctx → (s'.launch l).killed = true)) ∧
        (q.kind = 4 ∨ q.kind = 6 → act = .resume → ∃ s', yields s' ∧ s'.crews = s.crews ∧ s'.launches = s.launches ∧
          (∀ v, v ≠ t → s'.thr v = s.thr v) ∧ s'.mem = s.mem ∧ s'.parts = s.parts ∧ s'.ops = s.ops) ∧
        (q.kind = 5 → q.op = some n → s.ops[n]? = some o → o.live = true → o.phase = .held i →
          (act = .resume → ∃ s', yields s' ∧ s'.ops[n]? = some { o with phase := .serviced } ∧ s'.mem = s.mem) ∧
          (act = .fail → (∀ h a b x y z, o.instr = .mwload h a b x y z → (s.tileOf n).isSome = true) → i.cause ≠ .leaseViolation →
            o.thread < s.threads.length →
            (o.stream ≠ 0 → (((s.reforms.freeSlotAt core slot).engRest o (o.size + 1) o.prog).flushCore o.icore).postBlocked o.icore = none) →
            ∃ s', exec (.sret h a b act pc) s = .next s' ∧ s'.ops[n]? = some { o with live := false } ∧
              (s.hasExited o.thread = false → (s'.thr o.thread).async = (s.thr o.thread).async ++ [⟨i, o.pc, s.cyc.toNat⟩]) ∧
              (s.hasExited o.thread = true → (s'.launch (s.launchOf o.thread)).orphan = true))) ∧
        (q.kind = 5 → q.op = none → q.wg = some c → c < s.wgs.length →
          (act = .resume → ∃ s', yields s' ∧ (s'.wg c).wbHold = false ∧ (s'.wg c).lines = (s.wg c).lines ∧ s'.mem = s.mem) ∧
          (act = .fail → (s.wg c).launch < s.launches.length → ∃ s', yields s' ∧ (s'.wg c).wbHold = false ∧
            (s'.launch (s.wg c).launch).wbLost = true ∧
            (∀ l, (s.wg c).lineAt q.info.addr = some l → (s'.wg c).lines.get l = none) ∧ s'.mem = s.mem))))

/-- R343 to R346 and R423: SYSRD of an assigned register gives its value, SYSWR of a writable one writes it; a number that is not assigned,
an index that does not exist and a write of a read-only register are illegal. A read of PHC keeps the nanoseconds of its instant, which
a read of PHC_NS gives. An access of a window register whose record is stale closes the window; the disable of an aperture in use stalls
until its invalidation is acknowledged, a write of TVREG while a joint operation holds the register. The trap-queue base, the UT and
SATRAP bits and the exclusive locks read as written, the locks set only. (What PHC_NS keeps, for whom and for how long is the model's
choice, log 75; that a disable waits as an invalidation does, log 47; the stale window, log 48.) -/
def Obligations.SystemRegisters : Prop :=
  ∀ (s : State) (h : Hdr) (a b : Src) (reg : BitVec 10) (i : Nat),
    let r := s.curRegs
    let p := s.curAs.part
    let idx := (r.rv a).toNat
    let got := fun (x : DWord) => if h.nw then r.broke else (r.setX h.d.toNat x).broke
    let window := 4 ≤ reg.toNat ∧ reg.toNat ≤ 11
    let closes := if (s.winThread p).isNone then s.reforms.updPart p (fun q => { q with twinValid := false }) else s.reforms
    (s.runs (.sysrd h a reg) = true →
      (s.reforms.sysIdx reg.toNat a idx false = none → exec (.sysrd h a reg) s = .next (s.reforms.raise { cause := .illegalOperand })) ∧
      (s.reforms.sysIdx reg.toNat a idx false = some i → ¬window → reg ≠ 0x384 → reg ≠ 0x385 →
        exec (.sysrd h a reg) s = .next (s.reforms.goesOn (got (s.reforms.sysRead p reg.toNat i)))) ∧
      (s.reforms.sysIdx reg.toNat a idx false = some i → window →
        exec (.sysrd h a reg) s = .next (closes.goesOn (got (s.reforms.sysRead p reg.toNat i)))) ∧
      (s.reforms.sysIdx reg.toNat a idx false = some i → reg = 0x384 →
        exec (.sysrd h a reg) s = .next (State.goesOn (s.reforms.updThr s.t fun y => { y with phcNs := s.links.phcNs })
          (got (s.reforms.sysRead p 0x384 i)))) ∧
      (s.reforms.sysIdx reg.toNat a idx false = some i → reg = 0x385 →
        exec (.sysrd h a reg) s = .next (s.reforms.goesOn (got ((s.thr s.t).phcNs.setWidth 64))))) ∧
    (s.runs (.syswr h a b reg) = true → (s.thr s.t).inv = none →
      (s.reforms.sysIdx reg.toNat a idx true = none → exec (.syswr h a b reg) s = .next (s.reforms.raise { cause := .illegalOperand })) ∧
      (s.reforms.sysIdx reg.toNat a idx true = some i → (reg = 0x210 → s.reforms.aperDrains p i (r.rx b) = false) →
        (reg = 0x008 → s.reforms.windowHeld p i = false) → s.winThread p ≠ some s.t →
        exec (.syswr h a b reg) s = .next ((s.reforms.sysWrite p reg.toNat i (r.rx b)).goesOn r.broke)) ∧
      (s.reforms.sysIdx reg.toNat a idx true = some i → reg = 0x210 → s.reforms.aperDrains p i (r.rx b) = true → s.invCount < 8 →
        exec (.syswr h a b reg) s = .next (State.updThr (s.reforms.sysWrite p 0x210 i (r.rx b)).startInv s.t
          fun x => { x with inv := some s.tlbinvs.length }).stallCur) ∧
      (s.reforms.sysIdx reg.toNat a idx true = some i → reg = 0x210 ∧ s.reforms.aperDrains p i (r.rx b) = true ∧ 8 ≤ s.invCount ∨
          reg = 0x008 ∧ s.reforms.windowHeld p i = true →
        exec (.syswr h a b reg) s = .next s.reforms.stallCur)) ∧
    (∀ k, s.runs (.syswr h a b reg) = true → (s.thr s.t).inv = some k →
      ((s.tlbinvs[k]?).any (·.live) = true → exec (.syswr h a b reg) s = .next s.reforms.stallCur) ∧
      ((s.tlbinvs[k]?).any (·.live) = false → exec (.syswr h a b reg) s =
        .next ((s.reforms.updThr s.t fun x => { x with inv := none }).goesOn r.broke))) ∧
    (∀ n, s.regEntries p reg.toNat = none → s.sysIdx reg.toNat a n false = none ∧ s.sysIdx reg.toNat a n true = none) ∧
    (∀ n m, s.regEntries p reg.toNat = some n → 1 ≤ n → s.sysIdx reg.toNat a m false = some i → i = m ∧ m < n ∧ a ≠ .zero) ∧
    (∀ n, regReadOnly reg.toNat = true → s.sysIdx reg.toNat a n true = none) ∧
    (∀ x, (s.sysWrite p 0x000 0 x).sysRead p 0x000 0 = x &&& ~~~0xFFF#64 ∧ (s.sysWrite p 0x002 0 x).sysRead p 0x002 0 = x &&& ~~~7#64) ∧
    (∀ x, (s.sysWrite p 0x011 0 x).sysRead p 0x011 0 = if (s.part p).xlock.getLsbD 2 then s.sysRead p 0x011 0 else x &&& 1) ∧
    (∀ x, (s.sysWrite p 0x012 0 x).sysRead p 0x012 0 = if (s.part p).xlock.getLsbD 3 then s.sysRead p 0x012 0 else x &&& 1) ∧
    (∀ x, (s.sysWrite p 0x013 0 x).sysRead p 0x013 0 = (s.sysRead p 0x013 0 ||| x) &&& 0xF)

/-- R349, R351, R357 and R358: PREEMPT stops a running context and registers its object, which advances at once where the context has
stopped; CTXSAVE starts the save of a stopped context whose area is large enough; CTXLOAD of z resumes a stopped context in place, and
of an image that passes the checks starts a load. A context id of more than 16 bits, a context in the wrong state and an area that is
too small are illegal; PREEMPT and CTXSAVE of a context that is not in use do nothing. An image whose cores or rectangle lie outside the
partition is among those that fail (`imageBad`), which is the model's choice (log 82). -/
def Obligations.ContextInstructions : Prop :=
  ∀ (s : State) (t : Nat) (h : Hdr) (a b : Src) (pl : Place) (ps hs : List Place), s.cur = .thread t →
    let r := s.curRegs
    let p := s.curAs.part
    let view := some (s.coreOf t)
    let c := (r.rv a).toNat
    let va := r.rx b
    let s0 := s.reforms
    let done := Host.Outcome.next (s0.goesOn r.broke)
    let illegal := fun (s : State) => Host.Outcome.next (s.raise { cause := .illegalOperand })
    (65536 ≤ c → (s.runs (.preempt h a b) = true → exec (.preempt h a b) s = illegal s0) ∧
      (s.runs (.ctxsave h a b) = true → exec (.ctxsave h a b) s = illegal s0) ∧
      (s.runs (.ctxload h a b) = true → exec (.ctxload h a b) s = illegal s0)) ∧
    (c < 65536 → s0.ctxUsed p c = false →
      (s.runs (.preempt h a b) = true → exec (.preempt h a b) s = done) ∧
      (s.runs (.ctxsave h a b) = true → exec (.ctxsave h a b) s = done)) ∧
    (c < 65536 → s0.ctxUsed p c = true →
      (s.runs (.preempt h a b) = true → s0.ctxPhase p c < 3 ∨ s0.ctxPhase p c = 5 →
        ∃ s' : State, exec (.preempt h a b) s = .next (s'.goesOn r.broke) ∧ s'.threads = s.threads ∧ s'.mem = s.mem ∧
          (s'.part p).ctxs.get c = (let x := (s.part p).ctxs.get c
            { x with phase := if x.phase = 0 then 2 else x.phase, preempted := true, bos := x.bos ++ [(s.curAs.ctx, va)] })) ∧
      (s.runs (.preempt h a b) = true → 3 ≤ s0.ctxPhase p c → s0.ctxPhase p c ≠ 5 →
        let marked := s0.updCtx p c fun x => { x with preempted := true }
        let adv := marked.boAdvance none ⟨p, s.curAs.ctx, true, none⟩ va 1
        (∀ pl, adv.2 = .ok pl → exec (.preempt h a b) s = .next (adv.1.goesOn r.broke)) ∧
        (∀ w, adv.2 = .wait w → exec (.preempt h a b) s =
          .next (State.goesOn (adv.1.updCtx p c fun x => { x with bos := x.bos ++ [(s.curAs.ctx, va)] }) r.broke)) ∧
        (∀ i, adv.2 = .trap i → exec (.preempt h a b) s = .next ((adv.1.orphanRec p c false i).goesOn r.broke))) ∧
      (s.runs (.ctxsave h a b) = true → s0.ctxState p c ≠ 3 → exec (.ctxsave h a b) s = illegal s0) ∧
      (s.runs (.ctxsave h a b) = true → s0.ctxState p c = 3 → va.toNat % 4096 ≠ 0 →
        exec (.ctxsave h a b) s = .next (s0.raise (accTrap .misaligned .store va))) ∧
      (s.runs (.ctxsave h a b) = true → s0.ctxState p c = 3 → va.toNat % 4096 = 0 →
        let head := s0.resolve s.curAs view va 64 .load
        head.2 = .ok pl →
        let read := head.1.demandPlace pl
        let size := nbits (leNat (read.fetchPlace view pl)) 64 64
        let area := read.resolveRange s.curAs view va (read.ctxSize p c) .store
        (size < read.ctxSize p c → exec (.ctxsave h a b) s = illegal read) ∧
        (read.ctxSize p c ≤ size → area.2 = .ok ps →
          exec (.ctxsave h a b) s =
            .next (State.goesOn (area.1.updCtx p c fun x => { x with phase := 4, area := va, areaCtx := s.curAs.ctx }) r.broke)))) ∧
    (c < 65536 → b = .zero → s.runs (.ctxload h a b) = true →
      (s0.ctxState p c ≠ 3 → exec (.ctxload h a b) s = illegal s0) ∧
      (s0.ctxState p c = 3 → exec (.ctxload h a b) s =
        .next (((s0.updCtx p c fun x => { x with phase := 0, preempted := false }).wake).goesOn r.broke))) ∧
    (c < 65536 → b ≠ .zero → s.runs (.ctxload h a b) = true →
      let head := s0.resolveRange s.curAs view va 64 .load
      head.2 = .ok hs →
      let first := head.1.demandAll hs
      let used := max 64 (imgNat (first.fetchAll view hs) 0x18 8)
      let area := first.resolveRange s.curAs view va used .load
      area.2 = .ok ps →
      let whole := area.1.demandAll ps
      let image := (whole.fetchAll view ps).take used
      ((imgNat image 0 2 ≠ 0xC7A5 ∨ imgNat image 2 1 ≠ 1 ∨ imgNat image 4 2 ≠ c) → exec (.ctxload h a b) s = illegal whole) ∧
      (imgNat image 0 2 = 0xC7A5 → imgNat image 2 1 = 1 → imgNat image 4 2 = c →
        (∀ x, imageBad (s.part p) image = some x →
          exec (.ctxload h a b) s = .next (whole.raise { cause := .illegalOperand, addr := BitVec.ofNat 64 x })) ∧
        (imageBad (s.part p) image = none →
          ((c = 0xFFFF ∨ whole.ctxState p c ≠ 0) → exec (.ctxload h a b) s = illegal whole) ∧
          (c ≠ 0xFFFF → whole.ctxState p c = 0 →
            exec (.ctxload h a b) s = .next (State.updThr (whole.updCtx p c fun x =>
              { x with phase := 5, area := va, areaCtx := s.curAs.ctx, image := image, thread := some t }) t
              fun x => { x with st := .fetchSuspended (.image c) })))))

/-- R360 and R361: WGKILL of a target whose spare fields are zero kills what its scope names and goes on, and waits while the context is
being saved; each workgroup it names ends, with its threads. HALT stops every context of the partition, one that is loading once it is
restored, stops its distribution and leaves its code for the housekeeping controller. -/
def Obligations.KillAndHalt : Prop :=
  ∀ (s : State) (t w u : Nat) (h : Hdr) (a : Src) (scope : KillScope) (code : BitVec 8), s.cur = .thread t →
    let r := s.curRegs
    let p := s.curAs.part
    let x := r.rx a
    let spare := match scope with
      | .wg => bits x 57 7
      | .launch => bits x 32 32
      | .ctx => bits x 16 48
    let phase := s.reforms.ctxPhase p (bits x 0 16)
    let g := s.wg w
    let named := g.launch ∈ s.ctxLaunches p (bits x 0 16) ∧ (scope = .ctx ∨ (s.launch g.launch).lnum = bits x 16 16) ∧
      (scope = .wg → g.wx = bits x 32 5 ∧ g.wy = bits x 37 4 ∧ g.wz = bits x 41 16)
    (s.runs (.wgkill h a scope) = true →
      (spare ≠ 0 → exec (.wgkill h a scope) s = .next (s.reforms.raise { cause := .illegalOperand })) ∧
      (spare = 0 → phase = 4 → exec (.wgkill h a scope) s = .next s.reforms.stallCur) ∧
      (spare = 0 → phase ≠ 4 →
        let k := s.reforms.kill p x scope
        exec (.wgkill h a scope) s = .next (k.goesOn (k.thr t).r.broke) ∧
        (w < s.wgs.length → g.present = true → named → (k.wg w).stage = .killed ∧
          (u ∈ s.wgThreads w → u < s.threads.length → (k.thr u).st = .exited)))) ∧
    (s.runs (.halt h code) = true →
      ∃ s' : State, exec (.halt h code) s = .next (s'.goesOn r.broke) ∧ (s'.part p).halted = true ∧ (s'.part p).haltCode = code ∧
        (∃ more, s'.hk.halts = s.hk.halts ++ (p, code.toNat) :: more) ∧ s'.mem = s.mem ∧ s'.threads = s.threads ∧
        (∀ l ∈ s.launches, l.part = p → l.present = true → s.ctxPhase p l.ctx ≠ 1 → 2 ≤ s'.ctxPhase p l.ctx) ∧
        ∀ c, s.ctxPhase p c = 5 → ((s'.part p).ctxs.get c).preempted = true)

/-- R362, R387 to R389, R392 and R395: TLBINV removes the cached leaves it names, takes a new generation and waits for it; LEASE grants or
releases a range and says whether it did; PGMIG copies the page and waits for its switch; TKPOST answers the tickets it names.
Descriptors that break their rules are illegal. -/
def Obligations.TranslationInstructions : Prop :=
  ∀ (s : State) (t : Nat) (h : Hdr) (a b : Src) (mode : TlbMode) (rel abort : Bool) (pas : List Nat) (wv : Bool) (e : DWord)
    (slot lvl : Nat), s.cur = .thread t →
    let r := s.curRegs
    let p := s.curAs.part
    let s0 := s.reforms
    let pl : Place := .mem pas wv
    let illegal := fun (s : State) => Host.Outcome.next (s.raise { cause := .illegalOperand })
    let found := fun (n : Nat) => s0.check s.curAs (some (s.coreOf t)) (r.rx a) n .load
    let desc := fun (s1 : State) => leNat (s1.fetchPlace (some (s.coreOf t)) pl)
    let yields := fun (s : State) (x : Bool) => Host.Outcome.next (s.goesOn (r.setP (h.d.setWidth 4) x).broke)
    let suspended := fun (s : State) (w : Wait) => Host.Outcome.next (State.updThr s t fun y => { y with st := .fetchSuspended w })
    (s.runs (.tlbinv h a b mode) = true → (s.thr t).inv = none →
      let x := if mode = .all then 0 else r.rx b
      let pages := if mode = .range then (if bits x 16 32 = 0 then 2 ^ 32 else bits x 16 32) else 1
      (bits x 48 16 ≠ 0 ∨ mode ≠ .range ∧ bits x 16 32 ≠ 0 → exec (.tlbinv h a b mode) s = illegal s0) ∧
      (bits x 48 16 = 0 → (mode ≠ .range → bits x 16 32 = 0) → (mode = .page ∨ mode = .range → canonical (r.rx a) = true) →
        (mode ≠ .all → s0.ctxNamed p (bits x 0 16) = false → exec (.tlbinv h a b mode) s = .next (s0.goesOn r.broke)) ∧
        ((mode = .all ∨ s0.ctxNamed p (bits x 0 16) = true) → s0.invCount < 8 →
          exec (.tlbinv h a b mode) s = .next (State.updThr (s0.dropTlb p (bits x 0 16) mode (va57 (r.rx a) / 4096 * 4096)
              (4096 * pages + (if mode = .range then va57 (r.rx a) % 4096 else 0))).startInv t
            fun y => { y with inv := some s.tlbinvs.length }).stallCur) ∧
        ((mode = .all ∨ s0.ctxNamed p (bits x 0 16) = true) → 8 ≤ s0.invCount → exec (.tlbinv h a b mode) s = .next s0.stallCur))) ∧
    (∀ k, s.runs (.tlbinv h a b mode) = true → (s.thr t).inv = some k →
      ((s.tlbinvs[k]?).any (·.live) = true → exec (.tlbinv h a b mode) s = .next s0.stallCur) ∧
      ((s.tlbinvs[k]?).any (·.live) = false → exec (.tlbinv h a b mode) s =
        .next ((s0.updThr t fun y => { y with inv := none }).goesOn r.broke))) ∧
    (s.runs (.lease h a rel) = true → (found 32).2 = .ok pl →
      let s1 := (found 32).1.demandPlace pl
      let n := desc s1
      let base : DWord := BitVec.ofNat 64 n
      let len : DWord := BitVec.ofNat 64 (n / 2 ^ 64)
      let c := nbits n 128 16
      (base.toNat % 4096 ≠ 0 ∨ len.toNat % 4096 ≠ 0 ∨ len.toNat < 4096 ∨ nbits n 144 112 ≠ 0 → exec (.lease h a rel) s = illegal s1) ∧
      (base.toNat % 4096 = 0 → len.toNat % 4096 = 0 → 4096 ≤ len.toNat → nbits n 144 112 = 0 →
        (s1.ctxNamed p c = false → exec (.lease h a rel) s = yields s1 false) ∧
        (s1.ctxNamed p c = true → rel = false →
          exec (.lease h a rel) s =
            yields ((s1.grantLease p none c true base len).1.retryLeases p) (s1.grantLease p none c true base len).2) ∧
        (s1.ctxNamed p c = true → rel = true → ∃ s' x, exec (.lease h a rel) s = yields s' x ∧
          (x = true ↔ ∃ l ∈ (s1.part p).leases, l.launch = none ∧ l.ctx = c ∧ l.base = base ∧ l.len = len) ∧
          (x = true → (s'.part p).leases.length + 1 = (s1.part p).leases.length) ∧
          (x = false → (s'.part p).leases = (s1.part p).leases) ∧ s'.mem = s1.mem))) ∧
    (s.runs (.pgmig h a) = true → (found 32).2 = .ok pl →
      let s1 := (found 32).1.demandPlace pl
      let n := desc s1
      let base : DWord := BitVec.ofNat 64 n
      let c := nbits n 128 16
      let root := s1.rootOf ⟨p, c, true, none⟩ base
      let dst := nbits n 64 64
      let top := bits root 12 40 * 4096
      let s2 := if s1.arrayErr = [] then s1 else s1.walkDemand top (va57 base) [4, 3, 2, 1, 0]
      let size := 2 ^ leafBits e lvl
      let first := slot / (8 * 2 ^ sizeCode e lvl) * (8 * 2 ^ sizeCode e lvl)
      (nbits n 144 112 ≠ 0 → exec (.pgmig h a) s = illegal s1) ∧
      (nbits n 144 112 = 0 → s1.ctxNamed p c = false → exec (.pgmig h a) s = yields s1 false) ∧
      (nbits n 144 112 = 0 → s1.ctxNamed p c = true → canonical base = true → root.getLsbD 0 = true →
        s2.walk top (va57 base) [4, 3, 2, 1, 0] = some (e, slot, lvl) → e.getLsbD 10 = false →
        e.getLsbD 9 = false → e.getLsbD 52 = false → e.getLsbD 11 = true → size ≤ 2 ^ 21 → paIsPackage dst = true → dst % size = 0 →
        s2.meetsPark dst size = false → (∀ m ∈ s.migs, m.live = true → m.slot ≠ first) → (s.migs.filter (·.live)).length < 16 →
        s2.migAhead t = false → s2.demandBlocked dst size = none →
        ∃ m s', exec (.pgmig h a) s = suspended s' (.pgmig s.migs.length) ∧ s'.migs = s.migs ++ [m] ∧ m.live = true ∧
          m.thread = some t ∧ m.old = leafFrame e lvl ∧ m.dst = dst ∧ m.size = size ∧ m.slot = first ∧ m.switching = false ∧
          m.v0 = (List.range (size / 4096)).map fun i => s2.wvc.get (wvcKey (m.old + 4096 * i)))) ∧
    (s.runs (.tkpost h a abort) = true → (found 16).2 = .ok pl →
      let s1 := (found 16).1.demandPlace pl
      let n := desc s1
      let va := nbits n 0 64
      let c := nbits n 64 16
      let lg := nbits n 80 8
      let hit := s1.tickets.filter fun k => k.part == p && k.ctx == c && k.mig.isNone && va ≤ k.va.toNat && k.va.toNat < va + 2 ^ lg
      (lg < 12 ∨ 32 < lg ∨ va % 2 ^ lg ≠ 0 ∨ nbits n 88 40 ≠ 0 → exec (.tkpost h a abort) s = illegal s1) ∧
      (12 ≤ lg → lg ≤ 32 → va % 2 ^ lg = 0 → nbits n 88 40 = 0 → exec (.tkpost h a abort) s =
        .next ((if s1.ctxNamed p c then hit.foldl (fun s k => s.answerTicket k abort) s1 else s1).goesOn r.broke)))

/-- R28 to R31, R97, R211, R234, R249, R251, R336, R338, R347, R349, R387, R392, R393 and R396: the events of threads, queues and contexts.
Bundles re-form on every eighth cycle and become urgent; TIMER fires; a waiting thread ends its wait, or traps at its promise; a pending
cause is delivered, not in the cycle in which it was detected; a record is written to its queue; a load writes its registers; a
suspended check is made again; a posted write is performed; an invalidation ends; a migration's switch begins and ends. -/
def Obligations.ThreadEvents : Prop :=
  ∀ (s : State) (t n core quad : Nat) (d : BitVec 11) (ea target dl x w W : DWord) (sc : Scope) (od : Option DWord) (e : Bool)
    (b : Bundle) (a : AsyncTrap) (rest : List AsyncTrap) (q : TrapRec) (v : SvcRec) (vs : List SvcRec) (l : LoadFly) (pw : PostedW)
    (inv : TlbInv) (m : Migration) (k : Nat),
    let mine := fun (y : Bundle) => y.core == core && y.quad == quad
    let pc := (s.thr t).r.pc
    let goes := fun (s : State) (t : Nat) (r : Regs) => State.updThr s t fun x => { x with r := r.broke, st := .ready, passed := false, readyAt := s.cyc.toNat }
    (exec (.periodicReform core quad) s = .next s ∨ s.cyc.toNat % 8 = 0) ∧
    (s.cyc.toNat % 8 = 0 → ∃ bs : List Bundle, exec (.periodicReform core quad) s = .next { s with bundles := bs } ∧
      bs.filter (fun y => !mine y) = s.bundles.filter (fun y => !mine y) ∧
      ∀ y ∈ bs, mine y = true → ∀ u ∈ y.threads, s.mayIssue u = true) ∧
    ((s.bundles.filter mine)[n]? = some b → 32 ≤ s.bundleWait b → exec (.bundleUrgent core quad n) s =
      .next { s with bundles := s.bundles.map fun y => if y = b then { y with urgent := true } else y }) ∧
    (s.crewRuns k = true → (s.crew k).timer = false → (s.crew k).vtcmp.toNat ≤ (s.crew k).vtim.toNat → s.live k ≠ [] →
      ∃ s', exec (.timer k) s = .next s' ∧ (s'.crew k).timer = true ∧ (s'.crew k).vtcmp = 0xFFFFFFFFFFFFFFFF ∧ s'.threads = s.threads) ∧
    (s.resident t = true → s.requests (s.coreOf t) < 2048 → (s.thr t).st = .waiting (.waitge ea target od sc d) →
      let s1 := (s.waitRead (s.asOf t) (s.coreOf t) ea).1
      let ends := fun (b : Bool) => goes s1 t ((s1.thr t).r.setP (d.setWidth 4) b)
      ((s.waitRead (s.asOf t) (s.coreOf t) ea).2 = .ok x →
        exec (.waitgeReread t) s = .next (if target.toNat ≤ x.toNat then ends true else s1) ∧
        (od = some dl → dl.toNat ≤ s.cyc.toNat → exec (.waitgeDeadline t) s = .next (if target.toNat ≤ x.toNat then ends true else ends false))) ∧
      (∀ wt, (s.waitRead (s.asOf t) (s.coreOf t) ea).2 = .wait wt →
        exec (.waitgeReread t) s = .next s1 ∧ exec (.waitgeDeadline t) s = .next (if od.any fun d => decide (d.toNat ≤ s.cyc.toNat) then s1 else s))) ∧
    (s.resident t = true → (s.thr t).st = .waiting (.sleep dl) → dl.toNat ≤ s.cyc.toNat →
      exec (.sleepuntilDeadline t) s = .next (goes s t (s.thr t).r)) ∧
    (s.resident t = true → (s.thr t).st = .waiting (.pwait w W e) → promiseDue s.cyc W = true → exec (.promiseMissed t) s =
      .next (if s.outstanding (s.crewOf t) (bits w 61 3) (bits w 48 13) then s.stopThread t 0 { cause := .promiseMissed, addr := w } pc pc
        else goes s t (s.thr t).r)) ∧
    (s.mayIssue t = true → (s.thr t).async = a :: rest →
      (a.cyc ≠ s.cyc.toNat → exec (.asyncTrapDelivery t) s =
        .next ((s.updThr t fun x => { x with async := rest }).stopThread t 1 a.info pc a.opc)) ∧
      (a.cyc = s.cyc.toNat → exec (.asyncTrapDelivery t) s = .next s)) ∧
    (((s.core core).slots.get n).held = some q → ((s.core core).slots.get n).written = false → (s.part q.part).tqEn = true →
      s.recFirst core n q = true →
      let p := s.part q.part
      let bytes := q.bytes (handleOf core n ((s.core core).slots.get n).gen)
      let s1 := (s.queueWrite q.part p.tqBase p.tqPbo p.tqCbo p.tqLgn 64 bytes).1
      (s.queueWrite q.part p.tqBase p.tqPbo p.tqCbo p.tqLgn 64 bytes).2 = true →
      ∃ s', exec (.trapRecordWrite core n) s = .next s' ∧ ((s'.core core).slots.get n).written = true ∧ s'.mem = s1.mem ∧
        s'.threads = s1.threads) ∧
    ((s.part n).svc = v :: vs → (s.part n).svqEn = true →
      let p := s.part n
      let s1 := (s.queueWrite n p.svqBase p.svqPbo p.svqCbo p.svqLgn 32 (fun _ => v.bytes)).1
      (s.queueWrite n p.svqBase p.svqPbo p.svqCbo p.svqLgn 32 (fun _ => v.bytes)).2 = true →
      ∃ s', exec (.serviceRecordWrite n) s = .next s' ∧ (s'.part n).svc = vs ∧ s'.mem = s1.mem ∧ s'.threads = s1.threads) ∧
    (s.loads[n]? = some l → l.walker = none → s.hasExited l.thread = false →
      let s0 := ({ s with loads := s.loads.eraseIdx n } : State)
      let s1 := s0.updThr l.thread fun y => { y with r := y.r.setVals l.d l.vals }
      (l.poison = none → exec (.dataReturn n) s = .next (
        if s.eligibleNow l.thread = false ∧ s1.eligibleNow l.thread = true then s1.updThr l.thread fun y => { y with readyAt := s.cyc.toNat }
        else s1)) ∧
      (∀ va, l.poison = some va →
        let cause : TrapInfo := { cause := .poison, addr := va, aux := BitVec.ofNat 64 l.d }
        exec (.dataReturn n) s = .next (s0.updThr l.thread fun y => { y with async := y.async ++ [⟨cause, l.pc, s.cyc.toNat⟩] }))) ∧
    (∀ wt, s.resident t = true → (s.thr t).st = .fetchSuspended wt → s.checkFree wt = true →
      exec (.translationCheckDone t) s = .next (s.updThr t fun y => { y with st := .ready, readyAt := s.cyc.toNat })) ∧
    (s.posted[n]? = some pw → s.postedReady n = true →
      (s.demandBlocked pw.pa pw.bytes.length = none →
        exec (.writePerformed n) s = .next (({ s with posted := s.posted.eraseIdx n } : State).perform pw.pa pw.bytes pw.wv)) ∧
      (∀ g line, s.demandBlocked pw.pa pw.bytes.length = some (g, line) → exec (.writePerformed n) s = .next (s.wbRequest g line))) ∧
    (s.tlbinvs[n]? = some inv → inv.live = true →
      (∀ y ∈ s.posted, (inv.gen - y.gen).toNat = 0 ∨ 8 < (inv.gen - y.gen).toNat) →
      exec (.invalidationAcknowledged n) s = .next { s with tlbinvs := s.tlbinvs.modify n fun y => { y with live := false } }) ∧
    (s.migs[n]? = some m → m.live = true →
      (m.switching = false → exec (.migrationSwitchEnd n) s =
        .next { s with migs := s.migs.modify n fun y => { y with switching := true } }) ∧
      (m.switching = true →
        let given := ((s.flushPage m.old m.size).giveUpPage m.old (m.size / 64)).1
        let slots := fun (s : State) => 8 * 2 ^ sizeCode (s.readPhys8 m.slot) m.lvl
        let s1 := given.demandRange m.slot (slots given)
        ((s.flushPage m.old m.size).giveUpPage m.old (m.size / 64)).2 = true → s1.demandBlocked m.slot (slots s1) = none →
        (∀ y ∈ s1.posted, m.old + m.size ≤ y.pa ∨ y.pa + y.bytes.length ≤ m.old) →
        exec (.migrationSwitchEnd n) s = .next (
          if s1.unitCounts m.old m.size = m.v0 then (s1.commitSwitch m).endSwitch n m true
          else (s1.freePage m.dst m.size).endSwitch n m false)))

/-- R31, R349, R351, R352, R357 and R358: a context that is stopping stops once its cores have finished; a save ends with the image in its
area, the context's resources free and its object advanced; a restoration ends with the context's state as in the image, and stops at
once where a PREEMPT or HALT came while it was loaded. That a restoration waits while it would bring the launches in states 1 and 2
beyond 1,024 is the model's reading of R368 (log 89). -/
def Obligations.ContextEvents : Prop :=
  ∀ (s : State) (p : Nat) (ctx : BitVec 16),
    let c := ctx.toNat
    let x := (s.part p).ctxs.get c
    let quit := fun (y : CtxRun) => { y with phase := 0, preempted := false }
    (s.ctxPhase p c = 2 → s.ctxQuiet p c = true →
      let s0 := s.updCtx p c fun y => if s.ctxLaunches p c = [] then quit y else { y with phase := 3 }
      exec (.contextStopped p ctx) s =
        .next (x.bos.foldl (fun s b => s.advanceOr p c b.1 b.2) (s0.updCtx p c fun y => { y with bos := [] }))) ∧
    (s.ctxPhase p c = 2 → s.ctxQuiet p c = false → exec (.contextStopped p ctx) s = .next s) ∧
    (∀ s2 bo, s.ctxPhase p c = 4 → s.ctxQuiet p c = true → (s.releaseWgs (s.imageWgs p c)).2 = true →
      (s.releaseWgs (s.imageWgs p c)).1.writeImage p c = .ok (s2, bo) →
      exec (.ctxsaveComplete p ctx) s = .next (((s2.ctxFree p c).updCtx p c quit).advanceOr p c ((s2.part p).ctxs.get c).areaCtx bo)) ∧
    (s.ctxPhase p c = 5 → 1024 < s.launchCount + (imgLaunches x.image).length → exec (.ctxloadRestore p ctx) s = .next s) ∧
    (∀ s1, s.ctxPhase p c = 5 → s.restore p c x.image = some s1 →
      let done := ((s1.updCtx p c fun y => { y with phase := if y.preempted then 2 else 0, image := [], thread := none }).wake).advanceOr p c x.areaCtx
        (BitVec.ofNat 64 (imgNat x.image 0x10 8))
      (x.thread = none → exec (.ctxloadRestore p ctx) s = .next done) ∧
      (∀ t, x.thread = some t → (done.thr t).st = .fetchSuspended (.image c) → exec (.ctxloadRestore p ctx) s = .next (done.updThr t fun y =>
        { y with r := y.r.broke, st := .ready, passed := false, readyAt := done.cyc.toNat })))

/-- R22, R25, R39 to R43, R48, R53, R359 and R363 to R373: a record is taken, checked and rejected or accepted; a launch whose dependences
are met leaves state 1, and completes when its last workgroup is over; a workgroup is distributed, activated with its threads at the
entry, parked, exited or stolen; a core's carve closes and changes. The model's choices here: of several carves that wait an emptied
core takes that of the launch that asked first (log 59); a parked workgroup waits for its reactivation from its first thread that became
ready (log 88). -/
def Obligations.LaunchEvents : Prop :=
  ∀ (s : State) (p q l w v core c code since : Nat) (asks : List (Nat × Nat)),
    let x := s.launch l
    let g := s.wg w
    let met := (s.depsMet l).2
    let tested := (s.depsMet l).1
    let leave := fun (y : Launch) => { y with state := 2, leftAt := tested.cyc.toNat }
    let lacks := ∃ u ∈ s.admittedAt core, s.wantsPlace u = true ∧ s.stashPlace u = none
    let inPlace := leastBy (fun v => (s.wg v).since) (s.parkedInPlace core)
    let lq := (s.part p).lqs.get q
    (let s0 := (if q < 64 && lq.en then s.demandRange lq.base.toNat 24 else s).publishWaiting p
     let n := s0.launches.length
     let s1 := ((s0.takeRecord p q).leaseList n).1
     let bad := firstBad ((s1.launch n).checks (s1.part p) ((s1.part p).lqs.get q).sup ((s0.takeRecord p q).leaseList n).2)
     s0.recordReady p q = true →
      (∀ s2, bad = some code → s1.endLaunch n 4 code = .ok s2 → exec (.launchRecordTake p q) s = .next s2) ∧
      (∀ s2, bad = none → s1.enter n (fun y => { y with state := 1 }) = .ok s2 →
        exec (.launchRecordTake p q) s = .next s2 ∧ (s2.launch n).state = 1 ∧ (s2.launch n).lnum = (s0.part p).lnext.toNat)) ∧
    (s.mayLeave l = true → x.leaseWait = false →
      (met = false → exec (.dependenceRetest l) s = .next tested) ∧
      (∀ s2, met = true → (tested.launch l).nlease = 0 → tested.enter l leave = .ok s2 → exec (.dependenceRetest l) s = .next s2)) ∧
    (s.mayLeave l = true → x.leaseWait = true → (x.lastTry = 0 ∨ 2 ^ 20 ≤ s.cyc.toNat - x.lastTry) →
      (met = false → exec (.leaseRetry l) s = .next tested) ∧
      (∀ s2, met = true → tested.tryLeave l = .ok s2 → exec (.leaseRetry l) s = .next s2)) ∧
    (∀ s1, l < s.launches.length → x.state = 1 ∨ x.state = 2 → s.launchOver l = true →
      s.endLaunch l (if x.killed || x.leaseFatal then 5 else 3) 0 = .ok s1 →
      ∃ s', exec (.launchComplete l) s = .next s' ∧ s'.mem = s1.mem ∧ s'.launches = s1.launches ∧
        (s1.ctxLaunches x.part x.ctx ≠ [] → s' = s1) ∧ (s1.ctxLaunches x.part x.ctx = [] → s'.ctxPhase x.part x.ctx ≠ 3)) ∧
    (s.distributes l = true → s.servedNow l = true → ((s.place l).carveAsk l).nextAdmit l = some c →
      let s1 := (s.place l).carveAsk l
      let x := s1.launch l
      ∃ (s' : State) (y : Wg), exec (.workgroupDistribution l) s = .next s' ∧ s'.wgs = s1.wgs ++ [y] ∧ y.launch = l ∧
        y.wx = nbits c 0 5 ∧ y.wy = nbits c 5 4 ∧ y.wz = nbits c 9 16 ∧ y.core = 32 * (x.oy + y.wy) + x.ox + y.wx ∧
        y.stage = .admitted ∧ y.started = false ∧ y.ncrew = x.ncrew ∧ s'.threads = s.threads ∧ s'.mem = s.mem) ∧
    (s.nextActive core = some w → w < s.wgs.length → g.started = false →
      let n := s.threads.length
      let m := s.crews.length
      ∃ s', exec (.workgroupActivation core) s = .next s' ∧ (s'.wg w).stage = .active ∧ (s'.wg w).started = true ∧
        s'.threads.length = n + 32 * g.ncrew ∧ (∀ i < n, s'.thr i = s.thr i) ∧
        (∀ i < 32 * g.ncrew, let y := s'.thr (n + i)
          y.st = .ready ∧ y.r.pc = (s.launch g.launch).entry ∧ y.num = i % 32 ∧ y.crew = m + i / 32 ∧ (∀ k, y.r.v.get k = 0) ∧ y.r.p = 0 ∧
          y.r.k = 0 ∧ y.r.written = 0) ∧
        (∀ j < g.ncrew, let z := s'.crew (m + j)
          z.num = j ∧ z.base = n + 32 * j ∧ z.leader = none ∧ z.s.get 0 = (s.launch g.launch).args ∧ (∀ k, k ≠ 0 → z.s.get k = 0) ∧
          z.gangReg = 0 ∧ z.members = [] ∧ z.outst = [] ∧ z.vtim = 0 ∧ z.vtcmp = 0xFFFFFFFFFFFFFFFF)) ∧
    (s.nextActive core = some w → w < s.wgs.length → g.started = true →
      ∃ s', exec (.workgroupActivation core) s = .next s' ∧ (s'.wg w).stage = .active ∧ s'.crews = s.crews ∧
        ∀ i, (s'.thr i).r = (s.thr i).r ∧ (s'.thr i).st = (s.thr i).st) ∧
    (w ∈ s.candidates core → s.fits w = false → (s.stashPlace w).isSome = true ∨ ¬lacks ∨ inPlace = none →
        (¬lacks ∨ inPlace = none ∨ ∃ u, inPlace = some u ∧ s.stashBusy u [(0, s.stashSize u)] = true) →
        leastBy s.blockedSince (s.eligibleAt core) = some v →
      exec (.workgroupPark core) s = .next (s.updWg v fun y => { y with stage := .parked, since := s.cyc.toNat, stopping := false })) ∧
    (lacks → inPlace = some v → s.stashBusy v [(0, s.stashSize v)] = false → (s.releaseLines v (s.wg v).filled).2 = true →
      exec (.workgroupPark core) s = .next ((s.releaseLines v (s.wg v).filled).1.updWg v fun y => { y with splaced := false })) ∧
    (s.forceFor core = some w → s.eligibleAt core = [] →
      (s.victimFor w = none → exec (.forcedPark core) s = .next ((s.stopOnly core none).updWg w fun y => { y with tested := s.cyc.toNat })) ∧
      (s.victimFor w = some v → s.regsHeld v = true → ∃ s', exec (.forcedPark core) s = .next s' ∧ (s'.wg v).stopping = true ∧
        s'.threads = s.threads ∧ s'.mem = s.mem ∧ ∀ t ∈ s.wgThreads v, s.wgOf t = v → s'.mayIssue t = false) ∧
      (s.victimFor w = some v → s.regsHeld v = false → (s.stashPlace w).isSome = true → exec (.forcedPark core) s =
        .next (((s.stopOnly core none).updWg v fun y => { y with stage := .parked, since := s.cyc.toNat, stopping := false }).updWg w
          fun y => { y with forced := true }))) ∧
    (w < s.wgs.length → s.waitsPlace w = true → 65536 ≤ s.cyc.toNat - s.waitsSince w → s.fits w = false →
      exec (.activationBlock w) s = .next (s.updWg w fun y => { y with blocks := true })) ∧
    (s.admittedAt core ≠ [] → (l, since) ∈ s.carveWaits core → 2 ^ 20 ≤ s.cyc.toNat - since →
      ∃ s', exec (.carveWaitExpiry core) s = .next s' ∧ s'.carveClosed core = true ∧
        s' = s.updCore core fun y => { y with closed := ((s.carveWaits core).filter fun e => decide (2 ^ 20 ≤ s.cyc.toNat - e.2)).map (·.1) }) ∧
    (s.carveWaits core = (l, since) :: asks → s.admittedAt core = [] → s.carveTaken core = false →
      exec (.carveChange core) s = .next ((s.setCarve x core).updCore core fun y =>
        { y with taken := some l })) ∧
    (w < s.wgs.length → g.started = true → g.stage = .active ∨ g.stage = .parked → (∀ t ∈ s.wgThreads w, s.hasExited t = true) →
      s.exitWaits w = false → s.ctxPhase (s.asOfWg w).part (s.asOfWg w).ctx ≠ 4 → (s.releaseLines w g.filled).2 = true →
      exec (.workgroupExit w) s = .next (((s.releaseLines w g.filled).1.freeWg w).tryTilebar w)) ∧
    (w < s.wgs.length → g.stage = .admitted → g.started = false → (s.launch g.launch).steal = true → s.distributes g.launch = true →
      s.idleCore core = true → (s.launch g.launch).covers core = true → g.core ≠ core → (s.launch g.launch).stealMates g.core core = true →
      s.admits (s.launch g.launch) core = true → (∀ y ∈ s.unstartedAt g.launch g.core, (s.wg y).wz ≤ g.wz) →
      (∀ k < 512, k ≠ core → (s.launch g.launch).covers k = true → (s.launch g.launch).stealMates k core = true →
        (s.unstartedAt g.launch k).length ≤ (s.unstartedAt g.launch g.core).length) →
      ∃ (s' : State), exec (.workgroupSteal w core) s = .next s' ∧ (s'.wg w).core = core ∧ (s'.wg w).stage = .admitted ∧
        s'.threads = s.threads ∧ s'.mem = s.mem ∧ ∀ y, y ≠ w → s'.wg y = s.wg y)

/-- R44, R53, R56, R58, R105, R111, R271, R272, R278 to R281, R289, R295 and R377: the events of engines and arrays. An operation starts,
runs to its end, with the increment after its writes and the count last, is held at its resume point, or fails, at once or when its
stream's writes are performed; a tile is latched; a joint operation is posted, granted in the arbiter's order, and completed with its
update of the tarn; drained rows are written; banks clear; a queued operation is stolen; a registration is evicted. -/
def Obligations.EngineEvents : Prop :=
  ∀ (s : State) (n k tile cl core base : Nat) (o : EngOp) (t : Tile) (j : Joint) (al : TAlloc) (wl : Nat × Nat),
    (s.ops[n]? = some o → isClass9 o.instr = true →
      (o.live = true → o.phase = .queued → s.streamBusy (s.opWg o) o.stream o.order = false → s.bookBusy o = false →
        s.ctxPhase (s.partOf o.thread) (s.ctxOf o.thread) = 0 → s.requests o.icore < 2048 →
        (o.par.mcast = true → s.mcastReady (s.opWg o) = true) →
        exec (.engineOperationStart n) s = .next (s.updOp n fun x => { x with phase := .started })) ∧
      (s.opRuns o = true →
        (∀ s1 k, s.opRun o = (.ok s1 (), k) →
          (o.stream = 0 → o.bo = none → exec (.engineOperationComplete n) s = .next (s1.opLeave n o)) ∧
          (∀ bo, o.bo = some bo → (if o.stream = 0 ∧ scopeWide o.scope = false then none else (s1.opSettle o).postBlocked o.icore) = none →
            ((s1.opSettle o).boAdvance (some o.icore) ((s1.opSettle o).opAs o) bo o.inc).2 = .ok () →
            exec (.engineOperationComplete n) s =
              .next (((s1.opSettle o).boAdvance (some o.icore) ((s1.opSettle o).opAs o) bo o.inc).1.opLeave n o)) ∧
          (∀ s2, s1.opFinish n o = .ok s2 () → exec (.engineOperationComplete n) s = .next s2) ∧
          (∀ s2 i, s1.opFinish n o = .fail s2 i → exec (.engineOperationComplete n) s = .next (s2.opFail n o o.size i)) ∧
          (∀ s2 i, s1.opFinish n o = .hold s2 i → exec (.engineOperationHeld n) s = .next (s2.opHold n o k i)) ∧
          (∀ s2, s1.opFinish n o = .busy s2 → exec (.engineOperationHeld n) s = .next (s2.updOp n fun x => { x with prog := k }))) ∧
        (∀ s1 i k, s.opRun o = (.fail s1 i, k) → exec (.engineOperationComplete n) s = .next (s1.opFail n o k i)) ∧
        (∀ s1 i k, s.opRun o = (.hold s1 i, k) → exec (.engineOperationHeld n) s = .next (s1.opHold n o k i) ∧
          (n < s1.ops.length → ∃ x : EngOp, (s1.opHold n o k i).ops[n]? = some x ∧ x.phase = .held i ∧ x.prog = k)) ∧
        (∀ s1 k, s.opRun o = (.busy s1, k) → exec (.engineOperationHeld n) s = .next (s1.updOp n fun x => { x with prog := k }))) ∧
      (∀ i, o.live = true → o.phase = .failing i → exec (.engineOperationComplete n) s = .next (s.opEnd n o o.prog i))) ∧
    (s.ops[n]? = some o → o.live = true → o.phase = .queued → o.engine ≤ 1 → core ≠ o.core → core < 512 → clusterId core = clusterId o.core →
      s.engQueue core o.engine = 0 → o.stream = 0 →
      exec (.engineOperationSteal n core) s = .next (s.updOp n fun x => { x with core := core })) ∧
    (s.ops[n]? = some o → s.drainReady o = true → isClass9 o.instr = false →
      (∀ s1 k, s.drainRun o 1537 o.prog = (.ok s1 (), k) → exec (.tdrainComplete n) s = .next (s1.opLeave n o)) ∧
      (∀ s1 i k, s.drainRun o 1537 o.prog = (.fail s1 i, k) → exec (.tdrainComplete n) s = .next (s1.drainFail n o k i)) ∧
      (∀ s1 i k, s.drainRun o 1537 o.prog = (.hold s1 i, k) → exec (.engineOperationHeld n) s = .next (s1.opHold n o k i)) ∧
      (∀ s1 k, s.drainRun o 1537 o.prog = (.busy s1, k) → exec (.engineOperationHeld n) s = .next (s1.updOp n fun x => { x with prog := k }))) ∧
    (s.tiles[tile]? = some t → s.ops[t.op]? = some o → s.fetchReady t o = true →
      (∀ s1 t1 k, s.tileFetch t o = (.ok s1 (), t1, k) →
        let fin := (s1.updOp t.op fun x => { x with prog := k }).updTile tile fun _ => { t1 with latched := true, table := s1.tileTable o }
        exec (.tileLatch tile) s =
          .next ((if t.again then fin else fin.setTileBits t fun c => { c with tl := true, wf := false }).opLeave t.op o) ∧
        (tile < s1.tiles.length → ∃ x : Tile, fin.tiles[tile]? = some x ∧ x.latched = true ∧ x.data = t1.data)) ∧
      (∀ s1 i t1 k, s.tileFetch t o = (.fail s1 i, t1, k) → exec (.tileLatch tile) s = .next (s1.tileFail tile t.op o i)) ∧
      (∀ s1 i t1 k, s.tileFetch t o = (.hold s1 i, t1, k) → exec (.tileFetchHeld tile) s = .next ((s1.updTile tile fun _ => t1).opHold t.op o k i)) ∧
      (∀ s1 t1 k, s.tileFetch t o = (.busy s1, t1, k) →
        exec (.tileFetchHeld tile) s = .next ((s1.updTile tile fun _ => t1).updOp t.op fun x => { x with prog := k }))) ∧
    (s.joints[n]? = some j → j.live = true →
      (j.posted = none → s.tableLen j.cluster < 16 → exec (.jointOperationPost n) s = .next (s.postJoint n j)) ∧
      (j.posted = some k → 4096 ≤ s.cyc.toNat - k →
        exec (.entryAged n) s = .next (s.updJoint n fun x => { x with aged := true }))) ∧
    ((s.clusters.get cl).pass = none → s.grantee cl = some (n, j) → s.tiles[j.tile]? = some t → n < s.joints.length →
      let w := if (s.clusters.get cl).array = some j.tile then 0 else loadCycles t (s.ops[t.op]?)
      ∃ s' : State, exec (.passGrant cl) s = .next s' ∧ (s'.clusters.get cl).pass = some n ∧
        (s'.clusters.get cl).endAt = s.cyc.toNat + w + 32 * j.crews.length + 42 ∧
        (∃ x, s'.joints[n]? = some x ∧ x.granted = some (s.cyc.toNat + w + 2)) ∧ s'.mem = s.mem ∧ s'.threads = s.threads) ∧
    (s.grantee cl = some (n, j) → s.joints[n]? = some j ∧ j.cluster = cl ∧ s.eligible n j = true) ∧
    ((s.clusters.get cl).pass = some n → (s.clusters.get cl).endAt ≤ s.cyc.toNat → s.joints[n]? = some j → s.tiles[j.tile]? = some t →
      ∃ s' : State, exec (.passComplete cl) s = .next s'.wake ∧ (s'.clusters.get cl).pass = none ∧
        (s'.clusters.get cl).array = some j.tile ∧
        (s'.core j.core).tarn = passTarn j t.bfmt (t.raw s.ops[t.op]?) (s.core j.core).tarn ∧ s'.mem = s.mem ∧
        ∃ x, s'.joints[n]? = some x ∧ x.live = false) ∧
    (∀ (m : Store Word) (f : MFmt) (data : List Byte) (row col : Nat), row < j.rows.length → col < 256 →
      (passTarn j f data m).get (tarnKey j.base (bits j.shape 16 11 + row) col) =
        let old := m.get (tarnKey j.base (bits j.shape 16 11 + row) col)
        if bits j.shape 6 4 / 2 ^ (col / 64) % 2 = 1 then old else passElem j f data (j.rows.getD row []) col old) ∧
    (base ∈ (s.core core).clearing → ∃ s' : State, exec (.tarnBankCleared core base) s = .next s' ∧ base ∉ (s'.core core).clearing ∧
      (∀ row < 32, ∀ col < 256, (s'.core core).tarn.get (tarnKey base row col) = 0) ∧ s'.mem = s.mem ∧ s'.threads = s.threads) ∧
    ((s.core core).allocs.find? (fun a => a.base == base && (a.freeing.isSome || a.killed)) = some al →
      let s' := s.tarnRelease core al.wg base
      (al.killed = true → s.tarnUsed core al = false → exec (.tarnRelease core base) s = .next s') ∧
      (al.killed = false → s.allocBusy core al = false → ∀ u, al.freeing = some u → s.hasExited u = false → (s.thr u).st = .ready →
        exec (.tarnRelease core base) s = .next (s'.updThr u fun x =>
          { x with r := x.r.breakChain.step, st := .ready, passed := false, readyAt := s'.cyc.toNat }))) ∧
    (s.dirFind n = some wl → exec (.registrationEviction n) s =
      .next (match s.wbKeeper wl.1 wl.2 with
        | none => s.giveUp wl.1 wl.2
        | some v => s.wbRequest v.1 v.2))

/-- R45, R77, R80 to R92, R311, R312 and R435: the events of basin commands and walkers. A command whose operands fail is dropped or
rejected; one that passes starts with its snapshot; it completes with its results; a deadline ends it; an offer reaches the heap; a
walker starts, arrives, or changes its engine. Which engine of the destination die takes a walker after a hop is the model's choice (log
63). -/
def Obligations.BasinEvents : Prop :=
  ∀ (s : State) (n w eng stk : Nat) (c : Cmd) (x : Walker) (y : Word × Word)
    (ys : List (Word × Word)),
    (s.cmds[n]? = some c → c.live = true → c.started = false → s.streamBusy (s.wgOfCrew c.crew) c.stream c.order = false →
      (c.forwarded = false →
        (∀ u i, s.dropCheck c = (u, .trap i) → exec (.searchForward n) s = .next (u.cmdDrop n c i)) ∧
        (∀ s2, (s.dropCheck c).2 = .ok () → (s.dropCheck c).1.frontCheck n c = some s2 → exec (.searchForward n) s = .next s2)) ∧
      (c.forwarded = true → (c.ranks = true → s.heapsUsed c.stack < 16) → (c.kind = 1 → s.slicesUsed c.stack < 128) →
        (c.kind ≠ 1 → ∀ u i, s.dropCheck c = (u, .trap i) → exec (.basinCommandStart n) s = .next (u.cmdDrop n c i)) ∧
        ((c.kind ≠ 1 → (s.dropCheck c).2 = .ok ()) →
          let u := if c.kind = 1 then s
            else (s.dropCheck c).1.updCmd n fun x => { x with found := (s.dropCheck c).1.operandStack c.as (c.fx 0) }
          let checked := if c.kind = 1 then u.checkSnap c (BitVec.ofNat 64 (c.d 0 64)) else if c.kind = 2 then u.checkScan c else u.checkRows c
          (∀ s2 st, checked = (s2, .reject st) → exec (.basinCommandStart n) s = .next (s2.cmdReject n st)) ∧
          (∀ s2 snap s1, checked = (s2, .pass snap) → s2.cmdBegin n c snap = some s1 → exec (.basinCommandStart n) s = .next s1) ∧
          (∀ s2 snap, checked = (s2, .pass snap) → c.kind = 3 → s2.cmdStatus n = 0 →
            exec (.basinCommandStart n) s =
              .next (s2.updCmd n fun z => { z with started := true, snapshot := snap, slices := [] }))))) ∧
    (s.cmds[n]? = some c → c.live = true → c.started = true →
      (∀ s1 c1, s.searchOver n c = true → (c.status = 0 → c.worked = false → s.cmdLate c = false) → s.cmdWork c = .ok s1 c1 →
        (∀ s2, s1.cmdFinish c1 = .ok s2 () → exec (.basinCommandComplete n) s = .next ((s2.updCmd n fun _ => c1).cmdLeave n c1)) ∧
        (∀ s2 i, s1.cmdFinish c1 = .fail s2 i → exec (.basinCommandComplete n) s = .next ((s2.updCmd n fun _ => c1).cmdDrop n c1 i)) ∧
        (∀ s2, s1.cmdFinish c1 = .busy s2 → exec (.basinCommandComplete n) s = .next (s2.updCmd n fun _ => c1))) ∧
      (c.rejected = false → c.worked = false → c.status = 0 → s.cmdLate c = true →
        exec (.basinCommandTimeout n) s = .next ((s.updCmd n fun z => { z with status := 8 }).endWalkers n))) ∧
    (s.cmds[n]? = some c → c.live = true → c.status = 0 → c.offers = y :: ys → exec (.heapOffer n) s =
      .next ((s.updCmd n fun z => { z with heap := heapOffer c.flt c.k c.heap y, offers := ys, merged := c.merged + 1 }).offersReached n (c.merged + 1))) ∧
    (s.walkers[w]? = some x → s.cmds[x.cmd]? = some c →
      (x.phase = .starting → s.engineUsed x.stack x.engine < 64 → (x.stack ∈ c.slices ∨ s.slicesUsed x.stack < 128) →
        ∃ s' : State, exec (.walkerChildStart w) s = .next s' ∧ s'.walkers[w]? = some { x with phase := .running } ∧ s'.mem = s.mem ∧
          (∃ c' : Cmd, s'.cmds[x.cmd]? = some c' ∧ x.stack ∈ c'.slices)) ∧
      (x.phase = .hopping stk → s.engineUsed stk x.engine < 64 → (stk ∈ c.slices ∨ s.slicesUsed stk < 128) →
        ∃ s' : State, exec (.walkerHopArrival w) s = .next s' ∧ s'.walkers[w]? = some { x with stack := stk, phase := .running } ∧
          s'.mem = s.mem ∧ (∃ c' : Cmd, s'.cmds[x.cmd]? = some c' ∧ stk ∈ c'.slices)) ∧
      (x.phase = .starting ∨ x.phase = .resuming → eng < 16 → eng ≠ x.engine → s.engineUsed x.stack eng < 64 →
        exec (.walkerSteal w eng) s = .next (s.updWlk w fun z => { z with engine := eng })))

/-- R96, R120 to R125, R252, R254, R255, R257, R261, R394 and R395: the events of remote accesses. The owner performs, refuses or tickets
what arrives, its own core's older posted writes to the location first; a reply gives the held thread its value, or POISON; a ticketed
access becomes a replay record, sent again on notice; an abort and a fabric error end accesses, each with a trap of its thread; releases
and acknowledgements free the owner's entries; a contribution is merged, and the last ends its round. -/
def Obligations.RemoteEvents : Prop :=
  ∀ (s : State) (n : Nat) (a : RAccess) (p : RPacket) (old : DWord) (tk : BitVec 16) (own : BitVec 11) (k : Contribution),
    let held := (s.thr a.thread).st = .parkedRemote (.held n)
    let woken := fun (s : State) (r : Regs) => s.updThr a.thread fun x => { x with r := r.breakChain.step, st := .ready, passed := false, readyAt := s.cyc.toNat }
    let quit := fun (s : State) => s.updAcc n fun x => { x with acked := false }
    let took := fun (s : State) => s.updAcc n fun x => { x with acked := x.kind == .topk }
    let taken := fun (s : State) => { s with fabric := s.fabric.erase (.request p), tkWait := s.tkWait.erase (.request p) }
    (∀ s0, s.heard p.src (.request p) = some s0 →
      (firstOfLine p s.fabric = false → exec (.remoteAccessArrival p) s = .next (s.ingress s.fabric (.request p))) ∧
      (firstOfLine p s.fabric = true →
        (∀ s1, s.ownerHandle p = (s1, true) → exec (.remoteAccessArrival p) s = .next (taken s1)) ∧
        (∀ s1, s.ownerHandle p = (s1, false) → exec (.remoteAccessArrival p) s = .next (s1.ingress s.fabric (.request p))) ∧
        (s.serves p.part p.src = false → p.replay = none → s.ownerHandle p = (s.send p.src (.abort p.acc 0xFFFF), true)) ∧
        (∀ pl wv s1, s.serves p.part p.src = true → s.aperFind (s.ownerAs p.part) p.va = none → s.shadows.find? (·.fits p) = none →
          s.resolve (s.ownerAs p.part) none p.va (rkBytes p.kind) (rkAcc p.kind) = (s1, .ok (.mem pl wv)) →
          let s2 := s1.settleOlder p (.mem pl wv)
          ((rkAcc p.kind).writes = true → s2.placeBlocked (.mem pl wv) = none) → s2.olderAt p (.mem pl wv) = [] → p.replay = none →
          let u := (ownerPerform s2 p (.mem pl wv)).1.send p.src (.reply p.acc (ownerPerform s2 p (.mem pl wv)).2)
          exec (.remoteAccessArrival p) s = .next (taken u)))) ∧
    (s.racc[n]? = some a → a.live = true → a.sent = true →
      (∀ out s0, s.heard a.owner (.reply n out) = some s0 →
        (out = .done old → held → exec (.remoteReply n out) s =
          .next ((woken (took s0) ((s0.thr a.thread).r.setVals a.d (rkVals a.kind old))).finishAcc n)) ∧
        (out = .done old → ¬held → exec (.remoteReply n out) s = .next ((took s0).finishAcc n)) ∧
        (out = .poison → held → a.hold = true →
          let info : TrapInfo := { cause := .poison, addr := a.va, aux := BitVec.ofNat 64 a.d }
          exec (.remoteReply n out) s = .next ((s0.stopThread a.thread 0 info a.pc a.pc).finishAcc n))) ∧
      (∀ s0, s.heard a.owner (.ticket n tk) = some s0 →
        (s0.lateUnder a tk = false → exec (.ticketReceived n tk) s = .next { s0.updAcc n (fun x =>
          { x with live := true, acked := false, tkid := some tk, head := s0.recorded a.owner tk == [], replay := none, tkAt := s0.tkCount }) with
          tkCount := s0.tkCount + 1 }) ∧
        (s0.lateUnder a tk = true → exec (.ticketReceived n tk) s = .next ((s0.updAcc n fun x =>
          { x with live := true, acked := false, replay := some tk }).sendAcc n))) ∧
      (∀ s0, s.heard a.owner (.abort n 0xFFFF) = some s0 →
        let info : TrapInfo := { cause := .ticketAbort, addr := a.va, aux := BitVec.ofNat 64 (65535 + a.owner.toNat * 65536) }
        (held → exec (.ticketAbort n 0xFFFF) s =
          .next ((quit ((woken s0 ((s0.thr a.thread).r.setVals a.d [])).asyncTrap a.thread info a.pc)).finishAcc n)) ∧
        (¬held → exec (.ticketAbort n 0xFFFF) s = .next ((quit (s0.asyncTrap a.thread info a.pc)).finishAcc n))) ∧
      (s.fabricLost n a = true → (∀ m ∈ s.fabric, isMsgOf n m = false) →
        let info : TrapInfo := { cause := .fabricError, addr := a.va, aux := a.owner.setWidth 64 }
        ∃ s' : State, exec (.fabricError n) s = .next (s'.finishAcc n) ∧ s'.mem = s.mem ∧ s'.racc = s.racc ∧
          (a.thread < s.threads.length → s.hasExited a.thread = false → (s'.thr a.thread).async = (s.thr a.thread).async ++ [⟨info, a.pc, s.cyc.toNat⟩]))) ∧
    (∀ s0, s.heard own (.notice own tk) = some s0 → exec (.replayNotice own tk) s =
      .next ((s0.recorded own tk).foldl (fun (s : State) (i : Nat) =>
        s.updAcc i fun x => { x with tkid := none, head := false, replay := some tk, sent := false })
        { s0 with noticed := s0.noticed ++ (((s0.recorded own tk).head?.bind s0.acc).map fun a =>
          (⟨own, tk, a.thread, a.va.toNat / 64⟩ : Noticed)).toList }).pump) ∧
    (∀ s0, s.heard own (.release own n) = some s0 → ∃ s' : State, exec (.replayRecordRelease own n) s = .next s' ∧
      (∀ t ∈ s'.tickets, t ∈ s.tickets ∧ ¬(t.src = own ∧ t.head = n)) ∧ s'.mem = s.mem ∧ s'.threads = s.threads) ∧
    (∃ s' : State, exec (.abortAcknowledgement tk) s = .next s' ∧ s'.mem = s.mem ∧ s'.threads = s.threads ∧
      (∀ x ∈ s.shadows, x.aborted = false → x ∈ s'.shadows) ∧
      (∀ x ∈ s'.shadows, x.src ≠ s.links.pkg → ¬(x.aborted = true ∧ x.tkid = tk))) ∧
    (∀ s0, k.root = s.links.pkg → s.heard k.src (.contrib k) = some s0 →
      let u := s0.contribBack k
      let same := fun (x : Round) => x.first.group == k.group && x.first.round == k.round
      let r := (u.rounds.find? same).getD { first := { k with list := [], replay := none }, got := 0, list := [], accs := [], part := k.part }
      let r' : Round := { r with got := r.got + 1, list := k.list.foldl (heapOffer k.flt k.k) r.list,
                                 accs := r.accs ++ [{ k with list := [], replay := none }] }
      let u1 : State := { u with rounds := u.rounds.filter (fun x => !same x) ++ [r'] }
      (sameRound r.first k = false → exec (.topkredContribution k) s = .next (u.send k.src (.abort k.acc 0xFFFF))) ∧
      (sameRound r.first k = true → r.got + 1 < k.n → exec (.topkredContribution k) s = .next (u1.send k.src (.reply k.acc (.done 0)))) ∧
      (sameRound r.first k = true → k.n ≤ r.got + 1 →
        ((u1.roundEnd r' (.contrib k)).2 = true → exec (.topkredContribution k) s =
          .next { (u1.roundEnd r' (.contrib k)).1 with tkWait := (u1.roundEnd r' (.contrib k)).1.tkWait.erase (.contrib k) }) ∧
        ((u1.roundEnd r' (.contrib k)).2 = false → ∃ t, exec (.topkredContribution k) s = .next t ∧ t.rounds = s.rounds ∧ .contrib k ∈ t.fabric)))

/-- R402, R403 and R408 to R412: the events of the links. A beat is accepted in order or replayed; a basin link retrains, and its third
failure in a row stops every partition; a Rein flit is accepted when it is the next, its tag verifies and its counter has not been used,
else a retry is requested; four failures in a row retrain a link, three failed retrains take it down; keys are renewed; a packet moves
to the escape channel. That the stored flits of a retrained link carry whole headers, and that one which is still to be written anew
(`stale`) is not sent on a retry request, is the model's choice (log 71), as is the receiver's counter (log 23). -/
def Obligations.LinkEvents : Prop :=
  ∀ (s : State) (n : Nat) (up : Bool) (seq : BitVec 8) (q : BitVec 12) (f : Flit) (e : Egress),
    let k := s.stk n
    let d := k.dirs.get up.toNat
    let l := s.links.rein.get n
    let dirOf := fun (t : State) => (t.stk n).dirs.get up.toNat
    let rein := fun (t : State) => t.links.rein.get n
    let inc := fun {w : Nat} (x : BitVec w) => if x = BitVec.allOnes w then x else x + 1
    let unused := l.rxCtr.getD f.kg.toNat 0 ≤ f.ctr
    let same := fun (t : State) => t.mem = s.mem ∧ t.threads = s.threads ∧ t.parts = s.parts
    (n < 12 → k.trying = false → k.down = false →
      (d.mayCome seq = true → ∃ t, exec (.beatReceived n up seq true) s = .next t ∧ same t ∧
        (t.stk n).dirs.get (!up).toNat = k.dirs.get (!up).toNat ∧
        (seq = d.expect → (dirOf t).expect = d.expect + 1 ∧ (dirOf t).fails = 0 ∧ (t.stk n).errCnt = k.errCnt) ∧
        (seq ≠ d.expect → (dirOf t).expect = d.expect ∧ (t.stk n).errCnt.get 0 = inc (k.errCnt.get 0))) ∧
      ∃ u, exec (.beatReceived n up d.expect false) s = .next u ∧ same u ∧ (dirOf u).expect = d.expect ∧ (dirOf u).fails = d.fails + 1 ∧
        (u.stk n).errCnt.get 0 = inc (k.errCnt.get 0) ∧ (4 ≤ d.fails + 1 → (u.stk n).trying = true)) ∧
    (n < 12 → k.trying = true → k.down = false →
      ∃ t u, exec (.basinLinkRetrain n true) s = .next t ∧ same t ∧ (t.stk n).trying = false ∧ (t.stk n).badTrains = 0 ∧
        (dirOf t).fails = 0 ∧ (dirOf t).expect = d.expect ∧
        (t.stk n).errCnt.get 1 = inc (k.errCnt.get 1) ∧ exec (.basinLinkRetrain n false) s = .next u ∧ u.mem = s.mem ∧
        (k.badTrains < 2 → same u ∧ (u.stk n).down = false ∧ (u.stk n).badTrains = k.badTrains + 1) ∧
        (2 ≤ k.badTrains → ∀ p < 16, (s.part p).enabled = true → (u.part p).halted = true ∧ (u.part p).haltCode = BitVec.ofNat 8 (0xB0 + n))) ∧
    (s.reinUp n = true →
      (f.seq = l.rxSeq → f.tagOk = true → l.takesBank f.kg = true → unused → ∃ t, exec (.flitReceived n f) s = .next t ∧ same t ∧
        (rein t).rxCtr = l.rxCtr.set f.kg.toNat (f.ctr + 1) ∧ (rein t).rxSeq = l.rxSeq + 1 ∧ (rein t).fails = 0 ∧ (rein t).asked = false ∧ (rein t).rxKg = f.kg ∧
        (rein t).headers = (decodeHeaders l.headers f.payload).2 ∧
        t.fabric = s.fabric ++ (((decodeHeaders l.headers f.payload).1.filter fun p => p.1[1]? == some s.links.pkg.toNat).map (·.2))) ∧
      ((f.tagOk = false ∨ l.takesBank f.kg = false ∨ ¬unused) → ∃ t, exec (.flitReceived n f) s = .next t ∧ same t ∧
        t.fabric = s.fabric ∧ (rein t).rxSeq = l.rxSeq ∧ (rein t).auth = inc l.auth ∧
        (f.seq = l.rxSeq ∨ l.asked = false → (rein t).retries = inc l.retries ∧ ∃ r, (rein t).wire = l.wire ++ .retry l.rxSeq :: r) ∧
        (f.seq ≠ l.rxSeq → l.asked = true → (rein t).retries = l.retries) ∧
        (f.seq = l.rxSeq → (rein t).fails = l.fails + 1 ∧ ((rein t).trying = true ↔ 4 ≤ l.fails + 1)) ∧
        (f.seq ≠ l.rxSeq → (rein t).fails = l.fails ∧ (rein t).trying = false)) ∧
      (f.seq ≠ l.rxSeq → f.tagOk = true → l.takesBank f.kg = true → unused → l.asked = true → exec (.flitReceived n f) s = .next s) ∧
      (f.seq ≠ l.rxSeq → f.tagOk = true → l.takesBank f.kg = true → unused → l.asked = false → ∃ t, exec (.flitReceived n f) s = .next t ∧ same t ∧ t.fabric = s.fabric ∧
        (rein t).rxSeq = l.rxSeq ∧ (rein t).asked = true ∧ (rein t).retries = inc l.retries ∧ (rein t).fails = l.fails ∧
        ∃ r, (rein t).wire = l.wire ++ .retry l.rxSeq :: r)) ∧
    (s.reinUp n = true → ∀ i, l.buffer.findIdx? (fun x => x.seq == q) = some i → ∃ t, exec (.retryRequest n q) s = .next t ∧ same t ∧
      (rein t).retries = inc l.retries ∧ (rein t).txLast = q ∧
      (rein t).txFails = (if l.txLast = q then l.txFails + 1 else 1) ∧
      ((rein t).txFails < 4 → ∃ r, (rein t).wire = l.wire ++ ((l.buffer.drop i).filter fun x => !x.stale).map .flit ++ r) ∧
      (4 ≤ (rein t).txFails → (rein t).trying = true ∧ (rein t).wire = l.wire)) ∧
    (n < 18 → l.trying = true → l.down = false → ∃ t u, exec (.reinLinkRetrain n true) s = .next t ∧ same t ∧
      (rein t).trying = false ∧ (rein t).headers = [] ∧ (rein t).retrains = inc l.retrains ∧ (rein t).badTrains = 0 ∧
      (∃ b r, (rein t).buffer = b ++ r ∧ b.map (·.seq) = l.buffer.map (·.seq) ∧
        ∀ x ∈ b, ∀ y ∈ x.payload, ∃ h o, y.hdr = HeaderForm.whole h o) ∧
      exec (.reinLinkRetrain n false) s = .next u ∧ same u ∧
      (rein u).badTrains = l.badTrains + 1 ∧ ((rein u).down = true ↔ 3 ≤ l.badTrains + 1)) ∧
    (n < 18 → l.renewable = true → ∃ t, exec (.keyUpdate n) s = .next t ∧ same t ∧ (rein t).txKg = !l.txKg ∧
      (rein t).rxNew = true ∧ (rein t).keys[(!l.txKg).toNat]? = (l.keys[(!l.txKg).toNat]?).map fun _ => some s.free) ∧
    (n < 18 → ∃ t u, exec (.flitCounterRekey n) s = .next t ∧ same t ∧ exec (.flitCounterExhausted n) s = .next u ∧ same u ∧
      (2 ^ 47 ≤ l.txCtr.getD l.txKg.toNat 0 → (rein t).wantRekey = true) ∧
      (2 ^ 48 - 1 ≤ l.txCtr.getD l.txKg.toNat 0 → (rein u).stopped = true)) ∧
    (s.links.egress.find? (fun x => x.pkt == n && x.stalled s.cyc.toNat) = some e →
      ∃ t, exec (.escapeChannelMove n) s = .next t ∧ same t ∧
        (∀ y ∈ t.links.egress, y.dst = e.dst → n ≤ y.pkt → y.sent = false → y.escape = true) ∧
        (∀ i, e.link = some i → (t.links.rein.get i).escapes = inc (s.links.rein.get i).escapes))

/-- R4, R134, R343 to R346, R363, R369, R375, R379, R386, R397, R398, R401, R407 and R423: a write of a register of one of the 16
partitions. Locked fields keep their values and locks are only ever set; a queue, an aperture or a stream in use keeps what it may not
change; reserved and illegal values keep the old ones; a write of another partition changes nothing. -/
def Obligations.RegisterEvents : Prop :=
  ∀ (s : State) (p n reg : Nat) (x : DWord) (c : Option Nat),
    let u := s.part p
    let part := fun (f : Part → Part) => (.next (s.updPart p f) : Host.Outcome State Fault Refusal)
    let lgn := fun (old : Nat) => if 6 ≤ bits x 8 5 ∧ bits x 8 5 ≤ 16 then bits x 8 5 else old
    let root := x &&& 0x000FFFFFFFFFF001
    (p < 16 →
      (let held := match s.recOf p (bits x 0 32) with | some (_, _, r) => r.kind ≤ 3 && r.thread.isSome | none => false
       exec (.twinWrite p x) s = part fun y => { y with twin := x.setWidth 32, twinValid := held }) ∧
      (∀ t, s.winThread p = some t → (exec (.trapWindowWrite p 0x005 0 x) s = .next (s.updThr t fun y => { y with r := { y.r with pc := x } })) ∧
        (n < 8 → exec (.trapWindowWrite p 0x009 n x) s =
          .next (s.updThr t fun y => { y with r := { y.r with latch := y.r.latch.set n x } }))) ∧
      (s.winThread p = none → exec (.trapWindowWrite p 0x005 0 x) s = part fun y => { y with twinValid := false }) ∧
      exec (.xlockCfgWrite p x) s = (part fun y => { y with xlock := y.xlock ||| x.setWidth 4 }) ∧
      exec (.schedXlockWrite p x) s = (part fun y => { y with schedXlock := y.schedXlock || x.getLsbD 0 }) ∧
      exec (.tqCfgWrite p x) s = (part fun y => { y with tqEn := x.getLsbD 0, tqLgn := lgn y.tqLgn }) ∧
      (let ftz := if u.xlock.getLsbD 0 then u.ftz else x.getLsbD 0
       let spread := if u.xlock.getLsbD 1 = true ∨ bits x 4 4 = 0 then u.spread else bits x 4 4
       ∃ t : State, exec (.numcfgWrite p x) s = .next t ∧ t.part p = { u with ftz := ftz, spread := spread } ∧ t.mem = s.mem) ∧
      exec (.memCfgWrite p x) s = (part fun y => { y with donate := x.getLsbD 0 }) ∧
      exec (.ctxRootWrite p none x) s = (part fun y => { y with supRoot := root }) ∧
      (n < 65535 → exec (.ctxRootWrite p (some n) x) s = part fun y => { y with roots := y.roots.set n root }) ∧
      (let q := u.lqs.get n
       let lg := if bits x 2 4 ≤ 8 ∧ s.meetsPark q.base.toNat ({ q with lgn := bits x 2 4 } : LaunchQ).size = false then bits x 2 4 else q.lgn
       let cx := if bits x 16 16 = 0xFFFF then q.ctx else bits x 16 16
       let used : LaunchQ := { q with en := x.getLsbD 0, cap := bits x 8 3 }
       let free : LaunchQ := { used with sup := x.getLsbD 1, lgn := lg, ctx := cx }
       let b := x &&& ~~~0xFFF#64
       n < 64 →
        (∃ t : State, exec (.lqCfgWrite p n x) s = .next t ∧ (t.part p).lqs.get n = (if q.en then used else free) ∧ t.mem = s.mem) ∧
        (∃ t : State, exec (.lqBaseWrite p n x) s = .next t ∧ t.mem = s.mem ∧ (t.part p).lqs.get n =
          if q.en = true ∨ paIsPackage b.toNat = false ∨ s.meetsPark b.toNat q.size = true then q else { q with base := b })) ∧
      (let a := u.apers.get n
       let b : Aper := { a with user := x.getLsbD 1, xf := x.extractLsb' 2 2, zlog := x.extractLsb' 4 3 }
       n < 16 → ∃ t : State, exec (.aperCfgWrite p n x) s = .next t ∧ t.mem = s.mem ∧
        (t.part p).apers.get n = if a.en then { a with en := x.getLsbD 0 } else { b with en := x.getLsbD 0 && s.aperOk p b }) ∧
      (let y := s.links.streams.get n
       n < 32 → ∃ t : State, exec (.spsCfgWrite p n x) s = .next t ∧ t.mem = s.mem ∧ (y.part ≠ p → t = s) ∧
        (y.part = p → (t.links.streams.get n).en = x.getLsbD 0 ∧
          (y.en = true → (t.links.streams.get n).lg = y.lg) ∧
          (x.getLsbD 0 = true → (t.links.streams.get n).seq = 0 ∧ (t.links.streams.get n).drops = 0 ∧
            (t.links.streams.get n).err = false))) ∧
      (s.regIdx p reg n = true → regReadOnly reg = false → exec (.systemRegisterWrite p reg n x) s = .next (s.sysWrite p reg n x)) ∧
      (regReadOnly reg = true ∨ s.regIdx p reg n = false → exec (.systemRegisterWrite p reg n x) s = .next s)) ∧
    (∃ t : State, exec (.phcAdjWrite x) s = .next t ∧ t.links.phcRate = x.extractLsb' 32 24 ∧ t.links.phcStep = x.setWidth 32 ∧ t.mem = s.mem ∧
      (s.links.phcNs.toNat < 1000000000 →
        let now := (s.links.phcSec.toNat * 1000000000 + s.links.phcNs.toNat : Nat)
        t.links.phcNs.toNat < 1000000000 ∧
        ((t.links.phcSec.toNat * 1000000000 + t.links.phcNs.toNat : Nat) : Int) = ((now : Int) + (x.setWidth 32).toInt) % (2 ^ 48 * 1000000000))) ∧
    (16 ≤ p → exec (.twinWrite p x) s = .next s ∧ exec (.numcfgWrite p x) s = .next s ∧ exec (.ctxRootWrite p c x) s = .next s ∧
      exec (.systemRegisterWrite p reg n x) s = .next s)

/-- R119, R391, R400, R401, R404 to R406 and R416 to R422: the host and the ports. The host reads and writes the window it is given, with
poison indicated and carried; a message is sent; a bad frame is counted, one that no rule matches is counted, one of a stream is stamped
and placed, and a write that a line holds back waits at its port; a patrol read counts a pass at its end; a slot is granted, and a round
ends with the pending table in force. What masking does is taken from PCI Express (log 73); the order of what waits at a port is the
model's (log 55). -/
def Obligations.PortEvents : Prop :=
  ∀ (s : State) (n m chan : Nat) (off : DWord) (bs : List Byte) (ok : Bool) (reqs : List Requester) (tab : List Byte),
    let pa := s.links.hdmBase.toNat * 2 ^ 30 + off.toNat
    let inc := fun {w : Nat} (x : BitVec w) => if x = BitVec.allOnes w then x else x + 1
    let inside := fun (n : Nat) => off.toNat + n ≤ s.links.hdmLen.toNat * 2 ^ 30 ∧ 0 < n ∧ paIsPackage pa = true ∧ paIsPackage (pa + n - 1) = true
    (s.links.hostUp = true →
      (inside n →
        let s1 := s.demandRange pa n
        exec (.cxlMemRead off n) s = .next (s1.answerHost (.data (s1.viewBytes none pa n) ((List.range n).any fun i => s1.isPoison (pa + i))))) ∧
      (¬inside n → exec (.cxlMemRead off n) s = .next (s.answerHost .error)) ∧
      (¬inside bs.length → exec (.cxlMemWrite off bs ok) s = .next (s.answerHost .error)) ∧
      (inside bs.length → s.portWait.any (PortWait.behind (.window pa bs ok)) = false → s.demandBlocked pa bs.length = none →
        ∃ t : State, exec (.cxlMemWrite off bs ok) s = .next (t.answerHost .written) ∧
          t.mem = (s.perform pa bs true).mem ∧ t.posted = s.posted ∧ t.threads = s.threads ∧
          (ok = true → ∀ i < bs.length, (pa + i) / 64 ∈ t.poison)) ∧
      (inside bs.length → s.portWait.any (PortWait.behind (.window pa bs ok)) = true ∨ s.demandBlocked pa bs.length ≠ none →
        ∃ t : State, exec (.cxlMemWrite off bs ok) s = .next t ∧ t.portWait = s.portWait ++ [.window pa bs ok] ∧ t.mem = s.mem ∧
          t.links.hostOut = s.links.hostOut)) ∧
    (n ∈ s.links.msixPend → ∃ t : State, exec (.msixSignal n) s = .next t ∧ n ∉ t.links.msixPend ∧ t.mem = s.mem ∧
      (let e := s.links.msixTbl.get n
       let opened : Bool := s.links.msixOn && !s.links.msixMask && !e.mask
       (opened = true → t.links.msixSent = s.links.msixSent ++ [⟨n, e.addr, e.data⟩] ∧ t.links.msixPba = s.links.msixPba) ∧
       (opened = false → t.links.msixSent = s.links.msixSent ∧ n ∈ t.links.msixPba))) ∧
    (n < 2 → (s.links.ports.get n).down = false →
      let port := s.links.ports.get n
      let counts := fun (f : Port → Port) => ∃ t : State, exec (.frameReceived n bs ok) s = .next t ∧ t.links.ports.get n = f port ∧ t.mem = s.mem ∧
        t.links.streams = s.links.streams
      (bs.length < 64 → counts fun x => { x with runts := inc x.runts }) ∧
      (9216 < bs.length → counts fun x => { x with oversize := inc x.oversize }) ∧
      (64 ≤ bs.length → bs.length ≤ 9216 → ok = false → counts fun x => { x with fcs := inc x.fcs }) ∧
      (64 ≤ bs.length → bs.length ≤ 9216 → ok = true → s.frameStream n bs = none → counts fun x => { x with unmatched := inc x.unmatched }) ∧
      (64 ≤ bs.length → bs.length ≤ 9216 → ok = true → s.frameStream n bs = some m →
        let st := s.links.streams.get (16 * n + m)
        let s0 : State := { s with free := s.free + 1 }
        let mine := fun (x : PortWait) => match x with | .frame i _ _ _ _ _ => i == 16 * n + m | _ => false
        let seen := (s0.demandRange st.pbo.toNat 8).demandRange st.cbo.toNat 8
        let prod := seen.readObj st.pbo
        let cons := seen.readObj st.cbo
        let size := 2 ^ (st.lg - 6)
        let units := (32 + bs.length + 63) / 64
        let wrap := if size < prod % size + units then size - prod % size else 0
        (s.portWait.any mine = true ∨ s0.frameBlocked (16 * n + m) bs.length ≠ none → ∃ (t : State) (sec : BitVec 48) (ns : BitVec 32),
          exec (.frameReceived n bs ok) s = .next t ∧ t.portWait = s.portWait ++ [.frame (16 * n + m) n m bs sec ns] ∧ t.mem = s.mem ∧
          t.links.streams = s.links.streams) ∧
        (s.portWait.any mine = false → s0.frameBlocked (16 * n + m) bs.length = none →
        (st.en = false ∨ st.err = true → ∃ t : State, exec (.frameReceived n bs ok) s = .next t ∧ t.mem = s.mem ∧
          (t.links.streams.get (16 * n + m)).drops = inc st.drops ∧ (t.links.streams.get (16 * n + m)).seq = st.seq + 1) ∧
        (st.en = true → st.err = false → prod < cons → ∃ t : State, exec (.frameReceived n bs ok) s = .next t ∧ t.mem = seen.mem ∧
          (t.links.streams.get (16 * n + m)).err = true ∧ (t.links.streams.get (16 * n + m)).drops = inc st.drops) ∧
        (st.en = true → st.err = false → cons ≤ prod → size < prod - cons + wrap + units → ∃ t : State,
          exec (.frameReceived n bs ok) s = .next t ∧ t.mem = seen.mem ∧ (t.links.streams.get (16 * n + m)).drops = inc st.drops ∧
          (t.links.streams.get (16 * n + m)).err = false) ∧
        (st.en = true → st.err = false → cons ≤ prod → prod - cons + wrap + units ≤ size →
          ∃ (t : State) (skip hdr pad : List Byte), exec (.frameReceived n bs ok) s = .next t ∧ hdr.length = 32 ∧ skip.length = 32 ∧
            (t.links.streams.get (16 * n + m)).seq = st.seq + 1 ∧ (t.links.streams.get (16 * n + m)).drops = st.drops ∧
            (let s1 := if wrap = 0 then seen else seen.perform (st.base.toNat + 64 * (prod % size)) skip true
             t.mem = ((s1.perform (st.base.toNat + 64 * ((prod + wrap) % size)) (hdr ++ bs ++ pad) true).perform st.pbo.toNat
              ((List.range 8).map fun j => (BitVec.ofNat 64 (min (prod + wrap + units) (2 ^ 64 - 1))).extractLsb' (8 * j) 8) true).mem))))) ∧
    (n < 12 → m < 2 ^ 30 → n * 2 ^ 30 + m = s.patrol → s.patrolDue = true → ∃ t : State, exec (.patrolScrub n m) s = .next t ∧ t.threads = s.threads ∧
      (s.arrayErr.get (n * 2 ^ 30 + m) = 0 → t.mem = s.mem ∧
        t.scrubPasses = if n = 11 ∧ m = 2 ^ 30 - 1 then inc s.scrubPasses else s.scrubPasses)) ∧
    (n < 12 → chan < 32 →
      (let k := s.stk n
       let slot := k.slotNo.get chan
       slot < 64 → ∃ t : State, exec (.channelSlotAllocation n chan reqs) s = .next t ∧ t.mem = s.mem ∧
        (t.stk n).slotNo.get chan = slot + 1 ∧
        (∀ p, s.slotOwner k chan slot = some p → p ∈ reqs.filterMap s.chargedTo → (t.stk n).granted.get chan = some p) ∧
        (∀ p, s.slotOwner k chan slot = some p → p ∉ reqs.filterMap s.chargedTo → (k.noDonate.get chan).testBit p = true → (t.stk n).granted.get chan = none)) ∧
      (∃ t : State, exec (.slotRoundBoundary n chan) s = .next t ∧ t.mem = s.mem ∧ (t.stk n).slotNo.get chan = 0 ∧
        (t.stk n).pending.get chan = none ∧ (∀ p < 16, ((t.stk n).noDonate.get chan).testBit p = !(s.part p).donate) ∧
        ((s.stk n).pending.get chan = some tab → ∀ i < 64, (t.stk n).slotTbl.get (64 * chan + i) = tab.getD i 0)))

/-- R424, R426 to R434: the housekeeping controller. An SPDM request on one of the three transports is answered; an owner request is acted
on and answered with its status; one that is refused changes only OWN_STAT.last; the first claim owns the package, and a named
successor's within 10 s; a handover lapses after 10 s; an image is written, activated, switched to, and left when its self-test fails; a
package reset keeps flash, floor and identity, and keys the links anew (R410). The model's choices here: the form of a request's body,
and that a request which is malformed or has an unassigned opcode comes as one with that opcode (log 72); which steps of a reset fail,
and when (log 74); the previous image resumes as it was when it last ran (log 76); memory lists nothing after a package reset (log 1);
IMAGE_WRITE disarms a switch that was armed (log 99). -/
def Obligations.HousekeepingEvents : Prop :=
  ∀ (s : State) (cl n m p : Nat) (hd : ReqHdr) (px : BitVec 5) (py pt : BitVec 4) (pa pb step : BitVec 3) (en : Bool)
    (failed : BitVec 21) (app : Option (List Byte)) (bs : List Byte) (base len watts : BitVec 16) (pkg : BitVec 11) (links : BitVec 18) (addr : BitVec 52) (clk : BitVec 4) (i : Instr),
    let h := s.hk
    let answered := fun (t : State) (op : BitVec 16) (tag : BitVec 32) (st : Nat) (body : List Byte) =>
      { t with hk := { t.hk with out := t.hk.out ++ [{ claimant := cl, opcode := op, tag := tag, status := st, body := body }] } }
    let spdm := fun (k : Nat) => { answered s 0 0 0 (Config.spdmPayload s.free k) with free := s.free + 1 }
    let op := fun (i : Instr) => match i with
      | .claim _ _ => 0x1 | .handover _ _ _ => 0x2 | .setPartition _ _ _ _ _ _ _ _ => 0x3 | .setSlots _ _ _ _ _ => 0x4
      | .setHost _ _ _ _ _ => 0x5 | .setStream _ _ _ _ _ => 0x6 | .setRein _ _ _ _ => 0x7 | .imageWrite _ _ _ _ => 0x8
      | .imageActivate _ _ => 0x9 | .rekey _ _ _ => 0xA | .setMsix _ _ _ _ _ => 0xB | .resetPartition _ _ _ => 0xC | _ => (0xD : BitVec 16)
    let does := fun (i : Instr) (t : State) => exec i s = .next (answered t (op i) hd.tag 0 [])
    let refuses := fun (i : Instr) (st : Nat) =>
      ∃ t : State, exec i s = .next (answered t (op i) hd.tag st []) ∧ t.hk = { h with last := BitVec.ofNat 8 st } ∧ t.mem = s.mem ∧ t.parts = s.parts ∧
        t.stks = s.stks ∧ t.threads = s.threads
    (cl < 21 → exec (.getVersion cl) s = .next (spdm 0) ∧ exec (.getCapabilities cl) s = .next (spdm 1) ∧
      exec (.negotiateAlgorithms cl) s = .next (spdm 2) ∧ exec (.getDigests cl) s = .next (spdm 3) ∧
      exec (.getCertificate cl) s = .next (spdm 4) ∧ exec (.challenge cl n) s = .next (spdm (16 + n)) ∧
      (n < 4 → exec (.getMeasurements cl n) s = .next (spdm (8 + n))) ∧
      (let t := spdm 6
       (cl < 3 → exec (.keyExchange cl) s =
        .next { t with hk := { t.hk with sessions := h.sessions.insert cl, sessKeys := h.sessKeys + 1 } }) ∧
       (3 ≤ cl → (s.links.rein.get (cl - 3)).session = false → ∃ u : State, exec (.keyExchange cl) s = .next u ∧ u.hk = t.hk ∧ u.mem = s.mem ∧
         (u.links.rein.get (cl - 3)).session = true ∧ (u.links.rein.get (cl - 3)).keys = [some s.free, none, some s.free, none]))) ∧
    (cl < 3 → h.failStep = 0 → ∀ o, hd.bad = some o →
      i ∈ [.claim cl hd, .handover cl n hd, .setPartition cl p px py pa pb en hd, .setSlots cl n m bs hd,
        .setHost cl pt base len hd, .setStream cl n m pt hd, .setRein cl pkg links hd, .imageWrite cl n bs hd, .imageActivate cl hd,
        .rekey cl n hd, .setMsix cl n addr en hd, .resetPartition cl p hd, .resetPackage cl hd] →
      let st := if cl ∈ h.sessions ∧ hd.secured = true ∧ h.owner ≠ cl ∧ o ≠ 1 then 1 else 4
      ∃ t : State, exec i s = .next (answered t o hd.tag st []) ∧ t.hk = { h with last := BitVec.ofNat 8 st } ∧ t.mem = s.mem ∧ t.parts = s.parts ∧
        t.stks = s.stks ∧ t.threads = s.threads) ∧
    (cl < 3 → h.failStep = 0 → hd.bad = none →
      (cl ∉ h.sessions ∨ hd.secured = false → i ∈ [.claim cl hd, .handover cl n hd, .setPartition cl p px py pa pb en hd, .setSlots cl n m bs hd,
        .setHost cl pt base len hd, .setStream cl n m pt hd, .setRein cl pkg links hd, .imageWrite cl n bs hd, .imageActivate cl hd,
        .rekey cl n hd, .setMsix cl n addr en hd, .resetPartition cl p hd, .resetPackage cl hd] → refuses i 4) ∧
      (cl ∈ h.sessions → hd.secured = true → h.owner ≠ cl → i ∈ [.handover cl n hd, .setPartition cl p px py pa pb en hd, .setSlots cl n m bs hd,
        .setHost cl pt base len hd, .setStream cl n m pt hd, .setRein cl pkg links hd, .imageWrite cl n bs hd, .imageActivate cl hd,
        .rekey cl n hd, .setMsix cl n addr en hd, .resetPartition cl p hd, .resetPackage cl hd] → refuses i 1) ∧
      (cl ∈ h.sessions → hd.secured = true → h.owner = 3 → ∃ t : State, does (.claim cl hd) t ∧ t.hk.owner = cl ∧ t.hk.succ = none ∧
        t.hk.claimAt = some s.cyc.toNat ∧ t.parts = s.parts ∧ t.mem = s.mem) ∧
      (cl ∈ h.sessions → hd.secured = true → h.owner ≠ 3 → h.owner ≠ cl → h.succ ≠ some cl →
        ¬(h.claimAt = some s.cyc.toNat ∧ cl < h.owner) → refuses (.claim cl hd) 2) ∧
      (cl ∈ h.sessions → hd.secured = true → h.owner ≠ 3 → cl < h.owner → h.claimAt = some s.cyc.toNat → h.succ = none →
        ∃ t : State, does (.claim cl hd) t ∧ t.hk.owner = cl ∧ t.hk.last = 2 ∧ t.parts = s.parts ∧ t.mem = s.mem) ∧
      (cl ∈ h.sessions → hd.secured = true → h.owner ≠ 3 → h.owner ≠ cl → h.succ = some cl → s.cyc.toNat < h.succAt + 12500000000 →
        ∃ t : State, does (.claim cl hd) t ∧ t.hk.owner = cl ∧ t.hk.succ = none ∧ t.parts = s.parts ∧ t.mem = s.mem) ∧
      (cl ∈ h.sessions → hd.secured = true → h.owner = cl →
        does (.claim cl hd) s ∧
        (2 < n ∨ n = cl → refuses (.handover cl n hd) 4) ∧
        (16 ≤ p ∨ en = true ∧ (meshTile px.toNat py.toNat pa.toNat pb.toNat = false ∨
            ∃ q < 16, q ≠ p ∧ (s.part q).enabled = true ∧ (s.part q).overlaps px.toNat py.toNat pa.toNat pb.toNat = true) →
          refuses (.setPartition cl p px py pa pb en hd) 4) ∧
        (p < 16 → s.holdsCtx p = true → (en = true → meshTile px.toNat py.toNat pa.toNat pb.toNat = true ∧
            ∀ q < 16, q ≠ p → (s.part q).enabled = true → (s.part q).overlaps px.toNat py.toNat pa.toNat pb.toNat = false) →
          refuses (.setPartition cl p px py pa pb en hd) 3) ∧
        (12 ≤ n ∨ 32 ≤ m ∨ bs.length ≠ 64 → refuses (.setSlots cl n m bs hd) 4) ∧
        (n < 12 → m < 32 → bs.length = 64 → (∃ j < 64, ∃ q, (bs.getD j 0 &&& 0x1F) ≠ (s.stk n).slotTbl.get (64 * m + j) ∧
            (slotByte (bs.getD j 0 &&& 0x1F) = some q ∨ slotByte ((s.stk n).slotTbl.get (64 * m + j)) = some q) ∧ s.holdsCtx q = true) →
          refuses (.setSlots cl n m bs hd) 3) ∧
        (768 < base.toNat + len.toNat → refuses (.setHost cl pt base len hd) 4) ∧
        (2 ≤ n ∨ 16 ≤ m → refuses (.setStream cl n m pt hd) 4) ∧
        (n < 2 → m < 16 → (s.links.streams.get (16 * n + m)).en = true → refuses (.setStream cl n m pt hd) 3) ∧
        ((∃ q < 16, s.holdsCtx q = true) → refuses (.setRein cl pkg links hd) 3) ∧
        (4064 < bs.length → refuses (.imageWrite cl n bs hd) 4) ∧
        (18 ≤ n → refuses (.rekey cl n hd) 4) ∧
        (16 ≤ n ∨ addr.toNat % 8 ≠ 0 ∨ paIsPackage addr.toNat = false → refuses (.setMsix cl n addr en hd) 4) ∧
        (16 ≤ p → refuses (.resetPartition cl p hd) 4) ∧
        (n < 3 → n ≠ cl → ∃ t : State, does (.handover cl n hd) t ∧ t.hk.succ = some n ∧ t.hk.succAt = s.cyc.toNat ∧ t.hk.owner = cl ∧
          t.parts = s.parts) ∧
        (p < 16 → s.holdsCtx p = false →
          (∀ q < 16, q ≠ p → (s.part q).enabled = true → (s.part q).overlaps px.toNat py.toNat pa.toNat pb.toNat = false) →
          meshTile px.toNat py.toNat pa.toNat pb.toNat = true →
          ((∀ k < 12, (s.stk k).down = false) → does (.setPartition cl p px py pa pb true hd) (s.updPart p fun y =>
            { y with enabled := true, px := px.toNat, py := py.toNat, pa := pa.toNat, pb := pb.toNat })) ∧
          (∀ k < 12, (s.stk k).down = true → (∀ j < k, (s.stk j).down = false) → (s.part p).halted = false →
            ∃ t : State, does (.setPartition cl p px py pa pb true hd) t ∧ (t.part p).enabled = true ∧ (t.part p).halted = true ∧
              (t.part p).haltCode = BitVec.ofNat 8 (0xB0 + k) ∧ t.mem = s.mem) ∧
          does (.setPartition cl p px py pa pb false hd) (s.updPart p fun y => { y with enabled := false })) ∧
        (n < 12 → m < 32 → bs.length = 64 → (∀ q, s.holdsCtx q = false) →
          does (.setSlots cl n m bs hd) (s.updStk n fun k => { k with pending := k.pending.set m (some (bs.map fun b => b &&& 0x1F)) })) ∧
        (base.toNat + len.toNat ≤ 768 → does (.setHost cl pt base len hd)
          { s with links := { s.links with hostPart := pt, hdmBase := base, hdmLen := len } }) ∧
        (n < 2 → m < 16 → (s.links.streams.get (16 * n + m)).en = false → ∃ t : State, does (.setStream cl n m pt hd) t ∧
          (t.links.streams.get (16 * n + m)).part = pt.toNat ∧ t.mem = s.mem ∧ t.hk = h) ∧
        ((∀ q < 16, s.holdsCtx q = false) → ∃ t : State, does (.setRein cl pkg links hd) t ∧ t.links.pkg = pkg ∧ t.links.enabled = links ∧
          t.mem = s.mem ∧ t.hk = h) ∧
        (bs.length ≤ 4064 → ∃ t : State, does (.imageWrite cl n bs hd) t ∧ t.mem = s.mem ∧ t.hk = { h with images := t.hk.images, armed := false } ∧
          t.hk.images[h.slot.toNat]? = h.images[h.slot.toNat]? ∧
          ∀ img, h.images[(!h.slot).toNat]? = some img → t.hk.images[(!h.slot).toNat]? = some (putBytes img n bs)) ∧
        (∃ t : State, exec (.imageActivate cl hd) s = .next (answered t 0x9 hd.tag (if h.valid (!h.slot) then 0 else 5) []) ∧
          t.hk.armed = h.valid (!h.slot) ∧ t.hk.fwErr = (h.fwErr || !h.valid (!h.slot)) ∧ t.hk.slot = h.slot ∧
          t.hk.images = h.images ∧ t.mem = s.mem ∧ t.parts = s.parts) ∧
        (n < 18 → ∃ t : State, does (.rekey cl n hd) t ∧ (t.links.rein.get n).wantRekey = true ∧ t.mem = s.mem ∧ t.hk = h) ∧
        (n < 16 → addr.toNat % 8 = 0 → paIsPackage addr.toNat = true → ∃ t : State, does (.setMsix cl n addr en hd) t ∧
          t.links.msix.get n = (addr.setWidth 64 ||| if en then 1 else 0) ∧ t.mem = s.mem ∧ t.hk = h) ∧
        (let y := s.part p
         let failed := (List.range 12).any fun k => (s.stk k).down
         let fresh : Part := { enabled := y.enabled, px := y.px, py := y.py, pa := y.pa, pb := y.pb, halted := failed && y.halted,
                               haltCode := if failed then y.haltCode else 0 }
         p < 16 → ∃ t : State, does (.resetPartition cl p hd) t ∧ t.part p = fresh) ∧
        exec (.resetPackage cl hd) s =
          .next (((answered s 0xD hd.tag 0 []).boot (Config.bootStep s.free) (Config.bootFailed s.free)).draw))) ∧
    (s.links.hostUp = true → h.failStep = 0 → bs.length = 8 → dwOf bs ≠ h.mbReq →
      (h.owner = 3 → 0 ∈ h.sessions → app = some ([1, 0, 0, 0] ++ bytesOf 4 hd.tag ++ List.replicate 8 0) →
        ∃ t : State, exec (.mbReqWrite (.bar 0 bs app)) s = .next t ∧ t.hk.mbReq = dwOf bs ∧ t.hk.mbRsp = dwOf bs ∧ t.hk.owner = 0 ∧
          t.hk.out = h.out ++ [{ claimant := 0, opcode := 1, tag := hd.tag, status := 0, body := [] }] ∧ 0 ∈ t.links.msixPend ∧ t.mem = s.mem) ∧
      (app = none ∨ 0 ∉ h.sessions → reqOpcode (parseReq (app.getD [])).2 ≠ 0xD → ∃ t : State, exec (.mbReqWrite (.bar 0 bs app)) s = .next t ∧
        t.hk.mbReq = dwOf bs ∧ t.hk.mbRsp = dwOf bs ∧ t.hk.owner = h.owner ∧ t.hk.last = 4 ∧ 0 ∈ t.links.msixPend ∧ t.mem = s.mem)) ∧
    (s.links.hostUp = true → 8 ≤ n → ∃ t : State, exec (.mbReqWrite (.bar n bs app)) s = .next t ∧ t.hk = { h with reqBuf := t.hk.reqBuf } ∧
      t.mem = s.mem ∧ t.links = s.links ∧
      ∀ j < bs.length, 0x1000 ≤ n + j → n + j < 0x2000 → some (t.barByte (n + j)) = bs[j]?) ∧
    ((16 ≤ n ∧ n < 0x1000 ∨ 0x3000 ≤ n) → s.barByte n = 0) ∧
    (h.succ = some n → h.succAt + 12500000000 ≤ s.cyc.toNat →
      ∃ t : State, exec .handoverLapse s = .next t ∧ t.hk = { h with succ := none } ∧ t.mem = s.mem) ∧
    (h.armed = true → ∃ t : State, exec .firmwareSwitch s = .next t ∧ t.mem = s.mem ∧ t.threads = s.threads ∧ t.hk =
      { h with armed := false, slot := !h.slot, fwErr := false, testing := some s.cyc.toNat, prev := h.images.getD h.slot.toNat [] }) ∧
    (h.testing = some n → s.cyc.toNat < n + 1250000000 → ∃ t : State, exec .firmwareSelfTestFail s = .next t ∧ t.mem = s.mem ∧
      t.hk = { h with slot := !h.slot, fwErr := true, testing := none, armed := false, prev := [],
                      images := h.images.set (!h.slot).toNat h.prev }) ∧
    ((en = false ∨ clk ≠ 0) →
      exec (.powerThrottle watts clk en) s = .next { s with hk := { h with watts := watts, clkStep := clk, basinThr := en } }) ∧
    (∃ t : State, let gone := if t.hk.failStep = 0 then failed else BitVec.allOnes 21
      exec (.packageReset step failed) s = .next t ∧ t.mem = [] ∧ t.threads = [] ∧ t.launches = [] ∧ t.hk.images = h.images ∧
      h.floor ≤ t.hk.floor ∧ t.hk.owner = 3 ∧ t.hk.serial = h.serial ∧ (t.links.hostUp = !gone.getLsbD 18) ∧
      (∀ j < 18, (t.links.rein.get j).down = gone.getLsbD j ∧ (gone.getLsbD j = false →
        (t.links.rein.get j).keys = [some (s.free + 1), none, some (s.free + 1), none])) ∧ s.free + 1 < t.free ∧ (∀ j < 2, (t.links.ports.get j).down = gone.getLsbD (19 + j)) ∧
      match h.bootSlot with
        | none => t.hk.failStep = 1
        | some b => t.hk.slot = b ∧ t.hk.failStep = if step = 2 ∨ step = 3 then step else 0)

/-- R171 to R174: the pair word. Both halves read their registers from before the word; a half that computes gives the value of its full
form, half A before half B; an LDS or STS half reaches the stash in half order and breaks the chain. A pair whose halves write one bank,
or that reads one bank more than twice, raises ILLEGAL_PAIR. R178 and R191: a word without an assigned opcode raises ILLEGAL_OPCODE. -/
def Obligations.PairWords : Prop :=
  (∀ (s : State) (a b : Half), s.agentIn = true → s.hazard (halfIss a) = false → s.hazard (halfIss b) = false →
      s.holds (halfIss a) = false → s.holds (halfIss b) = false →
      let r := s.curRegs
      let D := fun (z : Bool) (x : Half) =>
        let V := fun (x : Nat) => f32.val z x
        let H := fun (x : Nat) => bf16.val z x
        let A := r.v.get x.d.toNat
        let B := r.rv x.s
        let m := A.toNat
        let n := B.toNat
        let int := fun (y : Word) => FR.mk y.toNat 0
        let two := fun (f : Nat → Nat → FR) =>
          FR.mk ((f (m % 65536) (n % 65536)).pat + 65536 * (f (m / 65536) (n / 65536)).pat)
            ((f (m % 65536) (n % 65536)).fl ||| (f (m / 65536) (n / 65536)).fl)
        match x.cop with
        | .iadd => int (BitVec.ofNat 32 (m + n))
        | .isub => int (BitVec.ofInt 32 ((m : Int) - n))
        | .imul => int (BitVec.ofNat 32 (m * n))
        | .and => int (A &&& B)
        | .or => int (A ||| B)
        | .xor => int (A ^^^ B)
        | .shl => int (if n < 32 then BitVec.ofNat 32 (m * 2 ^ n) else 0)
        | .shr => int (if n < 32 then BitVec.ofNat 32 (m / 2 ^ n) else 0)
        | .sar => int (BitVec.ofInt 32 (A.toInt / 2 ^ min n 31))
        | .mov => int B
        | .imin => int (if A.toInt ≤ B.toInt then A else B)
        | .imax => int (if A.toInt ≤ B.toInt then B else A)
        | .fadd => f32.deliver .rne z (sumFV .rne [V m, V n])
        | .fsub => f32.deliver .rne z (sumFV .rne [V m, V (Nat.xor n 0x80000000)])
        | .fmul => f32.deliver .rne z ((V m).mul (V n))
        | .fmin => f32.minmax false false z m n
        | .fmax => f32.minmax true false z m n
        | .hadd2 => two fun x y => bf16.deliver .rne z (sumFV .rne [H x, H y])
        | .hmul2 => two fun x y => bf16.deliver .rne z ((H x).mul (H y))
        | .nop | .lds | .sts => ⟨0, 0⟩
      let off := fun (x : Half) => (r.rv x.s).toNat
      let check := fun (q : State) (x : Half) => match x.cop with
        | .lds => q.stashCheck (q.wgOf q.t) (off x) 4 false
        | .sts => q.stashCheck (q.wgOf q.t) (off x) 4 true
        | _ => (q, .ok ())
      let half := fun (q : State) (x : Half) =>
        let g := q.wgOf q.t
        let bs := q.stashBytes g (off x) 4
        match x.cop with
        | .nop => q.goesOn q.curRegs.gotNone
        | .sts => (q.stashPut g (off x) ((List.range 4).map fun j => (r.v.get x.d.toNat).extractLsb' (8 * j) 8)).goesOn q.curRegs.broke
        | .lds =>
          let v := q.curRegs.v.set x.d.toNat (bs.getD 3 0 ++ bs.getD 2 0 ++ bs.getD 1 0 ++ bs.getD 0 0)
          q.goesOn ({ q.curRegs with v := v } : Regs).broke
        | _ => (q.setFlags (D q.ftz x).fl).goesOn (q.curRegs.gotV ⟨0, false, x.d.setWidth 11, x.nw⟩ (BitVec.ofNat 32 (D q.ftz x).pat))
      let stash := fun (x : Half) => x.cop = .lds ∨ x.cop = .sts
      let start := if stash a ∨ stash b then s.reforms else s
      let writes := fun (x : Half) => !x.nw && x.cop ≠ .sts && x.cop ≠ .nop
      let reads := fun (x : Half) =>
        (if x.cop ≠ .mov ∧ x.cop ≠ .lds ∧ x.cop ≠ .nop then [x.d.toNat % 4] else []) ++
        (match x.s with | .v n => [n.toNat % 4] | _ => [])
      let clash := writes a && writes b && a.d.toNat % 4 == b.d.toNat % 4
      let crowd := ∃ k, 2 < ((reads a ++ reads b).filter (· = k)).length
      (∀ t, s.cur = .thread t → ((halfIss a).ops ++ (halfIss b).ops).all (Opd.ok s.curCnt) = true →
        (a.nw || (halfIss a).dst.ok s.curCnt) = true → (b.nw || (halfIss b).dst.ok s.curCnt) = true → (clash = true ∨ crowd) →
        exec (.pairWord a b) s = .next (s.raise { cause := .illegalPair })) ∧
      (s.pairChecks a b = none → pairLatchBad r a b = none →
        (∀ s1 s2, check start a = (s1, .ok ()) → check s1 b = (s2, .ok ()) →
          (a.cop = .lds → s2.stashBad (s2.wgOf s2.t) (off a) 4 = false) →
          (b.cop = .lds → (half s2 a).stashBad ((half s2 a).wgOf (half s2 a).t) (off b) 4 = false) →
          s2.agentIn = true → s2.curRegs = r → exec (.pairWord a b) s = .next (half (half s2 a) b)) ∧
        (∀ s1 c, check start a = (s1, .trap c) → exec (.pairWord a b) s = .next (s1.raise c)) ∧
        (∀ s1 s2 c, check start a = (s1, .ok ()) → check s1 b = (s2, .trap c) →
          exec (.pairWord a b) s = .next (s2.raise { c with half := true })))) ∧
  (∀ (s : State) (w : DWord) (half : Bool), s.agentIn = true →
      exec (.unassignedOpcode w half) s = .next (s.raise { cause := .illegalOpcode, half := half }))

/-- R161 to R165, R178 and R336: what one step does. With no issue in progress it runs the next event that is due, or gives a turn, or
passes to the next cycle (the order of these is the model's, log 3); a package in the failed state runs a package reset and nothing else
(log 74). The next agent of an issue runs the instruction that its line holds at its PC, with the next start word as the place to go on:
`exec` of the decoded instruction; a thread that may not run does nothing, one with a pending asynchronous cause takes it, a defective
line or a line of the wrong kind traps. That the PC's bits [2:0] are ignored and that a target's chain is begun though its word traps is
the model's reading (log 84), and that the stored bytes of a poisoned line are executed (log 65). R161 and R242: the line that holds a
PC is 128 bytes of memory as the core sees them when it fetches it first, and the core's copy of them from then on, until an
invalidation. -/
def Obligations.StepRunsDecoded : Prop :=
  (∀ s : State,
      (s.hk.failStep ≠ 0 → (s.agenda = [] → step s = .next s) ∧ ∀ i rest, s.agenda = i :: rest →
        (∀ f l, i = .packageReset f l → step s = exec i { s with cur := .none, agenda := rest }) ∧
        ((∀ f l, i ≠ .packageReset f l) → step s = .next { s with agenda := rest })) ∧
      (s.hk.failStep = 0 →
        (∀ i rest, s.issue.agents = [] → s.agenda = i :: rest → step s = exec i { s with cur := .none, agenda := rest }) ∧
        (∀ q rest, s.issue.agents = [] → s.agenda = [] → s.turn = q :: rest → step s = .next (State.take { s with turn := rest } q)) ∧
        (s.issue.agents = [] → s.agenda = [] → s.turn = [] → step s = .next s.tick) ∧
        (∀ a rest, s.issue.agents = a :: rest →
          let s0 : State := { s with cur := a, issue := { s.issue with agents := rest } }
          (s0.curMayRun = false → step s = .next s0) ∧
          (s0.curMayRun = true → s0.curAsync = true → step s = .next (s0.takeAsync s0.t)) ∧
          (s0.curMayRun = true → s0.curAsync = false → s0.inImage = true →
            ∀ s1 s2 line, s0.stamp.entryCheck = (s1, .ok ()) → s1.fetchLine s1.curAs s1.curView s1.curRegs.pc = (s2, .ok line) →
              let pc := s2.curRegs.pc
              let w := pcWord pc
              let word := lineWord line w
              let wide := takesExt word
              let kind := match a with | .walker _ => 1 | _ => 0
              let there := s2.updRegs fun r => { (if lineTarget line w then { r with k := 0, written := 0 } else r) with npc := nextPc pc wide }
              (lineBad line = true ∨ lineStart line w = false → step s = .next (s2.raise { cause := .illegalLine })) ∧
              (lineBad line = false → lineStart line w = true →
                (lineKind line ≠ kind → step s = .next (s2.raise { cause := .illegalContext })) ∧
                (lineKind line = kind →
                  (∀ i, decodeWord word (if wide then lineWord line (w + 1) else 0) = .ok i → step s = exec i there) ∧
                  (∀ half, decodeWord word (if wide then lineWord line (w + 1) else 0) = .format half →
                    step s = .next (there.raise { cause := .illegalFormat, half := half })))))))) ∧
  (∀ (s s1 : State) (a : As) (core : Nat) (pc : DWord) (pas : List Nat) (wv : Bool), Store.wf s1.cores = true →
      s.resolve a (some core) (pc - BitVec.ofNat 64 (pc.toNat % 128)) 128 .fetch = (s1, .ok (.mem pas wv)) →
      (∀ key line, ((s1.core core).icache.find? fun e => e.1 == pas.headD 0) = some (key, line) →
        s.fetchLine a (some core) pc = (s1, .ok line)) ∧
      (((s1.core core).icache.find? fun e => e.1 == pas.headD 0) = none →
        let line := pas.map (s1.viewByte (some core))
        ∃ s2, s.fetchLine a (some core) pc = (s2, .ok line) ∧ (s2.core core).icache = (pas.headD 0, line) :: (s1.core core).icache ∧
          (∀ c, c ≠ core → s2.core c = s1.core c) ∧ s2.sameBytes s1))

/-- Words of the spec's worked encodings (R185, R210, R251, R261, R291, R326) decode to the instructions beside them. -/
def Obligations.DecodeWords : Prop :=
  let h := fun (d : BitVec 11) => Hdr.mk 0 false d false
  decodeWord 0x000000C808C00000 0 = .ok (.iadd (h 6) .zero (.imm 0)) ∧
  decodeWord 0x0040001800C03000 0 = .ok (.imul ⟨0, false, 0, true⟩ (.latch 0) (.imm 3)) ∧
  decodeWord 0x804088010101A010 0 = .ok (.pairWord ⟨.iadd, 8, .latch 1, false⟩ ⟨.isub, 13, .v 8, false⟩) ∧
  decodeWord 0x124000E0078087FF 0 = .ok (.loopd (h 7) (.v 7) (.short 0x7FF)) ∧
  decodeWord 0x20C0012004808010 0 = .ok (.redux (h 9) (.v 4) .add .f32 .rne) ∧
  decodeWord 0x280000C004C40001 0 = .ok (.ld (h 6) (.v 4) (.imm 0x40) ⟨.b64, .core, .none, none⟩) ∧
  decodeWord 0x2820000008003800 0x100 = .ok (.st (h 0) (.v 8) (.v 3) ⟨.b32, .core, .none, some 0x100⟩) ∧
  takesExt 0x2820000008003800 = true ∧ takesExt 0x280000C004C40001 = false ∧
  decodeWord 0x30E000400400605B 0 = .ok (.waitge (h 2) (.v 4) (.v 6) .pkg true 5) ∧
  decodeWord 0x3820000008003200 0 = .ok (.rst (h 0) (.v 8) (.v 3) .b32 false 2) ∧
  decodeWord 0x4080000040C3F045 0 = .ok (.mma (h 0) (.v 64) (.imm 63) 5 true) ∧
  decodeWord 0x482002800800C182 0 = .ok (.copyt (h 20) (.v 8) (.v 12) ⟨2, .core, false, true, true, false, false⟩) ∧
  decodeWord 0x5020000020808018 0 = .ok (.nbscan (h 0) (.v 32) ⟨0, .pkg, false⟩) ∧
  decodeWord 0x5860004000808000 0 = .ok (.wvisit (h 2) (.v 0)) ∧
  decodeWord 0x0A60008004C64004 0 = .ok (.icmp (h 4) (.v 4) (.imm 100) .gt false .none) ∧
  decodeWord 0x0A60008004C64024 0 = .format false

/-- R166 to R174, R191: decoding and encoding agree. For every well-formed instruction that has an encoding, its words decode to it, and
whether it takes an extension word is read from its start word; every word that decodes is the encoding of the well-formed instruction
it decodes to; every instruction of format F, every pair and every unassigned word has an encoding. -/
def Obligations.RoundTrip : Prop :=
  (∀ (i : Instr) (w : DWord) (x : Option DWord), i.wf = true → encode i = some (w, x) →
    takesExt w = x.isSome ∧ decodeWord w (x.getD 0) = .ok i) ∧
  (∀ (w x : DWord) (i : Instr), decodeWord w x = .ok i → i.wf = true ∧ encode i = some (w, if takesExt w then some x else none)) ∧
  (∀ (s : State) (i : Instr), (s.issOf i).isSome = true → (encode i).isSome = true) ∧
  (∀ a b, (encode (.pairWord a b)).isSome = true) ∧ (∀ w half, (encode (.unassignedOpcode w half)).isSome = true)

/-- An invariant that every step keeps: physical memory stays in its canonical form, addresses rising and no entry that an unlisted address
would give (log 1), so that memories which read alike are equal. -/
def Obligations.StepKeepsMemoryCanonical : Prop :=
  ∀ s s' : State, Memory.wf s.mem = true → step s = .next s' → Memory.wf s'.mem = true

/-- R4, R47, R134, R296, R334, R345, R375, R398, R407, R423, R424 and R434: the values that the spec gives for reset, and that memory lists
nothing and has its canonical form (that an unlisted byte reads 0 is the model's choice, log 1). -/
def Obligations.ResetState : Prop :=
  let s := State.reset
  (s.cyc = 0 ∧ s.threads = [] ∧ s.crews = [] ∧ s.wgs = [] ∧ s.launches = [] ∧ s.ops = [] ∧ s.cmds = [] ∧ s.walkers = [] ∧ s.racc = [] ∧
    s.tlb = [] ∧ s.tlbGen = 0 ∧ s.tickets = [] ∧ s.migs = []) ∧
  (∀ p, let r := s.part p
    r.enabled = false ∧ r.tqEn = false ∧ r.tqLgn = 6 ∧ r.twin = 0 ∧ r.twinValid = false ∧ r.ftz = false ∧ r.spread = 3 ∧ r.ut = false ∧
    r.satrap = false ∧ r.xlock = 0 ∧ r.schedXlock = false ∧ r.supRoot.getLsbD 0 = false ∧ r.xcfg.getLsbD 0 = false ∧ r.svqEn = false ∧
    r.svqLgn = 6 ∧ r.donate = true ∧ r.leases = [] ∧ r.halted = false ∧
    (∀ c, (r.roots.get c).getLsbD 0 = false ∧ (r.ctxs.get c).phase = 0) ∧ (∀ k, r.fabPerm.get k = 0 ∧ r.xperm.get k = 0) ∧
    (∀ q, let l := r.lqs.get q; l.en = false ∧ l.sup = false ∧ l.lgn = 0 ∧ l.cap = 7 ∧ l.ctx = 0) ∧ (∀ a, (r.apers.get a).en = false)) ∧
  (∀ c, let k := s.core c
    k.pb1 = 256 ∧ k.pb2 = 512 ∧ k.pb3 = 640 ∧ k.copyW = 0 ∧ k.gathW = 0 ∧ k.allocs = [] ∧ k.clearing = [] ∧ k.pend = [] ∧
    ∀ j, (k.slots.get j).held = none) ∧
  (∀ d, let k := s.stk d
    (∀ j, k.slotTbl.get j = 0) ∧ (∀ j, k.errCnt.get j = 0) ∧ (∀ j, k.errLog.get j = 0) ∧ ∀ j, k.erase.get j = 0) ∧
  (s.scrubPeriod = 24 ∧ s.scrubPasses = 0 ∧ s.links.phcSec = 0 ∧ s.links.phcNs = 0 ∧ s.links.phcStep = 0 ∧ s.links.phcRate = 0 ∧
    (∀ j, (s.links.streams.get j).en = false ∧ (s.links.streams.get j).lg = 12 ∧ (s.links.streams.get j).part = 0)) ∧
  (s.hk.owner = 3 ∧ s.hk.succ = none ∧ s.hk.last = 0 ∧ s.hk.fwErr = false ∧ s.hk.failStep = 0) ∧
  (Memory.wf s.mem = true ∧ ∀ pa, s.mem.get pa = 0)

/-- R46, R233, R379, R384, R388 and R390: which accesses a cached leaf permits, where they go, and with which cause the others trap,
WAITGE's reading among them; s1 is the state once the table's words that the translation reads have been corrected (R405). An access
that is to set a bit of a leaf whose line cannot be written back waits (R53), and is not stated here. -/
def Obligations.AccessChecks : Prop :=
  ∀ (s : State) (a : As) (view : Option Nat) (va : DWord) (n : Nat) (k : AccKind),
    let writes := k = .store ∨ k = .atomic ∨ k = .engWrite ∨ k = .writeBack
    let s1 := s.demandLeaf a va (decide writes)
    let trap := fun (c : Cause) => Chk.trap { cause := c, detail := k.code, addr := va }
    let upper := va.getLsbD 56
    let sane := ∀ j, 57 ≤ j → j < 64 → va.getLsbD j = upper
    let leased := (s.part a.part).leases.any fun l =>
      (match l.launch with | some x => decide (a.launch = some x) | none => decide (a.launch ≠ none ∧ l.ctx = a.ctx)) &&
      decide (l.base.toNat ≤ va.toNat ∧ va.toNat < l.base.toNat + l.len.toNat)
    (va.toNat % n ≠ 0 → s.check a view va n k = (s, trap .misaligned)) ∧
    (va.toNat % n = 0 → s.check a view va n k = s.resolve a view va n k) ∧
    (¬ sane → s.resolve a view va n k = (s, trap .access)) ∧
    (sane → upper = true → a.sup = false → s.resolve a view va n k = (s, trap .access)) ∧
    (sane → (upper = true → a.sup = true) → s.aperFind a va = none → s.switching a va = none → s1.markBlocked a va n k = none →
      (s1.leafOf a va = (s1, none) → s.resolve a view va n k = (s1, trap (if leased then .leaseViolation else .translation))) ∧
      ∀ l, s.tlbFind a va = some l →
        let e := l.entry
        let rd := e.getLsbD 2
        let wr := e.getLsbD 3
        let permits := (a.sup || e.getLsbD 5) && match k with
          | .load | .engRead | .stash => rd
          | .store | .engWrite | .writeBack => wr
          | .atomic | .wait => rd && wr
          | .fetch => e.getLsbD 4
        let frame := (e.extractLsb' 12 40).toNat * 4096 / l.size * l.size
        let off := (va.extractLsb' 0 57).toNat % l.size
        let far := (frame + off) / 2 ^ 50 % 4 = 2
        (¬ writes ∨ e.getLsbD 8 = true ∨ s.arrayErr = [] → s1 = s) ∧
        (permits = false → s.resolve a view va n k = (s1, trap .access)) ∧
        (permits = true → e.getLsbD 10 = true → k ≠ .wait →
          (writes → s.resolve a view va n k = (s1, trap (if leased then .leaseViolation else .pageDiscarded))) ∧
          (¬ writes → s.resolve a view va n k = (s, .ok (.value (List.replicate n 0))))) ∧
        (permits = true → e.getLsbD 10 = true → k = .wait → n = 8 → va.toNat % 8 = 0 → ∀ core,
          s.waitRead a core va =
            (s, .trap { cause := if leased then .leaseViolation else .pageDiscarded, detail := k.code, addr := va })) ∧
        (permits = true → e.getLsbD 10 = false → far → s.resolve a view va n k = (s1, trap .access)) ∧
        (permits = true → e.getLsbD 10 = false → ¬ far → (writes → e.getLsbD 8 = true) →
          s.resolve a view va n k = (s, .ok (.mem ((List.range n).map fun j => frame + off + j) (e.getLsbD 11)))))

/-- R133, R166 to R168, R174, R178 and R337: the frame of the instructions that break no chain and write registers only (those of classes 0,
1 and 3, CVT, NOP, YIELD and TKQUERY; not SWRITE), whatever they come to, a trap included: every byte of memory and of every stash,
every other thread, every crew, workgroup and partition and the engines are as before; of the thread's own registers only its
destination changes, of its predicates only one that its result names (V2P names them in B), and its sticky flags change for class 3 and
CVT alone, where none is cleared. -/
def Obligations.RegisterFrame : Prop :=
  ∀ (s s' : State) (t : Nat) (i : Instr) (x : Iss), s.cur = .thread t → s.issOf i = some x → x.a = aLane ∨ x.a = aFloat →
    (∀ h r b a, i ≠ .swrite h r b a) → (∀ h sc, i ≠ .fence h sc) → (∀ h a b l n e, i ≠ .prefetch h a b l n e) → exec i s = .next s' →
    s'.sameBytes s ∧ s'.mem = s.mem ∧ s'.posted = s.posted ∧ (∀ u, u ≠ t → s'.thr u = s.thr u) ∧ s'.crews = s.crews ∧ s'.wgs = s.wgs ∧
    s'.parts = s.parts ∧ s'.ops = s.ops ∧ s'.cmds = s.cmds ∧ s'.walkers = s.walkers ∧ s'.links = s.links ∧ s'.hk = s.hk ∧ s'.cyc = s.cyc ∧
    (∀ n, (∀ g ∈ x.dst.regs, n < g.1 ∨ g.1 + g.2 ≤ n) ∨ x.h.nw = true → (s'.thr t).r.v.get n = (s.thr t).r.v.get n) ∧
    (∀ q : BitVec 4, (match i with | .v2p .. => False | _ => match x.dst with | .p d => q ≠ d.setWidth 4 | _ => True) →
      (s'.thr t).r.pred q = (s.thr t).r.pred q) ∧
    (x.a = aLane → (s'.thr t).status = (s.thr t).status) ∧
    (∀ j, (s.thr t).status.getLsbD j = true → (s'.thr t).status.getLsbD j = true)

/-- R210: LOOPD, for every count: D is the count less one, and 0 from 0; while D is not 0 the target is checked first and a target that
fails writes nothing; at 0 the loop falls through and its target is not checked, so that a loop entered with a count of 0 or 1 runs
once. -/
def Obligations.LoopCounts : Prop :=
  ∀ (s : State) (h : Hdr) (a : Src) (t : Target), s.runs (.loopd h a t) = true →
    let r := s.curRegs
    let n := (r.rv a).toNat
    let D := if n = 0 then 0 else n - 1
    let T := match t with | .short o => r.pc + o.signExtend 64 * 8 | .long x => x
    let put := fun (x : Nat) => ({ r with v := if h.nw then r.v else r.v.set h.d.toNat (BitVec.ofNat 32 x), k := 0, written := 0 } : Regs)
    let tried := s.reforms.checkTarget s.curAs s.curView T
    (D ≠ 0 → tried.2 = .ok () →
      exec (.loopd h a t) s = .next (tried.1.goesOn { put D with pc := T, npc := T })) ∧
    (D ≠ 0 → ∀ c, tried.2 = .trap c → exec (.loopd h a t) s = .next (tried.1.raise c)) ∧
    (D = 0 → exec (.loopd h a t) s = .next (s.reforms.goesOn { put 0 with pc := r.npc }))

/-- R193: a pair executed by a walker whose registers no load in flight awaits. A half that is core-only ends the command with WALKER_FAULT
(0x07) where no status stands yet, and neither half takes effect: no register of any walker changes. -/
def Obligations.WalkerPairs : Prop :=
  ∀ (s : State) (w : Nat) (a b : Half), s.cur = .walker w → s.hazard (halfIss a) = false → s.hazard (halfIss b) = false →
    let coreOnly := fun (x : Half) => x.cop ∈ [Cop.fadd, .fsub, .fmul, .fmin, .fmax, .hadd2, .hmul2, .lds, .sts]
    let n := (s.wlk w).cmd
    coreOnly a ∨ coreOnly b →
    ∃ s' : State, exec (.pairWord a b) s = .next s' ∧
      (∀ c, s.cmds[n]? = some c → ∃ c', s'.cmds[n]? = some c' ∧ c'.status = (if c.status = 0 then 0x07 else c.status)) ∧
      (∀ k, (s'.wlk k).r = (s.wlk k).r ∧ ((s.wlk k).cmd = n → k < s.walkers.length → (s'.wlk k).phase = .done)) ∧
      s'.mem = s.mem ∧ s'.threads = s.threads ∧ s'.wgs = s.wgs

end Statements
end

