-- ==== Sys2Proof/Laws/Exec.lean ====
section
/-! SUPPORT. Each instruction is its meaning: one equation per arm of `exec`, so that no proof unfolds it. -/

namespace Sys2Proof.Machine

variable (s : State)
theorem exec_iadd h a b : exec (.iadd h a b) s = execIadd h a b s := rfl
theorem exec_isub h a b : exec (.isub h a b) s = execIsub h a b s := rfl
theorem exec_imul h a b : exec (.imul h a b) s = execImul h a b s := rfl
theorem exec_imulh h a b u : exec (.imulh h a b u) s = execImulh h a b u s := rfl
theorem exec_imad h a b c : exec (.imad h a b c) s = execImad h a b c s := rfl
theorem exec_idiv h a b u : exec (.idiv h a b u) s = execIdiv h a b u s := rfl
theorem exec_irem h a b u : exec (.irem h a b u) s = execIrem h a b u s := rfl
theorem exec_imin h a b u : exec (.imin h a b u) s = execImin h a b u s := rfl
theorem exec_imax h a b u : exec (.imax h a b u) s = execImax h a b u s := rfl
theorem exec_iabs h a : exec (.iabs h a) s = execIabs h a s := rfl
theorem exec_ineg h a : exec (.ineg h a) s = execIneg h a s := rfl
theorem exec_iaddsat h a b u : exec (.iaddsat h a b u) s = execIaddsat h a b u s := rfl
theorem exec_isubsat h a b u : exec (.isubsat h a b u) s = execIsubsat h a b u s := rfl
theorem exec_isad h a b u : exec (.isad h a b u) s = execIsad h a b u s := rfl
theorem exec_idot4 h a b ua ub : exec (.idot4 h a b ua ub) s = execIdot4 h a b ua ub s := rfl
theorem exec_iadd64 h a b : exec (.iadd64 h a b) s = execIadd64 h a b s := rfl
theorem exec_isub64 h a b : exec (.isub64 h a b) s = execIsub64 h a b s := rfl
theorem exec_imul64 h a b : exec (.imul64 h a b) s = execImul64 h a b s := rfl
theorem exec_imad64 h a b c : exec (.imad64 h a b c) s = execImad64 h a b c s := rfl
theorem exec_lea h a b sh u disp : exec (.lea h a b sh u disp) s = execLea h a b sh u disp s := rfl
theorem exec_movi h x : exec (.movi h x) s = execMovi h x s := rfl
theorem exec_movi64 h x : exec (.movi64 h x) s = execMovi64 h x s := rfl
theorem exec_and h a b : exec (.and h a b) s = execAnd h a b s := rfl
theorem exec_or h a b : exec (.or h a b) s = execOr h a b s := rfl
theorem exec_xor h a b : exec (.xor h a b) s = execXor h a b s := rfl
theorem exec_not h a : exec (.not h a) s = execNot h a s := rfl
theorem exec_andn h a b : exec (.andn h a b) s = execAndn h a b s := rfl
theorem exec_shl h a b : exec (.shl h a b) s = execShl h a b s := rfl
theorem exec_shr h a b : exec (.shr h a b) s = execShr h a b s := rfl
theorem exec_sar h a b : exec (.sar h a b) s = execSar h a b s := rfl
theorem exec_rot h a b r : exec (.rot h a b r) s = execRot h a b r s := rfl
theorem exec_shl64 h a b : exec (.shl64 h a b) s = execShl64 h a b s := rfl
theorem exec_shr64 h a b : exec (.shr64 h a b) s = execShr64 h a b s := rfl
theorem exec_sar64 h a b : exec (.sar64 h a b) s = execSar64 h a b s := rfl
theorem exec_popc h a : exec (.popc h a) s = execPopc h a s := rfl
theorem exec_clz h a : exec (.clz h a) s = execClz h a s := rfl
theorem exec_ctz h a : exec (.ctz h a) s = execCtz h a s := rfl
theorem exec_brev h a : exec (.brev h a) s = execBrev h a s := rfl
theorem exec_bfe h a pos len sgn : exec (.bfe h a pos len sgn) s = execBfe h a pos len sgn s := rfl
theorem exec_bfi h a b pos len : exec (.bfi h a b pos len) s = execBfi h a b pos len s := rfl
theorem exec_bysel h a b sel : exec (.bysel h a b sel) s = execBysel h a b sel s := rfl
theorem exec_icmp h a b cond u comb : exec (.icmp h a b cond u comb) s = execIcmp h a b cond u comb s := rfl
theorem exec_icmp64 h a b cond u comb : exec (.icmp64 h a b cond u comb) s = execIcmp64 h a b cond u comb s := rfl
theorem exec_plog h pa pb lut : exec (.plog h pa pb lut) s = execPlog h pa pb lut s := rfl
theorem exec_mov h a : exec (.mov h a) s = execMov h a s := rfl
theorem exec_mov64 h a : exec (.mov64 h a) s = execMov64 h a s := rfl
theorem exec_sel h a b q neg : exec (.sel h a b q neg) s = execSel h a b q neg s := rfl
theorem exec_p2v h : exec (.p2v h) s = execP2v h s := rfl
theorem exec_v2p h a b : exec (.v2p h a b) s = execV2p h a b s := rfl
theorem exec_sread h r b64 : exec (.sread h r b64) s = execSread h r b64 s := rfl
theorem exec_swrite h r b64 a : exec (.swrite h r b64 a) s = execSwrite h r b64 a s := rfl
theorem exec_bra h t : exec (.bra h t) s = execBra h t s := rfl
theorem exec_brx h a : exec (.brx h a) s = execBrx h a s := rfl
theorem exec_call h t : exec (.call h t) s = execCall h t s := rfl
theorem exec_callx h a : exec (.callx h a) s = execCallx h a s := rfl
theorem exec_ret h a : exec (.ret h a) s = execRet h a s := rfl
theorem exec_exit h : exec (.exit h) s = execExit h s := rfl
theorem exec_nop h : exec (.nop h) s = execNop h s := rfl
theorem exec_yield h : exec (.yield h) s = execYield h s := rfl
theorem exec_elect h : exec (.elect h) s = execElect h s := rfl
theorem exec_wake h : exec (.wake h) s = execWake h s := rfl
theorem exec_cbar h : exec (.cbar h) s = execCbar h s := rfl
theorem exec_wgbar h : exec (.wgbar h) s = execWgbar h s := rfl
theorem exec_tilebar h : exec (.tilebar h) s = execTilebar h s := rfl
theorem exec_vote h q neg mode : exec (.vote h q neg mode) s = execVote h q neg mode s := rfl
theorem exec_assert h q neg a : exec (.assert h q neg a) s = execAssert h q neg a s := rfl
theorem exec_brk h code : exec (.brk h code) s = execBrk h code s := rfl
theorem exec_trap h code a : exec (.trap h code a) s = execTrap h code a s := rfl
theorem exec_sleepuntil h a : exec (.sleepuntil h a) s = execSleepuntil h a s := rfl
theorem exec_loopd h a t : exec (.loopd h a t) s = execLoopd h a t s := rfl
theorem exec_launch h a b : exec (.launch h a b) s = execLaunch h a b s := rfl
theorem exec_fadd h a b rm : exec (.fadd h a b rm) s = execFadd h a b rm s := rfl
theorem exec_fsub h a b rm : exec (.fsub h a b rm) s = execFsub h a b rm s := rfl
theorem exec_fmul h a b rm : exec (.fmul h a b rm) s = execFmul h a b rm s := rfl
theorem exec_ffma h a b c : exec (.ffma h a b c) s = execFfma h a b c s := rfl
theorem exec_fmin h a b nanp : exec (.fmin h a b nanp) s = execFmin h a b nanp s := rfl
theorem exec_fmax h a b nanp : exec (.fmax h a b nanp) s = execFmax h a b nanp s := rfl
theorem exec_fabs h a : exec (.fabs h a) s = execFabs h a s := rfl
theorem exec_fneg h a : exec (.fneg h a) s = execFneg h a s := rfl
theorem exec_fcmp h a b cond comb : exec (.fcmp h a b cond comb) s = execFcmp h a b cond comb s := rfl
theorem exec_frcp h a rm : exec (.frcp h a rm) s = execFrcp h a rm s := rfl
theorem exec_frsq h a rm : exec (.frsq h a rm) s = execFrsq h a rm s := rfl
theorem exec_fsqrt h a rm : exec (.fsqrt h a rm) s = execFsqrt h a rm s := rfl
theorem exec_fdiv h a b rm : exec (.fdiv h a b rm) s = execFdiv h a b rm s := rfl
theorem exec_fexp2 h a rm : exec (.fexp2 h a rm) s = execFexp2 h a rm s := rfl
theorem exec_flog2 h a rm : exec (.flog2 h a rm) s = execFlog2 h a rm s := rfl
theorem exec_fclass h a : exec (.fclass h a) s = execFclass h a s := rfl
theorem exec_hadd2 h a b f16 rm : exec (.hadd2 h a b f16 rm) s = execHadd2 h a b f16 rm s := rfl
theorem exec_hmul2 h a b f16 rm : exec (.hmul2 h a b f16 rm) s = execHmul2 h a b f16 rm s := rfl
theorem exec_hfma2 h a b f16 rm : exec (.hfma2 h a b f16 rm) s = execHfma2 h a b f16 rm s := rfl
theorem exec_hminmax2 h a b f16 max nanp : exec (.hminmax2 h a b f16 max nanp) s = execHminmax2 h a b f16 max nanp s := rfl
theorem exec_fdot2 h a b f16 rm : exec (.fdot2 h a b f16 rm) s = execFdot2 h a b f16 rm s := rfl
theorem exec_cvt h a src dst rm sat : exec (.cvt h a src dst rm sat) s = execCvt h a src dst rm sat s := rfl
theorem exec_packbfp h a bfp4 : exec (.packbfp h a bfp4) s = execPackbfp h a bfp4 s := rfl
theorem exec_unpackbfp h a bfp4 : exec (.unpackbfp h a bfp4) s = execUnpackbfp h a bfp4 s := rfl
theorem exec_hadam h a h16 : exec (.hadam h a h16) s = execHadam h a h16 s := rfl
theorem exec_shfl h a b mode lg b64 : exec (.shfl h a b mode lg b64) s = execShfl h a b mode lg b64 s := rfl
theorem exec_bcast h a t b64 : exec (.bcast h a t b64) s = execBcast h a t b64 s := rfl
theorem exec_redux h a op ty rm : exec (.redux h a op ty rm) s = execRedux h a op ty rm s := rfl
theorem exec_scan h a op ty rm excl : exec (.scan h a op ty rm excl) s = execScan h a op ty rm excl s := rfl
theorem exec_matchv h a all b64 : exec (.matchv h a all b64) s = execMatchv h a all b64 s := rfl
theorem exec_ld h a b m : exec (.ld h a b m) s = execLd h a b m s := rfl
theorem exec_st h a b m : exec (.st h a b m) s = execSt h a b m s := rfl
theorem exec_lda h a b m : exec (.lda h a b m) s = execLda h a b m s := rfl
theorem exec_strel h a b m : exec (.strel h a b m) s = execStrel h a b m s := rfl
theorem exec_lds h a b w : exec (.lds h a b w) s = execLds h a b w s := rfl
theorem exec_sts h a b w off : exec (.sts h a b w off) s = execSts h a b w off s := rfl
theorem exec_ldx h a b sn bfp4 : exec (.ldx h a b sn bfp4) s = execLdx h a b sn bfp4 s := rfl
theorem exec_prefetch h a b l2 n1 ext : exec (.prefetch h a b l2 n1 ext) s = execPrefetch h a b l2 n1 ext s := rfl
theorem exec_smap h a : exec (.smap h a) s = execSmap h a s := rfl
theorem exec_sunmap h a : exec (.sunmap h a) s = execSunmap h a s := rfl
theorem exec_sflush h a b all : exec (.sflush h a b all) s = execSflush h a b all s := rfl
theorem exec_sinv h a b all : exec (.sinv h a b all) s = execSinv h a b all s := rfl
theorem exec_cctl h a b op : exec (.cctl h a b op) s = execCctl h a b op s := rfl
theorem exec_atom h a b m : exec (.atom h a b m) s = execAtom h a b m s := rfl
theorem exec_cas h a b b64 order scope : exec (.cas h a b b64 order scope) s = execCas h a b b64 order scope s := rfl
theorem exec_satom h a b m : exec (.satom h a b m) s = execSatom h a b m s := rfl
theorem exec_red h a b m : exec (.red h a b m) s = execRed h a b m s := rfl
theorem exec_fence h scope : exec (.fence h scope) s = execFence h scope s := rfl
theorem exec_opwait h a b : exec (.opwait h a b) s = execOpwait h a b s := rfl
theorem exec_boadd h a b scope : exec (.boadd h a b scope) s = execBoadd h a b scope s := rfl
theorem exec_waitge h a b scope dl n : exec (.waitge h a b scope dl n) s = execWaitge h a b scope dl n s := rfl
theorem exec_pwait h a exact : exec (.pwait h a exact) s = execPwait h a exact s := rfl
theorem exec_rld h a w acq : exec (.rld h a w acq) s = execRld h a w acq s := rfl
theorem exec_rst h a b w rel stream : exec (.rst h a b w rel stream) s = execRst h a b w rel stream s := rfl
theorem exec_ratom h a b op ty order stream post : exec (.ratom h a b op ty order stream post) s = execRatom h a b op ty order stream post s := rfl
theorem exec_rcas h a b ty order : exec (.rcas h a b ty order) s = execRcas h a b ty order s := rfl
theorem exec_rboadd h a b stream : exec (.rboadd h a b stream) s = execRboadd h a b stream s := rfl
theorem exec_tkwait h : exec (.tkwait h) s = execTkwait h s := rfl
theorem exec_tkquery h : exec (.tkquery h) s = execTkquery h s := rfl
theorem exec_topkred h a b stream : exec (.topkred h a b stream) s = execTopkred h a b stream s := rfl
theorem exec_gang h a n : exec (.gang h a n) s = execGang h a n s := rfl
theorem exec_mfmt h afmt op : exec (.mfmt h afmt op) s = execMfmt h afmt op s := rfl
theorem exec_dptab h a k : exec (.dptab h a k) s = execDptab h a k s := rfl
theorem exec_mwload h a b coded bfmt stream : exec (.mwload h a b coded bfmt stream) s = execMwload h a b coded bfmt stream s := rfl
theorem exec_mma h a b k ovr : exec (.mma h a b k ovr) s = execMma h a b k ovr s := rfl
theorem exec_mmaw h a b k ovr : exec (.mmaw h a b k ovr) s = execMmaw h a b k ovr s := rfl
theorem exec_talloc h a k s32 : exec (.talloc h a k s32) s = execTalloc h a k s32 s := rfl
theorem exec_tfree h k : exec (.tfree h k) s = execTfree h k s := rfl
theorem exec_town h a b k : exec (.town h a b k) s = execTown h a b k s := rfl
theorem exec_tzero h a b k : exec (.tzero h a b k) s = execTzero h a b k s := rfl
theorem exec_tread h a k : exec (.tread h a k) s = execTread h a k s := rfl
theorem exec_twrite h a b k : exec (.twrite h a b k) s = execTwrite h a b k s := rfl
theorem exec_tdrain h a b k fmt tr clr : exec (.tdrain h a b k fmt tr clr) s = execTdrain h a b k fmt tr clr s := rfl
theorem exec_tstat h k : exec (.tstat h k) s = execTstat h k s := rfl
theorem exec_copy h a b m : exec (.copy h a b m) s = execCopy h a b m s := rfl
theorem exec_copyt h a b m : exec (.copyt h a b m) s = execCopyt h a b m s := rfl
theorem exec_cbload h a b : exec (.cbload h a b) s = execCbload h a b s := rfl
theorem exec_cbcopy h a b m : exec (.cbcopy h a b m) s = execCbcopy h a b m s := rfl
theorem exec_cdec h a b m : exec (.cdec h a b m) s = execCdec h a b m s := rfl
theorem exec_gather h a b m : exec (.gather h a b m) s = execGather h a b m s := rfl
theorem exec_scatter h a b m : exec (.scatter h a b m) s = execScatter h a b m s := rfl
theorem exec_zfill h a b m : exec (.zfill h a b m) s = execZfill h a b m s := rfl
theorem exec_cpq h : exec (.cpq h) s = execCpq h s := rfl
theorem exec_search h a m : exec (.search h a m) s = execSearch h a m s := rfl
theorem exec_nbscan h a m : exec (.nbscan h a m) s = execNbscan h a m s := rfl
theorem exec_nbrowcopy h a m : exec (.nbrowcopy h a m) s = execNbrowcopy h a m s := rfl
theorem exec_nbrowzero h a m : exec (.nbrowzero h a m) s = execNbrowzero h a m s := rfl
theorem exec_vpublish h a : exec (.vpublish h a) s = execVpublish h a s := rfl
theorem exec_vsnap h a : exec (.vsnap h a) s = execVsnap h a s := rfl
theorem exec_bquery h a : exec (.bquery h a) s = execBquery h a s := rfl
theorem exec_wdist h a q : exec (.wdist h a q) s = execWdist h a q s := rfl
theorem exec_wheap h a b : exec (.wheap h a b) s = execWheap h a b s := rfl
theorem exec_wnbrs h a b m : exec (.wnbrs h a b m) s = execWnbrs h a b m s := rfl
theorem exec_wvisit h a : exec (.wvisit h a) s = execWvisit h a s := rfl
theorem exec_whop h a b node : exec (.whop h a b node) s = execWhop h a b node s := rfl
theorem exec_wspawn h b off : exec (.wspawn h b off) s = execWspawn h b off s := rfl
theorem exec_wdone h : exec (.wdone h) s = execWdone h s := rfl
theorem exec_sret h a b act pc : exec (.sret h a b act pc) s = execSret h a b act pc s := rfl
theorem exec_sysrd h a reg : exec (.sysrd h a reg) s = execSysrd h a reg s := rfl
theorem exec_syswr h a b reg : exec (.syswr h a b reg) s = execSyswr h a b reg s := rfl
theorem exec_ctxsave h a b : exec (.ctxsave h a b) s = execCtxsave h a b s := rfl
theorem exec_ctxload h a b : exec (.ctxload h a b) s = execCtxload h a b s := rfl
theorem exec_tlbinv h a b mode : exec (.tlbinv h a b mode) s = execTlbinv h a b mode s := rfl
theorem exec_preempt h a b : exec (.preempt h a b) s = execPreempt h a b s := rfl
theorem exec_wgkill h a scope : exec (.wgkill h a scope) s = execWgkill h a scope s := rfl
theorem exec_lease h a rel : exec (.lease h a rel) s = execLease h a rel s := rfl
theorem exec_pgmig h a : exec (.pgmig h a) s = execPgmig h a s := rfl
theorem exec_tkpost h a abort : exec (.tkpost h a abort) s = execTkpost h a abort s := rfl
theorem exec_halt h code : exec (.halt h code) s = execHalt h code s := rfl
theorem exec_pairWord ha hb : exec (.pairWord ha hb) s = execPairWord ha hb s := rfl
theorem exec_unassignedOpcode w half : exec (.unassignedOpcode w half) s = execUnassignedOpcode w half s := rfl
theorem exec_periodicReform core quad : exec (.periodicReform core quad) s = execPeriodicReform core quad s := rfl
theorem exec_bundleUrgent core quad b : exec (.bundleUrgent core quad b) s = execBundleUrgent core quad b s := rfl
theorem exec_timer crew : exec (.timer crew) s = execTimer crew s := rfl
theorem exec_waitgeReread thread : exec (.waitgeReread thread) s = execWaitgeReread thread s := rfl
theorem exec_waitgeDeadline thread : exec (.waitgeDeadline thread) s = execWaitgeDeadline thread s := rfl
theorem exec_sleepuntilDeadline thread : exec (.sleepuntilDeadline thread) s = execSleepuntilDeadline thread s := rfl
theorem exec_promiseMissed thread : exec (.promiseMissed thread) s = execPromiseMissed thread s := rfl
theorem exec_asyncTrapDelivery thread : exec (.asyncTrapDelivery thread) s = execAsyncTrapDelivery thread s := rfl
theorem exec_trapRecordWrite core slot : exec (.trapRecordWrite core slot) s = execTrapRecordWrite core slot s := rfl
theorem exec_serviceRecordWrite part : exec (.serviceRecordWrite part) s = execServiceRecordWrite part s := rfl
theorem exec_launchRecordTake part q : exec (.launchRecordTake part q) s = execLaunchRecordTake part q s := rfl
theorem exec_dependenceRetest launch : exec (.dependenceRetest launch) s = execDependenceRetest launch s := rfl
theorem exec_leaseRetry launch : exec (.leaseRetry launch) s = execLeaseRetry launch s := rfl
theorem exec_workgroupDistribution launch : exec (.workgroupDistribution launch) s = execWorkgroupDistribution launch s := rfl
theorem exec_workgroupActivation core : exec (.workgroupActivation core) s = execWorkgroupActivation core s := rfl
theorem exec_workgroupPark core : exec (.workgroupPark core) s = execWorkgroupPark core s := rfl
theorem exec_forcedPark core : exec (.forcedPark core) s = execForcedPark core s := rfl
theorem exec_activationBlock wg : exec (.activationBlock wg) s = execActivationBlock wg s := rfl
theorem exec_carveWaitExpiry core : exec (.carveWaitExpiry core) s = execCarveWaitExpiry core s := rfl
theorem exec_carveChange core : exec (.carveChange core) s = execCarveChange core s := rfl
theorem exec_workgroupExit wg : exec (.workgroupExit wg) s = execWorkgroupExit wg s := rfl
theorem exec_launchComplete launch : exec (.launchComplete launch) s = execLaunchComplete launch s := rfl
theorem exec_engineOperationStart op : exec (.engineOperationStart op) s = execEngineOperationStart op s := rfl
theorem exec_engineOperationComplete op : exec (.engineOperationComplete op) s = execEngineOperationComplete op s := rfl
theorem exec_engineOperationHeld op : exec (.engineOperationHeld op) s = execEngineOperationHeld op s := rfl
theorem exec_jointOperationPost joint : exec (.jointOperationPost joint) s = execJointOperationPost joint s := rfl
theorem exec_entryAged joint : exec (.entryAged joint) s = execEntryAged joint s := rfl
theorem exec_passGrant cluster : exec (.passGrant cluster) s = execPassGrant cluster s := rfl
theorem exec_passComplete cluster : exec (.passComplete cluster) s = execPassComplete cluster s := rfl
theorem exec_tileLatch tile : exec (.tileLatch tile) s = execTileLatch tile s := rfl
theorem exec_tileFetchHeld tile : exec (.tileFetchHeld tile) s = execTileFetchHeld tile s := rfl
theorem exec_tdrainComplete op : exec (.tdrainComplete op) s = execTdrainComplete op s := rfl
theorem exec_tarnBankCleared core bank : exec (.tarnBankCleared core bank) s = execTarnBankCleared core bank s := rfl
theorem exec_tarnRelease core base : exec (.tarnRelease core base) s = execTarnRelease core base s := rfl
theorem exec_basinCommandStart cmd : exec (.basinCommandStart cmd) s = execBasinCommandStart cmd s := rfl
theorem exec_searchForward cmd : exec (.searchForward cmd) s = execSearchForward cmd s := rfl
theorem exec_walkerHopArrival walker : exec (.walkerHopArrival walker) s = execWalkerHopArrival walker s := rfl
theorem exec_walkerChildStart walker : exec (.walkerChildStart walker) s = execWalkerChildStart walker s := rfl
theorem exec_heapOffer cmd : exec (.heapOffer cmd) s = execHeapOffer cmd s := rfl
theorem exec_basinCommandComplete cmd : exec (.basinCommandComplete cmd) s = execBasinCommandComplete cmd s := rfl
theorem exec_basinCommandTimeout cmd : exec (.basinCommandTimeout cmd) s = execBasinCommandTimeout cmd s := rfl
theorem exec_remoteAccessArrival pkt : exec (.remoteAccessArrival pkt) s = execRemoteAccessArrival pkt s := rfl
theorem exec_remoteReply acc out : exec (.remoteReply acc out) s = execRemoteReply acc out s := rfl
theorem exec_ticketReceived acc tkid : exec (.ticketReceived acc tkid) s = execTicketReceived acc tkid s := rfl
theorem exec_replayNotice owner tkid : exec (.replayNotice owner tkid) s = execReplayNotice owner tkid s := rfl
theorem exec_ticketAbort acc tkid : exec (.ticketAbort acc tkid) s = execTicketAbort acc tkid s := rfl
theorem exec_replayRecordRelease src acc : exec (.replayRecordRelease src acc) s = execReplayRecordRelease src acc s := rfl
theorem exec_abortAcknowledgement tkid : exec (.abortAcknowledgement tkid) s = execAbortAcknowledgement tkid s := rfl
theorem exec_topkredContribution k : exec (.topkredContribution k) s = execTopkredContribution k s := rfl
theorem exec_contextStopped part ctx : exec (.contextStopped part ctx) s = execContextStopped part ctx s := rfl
theorem exec_ctxsaveComplete part ctx : exec (.ctxsaveComplete part ctx) s = execCtxsaveComplete part ctx s := rfl
theorem exec_ctxloadRestore part ctx : exec (.ctxloadRestore part ctx) s = execCtxloadRestore part ctx s := rfl
theorem exec_handoverLapse : exec (.handoverLapse) s = execHandoverLapse s := rfl
theorem exec_firmwareSwitch : exec (.firmwareSwitch) s = execFirmwareSwitch s := rfl
theorem exec_slotRoundBoundary stack chan : exec (.slotRoundBoundary stack chan) s = execSlotRoundBoundary stack chan s := rfl
theorem exec_dataReturn load : exec (.dataReturn load) s = execDataReturn load s := rfl
theorem exec_translationCheckDone thread : exec (.translationCheckDone thread) s = execTranslationCheckDone thread s := rfl
theorem exec_writePerformed w : exec (.writePerformed w) s = execWritePerformed w s := rfl
theorem exec_invalidationAcknowledged i : exec (.invalidationAcknowledged i) s = execInvalidationAcknowledged i s := rfl
theorem exec_migrationSwitchEnd i : exec (.migrationSwitchEnd i) s = execMigrationSwitchEnd i s := rfl
theorem exec_twinWrite part val : exec (.twinWrite part val) s = execTwinWrite part val s := rfl
theorem exec_trapWindowWrite part reg idx val : exec (.trapWindowWrite part reg idx val) s = execTrapWindowWrite part reg idx val s := rfl
theorem exec_xlockCfgWrite part val : exec (.xlockCfgWrite part val) s = execXlockCfgWrite part val s := rfl
theorem exec_schedXlockWrite part val : exec (.schedXlockWrite part val) s = execSchedXlockWrite part val s := rfl
theorem exec_tqCfgWrite part val : exec (.tqCfgWrite part val) s = execTqCfgWrite part val s := rfl
theorem exec_lqCfgWrite part q val : exec (.lqCfgWrite part q val) s = execLqCfgWrite part q val s := rfl
theorem exec_lqBaseWrite part q val : exec (.lqBaseWrite part q val) s = execLqBaseWrite part q val s := rfl
theorem exec_aperCfgWrite part i val : exec (.aperCfgWrite part i val) s = execAperCfgWrite part i val s := rfl
theorem exec_ctxRootWrite part ctx val : exec (.ctxRootWrite part ctx val) s = execCtxRootWrite part ctx val s := rfl
theorem exec_numcfgWrite part val : exec (.numcfgWrite part val) s = execNumcfgWrite part val s := rfl
theorem exec_phcAdjWrite val : exec (.phcAdjWrite val) s = execPhcAdjWrite val s := rfl
theorem exec_spsCfgWrite part i val : exec (.spsCfgWrite part i val) s = execSpsCfgWrite part i val s := rfl
theorem exec_memCfgWrite part val : exec (.memCfgWrite part val) s = execMemCfgWrite part val s := rfl
theorem exec_systemRegisterWrite part reg idx val : exec (.systemRegisterWrite part reg idx val) s = execSystemRegisterWrite part reg idx val s := rfl
theorem exec_mbReqWrite w : exec (.mbReqWrite w) s = execMbReqWrite w s := rfl
theorem exec_workgroupSteal wg core : exec (.workgroupSteal wg core) s = execWorkgroupSteal wg core s := rfl
theorem exec_engineOperationSteal op core : exec (.engineOperationSteal op core) s = execEngineOperationSteal op core s := rfl
theorem exec_walkerSteal walker engine : exec (.walkerSteal walker engine) s = execWalkerSteal walker engine s := rfl
theorem exec_registrationEviction line : exec (.registrationEviction line) s = execRegistrationEviction line s := rfl
theorem exec_fabricError acc : exec (.fabricError acc) s = execFabricError acc s := rfl
theorem exec_frameReceived port bytes fcsOk : exec (.frameReceived port bytes fcsOk) s = execFrameReceived port bytes fcsOk s := rfl
theorem exec_cxlMemRead off n : exec (.cxlMemRead off n) s = execCxlMemRead off n s := rfl
theorem exec_cxlMemWrite off bytes poison : exec (.cxlMemWrite off bytes poison) s = execCxlMemWrite off bytes poison s := rfl
theorem exec_msixSignal vec : exec (.msixSignal vec) s = execMsixSignal vec s := rfl
theorem exec_beatReceived stack up seq crcOk : exec (.beatReceived stack up seq crcOk) s = execBeatReceived stack up seq crcOk s := rfl
theorem exec_basinLinkRetrain stack ok : exec (.basinLinkRetrain stack ok) s = execBasinLinkRetrain stack ok s := rfl
theorem exec_flitReceived link f : exec (.flitReceived link f) s = execFlitReceived link f s := rfl
theorem exec_retryRequest link seq : exec (.retryRequest link seq) s = execRetryRequest link seq s := rfl
theorem exec_reinLinkRetrain link ok : exec (.reinLinkRetrain link ok) s = execReinLinkRetrain link ok s := rfl
theorem exec_flitCounterRekey link : exec (.flitCounterRekey link) s = execFlitCounterRekey link s := rfl
theorem exec_escapeChannelMove pkt : exec (.escapeChannelMove pkt) s = execEscapeChannelMove pkt s := rfl
theorem exec_getVersion claimant : exec (.getVersion claimant) s = execGetVersion claimant s := rfl
theorem exec_getCapabilities claimant : exec (.getCapabilities claimant) s = execGetCapabilities claimant s := rfl
theorem exec_negotiateAlgorithms claimant : exec (.negotiateAlgorithms claimant) s = execNegotiateAlgorithms claimant s := rfl
theorem exec_getDigests claimant : exec (.getDigests claimant) s = execGetDigests claimant s := rfl
theorem exec_getCertificate claimant : exec (.getCertificate claimant) s = execGetCertificate claimant s := rfl
theorem exec_challenge claimant nonce : exec (.challenge claimant nonce) s = execChallenge claimant nonce s := rfl
theorem exec_getMeasurements claimant index : exec (.getMeasurements claimant index) s = execGetMeasurements claimant index s := rfl
theorem exec_keyExchange claimant : exec (.keyExchange claimant) s = execKeyExchange claimant s := rfl
theorem exec_keyUpdate link : exec (.keyUpdate link) s = execKeyUpdate link s := rfl
theorem exec_claim claimant h : exec (.claim claimant h) s = execClaim claimant h s := rfl
theorem exec_handover claimant succ h : exec (.handover claimant succ h) s = execHandover claimant succ h s := rfl
theorem exec_setPartition claimant p px py pa pb en h : exec (.setPartition claimant p px py pa pb en h) s = execSetPartition claimant p px py pa pb en h s := rfl
theorem exec_setSlots claimant stack chan slots h : exec (.setSlots claimant stack chan slots h) s = execSetSlots claimant stack chan slots h s := rfl
theorem exec_setHost claimant part base len h : exec (.setHost claimant part base len h) s = execSetHost claimant part base len h s := rfl
theorem exec_setStream claimant port stream part h : exec (.setStream claimant port stream part h) s = execSetStream claimant port stream part h s := rfl
theorem exec_setRein claimant pkg links h : exec (.setRein claimant pkg links h) s = execSetRein claimant pkg links h s := rfl
theorem exec_imageWrite claimant off bytes h : exec (.imageWrite claimant off bytes h) s = execImageWrite claimant off bytes h s := rfl
theorem exec_imageActivate claimant h : exec (.imageActivate claimant h) s = execImageActivate claimant h s := rfl
theorem exec_firmwareSelfTestFail : exec (.firmwareSelfTestFail) s = execFirmwareSelfTestFail s := rfl
theorem exec_rekey claimant link h : exec (.rekey claimant link h) s = execRekey claimant link h s := rfl
theorem exec_setMsix claimant vec pa en h : exec (.setMsix claimant vec pa en h) s = execSetMsix claimant vec pa en h s := rfl
theorem exec_resetPartition claimant p h : exec (.resetPartition claimant p h) s = execResetPartition claimant p h s := rfl
theorem exec_resetPackage claimant h : exec (.resetPackage claimant h) s = execResetPackage claimant h s := rfl
theorem exec_packageReset failStep failed : exec (.packageReset failStep failed) s = execPackageReset failStep failed s := rfl
theorem exec_patrolScrub stack line : exec (.patrolScrub stack line) s = execPatrolScrub stack line s := rfl
theorem exec_channelSlotAllocation stack chan pending : exec (.channelSlotAllocation stack chan pending) s = execChannelSlotAllocation stack chan pending s := rfl
theorem exec_powerThrottle watts step basin : exec (.powerThrottle watts step basin) s = execPowerThrottle watts step basin s := rfl
theorem exec_flitCounterExhausted link : exec (.flitCounterExhausted link) s = execFlitCounterExhausted link s := rfl

end Sys2Proof.Machine
end

