-- ==== Sys2Proof/Laws/State.lean ====
section
/-! SUPPORT. What each update of a record of the state leaves in each field: one lemma per field per update, true by rfl. -/

namespace Sys2Proof.Machine

variable (s : State) (n : Nat)

@[simp] theorem State.updThr_cyc (f : Thread → Thread) : (s.updThr n f).cyc = s.cyc := rfl
@[simp] theorem State.updThr_mem (f : Thread → Thread) : (s.updThr n f).mem = s.mem := rfl
@[simp] theorem State.updThr_poison (f : Thread → Thread) : (s.updThr n f).poison = s.poison := rfl
@[simp] theorem State.updThr_arrayErr (f : Thread → Thread) : (s.updThr n f).arrayErr = s.arrayErr := rfl
@[simp] theorem State.updThr_posted (f : Thread → Thread) : (s.updThr n f).posted = s.posted := rfl
@[simp] theorem State.updThr_loads (f : Thread → Thread) : (s.updThr n f).loads = s.loads := rfl
@[simp] theorem State.updThr_tlb (f : Thread → Thread) : (s.updThr n f).tlb = s.tlb := rfl
@[simp] theorem State.updThr_tlbGen (f : Thread → Thread) : (s.updThr n f).tlbGen = s.tlbGen := rfl
@[simp] theorem State.updThr_tlbinvs (f : Thread → Thread) : (s.updThr n f).tlbinvs = s.tlbinvs := rfl
@[simp] theorem State.updThr_migs (f : Thread → Thread) : (s.updThr n f).migs = s.migs := rfl
@[simp] theorem State.updThr_migWait (f : Thread → Thread) : (s.updThr n f).migWait = s.migWait := rfl
@[simp] theorem State.updThr_wvc (f : Thread → Thread) : (s.updThr n f).wvc = s.wvc := rfl
@[simp] theorem State.updThr_threads (f : Thread → Thread) : (s.updThr n f).threads = s.threads.modify n f := rfl
@[simp] theorem State.updThr_crews (f : Thread → Thread) : (s.updThr n f).crews = s.crews := rfl
@[simp] theorem State.updThr_wgs (f : Thread → Thread) : (s.updThr n f).wgs = s.wgs := rfl
@[simp] theorem State.updThr_launches (f : Thread → Thread) : (s.updThr n f).launches = s.launches := rfl
@[simp] theorem State.updThr_bundles (f : Thread → Thread) : (s.updThr n f).bundles = s.bundles := rfl
@[simp] theorem State.updThr_reform (f : Thread → Thread) : (s.updThr n f).reform = s.reform := rfl
@[simp] theorem State.updThr_ops (f : Thread → Thread) : (s.updThr n f).ops = s.ops := rfl
@[simp] theorem State.updThr_joints (f : Thread → Thread) : (s.updThr n f).joints = s.joints := rfl
@[simp] theorem State.updThr_tiles (f : Thread → Thread) : (s.updThr n f).tiles = s.tiles := rfl
@[simp] theorem State.updThr_accs (f : Thread → Thread) : (s.updThr n f).accs = s.accs := rfl
@[simp] theorem State.updThr_clusters (f : Thread → Thread) : (s.updThr n f).clusters = s.clusters := rfl
@[simp] theorem State.updThr_walkers (f : Thread → Thread) : (s.updThr n f).walkers = s.walkers := rfl
@[simp] theorem State.updThr_cmds (f : Thread → Thread) : (s.updThr n f).cmds = s.cmds := rfl
@[simp] theorem State.updThr_racc (f : Thread → Thread) : (s.updThr n f).racc = s.racc := rfl
@[simp] theorem State.updThr_tkCount (f : Thread → Thread) : (s.updThr n f).tkCount = s.tkCount := rfl
@[simp] theorem State.updThr_noticed (f : Thread → Thread) : (s.updThr n f).noticed = s.noticed := rfl
@[simp] theorem State.updThr_fabric (f : Thread → Thread) : (s.updThr n f).fabric = s.fabric := rfl
@[simp] theorem State.updThr_outbox (f : Thread → Thread) : (s.updThr n f).outbox = s.outbox := rfl
@[simp] theorem State.updThr_shadows (f : Thread → Thread) : (s.updThr n f).shadows = s.shadows := rfl
@[simp] theorem State.updThr_tickets (f : Thread → Thread) : (s.updThr n f).tickets = s.tickets := rfl
@[simp] theorem State.updThr_tkNext (f : Thread → Thread) : (s.updThr n f).tkNext = s.tkNext := rfl
@[simp] theorem State.updThr_tkWait (f : Thread → Thread) : (s.updThr n f).tkWait = s.tkWait := rfl
@[simp] theorem State.updThr_rounds (f : Thread → Thread) : (s.updThr n f).rounds = s.rounds := rfl
@[simp] theorem State.updThr_noGroups (f : Thread → Thread) : (s.updThr n f).noGroups = s.noGroups := rfl
@[simp] theorem State.updThr_parts (f : Thread → Thread) : (s.updThr n f).parts = s.parts := rfl
@[simp] theorem State.updThr_cores (f : Thread → Thread) : (s.updThr n f).cores = s.cores := rfl
@[simp] theorem State.updThr_stks (f : Thread → Thread) : (s.updThr n f).stks = s.stks := rfl
@[simp] theorem State.updThr_scrubPeriod (f : Thread → Thread) : (s.updThr n f).scrubPeriod = s.scrubPeriod := rfl
@[simp] theorem State.updThr_scrubPasses (f : Thread → Thread) : (s.updThr n f).scrubPasses = s.scrubPasses := rfl
@[simp] theorem State.updThr_patrol (f : Thread → Thread) : (s.updThr n f).patrol = s.patrol := rfl
@[simp] theorem State.updThr_patrolFrom (f : Thread → Thread) : (s.updThr n f).patrolFrom = s.patrolFrom := rfl
@[simp] theorem State.updThr_portWait (f : Thread → Thread) : (s.updThr n f).portWait = s.portWait := rfl
@[simp] theorem State.updThr_links (f : Thread → Thread) : (s.updThr n f).links = s.links := rfl
@[simp] theorem State.updThr_hk (f : Thread → Thread) : (s.updThr n f).hk = s.hk := rfl
@[simp] theorem State.updThr_cur (f : Thread → Thread) : (s.updThr n f).cur = s.cur := rfl
@[simp] theorem State.updThr_issue (f : Thread → Thread) : (s.updThr n f).issue = s.issue := rfl
@[simp] theorem State.updThr_agenda (f : Thread → Thread) : (s.updThr n f).agenda = s.agenda := rfl
@[simp] theorem State.updThr_turn (f : Thread → Thread) : (s.updThr n f).turn = s.turn := rfl
@[simp] theorem State.updThr_free (f : Thread → Thread) : (s.updThr n f).free = s.free := rfl

@[simp] theorem State.updCrew_cyc (f : Crew → Crew) : (s.updCrew n f).cyc = s.cyc := rfl
@[simp] theorem State.updCrew_mem (f : Crew → Crew) : (s.updCrew n f).mem = s.mem := rfl
@[simp] theorem State.updCrew_poison (f : Crew → Crew) : (s.updCrew n f).poison = s.poison := rfl
@[simp] theorem State.updCrew_arrayErr (f : Crew → Crew) : (s.updCrew n f).arrayErr = s.arrayErr := rfl
@[simp] theorem State.updCrew_posted (f : Crew → Crew) : (s.updCrew n f).posted = s.posted := rfl
@[simp] theorem State.updCrew_loads (f : Crew → Crew) : (s.updCrew n f).loads = s.loads := rfl
@[simp] theorem State.updCrew_tlb (f : Crew → Crew) : (s.updCrew n f).tlb = s.tlb := rfl
@[simp] theorem State.updCrew_tlbGen (f : Crew → Crew) : (s.updCrew n f).tlbGen = s.tlbGen := rfl
@[simp] theorem State.updCrew_tlbinvs (f : Crew → Crew) : (s.updCrew n f).tlbinvs = s.tlbinvs := rfl
@[simp] theorem State.updCrew_migs (f : Crew → Crew) : (s.updCrew n f).migs = s.migs := rfl
@[simp] theorem State.updCrew_migWait (f : Crew → Crew) : (s.updCrew n f).migWait = s.migWait := rfl
@[simp] theorem State.updCrew_wvc (f : Crew → Crew) : (s.updCrew n f).wvc = s.wvc := rfl
@[simp] theorem State.updCrew_threads (f : Crew → Crew) : (s.updCrew n f).threads = s.threads := rfl
@[simp] theorem State.updCrew_crews (f : Crew → Crew) : (s.updCrew n f).crews = s.crews.modify n f := rfl
@[simp] theorem State.updCrew_wgs (f : Crew → Crew) : (s.updCrew n f).wgs = s.wgs := rfl
@[simp] theorem State.updCrew_launches (f : Crew → Crew) : (s.updCrew n f).launches = s.launches := rfl
@[simp] theorem State.updCrew_bundles (f : Crew → Crew) : (s.updCrew n f).bundles = s.bundles := rfl
@[simp] theorem State.updCrew_reform (f : Crew → Crew) : (s.updCrew n f).reform = s.reform := rfl
@[simp] theorem State.updCrew_ops (f : Crew → Crew) : (s.updCrew n f).ops = s.ops := rfl
@[simp] theorem State.updCrew_joints (f : Crew → Crew) : (s.updCrew n f).joints = s.joints := rfl
@[simp] theorem State.updCrew_tiles (f : Crew → Crew) : (s.updCrew n f).tiles = s.tiles := rfl
@[simp] theorem State.updCrew_accs (f : Crew → Crew) : (s.updCrew n f).accs = s.accs := rfl
@[simp] theorem State.updCrew_clusters (f : Crew → Crew) : (s.updCrew n f).clusters = s.clusters := rfl
@[simp] theorem State.updCrew_walkers (f : Crew → Crew) : (s.updCrew n f).walkers = s.walkers := rfl
@[simp] theorem State.updCrew_cmds (f : Crew → Crew) : (s.updCrew n f).cmds = s.cmds := rfl
@[simp] theorem State.updCrew_racc (f : Crew → Crew) : (s.updCrew n f).racc = s.racc := rfl
@[simp] theorem State.updCrew_tkCount (f : Crew → Crew) : (s.updCrew n f).tkCount = s.tkCount := rfl
@[simp] theorem State.updCrew_noticed (f : Crew → Crew) : (s.updCrew n f).noticed = s.noticed := rfl
@[simp] theorem State.updCrew_fabric (f : Crew → Crew) : (s.updCrew n f).fabric = s.fabric := rfl
@[simp] theorem State.updCrew_outbox (f : Crew → Crew) : (s.updCrew n f).outbox = s.outbox := rfl
@[simp] theorem State.updCrew_shadows (f : Crew → Crew) : (s.updCrew n f).shadows = s.shadows := rfl
@[simp] theorem State.updCrew_tickets (f : Crew → Crew) : (s.updCrew n f).tickets = s.tickets := rfl
@[simp] theorem State.updCrew_tkNext (f : Crew → Crew) : (s.updCrew n f).tkNext = s.tkNext := rfl
@[simp] theorem State.updCrew_tkWait (f : Crew → Crew) : (s.updCrew n f).tkWait = s.tkWait := rfl
@[simp] theorem State.updCrew_rounds (f : Crew → Crew) : (s.updCrew n f).rounds = s.rounds := rfl
@[simp] theorem State.updCrew_noGroups (f : Crew → Crew) : (s.updCrew n f).noGroups = s.noGroups := rfl
@[simp] theorem State.updCrew_parts (f : Crew → Crew) : (s.updCrew n f).parts = s.parts := rfl
@[simp] theorem State.updCrew_cores (f : Crew → Crew) : (s.updCrew n f).cores = s.cores := rfl
@[simp] theorem State.updCrew_stks (f : Crew → Crew) : (s.updCrew n f).stks = s.stks := rfl
@[simp] theorem State.updCrew_scrubPeriod (f : Crew → Crew) : (s.updCrew n f).scrubPeriod = s.scrubPeriod := rfl
@[simp] theorem State.updCrew_scrubPasses (f : Crew → Crew) : (s.updCrew n f).scrubPasses = s.scrubPasses := rfl
@[simp] theorem State.updCrew_patrol (f : Crew → Crew) : (s.updCrew n f).patrol = s.patrol := rfl
@[simp] theorem State.updCrew_patrolFrom (f : Crew → Crew) : (s.updCrew n f).patrolFrom = s.patrolFrom := rfl
@[simp] theorem State.updCrew_portWait (f : Crew → Crew) : (s.updCrew n f).portWait = s.portWait := rfl
@[simp] theorem State.updCrew_links (f : Crew → Crew) : (s.updCrew n f).links = s.links := rfl
@[simp] theorem State.updCrew_hk (f : Crew → Crew) : (s.updCrew n f).hk = s.hk := rfl
@[simp] theorem State.updCrew_cur (f : Crew → Crew) : (s.updCrew n f).cur = s.cur := rfl
@[simp] theorem State.updCrew_issue (f : Crew → Crew) : (s.updCrew n f).issue = s.issue := rfl
@[simp] theorem State.updCrew_agenda (f : Crew → Crew) : (s.updCrew n f).agenda = s.agenda := rfl
@[simp] theorem State.updCrew_turn (f : Crew → Crew) : (s.updCrew n f).turn = s.turn := rfl
@[simp] theorem State.updCrew_free (f : Crew → Crew) : (s.updCrew n f).free = s.free := rfl

@[simp] theorem State.updWg_cyc (f : Wg → Wg) : (s.updWg n f).cyc = s.cyc := rfl
@[simp] theorem State.updWg_mem (f : Wg → Wg) : (s.updWg n f).mem = s.mem := rfl
@[simp] theorem State.updWg_poison (f : Wg → Wg) : (s.updWg n f).poison = s.poison := rfl
@[simp] theorem State.updWg_arrayErr (f : Wg → Wg) : (s.updWg n f).arrayErr = s.arrayErr := rfl
@[simp] theorem State.updWg_posted (f : Wg → Wg) : (s.updWg n f).posted = s.posted := rfl
@[simp] theorem State.updWg_loads (f : Wg → Wg) : (s.updWg n f).loads = s.loads := rfl
@[simp] theorem State.updWg_tlb (f : Wg → Wg) : (s.updWg n f).tlb = s.tlb := rfl
@[simp] theorem State.updWg_tlbGen (f : Wg → Wg) : (s.updWg n f).tlbGen = s.tlbGen := rfl
@[simp] theorem State.updWg_tlbinvs (f : Wg → Wg) : (s.updWg n f).tlbinvs = s.tlbinvs := rfl
@[simp] theorem State.updWg_migs (f : Wg → Wg) : (s.updWg n f).migs = s.migs := rfl
@[simp] theorem State.updWg_migWait (f : Wg → Wg) : (s.updWg n f).migWait = s.migWait := rfl
@[simp] theorem State.updWg_wvc (f : Wg → Wg) : (s.updWg n f).wvc = s.wvc := rfl
@[simp] theorem State.updWg_threads (f : Wg → Wg) : (s.updWg n f).threads = s.threads := rfl
@[simp] theorem State.updWg_crews (f : Wg → Wg) : (s.updWg n f).crews = s.crews := rfl
@[simp] theorem State.updWg_wgs (f : Wg → Wg) : (s.updWg n f).wgs = s.wgs.modify n f := rfl
@[simp] theorem State.updWg_launches (f : Wg → Wg) : (s.updWg n f).launches = s.launches := rfl
@[simp] theorem State.updWg_bundles (f : Wg → Wg) : (s.updWg n f).bundles = s.bundles := rfl
@[simp] theorem State.updWg_reform (f : Wg → Wg) : (s.updWg n f).reform = s.reform := rfl
@[simp] theorem State.updWg_ops (f : Wg → Wg) : (s.updWg n f).ops = s.ops := rfl
@[simp] theorem State.updWg_joints (f : Wg → Wg) : (s.updWg n f).joints = s.joints := rfl
@[simp] theorem State.updWg_tiles (f : Wg → Wg) : (s.updWg n f).tiles = s.tiles := rfl
@[simp] theorem State.updWg_accs (f : Wg → Wg) : (s.updWg n f).accs = s.accs := rfl
@[simp] theorem State.updWg_clusters (f : Wg → Wg) : (s.updWg n f).clusters = s.clusters := rfl
@[simp] theorem State.updWg_walkers (f : Wg → Wg) : (s.updWg n f).walkers = s.walkers := rfl
@[simp] theorem State.updWg_cmds (f : Wg → Wg) : (s.updWg n f).cmds = s.cmds := rfl
@[simp] theorem State.updWg_racc (f : Wg → Wg) : (s.updWg n f).racc = s.racc := rfl
@[simp] theorem State.updWg_tkCount (f : Wg → Wg) : (s.updWg n f).tkCount = s.tkCount := rfl
@[simp] theorem State.updWg_noticed (f : Wg → Wg) : (s.updWg n f).noticed = s.noticed := rfl
@[simp] theorem State.updWg_fabric (f : Wg → Wg) : (s.updWg n f).fabric = s.fabric := rfl
@[simp] theorem State.updWg_outbox (f : Wg → Wg) : (s.updWg n f).outbox = s.outbox := rfl
@[simp] theorem State.updWg_shadows (f : Wg → Wg) : (s.updWg n f).shadows = s.shadows := rfl
@[simp] theorem State.updWg_tickets (f : Wg → Wg) : (s.updWg n f).tickets = s.tickets := rfl
@[simp] theorem State.updWg_tkNext (f : Wg → Wg) : (s.updWg n f).tkNext = s.tkNext := rfl
@[simp] theorem State.updWg_tkWait (f : Wg → Wg) : (s.updWg n f).tkWait = s.tkWait := rfl
@[simp] theorem State.updWg_rounds (f : Wg → Wg) : (s.updWg n f).rounds = s.rounds := rfl
@[simp] theorem State.updWg_noGroups (f : Wg → Wg) : (s.updWg n f).noGroups = s.noGroups := rfl
@[simp] theorem State.updWg_parts (f : Wg → Wg) : (s.updWg n f).parts = s.parts := rfl
@[simp] theorem State.updWg_cores (f : Wg → Wg) : (s.updWg n f).cores = s.cores := rfl
@[simp] theorem State.updWg_stks (f : Wg → Wg) : (s.updWg n f).stks = s.stks := rfl
@[simp] theorem State.updWg_scrubPeriod (f : Wg → Wg) : (s.updWg n f).scrubPeriod = s.scrubPeriod := rfl
@[simp] theorem State.updWg_scrubPasses (f : Wg → Wg) : (s.updWg n f).scrubPasses = s.scrubPasses := rfl
@[simp] theorem State.updWg_patrol (f : Wg → Wg) : (s.updWg n f).patrol = s.patrol := rfl
@[simp] theorem State.updWg_patrolFrom (f : Wg → Wg) : (s.updWg n f).patrolFrom = s.patrolFrom := rfl
@[simp] theorem State.updWg_portWait (f : Wg → Wg) : (s.updWg n f).portWait = s.portWait := rfl
@[simp] theorem State.updWg_links (f : Wg → Wg) : (s.updWg n f).links = s.links := rfl
@[simp] theorem State.updWg_hk (f : Wg → Wg) : (s.updWg n f).hk = s.hk := rfl
@[simp] theorem State.updWg_cur (f : Wg → Wg) : (s.updWg n f).cur = s.cur := rfl
@[simp] theorem State.updWg_issue (f : Wg → Wg) : (s.updWg n f).issue = s.issue := rfl
@[simp] theorem State.updWg_agenda (f : Wg → Wg) : (s.updWg n f).agenda = s.agenda := rfl
@[simp] theorem State.updWg_turn (f : Wg → Wg) : (s.updWg n f).turn = s.turn := rfl
@[simp] theorem State.updWg_free (f : Wg → Wg) : (s.updWg n f).free = s.free := rfl

@[simp] theorem State.updLaunch_cyc (f : Launch → Launch) : (s.updLaunch n f).cyc = s.cyc := rfl
@[simp] theorem State.updLaunch_mem (f : Launch → Launch) : (s.updLaunch n f).mem = s.mem := rfl
@[simp] theorem State.updLaunch_poison (f : Launch → Launch) : (s.updLaunch n f).poison = s.poison := rfl
@[simp] theorem State.updLaunch_arrayErr (f : Launch → Launch) : (s.updLaunch n f).arrayErr = s.arrayErr := rfl
@[simp] theorem State.updLaunch_posted (f : Launch → Launch) : (s.updLaunch n f).posted = s.posted := rfl
@[simp] theorem State.updLaunch_loads (f : Launch → Launch) : (s.updLaunch n f).loads = s.loads := rfl
@[simp] theorem State.updLaunch_tlb (f : Launch → Launch) : (s.updLaunch n f).tlb = s.tlb := rfl
@[simp] theorem State.updLaunch_tlbGen (f : Launch → Launch) : (s.updLaunch n f).tlbGen = s.tlbGen := rfl
@[simp] theorem State.updLaunch_tlbinvs (f : Launch → Launch) : (s.updLaunch n f).tlbinvs = s.tlbinvs := rfl
@[simp] theorem State.updLaunch_migs (f : Launch → Launch) : (s.updLaunch n f).migs = s.migs := rfl
@[simp] theorem State.updLaunch_migWait (f : Launch → Launch) : (s.updLaunch n f).migWait = s.migWait := rfl
@[simp] theorem State.updLaunch_wvc (f : Launch → Launch) : (s.updLaunch n f).wvc = s.wvc := rfl
@[simp] theorem State.updLaunch_threads (f : Launch → Launch) : (s.updLaunch n f).threads = s.threads := rfl
@[simp] theorem State.updLaunch_crews (f : Launch → Launch) : (s.updLaunch n f).crews = s.crews := rfl
@[simp] theorem State.updLaunch_wgs (f : Launch → Launch) : (s.updLaunch n f).wgs = s.wgs := rfl
@[simp] theorem State.updLaunch_launches (f : Launch → Launch) : (s.updLaunch n f).launches = s.launches.modify n f := rfl
@[simp] theorem State.updLaunch_bundles (f : Launch → Launch) : (s.updLaunch n f).bundles = s.bundles := rfl
@[simp] theorem State.updLaunch_reform (f : Launch → Launch) : (s.updLaunch n f).reform = s.reform := rfl
@[simp] theorem State.updLaunch_ops (f : Launch → Launch) : (s.updLaunch n f).ops = s.ops := rfl
@[simp] theorem State.updLaunch_joints (f : Launch → Launch) : (s.updLaunch n f).joints = s.joints := rfl
@[simp] theorem State.updLaunch_tiles (f : Launch → Launch) : (s.updLaunch n f).tiles = s.tiles := rfl
@[simp] theorem State.updLaunch_accs (f : Launch → Launch) : (s.updLaunch n f).accs = s.accs := rfl
@[simp] theorem State.updLaunch_clusters (f : Launch → Launch) : (s.updLaunch n f).clusters = s.clusters := rfl
@[simp] theorem State.updLaunch_walkers (f : Launch → Launch) : (s.updLaunch n f).walkers = s.walkers := rfl
@[simp] theorem State.updLaunch_cmds (f : Launch → Launch) : (s.updLaunch n f).cmds = s.cmds := rfl
@[simp] theorem State.updLaunch_racc (f : Launch → Launch) : (s.updLaunch n f).racc = s.racc := rfl
@[simp] theorem State.updLaunch_tkCount (f : Launch → Launch) : (s.updLaunch n f).tkCount = s.tkCount := rfl
@[simp] theorem State.updLaunch_noticed (f : Launch → Launch) : (s.updLaunch n f).noticed = s.noticed := rfl
@[simp] theorem State.updLaunch_fabric (f : Launch → Launch) : (s.updLaunch n f).fabric = s.fabric := rfl
@[simp] theorem State.updLaunch_outbox (f : Launch → Launch) : (s.updLaunch n f).outbox = s.outbox := rfl
@[simp] theorem State.updLaunch_shadows (f : Launch → Launch) : (s.updLaunch n f).shadows = s.shadows := rfl
@[simp] theorem State.updLaunch_tickets (f : Launch → Launch) : (s.updLaunch n f).tickets = s.tickets := rfl
@[simp] theorem State.updLaunch_tkNext (f : Launch → Launch) : (s.updLaunch n f).tkNext = s.tkNext := rfl
@[simp] theorem State.updLaunch_tkWait (f : Launch → Launch) : (s.updLaunch n f).tkWait = s.tkWait := rfl
@[simp] theorem State.updLaunch_rounds (f : Launch → Launch) : (s.updLaunch n f).rounds = s.rounds := rfl
@[simp] theorem State.updLaunch_noGroups (f : Launch → Launch) : (s.updLaunch n f).noGroups = s.noGroups := rfl
@[simp] theorem State.updLaunch_parts (f : Launch → Launch) : (s.updLaunch n f).parts = s.parts := rfl
@[simp] theorem State.updLaunch_cores (f : Launch → Launch) : (s.updLaunch n f).cores = s.cores := rfl
@[simp] theorem State.updLaunch_stks (f : Launch → Launch) : (s.updLaunch n f).stks = s.stks := rfl
@[simp] theorem State.updLaunch_scrubPeriod (f : Launch → Launch) : (s.updLaunch n f).scrubPeriod = s.scrubPeriod := rfl
@[simp] theorem State.updLaunch_scrubPasses (f : Launch → Launch) : (s.updLaunch n f).scrubPasses = s.scrubPasses := rfl
@[simp] theorem State.updLaunch_patrol (f : Launch → Launch) : (s.updLaunch n f).patrol = s.patrol := rfl
@[simp] theorem State.updLaunch_patrolFrom (f : Launch → Launch) : (s.updLaunch n f).patrolFrom = s.patrolFrom := rfl
@[simp] theorem State.updLaunch_portWait (f : Launch → Launch) : (s.updLaunch n f).portWait = s.portWait := rfl
@[simp] theorem State.updLaunch_links (f : Launch → Launch) : (s.updLaunch n f).links = s.links := rfl
@[simp] theorem State.updLaunch_hk (f : Launch → Launch) : (s.updLaunch n f).hk = s.hk := rfl
@[simp] theorem State.updLaunch_cur (f : Launch → Launch) : (s.updLaunch n f).cur = s.cur := rfl
@[simp] theorem State.updLaunch_issue (f : Launch → Launch) : (s.updLaunch n f).issue = s.issue := rfl
@[simp] theorem State.updLaunch_agenda (f : Launch → Launch) : (s.updLaunch n f).agenda = s.agenda := rfl
@[simp] theorem State.updLaunch_turn (f : Launch → Launch) : (s.updLaunch n f).turn = s.turn := rfl
@[simp] theorem State.updLaunch_free (f : Launch → Launch) : (s.updLaunch n f).free = s.free := rfl

@[simp] theorem State.updWlk_cyc (f : Walker → Walker) : (s.updWlk n f).cyc = s.cyc := rfl
@[simp] theorem State.updWlk_mem (f : Walker → Walker) : (s.updWlk n f).mem = s.mem := rfl
@[simp] theorem State.updWlk_poison (f : Walker → Walker) : (s.updWlk n f).poison = s.poison := rfl
@[simp] theorem State.updWlk_arrayErr (f : Walker → Walker) : (s.updWlk n f).arrayErr = s.arrayErr := rfl
@[simp] theorem State.updWlk_posted (f : Walker → Walker) : (s.updWlk n f).posted = s.posted := rfl
@[simp] theorem State.updWlk_loads (f : Walker → Walker) : (s.updWlk n f).loads = s.loads := rfl
@[simp] theorem State.updWlk_tlb (f : Walker → Walker) : (s.updWlk n f).tlb = s.tlb := rfl
@[simp] theorem State.updWlk_tlbGen (f : Walker → Walker) : (s.updWlk n f).tlbGen = s.tlbGen := rfl
@[simp] theorem State.updWlk_tlbinvs (f : Walker → Walker) : (s.updWlk n f).tlbinvs = s.tlbinvs := rfl
@[simp] theorem State.updWlk_migs (f : Walker → Walker) : (s.updWlk n f).migs = s.migs := rfl
@[simp] theorem State.updWlk_migWait (f : Walker → Walker) : (s.updWlk n f).migWait = s.migWait := rfl
@[simp] theorem State.updWlk_wvc (f : Walker → Walker) : (s.updWlk n f).wvc = s.wvc := rfl
@[simp] theorem State.updWlk_threads (f : Walker → Walker) : (s.updWlk n f).threads = s.threads := rfl
@[simp] theorem State.updWlk_crews (f : Walker → Walker) : (s.updWlk n f).crews = s.crews := rfl
@[simp] theorem State.updWlk_wgs (f : Walker → Walker) : (s.updWlk n f).wgs = s.wgs := rfl
@[simp] theorem State.updWlk_launches (f : Walker → Walker) : (s.updWlk n f).launches = s.launches := rfl
@[simp] theorem State.updWlk_bundles (f : Walker → Walker) : (s.updWlk n f).bundles = s.bundles := rfl
@[simp] theorem State.updWlk_reform (f : Walker → Walker) : (s.updWlk n f).reform = s.reform := rfl
@[simp] theorem State.updWlk_ops (f : Walker → Walker) : (s.updWlk n f).ops = s.ops := rfl
@[simp] theorem State.updWlk_joints (f : Walker → Walker) : (s.updWlk n f).joints = s.joints := rfl
@[simp] theorem State.updWlk_tiles (f : Walker → Walker) : (s.updWlk n f).tiles = s.tiles := rfl
@[simp] theorem State.updWlk_accs (f : Walker → Walker) : (s.updWlk n f).accs = s.accs := rfl
@[simp] theorem State.updWlk_clusters (f : Walker → Walker) : (s.updWlk n f).clusters = s.clusters := rfl
@[simp] theorem State.updWlk_walkers (f : Walker → Walker) : (s.updWlk n f).walkers = s.walkers.modify n f := rfl
@[simp] theorem State.updWlk_cmds (f : Walker → Walker) : (s.updWlk n f).cmds = s.cmds := rfl
@[simp] theorem State.updWlk_racc (f : Walker → Walker) : (s.updWlk n f).racc = s.racc := rfl
@[simp] theorem State.updWlk_tkCount (f : Walker → Walker) : (s.updWlk n f).tkCount = s.tkCount := rfl
@[simp] theorem State.updWlk_noticed (f : Walker → Walker) : (s.updWlk n f).noticed = s.noticed := rfl
@[simp] theorem State.updWlk_fabric (f : Walker → Walker) : (s.updWlk n f).fabric = s.fabric := rfl
@[simp] theorem State.updWlk_outbox (f : Walker → Walker) : (s.updWlk n f).outbox = s.outbox := rfl
@[simp] theorem State.updWlk_shadows (f : Walker → Walker) : (s.updWlk n f).shadows = s.shadows := rfl
@[simp] theorem State.updWlk_tickets (f : Walker → Walker) : (s.updWlk n f).tickets = s.tickets := rfl
@[simp] theorem State.updWlk_tkNext (f : Walker → Walker) : (s.updWlk n f).tkNext = s.tkNext := rfl
@[simp] theorem State.updWlk_tkWait (f : Walker → Walker) : (s.updWlk n f).tkWait = s.tkWait := rfl
@[simp] theorem State.updWlk_rounds (f : Walker → Walker) : (s.updWlk n f).rounds = s.rounds := rfl
@[simp] theorem State.updWlk_noGroups (f : Walker → Walker) : (s.updWlk n f).noGroups = s.noGroups := rfl
@[simp] theorem State.updWlk_parts (f : Walker → Walker) : (s.updWlk n f).parts = s.parts := rfl
@[simp] theorem State.updWlk_cores (f : Walker → Walker) : (s.updWlk n f).cores = s.cores := rfl
@[simp] theorem State.updWlk_stks (f : Walker → Walker) : (s.updWlk n f).stks = s.stks := rfl
@[simp] theorem State.updWlk_scrubPeriod (f : Walker → Walker) : (s.updWlk n f).scrubPeriod = s.scrubPeriod := rfl
@[simp] theorem State.updWlk_scrubPasses (f : Walker → Walker) : (s.updWlk n f).scrubPasses = s.scrubPasses := rfl
@[simp] theorem State.updWlk_patrol (f : Walker → Walker) : (s.updWlk n f).patrol = s.patrol := rfl
@[simp] theorem State.updWlk_patrolFrom (f : Walker → Walker) : (s.updWlk n f).patrolFrom = s.patrolFrom := rfl
@[simp] theorem State.updWlk_portWait (f : Walker → Walker) : (s.updWlk n f).portWait = s.portWait := rfl
@[simp] theorem State.updWlk_links (f : Walker → Walker) : (s.updWlk n f).links = s.links := rfl
@[simp] theorem State.updWlk_hk (f : Walker → Walker) : (s.updWlk n f).hk = s.hk := rfl
@[simp] theorem State.updWlk_cur (f : Walker → Walker) : (s.updWlk n f).cur = s.cur := rfl
@[simp] theorem State.updWlk_issue (f : Walker → Walker) : (s.updWlk n f).issue = s.issue := rfl
@[simp] theorem State.updWlk_agenda (f : Walker → Walker) : (s.updWlk n f).agenda = s.agenda := rfl
@[simp] theorem State.updWlk_turn (f : Walker → Walker) : (s.updWlk n f).turn = s.turn := rfl
@[simp] theorem State.updWlk_free (f : Walker → Walker) : (s.updWlk n f).free = s.free := rfl

@[simp] theorem State.updCmd_cyc (f : Cmd → Cmd) : (s.updCmd n f).cyc = s.cyc := rfl
@[simp] theorem State.updCmd_mem (f : Cmd → Cmd) : (s.updCmd n f).mem = s.mem := rfl
@[simp] theorem State.updCmd_poison (f : Cmd → Cmd) : (s.updCmd n f).poison = s.poison := rfl
@[simp] theorem State.updCmd_arrayErr (f : Cmd → Cmd) : (s.updCmd n f).arrayErr = s.arrayErr := rfl
@[simp] theorem State.updCmd_posted (f : Cmd → Cmd) : (s.updCmd n f).posted = s.posted := rfl
@[simp] theorem State.updCmd_loads (f : Cmd → Cmd) : (s.updCmd n f).loads = s.loads := rfl
@[simp] theorem State.updCmd_tlb (f : Cmd → Cmd) : (s.updCmd n f).tlb = s.tlb := rfl
@[simp] theorem State.updCmd_tlbGen (f : Cmd → Cmd) : (s.updCmd n f).tlbGen = s.tlbGen := rfl
@[simp] theorem State.updCmd_tlbinvs (f : Cmd → Cmd) : (s.updCmd n f).tlbinvs = s.tlbinvs := rfl
@[simp] theorem State.updCmd_migs (f : Cmd → Cmd) : (s.updCmd n f).migs = s.migs := rfl
@[simp] theorem State.updCmd_migWait (f : Cmd → Cmd) : (s.updCmd n f).migWait = s.migWait := rfl
@[simp] theorem State.updCmd_wvc (f : Cmd → Cmd) : (s.updCmd n f).wvc = s.wvc := rfl
@[simp] theorem State.updCmd_threads (f : Cmd → Cmd) : (s.updCmd n f).threads = s.threads := rfl
@[simp] theorem State.updCmd_crews (f : Cmd → Cmd) : (s.updCmd n f).crews = s.crews := rfl
@[simp] theorem State.updCmd_wgs (f : Cmd → Cmd) : (s.updCmd n f).wgs = s.wgs := rfl
@[simp] theorem State.updCmd_launches (f : Cmd → Cmd) : (s.updCmd n f).launches = s.launches := rfl
@[simp] theorem State.updCmd_bundles (f : Cmd → Cmd) : (s.updCmd n f).bundles = s.bundles := rfl
@[simp] theorem State.updCmd_reform (f : Cmd → Cmd) : (s.updCmd n f).reform = s.reform := rfl
@[simp] theorem State.updCmd_ops (f : Cmd → Cmd) : (s.updCmd n f).ops = s.ops := rfl
@[simp] theorem State.updCmd_joints (f : Cmd → Cmd) : (s.updCmd n f).joints = s.joints := rfl
@[simp] theorem State.updCmd_tiles (f : Cmd → Cmd) : (s.updCmd n f).tiles = s.tiles := rfl
@[simp] theorem State.updCmd_accs (f : Cmd → Cmd) : (s.updCmd n f).accs = s.accs := rfl
@[simp] theorem State.updCmd_clusters (f : Cmd → Cmd) : (s.updCmd n f).clusters = s.clusters := rfl
@[simp] theorem State.updCmd_walkers (f : Cmd → Cmd) : (s.updCmd n f).walkers = s.walkers := rfl
@[simp] theorem State.updCmd_cmds (f : Cmd → Cmd) : (s.updCmd n f).cmds = s.cmds.modify n f := rfl
@[simp] theorem State.updCmd_racc (f : Cmd → Cmd) : (s.updCmd n f).racc = s.racc := rfl
@[simp] theorem State.updCmd_tkCount (f : Cmd → Cmd) : (s.updCmd n f).tkCount = s.tkCount := rfl
@[simp] theorem State.updCmd_noticed (f : Cmd → Cmd) : (s.updCmd n f).noticed = s.noticed := rfl
@[simp] theorem State.updCmd_fabric (f : Cmd → Cmd) : (s.updCmd n f).fabric = s.fabric := rfl
@[simp] theorem State.updCmd_outbox (f : Cmd → Cmd) : (s.updCmd n f).outbox = s.outbox := rfl
@[simp] theorem State.updCmd_shadows (f : Cmd → Cmd) : (s.updCmd n f).shadows = s.shadows := rfl
@[simp] theorem State.updCmd_tickets (f : Cmd → Cmd) : (s.updCmd n f).tickets = s.tickets := rfl
@[simp] theorem State.updCmd_tkNext (f : Cmd → Cmd) : (s.updCmd n f).tkNext = s.tkNext := rfl
@[simp] theorem State.updCmd_tkWait (f : Cmd → Cmd) : (s.updCmd n f).tkWait = s.tkWait := rfl
@[simp] theorem State.updCmd_rounds (f : Cmd → Cmd) : (s.updCmd n f).rounds = s.rounds := rfl
@[simp] theorem State.updCmd_noGroups (f : Cmd → Cmd) : (s.updCmd n f).noGroups = s.noGroups := rfl
@[simp] theorem State.updCmd_parts (f : Cmd → Cmd) : (s.updCmd n f).parts = s.parts := rfl
@[simp] theorem State.updCmd_cores (f : Cmd → Cmd) : (s.updCmd n f).cores = s.cores := rfl
@[simp] theorem State.updCmd_stks (f : Cmd → Cmd) : (s.updCmd n f).stks = s.stks := rfl
@[simp] theorem State.updCmd_scrubPeriod (f : Cmd → Cmd) : (s.updCmd n f).scrubPeriod = s.scrubPeriod := rfl
@[simp] theorem State.updCmd_scrubPasses (f : Cmd → Cmd) : (s.updCmd n f).scrubPasses = s.scrubPasses := rfl
@[simp] theorem State.updCmd_patrol (f : Cmd → Cmd) : (s.updCmd n f).patrol = s.patrol := rfl
@[simp] theorem State.updCmd_patrolFrom (f : Cmd → Cmd) : (s.updCmd n f).patrolFrom = s.patrolFrom := rfl
@[simp] theorem State.updCmd_portWait (f : Cmd → Cmd) : (s.updCmd n f).portWait = s.portWait := rfl
@[simp] theorem State.updCmd_links (f : Cmd → Cmd) : (s.updCmd n f).links = s.links := rfl
@[simp] theorem State.updCmd_hk (f : Cmd → Cmd) : (s.updCmd n f).hk = s.hk := rfl
@[simp] theorem State.updCmd_cur (f : Cmd → Cmd) : (s.updCmd n f).cur = s.cur := rfl
@[simp] theorem State.updCmd_issue (f : Cmd → Cmd) : (s.updCmd n f).issue = s.issue := rfl
@[simp] theorem State.updCmd_agenda (f : Cmd → Cmd) : (s.updCmd n f).agenda = s.agenda := rfl
@[simp] theorem State.updCmd_turn (f : Cmd → Cmd) : (s.updCmd n f).turn = s.turn := rfl
@[simp] theorem State.updCmd_free (f : Cmd → Cmd) : (s.updCmd n f).free = s.free := rfl

@[simp] theorem State.updOp_cyc (f : EngOp → EngOp) : (s.updOp n f).cyc = s.cyc := rfl
@[simp] theorem State.updOp_mem (f : EngOp → EngOp) : (s.updOp n f).mem = s.mem := rfl
@[simp] theorem State.updOp_poison (f : EngOp → EngOp) : (s.updOp n f).poison = s.poison := rfl
@[simp] theorem State.updOp_arrayErr (f : EngOp → EngOp) : (s.updOp n f).arrayErr = s.arrayErr := rfl
@[simp] theorem State.updOp_posted (f : EngOp → EngOp) : (s.updOp n f).posted = s.posted := rfl
@[simp] theorem State.updOp_loads (f : EngOp → EngOp) : (s.updOp n f).loads = s.loads := rfl
@[simp] theorem State.updOp_tlb (f : EngOp → EngOp) : (s.updOp n f).tlb = s.tlb := rfl
@[simp] theorem State.updOp_tlbGen (f : EngOp → EngOp) : (s.updOp n f).tlbGen = s.tlbGen := rfl
@[simp] theorem State.updOp_tlbinvs (f : EngOp → EngOp) : (s.updOp n f).tlbinvs = s.tlbinvs := rfl
@[simp] theorem State.updOp_migs (f : EngOp → EngOp) : (s.updOp n f).migs = s.migs := rfl
@[simp] theorem State.updOp_migWait (f : EngOp → EngOp) : (s.updOp n f).migWait = s.migWait := rfl
@[simp] theorem State.updOp_wvc (f : EngOp → EngOp) : (s.updOp n f).wvc = s.wvc := rfl
@[simp] theorem State.updOp_threads (f : EngOp → EngOp) : (s.updOp n f).threads = s.threads := rfl
@[simp] theorem State.updOp_crews (f : EngOp → EngOp) : (s.updOp n f).crews = s.crews := rfl
@[simp] theorem State.updOp_wgs (f : EngOp → EngOp) : (s.updOp n f).wgs = s.wgs := rfl
@[simp] theorem State.updOp_launches (f : EngOp → EngOp) : (s.updOp n f).launches = s.launches := rfl
@[simp] theorem State.updOp_bundles (f : EngOp → EngOp) : (s.updOp n f).bundles = s.bundles := rfl
@[simp] theorem State.updOp_reform (f : EngOp → EngOp) : (s.updOp n f).reform = s.reform := rfl
@[simp] theorem State.updOp_ops (f : EngOp → EngOp) : (s.updOp n f).ops = s.ops.modify n f := rfl
@[simp] theorem State.updOp_joints (f : EngOp → EngOp) : (s.updOp n f).joints = s.joints := rfl
@[simp] theorem State.updOp_tiles (f : EngOp → EngOp) : (s.updOp n f).tiles = s.tiles := rfl
@[simp] theorem State.updOp_accs (f : EngOp → EngOp) : (s.updOp n f).accs = s.accs := rfl
@[simp] theorem State.updOp_clusters (f : EngOp → EngOp) : (s.updOp n f).clusters = s.clusters := rfl
@[simp] theorem State.updOp_walkers (f : EngOp → EngOp) : (s.updOp n f).walkers = s.walkers := rfl
@[simp] theorem State.updOp_cmds (f : EngOp → EngOp) : (s.updOp n f).cmds = s.cmds := rfl
@[simp] theorem State.updOp_racc (f : EngOp → EngOp) : (s.updOp n f).racc = s.racc := rfl
@[simp] theorem State.updOp_tkCount (f : EngOp → EngOp) : (s.updOp n f).tkCount = s.tkCount := rfl
@[simp] theorem State.updOp_noticed (f : EngOp → EngOp) : (s.updOp n f).noticed = s.noticed := rfl
@[simp] theorem State.updOp_fabric (f : EngOp → EngOp) : (s.updOp n f).fabric = s.fabric := rfl
@[simp] theorem State.updOp_outbox (f : EngOp → EngOp) : (s.updOp n f).outbox = s.outbox := rfl
@[simp] theorem State.updOp_shadows (f : EngOp → EngOp) : (s.updOp n f).shadows = s.shadows := rfl
@[simp] theorem State.updOp_tickets (f : EngOp → EngOp) : (s.updOp n f).tickets = s.tickets := rfl
@[simp] theorem State.updOp_tkNext (f : EngOp → EngOp) : (s.updOp n f).tkNext = s.tkNext := rfl
@[simp] theorem State.updOp_tkWait (f : EngOp → EngOp) : (s.updOp n f).tkWait = s.tkWait := rfl
@[simp] theorem State.updOp_rounds (f : EngOp → EngOp) : (s.updOp n f).rounds = s.rounds := rfl
@[simp] theorem State.updOp_noGroups (f : EngOp → EngOp) : (s.updOp n f).noGroups = s.noGroups := rfl
@[simp] theorem State.updOp_parts (f : EngOp → EngOp) : (s.updOp n f).parts = s.parts := rfl
@[simp] theorem State.updOp_cores (f : EngOp → EngOp) : (s.updOp n f).cores = s.cores := rfl
@[simp] theorem State.updOp_stks (f : EngOp → EngOp) : (s.updOp n f).stks = s.stks := rfl
@[simp] theorem State.updOp_scrubPeriod (f : EngOp → EngOp) : (s.updOp n f).scrubPeriod = s.scrubPeriod := rfl
@[simp] theorem State.updOp_scrubPasses (f : EngOp → EngOp) : (s.updOp n f).scrubPasses = s.scrubPasses := rfl
@[simp] theorem State.updOp_patrol (f : EngOp → EngOp) : (s.updOp n f).patrol = s.patrol := rfl
@[simp] theorem State.updOp_patrolFrom (f : EngOp → EngOp) : (s.updOp n f).patrolFrom = s.patrolFrom := rfl
@[simp] theorem State.updOp_portWait (f : EngOp → EngOp) : (s.updOp n f).portWait = s.portWait := rfl
@[simp] theorem State.updOp_links (f : EngOp → EngOp) : (s.updOp n f).links = s.links := rfl
@[simp] theorem State.updOp_hk (f : EngOp → EngOp) : (s.updOp n f).hk = s.hk := rfl
@[simp] theorem State.updOp_cur (f : EngOp → EngOp) : (s.updOp n f).cur = s.cur := rfl
@[simp] theorem State.updOp_issue (f : EngOp → EngOp) : (s.updOp n f).issue = s.issue := rfl
@[simp] theorem State.updOp_agenda (f : EngOp → EngOp) : (s.updOp n f).agenda = s.agenda := rfl
@[simp] theorem State.updOp_turn (f : EngOp → EngOp) : (s.updOp n f).turn = s.turn := rfl
@[simp] theorem State.updOp_free (f : EngOp → EngOp) : (s.updOp n f).free = s.free := rfl

@[simp] theorem State.updJoint_cyc (f : Joint → Joint) : (s.updJoint n f).cyc = s.cyc := rfl
@[simp] theorem State.updJoint_mem (f : Joint → Joint) : (s.updJoint n f).mem = s.mem := rfl
@[simp] theorem State.updJoint_poison (f : Joint → Joint) : (s.updJoint n f).poison = s.poison := rfl
@[simp] theorem State.updJoint_arrayErr (f : Joint → Joint) : (s.updJoint n f).arrayErr = s.arrayErr := rfl
@[simp] theorem State.updJoint_posted (f : Joint → Joint) : (s.updJoint n f).posted = s.posted := rfl
@[simp] theorem State.updJoint_loads (f : Joint → Joint) : (s.updJoint n f).loads = s.loads := rfl
@[simp] theorem State.updJoint_tlb (f : Joint → Joint) : (s.updJoint n f).tlb = s.tlb := rfl
@[simp] theorem State.updJoint_tlbGen (f : Joint → Joint) : (s.updJoint n f).tlbGen = s.tlbGen := rfl
@[simp] theorem State.updJoint_tlbinvs (f : Joint → Joint) : (s.updJoint n f).tlbinvs = s.tlbinvs := rfl
@[simp] theorem State.updJoint_migs (f : Joint → Joint) : (s.updJoint n f).migs = s.migs := rfl
@[simp] theorem State.updJoint_migWait (f : Joint → Joint) : (s.updJoint n f).migWait = s.migWait := rfl
@[simp] theorem State.updJoint_wvc (f : Joint → Joint) : (s.updJoint n f).wvc = s.wvc := rfl
@[simp] theorem State.updJoint_threads (f : Joint → Joint) : (s.updJoint n f).threads = s.threads := rfl
@[simp] theorem State.updJoint_crews (f : Joint → Joint) : (s.updJoint n f).crews = s.crews := rfl
@[simp] theorem State.updJoint_wgs (f : Joint → Joint) : (s.updJoint n f).wgs = s.wgs := rfl
@[simp] theorem State.updJoint_launches (f : Joint → Joint) : (s.updJoint n f).launches = s.launches := rfl
@[simp] theorem State.updJoint_bundles (f : Joint → Joint) : (s.updJoint n f).bundles = s.bundles := rfl
@[simp] theorem State.updJoint_reform (f : Joint → Joint) : (s.updJoint n f).reform = s.reform := rfl
@[simp] theorem State.updJoint_ops (f : Joint → Joint) : (s.updJoint n f).ops = s.ops := rfl
@[simp] theorem State.updJoint_joints (f : Joint → Joint) : (s.updJoint n f).joints = s.joints.modify n f := rfl
@[simp] theorem State.updJoint_tiles (f : Joint → Joint) : (s.updJoint n f).tiles = s.tiles := rfl
@[simp] theorem State.updJoint_accs (f : Joint → Joint) : (s.updJoint n f).accs = s.accs := rfl
@[simp] theorem State.updJoint_clusters (f : Joint → Joint) : (s.updJoint n f).clusters = s.clusters := rfl
@[simp] theorem State.updJoint_walkers (f : Joint → Joint) : (s.updJoint n f).walkers = s.walkers := rfl
@[simp] theorem State.updJoint_cmds (f : Joint → Joint) : (s.updJoint n f).cmds = s.cmds := rfl
@[simp] theorem State.updJoint_racc (f : Joint → Joint) : (s.updJoint n f).racc = s.racc := rfl
@[simp] theorem State.updJoint_tkCount (f : Joint → Joint) : (s.updJoint n f).tkCount = s.tkCount := rfl
@[simp] theorem State.updJoint_noticed (f : Joint → Joint) : (s.updJoint n f).noticed = s.noticed := rfl
@[simp] theorem State.updJoint_fabric (f : Joint → Joint) : (s.updJoint n f).fabric = s.fabric := rfl
@[simp] theorem State.updJoint_outbox (f : Joint → Joint) : (s.updJoint n f).outbox = s.outbox := rfl
@[simp] theorem State.updJoint_shadows (f : Joint → Joint) : (s.updJoint n f).shadows = s.shadows := rfl
@[simp] theorem State.updJoint_tickets (f : Joint → Joint) : (s.updJoint n f).tickets = s.tickets := rfl
@[simp] theorem State.updJoint_tkNext (f : Joint → Joint) : (s.updJoint n f).tkNext = s.tkNext := rfl
@[simp] theorem State.updJoint_tkWait (f : Joint → Joint) : (s.updJoint n f).tkWait = s.tkWait := rfl
@[simp] theorem State.updJoint_rounds (f : Joint → Joint) : (s.updJoint n f).rounds = s.rounds := rfl
@[simp] theorem State.updJoint_noGroups (f : Joint → Joint) : (s.updJoint n f).noGroups = s.noGroups := rfl
@[simp] theorem State.updJoint_parts (f : Joint → Joint) : (s.updJoint n f).parts = s.parts := rfl
@[simp] theorem State.updJoint_cores (f : Joint → Joint) : (s.updJoint n f).cores = s.cores := rfl
@[simp] theorem State.updJoint_stks (f : Joint → Joint) : (s.updJoint n f).stks = s.stks := rfl
@[simp] theorem State.updJoint_scrubPeriod (f : Joint → Joint) : (s.updJoint n f).scrubPeriod = s.scrubPeriod := rfl
@[simp] theorem State.updJoint_scrubPasses (f : Joint → Joint) : (s.updJoint n f).scrubPasses = s.scrubPasses := rfl
@[simp] theorem State.updJoint_patrol (f : Joint → Joint) : (s.updJoint n f).patrol = s.patrol := rfl
@[simp] theorem State.updJoint_patrolFrom (f : Joint → Joint) : (s.updJoint n f).patrolFrom = s.patrolFrom := rfl
@[simp] theorem State.updJoint_portWait (f : Joint → Joint) : (s.updJoint n f).portWait = s.portWait := rfl
@[simp] theorem State.updJoint_links (f : Joint → Joint) : (s.updJoint n f).links = s.links := rfl
@[simp] theorem State.updJoint_hk (f : Joint → Joint) : (s.updJoint n f).hk = s.hk := rfl
@[simp] theorem State.updJoint_cur (f : Joint → Joint) : (s.updJoint n f).cur = s.cur := rfl
@[simp] theorem State.updJoint_issue (f : Joint → Joint) : (s.updJoint n f).issue = s.issue := rfl
@[simp] theorem State.updJoint_agenda (f : Joint → Joint) : (s.updJoint n f).agenda = s.agenda := rfl
@[simp] theorem State.updJoint_turn (f : Joint → Joint) : (s.updJoint n f).turn = s.turn := rfl
@[simp] theorem State.updJoint_free (f : Joint → Joint) : (s.updJoint n f).free = s.free := rfl

@[simp] theorem State.updTile_cyc (f : Tile → Tile) : (s.updTile n f).cyc = s.cyc := rfl
@[simp] theorem State.updTile_mem (f : Tile → Tile) : (s.updTile n f).mem = s.mem := rfl
@[simp] theorem State.updTile_poison (f : Tile → Tile) : (s.updTile n f).poison = s.poison := rfl
@[simp] theorem State.updTile_arrayErr (f : Tile → Tile) : (s.updTile n f).arrayErr = s.arrayErr := rfl
@[simp] theorem State.updTile_posted (f : Tile → Tile) : (s.updTile n f).posted = s.posted := rfl
@[simp] theorem State.updTile_loads (f : Tile → Tile) : (s.updTile n f).loads = s.loads := rfl
@[simp] theorem State.updTile_tlb (f : Tile → Tile) : (s.updTile n f).tlb = s.tlb := rfl
@[simp] theorem State.updTile_tlbGen (f : Tile → Tile) : (s.updTile n f).tlbGen = s.tlbGen := rfl
@[simp] theorem State.updTile_tlbinvs (f : Tile → Tile) : (s.updTile n f).tlbinvs = s.tlbinvs := rfl
@[simp] theorem State.updTile_migs (f : Tile → Tile) : (s.updTile n f).migs = s.migs := rfl
@[simp] theorem State.updTile_migWait (f : Tile → Tile) : (s.updTile n f).migWait = s.migWait := rfl
@[simp] theorem State.updTile_wvc (f : Tile → Tile) : (s.updTile n f).wvc = s.wvc := rfl
@[simp] theorem State.updTile_threads (f : Tile → Tile) : (s.updTile n f).threads = s.threads := rfl
@[simp] theorem State.updTile_crews (f : Tile → Tile) : (s.updTile n f).crews = s.crews := rfl
@[simp] theorem State.updTile_wgs (f : Tile → Tile) : (s.updTile n f).wgs = s.wgs := rfl
@[simp] theorem State.updTile_launches (f : Tile → Tile) : (s.updTile n f).launches = s.launches := rfl
@[simp] theorem State.updTile_bundles (f : Tile → Tile) : (s.updTile n f).bundles = s.bundles := rfl
@[simp] theorem State.updTile_reform (f : Tile → Tile) : (s.updTile n f).reform = s.reform := rfl
@[simp] theorem State.updTile_ops (f : Tile → Tile) : (s.updTile n f).ops = s.ops := rfl
@[simp] theorem State.updTile_joints (f : Tile → Tile) : (s.updTile n f).joints = s.joints := rfl
@[simp] theorem State.updTile_tiles (f : Tile → Tile) : (s.updTile n f).tiles = s.tiles.modify n f := rfl
@[simp] theorem State.updTile_accs (f : Tile → Tile) : (s.updTile n f).accs = s.accs := rfl
@[simp] theorem State.updTile_clusters (f : Tile → Tile) : (s.updTile n f).clusters = s.clusters := rfl
@[simp] theorem State.updTile_walkers (f : Tile → Tile) : (s.updTile n f).walkers = s.walkers := rfl
@[simp] theorem State.updTile_cmds (f : Tile → Tile) : (s.updTile n f).cmds = s.cmds := rfl
@[simp] theorem State.updTile_racc (f : Tile → Tile) : (s.updTile n f).racc = s.racc := rfl
@[simp] theorem State.updTile_tkCount (f : Tile → Tile) : (s.updTile n f).tkCount = s.tkCount := rfl
@[simp] theorem State.updTile_noticed (f : Tile → Tile) : (s.updTile n f).noticed = s.noticed := rfl
@[simp] theorem State.updTile_fabric (f : Tile → Tile) : (s.updTile n f).fabric = s.fabric := rfl
@[simp] theorem State.updTile_outbox (f : Tile → Tile) : (s.updTile n f).outbox = s.outbox := rfl
@[simp] theorem State.updTile_shadows (f : Tile → Tile) : (s.updTile n f).shadows = s.shadows := rfl
@[simp] theorem State.updTile_tickets (f : Tile → Tile) : (s.updTile n f).tickets = s.tickets := rfl
@[simp] theorem State.updTile_tkNext (f : Tile → Tile) : (s.updTile n f).tkNext = s.tkNext := rfl
@[simp] theorem State.updTile_tkWait (f : Tile → Tile) : (s.updTile n f).tkWait = s.tkWait := rfl
@[simp] theorem State.updTile_rounds (f : Tile → Tile) : (s.updTile n f).rounds = s.rounds := rfl
@[simp] theorem State.updTile_noGroups (f : Tile → Tile) : (s.updTile n f).noGroups = s.noGroups := rfl
@[simp] theorem State.updTile_parts (f : Tile → Tile) : (s.updTile n f).parts = s.parts := rfl
@[simp] theorem State.updTile_cores (f : Tile → Tile) : (s.updTile n f).cores = s.cores := rfl
@[simp] theorem State.updTile_stks (f : Tile → Tile) : (s.updTile n f).stks = s.stks := rfl
@[simp] theorem State.updTile_scrubPeriod (f : Tile → Tile) : (s.updTile n f).scrubPeriod = s.scrubPeriod := rfl
@[simp] theorem State.updTile_scrubPasses (f : Tile → Tile) : (s.updTile n f).scrubPasses = s.scrubPasses := rfl
@[simp] theorem State.updTile_patrol (f : Tile → Tile) : (s.updTile n f).patrol = s.patrol := rfl
@[simp] theorem State.updTile_patrolFrom (f : Tile → Tile) : (s.updTile n f).patrolFrom = s.patrolFrom := rfl
@[simp] theorem State.updTile_portWait (f : Tile → Tile) : (s.updTile n f).portWait = s.portWait := rfl
@[simp] theorem State.updTile_links (f : Tile → Tile) : (s.updTile n f).links = s.links := rfl
@[simp] theorem State.updTile_hk (f : Tile → Tile) : (s.updTile n f).hk = s.hk := rfl
@[simp] theorem State.updTile_cur (f : Tile → Tile) : (s.updTile n f).cur = s.cur := rfl
@[simp] theorem State.updTile_issue (f : Tile → Tile) : (s.updTile n f).issue = s.issue := rfl
@[simp] theorem State.updTile_agenda (f : Tile → Tile) : (s.updTile n f).agenda = s.agenda := rfl
@[simp] theorem State.updTile_turn (f : Tile → Tile) : (s.updTile n f).turn = s.turn := rfl
@[simp] theorem State.updTile_free (f : Tile → Tile) : (s.updTile n f).free = s.free := rfl

@[simp] theorem State.updAcc_cyc (f : RAccess → RAccess) : (s.updAcc n f).cyc = s.cyc := rfl
@[simp] theorem State.updAcc_mem (f : RAccess → RAccess) : (s.updAcc n f).mem = s.mem := rfl
@[simp] theorem State.updAcc_poison (f : RAccess → RAccess) : (s.updAcc n f).poison = s.poison := rfl
@[simp] theorem State.updAcc_arrayErr (f : RAccess → RAccess) : (s.updAcc n f).arrayErr = s.arrayErr := rfl
@[simp] theorem State.updAcc_posted (f : RAccess → RAccess) : (s.updAcc n f).posted = s.posted := rfl
@[simp] theorem State.updAcc_loads (f : RAccess → RAccess) : (s.updAcc n f).loads = s.loads := rfl
@[simp] theorem State.updAcc_tlb (f : RAccess → RAccess) : (s.updAcc n f).tlb = s.tlb := rfl
@[simp] theorem State.updAcc_tlbGen (f : RAccess → RAccess) : (s.updAcc n f).tlbGen = s.tlbGen := rfl
@[simp] theorem State.updAcc_tlbinvs (f : RAccess → RAccess) : (s.updAcc n f).tlbinvs = s.tlbinvs := rfl
@[simp] theorem State.updAcc_migs (f : RAccess → RAccess) : (s.updAcc n f).migs = s.migs := rfl
@[simp] theorem State.updAcc_migWait (f : RAccess → RAccess) : (s.updAcc n f).migWait = s.migWait := rfl
@[simp] theorem State.updAcc_wvc (f : RAccess → RAccess) : (s.updAcc n f).wvc = s.wvc := rfl
@[simp] theorem State.updAcc_threads (f : RAccess → RAccess) : (s.updAcc n f).threads = s.threads := rfl
@[simp] theorem State.updAcc_crews (f : RAccess → RAccess) : (s.updAcc n f).crews = s.crews := rfl
@[simp] theorem State.updAcc_wgs (f : RAccess → RAccess) : (s.updAcc n f).wgs = s.wgs := rfl
@[simp] theorem State.updAcc_launches (f : RAccess → RAccess) : (s.updAcc n f).launches = s.launches := rfl
@[simp] theorem State.updAcc_bundles (f : RAccess → RAccess) : (s.updAcc n f).bundles = s.bundles := rfl
@[simp] theorem State.updAcc_reform (f : RAccess → RAccess) : (s.updAcc n f).reform = s.reform := rfl
@[simp] theorem State.updAcc_ops (f : RAccess → RAccess) : (s.updAcc n f).ops = s.ops := rfl
@[simp] theorem State.updAcc_joints (f : RAccess → RAccess) : (s.updAcc n f).joints = s.joints := rfl
@[simp] theorem State.updAcc_tiles (f : RAccess → RAccess) : (s.updAcc n f).tiles = s.tiles := rfl
@[simp] theorem State.updAcc_accs (f : RAccess → RAccess) : (s.updAcc n f).accs = s.accs := rfl
@[simp] theorem State.updAcc_clusters (f : RAccess → RAccess) : (s.updAcc n f).clusters = s.clusters := rfl
@[simp] theorem State.updAcc_walkers (f : RAccess → RAccess) : (s.updAcc n f).walkers = s.walkers := rfl
@[simp] theorem State.updAcc_cmds (f : RAccess → RAccess) : (s.updAcc n f).cmds = s.cmds := rfl
@[simp] theorem State.updAcc_racc (f : RAccess → RAccess) : (s.updAcc n f).racc = s.racc.modify n f := rfl
@[simp] theorem State.updAcc_tkCount (f : RAccess → RAccess) : (s.updAcc n f).tkCount = s.tkCount := rfl
@[simp] theorem State.updAcc_noticed (f : RAccess → RAccess) : (s.updAcc n f).noticed = s.noticed := rfl
@[simp] theorem State.updAcc_fabric (f : RAccess → RAccess) : (s.updAcc n f).fabric = s.fabric := rfl
@[simp] theorem State.updAcc_outbox (f : RAccess → RAccess) : (s.updAcc n f).outbox = s.outbox := rfl
@[simp] theorem State.updAcc_shadows (f : RAccess → RAccess) : (s.updAcc n f).shadows = s.shadows := rfl
@[simp] theorem State.updAcc_tickets (f : RAccess → RAccess) : (s.updAcc n f).tickets = s.tickets := rfl
@[simp] theorem State.updAcc_tkNext (f : RAccess → RAccess) : (s.updAcc n f).tkNext = s.tkNext := rfl
@[simp] theorem State.updAcc_tkWait (f : RAccess → RAccess) : (s.updAcc n f).tkWait = s.tkWait := rfl
@[simp] theorem State.updAcc_rounds (f : RAccess → RAccess) : (s.updAcc n f).rounds = s.rounds := rfl
@[simp] theorem State.updAcc_noGroups (f : RAccess → RAccess) : (s.updAcc n f).noGroups = s.noGroups := rfl
@[simp] theorem State.updAcc_parts (f : RAccess → RAccess) : (s.updAcc n f).parts = s.parts := rfl
@[simp] theorem State.updAcc_cores (f : RAccess → RAccess) : (s.updAcc n f).cores = s.cores := rfl
@[simp] theorem State.updAcc_stks (f : RAccess → RAccess) : (s.updAcc n f).stks = s.stks := rfl
@[simp] theorem State.updAcc_scrubPeriod (f : RAccess → RAccess) : (s.updAcc n f).scrubPeriod = s.scrubPeriod := rfl
@[simp] theorem State.updAcc_scrubPasses (f : RAccess → RAccess) : (s.updAcc n f).scrubPasses = s.scrubPasses := rfl
@[simp] theorem State.updAcc_patrol (f : RAccess → RAccess) : (s.updAcc n f).patrol = s.patrol := rfl
@[simp] theorem State.updAcc_patrolFrom (f : RAccess → RAccess) : (s.updAcc n f).patrolFrom = s.patrolFrom := rfl
@[simp] theorem State.updAcc_portWait (f : RAccess → RAccess) : (s.updAcc n f).portWait = s.portWait := rfl
@[simp] theorem State.updAcc_links (f : RAccess → RAccess) : (s.updAcc n f).links = s.links := rfl
@[simp] theorem State.updAcc_hk (f : RAccess → RAccess) : (s.updAcc n f).hk = s.hk := rfl
@[simp] theorem State.updAcc_cur (f : RAccess → RAccess) : (s.updAcc n f).cur = s.cur := rfl
@[simp] theorem State.updAcc_issue (f : RAccess → RAccess) : (s.updAcc n f).issue = s.issue := rfl
@[simp] theorem State.updAcc_agenda (f : RAccess → RAccess) : (s.updAcc n f).agenda = s.agenda := rfl
@[simp] theorem State.updAcc_turn (f : RAccess → RAccess) : (s.updAcc n f).turn = s.turn := rfl
@[simp] theorem State.updAcc_free (f : RAccess → RAccess) : (s.updAcc n f).free = s.free := rfl

@[simp] theorem State.updPart_cyc (f : Part → Part) : (s.updPart n f).cyc = s.cyc := rfl
@[simp] theorem State.updPart_mem (f : Part → Part) : (s.updPart n f).mem = s.mem := rfl
@[simp] theorem State.updPart_poison (f : Part → Part) : (s.updPart n f).poison = s.poison := rfl
@[simp] theorem State.updPart_arrayErr (f : Part → Part) : (s.updPart n f).arrayErr = s.arrayErr := rfl
@[simp] theorem State.updPart_posted (f : Part → Part) : (s.updPart n f).posted = s.posted := rfl
@[simp] theorem State.updPart_loads (f : Part → Part) : (s.updPart n f).loads = s.loads := rfl
@[simp] theorem State.updPart_tlb (f : Part → Part) : (s.updPart n f).tlb = s.tlb := rfl
@[simp] theorem State.updPart_tlbGen (f : Part → Part) : (s.updPart n f).tlbGen = s.tlbGen := rfl
@[simp] theorem State.updPart_tlbinvs (f : Part → Part) : (s.updPart n f).tlbinvs = s.tlbinvs := rfl
@[simp] theorem State.updPart_migs (f : Part → Part) : (s.updPart n f).migs = s.migs := rfl
@[simp] theorem State.updPart_migWait (f : Part → Part) : (s.updPart n f).migWait = s.migWait := rfl
@[simp] theorem State.updPart_wvc (f : Part → Part) : (s.updPart n f).wvc = s.wvc := rfl
@[simp] theorem State.updPart_threads (f : Part → Part) : (s.updPart n f).threads = s.threads := rfl
@[simp] theorem State.updPart_crews (f : Part → Part) : (s.updPart n f).crews = s.crews := rfl
@[simp] theorem State.updPart_wgs (f : Part → Part) : (s.updPart n f).wgs = s.wgs := rfl
@[simp] theorem State.updPart_launches (f : Part → Part) : (s.updPart n f).launches = s.launches := rfl
@[simp] theorem State.updPart_bundles (f : Part → Part) : (s.updPart n f).bundles = s.bundles := rfl
@[simp] theorem State.updPart_reform (f : Part → Part) : (s.updPart n f).reform = s.reform := rfl
@[simp] theorem State.updPart_ops (f : Part → Part) : (s.updPart n f).ops = s.ops := rfl
@[simp] theorem State.updPart_joints (f : Part → Part) : (s.updPart n f).joints = s.joints := rfl
@[simp] theorem State.updPart_tiles (f : Part → Part) : (s.updPart n f).tiles = s.tiles := rfl
@[simp] theorem State.updPart_accs (f : Part → Part) : (s.updPart n f).accs = s.accs := rfl
@[simp] theorem State.updPart_clusters (f : Part → Part) : (s.updPart n f).clusters = s.clusters := rfl
@[simp] theorem State.updPart_walkers (f : Part → Part) : (s.updPart n f).walkers = s.walkers := rfl
@[simp] theorem State.updPart_cmds (f : Part → Part) : (s.updPart n f).cmds = s.cmds := rfl
@[simp] theorem State.updPart_racc (f : Part → Part) : (s.updPart n f).racc = s.racc := rfl
@[simp] theorem State.updPart_tkCount (f : Part → Part) : (s.updPart n f).tkCount = s.tkCount := rfl
@[simp] theorem State.updPart_noticed (f : Part → Part) : (s.updPart n f).noticed = s.noticed := rfl
@[simp] theorem State.updPart_fabric (f : Part → Part) : (s.updPart n f).fabric = s.fabric := rfl
@[simp] theorem State.updPart_outbox (f : Part → Part) : (s.updPart n f).outbox = s.outbox := rfl
@[simp] theorem State.updPart_shadows (f : Part → Part) : (s.updPart n f).shadows = s.shadows := rfl
@[simp] theorem State.updPart_tickets (f : Part → Part) : (s.updPart n f).tickets = s.tickets := rfl
@[simp] theorem State.updPart_tkNext (f : Part → Part) : (s.updPart n f).tkNext = s.tkNext := rfl
@[simp] theorem State.updPart_tkWait (f : Part → Part) : (s.updPart n f).tkWait = s.tkWait := rfl
@[simp] theorem State.updPart_rounds (f : Part → Part) : (s.updPart n f).rounds = s.rounds := rfl
@[simp] theorem State.updPart_noGroups (f : Part → Part) : (s.updPart n f).noGroups = s.noGroups := rfl
@[simp] theorem State.updPart_parts (f : Part → Part) : (s.updPart n f).parts = s.parts.upd n f := rfl
@[simp] theorem State.updPart_cores (f : Part → Part) : (s.updPart n f).cores = s.cores := rfl
@[simp] theorem State.updPart_stks (f : Part → Part) : (s.updPart n f).stks = s.stks := rfl
@[simp] theorem State.updPart_scrubPeriod (f : Part → Part) : (s.updPart n f).scrubPeriod = s.scrubPeriod := rfl
@[simp] theorem State.updPart_scrubPasses (f : Part → Part) : (s.updPart n f).scrubPasses = s.scrubPasses := rfl
@[simp] theorem State.updPart_patrol (f : Part → Part) : (s.updPart n f).patrol = s.patrol := rfl
@[simp] theorem State.updPart_patrolFrom (f : Part → Part) : (s.updPart n f).patrolFrom = s.patrolFrom := rfl
@[simp] theorem State.updPart_portWait (f : Part → Part) : (s.updPart n f).portWait = s.portWait := rfl
@[simp] theorem State.updPart_links (f : Part → Part) : (s.updPart n f).links = s.links := rfl
@[simp] theorem State.updPart_hk (f : Part → Part) : (s.updPart n f).hk = s.hk := rfl
@[simp] theorem State.updPart_cur (f : Part → Part) : (s.updPart n f).cur = s.cur := rfl
@[simp] theorem State.updPart_issue (f : Part → Part) : (s.updPart n f).issue = s.issue := rfl
@[simp] theorem State.updPart_agenda (f : Part → Part) : (s.updPart n f).agenda = s.agenda := rfl
@[simp] theorem State.updPart_turn (f : Part → Part) : (s.updPart n f).turn = s.turn := rfl
@[simp] theorem State.updPart_free (f : Part → Part) : (s.updPart n f).free = s.free := rfl

@[simp] theorem State.updCore_cyc (f : CoreSt → CoreSt) : (s.updCore n f).cyc = s.cyc := rfl
@[simp] theorem State.updCore_mem (f : CoreSt → CoreSt) : (s.updCore n f).mem = s.mem := rfl
@[simp] theorem State.updCore_poison (f : CoreSt → CoreSt) : (s.updCore n f).poison = s.poison := rfl
@[simp] theorem State.updCore_arrayErr (f : CoreSt → CoreSt) : (s.updCore n f).arrayErr = s.arrayErr := rfl
@[simp] theorem State.updCore_posted (f : CoreSt → CoreSt) : (s.updCore n f).posted = s.posted := rfl
@[simp] theorem State.updCore_loads (f : CoreSt → CoreSt) : (s.updCore n f).loads = s.loads := rfl
@[simp] theorem State.updCore_tlb (f : CoreSt → CoreSt) : (s.updCore n f).tlb = s.tlb := rfl
@[simp] theorem State.updCore_tlbGen (f : CoreSt → CoreSt) : (s.updCore n f).tlbGen = s.tlbGen := rfl
@[simp] theorem State.updCore_tlbinvs (f : CoreSt → CoreSt) : (s.updCore n f).tlbinvs = s.tlbinvs := rfl
@[simp] theorem State.updCore_migs (f : CoreSt → CoreSt) : (s.updCore n f).migs = s.migs := rfl
@[simp] theorem State.updCore_migWait (f : CoreSt → CoreSt) : (s.updCore n f).migWait = s.migWait := rfl
@[simp] theorem State.updCore_wvc (f : CoreSt → CoreSt) : (s.updCore n f).wvc = s.wvc := rfl
@[simp] theorem State.updCore_threads (f : CoreSt → CoreSt) : (s.updCore n f).threads = s.threads := rfl
@[simp] theorem State.updCore_crews (f : CoreSt → CoreSt) : (s.updCore n f).crews = s.crews := rfl
@[simp] theorem State.updCore_wgs (f : CoreSt → CoreSt) : (s.updCore n f).wgs = s.wgs := rfl
@[simp] theorem State.updCore_launches (f : CoreSt → CoreSt) : (s.updCore n f).launches = s.launches := rfl
@[simp] theorem State.updCore_bundles (f : CoreSt → CoreSt) : (s.updCore n f).bundles = s.bundles := rfl
@[simp] theorem State.updCore_reform (f : CoreSt → CoreSt) : (s.updCore n f).reform = s.reform := rfl
@[simp] theorem State.updCore_ops (f : CoreSt → CoreSt) : (s.updCore n f).ops = s.ops := rfl
@[simp] theorem State.updCore_joints (f : CoreSt → CoreSt) : (s.updCore n f).joints = s.joints := rfl
@[simp] theorem State.updCore_tiles (f : CoreSt → CoreSt) : (s.updCore n f).tiles = s.tiles := rfl
@[simp] theorem State.updCore_accs (f : CoreSt → CoreSt) : (s.updCore n f).accs = s.accs := rfl
@[simp] theorem State.updCore_clusters (f : CoreSt → CoreSt) : (s.updCore n f).clusters = s.clusters := rfl
@[simp] theorem State.updCore_walkers (f : CoreSt → CoreSt) : (s.updCore n f).walkers = s.walkers := rfl
@[simp] theorem State.updCore_cmds (f : CoreSt → CoreSt) : (s.updCore n f).cmds = s.cmds := rfl
@[simp] theorem State.updCore_racc (f : CoreSt → CoreSt) : (s.updCore n f).racc = s.racc := rfl
@[simp] theorem State.updCore_tkCount (f : CoreSt → CoreSt) : (s.updCore n f).tkCount = s.tkCount := rfl
@[simp] theorem State.updCore_noticed (f : CoreSt → CoreSt) : (s.updCore n f).noticed = s.noticed := rfl
@[simp] theorem State.updCore_fabric (f : CoreSt → CoreSt) : (s.updCore n f).fabric = s.fabric := rfl
@[simp] theorem State.updCore_outbox (f : CoreSt → CoreSt) : (s.updCore n f).outbox = s.outbox := rfl
@[simp] theorem State.updCore_shadows (f : CoreSt → CoreSt) : (s.updCore n f).shadows = s.shadows := rfl
@[simp] theorem State.updCore_tickets (f : CoreSt → CoreSt) : (s.updCore n f).tickets = s.tickets := rfl
@[simp] theorem State.updCore_tkNext (f : CoreSt → CoreSt) : (s.updCore n f).tkNext = s.tkNext := rfl
@[simp] theorem State.updCore_tkWait (f : CoreSt → CoreSt) : (s.updCore n f).tkWait = s.tkWait := rfl
@[simp] theorem State.updCore_rounds (f : CoreSt → CoreSt) : (s.updCore n f).rounds = s.rounds := rfl
@[simp] theorem State.updCore_noGroups (f : CoreSt → CoreSt) : (s.updCore n f).noGroups = s.noGroups := rfl
@[simp] theorem State.updCore_parts (f : CoreSt → CoreSt) : (s.updCore n f).parts = s.parts := rfl
@[simp] theorem State.updCore_cores (f : CoreSt → CoreSt) : (s.updCore n f).cores = s.cores.upd n f := rfl
@[simp] theorem State.updCore_stks (f : CoreSt → CoreSt) : (s.updCore n f).stks = s.stks := rfl
@[simp] theorem State.updCore_scrubPeriod (f : CoreSt → CoreSt) : (s.updCore n f).scrubPeriod = s.scrubPeriod := rfl
@[simp] theorem State.updCore_scrubPasses (f : CoreSt → CoreSt) : (s.updCore n f).scrubPasses = s.scrubPasses := rfl
@[simp] theorem State.updCore_patrol (f : CoreSt → CoreSt) : (s.updCore n f).patrol = s.patrol := rfl
@[simp] theorem State.updCore_patrolFrom (f : CoreSt → CoreSt) : (s.updCore n f).patrolFrom = s.patrolFrom := rfl
@[simp] theorem State.updCore_portWait (f : CoreSt → CoreSt) : (s.updCore n f).portWait = s.portWait := rfl
@[simp] theorem State.updCore_links (f : CoreSt → CoreSt) : (s.updCore n f).links = s.links := rfl
@[simp] theorem State.updCore_hk (f : CoreSt → CoreSt) : (s.updCore n f).hk = s.hk := rfl
@[simp] theorem State.updCore_cur (f : CoreSt → CoreSt) : (s.updCore n f).cur = s.cur := rfl
@[simp] theorem State.updCore_issue (f : CoreSt → CoreSt) : (s.updCore n f).issue = s.issue := rfl
@[simp] theorem State.updCore_agenda (f : CoreSt → CoreSt) : (s.updCore n f).agenda = s.agenda := rfl
@[simp] theorem State.updCore_turn (f : CoreSt → CoreSt) : (s.updCore n f).turn = s.turn := rfl
@[simp] theorem State.updCore_free (f : CoreSt → CoreSt) : (s.updCore n f).free = s.free := rfl

@[simp] theorem State.updStk_cyc (f : StackSt → StackSt) : (s.updStk n f).cyc = s.cyc := rfl
@[simp] theorem State.updStk_mem (f : StackSt → StackSt) : (s.updStk n f).mem = s.mem := rfl
@[simp] theorem State.updStk_poison (f : StackSt → StackSt) : (s.updStk n f).poison = s.poison := rfl
@[simp] theorem State.updStk_arrayErr (f : StackSt → StackSt) : (s.updStk n f).arrayErr = s.arrayErr := rfl
@[simp] theorem State.updStk_posted (f : StackSt → StackSt) : (s.updStk n f).posted = s.posted := rfl
@[simp] theorem State.updStk_loads (f : StackSt → StackSt) : (s.updStk n f).loads = s.loads := rfl
@[simp] theorem State.updStk_tlb (f : StackSt → StackSt) : (s.updStk n f).tlb = s.tlb := rfl
@[simp] theorem State.updStk_tlbGen (f : StackSt → StackSt) : (s.updStk n f).tlbGen = s.tlbGen := rfl
@[simp] theorem State.updStk_tlbinvs (f : StackSt → StackSt) : (s.updStk n f).tlbinvs = s.tlbinvs := rfl
@[simp] theorem State.updStk_migs (f : StackSt → StackSt) : (s.updStk n f).migs = s.migs := rfl
@[simp] theorem State.updStk_migWait (f : StackSt → StackSt) : (s.updStk n f).migWait = s.migWait := rfl
@[simp] theorem State.updStk_wvc (f : StackSt → StackSt) : (s.updStk n f).wvc = s.wvc := rfl
@[simp] theorem State.updStk_threads (f : StackSt → StackSt) : (s.updStk n f).threads = s.threads := rfl
@[simp] theorem State.updStk_crews (f : StackSt → StackSt) : (s.updStk n f).crews = s.crews := rfl
@[simp] theorem State.updStk_wgs (f : StackSt → StackSt) : (s.updStk n f).wgs = s.wgs := rfl
@[simp] theorem State.updStk_launches (f : StackSt → StackSt) : (s.updStk n f).launches = s.launches := rfl
@[simp] theorem State.updStk_bundles (f : StackSt → StackSt) : (s.updStk n f).bundles = s.bundles := rfl
@[simp] theorem State.updStk_reform (f : StackSt → StackSt) : (s.updStk n f).reform = s.reform := rfl
@[simp] theorem State.updStk_ops (f : StackSt → StackSt) : (s.updStk n f).ops = s.ops := rfl
@[simp] theorem State.updStk_joints (f : StackSt → StackSt) : (s.updStk n f).joints = s.joints := rfl
@[simp] theorem State.updStk_tiles (f : StackSt → StackSt) : (s.updStk n f).tiles = s.tiles := rfl
@[simp] theorem State.updStk_accs (f : StackSt → StackSt) : (s.updStk n f).accs = s.accs := rfl
@[simp] theorem State.updStk_clusters (f : StackSt → StackSt) : (s.updStk n f).clusters = s.clusters := rfl
@[simp] theorem State.updStk_walkers (f : StackSt → StackSt) : (s.updStk n f).walkers = s.walkers := rfl
@[simp] theorem State.updStk_cmds (f : StackSt → StackSt) : (s.updStk n f).cmds = s.cmds := rfl
@[simp] theorem State.updStk_racc (f : StackSt → StackSt) : (s.updStk n f).racc = s.racc := rfl
@[simp] theorem State.updStk_tkCount (f : StackSt → StackSt) : (s.updStk n f).tkCount = s.tkCount := rfl
@[simp] theorem State.updStk_noticed (f : StackSt → StackSt) : (s.updStk n f).noticed = s.noticed := rfl
@[simp] theorem State.updStk_fabric (f : StackSt → StackSt) : (s.updStk n f).fabric = s.fabric := rfl
@[simp] theorem State.updStk_outbox (f : StackSt → StackSt) : (s.updStk n f).outbox = s.outbox := rfl
@[simp] theorem State.updStk_shadows (f : StackSt → StackSt) : (s.updStk n f).shadows = s.shadows := rfl
@[simp] theorem State.updStk_tickets (f : StackSt → StackSt) : (s.updStk n f).tickets = s.tickets := rfl
@[simp] theorem State.updStk_tkNext (f : StackSt → StackSt) : (s.updStk n f).tkNext = s.tkNext := rfl
@[simp] theorem State.updStk_tkWait (f : StackSt → StackSt) : (s.updStk n f).tkWait = s.tkWait := rfl
@[simp] theorem State.updStk_rounds (f : StackSt → StackSt) : (s.updStk n f).rounds = s.rounds := rfl
@[simp] theorem State.updStk_noGroups (f : StackSt → StackSt) : (s.updStk n f).noGroups = s.noGroups := rfl
@[simp] theorem State.updStk_parts (f : StackSt → StackSt) : (s.updStk n f).parts = s.parts := rfl
@[simp] theorem State.updStk_cores (f : StackSt → StackSt) : (s.updStk n f).cores = s.cores := rfl
@[simp] theorem State.updStk_stks (f : StackSt → StackSt) : (s.updStk n f).stks = s.stks.upd n f := rfl
@[simp] theorem State.updStk_scrubPeriod (f : StackSt → StackSt) : (s.updStk n f).scrubPeriod = s.scrubPeriod := rfl
@[simp] theorem State.updStk_scrubPasses (f : StackSt → StackSt) : (s.updStk n f).scrubPasses = s.scrubPasses := rfl
@[simp] theorem State.updStk_patrol (f : StackSt → StackSt) : (s.updStk n f).patrol = s.patrol := rfl
@[simp] theorem State.updStk_patrolFrom (f : StackSt → StackSt) : (s.updStk n f).patrolFrom = s.patrolFrom := rfl
@[simp] theorem State.updStk_portWait (f : StackSt → StackSt) : (s.updStk n f).portWait = s.portWait := rfl
@[simp] theorem State.updStk_links (f : StackSt → StackSt) : (s.updStk n f).links = s.links := rfl
@[simp] theorem State.updStk_hk (f : StackSt → StackSt) : (s.updStk n f).hk = s.hk := rfl
@[simp] theorem State.updStk_cur (f : StackSt → StackSt) : (s.updStk n f).cur = s.cur := rfl
@[simp] theorem State.updStk_issue (f : StackSt → StackSt) : (s.updStk n f).issue = s.issue := rfl
@[simp] theorem State.updStk_agenda (f : StackSt → StackSt) : (s.updStk n f).agenda = s.agenda := rfl
@[simp] theorem State.updStk_turn (f : StackSt → StackSt) : (s.updStk n f).turn = s.turn := rfl
@[simp] theorem State.updStk_free (f : StackSt → StackSt) : (s.updStk n f).free = s.free := rfl

@[simp] theorem State.updHk_cyc (f : Hk → Hk) : (s.updHk f).cyc = s.cyc := rfl
@[simp] theorem State.updHk_mem (f : Hk → Hk) : (s.updHk f).mem = s.mem := rfl
@[simp] theorem State.updHk_poison (f : Hk → Hk) : (s.updHk f).poison = s.poison := rfl
@[simp] theorem State.updHk_arrayErr (f : Hk → Hk) : (s.updHk f).arrayErr = s.arrayErr := rfl
@[simp] theorem State.updHk_posted (f : Hk → Hk) : (s.updHk f).posted = s.posted := rfl
@[simp] theorem State.updHk_loads (f : Hk → Hk) : (s.updHk f).loads = s.loads := rfl
@[simp] theorem State.updHk_tlb (f : Hk → Hk) : (s.updHk f).tlb = s.tlb := rfl
@[simp] theorem State.updHk_tlbGen (f : Hk → Hk) : (s.updHk f).tlbGen = s.tlbGen := rfl
@[simp] theorem State.updHk_tlbinvs (f : Hk → Hk) : (s.updHk f).tlbinvs = s.tlbinvs := rfl
@[simp] theorem State.updHk_migs (f : Hk → Hk) : (s.updHk f).migs = s.migs := rfl
@[simp] theorem State.updHk_migWait (f : Hk → Hk) : (s.updHk f).migWait = s.migWait := rfl
@[simp] theorem State.updHk_wvc (f : Hk → Hk) : (s.updHk f).wvc = s.wvc := rfl
@[simp] theorem State.updHk_threads (f : Hk → Hk) : (s.updHk f).threads = s.threads := rfl
@[simp] theorem State.updHk_crews (f : Hk → Hk) : (s.updHk f).crews = s.crews := rfl
@[simp] theorem State.updHk_wgs (f : Hk → Hk) : (s.updHk f).wgs = s.wgs := rfl
@[simp] theorem State.updHk_launches (f : Hk → Hk) : (s.updHk f).launches = s.launches := rfl
@[simp] theorem State.updHk_bundles (f : Hk → Hk) : (s.updHk f).bundles = s.bundles := rfl
@[simp] theorem State.updHk_reform (f : Hk → Hk) : (s.updHk f).reform = s.reform := rfl
@[simp] theorem State.updHk_ops (f : Hk → Hk) : (s.updHk f).ops = s.ops := rfl
@[simp] theorem State.updHk_joints (f : Hk → Hk) : (s.updHk f).joints = s.joints := rfl
@[simp] theorem State.updHk_tiles (f : Hk → Hk) : (s.updHk f).tiles = s.tiles := rfl
@[simp] theorem State.updHk_accs (f : Hk → Hk) : (s.updHk f).accs = s.accs := rfl
@[simp] theorem State.updHk_clusters (f : Hk → Hk) : (s.updHk f).clusters = s.clusters := rfl
@[simp] theorem State.updHk_walkers (f : Hk → Hk) : (s.updHk f).walkers = s.walkers := rfl
@[simp] theorem State.updHk_cmds (f : Hk → Hk) : (s.updHk f).cmds = s.cmds := rfl
@[simp] theorem State.updHk_racc (f : Hk → Hk) : (s.updHk f).racc = s.racc := rfl
@[simp] theorem State.updHk_tkCount (f : Hk → Hk) : (s.updHk f).tkCount = s.tkCount := rfl
@[simp] theorem State.updHk_noticed (f : Hk → Hk) : (s.updHk f).noticed = s.noticed := rfl
@[simp] theorem State.updHk_fabric (f : Hk → Hk) : (s.updHk f).fabric = s.fabric := rfl
@[simp] theorem State.updHk_outbox (f : Hk → Hk) : (s.updHk f).outbox = s.outbox := rfl
@[simp] theorem State.updHk_shadows (f : Hk → Hk) : (s.updHk f).shadows = s.shadows := rfl
@[simp] theorem State.updHk_tickets (f : Hk → Hk) : (s.updHk f).tickets = s.tickets := rfl
@[simp] theorem State.updHk_tkNext (f : Hk → Hk) : (s.updHk f).tkNext = s.tkNext := rfl
@[simp] theorem State.updHk_tkWait (f : Hk → Hk) : (s.updHk f).tkWait = s.tkWait := rfl
@[simp] theorem State.updHk_rounds (f : Hk → Hk) : (s.updHk f).rounds = s.rounds := rfl
@[simp] theorem State.updHk_noGroups (f : Hk → Hk) : (s.updHk f).noGroups = s.noGroups := rfl
@[simp] theorem State.updHk_parts (f : Hk → Hk) : (s.updHk f).parts = s.parts := rfl
@[simp] theorem State.updHk_cores (f : Hk → Hk) : (s.updHk f).cores = s.cores := rfl
@[simp] theorem State.updHk_stks (f : Hk → Hk) : (s.updHk f).stks = s.stks := rfl
@[simp] theorem State.updHk_scrubPeriod (f : Hk → Hk) : (s.updHk f).scrubPeriod = s.scrubPeriod := rfl
@[simp] theorem State.updHk_scrubPasses (f : Hk → Hk) : (s.updHk f).scrubPasses = s.scrubPasses := rfl
@[simp] theorem State.updHk_patrol (f : Hk → Hk) : (s.updHk f).patrol = s.patrol := rfl
@[simp] theorem State.updHk_patrolFrom (f : Hk → Hk) : (s.updHk f).patrolFrom = s.patrolFrom := rfl
@[simp] theorem State.updHk_portWait (f : Hk → Hk) : (s.updHk f).portWait = s.portWait := rfl
@[simp] theorem State.updHk_links (f : Hk → Hk) : (s.updHk f).links = s.links := rfl
@[simp] theorem State.updHk_hk (f : Hk → Hk) : (s.updHk f).hk = f s.hk := rfl
@[simp] theorem State.updHk_cur (f : Hk → Hk) : (s.updHk f).cur = s.cur := rfl
@[simp] theorem State.updHk_issue (f : Hk → Hk) : (s.updHk f).issue = s.issue := rfl
@[simp] theorem State.updHk_agenda (f : Hk → Hk) : (s.updHk f).agenda = s.agenda := rfl
@[simp] theorem State.updHk_turn (f : Hk → Hk) : (s.updHk f).turn = s.turn := rfl
@[simp] theorem State.updHk_free (f : Hk → Hk) : (s.updHk f).free = s.free := rfl

@[simp] theorem State.updRein_cyc (f : ReinLink → ReinLink) : (s.updRein n f).cyc = s.cyc := rfl
@[simp] theorem State.updRein_mem (f : ReinLink → ReinLink) : (s.updRein n f).mem = s.mem := rfl
@[simp] theorem State.updRein_poison (f : ReinLink → ReinLink) : (s.updRein n f).poison = s.poison := rfl
@[simp] theorem State.updRein_arrayErr (f : ReinLink → ReinLink) : (s.updRein n f).arrayErr = s.arrayErr := rfl
@[simp] theorem State.updRein_posted (f : ReinLink → ReinLink) : (s.updRein n f).posted = s.posted := rfl
@[simp] theorem State.updRein_loads (f : ReinLink → ReinLink) : (s.updRein n f).loads = s.loads := rfl
@[simp] theorem State.updRein_tlb (f : ReinLink → ReinLink) : (s.updRein n f).tlb = s.tlb := rfl
@[simp] theorem State.updRein_tlbGen (f : ReinLink → ReinLink) : (s.updRein n f).tlbGen = s.tlbGen := rfl
@[simp] theorem State.updRein_tlbinvs (f : ReinLink → ReinLink) : (s.updRein n f).tlbinvs = s.tlbinvs := rfl
@[simp] theorem State.updRein_migs (f : ReinLink → ReinLink) : (s.updRein n f).migs = s.migs := rfl
@[simp] theorem State.updRein_migWait (f : ReinLink → ReinLink) : (s.updRein n f).migWait = s.migWait := rfl
@[simp] theorem State.updRein_wvc (f : ReinLink → ReinLink) : (s.updRein n f).wvc = s.wvc := rfl
@[simp] theorem State.updRein_threads (f : ReinLink → ReinLink) : (s.updRein n f).threads = s.threads := rfl
@[simp] theorem State.updRein_crews (f : ReinLink → ReinLink) : (s.updRein n f).crews = s.crews := rfl
@[simp] theorem State.updRein_wgs (f : ReinLink → ReinLink) : (s.updRein n f).wgs = s.wgs := rfl
@[simp] theorem State.updRein_launches (f : ReinLink → ReinLink) : (s.updRein n f).launches = s.launches := rfl
@[simp] theorem State.updRein_bundles (f : ReinLink → ReinLink) : (s.updRein n f).bundles = s.bundles := rfl
@[simp] theorem State.updRein_reform (f : ReinLink → ReinLink) : (s.updRein n f).reform = s.reform := rfl
@[simp] theorem State.updRein_ops (f : ReinLink → ReinLink) : (s.updRein n f).ops = s.ops := rfl
@[simp] theorem State.updRein_joints (f : ReinLink → ReinLink) : (s.updRein n f).joints = s.joints := rfl
@[simp] theorem State.updRein_tiles (f : ReinLink → ReinLink) : (s.updRein n f).tiles = s.tiles := rfl
@[simp] theorem State.updRein_accs (f : ReinLink → ReinLink) : (s.updRein n f).accs = s.accs := rfl
@[simp] theorem State.updRein_clusters (f : ReinLink → ReinLink) : (s.updRein n f).clusters = s.clusters := rfl
@[simp] theorem State.updRein_walkers (f : ReinLink → ReinLink) : (s.updRein n f).walkers = s.walkers := rfl
@[simp] theorem State.updRein_cmds (f : ReinLink → ReinLink) : (s.updRein n f).cmds = s.cmds := rfl
@[simp] theorem State.updRein_racc (f : ReinLink → ReinLink) : (s.updRein n f).racc = s.racc := rfl
@[simp] theorem State.updRein_tkCount (f : ReinLink → ReinLink) : (s.updRein n f).tkCount = s.tkCount := rfl
@[simp] theorem State.updRein_noticed (f : ReinLink → ReinLink) : (s.updRein n f).noticed = s.noticed := rfl
@[simp] theorem State.updRein_fabric (f : ReinLink → ReinLink) : (s.updRein n f).fabric = s.fabric := rfl
@[simp] theorem State.updRein_outbox (f : ReinLink → ReinLink) : (s.updRein n f).outbox = s.outbox := rfl
@[simp] theorem State.updRein_shadows (f : ReinLink → ReinLink) : (s.updRein n f).shadows = s.shadows := rfl
@[simp] theorem State.updRein_tickets (f : ReinLink → ReinLink) : (s.updRein n f).tickets = s.tickets := rfl
@[simp] theorem State.updRein_tkNext (f : ReinLink → ReinLink) : (s.updRein n f).tkNext = s.tkNext := rfl
@[simp] theorem State.updRein_tkWait (f : ReinLink → ReinLink) : (s.updRein n f).tkWait = s.tkWait := rfl
@[simp] theorem State.updRein_rounds (f : ReinLink → ReinLink) : (s.updRein n f).rounds = s.rounds := rfl
@[simp] theorem State.updRein_noGroups (f : ReinLink → ReinLink) : (s.updRein n f).noGroups = s.noGroups := rfl
@[simp] theorem State.updRein_parts (f : ReinLink → ReinLink) : (s.updRein n f).parts = s.parts := rfl
@[simp] theorem State.updRein_cores (f : ReinLink → ReinLink) : (s.updRein n f).cores = s.cores := rfl
@[simp] theorem State.updRein_stks (f : ReinLink → ReinLink) : (s.updRein n f).stks = s.stks := rfl
@[simp] theorem State.updRein_scrubPeriod (f : ReinLink → ReinLink) : (s.updRein n f).scrubPeriod = s.scrubPeriod := rfl
@[simp] theorem State.updRein_scrubPasses (f : ReinLink → ReinLink) : (s.updRein n f).scrubPasses = s.scrubPasses := rfl
@[simp] theorem State.updRein_patrol (f : ReinLink → ReinLink) : (s.updRein n f).patrol = s.patrol := rfl
@[simp] theorem State.updRein_patrolFrom (f : ReinLink → ReinLink) : (s.updRein n f).patrolFrom = s.patrolFrom := rfl
@[simp] theorem State.updRein_portWait (f : ReinLink → ReinLink) : (s.updRein n f).portWait = s.portWait := rfl
@[simp] theorem State.updRein_links (f : ReinLink → ReinLink) : (s.updRein n f).links = ({ s.links with rein := s.links.rein.upd n f } : Links).pumpFlits s.cyc.toNat := rfl
@[simp] theorem State.updRein_hk (f : ReinLink → ReinLink) : (s.updRein n f).hk = s.hk := rfl
@[simp] theorem State.updRein_cur (f : ReinLink → ReinLink) : (s.updRein n f).cur = s.cur := rfl
@[simp] theorem State.updRein_issue (f : ReinLink → ReinLink) : (s.updRein n f).issue = s.issue := rfl
@[simp] theorem State.updRein_agenda (f : ReinLink → ReinLink) : (s.updRein n f).agenda = s.agenda := rfl
@[simp] theorem State.updRein_turn (f : ReinLink → ReinLink) : (s.updRein n f).turn = s.turn := rfl
@[simp] theorem State.updRein_free (f : ReinLink → ReinLink) : (s.updRein n f).free = s.free := rfl

@[simp] theorem State.draw_free : s.draw.free = s.free + 1 := rfl
@[simp] theorem State.draw_cyc : s.draw.cyc = s.cyc := rfl
@[simp] theorem State.draw_mem : s.draw.mem = s.mem := rfl
@[simp] theorem State.draw_poison : s.draw.poison = s.poison := rfl
@[simp] theorem State.draw_arrayErr : s.draw.arrayErr = s.arrayErr := rfl
@[simp] theorem State.draw_posted : s.draw.posted = s.posted := rfl
@[simp] theorem State.draw_loads : s.draw.loads = s.loads := rfl
@[simp] theorem State.draw_tlb : s.draw.tlb = s.tlb := rfl
@[simp] theorem State.draw_tlbGen : s.draw.tlbGen = s.tlbGen := rfl
@[simp] theorem State.draw_tlbinvs : s.draw.tlbinvs = s.tlbinvs := rfl
@[simp] theorem State.draw_migs : s.draw.migs = s.migs := rfl
@[simp] theorem State.draw_migWait : s.draw.migWait = s.migWait := rfl
@[simp] theorem State.draw_wvc : s.draw.wvc = s.wvc := rfl
@[simp] theorem State.draw_threads : s.draw.threads = s.threads := rfl
@[simp] theorem State.draw_crews : s.draw.crews = s.crews := rfl
@[simp] theorem State.draw_wgs : s.draw.wgs = s.wgs := rfl
@[simp] theorem State.draw_launches : s.draw.launches = s.launches := rfl
@[simp] theorem State.draw_bundles : s.draw.bundles = s.bundles := rfl
@[simp] theorem State.draw_reform : s.draw.reform = s.reform := rfl
@[simp] theorem State.draw_ops : s.draw.ops = s.ops := rfl
@[simp] theorem State.draw_joints : s.draw.joints = s.joints := rfl
@[simp] theorem State.draw_tiles : s.draw.tiles = s.tiles := rfl
@[simp] theorem State.draw_accs : s.draw.accs = s.accs := rfl
@[simp] theorem State.draw_clusters : s.draw.clusters = s.clusters := rfl
@[simp] theorem State.draw_walkers : s.draw.walkers = s.walkers := rfl
@[simp] theorem State.draw_cmds : s.draw.cmds = s.cmds := rfl
@[simp] theorem State.draw_racc : s.draw.racc = s.racc := rfl
@[simp] theorem State.draw_tkCount : s.draw.tkCount = s.tkCount := rfl
@[simp] theorem State.draw_noticed : s.draw.noticed = s.noticed := rfl
@[simp] theorem State.draw_fabric : s.draw.fabric = s.fabric := rfl
@[simp] theorem State.draw_outbox : s.draw.outbox = s.outbox := rfl
@[simp] theorem State.draw_shadows : s.draw.shadows = s.shadows := rfl
@[simp] theorem State.draw_tickets : s.draw.tickets = s.tickets := rfl
@[simp] theorem State.draw_tkNext : s.draw.tkNext = s.tkNext := rfl
@[simp] theorem State.draw_tkWait : s.draw.tkWait = s.tkWait := rfl
@[simp] theorem State.draw_rounds : s.draw.rounds = s.rounds := rfl
@[simp] theorem State.draw_noGroups : s.draw.noGroups = s.noGroups := rfl
@[simp] theorem State.draw_parts : s.draw.parts = s.parts := rfl
@[simp] theorem State.draw_cores : s.draw.cores = s.cores := rfl
@[simp] theorem State.draw_stks : s.draw.stks = s.stks := rfl
@[simp] theorem State.draw_scrubPeriod : s.draw.scrubPeriod = s.scrubPeriod := rfl
@[simp] theorem State.draw_scrubPasses : s.draw.scrubPasses = s.scrubPasses := rfl
@[simp] theorem State.draw_patrol : s.draw.patrol = s.patrol := rfl
@[simp] theorem State.draw_patrolFrom : s.draw.patrolFrom = s.patrolFrom := rfl
@[simp] theorem State.draw_portWait : s.draw.portWait = s.portWait := rfl
@[simp] theorem State.draw_links : s.draw.links = s.links := rfl
@[simp] theorem State.draw_hk : s.draw.hk = s.hk := rfl
@[simp] theorem State.draw_cur : s.draw.cur = s.cur := rfl
@[simp] theorem State.draw_issue : s.draw.issue = s.issue := rfl
@[simp] theorem State.draw_agenda : s.draw.agenda = s.agenda := rfl
@[simp] theorem State.draw_turn : s.draw.turn = s.turn := rfl

end Sys2Proof.Machine
end

