-- ==== Sys2Proof/Laws/Records.lean ====
section
/-! SUPPORT. Reading a record back after an update, and the executing agent's registers. -/

namespace Sys2Proof.Machine

theorem getD_modify {α : Type} (l : List α) (i j : Nat) (f : α → α) (d : α) :
    (l.modify i f).getD j d = if i = j ∧ i < l.length then f (l.getD i d) else l.getD j d := by
  simp only [List.getD_eq_getElem?_getD, List.getElem?_modify]
  by_cases h : i = j
  · subst h
    by_cases hl : i < l.length
    · simp [hl]
    · simp [hl]
  · simp [h]

theorem State.thr_updThr (s : State) (t u : Nat) (f : Thread → Thread) :
    (s.updThr t f).thr u = if t = u ∧ t < s.threads.length then f (s.thr t) else s.thr u := getD_modify _ _ _ _ _

theorem State.thr_updThr_same {s : State} {t : Nat} (h : t < s.threads.length) (f : Thread → Thread) :
    (s.updThr t f).thr t = f (s.thr t) := by rw [State.thr_updThr, if_pos ⟨rfl, h⟩]

theorem State.thr_updThr_other {s : State} {t u : Nat} (h : t ≠ u) (f : Thread → Thread) : (s.updThr t f).thr u = s.thr u := by
  rw [State.thr_updThr, if_neg (fun x => h x.1)]

theorem State.wlk_updWlk (s : State) (t u : Nat) (f : Walker → Walker) :
    (s.updWlk t f).wlk u = if t = u ∧ t < s.walkers.length then f (s.wlk t) else s.wlk u := getD_modify _ _ _ _ _

theorem State.crew_updCrew (s : State) (t u : Nat) (f : Crew → Crew) :
    (s.updCrew t f).crew u = if t = u ∧ t < s.crews.length then f (s.crew t) else s.crew u := getD_modify _ _ _ _ _

theorem State.wg_updWg (s : State) (t u : Nat) (f : Wg → Wg) :
    (s.updWg t f).wg u = if t = u ∧ t < s.wgs.length then f (s.wg t) else s.wg u := getD_modify _ _ _ _ _

theorem State.curRegs_updRegs {s : State} (h : s.agentIn = true) (f : Regs → Regs) : (s.updRegs f).curRegs = f s.curRegs := by
  unfold State.agentIn at h
  unfold State.updRegs State.curRegs
  split at h
  · rename_i t ht
    simp only [decide_eq_true_eq] at h ⊢
    simp only [State.updThr_cur, ht]
    rw [State.thr_updThr_same h]
  · rename_i w hw
    simp only [decide_eq_true_eq] at h ⊢
    simp only [State.updWlk_cur, hw]
    rw [State.wlk_updWlk, if_pos ⟨rfl, h⟩]
  · exact absurd h (by decide)

@[simp] theorem State.updRegs_cur (s : State) (f : Regs → Regs) : (s.updRegs f).cur = s.cur := by
  unfold State.updRegs; split <;> rfl
@[simp] theorem State.updRegs_mem (s : State) (f : Regs → Regs) : (s.updRegs f).mem = s.mem := by
  unfold State.updRegs; split <;> rfl
@[simp] theorem State.advance_mem (s : State) : s.advance.mem = s.mem := by
  unfold State.advance; split <;> rfl
@[simp] theorem State.advance_cur (s : State) : s.advance.cur = s.cur := by
  unfold State.advance; split <;> rfl
@[simp] theorem State.begin_mem (s : State) (i : Iss) : (s.begin i).mem = s.mem := by
  unfold State.begin; split
  · split <;> rfl
  · rfl
@[simp] theorem State.begin_cur (s : State) (i : Iss) : (s.begin i).cur = s.cur := by
  unfold State.begin; split
  · split <;> rfl
  · rfl
@[simp] theorem State.begin_curRegs (s : State) (i : Iss) : (s.begin i).curRegs = s.curRegs := by
  unfold State.begin; split
  · split <;> rfl
  · rfl
@[simp] theorem State.hold_mem (s : State) (w : Wait) : (s.hold w).mem = s.mem := by
  unfold State.hold; split <;> rfl

end Sys2Proof.Machine
end

