-- ==== Sys2Proof/Laws/Issue.lean ====
section
/-! SUPPORT. The issue of an instruction, said once: what a ready instruction, one with a false guard and one that fails a check come
to, and what delivering a result leaves. -/

namespace Sys2Proof.Machine

theorem modify_congr {α : Type} (l : List α) (i : Nat) (f g : α → α) (d : α) (h : f (l.getD i d) = g (l.getD i d)) :
    l.modify i f = l.modify i g := by
  apply List.ext_getElem?
  intro j
  simp only [List.getElem?_modify]
  by_cases hj : i = j
  · subst hj
    cases hx : l[i]? with
    | none => simp
    | some x => simp only [List.getD_eq_getElem?_getD, hx, Option.getD_some] at h; simp [h]
  · simp [hj]

theorem updThr_congr (s : State) (t : Nat) (f g : Thread → Thread) (h : f (s.thr t) = g (s.thr t)) : s.updThr t f = s.updThr t g := by
  unfold State.updThr
  rw [modify_congr _ _ f g {} h]

theorem updWlk_congr (s : State) (t : Nat) (f g : Walker → Walker) (h : f (s.wlk t) = g (s.wlk t)) : s.updWlk t f = s.updWlk t g := by
  unfold State.updWlk
  rw [modify_congr _ _ f g _ h]

theorem updThr_updThr (s : State) (t : Nat) (f g : Thread → Thread) : (s.updThr t f).updThr t g = s.updThr t fun x => g (f x) := by
  unfold State.updThr
  simp only [List.modify_modify_eq]
  rfl

theorem updWlk_updWlk (s : State) (t : Nat) (f g : Walker → Walker) : (s.updWlk t f).updWlk t g = s.updWlk t fun x => g (f x) := by
  unfold State.updWlk
  simp only [List.modify_modify_eq]
  rfl

/-- Registers changed, then on to the next start word. -/
theorem advance_updRegs (s : State) (f : Regs → Regs) : (s.updRegs f).advance = s.goesOn (f s.curRegs).step := by
  unfold State.advance State.goesOn State.curRegs
  rw [State.updRegs_cur]
  unfold State.updRegs
  split
  · rename_i t h
    simp only [h, updThr_updThr]
    exact updThr_congr _ _ _ _ rfl
  · rename_i w h
    simp only [h, updWlk_updWlk]
    exact updWlk_congr _ _ _ _ rfl
  · rename_i h
    simp only [h]

theorem ready_cur {s : State} {i : Iss} (h : s.ready i = true) : s.cur ≠ .none := by
  intro e
  simp [State.ready, State.agentIn, e] at h

/-- A ready instruction runs its own part. -/
theorem issueI_ready {s : State} {i : Iss} (h : s.ready i = true) (body : State → Regs → Res) :
    s.issueI i body = .next (deliver i (body (s.begin i) s.curRegs)) := by
  have hc := ready_cur h
  simp only [State.ready, Bool.and_eq_true, Bool.not_eq_true', Option.isNone_iff_eq_none] at h
  obtain ⟨⟨⟨⟨⟨_, h1⟩, h2⟩, h3⟩, h4⟩, h5⟩ := h
  unfold State.issueI
  split
  · exact absurd ‹_› hc
  · simp [h1, h2, h3, h4, h5]

/-- A rendezvous is reached whatever the guard. -/
theorem issueI_arrives {s : State} {i : Iss} (h : s.arrives i = true) (hi : i.a.coll = true) (body : State → Regs → Res) :
    s.issueI i body = .next (deliver i (body (s.begin i) s.curRegs)) := by
  have hc : s.cur ≠ .none := by intro e; simp [State.arrives, State.agentIn, e] at h
  simp only [State.arrives, Bool.and_eq_true, Bool.not_eq_true', Option.isNone_iff_eq_none] at h
  obtain ⟨⟨⟨⟨_, h1⟩, h2⟩, h3⟩, h5⟩ := h
  unfold State.issueI
  split
  · exact absurd ‹_› hc
  · simp [h1, h2, h3, h5, hi]

/-- Everything an issue can come to, when it answers a next state. -/
theorem issueI_next {s t : State} {i : Iss} {body : State → Regs → Res} (h : s.issueI i body = .next t) :
    t = s ∨ (∃ c, t = s.raise c) ∨ t = deliver i (body (s.begin i) s.curRegs) ∨ t = deliver i (.none (s.begin i)) := by
  unfold State.issueI at h
  split at h
  · cases h
  · split at h
    · left; cases h; rfl
    · split at h
      · right; left; cases h; exact ⟨_, rfl⟩
      · split at h
        · split at h
          · right; left; cases h; exact ⟨_, rfl⟩
          · right; right; left; cases h; rfl
        · right; right; right; cases h; rfl

/-- Only the want of an agent stops an issue. -/
theorem issueI_total (s : State) (i : Iss) (body : State → Regs → Res) (h : s.cur ≠ .none) : ∃ t, s.issueI i body = .next t := by
  unfold State.issueI
  split
  · exact absurd ‹_› h
  · split
    · exact ⟨_, rfl⟩
    · split
      · exact ⟨_, rfl⟩
      · split
        · split <;> exact ⟨_, rfl⟩
        · exact ⟨_, rfl⟩

theorem begin_noBrk (s : State) (i : Iss) (h : i.a.brk = false) : s.begin i = s := by
  unfold State.begin; split
  · simp [h]
  · rfl

theorem begin_brk (s : State) (i : Iss) (h : i.a.brk = true) : s.begin i = s.reforms := by
  unfold State.begin State.reforms
  split
  · rename_i u hu
    cases hl : s.isLeader u <;> simp [h, hl, hu]
  · cases hu : s.cur <;> simp_all

theorem step_chainRes (r : Regs) (h : Hdr) (x : Word) :
    (chainRes false (zext64 x) (if h.nw then r else r.setV h.d.toNat x)).step = r.gotV h x := by
  cases hn : h.nw <;> simp [chainRes, Regs.putLatch, Regs.step, Regs.gotV, Regs.setV, hn]

theorem step_chainResX (r : Regs) (h : Hdr) (x : DWord) :
    (chainRes false x (if h.nw then r else r.setX h.d.toNat x)).step = r.gotX h x := by
  cases hn : h.nw <;> simp [chainRes, Regs.putLatch, Regs.step, Regs.gotX, Regs.setX, hn]

theorem step_chainNone (r : Regs) : (chainNone false r).step = r.gotNone := rfl
theorem step_chainBrk (r : Regs) : (chainNone true r).step = r.broke := rfl

theorem deliver_v {i : Iss} (h : i.a.brk = false) (s : State) (x : Word) : deliver i (.v s x) = s.goesOn (s.curRegs.gotV i.h x) := by
  simp only [deliver, advance_updRegs, h, step_chainRes]

theorem deliver_x {i : Iss} (h : i.a.brk = false) (s : State) (x : DWord) : deliver i (.x s x) = s.goesOn (s.curRegs.gotX i.h x) := by
  simp only [deliver, advance_updRegs, h, step_chainResX]

theorem deliver_p {i : Iss} (h : i.a.brk = false) (s : State) (b : Bool) : deliver i (.p s b) = s.goesOn (s.curRegs.gotP i.h b) := by
  simp only [deliver, advance_updRegs, h, step_chainNone, Regs.gotP]

theorem deliver_none {i : Iss} (h : i.a.brk = false) (s : State) : deliver i (.none s) = s.goesOn s.curRegs.gotNone := by
  simp only [deliver, advance_updRegs, h, step_chainNone]

theorem deliver_broke {i : Iss} (h : i.a.brk = true) (s : State) : deliver i (.none s) = s.goesOn s.curRegs.broke := by
  simp only [deliver, advance_updRegs, h, step_chainBrk]

/-- Where no posted write of the core has to wait, a release goes on in the state that has performed them (R53, R97). -/
theorem State.releaseStall_go (s : State) (core : Nat) (sc : Scope) (go : State → Res)
    (h : (if scopeWide sc then (s.release core sc).postBlocked core else none) = none) :
    s.releaseStall core sc go = go (s.release core sc) := by
  simp only [State.releaseStall, h]

/-- Where one has to wait, the instruction stalls at issue and the supervisor is asked for the line (R53, R194). -/
theorem State.releaseStall_stall (s : State) (core w l : Nat) (sc : Scope) (go : State → Res)
    (h : (if scopeWide sc then (s.release core sc).postBlocked core else none) = some (w, l)) :
    s.releaseStall core sc go = .stall ((s.release core sc).wbRequest w l) := by
  simp only [State.releaseStall, h]

/-- What a map instruction comes to behind a lower lane's that waits or stalls (R240). -/
theorem State.mapTurn_behind (s : State) (x : Option Wait) (go : State → Res) (h : s.issue.behind = some x) :
    s.mapTurn go = match x with | some w => .wait s w | none => .stall s := by
  cases x <;> simp only [State.mapTurn, h]

/-- Behind none it has its own outcome, kept for the lanes above it where it waits or stalls (R240). -/
theorem State.mapTurn_first (s : State) (go : State → Res) (h : s.issue.behind = none) :
    s.mapTurn go = match go s with
      | .stall s => .stall { s with issue := { s.issue with behind := some none } }
      | .wait s w => .wait { s with issue := { s.issue with behind := some (some w) } } w
      | x => x := by
  cases hg : go s <;> simp only [State.mapTurn, h, hg]

/-- An instruction whose invalidation is in progress stalls; once it is acknowledged the instruction is done (R362, R397). -/
theorem State.afterInv_some (s : State) (i : Nat) (go : State → Res) (h : (s.thr s.t).inv = some i) :
    s.afterInv go = if (s.tlbinvs[i]?).any (·.live) then .stall s else .none (s.updThr s.t fun x => { x with inv := none }) := by
  simp only [State.afterInv, h]

theorem State.afterInv_none (s : State) (go : State → Res) (h : (s.thr s.t).inv = none) : s.afterInv go = go s := by
  simp only [State.afterInv, h]

end Sys2Proof.Machine
end

