-- ==== Sys2Proof/Laws/Lane.lean ====
section
/-! SUPPORT. What a ready instruction of each shape of classes 0, 1 and 3 comes to. -/

namespace Sys2Proof.Machine

variable {s : State} {h : Hdr} {a b c : Src}

theorem issueI_v {i : Iss} (hr : s.ready i = true) (hb : i.a.brk = false) (f : State → Regs → Word) :
    (s.issueI i fun s r => .v s (f s r)) = .next (s.goesOn (s.curRegs.gotV i.h (f s s.curRegs))) := by
  rw [issueI_ready hr, begin_noBrk _ _ hb, deliver_v hb]

theorem issueI_x {i : Iss} (hr : s.ready i = true) (hb : i.a.brk = false) (f : State → Regs → DWord) :
    (s.issueI i fun s r => .x s (f s r)) = .next (s.goesOn (s.curRegs.gotX i.h (f s s.curRegs))) := by
  rw [issueI_ready hr, begin_noBrk _ _ hb, deliver_x hb]

theorem issueI_p {i : Iss} (hr : s.ready i = true) (hb : i.a.brk = false) (f : State → Regs → Bool) :
    (s.issueI i fun s r => .p s (f s r)) = .next (s.goesOn (s.curRegs.gotP i.h (f s s.curRegs))) := by
  rw [issueI_ready hr, begin_noBrk _ _ hb, deliver_p hb]

theorem issV1_ready (hr : s.ready ⟨aLane, h, [.v a], .v h.d⟩ = true) (f : Word → Word) :
    issV1 h a s f = .next (s.goesOn (s.curRegs.gotV h (f (s.curRegs.rv a)))) := issueI_v hr rfl _

theorem issV2_ready (hr : s.ready ⟨aLane, h, [.v a, .vi b], .v h.d⟩ = true) (f : Word → Word → Word) :
    issV2 h a b s f = .next (s.goesOn (s.curRegs.gotV h (f (s.curRegs.rv a) (s.curRegs.rv b)))) := issueI_v hr rfl _

theorem issV3_ready (hr : s.ready ⟨aLane, h, [.v a, .vi b, .v c], .v h.d⟩ = true) (f : Word → Word → Word → Word) :
    issV3 h a b c s f = .next (s.goesOn (s.curRegs.gotV h (f (s.curRegs.rv a) (s.curRegs.rv b) (s.curRegs.rv c)))) := issueI_v hr rfl _

theorem issX2_ready (hr : s.ready ⟨aLane, h, [.x a, .xi b], .x h.d⟩ = true) (f : DWord → DWord → DWord) :
    issX2 h a b s f = .next (s.goesOn (s.curRegs.gotX h (f (s.curRegs.rx a) (s.curRegs.rx b)))) := issueI_x hr rfl _

theorem issX3_ready (hr : s.ready ⟨aLane, h, [.x a, .xi b, .x c], .x h.d⟩ = true) (f : DWord → DWord → DWord → DWord) :
    issX3 h a b c s f = .next (s.goesOn (s.curRegs.gotX h (f (s.curRegs.rx a) (s.curRegs.rx b) (s.curRegs.rx c)))) := issueI_x hr rfl _

theorem issXS_ready (hr : s.ready ⟨aLane, h, [.x a, .vi b], .x h.d⟩ = true) (f : DWord → Word → DWord) :
    issXS h a b s f = .next (s.goesOn (s.curRegs.gotX h (f (s.curRegs.rx a) (s.curRegs.rv b)))) := issueI_x hr rfl _

@[simp] theorem State.setFlags_curRegs (s : State) (fl : BitVec 9) : (s.setFlags fl).curRegs = s.curRegs := by
  unfold State.setFlags
  split
  · rename_i t h
    unfold State.curRegs
    simp only [State.updThr_cur, h, State.thr_updThr]
    split
    · rfl
    · rfl
  · rfl

theorem deliver_fres {i : Iss} (hb : i.a.brk = false) (s : State) (x : FR) :
    deliver i (fres s x) = (s.setFlags x.fl).goesOn (s.curRegs.gotV i.h (BitVec.ofNat 32 x.pat)) := by
  rw [fres, deliver_v hb, State.setFlags_curRegs]

end Sys2Proof.Machine
end

