-- ==== Sys2Proof/Laws/Store.lean ====
section
/-! SUPPORT. Laws of sparse stores: read after write, the canonical form, and that equal canonical stores are equal data. -/

namespace Sys2Proof.Machine

variable {α : Type} [Inhabited α] [DecidableEq α]

omit [Inhabited α] [DecidableEq α] in
theorem Store.above_weaken {m : Store α} {a b : Nat} (h : b ≤ a) (hm : Store.above a m = true) : Store.above b m = true := by
  cases m with
  | nil => rfl
  | cons x r => simp only [Store.above, decide_eq_true_eq] at *; omega

theorem Store.get_of_above {m : Store α} {a b : Nat} (hab : b ≤ a) (hm : Store.above a m = true) (hw : Store.wf m = true) :
    Store.get m b = default := by
  induction m generalizing a with
  | nil => rfl
  | cons x r ih =>
    obtain ⟨k, v⟩ := x
    simp only [Store.above, decide_eq_true_eq] at hm
    simp only [Store.wf, Bool.and_eq_true] at hw
    simp only [Store.get]
    rw [if_neg (by omega)]
    exact ih (a := k) (by omega) hw.1.2 hw.2

omit [DecidableEq α] in
theorem Store.get_put (m : Store α) (a b : Nat) (x : α) : Store.get (Store.put m a x) b = if b = a then x else Store.get m b := by
  induction m with
  | nil => simp only [Store.put, Store.get]
  | cons y r ih =>
    obtain ⟨k, v⟩ := y
    simp only [Store.put]
    by_cases h1 : a < k
    · simp only [h1, if_true, Store.get]
    · by_cases h2 : a = k
      · subst h2
        simp only [Nat.lt_irrefl, if_false, if_true, Store.get]
        by_cases hb : b = a <;> simp [hb]
      · simp only [h1, h2, if_false, Store.get, ih]
        by_cases hb : b = k
        · subst hb; simp [Ne.symm h2]
        · simp [hb]

omit [DecidableEq α] in
theorem Store.get_del (m : Store α) (a b : Nat) :
    Store.get (Store.del m a) b = if b = a then default else Store.get m b := by
  induction m with
  | nil => simp [Store.del, Store.get]
  | cons y r ih =>
    obtain ⟨k, v⟩ := y
    simp only [Store.del]
    by_cases h : a = k
    · subst h
      simp only [if_true, Store.get, ih]
      by_cases hb : b = a <;> simp [hb]
    · simp only [h, if_false, Store.get, ih]
      by_cases hb : b = k
      · subst hb; simp [Ne.symm h]
      · simp [hb]

/-- Read after write, on every store. -/
theorem Store.get_set (m : Store α) (a b : Nat) (x : α) :
    Store.get (Store.set m a x) b = if b = a then x else Store.get m b := by
  unfold Store.set
  by_cases h : x = default
  · simp only [h, if_true]
    exact Store.get_del m a b
  · simp only [h, if_false]
    exact Store.get_put m a b x

omit [Inhabited α] [DecidableEq α] in
theorem Store.above_put {m : Store α} {lo a : Nat} (x : α) (h : lo < a) (hm : Store.above lo m = true) :
    Store.above lo (Store.put m a x) = true := by
  cases m with
  | nil => simpa [Store.put, Store.above] using h
  | cons y r =>
    obtain ⟨k, v⟩ := y
    simp only [Store.put]
    split
    · simpa [Store.above] using h
    · split
      · simpa [Store.above] using h
      · simpa [Store.above] using hm

theorem Store.wf_put {m : Store α} {a : Nat} {x : α} (hx : x ≠ default) (hw : Store.wf m = true) :
    Store.wf (Store.put m a x) = true := by
  induction m with
  | nil => simp [Store.put, Store.wf, Store.above, hx]
  | cons y r ih =>
    obtain ⟨k, v⟩ := y
    simp only [Store.wf, Bool.and_eq_true, decide_eq_true_eq] at hw
    simp only [Store.put]
    split
    · rename_i h
      simp only [Store.wf, Bool.and_eq_true, decide_eq_true_eq]
      exact ⟨⟨hx, by simpa [Store.above] using h⟩, ⟨hw.1.1, hw.1.2⟩, hw.2⟩
    · split
      · rename_i _ h
        subst h
        simp [Store.wf, hx, hw.1.2, hw.2]
      · rename_i h1 h2
        simp only [Store.wf, Bool.and_eq_true, decide_eq_true_eq]
        exact ⟨⟨hw.1.1, Store.above_put x (by omega) hw.1.2⟩, ih hw.2⟩

theorem Store.above_del {m : Store α} {lo a : Nat} (hm : Store.above lo m = true) (hw : Store.wf m = true) :
    Store.above lo (Store.del m a) = true := by
  induction m with
  | nil => rfl
  | cons y r ih =>
    obtain ⟨k, v⟩ := y
    simp only [Store.wf, Bool.and_eq_true] at hw
    simp only [Store.del]
    have hm' := hm
    simp only [Store.above, decide_eq_true_eq] at hm'
    split
    · exact ih (Store.above_weaken (Nat.le_of_lt hm') hw.1.2) hw.2
    · simpa [Store.above] using hm

theorem Store.wf_del {m : Store α} {a : Nat} (hw : Store.wf m = true) : Store.wf (Store.del m a) = true := by
  induction m with
  | nil => rfl
  | cons y r ih =>
    obtain ⟨k, v⟩ := y
    have hw' := hw
    simp only [Store.wf, Bool.and_eq_true] at hw'
    simp only [Store.del]
    split
    · exact ih hw'.2
    · simp only [Store.wf, Bool.and_eq_true]
      exact ⟨⟨hw'.1.1, Store.above_del hw'.1.2 hw'.2⟩, ih hw'.2⟩

/-- A write keeps the canonical form. -/
theorem Store.wf_set {m : Store α} (a : Nat) (x : α) (hw : Store.wf m = true) : Store.wf (Store.set m a x) = true := by
  unfold Store.set
  split
  · exact Store.wf_del hw
  · rename_i h; exact Store.wf_put h hw

theorem Store.wf_upd {m : Store α} (a : Nat) (f : α → α) (hw : Store.wf m = true) : Store.wf (Store.upd m a f) = true :=
  Store.wf_set a _ hw

theorem Store.get_upd (m : Store α) (a b : Nat) (f : α → α) :
    Store.get (Store.upd m a f) b = if b = a then f (Store.get m a) else Store.get m b :=
  Store.get_set m a b _

/-- Canonical stores that read alike are the same data. -/
theorem Store.ext_of_wf {m n : Store α} (hm : Store.wf m = true) (hn : Store.wf n = true) (h : ∀ a, Store.get m a = Store.get n a) :
    m = n := by
  induction m generalizing n with
  | nil =>
    cases n with
    | nil => rfl
    | cons y r =>
      obtain ⟨k, v⟩ := y
      simp only [Store.wf, Bool.and_eq_true, decide_eq_true_eq] at hn
      have := h k
      simp only [Store.get, if_true] at this
      exact absurd this.symm hn.1.1
  | cons x r ih =>
    obtain ⟨k, v⟩ := x
    have hm' := hm
    simp only [Store.wf, Bool.and_eq_true, decide_eq_true_eq] at hm'
    cases n with
    | nil =>
      have := h k
      simp only [Store.get, if_true] at this
      exact absurd this hm'.1.1
    | cons y q =>
      obtain ⟨j, w⟩ := y
      have hn' := hn
      simp only [Store.wf, Bool.and_eq_true, decide_eq_true_eq] at hn'
      have hkj : k = j := by
        rcases Nat.lt_trichotomy k j with hlt | heq | hgt
        · have := h k
          simp only [Store.get, if_true] at this
          rw [if_neg (by omega), Store.get_of_above (a := j) (by omega) hn'.1.2 hn'.2] at this
          exact absurd this hm'.1.1
        · exact heq
        · have := h j
          simp only [Store.get, if_true] at this
          rw [if_neg (by omega), Store.get_of_above (a := k) (by omega) hm'.1.2 hm'.2] at this
          exact absurd this.symm hn'.1.1
      subst hkj
      have hv : v = w := by have := h k; simpa only [Store.get, if_true] using this
      subst hv
      congr 1
      refine ih hm'.2 hn'.2 fun a => ?_
      by_cases hak : a = k
      · subst hak
        rw [Store.get_of_above (Nat.le_refl _) hm'.1.2 hm'.2, Store.get_of_above (Nat.le_refl _) hn'.1.2 hn'.2]
      · have := h a
        simpa only [Store.get, if_neg hak] using this

/-- Bytes stored at consecutive addresses keep the canonical form. -/
theorem wf_putBytes {m : Store Byte} (pa : Nat) (bs : List Byte) (hw : Store.wf m = true) : Store.wf (putBytes m pa bs) = true := by
  induction bs generalizing m pa with
  | nil => exact hw
  | cons b r ih => exact ih _ (Store.wf_set _ _ hw)

/-- Bytes read back, and every other address reads as before. -/
theorem get_putBytes (m : Store Byte) (pa : Nat) (bs : List Byte) (a : Nat) :
    Store.get (putBytes m pa bs) a = if pa ≤ a ∧ a < pa + bs.length then bs.getD (a - pa) 0 else Store.get m a := by
  induction bs generalizing m pa with
  | nil =>
    simp only [putBytes, List.length_nil, Nat.add_zero]
    rw [if_neg (by omega)]
  | cons b r ih =>
    simp only [putBytes]
    rw [ih, Store.get_set]
    simp only [List.length_cons]
    by_cases h : a = pa
    · subst h
      rw [if_neg (by omega), if_pos rfl, if_pos (by omega)]
      simp
    · rw [if_neg h]
      by_cases h2 : pa + 1 ≤ a ∧ a < pa + 1 + r.length
      · rw [if_pos h2, if_pos (by omega)]
        obtain ⟨k, rfl⟩ : ∃ k, a = pa + 1 + k := ⟨a - (pa + 1), by omega⟩
        have e1 : pa + 1 + k - (pa + 1) = k := by omega
        have e2 : pa + 1 + k - pa = k + 1 := by omega
        rw [e1, e2]
        simp
      · rw [if_neg h2, if_neg (by omega)]

end Sys2Proof.Machine
end

