-- ==== Sys2Proof/Laws/Memory.lean ====
section
/-! SUPPORT. Every operation on memory keeps its canonical form (log 1). -/

namespace Sys2Proof.Machine

@[simp] theorem wf_reset_mem : Memory.wf State.reset.mem = true := rfl

@[simp] theorem countWrite_mem (s : State) (pa : Nat) : (s.countWrite pa).mem = s.mem := by
  unfold State.countWrite; split <;> rfl

@[simp] theorem logUe_mem (s : State) (pa src : Nat) : (s.logUe pa src).mem = s.mem := rfl
@[simp] theorem noteAdvance_mem (s : State) (pa : Nat) : (s.noteAdvance pa).mem = s.mem := rfl
@[simp] theorem noteVec0_mem (s : State) : s.noteVec0.mem = s.mem := rfl

theorem memwf_put {m : Store Byte} (pa : Nat) (bs : List Byte) (h : Memory.wf m = true) : Memory.wf (putBytes m pa bs) = true :=
  wf_putBytes pa bs h

theorem rewrite_memwf {s : State} {bad : Bool} (l : Nat) (data : List Nat) (h : Memory.wf s.mem = true) :
    Memory.wf (s.rewrite l data bad).mem = true := memwf_put _ _ h

theorem readArray_memwf {s : State} (pa src : Nat) (h : Memory.wf s.mem = true) : Memory.wf (s.readArray pa src).mem = true := by
  unfold State.readArray
  dsimp only
  split
  · exact h
  · split
    · exact rewrite_memwf _ _ h
    · split
      · exact rewrite_memwf _ _ h
      · exact rewrite_memwf (bad := false) _ _ h
    · split
      · exact rewrite_memwf _ _ h
      · exact rewrite_memwf (bad := true) _ _ h

theorem demand_memwf {s : State} (pa src : Nat) (h : Memory.wf s.mem = true) : Memory.wf (s.demand pa src).mem = true := by
  unfold State.demand
  split
  · exact h
  · exact readArray_memwf _ _ h

theorem storeLine_memwf {s : State} (pl : Nat) (bs : List Byte) (bad wv : Bool) (h : Memory.wf s.mem = true) :
    Memory.wf (s.storeLine pl bs bad wv).mem = true := by
  unfold State.storeLine
  dsimp only
  split
  · rw [countWrite_mem]; exact memwf_put _ _ h
  · exact memwf_put _ _ h

theorem putHome_memwf {s : State} (pa : Nat) (bs : List Byte) (h : Memory.wf s.mem = true) : Memory.wf (s.putHome pa bs).mem = true := by
  unfold State.putHome
  split
  · exact h
  · exact memwf_put _ _ h

theorem setLeaf_memwf {s : State} (l : TlbLeaf) (w : Bool) (h : Memory.wf s.mem = true) : Memory.wf (s.setLeaf l w).mem = true := by
  have hm : ∀ e : DWord, Memory.wf (if e == l.entry then s else (s.putHome l.slot (bytesOf 8 e)).countWrite l.slot).mem = true := by
    intro e
    split
    · exact h
    · rw [countWrite_mem]; exact putHome_memwf _ _ h
  exact hm _

theorem wbLine_memwf {s : State} (w l : Nat) (x : LineSt) (wv : Bool) (pl : Nat) (h : Memory.wf s.mem = true) :
    Memory.wf (s.wbLine w l x wv pl).mem = true := by
  unfold State.wbLine
  simp only [State.updWg_mem]
  exact storeLine_memwf _ _ _ _ h

theorem walkDemand_memwf (ls : List Nat) {s : State} (t va : Nat) (h : Memory.wf s.mem = true) :
    Memory.wf (s.walkDemand t va ls).mem = true := by
  induction ls generalizing s t with
  | nil => exact h
  | cons lvl lower ih =>
    unfold State.walkDemand
    dsimp only
    split
    · exact demand_memwf _ _ h
    · exact ih _ (demand_memwf _ _ h)

theorem demandWalk_memwf {s : State} (a : As) (va : DWord) (h : Memory.wf s.mem = true) : Memory.wf (s.demandWalk a va).mem = true := by
  unfold State.demandWalk
  split
  · exact h
  · exact walkDemand_memwf _ _ _ h

theorem demandLeaf_memwf {s : State} (a : As) (va : DWord) (w : Bool) (h : Memory.wf s.mem = true) :
    Memory.wf (s.demandLeaf a va w).mem = true := by
  unfold State.demandLeaf
  split
  · exact h
  · split
    · exact demandWalk_memwf _ _ h
    · split
      · exact h
      · dsimp only
        split
        · exact demand_memwf _ _ h
        · exact demandWalk_memwf _ _ (demand_memwf _ _ h)

theorem demandWb_memwf {s : State} (w l : Nat) (h : Memory.wf s.mem = true) : Memory.wf (s.demandWb w l).mem = true := by
  unfold State.demandWb
  split
  · exact demandLeaf_memwf _ _ _ h
  · exact h

theorem ownSlot_memwf (n : Nat) {s : State} (l : TlbLeaf) (w : Bool) (h : Memory.wf s.mem = true) :
    Memory.wf (s.ownSlot n l w).mem = true := by
  induction n generalizing s l w with
  | zero => exact h
  | succ n ih =>
    unfold State.ownSlot
    split
    · exact h
    · split
      · exact h
      · split
        · exact h
        · split
          · exact h
          · simpa only [State.updWg_mem] using h
        · simp only [State.updWg_mem]
          split
          · exact wbLine_memwf _ _ _ _ _ (setLeaf_memwf _ _ (ih _ _ (demandWb_memwf _ _ h)))
          · exact h

theorem markLeaf_memwf {s : State} (l : TlbLeaf) (w : Bool) (h : Memory.wf s.mem = true) : Memory.wf (s.markLeaf l w).mem = true :=
  setLeaf_memwf _ _ (ownSlot_memwf _ _ _ h)

theorem wbStore_memwf {s : State} (w l : Nat) (x : LineSt) (lf : TlbLeaf) (pl : Nat) (h : Memory.wf s.mem = true) :
    Memory.wf (s.wbStore w l x lf pl).mem = true := wbLine_memwf _ _ _ _ _ (markLeaf_memwf _ _ (demandWb_memwf _ _ h))

theorem giveUpOwn_memwf {s : State} (w l : Nat) (h : Memory.wf s.mem = true) : Memory.wf (s.giveUpOwn w l).mem = true := by
  unfold State.giveUpOwn
  split
  · simp only [State.updWg_mem]
    split
    · exact wbStore_memwf _ _ _ _ _ h
    · exact h
  · exact h

theorem cleanLine_memwf {s : State} (w l : Nat) (h : Memory.wf s.mem = true) : Memory.wf (s.cleanLine w l).mem = true := by
  unfold State.cleanLine
  split
  · dsimp only
    split
    · refine wbStore_memwf _ _ _ _ _ ?_
      split
      · exact giveUpOwn_memwf _ _ h
      · exact h
    · exact h
  · exact h

theorem giveUp_memwf {s : State} (w l : Nat) (h : Memory.wf s.mem = true) : Memory.wf (s.giveUp w l).mem = true := by
  unfold State.giveUp
  split
  · simp only [State.updWg_mem]; exact cleanLine_memwf _ _ h
  · exact h

theorem takeLine_memwf {s : State} (pl : Nat) (h : Memory.wf s.mem = true) : Memory.wf (s.takeLine pl).mem = true := by
  unfold State.takeLine
  split
  · exact giveUp_memwf _ _ h
  · exact h

theorem foldl_memwf {β : Type} (f : State → β → State) (hf : ∀ s b, Memory.wf s.mem = true → Memory.wf (f s b).mem = true)
    (l : List β) {s : State} (h : Memory.wf s.mem = true) : Memory.wf (l.foldl f s).mem = true := by
  induction l generalizing s with
  | nil => exact h
  | cons b r ih => exact ih (hf s b h)

theorem writeErrors_memwf {s : State} (pa n : Nat) (ls : List Nat) (h : Memory.wf s.mem = true) :
    Memory.wf (s.writeErrors pa n ls).mem = true := by
  unfold State.writeErrors
  refine foldl_memwf _ (fun s b hs => ?_) ls h
  split
  · exact hs
  · exact demand_memwf _ _ hs

theorem perform_memwf {s : State} (pa : Nat) (bs : List Byte) (wv : Bool) (h : Memory.wf s.mem = true) :
    Memory.wf (s.perform pa bs wv).mem = true := by
  unfold State.perform
  split
  · exact h
  · have h1 : ∀ l : List Nat, Memory.wf (l.foldl (fun s l => s.takeLine l) s).mem = true := fun l =>
      foldl_memwf _ (fun s b hs => takeLine_memwf b hs) l h
    dsimp only
    split
    · refine foldl_memwf _ (fun s b hs => by rw [countWrite_mem]; exact hs) _ (memwf_put _ _ ?_)
      split
      · exact h1 _
      · exact writeErrors_memwf _ _ _ (h1 _)
    · refine memwf_put _ _ ?_
      split
      · exact h1 _
      · exact writeErrors_memwf _ _ _ (h1 _)

theorem putEntry_memwf {s : State} (slot : Nat) (e : DWord) (h : Memory.wf s.mem = true) : Memory.wf (s.putEntry slot e).mem = true :=
  perform_memwf _ _ _ h

/-- A trap record lies outside memory. -/
@[simp] theorem putRec_mem (s : State) (r : TrapRec) : (s.putRec r).mem = s.mem := by
  unfold State.putRec
  split <;> simp only [State.updCore_mem]

theorem wbRequest_memwf {s : State} (w l : Nat) (h : Memory.wf s.mem = true) : Memory.wf (s.wbRequest w l).mem = true := by
  unfold State.wbRequest
  split
  · exact h
  · simp only [State.updWg_mem, putRec_mem]
    exact demandWb_memwf _ _ h

theorem flushOne_memwf (x : State × List PostedW) (w : PostedW) (h : Memory.wf x.1.mem = true) : Memory.wf (flushOne x w).1.mem = true := by
  unfold flushOne
  split
  · exact h
  · exact perform_memwf _ _ _ h

theorem flushWhere_memwf {s : State} (p : PostedW → Bool) (h : Memory.wf s.mem = true) : Memory.wf (s.flushWhere p).mem = true := by
  have hf : ∀ (l : List PostedW) (x : State × List PostedW), Memory.wf x.1.mem = true → Memory.wf (l.foldl flushOne x).1.mem = true := by
    intro l
    induction l with
    | nil => exact fun x hx => hx
    | cons w r ih => exact fun x hx => ih _ (flushOne_memwf _ _ hx)
  exact hf _ _ h

theorem flushCore_memwf {s : State} (c : Nat) (h : Memory.wf s.mem = true) : Memory.wf (s.flushCore c).mem = true :=
  flushWhere_memwf _ h

theorem release_memwf {s : State} (c : Nat) (sc : Scope) (h : Memory.wf s.mem = true) : Memory.wf (s.release c sc).mem = true := by
  unfold State.release
  split
  · exact flushCore_memwf _ h
  · exact h

theorem post_memwf {s : State} (core pa : Nat) (bs : List Byte) (wv : Bool) (h : Memory.wf s.mem = true) :
    Memory.wf (s.post core pa bs wv).mem = true := by
  unfold State.post
  split
  · exact perform_memwf _ _ _ (flushWhere_memwf _ h)
  · exact h

theorem demandRange_memwf {s : State} (pa n : Nat) (h : Memory.wf s.mem = true) : Memory.wf (s.demandRange pa n).mem = true := by
  unfold State.demandRange
  split
  · exact h
  · exact foldl_memwf _ (fun s b hs => demand_memwf _ _ hs) _ h

theorem demandPlace_memwf {s : State} (p : Place) (h : Memory.wf s.mem = true) : Memory.wf (s.demandPlace p).mem = true := by
  unfold State.demandPlace
  split
  · exact foldl_memwf _ (fun s b hs => demand_memwf _ _ hs) _ h
  · exact foldl_memwf _ (fun s b hs => demand_memwf _ _ hs) _ h
  · exact h

theorem storePlace_memwf {s : State} (core : Nat) (p : Place) (bs : List Byte) (h : Memory.wf s.mem = true) :
    Memory.wf (s.storePlace core p bs).mem = true := by
  unfold State.storePlace
  split
  · exact foldl_memwf _ (fun s r hs => post_memwf _ _ _ _ hs) _ h
  · exact h
  · exact h

theorem performPlace_memwf {s : State} (p : Place) (bs : List Byte) (h : Memory.wf s.mem = true) :
    Memory.wf (s.performPlace p bs).mem = true := by
  unfold State.performPlace
  split
  · exact foldl_memwf _ (fun s r hs => perform_memwf _ _ _ hs) _ h
  · exact h
  · exact h

theorem settlePlace_memwf {s : State} (core : Nat) (p : Place) (h : Memory.wf s.mem = true) :
    Memory.wf (s.settlePlace core p).mem = true := by
  unfold State.settlePlace
  split
  · split
    · exact h
    · exact flushWhere_memwf _ h
  · exact h
  · exact h

theorem leafOf_memwf {s : State} (a : As) (va : DWord) (h : Memory.wf s.mem = true) : Memory.wf (s.leafOf a va).1.mem = true := by
  unfold State.leafOf
  split
  · exact h
  · dsimp only
    split
    · exact demandWalk_memwf _ _ h
    · exact markLeaf_memwf _ _ (demandWalk_memwf _ _ h)

theorem leafUse_memwf {s : State} (va : DWord) (n : Nat) (k : AccKind) (l : TlbLeaf) (h : Memory.wf s.mem = true) :
    Memory.wf (s.leafUse va n k l).1.mem = true := by
  unfold State.leafUse
  dsimp only
  split
  · exact markLeaf_memwf _ _ h
  · exact h

/-- The checks of R233 keep memory canonical: they only set a and d bits, and correct what they read. -/
theorem resolve_memwf {s : State} (a : As) (view : Option Nat) (va : DWord) (n : Nat) (k : AccKind) (h : Memory.wf s.mem = true) :
    Memory.wf (s.resolve a view va n k).1.mem = true := by
  have hl : ∀ t : State, Memory.wf t.mem = true → ∀ s' x, t.leafOf a va = (s', x) → Memory.wf s'.mem = true := by
    intro t ht s' x e
    have := leafOf_memwf (s := t) a va ht
    rw [e] at this
    exact this
  unfold State.resolve
  split
  · exact h
  · split
    · exact h
    · split
      · dsimp only
        split
        · exact h
        · split <;> exact h
      · split
        · exact h
        have h0 := demandLeaf_memwf a va k.writes h
        revert h0
        generalize s.demandLeaf a va k.writes = s0
        intro h0
        dsimp only
        split
        · exact wbRequest_memwf _ _ h0
        · split
          · rename_i s' e
            exact hl _ h0 _ _ e
          · rename_i s' l e
            have hs' := hl _ h0 _ _ e
            split
            · exact hs'
            · split
              · exact leafUse_memwf _ _ _ _ hs'
              · split
                · rename_i s2 e2
                  exact hl { s' with tlb := s'.tlb.filter (· != l) } hs' s2 _ e2
                · rename_i s2 l2 e2
                  have h2 := hl { s' with tlb := s'.tlb.filter (· != l) } hs' s2 _ e2
                  split
                  · exact h2
                  · exact leafUse_memwf _ _ _ _ h2

theorem check_memwf {s : State} (a : As) (view : Option Nat) (va : DWord) (n : Nat) (k : AccKind) (h : Memory.wf s.mem = true) :
    Memory.wf (s.check a view va n k).1.mem = true := by
  unfold State.check
  split
  · exact h
  · exact resolve_memwf _ _ _ _ _ h

end Sys2Proof.Machine
end

