-- ==== Sys2Proof/Tests/Slice0.lean ====
section
/-! SUPPORT. The row's own tests: words decoded by hand from the encodings, an ill-formed term for each check of WellFormed, values of the
spec's tables, and a witness for the hypotheses of every statement. -/

namespace Sys2Proof.Tests

set_option Elab.async false

open Sys2Proof Sys2Proof.Machine

/-- An unguarded header with destination d. -/
abbrev hd (d : BitVec 11) : Hdr := ⟨0, false, d, false⟩

abbrev dec := decodeWord

/-- Words of class 0, written out from R166 and each encoding. -/
theorem test_decode_integer :
    dec 0x000000A001C03000 0x0 = .ok (.iadd (hd 5) (.v 1) (.imm 3)) ∧
    dec 0x002000A001C03000 0x0 = .ok (.isub (hd 5) (.v 1) (.imm 3)) ∧
    dec 0x004000A001C03000 0x0 = .ok (.imul (hd 5) (.v 1) (.imm 3)) ∧
    dec 0x006000A001002001 0x0 = .ok (.imulh (hd 5) (.v 1) (.v 2) true) ∧
    dec 0x008000A001002003 0x0 = .ok (.imad (hd 5) (.v 1) (.v 2) (.v 3)) ∧
    dec 0x00A000A001002001 0x0 = .ok (.idiv (hd 5) (.v 1) (.v 2) true) ∧
    dec 0x00C000A001002000 0x0 = .ok (.irem (hd 5) (.v 1) (.v 2) false) ∧
    dec 0x00E000A001002001 0x0 = .ok (.imin (hd 5) (.v 1) (.v 2) true) ∧
    dec 0x010000A001002000 0x0 = .ok (.imax (hd 5) (.v 1) (.v 2) false) ∧
    dec 0x012000A001808000 0x0 = .ok (.iabs (hd 5) (.v 1)) ∧
    dec 0x014000A803808000 0x0 = .ok (.ineg (hd 5) (.latch 3)) ∧
    dec 0x016000A001002001 0x0 = .ok (.iaddsat (hd 5) (.v 1) (.v 2) true) ∧
    dec 0x018000A001002000 0x0 = .ok (.isubsat (hd 5) (.v 1) (.v 2) false) ∧
    dec 0x01A000A001002001 0x0 = .ok (.isad (hd 5) (.v 1) (.v 2) true) ∧
    dec 0x01C000A001002002 0x0 = .ok (.idot4 (hd 5) (.v 1) (.v 2) false true) ∧
    dec 0x01E000C002C10000 0x0 = .ok (.iadd64 (hd 6) (.v 2) (.imm 16)) ∧
    dec 0x020000C002C10000 0x0 = .ok (.isub64 (hd 6) (.v 2) (.imm 16)) ∧
    dec 0x022000C002C10000 0x0 = .ok (.imul64 (hd 6) (.v 2) (.imm 16)) ∧
    dec 0x024000C002004008 0x0 = .ok (.imad64 (hd 6) (.v 2) (.v 4) (.v 8)) ∧
    dec 0x026000C00200700B 0x0 = .ok (.lea (hd 6) (.v 2) (.v 7) 3 true none) ∧
    dec 0x026000C808007802 0x1000 = .ok (.lea (hd 6) .zero (.v 7) 2 false (some 0x1000)) ∧
    dec 0x028000A808808000 0x123456789 = .ok (.movi (hd 5) 0x123456789) ∧
    dec 0x02A000C808808000 0xABCDEF = .ok (.movi64 (hd 6) 0xABCDEF) := by
  decide

/-- Words of class 1, written out from R166 and each encoding. -/
theorem test_decode_logic :
    dec 0x080000A001C03000 0x0 = .ok (.and (hd 5) (.v 1) (.imm 3)) ∧
    dec 0x082000A001C03000 0x0 = .ok (.or (hd 5) (.v 1) (.imm 3)) ∧
    dec 0x084000A001C03000 0x0 = .ok (.xor (hd 5) (.v 1) (.imm 3)) ∧
    dec 0x088000A001C03000 0x0 = .ok (.andn (hd 5) (.v 1) (.imm 3)) ∧
    dec 0x08A000A001C03000 0x0 = .ok (.shl (hd 5) (.v 1) (.imm 3)) ∧
    dec 0x08C000A001C03000 0x0 = .ok (.shr (hd 5) (.v 1) (.imm 3)) ∧
    dec 0x08E000A001C03000 0x0 = .ok (.sar (hd 5) (.v 1) (.imm 3)) ∧
    dec 0x086000A001808000 0x0 = .ok (.not (hd 5) (.v 1)) ∧
    dec 0x090000A001002001 0x0 = .ok (.rot (hd 5) (.v 1) (.v 2) true) ∧
    dec 0x092000C002007000 0x0 = .ok (.shl64 (hd 6) (.v 2) (.v 7)) ∧
    dec 0x094000C002007000 0x0 = .ok (.shr64 (hd 6) (.v 2) (.v 7)) ∧
    dec 0x096000C002007000 0x0 = .ok (.sar64 (hd 6) (.v 2) (.v 7)) ∧
    dec 0x098000A001808000 0x0 = .ok (.popc (hd 5) (.v 1)) ∧
    dec 0x09A000A001808000 0x0 = .ok (.clz (hd 5) (.v 1)) ∧
    dec 0x09C000A001808000 0x0 = .ok (.ctz (hd 5) (.v 1)) ∧
    dec 0x09E000A001808000 0x0 = .ok (.brev (hd 5) (.v 1)) ∧
    dec 0x0AC000A001808000 0x0 = .ok (.mov (hd 5) (.v 1)) ∧
    dec 0x0AE000C002808000 0x0 = .ok (.mov64 (hd 6) (.v 2)) ∧
    dec 0x0A0000A001808904 0x0 = .ok (.bfe (hd 5) (.v 1) 4 8 true) ∧
    dec 0x0A2000A001002403 0x0 = .ok (.bfi (hd 5) (.v 1) (.v 2) 3 32) ∧
    dec 0x0A4000A001002A1B 0x0 = .ok (.bysel (hd 5) (.v 1) (.v 2) 0xA1B) ∧
    dec 0x0A6000600100227A 0x0 = .ok (.icmp (hd 3) (.v 1) (.v 2) .lt true (.or 7)) ∧
    dec 0x0A80006002004195 0x0 = .ok (.icmp64 (hd 3) (.v 2) (.v 4) .ge false (.and 9)) ∧
    dec 0x0AA0006808808621 0x0 = .ok (.plog (hd 3) 1 2 6) ∧
    dec 0x0B0000A001002013 0x0 = .ok (.sel (hd 5) (.v 1) (.v 2) 3 true) ∧
    dec 0x0B2000A808808000 0x0 = .ok (.p2v (hd 5)) ∧
    dec 0x0B40000001002000 0x0 = .ok (.v2p (hd 0) (.v 1) (.v 2)) ∧
    dec 0x0B6000C808808212 0x0 = .ok (.sread (hd 6) (.special 0x12) true) ∧
    dec 0x0B6000A808808105 0x0 = .ok (.sread (hd 5) (.scalar 5) false) ∧
    dec 0x0B80000001808105 0x0 = .ok (.swrite (hd 0) (.scalar 5) false (.v 1)) := by
  decide

/-- Words of class 2, written out from R166 and each encoding. -/
theorem test_decode_control :
    dec 0x10000008088087E6 0x0 = .ok (.bra (hd 0) (.short 0x7E6)) ∧
    dec 0x1000000808808800 0x4008 = .ok (.bra (hd 0) (.long 0x4008)) ∧
    dec 0x1020000002808000 0x0 = .ok (.brx (hd 0) (.v 2)) ∧
    dec 0x1040004808808010 0x0 = .ok (.call (hd 2) (.short 0x010)) ∧
    dec 0x1060004004808000 0x0 = .ok (.callx (hd 2) (.v 4)) ∧
    dec 0x1080000002808000 0x0 = .ok (.ret (hd 0) (.v 2)) ∧
    dec 0x10A0000808808000 0x0 = .ok (.exit (hd 0)) ∧
    dec 0x10C0000808808000 0x0 = .ok (.nop (hd 0)) ∧
    dec 0x10E0000808808000 0x0 = .ok (.yield (hd 0)) ∧
    dec 0x1120000808808000 0x0 = .ok (.wake (hd 0)) ∧
    dec 0x1140000808808000 0x0 = .ok (.cbar (hd 0)) ∧
    dec 0x1160000808808000 0x0 = .ok (.wgbar (hd 0)) ∧
    dec 0x1180000808808000 0x0 = .ok (.tilebar (hd 0)) ∧
    dec 0x1100002808808000 0x0 = .ok (.elect (hd 1)) ∧
    dec 0x11A000A808808072 0x0 = .ok (.vote (hd 5) 2 true .ballot) ∧
    dec 0x11A0002808808022 0x0 = .ok (.vote (hd 1) 2 false .all) ∧
    dec 0x11C0000002808012 0x0 = .ok (.assert (hd 0) 2 true (.v 2)) ∧
    dec 0x11E00008088080AB 0x0 = .ok (.brk (hd 0) 0xAB) ∧
    dec 0x12000000018080CD 0x0 = .ok (.trap (hd 0) 0xCD (.v 1)) ∧
    dec 0x1220000002808000 0x0 = .ok (.sleepuntil (hd 0) (.v 2)) ∧
    dec 0x124000E0078087FF 0x0 = .ok (.loopd (hd 7) (.v 7) (.short 0x7FF)) ∧
    dec 0x1260002002004000 0x0 = .ok (.launch (hd 1) (.v 2) (.v 4)) := by
  decide

/-- Words of class 3, written out from R166 and each encoding. -/
theorem test_decode_float :
    dec 0x180000A001002001 0x0 = .ok (.fadd (hd 5) (.v 1) (.v 2) .rz) ∧
    dec 0x182000A001002002 0x0 = .ok (.fsub (hd 5) (.v 1) (.v 2) .rdn) ∧
    dec 0x184000A001002003 0x0 = .ok (.fmul (hd 5) (.v 1) (.v 2) .rup) ∧
    dec 0x186000A001002003 0x0 = .ok (.ffma (hd 5) (.v 1) (.v 2) (.v 3)) ∧
    dec 0x188000A001002010 0x0 = .ok (.fmin (hd 5) (.v 1) (.v 2) true) ∧
    dec 0x18A000A001002000 0x0 = .ok (.fmax (hd 5) (.v 1) (.v 2) false) ∧
    dec 0x18C000A001808000 0x0 = .ok (.fabs (hd 5) (.v 1)) ∧
    dec 0x18E000A001808000 0x0 = .ok (.fneg (hd 5) (.v 1)) ∧
    dec 0x1900004001002136 0x0 = .ok (.fcmp (hd 2) (.v 1) (.v 2) .num (.and 3)) ∧
    dec 0x192000A001808000 0x0 = .ok (.frcp (hd 5) (.v 1) .rne) ∧
    dec 0x194000A001808000 0x0 = .ok (.frsq (hd 5) (.v 1) .rne) ∧
    dec 0x19A000A001808000 0x0 = .ok (.fexp2 (hd 5) (.v 1) .rne) ∧
    dec 0x19C000A001808000 0x0 = .ok (.flog2 (hd 5) (.v 1) .rne) ∧
    dec 0x196000A001808002 0x0 = .ok (.fsqrt (hd 5) (.v 1) .rdn) ∧
    dec 0x198000A001002003 0x0 = .ok (.fdiv (hd 5) (.v 1) (.v 2) .rup) ∧
    dec 0x19E000A001808000 0x0 = .ok (.fclass (hd 5) (.v 1)) ∧
    dec 0x1A0000A001002005 0x0 = .ok (.hadd2 (hd 5) (.v 1) (.v 2) true .rz) ∧
    dec 0x1A2000A001002005 0x0 = .ok (.hmul2 (hd 5) (.v 1) (.v 2) true .rz) ∧
    dec 0x1A4000A001002005 0x0 = .ok (.hfma2 (hd 5) (.v 1) (.v 2) true .rz) ∧
    dec 0x1A8000A001002005 0x0 = .ok (.fdot2 (hd 5) (.v 1) (.v 2) true .rz) ∧
    dec 0x1A6000A001002018 0x0 = .ok (.hminmax2 (hd 5) (.v 1) (.v 2) false true true) := by
  decide

/-- Words of class 4, written out from R166 and each encoding. -/
theorem test_decode_convert_lane :
    dec 0x200000A001808150 0x0 = .ok (.cvt (hd 5) (.v 1) .f32 .s32 .rz false) ∧
    dec 0x200000A001808435 0x0 = .ok (.cvt (hd 5) (.v 1) .s32 .s8 .rne true) ∧
    dec 0x202000A001808001 0x0 = .ok (.packbfp (hd 5) (.v 1) true) ∧
    dec 0x204000A001808000 0x0 = .ok (.unpackbfp (hd 5) (.v 1) false) ∧
    dec 0x206000A001808001 0x0 = .ok (.hadam (hd 5) (.v 1) true) ∧
    dec 0x208000C00200102B 0x0 = .ok (.shfl (hd 6) (.v 2) (.v 1) .xor 2 true) ∧
    dec 0x20A000A00180801F 0x0 = .ok (.bcast (hd 5) (.v 1) 31 false) ∧
    dec 0x20C0012004808010 0x0 = .ok (.redux (hd 9) (.v 4) .add .f32 .rne) ∧
    dec 0x20E0014004808090 0x0 = .ok (.scan (hd 10) (.v 4) .add .f32 .rne true) ∧
    dec 0x210000A002808021 0x0 = .ok (.matchv (hd 5) (.v 2) true true) := by
  decide

/-- Words of class 5, written out from R166 and each encoding. -/
theorem test_decode_memory :
    dec 0x280000C004C40001 0x0 = .ok (.ld (hd 6) (.v 4) (.imm 64) ⟨.b64, .core, .none, none⟩) ∧
    dec 0x28000100040078E6 0x20 = .ok (.ld (hd 8) (.v 4) (.v 7) ⟨.b128, .dom, .nc, some 0x20⟩) ∧
    dec 0x2820000008003800 0x100 = .ok (.st (hd 0) (.v 8) (.v 3) ⟨.b32, .core, .none, some 0x100⟩) ∧
    dec 0x284000C004808019 0x0 = .ok (.lda (hd 6) (.v 4) .zero ⟨.b64, .pkg, .none, none⟩) ∧
    dec 0x2860000004006094 0x0 = .ok (.strel (hd 0) (.v 4) (.v 6) ⟨.u16, .die, .keep, none⟩) ∧
    dec 0x288000A001C03003 0x0 = .ok (.lds (hd 5) (.v 1) (.imm 3) .s8) ∧
    dec 0x28A0000002001039 0x0 = .ok (.sts (hd 0) (.v 2) (.v 1) .b64 7) ∧
    dec 0x28C000C002001045 0x0 = .ok (.ldx (hd 6) (.v 2) (.v 1) 5 true) ∧
    dec 0x28E000000200101F 0x0 = .ok (.prefetch (hd 0) (.v 2) (.v 1) true 15 none) ∧
    dec 0x290000A008808000 0x0 = .ok (.smap (hd 5) (.v 8)) ∧
    dec 0x2920000C02808000 0x0 = .ok (.sunmap (hd 0) (.imm 2)) ∧
    dec 0x2940000002001000 0x0 = .ok (.sflush (hd 0) (.v 2) (.v 1) false) ∧
    dec 0x2960000808808001 0x0 = .ok (.sinv (hd 0) .zero .zero true) ∧
    dec 0x2980000002C01001 0x0 = .ok (.cctl (hd 0) (.v 2) (.imm 1) .icode) := by
  decide

/-- Words of class 6, written out from R166 and each encoding. -/
theorem test_decode_sync :
    dec 0x300000C0020043E6 0x0 = .ok (.atom (hd 6) (.v 2) (.v 4) ⟨.exch, .s64, .acqrel, .pkg⟩) ∧
    dec 0x302000C002004160 0x0 = .ok (.cas (hd 6) (.v 2) (.v 4) true .acq .clus) ∧
    dec 0x304000A001002091 0x0 = .ok (.satom (hd 5) (.v 1) (.v 2) ⟨.min, .u32, .rel, .core⟩) ∧
    dec 0x3060000002001409 0x0 = .ok (.red (hd 0) (.v 2) (.v 1) ⟨.fadd, .s32, .none, .dom⟩) ∧
    dec 0x3080000808808003 0x0 = .ok (.fence (hd 0) .pkg) ∧
    dec 0x30A0000C00C00000 0x0 = .ok (.opwait (hd 0) (.imm 0) (.imm 0)) ∧
    dec 0x30C0000002C01004 0x0 = .ok (.boadd (hd 0) (.v 2) (.imm 1) .dom) ∧
    dec 0x30E000400400605B 0x0 = .ok (.waitge (hd 2) (.v 4) (.v 6) .pkg true 5) ∧
    dec 0x3100000002808001 0x0 = .ok (.pwait (hd 0) (.v 2) true) := by
  decide

/-- Words of class 7, written out from R166 and each encoding. -/
theorem test_decode_remote :
    dec 0x380000C008808041 0x0 = .ok (.rld (hd 6) (.v 8) .b64 true) ∧
    dec 0x3820000008003240 0x0 = .ok (.rst (hd 0) (.v 8) (.v 3) .b32 true 2) ∧
    dec 0x3840000008001B52 0x0 = .ok (.ratom (hd 0) (.v 8) (.v 1) .max .u32 .acq 3 true) ∧
    dec 0x386000C008002060 0x0 = .ok (.rcas (hd 6) (.v 8) (.v 2) .s64 .acq) ∧
    dec 0x3880000010C01500 0x0 = .ok (.rboadd (hd 0) (.v 16) (.imm 1) 5) ∧
    dec 0x38A0000808808000 0x0 = .ok (.tkwait (hd 0)) ∧
    dec 0x38C000C808808000 0x0 = .ok (.tkquery (hd 6)) ∧
    dec 0x38E0000002004100 0x0 = .ok (.topkred (hd 0) (.v 2) (.v 4) 1) := by
  decide

/-- Words of class 8, written out from R166 and each encoding. -/
theorem test_decode_matrix :
    dec 0x4000000014808002 0x0 = .ok (.gang (hd 0) (.v 20) 2) ∧
    dec 0x4020000808808023 0x0 = .ok (.mfmt (hd 0) .int8 .orand) ∧
    dec 0x4040000002808003 0x0 = .ok (.dptab (hd 0) (.v 2) 3) ∧
    dec 0x406000000A01E009 0x0 = .ok (.mwload (hd 0) (.v 10) (.v 30) true .bf16 1) ∧
    dec 0x406000000A808004 0x0 = .ok (.mwload (hd 0) (.v 10) .zero false .bfp4 0) ∧
    dec 0x4080000040C3F045 0x0 = .ok (.mma (hd 0) (.v 64) (.imm 63) 5 true) ∧
    dec 0x40A000004002A005 0x0 = .ok (.mmaw (hd 0) (.v 64) (.v 42) 5 false) ∧
    dec 0x40C0002C02808045 0x0 = .ok (.talloc (hd 1) (.imm 2) 5 true) ∧
    dec 0x40E0000808808005 0x0 = .ok (.tfree (hd 0) 5) ∧
    dec 0x4100000002C02005 0x0 = .ok (.town (hd 0) (.v 2) (.imm 2) 5) ∧
    dec 0x4120000001C10005 0x0 = .ok (.tzero (hd 0) (.v 1) (.imm 16) 5) ∧
    dec 0x4140020011808005 0x0 = .ok (.tread (hd 16) (.v 17) 5) ∧
    dec 0x4160000001002005 0x0 = .ok (.twrite (hd 0) (.v 1) (.v 2) 5) ∧
    dec 0x418000002802AD45 0x0 = .ok (.tdrain (hd 0) (.v 40) (.v 42) 5 .s8 .h32 true) ∧
    dec 0x41A000C808808005 0x0 = .ok (.tstat (hd 6) 5) := by
  decide

/-- Words of class 9, written out from R166 and each encoding. -/
theorem test_decode_engine :
    dec 0x480000000800C058 0x0 = .ok (.copy (hd 0) (.v 8) (.v 12) ⟨0, .pkg, true, false, false, false, false⟩) ∧
    dec 0x482002800800C182 0x0 = .ok (.copyt (hd 20) (.v 8) (.v 12) ⟨2, .core, false, true, true, false, false⟩) ∧
    dec 0x4840000002C01000 0x0 = .ok (.cbload (hd 0) (.v 2) (.imm 1)) ∧
    dec 0x486000000800C200 0x0 = .ok (.cbcopy (hd 0) (.v 8) (.v 12) ⟨0, .core, false, false, false, true, false⟩) ∧
    dec 0x4880000010014101 0x0 = .ok (.cdec (hd 0) (.v 16) (.v 20) ⟨1, .core, false, false, true, false, false⟩) ∧
    dec 0x48A000000800C300 0x0 = .ok (.gather (hd 0) (.v 8) (.v 12) ⟨0, .core, false, false, true, true, false⟩) ∧
    dec 0x48C000000800C020 0x0 = .ok (.scatter (hd 0) (.v 8) (.v 12) ⟨0, .dom, false, false, false, false, false⟩) ∧
    dec 0x48E000000800C100 0x0 = .ok (.zfill (hd 0) (.v 8) (.v 12) ⟨0, .core, false, false, true, false, false⟩) ∧
    dec 0x490000C808808000 0x0 = .ok (.cpq (hd 6)) := by
  decide

/-- Words of class 10, written out from R166 and each encoding. -/
theorem test_decode_basin :
    dec 0x500000001080881B 0x0 = .ok (.search (hd 0) (.v 16) ⟨3, .pkg, true⟩) ∧
    dec 0x5020000020808018 0x0 = .ok (.nbscan (hd 0) (.v 32) ⟨0, .pkg, false⟩) ∧
    dec 0x504000002080801A 0x0 = .ok (.nbrowcopy (hd 0) (.v 32) ⟨2, .pkg, false⟩) ∧
    dec 0x5060000020808000 0x0 = .ok (.nbrowzero (hd 0) (.v 32) ⟨0, .core, false⟩) ∧
    dec 0x508000600A808000 0x0 = .ok (.vpublish (hd 3) (.v 10)) ∧
    dec 0x50A000600A808000 0x0 = .ok (.vsnap (hd 3) (.v 10)) ∧
    dec 0x50C000CC0B808000 0x0 = .ok (.bquery (hd 6) (.imm 11)) := by
  decide

/-- Words of class 11, written out from R166 and each encoding. -/
theorem test_decode_walker :
    dec 0x580000A000808001 0x0 = .ok (.wdist (hd 5) (.v 0) 1) ∧
    dec 0x5820000004000000 0x0 = .ok (.wheap (hd 0) (.v 4) (.v 0)) ∧
    dec 0x5840010000C00004 0x0 = .ok (.wnbrs (hd 8) (.v 0) (.imm 0) 4) ∧
    dec 0x5860004000808000 0x0 = .ok (.wvisit (hd 2) (.v 0)) ∧
    dec 0x5880000007003001 0x0 = .ok (.whop (hd 0) (.v 7) (.v 3) true) ∧
    dec 0x58A0000808C0100F 0x0 = .ok (.wspawn (hd 0) (.imm 1) 0xF) ∧
    dec 0x58C0000808808000 0x0 = .ok (.wdone (hd 0)) := by
  decide

/-- Words of class 12, written out from R166 and each encoding. -/
theorem test_decode_system :
    dec 0x6000002008808000 0x0 = .ok (.sret (hd 1) (.v 8) .zero .resume false) ∧
    dec 0x6000002008002004 0x0 = .ok (.sret (hd 1) (.v 8) (.v 2) .resume true) ∧
    dec 0x602000C001808101 0x0 = .ok (.sysrd (hd 6) (.v 1) 0x101) ∧
    dec 0x6040000808002010 0x0 = .ok (.syswr (hd 0) .zero (.v 2) 0x010) ∧
    dec 0x6060000001002000 0x0 = .ok (.ctxsave (hd 0) (.v 1) (.v 2)) ∧
    dec 0x6080000001808000 0x0 = .ok (.ctxload (hd 0) (.v 1) .zero) ∧
    dec 0x60A0000002004001 0x0 = .ok (.tlbinv (hd 0) (.v 2) (.v 4) .range) ∧
    dec 0x60C0000001002000 0x0 = .ok (.preempt (hd 0) (.v 1) (.v 2)) ∧
    dec 0x60E0000002808001 0x0 = .ok (.wgkill (hd 0) (.v 2) .launch) ∧
    dec 0x6100002002808001 0x0 = .ok (.lease (hd 1) (.v 2) true) ∧
    dec 0x6120002002808000 0x0 = .ok (.pgmig (hd 1) (.v 2)) ∧
    dec 0x6140000002808001 0x0 = .ok (.tkpost (hd 0) (.v 2) true) ∧
    dec 0x61600008088080EE 0x0 = .ok (.halt (hd 0) 0xEE) := by
  decide

/-- Worked words of the spec's listings: (!p3) TREAD v16, s5, v17 (after R305), (p2) WDONE (after R326), and the pair
word IADD v8, L1 || ISUB v13, v8 (after R185). -/
theorem test_decode_guard_and_pair :
    dec 0x4147020011808005 0 = .ok (.tread ⟨3, true, 16, false⟩ (.v 17) 5) ∧
    dec 0x58C4000808808000 0 = .ok (.wdone ⟨2, false, 0, false⟩) ∧
    dec 0x804088010101A010 0 = .ok (.pairWord ⟨.iadd, 8, .latch 1, false⟩ ⟨.isub, 13, .v 8, false⟩) := by
  decide

/-- One ill-formed term for each check of WellFormed. -/
theorem test_ill_formed_headers :
    (Instr.iadd ⟨0, false, 5, true⟩ (.v 1) (.v 2)).wf = false ∧
    (Instr.ld ⟨0, false, 0, true⟩ (.v 2) .zero ⟨.b32, .core, .none, none⟩).wf = false ∧
    (Instr.icmp (hd 16) (.v 1) (.v 2) .eq false .none).wf = false ∧
    (Instr.nop (hd 1)).wf = false ∧
    (Instr.copy (hd 1) (.v 2) (.v 4) ⟨0, .core, false, false, false, false, false⟩).wf = false ∧
    (Instr.iadd (hd 5) (.bad 0x808) (.v 2)).wf = false ∧
    (Instr.call ⟨0, false, 2, true⟩ (.short 8)).wf = false ∧
    (Instr.vote (hd 16) 2 false .all).wf = false := by
  decide

theorem test_ill_formed_modifiers :
    (Instr.cvt (hd 5) (.v 1) .s32 .s32 .rne false).wf = false ∧
    (Instr.cvt (hd 5) (.v 1) .s32 .s8 .rz false).wf = false ∧
    (Instr.cvt (hd 5) (.v 1) .f32 .s8 .rne true).wf = false ∧
    (Instr.shfl (hd 5) (.v 1) (.v 2) .idx 6 false).wf = false ∧
    (Instr.redux (hd 5) (.v 1) .and .f32 .rne).wf = false ∧
    (Instr.scan (hd 5) (.v 1) .add .s32 .rz false).wf = false ∧
    (Instr.st (hd 0) (.v 2) (.v 1) ⟨.s8, .core, .none, none⟩).wf = false ∧
    (Instr.st (hd 0) (.v 2) (.v 1) ⟨.b32, .core, .nc, none⟩).wf = false ∧
    (Instr.lda (hd 4) (.v 2) (.v 1) ⟨.b128, .core, .none, none⟩).wf = false ∧
    (Instr.strel (hd 0) (.v 2) (.v 1) ⟨.b128, .core, .none, none⟩).wf = false ∧
    (Instr.sts (hd 0) (.v 2) (.v 1) .s16 0).wf = false ∧
    (Instr.sflush (hd 0) (.v 2) .zero true).wf = false ∧
    (Instr.atom (hd 4) (.v 2) (.v 1) ⟨.fadd, .u32, .none, .core⟩).wf = false ∧
    (Instr.satom (hd 4) (.v 2) (.v 1) ⟨.add, .u32, .none, .die⟩).wf = false ∧
    (Instr.waitge (hd 2) (.v 2) (.v 4) .core false 1).wf = false := by
  decide

theorem test_ill_formed_others :
    (Instr.rld (hd 6) (.v 8) .b128 false).wf = false ∧
    (Instr.rst (hd 0) (.v 8) (.v 3) .s8 false 0).wf = false ∧
    (Instr.ratom (hd 5) (.v 8) (.v 1) .add .u32 .none 0 true).wf = false ∧
    (Instr.sysrd (hd 6) (.v 2) 0x010).wf = false ∧ (Instr.syswr (hd 0) (.v 2) (.v 4) 0x010).wf = false ∧
    (Instr.mwload (hd 0) (.v 10) (.v 30) false .bf16 0).wf = false ∧
    (Instr.mwload (hd 0) (.v 10) (.v 30) true .int8 0).wf = false ∧
    (Instr.copy (hd 0) (.v 2) (.v 4) ⟨0, .core, false, false, false, false, true⟩).wf = false ∧
    (Instr.gather (hd 0) (.v 2) (.v 4) ⟨0, .core, false, false, false, false, true⟩).wf = false ∧
    (Instr.zfill (hd 0) (.v 2) (.v 4) ⟨0, .core, false, false, false, true, false⟩).wf = false ∧
    (Instr.wnbrs (hd 8) (.v 0) (.imm 0) 0).wf = false ∧
    (Instr.sret (hd 1) (.v 8) (.v 2) .resume false).wf = false ∧
    (Instr.tlbinv (hd 0) (.v 2) .zero .all).wf = false ∧
    (Instr.pairWord ⟨.nop, 0, .v 1, false⟩ ⟨.iadd, 1, .v 2, false⟩).wf = false ∧
    (Instr.pairWord ⟨.iadd, 1, .v 2, false⟩ ⟨.lds, 1, .v 2, true⟩).wf = false ∧
    (Instr.unassignedOpcode 0x000000A001C03000 false).wf = false ∧
    (Instr.unassignedOpcode 0x7FE0000000000000 true).wf = false := by
  decide

/-- Reserved encodings are refused by name: an unassigned opcode of class 0, a reserved source, a reserved c bit of IADD. -/
theorem test_decode_reserved :
    dec 0x07E0000000000000 0 = .ok (.unassignedOpcode 0x07E0000000000000 false) ∧
    dec 0x000000A001809000 0 = .ok (.iadd (hd 5) (.v 1) (.bad 0x809)) ∧
    (match dec 0x000000A001C03001 0 with | .ok _ => false | _ => true) = true := by
  decide

/-- Thread 0, the only thread of its crew that has not exited, as the executing agent, with these v registers (4 KiB of stash, a supervisor
launch, the first 2 MiB mapped, log 26). -/
def lane (v : Store Word) : State :=
  ({ State.reset.placeWord 0x10C0000808808000 0 with cur := .thread 0, issue := {} } : State).updThr 0 fun y =>
    { y with r := { y.r with v := v, npc := y.r.pc + 8 } }

/-- The same thread as its crew's leader. -/
def lead (v : Store Word) : State := (lane v).updCrew 0 fun c => { c with leader := some 0 }

/-- The same thread with thread 1 of its crew in this state. -/
def mate (st : TState) (s : State) : State := s.updThr 1 fun y => { y with st := st }

/-- The same in a launch that is no supervisor's. -/
def user (s : State) : State := s.updLaunch 0 fun l => { l with raw := l.raw &&& ~~~(BitVec.ofNat 1024 (2 ^ 181)) }

/-- Walker 0 of a search as the executing agent, with these v registers. -/
def walk (v : Store Word) : State :=
  ({ State.reset.placeWord 0x5860004000808000 0 with cur := .walker 0, issue := {} } : State).updWlk 0 fun y =>
    { y with r := { y.r with v := v, npc := y.r.pc + 8 } }

/-- The same state with these bytes of memory, whose values are not 0. -/
def holding (s : State) (m : List (Nat × Byte)) : State := { s with mem := m.foldl (fun m e => Store.set m e.1 e.2) s.mem }

/-- v5 after this instruction on the thread of `lane`. -/
def d5 (i : Instr) (v : Store Word) : Word := match exec i (lane v) with | .next t => (t.thr 0).r.v.get 5 | _ => 0

/-- The value table after R200. -/
theorem test_division :
    d5 (.idiv (hd 5) (.v 1) (.v 2) false) [(1, 0xFFFFFFF9), (2, 2)] = 0xFFFFFFFD ∧
    d5 (.irem (hd 5) (.v 1) (.v 2) false) [(1, 0xFFFFFFF9), (2, 2)] = 0xFFFFFFFF ∧
    d5 (.idiv (hd 5) (.v 1) (.v 2) true) [(1, 7)] = 0xFFFFFFFF ∧
    d5 (.irem (hd 5) (.v 1) (.v 2) true) [(1, 7)] = 7 ∧
    d5 (.idiv (hd 5) (.v 1) (.v 2) false) [(1, 0x80000000), (2, 0xFFFFFFFF)] = 0x80000000 ∧
    d5 (.irem (hd 5) (.v 1) (.v 2) false) [(1, 0x80000000), (2, 0xFFFFFFFF)] = 0 := by decide +kernel

theorem test_integer_table :
    d5 (.imulh (hd 5) (.v 1) (.v 2) false) [(1, 0x80000000), (2, 2)] = 0xFFFFFFFF ∧
    d5 (.imulh (hd 5) (.v 1) (.v 2) true) [(1, 0x80000000), (2, 2)] = 1 ∧
    d5 (.iaddsat (hd 5) (.v 1) (.v 2) false) [(1, 0x7FFFFFF0), (2, 0x20)] = 0x7FFFFFFF ∧
    d5 (.iaddsat (hd 5) (.v 1) (.v 2) true) [(1, 0x7FFFFFF0), (2, 0x20)] = 0x80000010 ∧
    d5 (.isubsat (hd 5) (.v 1) (.v 2) true) [(1, 3), (2, 5)] = 0 ∧
    d5 (.idot4 (hd 5) (.v 1) (.v 2) false false) [(1, 0xFF020301), (2, 0x0201FF04)] = 1 ∧
    d5 (.idot4 (hd 5) (.v 1) (.v 2) true true) [(1, 0xFF020301), (2, 0x0201FF04)] = 0x501 := by decide +kernel

theorem test_shift_table :
    d5 (.shl (hd 5) (.v 1) (.v 2)) [(1, 1), (2, 33)] = 0 ∧
    d5 (.sar (hd 5) (.v 1) (.v 2)) [(1, 0x80000000), (2, 40)] = 0xFFFFFFFF ∧
    d5 (.rot (hd 5) (.v 1) (.v 2) false) [(1, 0x80000001), (2, 33)] = 3 ∧
    d5 (.clz (hd 5) (.v 1)) [] = 32 ∧ d5 (.ctz (hd 5) (.v 1)) [] = 32 ∧
    d5 (.bfe (hd 5) (.v 1) 4 4 true) [(1, 0xF0)] = 0xFFFFFFFF ∧
    d5 (.bfe (hd 5) (.v 1) 28 8 false) [(1, 0xA0000000)] = 0xA := by decide +kernel

theorem witness_IntegerResults :
    let s := lane [(1, 5), (2, 7), (3, 9)]
    s.ready ⟨aLane, hd 5, [.v (.v 1), .vi (.v 2)], .v 5⟩ = true ∧ s.ready ⟨aLane, hd 5, [.v (.v 1), .vi (.v 2), .v (.v 3)], .v 5⟩ = true ∧
    s.ready ⟨aLane, hd 5, [.v (.v 1)], .v 5⟩ = true ∧ s.ready ⟨aLane, hd 6, [.x (.v 2), .xi (.imm 3)], .x 6⟩ = true ∧
    s.ready ⟨aLane, hd 6, [.x (.v 2), .xi (.imm 3), .x (.v 8)], .x 6⟩ = true ∧ s.ready ⟨aLane, hd 6, [.x (.v 2), .vi (.v 1)], .x 6⟩ = true ∧
    s.ready ⟨aLane, hd 6, [], .x 6⟩ = true ∧ s.ready ⟨aLane, hd 5, [], .v 5⟩ = true := by decide +kernel

theorem witness_DivisionResults :
    let s := fun A B => lane [(1, A), (2, B)]
    let ok := fun A B => (s A B).ready ⟨aLane, hd 5, [.v (.v 1), .vi (.v 2)], .v 5⟩ = true ∧ (s A B).curRegs.rv (.v 1) = A ∧
      (s A B).curRegs.rv (.v 2) = B
    ok 7 0 ∧ ok 0x80000000 0xFFFFFFFF ∧ ok 7 0xFFFFFFFF ∧ ok 0x80000000 1 := by decide +kernel

theorem witness_LogicAndPredicateResults :
    let s := lane [(1, 0x80000001), (2, 33)]
    s.ready ⟨aLane, hd 5, [.v (.v 1), .vi (.v 2)], .v 5⟩ = true ∧ s.ready ⟨aLane, hd 6, [.x (.v 2), .vi (.v 1)], .x 6⟩ = true ∧
    s.ready ⟨aLane, hd 5, [.v (.v 1)], .v 5⟩ = true ∧ s.ready ⟨aLane, hd 5, [.v (.v 7)], .v 5⟩ = true ∧ s.curRegs.rv (.v 7) = 0 ∧
    s.ready ⟨aLane, hd 6, [.x (.v 2)], .x 6⟩ = true := by decide +kernel

theorem witness_LogicAndPredicateResults_predicates :
    let s := lane [(1, 5), (2, 7)]
    s.ready ⟨aLane, hd 3, [.v (.v 1), .vi (.imm 5)], .p 3⟩ = true ∧ s.ready ⟨aLane, hd 3, [.x (.v 2), .xi (.v 4)], .p 3⟩ = true ∧
    s.ready ⟨aLane, hd 3, [], .p 3⟩ = true ∧ s.ready ⟨aLane, hd 5, [.v (.v 1), .vi (.v 2)], .v 5⟩ = true ∧
    s.ready ⟨aLane, hd 5, [], .v 5⟩ = true ∧ s.ready ⟨aLane, hd 0, [.v (.v 1), .vi (.v 2)], .none⟩ = true := by decide +kernel

theorem witness_DecodeOrder :
    let s := lane [(1, 5)]
    let add := fun h a => Instr.iadd h a (.imm 1)
    let iss := fun (s : State) i => (s.issOf i).getD ⟨{}, hd 0, [], .none⟩
    let fly : LoadFly := { thread := 0, d := 1, vals := [1], poison := none, pc := 0 }
    s.cur ≠ .none ∧ s.issOf (add (hd 5) (.v 1)) = some (iss s (add (hd 5) (.v 1))) ∧
    (({ s with loads := [fly] } : State).hazard (iss s (add (hd 5) (.v 1))) = true) ∧
    s.hazard (iss s (add (hd 5) (.v 1))) = false ∧ s.holds (iss s (add (hd 5) (.v 1))) = false ∧
    (iss s (.wdone (hd 0))).a.core = false ∧ (iss (walk []) (.fadd (hd 5) (.v 1) (.v 2) .rne)).a.walker = false ∧
    ((iss s (.halt (hd 0) 1)).a.priv = true ∧ (user s).curAs.sup = false) ∧
    Opd.ok s.curCnt (.v (.v 1)) = true ∧ Opd.ok s.curCnt (.x (.v 1)) = false ∧
    (s.curRegs.guard ⟨1, false, 5, false⟩ = false ∧ (iss s (.brk (hd 0) 1)).a.brk = true ∧ (iss s (.brk (hd 0) 1)).a.coll = false) ∧
    (s.curRegs.guard (hd 5) = true ∧ latchBad s.curRegs (iss s (add (hd 5) (.latch 1))).ops = true) := by decide +kernel

theorem witness_TrapEntry :
    let s := lane []
    let q : TrapRec := { info := { cause := .access }, part := 0, kind := 0, crew := 0, lane := 0, core := 0, ctx := 0, sup := false, tpc := 0, opc := 0, cyc := 0 }
    let full := s.updCore 0 fun x => { x with slots := (List.range 64).map fun k => (k, ({ held := some q } : Slot)) }
    s.cur = .thread 0 ∧ full.cur = .thread 0 ∧ ((s.core (s.coreOf 0)).slots.get 0).held = none ∧
    ∀ k < 64, ((full.core (full.coreOf 0)).slots.get k).held ≠ none := by decide +kernel

theorem witness_RequestedTraps :
    let s := lane []
    s.cur = .thread 0 ∧ 0 < s.threads.length ∧ s.runs (.brk (hd 0) 7) = true ∧ s.runs (.trap (hd 0) 9 (.v 1)) = true ∧
    s.runs (.assert (hd 0) 3 false (.v 2)) = true ∧ (s.curRegs.pred 3 ^^ false) = false ∧ s.runs (.assert (hd 0) 3 true (.v 2)) = true ∧
    (s.curRegs.pred 3 ^^ true) = true ∧ s.ctxPhase (s.partOf 0) (s.ctxOf 0) = 0 ∧
    ((s.core (s.coreOf 0)).slots.get 0).held = none := by decide +kernel

theorem witness_SpecialRegisters :
    let s := lane [(1, 5)]
    s.cur = .thread 0 ∧ (∀ r, s.runs (.sread (hd 6) r true) = true) ∧ (∀ r, s.runs (.sread (hd 5) r false) = true) ∧
    (∀ r, s.runs (.swrite (hd 0) r true (.v 2)) = true) ∧ (∀ r, s.runs (.swrite (hd 0) r false (.v 1)) = true) :=
  have a : (lane [(1, 5)]).ready ⟨{}, hd 6, [], .x 6⟩ = true := by decide +kernel
  have b : (lane [(1, 5)]).ready ⟨{}, hd 5, [], .v 5⟩ = true := by decide +kernel
  have c : (lane [(1, 5)]).ready ⟨{}, hd 0, [.x (.v 2)], .none⟩ = true := by decide +kernel
  have d : (lane [(1, 5)]).ready ⟨{}, hd 0, [.v (.v 1)], .none⟩ = true := by decide +kernel
  ⟨rfl, fun _ => a, fun _ => b, fun _ => c, fun _ => d⟩

theorem witness_Transfers :
    let s := lane [(4, 0x1008), (7, 2), (8, 1), (10, 0x1004)]
    let chk := fun T => (s.reforms.checkTarget s.curAs s.curView T).2
    let r := s.curRegs
    chk 0x1008 = .ok () ∧ chk 0x1004 = .trap { cause := .badTarget } ∧ chk 0x2008 = .trap { cause := .badTarget } ∧
    r.rx (.v 4) = 0x1008 ∧ r.rx (.v 10) = 0x1004 ∧ r.pc + (0 : BitVec 11).signExtend 64 * 8 = 0x1008 ∧
    s.runs (.bra (hd 0) (.short 0)) = true ∧ s.runs (.bra (hd 0) (.long 0x1004)) = true ∧ s.runs (.call (hd 2) (.short 0)) = true ∧
    s.runs (.call (hd 2) (.long 0x1004)) = true ∧ s.runs (.brx (hd 0) (.v 4)) = true ∧ s.runs (.callx (hd 2) (.v 4)) = true ∧
    s.runs (.ret (hd 0) (.v 4)) = true ∧ s.runs (.loopd (hd 7) (.v 7) (.short 0)) = true ∧ (r.rv (.v 7)).toNat = 2 ∧
    s.runs (.brx (hd 0) (.v 10)) = true ∧ s.runs (.callx (hd 2) (.v 10)) = true ∧ s.runs (.ret (hd 0) (.v 10)) = true ∧
    s.runs (.loopd (hd 7) (.v 7) (.long 0x1004)) = true ∧
    s.runs (.loopd (hd 8) (.v 8) (.short 0)) = true ∧ (r.rv (.v 8)).toNat = 1 ∧ (r.rv (.v 9)).toNat = 0 := by decide +kernel

theorem witness_LoopCounts :
    let s := lane [(7, 2), (8, 1)]
    let chk := fun T => (s.reforms.checkTarget s.curAs s.curView T).2
    s.runs (.loopd (hd 7) (.v 7) (.short 0)) = true ∧ s.runs (.loopd (hd 7) (.v 7) (.long 0x1004)) = true ∧
    s.runs (.loopd (hd 8) (.v 8) (.short 0)) = true ∧ s.runs (.loopd (hd 9) (.v 9) (.short 0)) = true ∧
    (s.curRegs.rv (.v 7)).toNat - 1 ≠ 0 ∧ (s.curRegs.rv (.v 8)).toNat - 1 = 0 ∧ (s.curRegs.rv (.v 9)).toNat = 0 ∧
    chk s.curRegs.pc = .ok () ∧ chk 0x1004 = .trap { cause := .badTarget } := by decide +kernel

theorem witness_WaitsNothingAndExit :
    let s := lane [(4, 5)]
    s.cur = .thread 0 ∧ 0 < s.threads.length ∧ s.runs (.nop (hd 0)) = true ∧ s.runs (.yield (hd 0)) = true ∧
    s.runs (.sleepuntil (hd 0) (.v 4)) = true ∧ s.cyc.toNat < (s.curRegs.rx (.v 4)).toNat ∧ s.runs (.sleepuntil (hd 0) (.v 6)) = true ∧
    (s.curRegs.rx (.v 6)).toNat ≤ s.cyc.toNat ∧ s.runs (.exit (hd 0)) = true := by decide +kernel

theorem witness_Leaders :
    let s := mate (.waiting (.elect 3)) (lane [])
    let l := mate .sleeping (lead [])
    (s.cur = .thread 0 ∧ 0 < s.threads.length ∧ 0 ∈ s.live (s.crewOf 0) ∧ s.crewOf 0 < s.crews.length) ∧
    (s.joins (.elect (hd 2)) = true ∧ (s.crew 0).leader = none ∧
      ∀ u ∈ s.live 0, u ≠ 0 → (s.thr u).st = .waiting (.elect 3)) ∧
    (l.joins (.elect (hd 2)) = true ∧ (l.crew 0).leader ≠ none) ∧ (l.runs (.wake (hd 0)) = true ∧ l.isLeader 0 = true) ∧
    (s.runs (.wake (hd 0)) = true ∧ s.isLeader 0 = false) ∧ (l.joins (.cbar (hd 0)) = true) := by decide +kernel

theorem witness_Barriers :
    let at_ := fun w => mate (.waiting w) (lane [])
    let s := mate .ready (lane [])
    (at_ .cbar).joins (.cbar (hd 0)) = true ∧ (at_ .cbar).isLeader 0 = false ∧ 0 ∈ (at_ .cbar).live ((at_ .cbar).crewOf 0) ∧
    (∀ u ∈ (at_ .cbar).live 0, u ≠ 0 → ((at_ .cbar).thr u).st = .waiting .cbar) ∧
    (s.joins (.cbar (hd 0)) = true ∧ s.isLeader 0 = false ∧ ∃ u ∈ s.live (s.crewOf 0), u ≠ 0 ∧ rdvOf (s.thr u) = .none) ∧
    (at_ .wgbar).runs (.wgbar (hd 0)) = true ∧ ((at_ .wgbar).wg 0).started = true ∧ 0 ∈ (at_ .wgbar).required 0 ∧
    (∀ u ∈ (at_ .wgbar).required 0, u ≠ 0 → ((at_ .wgbar).thr u).st = .waiting .wgbar) ∧
    (s.runs (.wgbar (hd 0)) = true ∧ ∃ u ∈ s.required 0, u ≠ 0 ∧ (s.thr u).st ≠ .waiting .wgbar) ∧
    ((s.reforms.release (s.coreOf 0) (s.tileScope 0)).postBlocked (s.coreOf 0) = none ∧ s.runs (.tilebar (hd 0)) = true ∧ 0 < s.wgs.length ∧ s.wgDone 0 = false ∧ ∃ u ∈ s.required 0, u ≠ 0 ∧ (s.thr u).st ≠ .waiting .tilebar) ∧
    (let s := at_ .tilebar
     s.runs (.tilebar (hd 0)) = true ∧ (s.reforms.release (s.coreOf 0) (s.tileScope 0)).postBlocked (s.coreOf 0) = none ∧ (s.wg 0).stage = .active ∧ 0 ∈ s.required 0 ∧ 0 ∈ s.tileWgs 0 ∧ (s.tileWgs 0).length = s.tileSize 0 ∧
      (∀ u ∈ s.required 0, u ≠ 0 → (s.thr u).st = .waiting .tilebar) ∧
      ∀ m ∈ s.tileWgs 0, m ≠ 0 → s.wgDone m = true ∨ s.required m ≠ [] ∧ s.arrived true m = true) := by decide +kernel

theorem witness_FloatResults :
    let s := lane [(1, 0x3F800000), (2, 0xC0000000)]
    let a : Src := .v 1
    let b : Src := .v 2
    s.cur = .thread 0 ∧ s.runs (.fadd (hd 5) a b .rne) = true ∧ s.runs (.fsub (hd 5) a b .rz) = true ∧ s.runs (.fmul (hd 5) a b .rup) = true ∧
    s.runs (.ffma (hd 5) a b (.v 3)) = true ∧ s.runs (.fdiv (hd 5) a b .rdn) = true ∧ s.runs (.fsqrt (hd 5) a .rne) = true ∧
    s.runs (.fmin (hd 5) a b true) = true ∧ s.runs (.fmax (hd 5) a b false) = true ∧ s.runs (.fabs (hd 5) a) = true ∧
    s.runs (.fneg (hd 5) a) = true ∧ s.runs (.fclass (hd 5) a) = true ∧ s.runs (.frcp (hd 5) a .rne) = true ∧
    s.runs (.frsq (hd 5) a .rne) = true ∧ s.runs (.fexp2 (hd 5) a .rne) = true ∧ s.runs (.flog2 (hd 5) a .rne) = true ∧
    s.runs (.hadd2 (hd 5) a b false .rne) = true ∧ s.runs (.hmul2 (hd 5) a b true .rne) = true ∧ s.runs (.hfma2 (hd 5) a b true .rne) = true ∧
    s.runs (.hminmax2 (hd 5) a b false true true) = true ∧ s.runs (.fdot2 (hd 5) a b false .rne) = true := by decide +kernel

/-- The operands of the clauses on rounding and on R222's table: 3, -0.0, the least subnormal, 1.5, -infinity, a signalling NaN. -/
theorem witness_FloatResults_values :
    let fin := fun (x : Nat) => f32.ex x ≠ 2 ^ f32.eb - 1
    fin 0x40400000 ∧ f32.read false 0x40400000 = 3 ∧ fin 0x80000000 ∧ f32.read false 0x80000000 = 0 ∧ fin 1 ∧ f32.read true 1 = 0 ∧
    f32.read false 1 = (2 : ℚ) ^ (-149 : ℤ) ∧ fin 0x3FC00000 ∧ f32.read false 0x3FC00000 = 3 / 2 ∧ f32.ex 0xFF800000 = 2 ^ f32.eb - 1 ∧
    f32.fr 0xFF800000 = 0 ∧ f32.ex 0x7F800001 = 2 ^ f32.eb - 1 ∧ f32.fr 0x7F800001 ≠ 0 ∧ ⌊(3 / 2 : ℚ)⌋ ≠ (3 / 2 : ℚ) ∧
    (2 : ℚ) ^ (0 : ℤ) < 3 / 2 ∧ (3 / 2 : ℚ) < 2 ^ (0 + 1 : ℤ) ∧ fin 0x43000000 ∧ f32.read false 0x43000000 = 128 ∧ fin 0xC3160000 ∧
    f32.read false 0xC3160000 = -150 ∧ fin 0xBF800000 ∧ f32.read false 0xBF800000 = -1 := by
  norm_num [Fmt.ex, Fmt.fr, Fmt.read, Fmt.rat, Fmt.bias, f32]

theorem witness_ExponentialBounds :
    let fin := fun (a : Word) => f32.ex a.toNat ≠ 255
    fin 0x3FC00000 ∧ f32.rat (0x3FC00000 : Word).toNat = 3 / 2 ∧ fin 0x40800000 ∧ f32.rat (0x40800000 : Word).toNat = 4 ∧
    fin 0x3E800000 ∧ f32.rat (0x3E800000 : Word).toNat = 1 / 4 ∧ (2 : ℝ) ^ (1 : ℤ) ≤ |Real.logb 2 4| ∧ |Real.logb 2 4| < (2 : ℝ) ^ (1 + 1 : ℤ) := by
  have l : Real.logb 2 4 = 2 := by
    rw [show (4 : ℝ) = 2 ^ (2 : ℝ) by norm_num, Real.logb_rpow] <;> norm_num
  refine ⟨?_, ?_, ?_, ?_, ?_, ?_, ?_, ?_⟩
  · decide
  · show f32.rat 0x3FC00000 = 3 / 2; norm_num [Fmt.rat, Fmt.bias, f32]
  · decide
  · show f32.rat 0x40800000 = 4; norm_num [Fmt.rat, Fmt.bias, f32]
  · decide
  · show f32.rat 0x3E800000 = 1 / 4; norm_num [Fmt.rat, Fmt.bias, f32]
  · rw [l]; norm_num
  · rw [l]; norm_num

theorem witness_FloatSpecialsAndCompares :
    (f32.isNaN 0x7F800001 = true ∧ f32.isInf 0xFF800000 = true ∧ f32.isZero 0x80000000 = true ∧ f32.isSub 1 = true) ∧
    (f32.isNaN 1 = false ∧ f32.isInf 0x3F800000 = false ∧ f32.isZero 0x3F800000 = false ∧ f32.isSub 0x3F800000 = false) ∧
    (f32.neg 0xBF800000 = true ∧ f32.isNaN 0xBF800000 = false ∧ f32.isZero 0xBF800000 = false ∧ f32.isSub 0xBF800000 = false) ∧
    (let s := lane [(1, 0x7F800001)]
     s.cur = .thread 0 ∧ s.runs (.fcmp (hd 3) (.v 1) (.v 2) .le .none) = true ∧ s.runs (.fcmp (hd 3) (.v 1) (.v 2) .nan (.and 2)) = true ∧
      s.runs (.fcmp (hd 3) (.v 1) (.v 2) .ne (.or 2)) = true) := by decide +kernel

theorem witness_Conversions :
    let s := fun x => lane [(2, x)]
    let ok := fun src dst => (s 0).runs (.cvt (hd 6) (.v 2) src dst .rne false) = true
    let val := fun x => f32.val (s x).ftz (((s x).curRegs.rv (.v 2)).toNat % 2 ^ f32.w)
    (s 0).cur = .thread 0 ∧ (∀ src ∈ [CvtFmt.s8, .u8, .s32, .s64, .f32, .bf16, .f16], ∀ dst ∈ [CvtFmt.s8, .u8, .s32, .s64, .f32, .bf16, .f16], ok src dst) ∧
    val 0x7FC00000 = .nan false ∧ val 0xFF800000 = .inf true ∧ val 0x3FC00000 = .fin false (3 * 2 ^ 22) (2 ^ 23) := by decide +kernel

theorem witness_Loads :
    let s := lane [(4, 0x2000)]
    let m : MemMod := ⟨.b64, .core, .none, none⟩
    let chk := fun va n => (s.reforms.check s.curAs (some 0) va n .load).2
    s.cur = .thread 0 ∧ s.coreOf 0 = 0 ∧ s.requests 0 < 2048 ∧ s.runs (.ld (hd 6) (.v 4) .zero m) = true ∧
    s.runs (.lda (hd 6) (.v 4) .zero m) = true ∧ s.runs (.ld (hd 6) (.v 4) (.imm 1) m) = true ∧
    chk 0x2000 8 = .ok (.mem ((List.range 8).map (0x2000 + ·)) false) ∧ chk 0x2001 8 = .trap { cause := .misaligned, detail := 0, addr := 0x2001 } := by
  decide +kernel

/-- A load by a walker, of a good line and of a poisoned one. -/
theorem witness_Loads_walker :
    let s := walk [(4, 0x2000)]
    let p : Place := .mem ((List.range 8).map (0x2000 + ·)) false
    s.cur = .walker 0 ∧ s.runs (.ld (hd 6) (.v 4) .zero ⟨.b64, .core, .none, none⟩) = true ∧ (s.curRegs.rx (.v 4)).toNat % 8 = 0 ∧
    (s.walkerPlace 0x2000 8).2 = .ok p ∧ ((s.walkerPlace 0x2000 8).1.demandPlace p).placeBad p = false ∧
    (let b := ({ s with poison := [0x80] } : State)
     (b.walkerPlace 0x2000 8).2 = .ok p ∧ ((b.walkerPlace 0x2000 8).1.demandPlace p).placeBad p = true) := by decide +kernel

theorem witness_Stores :
    let s := lane [(4, 0x2000), (10, 0x2001)]
    let m : MemMod := ⟨.b128, .clus, .none, none⟩
    let chk := fun va => s.reforms.check s.curAs (some 0) va 16 .store
    s.cur = .thread 0 ∧ s.requests 0 < 2048 ∧ s.runs (.st (hd 0) (.v 4) (.v 8) m) = true ∧ s.runs (.strel (hd 0) (.v 4) (.v 8) m) = true ∧
    s.runs (.st (hd 0) (.v 10) (.v 8) m) = true ∧ s.remotePending (s.crewOf 0) s.racc.length = false ∧
    (chk 0x2000).2 = .ok (.mem ((List.range 16).map (0x2000 + ·)) false) ∧ (chk 0x2000).1.placeBlocked (.mem ((List.range 16).map (0x2000 + ·)) false) = none ∧
    ((chk 0x2000).1.flushCore 0).postBlocked 0 = none ∧
    (chk 0x2001).2 = .trap { cause := .misaligned, detail := 1, addr := 0x2001 } := by decide +kernel

theorem witness_StoredBytes :
    let s := lane []
    [0x2000, 0x2001].Nodup ∧ (∀ pa ∈ [0x2000, 0x2001], s.dirFind (pa / 64) = none) ∧ Memory.wf s.mem = true ∧ s.arrayErr = [] ∧
    (∀ k < 2, s.dirFind ((0x2000 + k) / 64) = none) := by decide +kernel

theorem witness_Atomics :
    let s := lane [(4, 0x2000)]
    let m : AtomMod := ⟨.add, .u32, .rel, .pkg⟩
    let p : Place := .mem ((List.range 4).map (0x2000 + ·)) false
    let p8 : Place := .mem ((List.range 8).map (0x2000 + ·)) false
    let chk := fun n => s.reforms.check s.curAs (some 0) 0x2000 n .atomic
    let s3 := ((chk 4).1.flushCore 0).settlePlace 0 p |>.demandPlace p
    s.cur = .thread 0 ∧ s.requests 0 < 2048 ∧ s.runs (.atom (hd 6) (.v 4) (.v 8) m) = true ∧ s.runs (.red (hd 0) (.v 4) (.v 8) m) = true ∧
    s.runs (.cas (hd 6) (.v 4) (.v 8) false .rel .pkg) = true ∧ s.runs (.cas (hd 6) (.v 4) (.v 8) true .none .core) = true ∧
    s.runs (.boadd (hd 0) (.v 4) (.imm 1) .clus) = true ∧ (chk 4).2 = .ok p ∧ (chk 8).2 = .ok p8 ∧
    (chk 4).1.placeBlocked p = none ∧ (chk 8).1.placeBlocked p8 = none ∧ ((chk 4).1.flushCore 0).postBlocked 0 = none ∧
    ((chk 8).1.flushCore 0).postBlocked 0 = none ∧ s3.placeBad p = false ∧
    s.remotePending (s.crewOf 0) s.racc.length = false := by decide +kernel

theorem witness_StashAccesses :
    let s := lane [(1, 4092), (2, 4096), (3, 64)]
    let m : AtomMod := ⟨.add, .u32, .none, .core⟩
    let chk := fun x w => (s.reforms.stashCheck 0 x 4 w).2
    let out : TrapInfo := { cause := .access, detail := 6, addr := 4096 }
    s.cur = .thread 0 ∧ s.runs (.lds (hd 5) (.v 1) .zero .b32) = true ∧ s.runs (.lds (hd 5) (.v 2) .zero .b32) = true ∧
    s.runs (.sts (hd 0) (.v 5) (.v 1) .b32 0) = true ∧ s.runs (.sts (hd 0) (.v 5) (.v 1) .b32 1) = true ∧
    s.runs (.satom (hd 5) (.v 3) (.v 6) m) = true ∧ chk 4092 false = .ok () ∧ chk 4092 true = .ok () ∧ chk 64 true = .ok () ∧
    chk 4096 false = .trap out ∧ chk 4096 true = .trap out ∧ s.stashBad 0 4092 4 = false ∧ s.stashBad 0 64 4 = false ∧
    0 < s.wgs.length := by decide +kernel

theorem witness_MemoryControls :
    let s := (lane [(1, 1), (2, 5), (3, 4095), (4, 0x2000), (6, 4096)]).updCrew 0 fun c => { c with s := [(1, 0x2100)] }
    let r := s.curRegs
    let p := s.reforms.check s.curAs (some 0) 0x2000 4 .load
    let q := p.1.check s.curAs (some 0) 0x2100 2 .load
    s.cur = .thread 0 ∧ s.runs (.prefetch (hd 0) (.v 4) .zero true 0 none) = true ∧ s.runs (.cctl (hd 0) (.v 4) (.imm 1) .il1) = true ∧
    s.runs (.cctl (hd 0) (.v 4) (.v 6) .il1) = true ∧ (r.rv (.v 6)).toNat = 4096 ∧ canonical (r.rx (.v 4)) = true ∧
    (r.rx (.v 4)).getLsbD 56 = false ∧ s.runs (.fence (hd 0) .core) = true ∧ s.runs (.fence (hd 0) .die) = true ∧
    s.runs (.fence (hd 0) .dom) = true ∧ s.remotePending (s.crewOf 0) s.racc.length = false ∧
    s.runs (.opwait (hd 0) (.imm 4) (.v 3)) = true ∧ (r.rv (.v 3)).toNat = 4095 ∧
    s.runs (.ldx (hd 6) (.v 4) .zero 1 false) = true ∧ s.requests 0 + 2 ≤ 2048 ∧ (r.rv .zero).toNat % 4 = 0 ∧
    ((s.crew 0).s.get 1).toNat % 2 = 0 ∧ p.2 = .ok (.mem ((List.range 4).map (0x2000 + ·)) false) ∧
    q.2 = .ok (.mem ((List.range 2).map (0x2100 + ·)) false) ∧
    ((q.1.demandPlace (.mem [0x2000] false)).demandPlace (.mem [0x2100] false)).poison = [] := by decide +kernel

theorem witness_StashMaps :
    let s := lane [(4, 0x2000), (6, 0x400000), (9, 7), (10, 1)]
    let e : MapEnt := { gva := 0x2000, off := 0, lines := 1, ro := false, nofill := false }
    let m := s.updWg 0 fun w => { w with maps := [none, none, none, none, none, none, none, some e] }
    let chk := m.reforms.cleanLines 0 e.lineList
    let all := m.reforms.cleanLines 0 ((m.wg 0).coveredLines true 0 0)
    s.cur = .thread 0 ∧ 0 < s.wgs.length ∧ s.runs (.smap (hd 5) (.v 4)) = true ∧
    entryOfQuad (s.curRegs.regsNat 4 4) = some e ∧ s.smapBad 0 e = false ∧ s.stashBusy 0 [e.range] = false ∧
    (s.wg 0).maps.getD 0 none = none ∧ m.runs (.sunmap (hd 0) (.v 9)) = true ∧ (m.wg 0).maps.getD 7 none = some e ∧
    m.stashBusy 0 [e.range] = false ∧ chk.2 = .ok () ∧ 0 < chk.1.wgs.length ∧ s.runs (.sunmap (hd 0) (.v 9)) = true ∧
    (s.wg 0).maps.getD 7 none = none ∧ m.runs (.sflush (hd 0) .zero .zero true) = true ∧ all.2 = .ok () ∧
    m.runs (.sinv (hd 0) .zero .zero true) = true ∧ m.stashBusy 0 ((m.wg 0).coverRanges true 0 0) = false ∧
    m.runs (.sflush (hd 0) (.v 4) (.imm 1) false) = true ∧ m.runs (.sinv (hd 0) (.v 4) (.imm 1) false) = true ∧
    (m.curRegs.rx (.v 4)).toNat % 64 = 0 ∧ m.runs (.sflush (hd 0) (.v 10) (.imm 1) false) = true ∧ (m.curRegs.rx (.v 10)).toNat % 64 ≠ 0 := by
  decide +kernel

theorem witness_ObjectWaits :
    let s := (lane [(4, 0x2000), (6, 1), (8, 5), (10, 5), (11, 0xA0000000), (12, 5)]).updCrew 0 fun c =>
      { c with s := [(5, 9)], outst := [⟨0, 0, false⟩] }
    let w := s.reforms.waitRead s.curAs (s.coreOf 0) 0x2000
    let P := fun n => s.curRegs.rx (.v n)
    s.cur = .thread 0 ∧ s.requests (s.coreOf 0) < 2048 ∧ s.runs (.waitge (hd 2) (.v 4) (.v 6) .pkg true 5) = true ∧ s.runs (.waitge (hd 2) (.v 4) (.v 2) .pkg false 0) = true ∧
    w.2 = .ok 0 ∧ s.runs (.pwait (hd 0) (.v 8) true) = true ∧ s.runs (.pwait (hd 0) (.v 10) false) = true ∧ 5 ≤ bits (P 10) 61 3 ∧
    bits (P 8) 61 3 = 0 ∧ s.outstanding 0 0 0 = true ∧ s.outstanding 0 1 0 = false ∧ bits (P 2) 61 3 = 0 ∧
    s.runs (.pwait (hd 0) (.v 2) false) = true ∧ ((5 : DWord) - s.cyc).toInt = 5 ∧ ((0 : DWord) - s.cyc).toInt = 0 := by decide +kernel

theorem witness_RemoteIssue :
    let s := (lane [(4, 0x2000), (6, 5)]).updPart 0 fun p => { p with fabPerm := [(0, 32)] }
    s.cur = .thread 0 ∧ 0 < s.threads.length ∧ s.crewOf 0 < s.crews.length ∧ s.requests (s.coreOf 0) < 2048 ∧
    (s.flushCore 0).postBlocked 0 = none ∧ s.runs (.rld (hd 8) (.v 4) .b64 true) = true ∧ s.runs (.rst (hd 0) (.v 4) (.v 8) .b64 true 3) = true ∧
    s.runs (.ratom (hd 8) (.v 4) (.v 9) .add .u32 .none 0 false) = true ∧ s.runs (.ratom (hd 0) (.v 4) (.v 9) .add .u32 .none 2 true) = true ∧
    s.runs (.rcas (hd 8) (.v 4) (.v 10) .u64 .rel) = true ∧ s.runs (.rboadd (hd 0) (.v 4) (.imm 1) 0) = true ∧
    (s.curRegs.v.get 6).toNat < 2048 ∧ (s.curRegs.x 4).toNat % 8 = 0 ∧ canonical (s.curRegs.x 4) = true ∧ (s.curRegs.x 4).getLsbD 56 = false ∧
    s.fabReach s.curAs.part 5 = true ∧ s.tableUsed (s.coreOf 0) < 64 ∧ s.remotePending 0 s.racc.length = false ∧ s.counter 0 4 < 4095 := by
  decide +kernel

theorem witness_TicketInstructions :
    let s := (holding (lane [(4, 0x2000), (6, 0x3000)]) [(0x3002, 1), (0x3003, 0x10)])
    let a : RAccess := { core := 0, crew := 0, thread := 0, lane := 0, owner := 5, kind := .rboadd, va := 0, data := 0, expect := 0, d := 0, hold := false, stream := 0, scopeRel := false, seq := 0, tkid := none, head := false, replay := none, sent := true, pc := 0, order := 0, word := 0, contrib := none }
    let p := s.reforms.check s.curAs (some (s.coreOf 0)) 0x3000 64 .load
    let pl : Place := .mem ((List.range 64).map (0x3000 + ·)) false
    let d := p.1.demandPlace pl
    let q := d.resolveRange s.curAs (some (s.coreOf 0)) 0x2000 8 .load
    s.cur = .thread 0 ∧ 0 < s.threads.length ∧ s.crewOf 0 < s.crews.length ∧ s.runs (.tkwait (hd 0)) = true ∧
    s.remotePending 0 s.racc.length = false ∧ ({ s with racc := [a] } : State).remotePending 0 1 = true ∧
    ({ s with racc := [a] } : State).runs (.tkwait (hd 0)) = true ∧ (s.thr 0).passed = false ∧ s.runs (.tkquery (hd 6)) = true ∧
    s.runs (.topkred (hd 0) (.v 4) (.v 6) 0) = true ∧ p.2 = .ok pl ∧
    (d.redDesc (d.fetchPlace (some 0) pl)).isSome = true ∧ ((d.redDesc (d.fetchPlace (some 0) pl)).map (·.k)) = some 1 ∧
    (match q.2 with | .ok _ => true | _ => false) = true ∧ s.requests 0 < 2048 ∧
    s.counter 0 4 < 4095 ∧ s.tableUsed 0 < 64 := by decide +kernel

theorem witness_TarnInstructions :
    let al : TAlloc := { wg := 0, base := 0, n := 2, i32 := false, drainers := none }
    let g := fun (v : Store Word) (as : List TAlloc) =>
      (lead v).updCore 0 fun c => { c with allocs := as }
    let s := g [(4, 48), (6, 0x2000), (8, 1), (10, 2)] [al]
    let u := s.updPart 0 fun p => { p with ut := true }
    let full := g [(4, 47)] [al]
    (s.cur = .thread 0 ∧ s.isLeader 0 = true) ∧
    ((lead [(4, 48)]).runs (.talloc (hd 1) (.v 4) 3 false) = true ∧ ∀ j < 48, (lead [(4, 48)]).bankFree 0 (0 + j) = true) ∧
    (full.runs (.talloc (hd 1) (.v 4) 3 true) = true ∧ ∀ b' ≤ 48 - 47, ∃ j < 47, full.bankFree 0 (b' + j) = false) ∧
    (s.tarnAlloc 0 0 0 = some al ∧ s.runs (.tfree (hd 0) 0) = true ∧ s.allocBusy 0 al = false ∧
      (s.core 0).allocs.find? (fun x => x.wg == 0 && x.base == 0 && (x.freeing.isNone || x.freeing == some 0)) = some al) ∧
    (s.runs (.town (hd 0) (.v 20) (.v 8) 0) = true ∧ drainersOf (s.curRegs.rx (.v 20)) (s.curRegs.rv (.v 8)).toNat (s.wg 0).ncrew = some [0]) ∧
    (s.runs (.tzero (hd 0) (.imm 63) (.v 8) 0) = true ∧ 63 + (s.curRegs.rv (.v 8)).toNat = 32 * al.n ∧
      s.rowsBusy 0 0 63 1 false s.accs = false) ∧
    (bits (s.curRegs.rv (.v 4)) 19 13 = 0 ∧ bits (s.curRegs.rv (.v 4)) 8 11 = 0 ∧ al.bandBad (s.crew 0).num 0 1 = false ∧
      (s.thr 0).tarn = none ∧ s.rowsBusy 0 0 0 1 true s.accs = false ∧ s.rowsBusy 0 0 0 1 false s.accs = false ∧
      s.runs (.tread (hd 5) (.v 4) 0) = true ∧ s.runs (.twrite (hd 0) (.v 4) (.imm 9) 0) = true) ∧
    (let j : Joint := { cluster := 0, core := 0, wg := 0, crews := [0], seqs := [0], base := 0, va := [64], foot := 8, shape := 0, window := 0,
                        ovr := false, afmt := .bf16, mop := .mad, tile := 0, prio := 0, posted := some 0 }
     let t : State := { s with joints := [j], accs := 1 }
     t.isLeader 0 = true ∧ t.runs (.tread (hd 5) (.v 4) 0) = true ∧ t.tarnAlloc 0 0 0 = some al ∧
      (t.updThr 0 fun x => { x with tarn := none }).rowsBusy 0 0 0 1 true t.accs = true) ∧
    (let t := g [(4, 0x4000)] [al]
     t.runs (.twrite (hd 0) (.v 4) (.imm 9) 0) = true ∧ bits (t.curRegs.rv (.v 4)) 8 11 = 32 * al.n) ∧
    (let bl : TAlloc := { al with drainers := some [1] }
     (g [] [bl]).runs (.twrite (hd 0) .zero (.imm 9) 0) = true ∧ (g [] [bl]).tarnAlloc 0 0 0 = some bl ∧
      bl.bandBad ((g [] [bl]).crew 0).num 0 1 = true) ∧
    ((lead []).tarnAlloc 0 0 0 = none ∧ (lead []).runs (.tread (hd 5) .zero 0) = true ∧ (u.part (u.partOf 0)).ut = true) ∧
    -- TSTAT: no allocation, no drainers, a drainer and one that is none
    (s.runs (.tstat (hd 6) 0) = true ∧ (lead []).runs (.tstat (hd 6) 0) = true ∧ 1 ≤ al.n ∧ al.n ≤ 48 ∧
      (g [] [{ al with drainers := some [1] }]).runs (.tstat (hd 6) 0) = true ∧ (s.crew 0).num ∉ [1] ∧
      ([1, 0] : List Nat).findIdx? (· == (s.crew 0).num) = some 1 ∧ (g [] [{ al with drainers := some [1, 0] }]).runs (.tstat (hd 6) 0) = true ∧
      (g [] [{ al with drainers := some [1, 0] }]).tarnAlloc 0 0 0 = some { al with drainers := some [1, 0] }) ∧ ((lead []).thr 0).tarn = none ∧ ((lane []).isLeader 0 = false ∧ (lane []).runs (.tstat (hd 6) 0) = true) := by decide +kernel

theorem witness_MatrixInstructions :
    let al : TAlloc := { wg := 0, base := 0, n := 1, i32 := false, drainers := none }
    let s := (holding ((lead [(4, 0x2000), (6, 0x10), (8, 0x8000), (10, 1 <<< 11)]).updCore 0 fun c => { c with allocs := [al] })
      [(0x2001, 0x10)]).updWg 0 fun w => { w with ncrew := 2 }
    let g := s.updCrew 0 fun c => { c with members := [0, 1] }
    let rng := fun (a n : Nat) => s.resolveRange s.curAs (some 0) (BitVec.ofNat 64 a) n .load
    let ps : List Place := match (rng 0x2000 512).2 with | .ok ps => ps | _ => []
    let s2 := (rng 0x2000 512).1.demandAll ps
    let isOk := fun (c : Chk (List Place)) => (match c with | .ok _ => true | _ => false) = true
    let m : MmaArgs := ⟨false, false, 0, 64, 0, 0⟩
    (s.cur = .thread 0 ∧ 0 < s.threads.length ∧ s.isLeader 0 = true ∧ s.crewOf 0 < s.crews.length) ∧
    (s.runs (.gang (hd 0) (.v 6) 2) = true ∧ gangOf (s.curRegs.rv (.v 6)) 2 (s.wg 0).ncrew (s.crew 0).num = some [0, 1]) ∧
    (gangOf (s.curRegs.rv (.v 4)) 2 (s.wg 0).ncrew (s.crew 0).num = none ∧ s.runs (.gang (hd 0) (.v 4) 2) = true) ∧
    (s.runs (.gang (hd 0) .zero 0) = true ∧ s.runs (.gang (hd 0) (.v 6) 0) = true ∧ (s.crew 0).members = [] ∧
      s.runs (.mma (hd 0) (.v 64) .zero 0 false) = true ∧ s.runs (.mmaw (hd 0) (.v 64) (.v 20) 0 false) = true) ∧
    s.runs (.mfmt (hd 0) .bfp8 .mad) = true ∧
    (s.runs (.dptab (hd 0) (.v 4) 3) = true ∧ isOk (rng 0x2000 512).2 ∧ s2.anyBad ps = false ∧
      freqOk (freqsOf 256 (s2.fetchAll (some 0) ps)) = true ∧ s2.slotBusy 0 3 = false) ∧
    (g.runs (.mwload (hd 0) (.v 4) .zero false .bfp8 0) = true ∧ (g.crew 0).members ≠ [] ∧ (g.crew 0).idx = 0 ∧
      isOk (rng 0x2000 (rawSymbols (fmtNo .bfp8))).2 ∧ (rng 0x2000 (rawSymbols (fmtNo .bfp8))).1.counter 0 2 < 4095) ∧
    (let cg := holding g [(0x2005, 0x20)]
     let ra := cg.resolve cg.curAs (some 0) 0x2000 16 .load
     let pl : Place := .mem ((List.range 16).map (0x2000 + ·)) false
     let s1 := ra.1.demandPlace pl
     cg.runs (.mwload (hd 0) (.v 4) .zero true .bfp8 0) = true ∧ (cg.curRegs.rx (.v 4)).toNat % 16 = 0 ∧ ra.2 = .ok pl ∧
      s1.placeBad pl = false ∧ (entryOfNat (leNat (s1.fetchPlace (some 0) pl))).bad true = false ∧ s1.counter 0 2 < 4095) ∧
    (s.runs (.tdrain (hd 0) (.v 4) (.v 10) 0 .f32 .none false) = true ∧ s.tarnAlloc 0 0 0 = some al ∧
      bits (s.curRegs.rx (.v 10)) 22 10 = 0 ∧ bits (s.curRegs.rx (.v 10)) 11 11 = 1 ∧ al.bandBad 0 0 1 = false ∧
      (s.engPages [(false, 0x2000, (drRow .f32 + drExp .f32) * 1, true)]).2 = .ok ()) ∧
    (g.runs (.mma (hd 0) (.v 64) .zero 0 false) = true ∧ mmaArgs (.mma (hd 0) (.v 64) .zero 0 false) g.curRegs = some m ∧
      g.mmaCheck 0 m = none ∧ g.counter 0 2 < 4095) ∧
    (g.runs (.mmaw (hd 0) (.v 64) (.v 20) 0 false) = true ∧ g.mmaCheck 0 ⟨true, false, 0, 64, 0, 0⟩ = none) := by decide +kernel

theorem witness_EngineInstructions :
    let s := fun n => lane [(4, 0x2000), (6, 0x3000), (8, n)]
    let m : EngMod := ⟨0, .core, false, false, false, false, false⟩
    let raw := fun n => (s n).curRegs.regsNat 4 4 + 2 ^ 128 * (s n).curRegs.regsNat 8 4
    let ok := fun (n : Word) (i : Instr) =>
      let p := engPar i (raw n)
      let pages := (s n).reforms.engPages (engRanges i p 0)
      (s n).runs i && !p.bad && !p.mcast && !(s n).streamClash 0 0 .core && (s n).reforms.engStash 0 (engRanges i p 0) == none &&
        engMisaligned i p == none && pages.2 == .ok () && (pages.1.engBo p.bo).2 == .ok () && (s n).engQueue ((s n).engHome 0 0 0 0) 0 < 64 &&
        (s n).counter 0 0 + (s n).reforms.engOps i (hd 0) (.v 4) (.v 8) ≤ 4095 && (s n).counter 0 1 + (s n).reforms.engOps i (hd 0) (.v 4) (.v 8) ≤ 4095 &&
        (s n).engQueue ((s n).engHome 0 0 1 0) 1 < 64 && 0 < (s n).threads.length && 0 < (s n).crews.length
    let cd : Instr := .cdec (hd 0) (.v 4) (.v 8) m
    let c := holding (s 0) [(0x3005, 0x20)]
    let at_ := fun (s : State) => s.reforms.resolve s.curAs (some 0) 0x3000 16 .load
    let cdOps := c.reforms.engOps cd (hd 0) (.v 4) (.v 8)
    let pl : Place := .mem ((List.range 16).map (0x3000 + ·)) false
    let word := fun (s : State) => leNat (((at_ s).1.demandPlace pl).fetchPlace (some 0) pl)
    ((s 4).cur = .thread 0 ∧ (s 4).crewOf 0 = 0) ∧ ok 4 (.copy (hd 0) (.v 4) (.v 8) m) = true ∧ ok 0x10001 (.copyt (hd 0) (.v 4) (.v 8) m) = true ∧
    ok 4 (.cbcopy (hd 0) (.v 4) (.v 8) m) = true ∧ ok 1 (.gather (hd 0) (.v 4) (.v 8) m) = true ∧ ok 1 (.scatter (hd 0) (.v 4) (.v 8) m) = true ∧
    ok 4 (.zfill (hd 0) (.v 4) (.v 8) m) = true ∧ (s 4).runs (.cpq (hd 6)) = true ∧
    ((s 0).runs cd = true ∧ (engPar cd (raw 0)).bad = false ∧ (at_ (s 0)).2 = .ok pl ∧ (entryOfNat (word (s 0))).bad false = true ∧
      c.runs cd = true ∧ (at_ c).2 = .ok pl ∧ (entryOfNat (word c)).bad false = false ∧ (entryOfNat (word c)).n = 32768 ∧
      (at_ c).1.engStash 0 (engRanges cd (engPar cd (raw 0)) 32768) = none ∧ engMisaligned cd (engPar cd (raw 0)) = none ∧
      (engPar cd (raw 0)).src.toNat % 16 = 0 ∧ (lane [(6, 0x3008)]).runs cd = true ∧ (engPar cd ((lane [(6, 0x3008)]).curRegs.regsNat 4 4)).src.toNat % 16 ≠ 0 ∧
      ((at_ c).1.engPages (engRanges cd (engPar cd (raw 0)) 32768)).2 = .ok () ∧ c.counter 0 0 + cdOps ≤ 4095 ∧
      c.engQueue (c.engHome 0 0 0 0) 0 < 64 ∧ ((at_ c).1.demandPlace pl).placeBad pl = false) ∧
    -- CPQ's counts within their fields; a full counter; a misaligned table base of CDEC
    ((s 4).counter 0 0 ≤ 4095 ∧ (s 4).counter 0 1 ≤ 4095 ∧ (s 4).engQueue 0 0 ≤ 64 ∧ (s 4).engQueue 0 1 ≤ 64) ∧
    ({ s 4 with issue := { (s 4).issue with full := [0] } } : State).runs (.copy (hd 0) (.v 4) (.v 8) m) = true ∧
    (let b := lane [(4, 0x2000), (6, 3), (8, 4), (10, 0x2010)]
     b.runs (.cbload (hd 0) (.v 4) (.v 6)) = true ∧ (b.curRegs.rv (.v 6)).toNat = 3 ∧ (b.curRegs.rx (.v 4)).toNat % 64 = 0 ∧
      (b.reforms.engPages [(false, 0x2000, 1024, false)]).2 = .ok () ∧
      b.counter 0 0 + b.reforms.cbloadOps (hd 0) (.v 4) (.v 6) ≤ 4095 ∧ b.engQueue 0 0 < 64 ∧ b.runs (.cbload (hd 0) (.v 4) (.v 8)) = true ∧
      (b.curRegs.rv (.v 8)).toNat = 4 ∧ b.runs (.cbload (hd 0) (.v 10) (.v 6)) = true ∧ (b.curRegs.rx (.v 10)).toNat % 64 ≠ 0) := by decide +kernel

theorem witness_BasinCommands :
    let s := lane [(32, 0x2000)]
    let m : BasMod := ⟨0, .core, false⟩
    s.cur = .thread 0 ∧ 0 < s.threads.length ∧ s.crewOf 0 < s.crews.length ∧ s.runs (.search (hd 0) (.v 32) m) = true ∧
    s.runs (.nbscan (hd 0) (.v 32) m) = true ∧ s.runs (.nbrowcopy (hd 0) (.v 32) m) = true ∧ s.runs (.nbrowzero (hd 0) (.v 32) m) = true ∧
    s.streamClash 0 0 .core = false ∧ s.counter 0 3 + s.reforms.basOps (hd 0) (.v 32) m ≤ 4095 ∧ (s.flushCore 0).postBlocked 0 = none ∧
    (∀ k ∈ [1, 2, 3, 4], s.dieQueue ((s.reforms.flushCore 0).targetStack s.curAs k (s.curRegs.regsNat 32 16) 0) < 256) ∧
    ((s.updWg 0 fun w => { w with stash := [(0, 1)] }).reforms.stashBlock 0 = .ok 1) := by decide +kernel

theorem witness_Versions :
    let s := lane [(4, 0x2000), (6, 11), (7, 12)]
    let f := holding s [(0x2000, 0xFE), (0x2001, 0xFF), (0x2002, 0xFF), (0x2003, 0xFF)]
    let p : Place := .mem ((List.range 8).map (0x2000 + ·)) false
    let a := fun (s : State) => s.reforms.check s.curAs (some 0) 0x2000 8 .atomic
    let s3 := fun (s : State) => (((a s).1.flushCore 0).settlePlace 0 p).demandPlace p
    s.cur = .thread 0 ∧ s.requests 0 < 2048 ∧ s.runs (.vpublish (hd 5) (.v 4)) = true ∧ f.runs (.vpublish (hd 5) (.v 4)) = true ∧
    s.remotePending (s.crewOf 0) s.racc.length = false ∧ (a s).2 = .ok p ∧ (a f).2 = .ok p ∧ (a s).1.placeBlocked p = none ∧
    ((a s).1.flushCore 0).postBlocked 0 = none ∧
    (s3 s).placeBad p = false ∧ (s3 f).placeBad p = false ∧ (dwOf ((s3 f).fetchPlace none p)).toNat = 0xFFFFFFFE ∧
    s.runs (.vsnap (hd 5) (.v 4)) = true ∧ (s.reforms.check s.curAs (some 0) 0x2000 8 .load).2 = .ok p ∧
    s.runs (.bquery (hd 8) (.v 6)) = true ∧ (s.curRegs.rv (.v 6)).toNat = 11 ∧ s.runs (.bquery (hd 8) (.v 7)) = true ∧
    (s.curRegs.rv (.v 7)).toNat = 12 := by decide +kernel

theorem witness_Distances (t : Nat → Nat) : ∃ sum : Nat → Nat, sum 0 = 0 ∧ ∀ e, sum (e + 1) = (f32.add .rne false (sum e) (t e)).pat :=
  ⟨fun n => Nat.rec 0 (fun e s => (f32.add .rne false s (t e)).pat) n, rfl, fun _ => rfl⟩

theorem witness_WalkerInstructions :
    let s := walk [(1, 3), (4, 0x2000), (6, 0x400000)]
    let x := s.wlk 0
    let c := s.cmds.getD 0 placedCmd
    let d := s.walkerPlace (c.nodeAddr 0) (8 + c.vbytes)
    let n := s.walkerPlace (c.nodeAddr 0 + BitVec.ofNat 64 c.cntOff) (4 + 4 * c.maxdeg)
    (s.cur = .walker 0 ∧ s.walkers[0]? = some x ∧ s.cmds[x.cmd]? = some c) ∧ s.curRegs.rv (.v 0) = 0 ∧ c.nodeStack 0 = x.stack ∧
    s.runs (.wdist (hd 5) (.v 0) 2) = true ∧ d.2 = .ok (.mem ((List.range (8 + c.vbytes)).map (0x2000 + ·)) false) ∧
    s.runs (.wheap (hd 0) (.v 1) (.v 0)) = true ∧ s.runs (.wnbrs (hd 10) (.v 0) (.imm 0) 4) = true ∧
    n.2 = .ok (.mem ((List.range (4 + 4 * c.maxdeg)).map (0x2000 + c.cntOff + ·)) false) ∧ s.runs (.wvisit (hd 2) (.v 0)) = true ∧
    s.walkerLoads = false ∧ s.runs (.whop (hd 0) (.v 0) (.v 1) true) = true ∧ s.runs (.whop (hd 0) (.v 4) (.v 1) false) = true ∧
    (s.nbPage c.as 0x2000 false).2 = some (0x2000, true) ∧ paIsPackage 0x2000 = true ∧ s.runs (.whop (hd 0) (.v 6) (.v 1) false) = true ∧
    (s.nbPage c.as 0x400000 false).2 = none ∧ s.runs (.wspawn (hd 2) (.v 1) 0) = true ∧
    (s.checkTarget s.curAs none (s.curRegs.target (.short 0))).2 = .ok () ∧ s.liveWalkers 0 < 1024 ∧
    1024 ≤ ({ s with walkers := List.replicate 1024 x } : State).liveWalkers 0 ∧ s.runs (.wdone (hd 0)) = true := by decide +kernel

theorem witness_CollectiveArrival :
    let a : Src := .v 1
    let all : List Instr := [.packbfp (hd 5) a true, .unpackbfp (hd 5) a false, .hadam (hd 5) a true, .shfl (hd 5) a .zero .up 2 false,
      .bcast (hd 5) a 3 false, .redux (hd 5) a .add .s32 .rne, .scan (hd 5) a .add .f32 .rz true, .matchv (hd 5) a false false, .vote (hd 5) 2 false .any]
    let s := fun st => mate st (lane [(1, 5)])
    let coll := fun i => TState.waiting (.coll i true false 3)
    (∀ i ∈ all, (lane [(1, 5)]).joins i = true ∧ (lead [(1, 5)]).joins i = true ∧ (lead [(1, 5)]).isLeader 0 = true ∧
      (s .ready).joins i = true ∧ (s (coll i)).joins i = true ∧
      ∀ u ∈ (s (coll i)).live 0, u ≠ 0 → ((s (coll i)).thr u).st = coll i) ∧
    (lane [(1, 5)]).cur = .thread 0 ∧ 0 ∈ (lane [(1, 5)]).live 0 ∧ (lane [(1, 5)]).isLeader 0 = false ∧
    (∃ u ∈ (s .ready).live 0, u ≠ 0 ∧ rdvOf ((s .ready).thr u) = .none) ∧
    collKey (.vote (hd 5) 2 false .any) ≠ collKey (.vote (hd 5) 2 false .all) ∧ (s (coll (.vote (hd 5) 2 false .all))).joins (.vote (hd 5) 2 false .any) = true := by
  decide +kernel

theorem witness_CollectiveResults : (31 : Nat) < 32 ∧ VoteMode.any ≠ .ballot := by decide

theorem witness_LaunchAppends :
    let q : LaunchQ := { base := 0x4000, en := true }
    let s := (lane [(4, 0x2000), (6, 0x4000), (8, 0x5000)]).updPart 0 fun p => { p with lqs := [(3, q)] }
    let full := holding s [(0x4010, 16)]
    let late := holding s [(0x4000, 1)]
    let rec' := fun (s : State) => s.reforms.check s.curAs (some 0) 0x2000 128 .load
    let at_ := fun (s : State) (a : DWord) => ((rec' s).1.demandPlace (.mem ((List.range 128).map (0x2000 + ·)) false)).resolve s.curAs (some 0) a 8 .store
    let ok := fun (s : State) => s.runs (.launch (hd 1) (.v 4) (.v 6)) = true ∧
      (rec' s).2 = .ok (.mem ((List.range 128).map (0x2000 + ·)) false) ∧ (at_ s 0x4000).2 = .ok (.mem ((List.range 8).map (0x4000 + ·)) false) ∧
      ((at_ s 0x4000).1.part 0).queueAt 0x4000 = some q
    s.cur = .thread 0 ∧ s.remotePending (s.crewOf 0) s.racc.length = false ∧ s.curAs.sup = true ∧ ok s ∧ ok full ∧ ok late ∧
    (s.runs (.launch (hd 1) (.v 4) (.v 8)) = true ∧ (at_ s 0x5000).2 = .ok (.mem ((List.range 8).map (0x5000 + ·)) false) ∧
      ((at_ s 0x5000).1.part 0).queueAt 0x5000 = none) ∧
    (let y := ((at_ full 0x4000).1.flushCore 0).demandRange 0x4000 24; ((at_ full 0x4000).1.flushCore 0).postBlocked 0 = none ∧ y.readQ 0x4010 - y.readQ 0x4008 = 2 ^ (q.lgn + 4)) ∧
    (let y := ((at_ s 0x4000).1.flushCore 0).demandRange 0x4000 24; y.readQ 0x4010 - y.readQ 0x4008 = 0 ∧ y.readQ 0x4000 = y.readQ 0x4010 ∧
      y.demandBlocked 0x4000 24 = none ∧ y.demandBlocked 0x4100 128 = none) ∧
    (let y := ((at_ late 0x4000).1.flushCore 0).demandRange 0x4000 24; y.readQ 0x4000 ≠ y.readQ 0x4010) := by decide +kernel

theorem witness_TrapReturn :
    let i : TrapInfo := { cause := .access }
    let q : Nat → TrapRec := fun k => { info := i, part := 0, kind := k, crew := 0, lane := 1, core := 0, ctx := 0, sup := true, tpc := 0, opc := 0, cyc := 0, thread := some 1, wg := some 0 }
    let s := fun k => (mate (.waiting (.trap 0 i 0)) (lane [(4, 0x200), (5, 0x400), (6, 0x1008)])).updCore 0 fun c =>
      { c with slots := [(1, { held := some (q k) })] }
    (s 0).cur = .thread 0 ∧ 0 < (s 0).threads.length ∧ (s 0).runs (.sret (hd 1) (.v 5) .zero .resume false) = true ∧
    (s 0).recOf (s 0).curAs.part ((s 0).curRegs.rv (.v 5)).toNat = none ∧
    (∀ act ∈ [SretAct.resume, .exit, .fail], (s 0).runs (.sret (hd 1) (.v 4) .zero act false) = true) ∧
    (s 0).runs (.sret (hd 1) (.v 4) (.v 6) .resume true) = true ∧
    (∀ k ∈ [0, 5], (s k).recOf 0 0x200 = some (0, 1, q k)) ∧ 1 < (s 0).threads.length ∧ ((s 0).thr 1).st = .waiting (.trap 0 i 0) ∧
    ((s 0).core 0).pend = [] := by decide +kernel

theorem witness_SystemRegisters :
    let s := lane [(4, 63), (5, 64)]
    s.runs (.sysrd (hd 6) .zero 0x000) = true ∧ s.reforms.sysIdx 0x000 .zero 0 false = some 0 ∧ s.runs (.sysrd (hd 6) (.v 4) 0x100) = true ∧
    s.reforms.sysIdx 0x100 (.v 4) 63 false = some 63 ∧ s.runs (.sysrd (hd 6) (.v 5) 0x100) = true ∧
    s.reforms.sysIdx 0x100 (.v 5) 64 false = none ∧ s.runs (.syswr (hd 0) (.v 4) (.v 8) 0x100) = true ∧
    s.reforms.sysIdx 0x100 (.v 4) 63 true = some 63 ∧ s.runs (.syswr (hd 0) (.v 5) (.v 8) 0x100) = true ∧
    s.reforms.sysIdx 0x100 (.v 5) 64 true = none ∧ s.runs (.syswr (hd 0) .zero (.v 8) 0x210) = true ∧ s.reforms.aperDrains 0 0 0 = false ∧
    s.regEntries 0 0x3FF = none ∧ s.regEntries 0 0x100 = some 64 ∧ (∃ r < 0x400, regReadOnly r = true) := by decide +kernel

theorem witness_ContextInstructions :
    let s := lane [(4, 65535), (5, 65536), (6, 0x2000), (8, 1), (9, 2), (10, 0x3000)]
    let v := s.updCtx 0 1 fun x => { x with phase := 3 }
    let size := v.ctxSize 0 1
    let room := holding v ((List.range 8).map fun i => (0x2008 + i, BitVec.ofNat 8 (size / 256 ^ i)))
    let img := holding s [(0x3000, 0xA5), (0x3001, 0xC7), (0x3002, 1), (0x3004, 2), (0x3018, 72), (0x3020, 64)]
    let isOk := fun {α : Type} (c : Chk α) => (match c with | .ok _ => true | _ => false) = true
    let hdr := fun (s : State) => s.reforms.resolve s.curAs (some 0) 0x2000 64 .load
    let first := img.reforms.resolveRange img.curAs (some 0) 0x3000 64 .load
    let h64 := (first.1.demandAll (match first.2 with | .ok ps => ps | _ => []), first.2)
    let all := h64.1.resolveRange img.curAs (some 0) 0x3000 72 .load
    let bytes := match all.2 with | .ok ps => (all.1.demandAll ps).fetchAll (some 0) ps | _ => []
    (s.cur = .thread 0 ∧ (s.curRegs.rv (.v 5)).toNat = 65536 ∧ (s.curRegs.rv (.v 4)).toNat = 65535) ∧
    (∀ a ∈ [Src.v 4, .v 5, .v 8, .zero], s.runs (.preempt (hd 0) a (.v 6)) = true ∧ s.runs (.ctxsave (hd 0) a (.v 6)) = true ∧
      s.runs (.ctxload (hd 0) a (.v 6)) = true ∧ s.runs (.ctxload (hd 0) a .zero) = true) ∧
    (s.reforms.ctxUsed 0 65535 = false ∧ s.reforms.ctxUsed 0 0 = true ∧ s.reforms.ctxPhase 0 0 ∈ [0, 2] ∧ s.clusters = [] ∧
      s.reforms.ctxState 0 0 ≠ 3) ∧
    ((s.updCtx 0 0 fun x => { x with phase := 5 }).reforms.ctxPhase 0 0 = 5 ∧ v.reforms.ctxPhase 0 1 = 3 ∧
      (s.updCtx 0 0 fun x => { x with phase := 5 }).reforms.ctxUsed 0 0 = true ∧ (s.updCtx 0 0 fun x => { x with phase := 5 }).runs (.preempt (hd 0) .zero (.v 6)) = true) ∧
    (v.runs (.ctxsave (hd 0) (.v 8) (.v 6)) = true ∧ v.runs (.ctxload (hd 0) (.v 8) .zero) = true ∧ v.reforms.ctxUsed 0 1 = true ∧
      v.reforms.ctxState 0 1 = 3 ∧ isOk (hdr v).2 ∧ 0 < size ∧ (hdr v).1.ctxSize 0 1 = size ∧ isOk (hdr room).2 ∧
      (hdr room).1.ctxSize 0 1 = size ∧ room.reforms.ctxState 0 1 = 3 ∧ room.runs (.ctxsave (hd 0) (.v 8) (.v 6)) = true ∧
      nbits (leNat ((hdr room).1.fetchPlace (some 0) (.mem ((List.range 64).map (0x2000 + ·)) false))) 64 64 = size ∧
      isOk ((hdr room).1.resolveRange room.curAs (some 0) 0x2000 size .store).2) ∧
    (img.runs (.ctxload (hd 0) (.v 9) (.v 10)) = true ∧ isOk h64.2 ∧ isOk all.2 ∧ bytes.length = 72 ∧ imgNat bytes 0 2 = 0xC7A5 ∧
      imgNat bytes 2 1 = 1 ∧ imgNat bytes 4 2 = 2 ∧ (imageBad (img.part 0) (bytes.set 3 1)).isSome = true ∧ imageBad (img.part 0) bytes = none ∧ img.ctxState 0 2 = 0) := by decide +kernel

theorem witness_KillAndHalt :
    let s := lane [(5, 0x80000000), (6, 1)]
    let saving := s.updCtx 0 1 fun x => { x with phase := 4 }
    s.cur = .thread 0 ∧ (∀ k ∈ [KillScope.wg, .launch, .ctx], s.runs (.wgkill (hd 0) (.v 6) k) = true ∧ s.runs (.wgkill (hd 0) (.v 4) k) = true) ∧
    bits (s.curRegs.rx (.v 4)) 57 7 ≠ 0 ∧ bits (s.curRegs.rx (.v 6)) 16 48 = 0 ∧ saving.reforms.ctxPhase 0 1 = 4 ∧ s.reforms.ctxPhase 0 1 = 0 ∧
    saving.runs (.wgkill (hd 0) (.v 6) .ctx) = true ∧ s.runs (.halt (hd 0) 9) = true ∧ s.clusters = [] ∧
    (s.updCtx 0 1 fun x => { x with phase := 5 }).ctxPhase 0 1 = 5 ∧ (s.updCtx 0 1 fun x => { x with phase := 5 }).runs (.halt (hd 0) 9) = true := by
  decide +kernel

theorem witness_TranslationInstructions :
    let s := lane [(4, 0x2000), (6, 1), (8, 5), (10, 0x10000)]
    let isOk := fun {α : Type} (c : Chk α) => (match c with | .ok _ => true | _ => false) = true
    let chk := fun (s : State) n =>
      let c := s.reforms.check s.curAs (some 0) 0x2000 n .load
      (c.1.demandPlace (.mem ((List.range n).map (0x2000 + ·)) false), c.2)
    let le := holding s [(0x2009, 0x10)]
    let held := holding le [(0x2002, 0x40)]
    let mig := (holding s [(0x200A, 2), (0x4000, 1), (0x4001, 0x50), (0x5000, 1), (0x5001, 0x60), (0x6000, 1), (0x6001, 0x70), (0x7000, 1),
      (0x7001, 0x80), (0x8000, 0xF), (0x8001, 8), (0x8002, 1)]).updPart 0 fun p => { p with roots := [(0, 0x4001)] }
    let m1 := (chk mig 32).1
    let tk := holding s [(0x200A, 12)]
    let begun := fun (l : Bool) => ({ s with tlbinvs := [{ live := l, gen := 1 }] } : State).updThr 0 fun y => { y with inv := some 0 }
    s.cur = .thread 0 ∧ (s.thr 0).inv = none ∧
    (∀ l ∈ [true, false], (begun l).runs (.tlbinv (hd 0) (.v 4) (.v 6) .all) = true ∧ ((begun l).thr 0).inv = some 0 ∧
      (((begun l).tlbinvs[0]?).any (·.live)) = l) ∧
    (∀ mode ∈ [TlbMode.all, .ctx, .page, .range], s.runs (.tlbinv (hd 0) (.v 4) (.v 6) mode) = true ∧
      s.runs (.tlbinv (hd 0) (.v 4) (.v 10) mode) = true) ∧
    (bits (s.curRegs.rx (.v 6)) 16 32 = 0 ∧ bits (s.curRegs.rx (.v 6)) 48 16 = 0 ∧ bits (s.curRegs.rx (.v 10)) 16 32 ≠ 0) ∧
    (s.reforms.ctxNamed 0 1 = false ∧ s.reforms.ctxNamed 0 0 = true ∧ s.reforms.invCount < 8 ∧ canonical (s.curRegs.rx (.v 4)) = true) ∧
    (s.runs (.lease (hd 1) (.v 4) false) = true ∧ isOk (chk s 32).2 ∧ le.runs (.lease (hd 1) (.v 4) false) = true ∧
      le.runs (.lease (hd 1) (.v 4) true) = true ∧ isOk (chk le 32).2 ∧ (chk le 32).1.ctxNamed 0 0 = true ∧
      ((chk le 32).1.grantLease 0 none 0 true 0 4096).2 = true ∧ held.runs (.lease (hd 1) (.v 4) false) = true ∧ isOk (chk held 32).2 ∧
      ((chk held 32).1.grantLease 0 none 0 true 0x400000 4096).2 = false) ∧
    (mig.runs (.pgmig (hd 1) (.v 4)) = true ∧ isOk (chk mig 32).2 ∧ m1.ctxNamed 0 0 = true ∧
      m1.rootOf ⟨0, 0, true, none⟩ 0 = 0x4001 ∧ m1.walk 0x4000 0 [4, 3, 2, 1, 0] = some (0x1080F, 0x8000, 0) ∧
      (0x1080F : DWord).getLsbD 11 = true ∧ (0x1080F : DWord).getLsbD 9 = false ∧ (0x1080F : DWord).getLsbD 10 = false ∧
      leafBits (0x1080F : DWord) 0 = 12 ∧ paIsPackage 0x20000 = true ∧ m1.meetsPark 0x20000 4096 = false ∧ m1.migs = [] ∧ m1.migAhead 0 = false ∧ m1.arrayErr = [] ∧
      m1.demandBlocked 0x20000 4096 = none) ∧
    (tk.runs (.tkpost (hd 0) (.v 4) false) = true ∧ isOk (chk tk 16).2 ∧ s.runs (.tkpost (hd 0) (.v 4) true) = true ∧ isOk (chk s 16).2) := by
  decide +kernel

theorem witness_ThreadEvents :
    let s := lane []
    let st := fun w => s.updThr 0 fun y => { y with st := w }
    let b : Bundle := { core := 0, quad := 1, threads := [0] }
    let bund : State := { s with bundles := [b], cyc := 64 }
    let w := st (.waiting (.waitge 0x2000 0 (some 0) .core 2))
    let p := st (.waiting (.pwait 0 0 false))
    let q : TrapRec := { info := { cause := .access }, part := 0, kind := 0, crew := 0, lane := 0, core := 0, ctx := 0, sup := true, tpc := 0, opc := 0, cyc := 0 }
    let rec' := (s.updCore 0 fun c => { c with slots := [(3, { held := some q })] }).updPart 0 fun x =>
      { x with tqEn := true, tqBase := 0x4000, tqPbo := 0x3000, tqCbo := 0x3008 }
    let v : SvcRec := { id := 1, cause := 0, write := false, pkg := 0, ctx := 0, va := 0, len := 8, cyc := 0 }
    let svc := s.updPart 0 fun x => { x with svc := [v], svqEn := true, svqBase := 0x4000, svqPbo := 0x3000, svqCbo := 0x3008 }
    let fly : LoadFly := { thread := 0, d := 5, vals := [7], poison := none, pc := 0 }
    let m : Migration := { part := 0, thread := none, d := 0, ctx := 0, va := 0, size := 4096, old := 0x10000, dst := 0x20000, v0 := [0], slot := 0x8000, lvl := 0, switching := true, since := 0 }
    (s.cyc.toNat % 8 = 0 ∧ (bund.bundles.filter fun y => y.core == 0 && y.quad == 1)[0]? = some b ∧ 32 ≤ bund.bundleWait b) ∧
    (s.crewRuns 0 = true ∧ (s.crew 0).timer = false ∧ s.live 0 ≠ [] ∧ ((s.updCrew 0 fun c => { c with vtcmp := 0 }).crew 0).vtcmp = 0) ∧
    (w.requests (w.coreOf 0) < 2048 ∧ w.resident 0 = true ∧ (w.waitRead (w.asOf 0) (w.coreOf 0) 0x2000).2 = .ok 0 ∧ (0 : DWord).toNat ≤ w.cyc.toNat) ∧
    ((st (.waiting (.sleep 0))).resident 0 = true ∧ p.resident 0 = true ∧ promiseDue p.cyc 0 = true) ∧
    (let t := s.updThr 0 fun y => { y with async := [⟨{ cause := .poison }, 0, 1⟩] }
     t.mayIssue 0 = true ∧ (t.thr 0).async = [⟨{ cause := .poison }, 0, 1⟩] ∧ 1 ≠ t.cyc.toNat ∧
      ({ t with cyc := 1 } : State).mayIssue 0 = true ∧ 1 = ({ t with cyc := 1 } : State).cyc.toNat) ∧
    (((rec'.core 0).slots.get 3).held = some q ∧ ((rec'.core 0).slots.get 3).written = false ∧ (rec'.part q.part).tqEn = true ∧
      rec'.recFirst 0 3 q = true ∧ (rec'.queueWrite 0 0x4000 0x3000 0x3008 6 64 (q.bytes (handleOf 0 3 0))).2 = true) ∧
    ((svc.part 0).svc = v :: [] ∧ (svc.queueWrite 0 0x4000 0x3000 0x3008 6 32 fun _ => v.bytes).2 = true) ∧
    (({ s with loads := [fly] } : State).loads[0]? = some fly ∧ fly.walker = none ∧ s.hasExited fly.thread = false ∧
      ({ fly with poison := some 8 } : LoadFly).poison = some 8) ∧
    ((st (.fetchSuspended (.migration 0))).resident 0 = true ∧ s.checkFree (.migration 0) = true) ∧
    (({ s with posted := [⟨0, 0x2000, [1], false, 0⟩] } : State).postedReady 0 = true) ∧
    (let i : TlbInv := { gen := 1 }
     (({ s with tlbinvs := [i], posted := [⟨0, 0x2000, [1], false, 1⟩] } : State).tlbinvs[0]? = some i ∧ i.live = true ∧
      ∀ y ∈ [(⟨0, 0x2000, [1], false, 1⟩ : PostedW)], (i.gen - y.gen).toNat = 0 ∨ 8 < (i.gen - y.gen).toNat)) ∧
    (m.live = true ∧ m.switching = true ∧ ((s.flushPage m.old m.size).giveUpPage m.old (m.size / 64)).2 = true ∧
      (let s1 := ((s.flushPage m.old m.size).giveUpPage m.old (m.size / 64)).1.demandRange m.slot 8
       s1.demandBlocked m.slot 8 = none ∧ s1.posted = []) ∧
      ({ m with switching := false } : Migration).switching = false) := by decide +kernel

theorem witness_ContextEvents :
    let s := lane []
    let ph := fun n => s.updCtx 0 1 fun x => { x with phase := n, area := 0x2000 }
    let img := fun (t : Option Nat) => (s.updCtx 0 1 fun x =>
      { x with phase := 5, image := leBytes 72 (72 * 2 ^ 192 + 64 * 2 ^ 256), thread := t }).updThr 0 fun y => { y with st := .fetchSuspended (.image 1) }
    ((ph 2).ctxPhase 0 1 = 2 ∧ (ph 2).ctxQuiet 0 1 = true) ∧
    ((ph 4).ctxPhase 0 1 = 4 ∧ (ph 4).ctxQuiet 0 1 = true ∧ ((ph 4).releaseWgs ((ph 4).imageWgs 0 1)).2 = true ∧
      (((ph 4).releaseWgs ((ph 4).imageWgs 0 1)).1.writeImage 0 1).toOption.isSome = true) ∧
    ((img none).ctxPhase 0 1 = 5 ∧ ((img none).restore 0 1 (((img none).part 0).ctxs.get 1).image).isSome = true ∧
      (match (img (some 0)).restore 0 1 (((img (some 0)).part 0).ctxs.get 1).image with
      | some t => ((((t.updCtx 0 1 fun y => { y with phase := 0, image := [], thread := none }).wake).advanceOr 0 1 0 0).thr 0).st == .fetchSuspended (.image 1)
      | none => false) = true) ∧
    (let full : State := { img none with launches := List.replicate 1025 { raw := 0, state := 1 } }
     full.ctxPhase 0 1 = 5 ∧ 1024 < full.launchCount + (imgLaunches ((full.part 0).ctxs.get 1).image).length) ∧
    (let halted := (img none).updCtx 0 1 fun x => { x with preempted := true }
     halted.ctxPhase 0 1 = 5 ∧ (halted.restore 0 1 ((halted.part 0).ctxs.get 1).image).isSome = true) := by
  refine ⟨?_, ?_, ?_, ?_, ?_⟩ <;> decide +kernel

/-- A launch beside the placed one: more bits of its record, its state. -/
def more (raw state : Nat) : Launch :=
  { raw := BitVec.ofNat 1024 (0x1008 + 256 * 2 ^ 192 + 512 * 2 ^ 202 + 640 * 2 ^ 212 + raw), state := state, placed := true }
def fresh : Wg := { launch := 1, order := 1 }
def one (l : Launch) : State := { lane [] with launches := (lane []).launches ++ [l] }
def two (l : Launch) (g : Wg) : State := { one l with wgs := (lane []).wgs ++ [g] }
def asleep (s : State) : State := s.updThr 0 fun y => { y with st := .waiting (.sleep 9) }
/-- A launch queue that holds one record. -/
def queued (raw : Nat) : State :=
  (holding (lane []) (((0x4000, (1 : Byte)) :: (List.range 128).map fun i => (0x4100 + i, BitVec.ofNat 8 ((more raw 0).raw.toNat / 256 ^ i))).filter
    fun e => e.2 ≠ 0)).updPart 0 fun p => { p with lqs := [(5, { base := 0x4000, en := true })] }
def listed (raw : Nat) : State × Option (List (Nat × Nat)) := ((queued raw).takeRecord 0 5).leaseList 1
def badOf (raw : Nat) : Option Nat := firstBad (((listed raw).1.launch 1).checks ((listed raw).1.part 0) false (listed raw).2)
def joint1 : Joint :=
  { cluster := 0, core := 0, wg := 0, crews := [0], seqs := [0], base := 0, va := [64], foot := 8, shape := 0, window := 0, ovr := false,
    afmt := .bf16, mop := .mad, tile := 0, prio := 0, posted := some 0 }
def large : Nat := 255 * 2 ^ 170
def waits : Nat := 0x3000 * 2 ^ 320 + 2 ^ 384

theorem witness_LaunchEvents :
    ((queued 0).recordReady 0 5 = true ∧ badOf 0 = none ∧ ((listed 0).1.enter 1 fun y => { y with state := 1 }).toOption.isSome = true ∧
      (queued (2 ^ 182)).recordReady 0 5 = true ∧ badOf (2 ^ 182) = some 1 ∧ ((listed (2 ^ 182)).1.endLaunch 1 4 1).toOption.isSome = true) ∧
    ((one (more 0 1)).mayLeave 1 = true ∧ ((one (more 0 1)).depsMet 1).2 = true ∧ ((one (more 0 1)).launch 1).nlease = 0 ∧
      (one (more (waits) 1)).mayLeave 1 = true ∧ ((one (more (waits) 1)).depsMet 1).2 = false ∧
      (((one (more 0 1)).depsMet 1).1.tryLeave 1).toOption.isSome = true) ∧
    ((one { more 0 2 with dist := 1 }).launchOver 1 = true ∧ ((one { more 0 2 with dist := 1 }).endLaunch 1 3 0).toOption.isSome = true) ∧
    ((one (more 0 2)).distributes 1 = true ∧ (one (more 0 2)).servedNow 1 = true ∧ (((one (more 0 2)).place 1).carveAsk 1).nextAdmit 1 = some 0) ∧
    ((two (more 0 2) fresh).nextActive 0 = some 1 ∧ ((two (more 0 2) fresh).wg 1).started = false) ∧
    (let p := (lane []).updWg 0 fun w => { w with stage := .parked }
     p.nextActive 0 = some 0 ∧ (p.wg 0).started = true) ∧
    (let p := asleep (two (more large 2) { fresh with ncrew := 4 })
     1 ∈ p.candidates 0 ∧ p.fits 1 = false ∧ (p.stashPlace 1).isSome = true ∧ leastBy p.blockedSince (p.eligibleAt 0) = some 0 ∧ p.parkedInPlace 0 = []) ∧
    (let p := asleep ((two (more (256 * 2 ^ 224) 2) fresh).updWg 0 fun w => { w with stage := .parked })
     1 ∈ p.candidates 0 ∧ p.fits 1 = false ∧
      (∃ u ∈ p.admittedAt 0, p.wantsPlace u = true ∧ p.stashPlace u = none) ∧ leastBy (fun v => (p.wg v).since) (p.parkedInPlace 0) = some 0 ∧ p.stashBusy 0 [(0, p.stashSize 0)] = false ∧
      (p.releaseLines 0 (p.wg 0).filled).2 = true) ∧
    (let p : State := { two (more large 2) { fresh with ncrew := 4 } with cyc := 0x100000 }
     p.forceFor 0 = some 1 ∧ p.eligibleAt 0 = [] ∧ p.victimFor 1 = some 0 ∧ p.regsHeld 0 = false ∧ (p.stashPlace 1).isSome = true ∧ p.parkedInPlace 0 = [] ∧
      (let h : State := { p with joints := [joint1] }; h.forceFor 0 = some 1 ∧ h.eligibleAt 0 = [] ∧ h.victimFor 1 = some 0 ∧ h.regsHeld 0 = true ∧ h.parkedInPlace 0 = []) ∧
      (let r := p.updLaunch 1 fun l => { l with raw := (0 : BitVec 1024) + BitVec.ofNat 1024 (large + 999 * 2 ^ 224) }
       r.forceFor 0 = some 1 ∧ r.eligibleAt 0 = [] ∧ r.victimFor 1 = none) ∧
      p.waitsPlace 1 = true ∧ 65536 ≤ p.cyc.toNat - p.waitsSince 1 ∧ p.fits 1 = false) ∧
    (let p : State := { (one (more (4 * 2 ^ 192) 2)).updCore 0 fun c => { c with carve := [(1, 0)] } with cyc := 0x100000 }
     let e := p.updWg 0 fun g => { g with stage := .killed }
     p.carveWaits 0 = [(1, 0)] ∧ p.admittedAt 0 ≠ [] ∧ 2 ^ 20 ≤ p.cyc.toNat - 0 ∧ e.carveWaits 0 = [(1, 0)] ∧
      e.admittedAt 0 = [] ∧ e.carveTaken 0 = false) ∧
    (let p := (lane []).updThr 0 fun y => { y with st := .exited }
     (∀ t ∈ p.wgThreads 0, p.hasExited t = true) ∧ p.exitWaits 0 = false ∧ p.ctxPhase (p.asOfWg 0).part (p.asOfWg 0).ctx ≠ 4 ∧
      (p.releaseLines 0 (p.wg 0).filled).2 = true ∧ (p.wg 0).started = true ∧ (p.wg 0).stage = .active) ∧
    (let p := two (more (1 * 2 ^ 128 + 2 ^ 159 + 1 * 2 ^ 160) 2) fresh
     (p.launch 1).steal = true ∧ p.distributes 1 = true ∧ p.idleCore 1 = true ∧ (p.launch 1).covers 1 = true ∧ (p.wg 1).core ≠ 1 ∧
      (p.launch 1).stealMates 0 1 = true ∧ p.admits (p.launch 1) 1 = true ∧ (∀ y ∈ p.unstartedAt 1 0, (p.wg y).wz ≤ (p.wg 1).wz) ∧
      ∀ k < 512, k ≠ 1 → (p.launch 1).covers k = true → (p.launch 1).stealMates k 1 = true →
        (p.unstartedAt 1 k).length ≤ (p.unstartedAt 1 0).length) := by
  refine ⟨?_, ?_, ?_, ?_, ?_, ?_, ?_, ?_, ?_, ?_, ?_, ?_⟩ <;> decide +kernel

/-- A COPY of 4 bytes between these addresses of memory, accepted and started. -/
def copying (dst src : Nat) (phase : OpPhase) : EngOp :=
  { engine := 0, core := 0, icore := 0, crew := 0, thread := 0, pc := 0, instr := .copy (hd 0) (.v 4) (.v 8) ⟨0, .core, false, false, false, false, false⟩,
    args := [dst + 2 ^ 64 * src + 2 ^ 128 * 4], cls := 0, seq := 0, stream := 0, scope := .core, bo := none, inc := 1, w := 0, phase := phase, prog := 0,
    order := 0 }
/-- A TDRAIN of one row of FP32. -/
def drains (va : Nat) : EngOp :=
  { copying 0 0 .queued with engine := 4, cls := 2, instr := .tdrain (hd 0) (.v 4) (.v 6) 0 .f32 .none false, args := [va, 2 ^ 11, 0, 0] }
/-- An MWLOAD of a raw BF16 tile, with its tile. -/
def loadsTile (va prog : Nat) : EngOp :=
  { copying 0 0 .queued with engine := 3, cls := 2, instr := .mwload (hd 0) (.v 4) .zero false .bf16 0, args := [va, 0, 0], prog := prog }
def tile0 : Tile := { cluster := 0, crew := 0, op := 0, bfmt := .bf16, coded := false, slot := true }
def joint0 (posted : Option Nat) : Joint :=
  { cluster := 0, core := 0, wg := 0, crews := [0], seqs := [0], base := 0, va := [0], foot := 8, rows := [[]], shape := 0, window := 0, ovr := false,
    afmt := .bf16, mop := .mad, tile := 0, prio := 0, posted := posted }
def ends {α : Type} (r : Run α) : Nat := match r with | .ok _ _ => 0 | .hold _ _ => 1 | .busy _ => 2 | .fail _ _ => 3

def fullTile : Tile := { tile0 with data := List.replicate 32768 0 }

/-- A plain tile whose slot holds all its bytes ends its fetch. -/
theorem witness_EngineEvents_tile (s : State) : s.tileFetch fullTile (loadsTile 0x2000 0) = (.ok s (), fullTile, 0) := by
  have f : tileFuel fullTile (loadsTile 0x2000 0) = 770 + 1 := by decide +kernel
  have b : Tile.bytes { fullTile with slot := true } (loadsTile 0x2000 0) = 32768 := by decide +kernel
  have l : ({ fullTile with slot := true } : Tile).data.length = 32768 := List.length_replicate
  have st : s.tileStep (loadsTile 0x2000 0) { fullTile with slot := true } 0 = none := by
    simp only [State.tileStep, b, l, Nat.lt_irrefl, if_false]
    rfl
  have e : (loadsTile 0x2000 0).prog = 0 := rfl
  rw [State.tileFetch, f, e, State.tileRun, st]
  rfl

theorem witness_EngineEvents :
    let s := lane []
    let op := fun (o : EngOp) => ({ s with ops := [o] } : State)
    let lease := fun (s : State) => s.updPart 0 fun p => { p with leases := [{ id := 0, launch := some 0, ctx := 0, base := 0x400000, len := 4096 }] }
    let run := fun (s : State) (o : EngOp) => ends (s.opRun o).1
    (let o := copying 0x2000 0x3000 .queued
     o.live = true ∧ isClass9 o.instr = true ∧ (op o).streamBusy ((op o).opWg o) o.stream o.order = false ∧ (op o).bookBusy o = false ∧
      (op o).ctxPhase ((op o).partOf o.thread) ((op o).ctxOf o.thread) = 0 ∧ (op o).requests o.icore < 2048 ∧ o.par.mcast = false) ∧
    (let o := copying 0x2000 0x3000 .started
     (op { o with phase := .failing { cause := .poison } }).ops[0]? = some { o with phase := .failing { cause := .poison } } ∧ o.live = true ∧
      (op o).opRuns o = true ∧ run (op o) o = 0 ∧ (let t := op { o with bo := some 0x2100 }; (t.boAdvance (some o.icore) (t.opAs o) 0x2100 1).2 = .ok ())) ∧
    (let o := copying 0x400000 0x3000 .started
     (lease (op o)).opRuns o = true ∧ run (lease (op o)) o = 3 ∧ (op o).opRuns o = true ∧ run (op o) o = 1) ∧
    (let o := copying 0x2000 0x3000 .started
     let m : Migration := { part := 0, thread := none, d := 0, ctx := 0, va := 0x2000, size := 4096, old := 0x2000, dst := 0x20000, v0 := [0], slot := 0x8000, lvl := 0, switching := true, since := 0 }
     run ({ op o with migs := [m] } : State) o = 2 ∧ ({ op o with migs := [m] } : State).opRuns o = true) ∧
    (let o := copying 0x2000 0x3000 .queued
     o.engine ≤ 1 ∧ (1 : Nat) ≠ o.core ∧ clusterId 1 = clusterId o.core ∧ (op o).engQueue 1 o.engine = 0 ∧ o.stream = 0) ∧
    ((∀ va ∈ [0x2000, 0x400000], (op (drains va)).drainReady (drains va) = true) ∧ isClass9 (drains 0).instr = false ∧ (op (drains 0x2000)).opRuns (drains 0x2000) = false ∧
      ends ((op (drains 0x2000)).drainRun (drains 0x2000) 1537 0).1 = 0 ∧ ends ((op (drains 0x400000)).drainRun (drains 0x400000) 1537 0).1 = 1 ∧
      (lease (op (drains 0x400000))).drainReady (drains 0x400000) = true ∧ ends ((lease (op (drains 0x400000))).drainRun (drains 0x400000) 1537 0).1 = 3) ∧
    (let f := fun (va prog : Nat) => (op (loadsTile va prog)).fetchReady tile0 (loadsTile va prog) = true ∧
       (op (loadsTile va prog)).ops[tile0.op]? = some (loadsTile va prog)
     let r := fun (s : State) (o : EngOp) => ends (s.tileFetch tile0 o).1
     f 0x2000 0 ∧ f 0x400000 0 ∧
      r (op (loadsTile 0x400000 0)) (loadsTile 0x400000 0) = 1 ∧ (lease (op (loadsTile 0x400000 0))).fetchReady tile0 (loadsTile 0x400000 0) = true ∧
      r (lease (op (loadsTile 0x400000 0))) (loadsTile 0x400000 0) = 3) ∧
    (let t : State := { s with tiles := [{ tile0 with latched := true }], joints := [joint0 (some 0)], cyc := 4096 }
     s.tableLen 0 < 16 ∧ (joint0 none).posted = none ∧ (joint0 none).live = true ∧ 4096 ≤ t.cyc.toNat - 0 ∧ (t.clusters.get 0).pass = none ∧
      t.grantee 0 = some (0, joint0 (some 0)) ∧ t.tiles[(joint0 none).tile]? = some { tile0 with latched := true } ∧ 0 < t.joints.length) ∧
    (let t : State := { s with tiles := [tile0], joints := [joint0 (some 0)], clusters := [(0, { pass := some 0, endAt := 0 })] }
     (t.clusters.get 0).pass = some 0 ∧ (t.clusters.get 0).endAt ≤ t.cyc.toNat ∧ t.joints[0]? = some (joint0 (some 0)) ∧ 0 < (joint0 none).rows.length) ∧
    (let al : TAlloc := { wg := 0, base := 3, n := 1, i32 := false, drainers := none, freeing := some 0 }
     let t := s.updCore 0 fun c => { c with allocs := [al], clearing := [5] }
     5 ∈ (t.core 0).clearing ∧ (t.core 0).allocs.find? (fun a => a.base == 3 && (a.freeing.isSome || a.killed)) = some al ∧ t.allocBusy 0 al = false ∧
      t.hasExited 0 = false ∧ (t.thr 0).st = .ready) ∧
    (s.updWg 0 fun w => { w with lines := [(7, some { dirty := false, pa := some 0x80 })] }).dirFind 0x80 = some (0, 7) := by
  refine ⟨?_, ?_, ?_, ?_, ?_, ?_, ?_, ?_, ?_, ?_, ?_⟩ <;> decide +kernel

/-- A queued command of this kind and block, whose record goes to 0x5000 and whose barrier object stands at 0x6000. -/
def cmd0 (kind block : Nat) : Cmd :=
  { placedCmd with kind := kind, block := block + 0x5000 * 2 ^ 256 + 0x6000 * 2 ^ 320 + 2 ^ 384, forwarded := kind != 1, started := false, slices := [] }

theorem witness_BasinEvents :
    let s := fun (c : Cmd) => ({ lane [] with cmds := [c] } : State)
    let pass := fun (c : State × Verdict) => (match c.2 with | .pass _ => true | _ => false) = true
    let odd := fun (k : Nat) => ({ cmd0 k 0 with block := 0x5001 * 2 ^ 256 } : Cmd)
    let rows := 0x20000 + 0x30000 * 2 ^ 64 + 2 ^ 400
    let scan := 0x20000 + 0x8000 * 2 ^ 128 + 8 * 2 ^ 192 + 2 ^ 400 + 2 ^ 416 + 0xFFFFFFFF * 2 ^ 432
    let run := fun (c : Cmd) => ({ c with started := true } : Cmd)
    let fin := fun (c : Cmd) => match (s c).cmdWork c with | .ok t d => ends (t.cmdFinish d) | _ => 9
    let w := walk []
    let x := w.wlk 0
    (∀ k ∈ [1, 2, 3, 4], (s (cmd0 k 0)).cmds[0]? = some (cmd0 k 0) ∧ (cmd0 k 0).live = true ∧ (cmd0 k 0).started = false ∧
      (s (cmd0 k 0)).streamBusy ((s (cmd0 k 0)).wgOfCrew 0) 0 0 = false ∧ (s (cmd0 k 0)).heapsUsed 0 < 16 ∧ (s (cmd0 k 0)).slicesUsed 0 < 128) ∧
    ((cmd0 1 0).forwarded = false ∧ ((s (odd 1)).dropCheck (odd 1)).2 = .trap (accTrap .misaligned .engWrite 0x5001) ∧
      ((s (cmd0 1 0)).dropCheck (cmd0 1 0)).2 = .ok () ∧ (((s (cmd0 1 0)).dropCheck (cmd0 1 0)).1.frontCheck 0 (cmd0 1 0)).isSome = true) ∧
    ((cmd0 2 0).forwarded = true ∧ ((s (odd 3)).dropCheck (odd 3)).2 = .trap (accTrap .misaligned .engWrite 0x5001) ∧
      (let c : Cmd := { cmd0 1 (2 ^ 416) with forwarded := true }
       pass ((s c).checkSnap c 0x8000)) ∧
      (((s (cmd0 1 0)).checkSnap (cmd0 1 0) 0x8000).2 = .reject 6) ∧
      ((s (cmd0 2 scan)).dropCheck (cmd0 2 scan)).2 = .ok () ∧ pass ((s (cmd0 2 scan)).checkScan (cmd0 2 scan)) ∧
      ((s (cmd0 2 1)).checkScan (cmd0 2 1)).2 = .reject 4 ∧ ((s (cmd0 3 rows)).dropCheck (cmd0 3 rows)).2 = .ok () ∧
      pass ((s (cmd0 3 rows)).checkRows (cmd0 3 rows)) ∧ ((s (cmd0 3 1)).checkRows (cmd0 3 1)).2 = .reject 4) ∧
    ((s (run (cmd0 1 0))).searchOver 0 (run (cmd0 1 0)) = true ∧ (s (run (cmd0 1 0))).cmdLate (run (cmd0 1 0)) = false ∧ fin (run (cmd0 1 0)) = 0 ∧
      fin { run (cmd0 1 0) with block := 0x400000 * 2 ^ 256 } = 3 ∧ fin (run (cmd0 3 rows)) = 0 ∧
      (let c : Cmd := { run (cmd0 2 scan) with deadline := some 0 }
       (s c).cmdLate c = true ∧ c.rejected = false ∧ c.status = 0)) ∧
    (let c : Cmd := { cmd0 1 0 with offers := [(3, 4)] }
     c.status = 0 ∧ c.offers = (3, 4) :: []) ∧
    (let t := fun (p : WPhase) => w.updWlk 0 fun y => { y with phase := p }
     (t .starting).walkers[0]? = some { x with phase := .starting } ∧ (t .starting).engineUsed 0 0 < 64 ∧ (t .starting).slicesUsed 0 < 128 ∧
      (t (.hopping 3)).walkers[0]? = some { x with phase := .hopping 3 } ∧ (t (.hopping 3)).engineUsed 3 0 < 64 ∧ (t (.hopping 3)).slicesUsed 3 < 128 ∧
      (1 : Nat) ≠ x.engine ∧ (t .starting).engineUsed 0 1 < 64) := by
  refine ⟨?_, ?_, ?_, ?_, ?_, ?_⟩ <;> decide +kernel

theorem witness_RemoteEvents :
    let a : RAccess := { core := 0, crew := 0, thread := 0, lane := 0, owner := 5, kind := .rld .b32 false, va := 0x2000, data := 0, expect := 0, d := 5, hold := true, stream := 0, scopeRel := false, seq := 0, tkid := none, head := false, replay := none, sent := true, sentAt := 0, pc := 0, order := 0, word := 0, contrib := none }
    let s : State := { lane [] with racc := [a, { a with owner := 0, replay := some 9 }] }
    let h := s.updThr 0 fun y => { y with st := .parkedRemote (.held 0) }
    let p : RPacket := { src := 5, part := 0, core := 1, lane := 2, acc := 3, kind := .rld .b32 false, va := 0x2000, data := 0, expect := 0, hold := true, replay := none }
    let own : RPacket := { p with src := 0 }
    let f : State := { s with fabric := [.request own] }
    let e := ({ s with tlb := s.tlb.map fun l => { l with entry := l.entry ||| 0x800 } } : State).updPart 0 fun x => { x with xcfg := 1, xperm := [(0, 32)] }
    let k : Contribution := { src := 5, part := 0, acc := 1, group := 2, n := 2, k := 1, flt := false, round := 0, root := 0, out := 0x3000, bo := 0x3100, inc := 1, list := [(1, 2)] }
    (s.heard 5 (.request p) = some s ∧ p.src ≠ s.links.pkg ∧ (f.heard 0 (.request own)).isSome = true ∧ firstOfLine own f.fabric = true ∧
      s.serves 0 5 = false ∧ (s.ownerHandle p).2 = true) ∧
    (e.serves 0 5 = true ∧ e.aperFind (e.ownerAs 0) 0x2000 = none ∧ e.shadows.find? (·.fits p) = none ∧
      (e.resolve (e.ownerAs 0) none 0x2000 (rkBytes p.kind) (rkAcc p.kind)).2 = .ok (.mem [0x2000, 0x2001, 0x2002, 0x2003] true) ∧
      (e.resolve (e.ownerAs 0) none 0x2000 (rkBytes p.kind) (rkAcc p.kind)).1.placeBlocked (.mem [0x2000, 0x2001, 0x2002, 0x2003] true) = none) ∧
    (s.racc[0]? = some a ∧ a.live = true ∧ a.sent = true ∧ s.heard 5 (.reply 0 (.done 7)) = some s ∧ s.heard 5 (.reply 0 .poison) = some s ∧
      (h.thr 0).st = .parkedRemote (.held 0) ∧ (s.thr 0).st ≠ .parkedRemote (.held 0) ∧ s.heard 5 (.ticket 0 9) = some s ∧
      s.lateUnder a 9 = false ∧ ({ s with noticed := [⟨5, 9, 0, 0x80⟩] } : State).lateUnder a 9 = true ∧
      s.heard 5 (.abort 0 0xFFFF) = some s ∧ ({ s with cyc := 2500000 } : State).fabricLost 0 a = true ∧ s.fabric = [] ∧ s.hasExited 0 = false) ∧
    (s.heard 5 (.notice 5 9) = some s ∧ s.heard 5 (.release 5 3) = some s ∧ k.root = s.links.pkg ∧ s.heard k.src (.contrib k) = some s) := by
  refine ⟨?_, ?_, ?_, ?_⟩ <;> decide +kernel

theorem witness_LinkEvents :
    let s := lane []
    let k := fun (f : StackSt → StackSt) => (s.updStk 3 f).stk 3
    let r := fun (f : ReinLink → ReinLink) => { s with links := { s.links with enabled := 0xFF, rein := s.links.rein.upd 2 f } }
    let f : Flit := { seq := 0, kg := false, tagOk := true, ack := 0, credits := 0, kind := 0, payload := [] }
    let held : SentFlit := { seq := 4, ack := 0, kg := false, payload := [], pkt := 0, ctr := 0, tag := 0, cipher := 0 }
    let d := (s.stk 3).dirs.get 1
    ((s.stk 3).trying = false ∧ (s.stk 3).down = false ∧ d.mayCome d.expect = true ∧ ({ d with sent := 9 } : BeatDir).mayCome 5 = true ∧ d.expect ≠ 5 ∧ (k fun x => { x with trying := true }).trying = true ∧
      (k fun x => { x with trying := true }).down = false ∧ (k fun x => { x with trying := true, badTrains := 2 }).badTrains = 2) ∧
    ((r id).reinUp 2 = true ∧ f.seq = ((r id).links.rein.get 2).rxSeq ∧ ((r id).links.rein.get 2).takesBank f.kg = true ∧ ((r id).links.rein.get 2).takesBank true = false ∧
      ((r id).links.rein.get 2).rxCtr.getD 0 0 ≤ f.ctr ∧ ¬((r fun x => { x with rxCtr := [1, 0] }).links.rein.get 2).rxCtr.getD 0 0 ≤ f.ctr ∧
      ((r id).links.rein.get 2).asked = false ∧ ((r fun x => { x with asked := true }).links.rein.get 2).asked = true ∧
      { f with seq := 3 }.seq ≠ ((r id).links.rein.get 2).rxSeq) ∧
    ((r fun x => { x with buffer := [held] }).reinUp 2 = true ∧
      ((r fun x => { x with buffer := [held] }).links.rein.get 2).buffer.findIdx? (fun x => x.seq == 4) = some 0) ∧
    (((r fun x => { x with trying := true }).links.rein.get 2).trying = true ∧ ((r fun x => { x with trying := true }).links.rein.get 2).down = false) ∧
    (((r id).links.rein.get 2).renewable = true ∧ ((r fun x => { x with txCtr := [2 ^ 48 - 1, 0] }).links.rein.get 2).txCtr.getD 0 0 = 2 ^ 48 - 1) ∧
    (let e : Egress := { dst := 5, msg := .release 0 0, pkt := 7, link := some 2, since := some 0 }
     ({ s with cyc := 125000, links := { s.links with egress := [e] } } : State).links.egress.find? (fun x => x.pkt == 7 && x.stalled 125000) = some e) := by
  refine ⟨?_, ?_, ?_, ?_, ?_, ?_⟩ <;> decide +kernel

theorem witness_RegisterEvents :
    let s := lane []
    let q : TrapRec := { info := { cause := .access }, part := 0, kind := 0, crew := 0, lane := 0, core := 0, ctx := 0, sup := true, tpc := 0, opc := 0, cyc := 0, thread := some 0, wg := some 0 }
    let w := (s.updCore 0 fun c => { c with slots := [(0, { held := some q })] }).updPart 0 fun x => { x with twinValid := true }
    w.winThread 0 = some 0 ∧ s.winThread 0 = none ∧ s.regIdx 0 0x100 63 = true ∧ regReadOnly 0x100 = false ∧ s.regIdx 0 0x100 64 = false ∧
    (∃ r < 0x400, regReadOnly r = true) ∧ s.links.phcNs.toNat < 1000000000 ∧ (s.links.streams.get 3).part = 0 ∧ (s.links.streams.get 3).part ≠ 1 ∧
    (s.links.streams.get 3).en = false ∧ (({ en := true } : SpStream).en = true) ∧ (1 : DWord).getLsbD 0 = true := by decide +kernel

theorem witness_PortEvents :
    let s0 := lane []
    let rule : Links := { s0.links with hdmLen := 1, ctls := [(0, BitVec.ofNat 64 (2 ^ 24 + 3 * 2 ^ 20))], msixPend := [4] }
    let s : State := { s0 with links := rule }
    let on := fun (f : SpStream → SpStream) => ({ s with links := { rule with streams := Store.upd rule.streams 3 fun x => f { x with base := 0x8000, pbo := 0x3000, cbo := 0x3008 } } } : State)
    let bs := List.replicate 64 (0 : Byte)
    let st := (on fun x => { x with en := true }).links.streams.get 3
    let t := on fun x => { x with en := true }
    let k := fun (f : StackSt → StackSt) => s.updStk 2 f
    let slot := fun (x : StackSt) => { x with slotTbl := [(64 * 5, 0x10)] }
    s.links.hostUp = true ∧
    (0 + 64 ≤ s.links.hdmLen.toNat * 2 ^ 30 ∧ paIsPackage (s.links.hdmBase.toNat * 2 ^ 30) = true ∧ paIsPackage (s.links.hdmBase.toNat * 2 ^ 30 + 63) = true ∧
      s.demandBlocked (s.links.hdmBase.toNat * 2 ^ 30) 64 = none ∧ s.portWait.any (PortWait.behind (.window 0 bs false)) = false ∧
      [PortWait.window 0 bs false].any (PortWait.behind (.window 0 bs false)) = true ∧ ¬(2 ^ 30 + 64 ≤ s.links.hdmLen.toNat * 2 ^ 30)) ∧
    4 ∈ s.links.msixPend ∧
    ((List.replicate 63 (0 : Byte)).length < 64 ∧ 9216 < (List.replicate 9217 (0 : Byte)).length ∧ bs.length = 64 ∧ s.frameStream 1 bs = none ∧
      s.frameStream 0 bs = some 3) ∧
    (((on id).links.streams.get 3).en = false ∧ st.en = true ∧ st.err = false ∧ t.frameStream 0 bs = some 3 ∧ t.readObj st.cbo ≤ t.readObj st.pbo ∧
      t.readObj st.pbo % 2 ^ (st.lg - 6) + (32 + 64 + 63) / 64 ≤ 2 ^ (st.lg - 6) ∧ t.frameBlocked 3 64 = none ∧ t.portWait = [] ∧
      ({ t with free := t.free + 1 } : State).frameBlocked 3 64 = none ∧
      (let seen := (({ t with free := t.free + 1 } : State).demandRange st.pbo.toNat 8).demandRange st.cbo.toNat 8
       seen.readObj st.cbo = 0 ∧ seen.readObj st.pbo = 0)) ∧
    (s.arrayErr.get 0 = 0 ∧ s.patrol = 0 ∧ s.patrolDue = true ∧ ({ s with patrol := 12 * 2 ^ 30 - 1, cyc := 2 ^ 62 } : State).patrolDue = true ∧
      (s.links.msixOn && !s.links.msixMask) = false) ∧
    ((k slot).slotOwner ((k slot).stk 2) 5 0 = some 0 ∧ 0 ∈ [Requester.thread 0].filterMap (k slot).chargedTo ∧ ((k slot).stk 2).slotNo.get 5 < 64 ∧
      ((k fun x => { slot x with noDonate := [(5, 1)] }).stk 2).noDonate.get 5 = 1 ∧
      ((k fun x => { x with pending := [(5, some (List.replicate 64 0))] }).stk 2).pending.get 5 = some (List.replicate 64 0)) := by
  refine ⟨?_, ?_, ?_, ?_, ?_, ?_, ?_⟩ <;> decide +kernel

theorem witness_HousekeepingEvents :
    let s := State.reset
    let own := fun (o : Nat) (ss : List Nat) => ({ s with hk := { s.hk with owner := o, sessions := ss } } : State).hk
    ((ReqHdr.bad { tag := 0, secured := true, bad := some 9 } = some 9 ∧ ReqHdr.bad { tag := 0, secured := true } = none) ∧
      (∀ k < 12, (s.stk k).down = false) ∧ ((s.updStk 2 fun x => { x with down := true }).stk 2).down = true ∧
      (∀ j < 2, ((s.updStk 2 fun x => { x with down := true }).stk j).down = false) ∧ (s.part 4).halted = false) ∧
    (1 < 3 ∧ s.hk.failStep = 0 ∧ 1 ∉ s.hk.sessions ∧ 1 ∈ (own 2 [1]).sessions ∧ (own 2 [1]).owner ≠ 1 ∧ (own 2 [1]).owner ≠ 3 ∧
      (own 2 [1]).succ ≠ some 1 ∧ (own 3 [1]).owner = 3 ∧ (own 1 [1]).owner = 1) ∧
    (s.holdsCtx 4 = false ∧ (∀ q < 16, q ≠ 4 → (s.part q).enabled = true → (s.part q).overlaps 8 4 3 2 = false) ∧ meshTile 8 4 3 2 = true) ∧
    (∀ b ∈ List.replicate 64 (0x1F : Byte), bits b 5 3 = 0) ∧ ((s.links.streams.get 31).en = false ∧ 512 + 256 ≤ 768) ∧
    ((0x1000 : BitVec 52).toNat % 8 = 0 ∧ paIsPackage 0x1000 = true) ∧ (s.hk.owner = 3 ∧ (1 : DWord) ≠ s.hk.mbReq) ∧
    (({ s.hk with succ := some 2 } : Hk).succ = some 2 ∧ 0 + 12500000000 ≤ (12500000000 : DWord).toNat) ∧
    (let l := ({ s with links := s.links.fail 4 } : State).links.rein.get 2
     l.session = false ∧ dwOf (bytesOf 8 (7 : DWord)) ≠ s.hk.mbReq ∧ s.links.hostUp = true ∧ (own 0 [0]).owner ≠ 3 ∧ (own 3 [0]).owner = 3) ∧
    (({ (own 2 [1]) with claimAt := some 0 } : Hk).claimAt = some s.cyc.toNat ∧ 1 < (own 2 [1]).owner ∧ (own 2 [1]).succ = none) ∧
    ({ s.hk with armed := true } : Hk).armed = true ∧ (({ s.hk with testing := some 0 } : Hk).testing = some 0 ∧ s.cyc.toNat < 0 + 1250000000) := by
  refine ⟨?_, ?_, ?_, ?_, ?_, ?_, ?_, ?_, ?_, ?_, ?_, ?_⟩ <;> decide +kernel

/-- The queues' `holdsCtx` premise of SET_SLOTS and SET_REIN after reset. -/
theorem witness_HousekeepingEvents_idle : ∀ q, State.reset.holdsCtx q = false := fun _ => rfl

theorem witness_PairWords :
    let s := lane [(1, 5), (2, 7), (3, 64), (6, 4096)]
    let a : Half := ⟨.iadd, 1, .v 2, false⟩
    let b : Half := ⟨.sts, 2, .v 3, false⟩
    let l : Half := ⟨.lds, 4, .v 3, false⟩
    let out : Half := ⟨.lds, 4, .v 6, false⟩
    let start := s.reforms
    s.cur = .thread 0 ∧ s.agentIn = true ∧ s.hazard (halfIss a) = false ∧ s.hazard (halfIss b) = false ∧ s.holds (halfIss a) = false ∧
    s.holds (halfIss b) = false ∧ s.pairChecks a b = none ∧ pairLatchBad s.curRegs a b = none ∧
    s.pairChecks l a = none ∧ (start.stashCheck (start.wgOf start.t) 64 4 true).2 = .ok () ∧ (start.stashCheck (start.wgOf start.t) 64 4 false).2 = .ok () ∧
    (start.stashCheck (start.wgOf start.t) 64 4 false).1.stashBad 0 64 4 = false ∧ start.agentIn = true ∧ start.curRegs = s.curRegs ∧
    s.pairChecks out a = none ∧ s.pairChecks a out = none ∧
    (start.stashCheck (start.wgOf start.t) 4096 4 false).2 = .trap { cause := .access, detail := 6, addr := 4096 } ∧
    ((halfIss a).ops ++ (halfIss ⟨.iadd, 5, .v 2, false⟩).ops).all (Opd.ok s.curCnt) = true := by decide +kernel

theorem witness_WalkerPairs :
    let s := walk [(1, 5)]
    let a : Half := ⟨.iadd, 1, .v 2, false⟩
    let f : Half := ⟨.fadd, 4, .v 3, false⟩
    s.cur = .walker 0 ∧ s.hazard (halfIss a) = false ∧ s.hazard (halfIss f) = false ∧ f.cop ∈ [Cop.fadd, .fsub, .fmul, .fmin, .fmax, .hadd2, .hmul2, .lds, .sts] ∧
    (s.wlk 0).cmd = 0 ∧ (s.cmds[0]?).isSome = true := by decide +kernel

theorem witness_StepRunsDecoded :
    let s : State := { State.reset.placeWord 0x000000A001C03000 0 with issue := {} }
    let s0 : State := { State.reset.placeWord 0x000000A001C03000 0 with cur := .thread 0, issue := {} }
    let line := fun (s : State) => (s.stamp.entryCheck.1.fetchLine s.curAs s.curView s.curRegs.pc)
    let isOk := fun {α : Type} (c : Chk α) => (match c with | .ok _ => true | _ => false) = true
    let l := match (line s0).2 with | .ok l => l | _ => []
    s.hk.failStep = 0 ∧ s.issue.agents = [] ∧ s.agenda = [] ∧ s.turn = [] ∧ (State.reset.placeWord 0 0).issue.agents = [.thread 0] ∧
    s0.curMayRun = true ∧ s0.curAsync = false ∧ s0.inImage = true ∧ s0.stamp.entryCheck.2 = .ok () ∧ isOk (line s0).2 ∧ lineBad l = false ∧
    lineStart l (pcWord s0.curRegs.pc) = true ∧ lineKind l = 0 ∧ takesExt (lineWord l (pcWord s0.curRegs.pc)) = false ∧
    decodeWord (lineWord l (pcWord s0.curRegs.pc)) 0 = .ok (.iadd (hd 5) (.v 1) (.imm 3)) ∧
    decodeWord 0x0A60008004C64024 0 = .format false ∧ lineStart (placedLine false 0x028000A808808000 5) 2 = false ∧
    (s0.updThr 0 fun y => { y with st := .sleeping }).curMayRun = false ∧
    (s0.updThr 0 fun y => { y with async := [⟨{ cause := .poison }, 0, 1⟩] }).curAsync = true ∧
    (Store.wf s.cores = true ∧ (s0.resolve s0.curAs (some 0) 0x1000 128 .fetch).2 = .ok (.mem ((List.range 128).map (0x1000 + ·)) false) ∧
      ((s0.resolve s0.curAs (some 0) 0x1000 128 .fetch).1.core 0).icache = []) := by decide +kernel

theorem witness_RoundTrip :
    (Instr.iadd (hd 5) (.v 1) (.imm 3)).wf = true ∧ encode (.iadd (hd 5) (.v 1) (.imm 3)) = some (0x000000A001C03000, none) ∧
    ((lane []).issOf (.iadd (hd 5) (.v 1) (.imm 3))).isSome = true := by decide +kernel

theorem witness_StepKeepsMemoryCanonical :
    let s := State.reset.placeWord 0x000000A001C03000 0
    Memory.wf s.mem = true ∧ (match step s with | .next _ => true | _ => false) = true := by decide +kernel

theorem witness_AccessChecks :
    let s := lane []
    let a : As := ⟨0, 0, true, some 0⟩
    let u : As := ⟨0, 0, false, some 0⟩
    let f := fun (e : DWord) => ({ s with tlb := [{ placedLeaf with entry := e }] } : State)
    (0x2001 : DWord).toNat % 4 ≠ 0 ∧ (0x0200000000000000 : DWord).getLsbD 57 ≠ (0x0200000000000000 : DWord).getLsbD 56 ∧
    ((0xFF00000000000000 : DWord).getLsbD 56 = true ∧ (0xFF00000000000000 : DWord).toNat / 2 ^ 57 = 127 ∧ u.sup = false) ∧
    (s.aperFind a 0x400000 = none ∧ s.switching a 0x400000 = none ∧ (s.leafOf a 0x400000).2 = none) ∧
    ((f 0).tlbFind a 0x2000).map (·.entry) = some 0 ∧ ((f 0x7FF).tlbFind a 0x2000).map (·.entry) = some 0x7FF ∧
    ((f 0x3FF).tlbFind a 0x2000).map (·.entry) = some 0x3FF ∧
    ((f 0x80000000003FF).tlbFind a 0x2000).map (·.entry) = some 0x80000000003FF := by
  refine ⟨?_, ?_, ?_, ?_, ?_, ?_, ?_, ?_⟩ <;> decide +kernel

/-- The leaves' slots lie in no line that cannot be written back. -/
theorem witness_AccessChecks_marks :
    let a : As := ⟨0, 0, true, some 0⟩
    let f := fun (e : DWord) => ({ lane [] with tlb := [{ placedLeaf with entry := e }] } : State)
    (lane []).markBlocked a 0x400000 4 .load = none ∧ (f 0).markBlocked a 0x2000 8 .wait = none ∧ (f 0x7FF).markBlocked a 0x2000 8 .wait = none ∧
    (f 0x3FF).markBlocked a 0x2000 8 .store = none ∧ (f 0x80000000003FF).markBlocked a 0x2000 8 .load = none := by
  refine ⟨?_, ?_, ?_, ?_, ?_⟩ <;> decide +kernel

theorem witness_RegisterFrame :
    let s := lane [(1, 5)]
    let i : Instr := .fadd (hd 5) (.v 1) (.v 2) .rne
    s.cur = .thread 0 ∧ s.issOf i = some ⟨aFloat, hd 5, [.v (.v 1), .v (.v 2)], .v 5⟩ ∧ (match exec i s with | .next _ => true | _ => false) = true := by
  decide +kernel

/-- LAUNCH: a misaligned base, a supervisor's queue at user level, and an append whose turn has come. -/
theorem witness_LaunchAppends_more :
    let q : LaunchQ := { base := 0x4000, en := true }
    let s := (lane [(4, 0x2000), (6, 0x4000), (10, 0x4008)]).updPart 0 fun p => { p with lqs := [(3, q)] }
    let u := user (s.updPart 0 fun p => { p with lqs := [(3, { q with sup := true })] })
    let rec' := fun (s : State) => s.reforms.check s.curAs (some 0) 0x2000 128 .load
    let at_ := fun (s : State) => ((rec' s).1.demandPlace (.mem ((List.range 128).map (0x2000 + ·)) false)).resolve s.curAs (some 0) 0x4000 8 .store
    let now := ((at_ s).1.flushCore 0).demandRange 0x4000 24
    let put := (now.perform 0x4010 (leBytes 8 1) true).perform 0x4100 (now.fetchPlace (some 0) (.mem ((List.range 128).map (0x2000 + ·)) false)) true
    (s.runs (.launch (hd 1) (.v 4) (.v 10)) = true ∧ (s.curRegs.rx (.v 10)).toNat % 4096 ≠ 0) ∧
    (u.runs (.launch (hd 1) (.v 4) (.v 6)) = true ∧ u.curAs.sup = false ∧ u.remotePending (u.crewOf 0) u.racc.length = false ∧
      (rec' u).2 = .ok (.mem ((List.range 128).map (0x2000 + ·)) false) ∧ (at_ u).2 = .ok (.mem ((List.range 8).map (0x4000 + ·)) false) ∧
      ((at_ u).1.part 0).queueAt 0x4000 = some { q with sup := true }) ∧
    (((at_ s).1.flushCore 0).postBlocked 0 = none ∧ now.demandBlocked 0x4000 24 = none ∧ now.demandBlocked 0x4100 128 = none ∧ put.readQ 0x4000 = now.readQ 0x4010) := by
  refine ⟨?_, ?_, ?_⟩ <;> decide +kernel

/-- A second crew of the placed workgroup, whose threads are ready. -/
def crewed (s : State) : State :=
  { s with
    threads := s.threads ++ (List.range 32).map fun n => { crew := 1, num := n, st := if n = 1 then .waiting (.trap 0 { cause := .access } 0) else .ready }
    crews := s.crews ++ [{ num := 1, base := 32, timer := true }]
    wgs := [{ (s.wg 0) with ncrew := 2 }] }

/-- SRET by kind of record: a timer's, an ASSERT's, a held operation's and a write-back's. -/
theorem witness_TrapReturn_kinds :
    let i : TrapInfo := { cause := .access }
    let q := fun (k u : Nat) => ({ info := i, part := 0, kind := k, crew := 0, lane := 1, core := 0, ctx := 0, sup := true, tpc := 0, opc := 0, cyc := 0, thread := some u } : TrapRec)
    let s := fun (q : TrapRec) => (crewed (lane [(4, 0x200)])).updCore 0 fun c => { c with slots := [(1, { held := some q })] }
    let o := copying 0x8000 0x9000 (.held i)
    let op : State := { s { q 5 0 with thread := none, op := some 0 } with ops := [o] }
    let wb := s { q 5 0 with thread := none, wg := some 0 }
    ((s (q 2 33)).recOf 0 0x200 = some (0, 1, q 2 33) ∧ (s (q 2 33)).crewOf 33 < (s (q 2 33)).crews.length ∧ (s (q 2 33)).crewOf 33 ≠ (s (q 2 33)).crewOf 0 ∧
      (34 : Nat) ∈ (s (q 2 33)).live 1 ∧ (s (q 2 33)).runs (.sret (hd 1) (.v 4) .zero .exit false) = true) ∧
    ((s (q 3 33)).recOf 0 0x200 = some (0, 1, q 3 33) ∧ ((s (q 3 33)).thr 33).st = .waiting (.trap 0 i 0) ∧ (0 : Nat) ∈ (s (q 3 33)).ctxLaunches 0 0 ∧
      (s (q 3 33)).runs (.sret (hd 1) (.v 4) .zero .resume false) = true) ∧
    (op.recOf 0 0x200 = some (0, 1, { q 5 0 with thread := none, op := some 0 }) ∧ op.ops[0]? = some o ∧ o.live = true ∧ o.phase = .held i ∧
      op.runs (.sret (hd 1) (.v 4) .zero .fail false) = true ∧ o.thread < op.threads.length ∧ op.hasExited o.thread = false ∧ o.stream = 0 ∧
      ({ op.updThr 0 fun x => { x with st := .exited } with cur := .thread 33 } : State).hasExited o.thread = true) ∧
    (wb.recOf 0 0x200 = some (0, 1, { q 5 0 with thread := none, wg := some 0 }) ∧ 0 < wb.wgs.length ∧ (wb.wg 0).launch < wb.launches.length ∧
      wb.runs (.sret (hd 1) (.v 4) .zero .fail false) = true) ∧
    (∀ k ∈ [4, 6], (s (q k 33)).recOf 0 0x200 = some (0, 1, q k 33) ∧ actOk k .resume = true) := by
  refine ⟨?_, ?_, ?_, ?_, ?_⟩ <;> decide +kernel

/-- SYSRD of the clock and of a window register, and the disable of an aperture in use. -/
theorem witness_SystemRegisters_more :
    let q : TrapRec := { info := { cause := .access }, part := 0, kind := 0, crew := 0, lane := 1, core := 0, ctx := 0, sup := true, tpc := 0, opc := 0, cyc := 0, thread := some 1, wg := some 0 }
    let s := (lane [(4, 3)]).updPart 0 fun p => { p with apers := [(3, { en := true, len := 0x1000 })], twin := 0x200, twinValid := true }
    let d : State := { s with posted := [⟨0, 0x2000, [1], false, 0⟩] }
    let w := s.updCore 0 fun c => { c with slots := [(1, { held := some q })] }
    (∀ n ∈ [0x384, 0x385, 0x005], s.runs (.sysrd (hd 6) .zero (BitVec.ofNat 10 n)) = true ∧ s.reforms.sysIdx n .zero 0 false = some 0) ∧
    ((s.winThread 0).isNone = true ∧ (w.winThread 0).isNone = false) ∧
    (d.runs (.syswr (hd 0) (.v 4) .zero 0x210) = true ∧ d.reforms.sysIdx 0x210 (.v 4) 3 true = some 3 ∧ d.reforms.aperDrains 0 3 0 = true ∧
      d.invCount < 8 ∧ s.winThread 0 ≠ some s.t) := by
  refine ⟨?_, ?_, ?_⟩ <;> decide +kernel

/-- PREEMPT of a stopped context, whose object advances at once, waits or fails; CTXSAVE of a misaligned area. -/
theorem witness_ContextInstructions_more :
    let s := (lane [(6, 0x2000), (8, 1), (10, 0x2004), (12, 0x400000)]).updCtx 0 1 fun x => { x with phase := 3 }
    let m : Migration := { part := 0, thread := none, d := 0, ctx := 0, va := 0, size := 2 ^ 21, old := 0, dst := 0x200000, v0 := [0], slot := 0x8000, lvl := 1, switching := true, since := 0 }
    let w : State := { s with migs := [m] }
    let adv := fun (s : State) (va : DWord) => ((s.reforms.updCtx 0 1 fun x => { x with preempted := true }).boAdvance none ⟨0, 0, true, none⟩ va 1).2
    (s.reforms.ctxUsed 0 1 = true ∧ s.reforms.ctxPhase 0 1 = 3 ∧ s.reforms.ctxState 0 1 = 3 ∧ (s.curRegs.rv (.v 8)).toNat = 1) ∧
    (s.runs (.preempt (hd 0) (.v 8) (.v 6)) = true ∧ (match adv s 0x2000 with | .ok _ => true | _ => false) = true ∧
      w.runs (.preempt (hd 0) (.v 8) (.v 6)) = true ∧ adv w 0x2000 = .wait (.migration 0) ∧
      s.runs (.preempt (hd 0) (.v 8) (.v 12)) = true ∧ (match adv s 0x400000 with | .trap _ => true | _ => false) = true) ∧
    (s.runs (.ctxsave (hd 0) (.v 8) (.v 10)) = true ∧ (s.curRegs.rx (.v 10)).toNat % 4096 ≠ 0) := by
  refine ⟨?_, ?_, ?_⟩ <;> decide +kernel

/-- WGKILL of the placed workgroup by its names, and HALT of a partition whose context runs. -/
theorem witness_KillAndHalt_named :
    let s := crewed (lane [])
    let l := s.launch 0
    bits (s.curRegs.rx (.v 4)) 0 16 = l.ctx ∧ (s.wg 0).launch ∈ s.ctxLaunches 0 0 ∧ l.lnum = 0 ∧ (s.wg 0).wx = 0 ∧ (s.wg 0).wy = 0 ∧
    (s.wg 0).wz = 0 ∧ 0 < s.wgs.length ∧ (s.wg 0).present = true ∧ (33 : Nat) ∈ s.wgThreads 0 ∧ 33 < s.threads.length ∧
    s.reforms.ctxPhase 0 0 ≠ 4 ∧ s.runs (.wgkill (hd 0) (.v 4) .wg) = true ∧ l ∈ s.launches ∧ l.part = 0 ∧ l.present = true ∧ s.ctxPhase 0 l.ctx ≠ 1 := by
  decide +kernel

/-- SMAP, SUNMAP and SINV while an operation works on their range; SMAP of a bad entry. -/
theorem witness_StashMaps_busy :
    let m : EngMod := ⟨0, .core, false, false, true, true, false⟩
    let s : State := { lane [(4, 0x2000), (6, 0x400000), (9, 7)] with ops := [{ copying 0 0x8000 .started with instr := .copy (hd 0) (.v 4) (.v 8) m }] }
    let e : MapEnt := { gva := 0x2000, off := 0, lines := 1, ro := false, nofill := false }
    let u := s.updWg 0 fun w => { w with maps := [none, none, none, none, none, none, none, some e] }
    let bad := (lane [(4, 0x2000), (6, 0x400000)]).updWg 0 fun w => { w with maps := [some e] }
    (s.stashBusy 0 [e.range] = true ∧ s.runs (.smap (hd 5) (.v 4)) = true ∧ entryOfQuad (s.curRegs.regsNat 4 4) = some e) ∧
    (u.stashBusy 0 [e.range] = true ∧ u.runs (.sunmap (hd 0) (.v 9)) = true ∧ (u.wg 0).maps.getD 7 none = some e) ∧
    (u.stashBusy 0 ((u.wg 0).coverRanges true 0 0) = true ∧ u.runs (.sinv (hd 0) .zero .zero true) = true) ∧
    (bad.stashBusy 0 [e.range] = false ∧ bad.smapBad 0 e = true ∧ bad.runs (.smap (hd 5) (.v 4)) = true) := by
  refine ⟨?_, ?_, ?_, ?_⟩ <;> decide +kernel

/-- An engine instruction of a crew whose counter has no room. -/
theorem witness_EngineInstructions_full :
    let s : State := { lane [(4, 0x2000), (6, 0x3000), (8, 4)] with issue := { full := [0] } }
    let i : Instr := .copy (hd 0) (.v 4) (.v 8) ⟨0, .core, false, false, false, false, false⟩
    let p := engPar i (s.curRegs.regsNat 4 4 + 2 ^ 128 * s.curRegs.regsNat 8 4)
    let pages := s.reforms.engPages (engRanges i p 0)
    s.runs i = true ∧ p.bad = false ∧ p.mcast = false ∧ s.streamClash 0 0 .core = false ∧ s.reforms.engStash 0 (engRanges i p 0) = none ∧
    engMisaligned i p = none ∧ pages.2 = .ok () ∧ (pages.1.engBo p.bo).2 = .ok () ∧ s.crewOf 0 ∈ s.issue.full ∧ (s.part 0).satrap = false ∧
    ((s.updPart 0 fun p => { p with satrap := true }).part 0).satrap = true := by decide +kernel

/-- Atomics that trap at a misaligned address, and those that meet poison. -/
theorem witness_Atomics_poison :
    let s := lane [(4, 0x2000), (10, 0x2002)]
    let m : AtomMod := ⟨.add, .u32, .rel, .pkg⟩
    let b : State := { s with poison := [0x80] }
    let chk := fun (s : State) va n => s.reforms.check s.curAs (some 0) va n .atomic
    let p := fun n => Place.mem ((List.range n).map (0x2000 + ·)) false
    let s3 := fun n => (((chk b 0x2000 n).1.flushCore 0).settlePlace 0 (p n)).demandPlace (p n)
    (∀ n ∈ [4, 8], (chk s 0x2002 n).2 = .trap { cause := .misaligned, detail := 2, addr := 0x2002 }) ∧
    (s.runs (.atom (hd 6) (.v 10) (.v 8) m) = true ∧ s.runs (.red (hd 0) (.v 10) (.v 8) m) = true ∧
      s.runs (.cas (hd 6) (.v 10) (.v 8) true .rel .pkg) = true ∧ s.runs (.boadd (hd 0) (.v 10) (.imm 1) .pkg) = true) ∧
    (∀ n ∈ [4, 8], (chk b 0x2000 n).2 = .ok (p n) ∧ (s3 n).placeBad (p n) = true ∧ (chk b 0x2000 n).1.placeBlocked (p n) = none ∧
      ((chk b 0x2000 n).1.flushCore 0).postBlocked 0 = none) ∧
    (b.runs (.atom (hd 6) (.v 4) (.v 8) m) = true ∧ b.runs (.cas (hd 6) (.v 4) (.v 8) true .rel .pkg) = true ∧
      b.remotePending (b.crewOf 0) b.racc.length = false) := by
  refine ⟨?_, ?_, ?_, ?_⟩ <;> decide +kernel

/-- LDS and SATOM that meet poison. -/
theorem witness_StashAccesses_poison :
    let s := (lane [(3, 64)]).updWg 0 fun w => { w with lines := [(1, some { dirty := true, pa := none, bad := true })] }
    s.runs (.lds (hd 5) (.v 3) .zero .b32) = true ∧ s.runs (.satom (hd 5) (.v 3) (.v 6) ⟨.add, .u32, .none, .core⟩) = true ∧
    (∀ w ∈ [true, false], (s.reforms.stashCheck 0 64 4 w).2 = .ok () ∧ (s.reforms.stashCheck 0 64 4 w).1.stashBad 0 64 4 = true) ∧
    s.hasExited 0 = false := by decide +kernel

/-- Counts and addresses that CCTL, OPWAIT and LDX refuse. -/
theorem witness_MemoryControls_refused :
    let s := (lane [(1, 1), (4, 0x2000), (5, 0), (6, 4097), (8, 0x400000), (9, 0), (10, 0), (11, 0x80000000), (12, 4096), (14, 0x2001)]).updCrew 0 fun c =>
      { c with s := [(1, 0x2100), (2, 0x2101), (3, 0x400000)] }
    let r := s.curRegs
    let A := fun va n => s.reforms.check s.curAs (some 0) va n .load
    (∀ n ∈ [5, 6, 1], s.runs (.cctl (hd 0) (.v 4) (.v n) .icode) = true ∧ s.runs (.cctl (hd 0) (.v 10) (.v n) .icode) = true) ∧
    ((r.rv (.v 9)).toNat < 1 ∧ 4096 < (r.rv (.v 6)).toNat ∧ canonical (r.rx (.v 10)) = false ∧ (r.rv (.v 1)).toNat = 1) ∧
    ((user s).runs (.cctl (hd 0) (.v 10) (.imm 1) .il1) = true ∧ (user s).curAs.sup = false) ∧
    (s.runs (.opwait (hd 0) (.imm 5) .zero) = true ∧ s.runs (.opwait (hd 0) .zero (.v 12)) = true ∧ (r.rv (.v 12)).toNat = 4096) ∧
    (s.runs (.ldx (hd 6) (.v 4) (.v 1) 1 false) = true ∧ (r.rv (.v 1)).toNat % 4 ≠ 0 ∧ s.runs (.ldx (hd 6) (.v 4) .zero 2 false) = true ∧
      ((s.crew 0).s.get 2).toNat % 2 ≠ 0) ∧
    (s.runs (.ldx (hd 6) (.v 14) .zero 1 false) = true ∧ (A 0x2001 4).2 = .trap { cause := .misaligned, detail := 0, addr := 0x2001 } ∧
      s.runs (.ldx (hd 6) (.v 4) .zero 3 false) = true ∧ (A 0x2000 4).2 = .ok (.mem ((List.range 4).map (0x2000 + ·)) false) ∧
      ((A 0x2000 4).1.check s.curAs (some 0) 0x400000 2 .load).2 = .trap { cause := .translation, detail := 0, addr := 0x400000 }) := by
  refine ⟨?_, ?_, ?_, ?_, ?_, ?_⟩ <;> decide +kernel

/-- A map instruction whose lower lane waits or stalls, and one that none is before. -/
theorem witness_StashMaps_behind :
    let s := fun (b : Option (Option Wait)) => ({ lane [(4, 0x2000), (6, 0x400000), (9, 7)] with issue := { behind := b } } : State)
    (s none).issue.behind = none ∧ (s (some none)).issue.behind = some none ∧
    (s (some (some (.migration 0)))).issue.behind = some (some (.migration 0)) ∧
    ∀ b ∈ [none, some none, some (some (Wait.migration 0))], ∀ i ∈ [Instr.smap (hd 5) (.v 4), .sunmap (hd 0) (.v 9), .sflush (hd 0) .zero .zero true, .sinv (hd 0) .zero .zero true],
      (s b).runs i = true := by
  refine ⟨rfl, rfl, rfl, ?_⟩
  decide +kernel

/-- Remote accesses that fail a check, that meet a full counter, and that meet a full table. -/
theorem witness_RemoteIssue_refused :
    let s := fun (v : Store Word) => (lane v).updPart 0 fun p => { p with fabPerm := [(0, 32)] }
    let a : RAccess := { core := 0, crew := 0, thread := 0, lane := 0, owner := 5, kind := .rld .b32 false, va := 0x2000, data := 0, expect := 0, d := 5, hold := true, stream := 0, scopeRel := false, seq := 0, tkid := none, head := false, replay := none, sent := true, pc := 0, order := 0, word := 0, contrib := none }
    let is := [Instr.rld (hd 8) (.v 4) .b64 true, .rst (hd 0) (.v 4) (.v 8) .b64 true 3, .ratom (hd 8) (.v 4) (.v 9) .add .u32 .none 0 false,
      .ratom (hd 0) (.v 4) (.v 9) .add .u32 .none 2 true, .rcas (hd 8) (.v 4) (.v 10) .u64 .rel, .rcas (hd 8) (.v 4) (.v 10) .u32 .none, .rboadd (hd 0) (.v 4) (.imm 1) 0]
    let good := s [(4, 0x2000), (6, 5)]
    let full := good.updCrew 0 fun c => { c with outst := List.replicate 4095 ⟨4, 0, false⟩ }
    let busy : State := { good with racc := List.replicate 64 a }
    let trapping := full.updPart 0 fun p => { p with satrap := true }
    (∀ i ∈ is, (s [(4, 0x2000), (6, 2048)]).runs i = true ∧ (s [(4, 0x2001), (6, 5)]).runs i = true ∧ (s [(4, 0x2000), (6, 6)]).runs i = true) ∧
    (((s [(6, 2048)]).curRegs.v.get 6).toNat = 2048 ∧ ((s [(4, 0x2001)]).curRegs.x 4).toNat % 4 ≠ 0 ∧ (s [(6, 6)]).fabReach 0 6 = false ∧
      (s [(6, 6)]).curAs.part = 0) ∧
    (4095 ≤ full.counter 0 4 ∧ full.remotePending 0 full.racc.length = false ∧ (full.part full.curAs.part).satrap = false ∧
      (trapping.part trapping.curAs.part).satrap = true ∧ 4095 ≤ trapping.counter 0 4) ∧
    (64 ≤ busy.tableUsed (busy.coreOf 0) ∧ busy.counter 0 4 < 4095 ∧ busy.runs (.rld (hd 8) (.v 4) .b64 false) = true) := by
  refine ⟨?_, ?_, ?_, ?_⟩ <;> decide +kernel

/-- The disable of an aperture whose invalidation is in progress or acknowledged, and one for which no invalidation is free; a write of a
register of the window's thread, held by a joint operation or not. -/
theorem witness_SystemRegisters_waits :
    let q : TrapRec := { info := { cause := .access }, part := 0, kind := 0, crew := 0, lane := 1, core := 0, ctx := 0, sup := true, tpc := 0, opc := 0, cyc := 0, thread := some 1, wg := some 0 }
    let s := (lane [(4, 3), (5, 8)]).updPart 0 fun p => { p with apers := [(3, { en := true, len := 0x1000 })], twin := 0x200, twinValid := true }
    let begun := fun (l : Bool) => ({ s with tlbinvs := [{ live := l, gen := 1 }] } : State).updThr 0 fun y => { y with inv := some 0 }
    let full : State := { s with posted := [⟨0, 0x2000, [1], false, 0⟩], tlbinvs := List.replicate 8 { gen := 1 } }
    let w := s.updCore 0 fun c => { c with slots := [(1, { held := some q })] }
    let j : Joint := { cluster := 0, core := 0, wg := 0, crews := [0], seqs := [0], base := 0, va := [8], foot := 8, rows := [[]], shape := 0, window := 0, ovr := false, afmt := .bf16, mop := .mad, tile := 0, prio := 0, posted := some 0 }
    let held : State := { w with joints := [j] }
    (∀ l ∈ [true, false], (begun l).runs (.syswr (hd 0) (.v 4) .zero 0x210) = true ∧ ((begun l).thr (begun l).t).inv = some 0 ∧
      (((begun l).tlbinvs[0]?).any (·.live)) = l) ∧
    (full.runs (.syswr (hd 0) (.v 4) .zero 0x210) = true ∧ full.reforms.sysIdx 0x210 (.v 4) 3 true = some 3 ∧ full.reforms.aperDrains 0 3 0 = true ∧
      8 ≤ full.invCount ∧ (full.thr full.t).inv = none) ∧
    (w.runs (.syswr (hd 0) (.v 5) .zero 0x008) = true ∧ w.reforms.sysIdx 0x008 (.v 5) 8 true = some 8 ∧ w.reforms.windowHeld 0 8 = false ∧
      w.winThread 0 = some 1 ∧ w.t = 0) ∧
    (held.runs (.syswr (hd 0) (.v 5) .zero 0x008) = true ∧ held.reforms.sysIdx 0x008 (.v 5) 8 true = some 8 ∧
      held.reforms.windowHeld 0 8 = true) := by
  refine ⟨?_, ?_, ?_, ?_⟩ <;> decide +kernel

/-- SRET.exit of an ASSERT's record while its context is saved and while it is not. -/
theorem witness_TrapReturn_saving :
    let i : TrapInfo := { cause := .access }
    let q : TrapRec := { info := i, part := 0, kind := 3, crew := 0, lane := 1, core := 0, ctx := 0, sup := true, tpc := 0, opc := 0, cyc := 0, thread := some 33 }
    let s := (crewed (lane [(4, 0x200)])).updCore 0 fun c => { c with slots := [(1, { held := some q })] }
    let saved := s.updCtx 0 0 fun x => { x with phase := 4 }
    s.ctxPhase 0 0 ≠ 4 ∧ saved.ctxPhase 0 0 = 4 ∧ saved.recOf 0 0x200 = some (0, 1, q) ∧ (saved.core 0).pend = [] ∧
    s.runs (.sret (hd 1) (.v 4) .zero .exit false) = true ∧ saved.runs (.sret (hd 1) (.v 4) .zero .exit false) = true := by decide +kernel

/-- Pairs offered to a heap: one of a new id to a heap with room and to a full one, one of an id that is there, and a NaN. -/
theorem witness_Distances_heap :
    let full : List (Word × Word) := [(1, 7), (2, 5)]
    heapOffer false 3 full (1, 9) = [(1, 7), (1, 9), (2, 5)] ∧ heapOffer false 2 full (1, 9) = [(1, 7), (1, 9)] ∧
    heapOffer false 2 full (3, 9) = full ∧ heapOffer false 2 full (0, 5) = [(0, 5), (1, 7)] ∧ heapOffer false 2 full (4, 7) = full ∧
    heapOffer true 3 full (0x7FC00000, 9) = full := by decide

/-- Packed blocks by R136's table: a block of numbers, and a block that holds a NaN. -/
theorem witness_CollectiveResults_block :
    let xs := fun (x : Nat) => (List.range 32).map fun j => f32.val false ([0x40FEB852, 0x40A00000, x].getD j 0)
    (quantise false 3 (xs 0)).2 = (126, 129) ∧ (quantise false 3 (xs 0)).1.take 2 = [0xBF, 0xA8] ∧ (quantise false 3 (xs 0x7FC00000)).2 = (255, 255) ∧
    bfpTo f32 false 0xBF 126 129 = 0x40FC0000 := by decide +kernel

/-- A step of a package in the failed state. -/
theorem witness_StepRunsDecoded_failed :
    let s : State := { State.reset with hk := { State.reset.hk with failStep := 2 } }
    s.hk.failStep ≠ 0 ∧ s.agenda = [] ∧ ({ s with agenda := [.packageReset 0 0] } : State).agenda = .packageReset 0 0 :: [] ∧
    ({ s with agenda := [.nop (hd 0)] } : State).agenda = .nop (hd 0) :: [] ∧ (∀ f l, Instr.nop (hd 0) ≠ .packageReset f l) :=
  ⟨by decide, rfl, rfl, rfl, fun _ _ h => nomatch h⟩

/-- A successor's claim in its time. -/
theorem witness_HousekeepingEvents_claim :
    let h : Hk := { State.reset.hk with owner := 2, succ := some 1, sessions := [1], succAt := 0 }
    1 ∈ h.sessions ∧ h.owner ≠ 3 ∧ h.owner ≠ 1 ∧ h.succ = some 1 ∧ State.reset.cyc.toNat < h.succAt + 12500000000 ∧
    meshTile 8 4 3 5 = false ∧ State.reset.holdsCtx 4 = false ∧ 768 < (700 : BitVec 16).toNat + (100 : BitVec 16).toNat ∧
    (0x1004 : BitVec 52).toNat % 8 ≠ 0 := by decide +kernel

/-- An access whose messages are all gone and for which nothing came back in its time. -/
theorem witness_RemoteEvents_lost :
    let a : RAccess := { core := 0, crew := 0, thread := 0, lane := 0, owner := 5, kind := .rld .b32 false, va := 0x2000, data := 0, expect := 0, d := 5, hold := true, stream := 0, scopeRel := false, seq := 0, tkid := none, head := false, replay := none, sent := true, sentAt := 0, pc := 0, order := 0, word := 0, contrib := none }
    let s : State := { lane [] with racc := [a], cyc := 2500000 }
    s.racc[0]? = some a ∧ a.live = true ∧ a.sent = true ∧ s.fabricLost 0 a = true ∧ (∀ m ∈ s.fabric, isMsgOf 0 m = false) ∧
    a.thread < s.threads.length ∧ s.hasExited a.thread = false := by decide +kernel

end Sys2Proof.Tests
end

section
/-! PROOFS. The reset values (O56), and writes of TPC through the trap window (O48). -/

namespace Sys2Proof.Machine

/-! ### Reset (R424) -/

/-- Partitions, cores, stacks and streams read after reset as empty records. -/
theorem State.part_reset (p : Nat) : State.reset.part p = {} := rfl
theorem State.core_reset (c : Nat) : State.reset.core c = {} := rfl
theorem State.stk_reset (k : Nat) : State.reset.stk k = {} := rfl
theorem State.stream_reset (j : Nat) : State.reset.links.streams.get j = {} := rfl

/-- An empty table reads as an empty record, whose fields have the values of their declarations, or as a zero register. -/
theorem CtxRun.get_nil (c : Nat) : Store.get ([] : Store CtxRun) c = {} := rfl
theorem LaunchQ.get_nil (q : Nat) : Store.get ([] : Store LaunchQ) q = {} := rfl
theorem Aper.get_nil (a : Nat) : Store.get ([] : Store Aper) a = {} := rfl
theorem Slot.get_nil (j : Nat) : Store.get ([] : Store Slot) j = {} := rfl
theorem Store.get_nil_bitVec {w : Nat} (k : Nat) : Store.get ([] : Store (BitVec w)) k = 0 := rfl

/-- Settles O56, record by record. -/
theorem resetState : Obligations.ResetState := by
  unfold Obligations.ResetState
  refine ⟨?clock, fun p => ?part, fun c => ?core, fun d => ?stack, ?ports, ?owner, ?memory⟩
  case clock => exact ⟨rfl, rfl, rfl, rfl, rfl, rfl, rfl, rfl, rfl, rfl, rfl, rfl, rfl⟩
  case part => simp [State.part_reset, CtxRun.get_nil, LaunchQ.get_nil, Aper.get_nil, Store.get_nil_bitVec]
  case core => simp [State.core_reset, Slot.get_nil]
  case stack => simp [State.stk_reset, Store.get_nil_bitVec]
  case ports =>
    refine ⟨rfl, rfl, rfl, rfl, rfl, rfl, fun j => ?_⟩
    simp [State.stream_reset]
  case owner => exact ⟨rfl, rfl, rfl, rfl, rfl⟩
  case memory => exact ⟨wf_reset_mem, fun _ => rfl⟩

/-! ### A write of TPC (R343) -/

/-- A write of TPC through an open window sets the thread's PC, and the thread forgets the waits of the instruction at its old
PC: `passed` (R122) and `inv` (R362, R397). -/
theorem exec_trapWindowWrite_tpc {s : State} {p t : Nat} (hp : p < 16) (ht : s.winThread p = some t) (x : DWord) :
    exec (.trapWindowWrite p 0x005 0 x) s =
      .next (s.updThr t fun y => { y with r := { y.r with pc := x }, passed := false, inv := none }) := by
  have hidx : s.regIdx p 0x005 0 = true := rfl
  simp [exec_trapWindowWrite, execTrapWindowWrite, State.regPart, hp, hidx, State.wWindow, ht]

/-- A ready thread whose wait of R122 has ended (`State.wakeOne`) when TIMER holds its crew (R347), with the window of
partition 0 open on the record of kind 2, in slot 0 of core 0, that names the thread. -/
def windowOnPassedThread : State :=
  let record : TrapRec :=
    { info := { cause := .timer }, part := 0, kind := 2, crew := 0, lane := 0, core := 0, ctx := 0, sup := false,
      tpc := 0, opc := 0, cyc := 0, thread := some 0 }
  { threads := [{ st := .ready, passed := true }]
    crews := [{ timer := true }]
    parts := [(0, { twinValid := true })]
    cores := [(0, { slots := [(0, { held := some record })] })] }

theorem winThread_windowOnPassedThread : windowOnPassedThread.winThread 0 = some 0 := by decide

/-- Refutes O48: where the statement lets a write of TPC change the PC of the window's thread alone, the model also clears
`passed` and `inv`, and the thread of `windowOnPassedThread` has `passed` set before the write. -/
theorem not_registerEvents : ¬ Obligations.RegisterEvents := by
  unfold Obligations.RegisterEvents
  intro h
  obtain ⟨hpart, -⟩ := h windowOnPassedThread 0 0 0 0 none
  obtain ⟨-, hwindow, -⟩ := hpart (by decide)
  have htpc := (hwindow 0 winThread_windowOnPassedThread).1
  rw [exec_trapWindowWrite_tpc (by decide) winThread_windowOnPassedThread] at htpc
  have hpassed : false = true := congrArg (fun s => (s.thr 0).passed) (Host.Outcome.next.inj htpc)
  exact absurd hpassed (by decide)

end Sys2Proof.Machine
end

section
/-! PROOFS. Folds over threads, and what the issue of a breaker comes to. -/

namespace Sys2Proof.Machine

/-! ### Folds whose steps each change one thread -/

/-- A fold leaves a thread as it is when none of its steps changes it. -/
theorem thr_foldl_of_forall {ι : Type} (f : State → ι → State) (u : Nat) (l : List ι) (s : State)
    (h : ∀ s, ∀ i ∈ l, (f s i).thr u = s.thr u) : (l.foldl f s).thr u = s.thr u := by
  induction l generalizing s with
  | nil => rfl
  | cons i r ih =>
    rw [List.foldl_cons, ih _ fun s j hj => h s j (List.mem_cons_of_mem _ hj), h s i List.mem_cons_self]

/-- In a fold whose steps change thread `k i` alone, the thread of a step that comes once ends as that step makes it of the thread it was. -/
theorem thr_foldl_rel {ι : Type} (f : State → ι → State) (k : ι → Nat) (R : Thread → Thread → Prop) (i : ι)
    (hown : ∀ s : State, k i < s.threads.length → R (s.thr (k i)) ((f s i).thr (k i)))
    (hother : ∀ s j u, u ≠ k j → (f s j).thr u = s.thr u)
    (hlen : ∀ s j, (f s j).threads.length = s.threads.length)
    {l : List ι} (hn : (l.map k).Nodup) (hi : i ∈ l) (s : State) (hk : k i < s.threads.length) :
    R (s.thr (k i)) ((l.foldl f s).thr (k i)) := by
  induction l generalizing s with
  | nil => cases hi
  | cons j r ih =>
    obtain ⟨hj, hr⟩ := List.nodup_cons.mp hn
    rw [List.foldl_cons]
    rcases List.mem_cons.mp hi with rfl | hi
    · rw [thr_foldl_of_forall _ _ _ _ fun s j' hj' => hother s j' _ fun e : k i = k j' => hj (e ▸ List.mem_map_of_mem hj')]
      exact hown s hk
    · have e : (f s j).thr (k i) = s.thr (k i) := hother s j _ fun e => hj (e ▸ List.mem_map_of_mem hi)
      exact e ▸ ih hr hi (f s j) (by rwa [hlen])

/-- What each step of a fold keeps, the fold keeps. -/
theorem foldl_keeps {ι β : Type} (p : State → β) (f : State → ι → State) (l : List ι) (s : State)
    (h : ∀ s i, p (f s i) = p s) : p (l.foldl f s) = p s := by
  induction l generalizing s with
  | nil => rfl
  | cons i r ih => rw [List.foldl_cons, ih, h]

theorem State.nodup_crewThreads (s : State) (c : Nat) : (s.crewThreads c).Nodup :=
  (List.nodup_range).map fun _ _ h => Nat.add_left_cancel h

theorem State.nodup_live (s : State) (c : Nat) : (s.live c).Nodup := (s.nodup_crewThreads c).filter _

theorem State.mem_live {s : State} {c u : Nat} : u ∈ s.live c ↔ u ∈ s.crewThreads c ∧ (s.thr u).st ≠ .exited := by
  simp [State.live, State.hasExited]

theorem State.length_updThr (s : State) (t : Nat) (f : Thread → Thread) : (s.updThr t f).threads.length = s.threads.length := by simp

/-- A waiting thread is one of the list: an index out of range reads as a ready thread. -/
theorem State.lt_of_waiting {s : State} {u : Nat} {w : Wait} (h : (s.thr u).st = .waiting w) : u < s.threads.length := by
  by_contra hu
  rw [State.thr, List.getD_eq_default _ _ (Nat.le_of_not_lt hu)] at h
  cases h

/-! ### Trap records lie outside the agents -/

@[simp] theorem putRec_threads (s : State) (r : TrapRec) : (s.putRec r).threads = s.threads := by
  unfold State.putRec
  split <;> rfl

@[simp] theorem putRec_ops (s : State) (r : TrapRec) : (s.putRec r).ops = s.ops := by
  unfold State.putRec
  split <;> rfl

@[simp] theorem putRec_thr (s : State) (r : TrapRec) (u : Nat) : (s.putRec r).thr u = s.thr u := by
  simp [State.thr]

/-- The trap of a rendezvous that does not match, or of a leader (R34, R36). -/
def illegalRdv : TrapInfo := { cause := .illegalCollective }

/-- A thread that stops at a cause which is not fatal to its launch (R335, R337). -/
theorem stopThread_eq {i : TrapInfo} (hi : i.cause ≠ .leaseViolation) (s : State) (t kind : Nat) (tpc opc : DWord) :
    s.stopThread t kind i tpc opc = (s.putRec (s.trapRec t kind i tpc opc)).updThr t fun x =>
      { x with st := .waiting (.trap kind i opc), passed := false, tarn := none, inv := none } := by
  rw [State.stopThread, if_neg hi]

theorem stopThread_thr_other {s : State} {t u kind : Nat} {i : TrapInfo} {tpc opc : DWord} (hi : i.cause ≠ .leaseViolation) (h : t ≠ u) :
    (s.stopThread t kind i tpc opc).thr u = s.thr u := by
  rw [stopThread_eq hi, State.thr_updThr_other h, putRec_thr]

theorem stopThread_length {i : TrapInfo} (hi : i.cause ≠ .leaseViolation) (s : State) (t kind : Nat) (tpc opc : DWord) :
    (s.stopThread t kind i tpc opc).threads.length = s.threads.length := by
  rw [stopThread_eq hi, State.length_updThr, putRec_threads]

/-! ### The issue of a breaker (R28, R174) -/

/-- Re-forming asked for by a breaker changes nothing but the list of quadrants that re-form. -/
theorem State.reforms_eq (s : State) : ∃ q, s.reforms = { s with reform := q } := by
  unfold State.reforms
  split
  · split
    · exact ⟨_, rfl⟩
    · exact ⟨_, rfl⟩
  · exact ⟨_, rfl⟩

@[simp] theorem State.reforms_cur (s : State) : s.reforms.cur = s.cur := by obtain ⟨_, h⟩ := s.reforms_eq; rw [h]
@[simp] theorem State.reforms_cyc (s : State) : s.reforms.cyc = s.cyc := by obtain ⟨_, h⟩ := s.reforms_eq; rw [h]
@[simp] theorem State.reforms_mem (s : State) : s.reforms.mem = s.mem := by obtain ⟨_, h⟩ := s.reforms_eq; rw [h]
@[simp] theorem State.reforms_threads (s : State) : s.reforms.threads = s.threads := by obtain ⟨_, h⟩ := s.reforms_eq; rw [h]
@[simp] theorem State.reforms_crews (s : State) : s.reforms.crews = s.crews := by obtain ⟨_, h⟩ := s.reforms_eq; rw [h]
@[simp] theorem State.reforms_thr (s : State) (u : Nat) : s.reforms.thr u = s.thr u := by simp [State.thr]
@[simp] theorem State.reforms_crew (s : State) (c : Nat) : s.reforms.crew c = s.crew c := by simp [State.crew]
@[simp] theorem State.reforms_crewOf (s : State) (u : Nat) : s.reforms.crewOf u = s.crewOf u := by simp [State.crewOf]
@[simp] theorem State.reforms_isLeader (s : State) (u : Nat) : s.reforms.isLeader u = s.isLeader u := by simp [State.isLeader]
@[simp] theorem State.reforms_live (s : State) (c : Nat) : s.reforms.live c = s.live c := by
  simp [State.live, State.crewThreads, State.hasExited]
@[simp] theorem State.reforms_t (s : State) : s.reforms.t = s.t := by simp [State.t]
@[simp] theorem State.reforms_curRegs (s : State) : s.reforms.curRegs = s.curRegs := by
  obtain ⟨_, h⟩ := s.reforms_eq
  rw [h]
  rfl

/-- The executing thread, and its registers. -/
theorem State.t_of_cur {s : State} {t : Nat} (hc : s.cur = .thread t) : s.t = t := by simp only [State.t, hc]
theorem State.curRegs_of_cur {s : State} {t : Nat} (hc : s.cur = .thread t) : s.curRegs = (s.thr t).r := by simp only [State.curRegs, hc]

/-- A leader issues outside the quadrants, which do not re-form (R33). -/
theorem State.reforms_of_leader {s : State} {t : Nat} (hc : s.cur = .thread t) (hl : s.isLeader t = true) : s.reforms = s := by
  simp [State.reforms, hc, hl]

theorem issueI_ready_brk {s : State} {i : Iss} (hr : s.ready i = true) (hb : i.a.brk = true) (body : State → Regs → Res) :
    s.issueI i body = .next (deliver i (body s.reforms s.curRegs)) := by
  rw [issueI_ready hr, begin_brk _ _ hb]

theorem issueI_arrives_brk {s : State} {i : Iss} (hr : s.arrives i = true) (hi : i.a.coll = true) (hb : i.a.brk = true)
    (body : State → Regs → Res) : s.issueI i body = .next (deliver i (body s.reforms s.curRegs)) := by
  rw [issueI_arrives hr hi, begin_brk _ _ hb]

theorem State.hold_thread {s : State} {t : Nat} (hc : s.cur = .thread t) (w : Wait) :
    s.hold w = s.updThr t fun x => { x with st := waitState w } := by
  simp only [State.hold, hc]

theorem State.goesOn_thread {s : State} {t : Nat} (hc : s.cur = .thread t) (r : Regs) :
    s.goesOn r = s.updThr t fun x => { x with r := r, passed := false } := by
  simp only [State.goesOn, hc]

end Sys2Proof.Machine
end

section
/-! PROOFS. NOP, YIELD, SLEEPUNTIL and EXIT (O10). -/

namespace Sys2Proof.Machine

/-! ### The crew is woken (R33) -/

/-- A sleeping thread becomes ready. -/
def wakeStep (s : State) (t : Nat) : State :=
  if (s.thr t).st == .sleeping then s.updThr t fun x => { x with st := .ready, readyAt := s.cyc.toNat } else s

theorem wakeStep_length (s : State) (t : Nat) : (wakeStep s t).threads.length = s.threads.length := by
  unfold wakeStep
  split
  · exact s.length_updThr t _
  · rfl

theorem wakeStep_other {s : State} {t u : Nat} (h : u ≠ t) : (wakeStep s t).thr u = s.thr u := by
  unfold wakeStep
  split
  · exact State.thr_updThr_other h.symm _
  · rfl

theorem wakeStep_r (s : State) (t u : Nat) : ((wakeStep s t).thr u).r = (s.thr u).r := by
  unfold wakeStep
  split
  · rw [State.thr_updThr]
    split
    · rename_i h; rw [h.1]
    · rfl
  · rfl

theorem wakeStep_crews (s : State) (t : Nat) : (wakeStep s t).crews = s.crews := by
  unfold wakeStep
  split <;> rfl

theorem wakeStep_cur (s : State) (t : Nat) : (wakeStep s t).cur = s.cur := by
  unfold wakeStep
  split <;> rfl

/-- A crew's threads are those from its base on, which ending the leadership keeps. -/
theorem wakeCrew_eq (s : State) (c : Nat) :
    s.wakeCrew c = (s.crewThreads c).foldl wakeStep (s.updCrew c fun x => { x with leader := none }) := by
  have hb : (s.updCrew c fun x => { x with leader := none }).crewThreads c = s.crewThreads c := by
    simp only [State.crewThreads, State.crew_updCrew]
    split <;> rfl
  rw [← hb]
  rfl

@[simp] theorem wakeCrew_length (s : State) (c : Nat) : (s.wakeCrew c).threads.length = s.threads.length := by
  rw [wakeCrew_eq, foldl_keeps (fun s => s.threads.length) _ _ _ wakeStep_length]
  rfl

@[simp] theorem wakeCrew_r (s : State) (c u : Nat) : ((s.wakeCrew c).thr u).r = (s.thr u).r := by
  rw [wakeCrew_eq, foldl_keeps (fun s => (s.thr u).r) _ _ _ fun s t => wakeStep_r s t u]
  rfl

@[simp] theorem wakeCrew_cur (s : State) (c : Nat) : (s.wakeCrew c).cur = s.cur := by
  rw [wakeCrew_eq, foldl_keeps State.cur _ _ _ wakeStep_cur]
  rfl

theorem wakeCrew_leader {s : State} {c : Nat} (h : c < s.crews.length) : ((s.wakeCrew c).crew c).leader = none := by
  rw [State.crew, wakeCrew_eq, foldl_keeps State.crews _ _ _ wakeStep_crews, ← State.crew, State.crew_updCrew, if_pos ⟨rfl, h⟩]

theorem wakeCrew_sleeping {s : State} {c u : Nat} (hu : u ∈ s.crewThreads c) (h : (s.thr u).st = .sleeping) :
    ((s.wakeCrew c).thr u).st = .ready := by
  have hl : u < s.threads.length := by
    by_contra hl
    rw [State.thr, List.getD_eq_default _ _ (Nat.le_of_not_lt hl)] at h
    cases h
  rw [wakeCrew_eq]
  refine thr_foldl_rel wakeStep id (fun x y => x.st = .sleeping → y.st = .ready) u ?_ (fun s j u => wakeStep_other) wakeStep_length
    (by simpa using s.nodup_crewThreads c) hu (s.updCrew c _) hl h
  intro s hk hs
  rw [wakeStep, if_pos (by simpa using hs)]
  exact congrArg Thread.st (State.thr_updThr_same hk _)

/-! ### What an exit leaves of its thread (R211) -/

theorem orphan_threads (s : State) (t : Nat) (a : AsyncTrap) : (s.orphan t a).threads = s.threads := by
  simp [State.orphan]

/-- The thread of an exit: exited, its registers zero but for the PC, no cause pending. -/
theorem exitOne_thr {s : State} {t : Nat} (h : t < s.threads.length) :
    ((s.exitOne t).thr t).st = .exited ∧ ((s.exitOne t).thr t).async = [] ∧
      ∃ pc npc, ((s.exitOne t).thr t).r = { pc := pc, npc := npc } := by
  have hthreads : ∀ s0 : State, ∀ l : List AsyncTrap, (l.foldl (fun s a => s.orphan t a) s0).threads = s0.threads :=
    fun s0 l => foldl_keeps State.threads _ _ _ fun s a => orphan_threads s t a
  unfold State.exitOne
  dsimp only
  rw [State.thr_updThr_same]
  · exact ⟨rfl, rfl, _, _, rfl⟩
  · rw [hthreads]
    split
    · rw [wakeCrew_length]; exact h
    · exact h

/-- The exited threads are as they were. -/
def State.SparesExited (s s' : State) : Prop := ∀ u, (s.thr u).st = .exited → s'.thr u = s.thr u

theorem State.SparesExited.refl (s : State) : s.SparesExited s := fun _ _ => rfl

theorem State.SparesExited.trans {s₁ s₂ s₃ : State} (h₁ : s₁.SparesExited s₂) (h₂ : s₂.SparesExited s₃) : s₁.SparesExited s₃ :=
  fun u hu => (h₂ u (by rw [h₁ u hu, hu])).trans (h₁ u hu)

theorem State.SparesExited.of_threads {s s' : State} (h : s'.threads = s.threads) : s.SparesExited s' :=
  fun u _ => by simp only [State.thr, h]

theorem State.SparesExited.updThr {s : State} {t : Nat} {f : Thread → Thread} (h : (s.thr t).st = .exited → f (s.thr t) = s.thr t) :
    s.SparesExited (s.updThr t f) := by
  intro u hu
  rw [State.thr_updThr]
  split
  · rename_i e
    rw [← e.1] at hu ⊢
    exact h hu
  · rfl

theorem State.SparesExited.foldl {ι : Type} {f : State → ι → State} (h : ∀ (s : State) i, s.SparesExited (f s i)) (l : List ι) (s : State) :
    s.SparesExited (l.foldl f s) := by
  induction l generalizing s with
  | nil => exact .refl s
  | cons i r ih => exact (h s i).trans (ih _)

/-- A thread that waits, once it is stopped or goes on, was not an exited one. -/
theorem State.SparesExited.stopThread {s : State} {t kind : Nat} {i : TrapInfo} {tpc opc : DWord} (hi : i.cause ≠ .leaseViolation)
    (h : (s.thr t).st ≠ .exited) : s.SparesExited (s.stopThread t kind i tpc opc) :=
  fun _ hu => stopThread_thr_other hi fun e => h (e ▸ hu)

/-! ### No rendezvous and no barrier changes an exited thread -/

theorem election_sparesExited (s : State) (c : Nat) : s.SparesExited (s.election c) := by
  have fin : ∀ (s : State) (t : Nat) (b : Bool), s.SparesExited (s.updThr t fun x => match x.st with
      | .waiting (.elect d) => { x.goOn s.cyc.toNat (some (d, b)) with st := if b then .ready else .sleeping }
      | _ => x) := fun s t b => .updThr fun h => by simp only [h]
  unfold State.election
  split
  · exact .refl s
  · exact ((fin s _ true).trans (.foldl (fun s t => fin s t false) _ _)).trans (.of_threads rfl)

theorem mismatch_sparesExited (s : State) (c : Nat) : s.SparesExited (s.mismatch c) := by
  intro u hu
  refine thr_foldl_of_forall _ u _ s fun s' t ht => stopThread_thr_other (by decide) ?_
  rintro rfl
  exact (State.mem_live.mp ht).2 hu

/-- A thread takes part in a collective only while it waits at it. -/
theorem partAt_some {s : State} {c i : Nat} {p : Party} (h : s.partAt c i = some p) :
    p.thread = (s.crew c).base + i ∧ ∃ f sp, (s.thr p.thread).st = .waiting (.coll p.instr p.active f sp) := by
  simp only [State.partAt] at h
  split at h
  · rename_i f sp hst
    cases h
    exact ⟨rfl, f, sp, hst⟩
  · cases h

theorem collective_sparesExited (s : State) (c : Nat) (ftz : Bool) (spread : Nat) : s.SparesExited (s.collective c ftz spread) := by
  intro u hu
  refine thr_foldl_of_forall _ u _ s fun s' o ho => ?_
  obtain ⟨i, -, rfl⟩ := List.mem_map.mp ho
  cases hp : s.partAt c i with
  | none => rfl
  | some p =>
    obtain ⟨-, f, sp, hst⟩ := partAt_some hp
    refine State.thr_updThr_other (fun e => ?_) _
    rw [e, hu] at hst
    cases hst

theorem goOn_live_sparesExited (s : State) (c : Nat) :
    s.SparesExited ((s.live c).foldl (fun s t => s.updThr t fun x => x.goOn s.cyc.toNat none) s) := by
  intro u hu
  refine thr_foldl_of_forall _ u _ s fun s' t ht => State.thr_updThr_other ?_ _
  rintro rfl
  exact (State.mem_live.mp ht).2 hu

theorem tryRdv_sparesExited (s : State) (c : Nat) : s.SparesExited (s.tryRdv c) := by
  unfold State.tryRdv
  dsimp only
  split
  · exact .refl s
  · exact .refl s
  · split
    · exact .refl s
    · split
      · exact election_sparesExited s c
      · exact mismatch_sparesExited s c
  · split
    · exact .refl s
    · split
      · exact goOn_live_sparesExited s c
      · exact mismatch_sparesExited s c
  · split
    · exact .refl s
    · split
      · exact collective_sparesExited s c _ _
      · exact mismatch_sparesExited s c

theorem cinchExit_sparesExited (s : State) (c : Nat) : s.SparesExited (s.cinchExit c) := by
  unfold State.cinchExit
  split
  · exact .refl s
  · intro u hu
    refine State.SparesExited.foldl (fun s k => ?_) _ _ u hu
    split
    · refine .foldl (fun s t => ?_) _ _
      split
      · rename_i hst
        exact (State.SparesExited.stopThread (by decide) (by rw [hst]; nofun)).trans (.of_threads rfl)
      · exact .refl s
    · exact .refl s

theorem releaseBar_sparesExited (s : State) (tile : Bool) (w : Nat) : s.SparesExited (s.releaseBar tile w) := by
  refine .foldl (fun (s : State) t => ?_) _ s
  split
  · rename_i hbar
    exact .updThr fun h => by simp [atBarrier, h] at hbar
  · exact .refl s

theorem tryWgbar_sparesExited (s : State) (w : Nat) : s.SparesExited (s.tryWgbar w) := by
  unfold State.tryWgbar
  split
  · exact releaseBar_sparesExited s false w
  · exact .refl s

theorem tryTilebar_sparesExited (s : State) (w : Nat) : s.SparesExited (s.tryTilebar w) := by
  unfold State.tryTilebar
  dsimp only
  split
  · exact .foldl (fun s m => releaseBar_sparesExited s true m) _ s
  · exact .refl s

/-- What completes because a thread has exited leaves that thread as its exit made it. -/
theorem exitThread_thr {s : State} {t : Nat} (h : t < s.threads.length) : (s.exitThread t).thr t = (s.exitOne t).thr t := by
  have hx := (exitOne_thr h).1
  unfold State.exitThread
  dsimp only
  generalize s.exitOne t = x at hx ⊢
  have hrdv := tryRdv_sparesExited x (s.crewOf t)
  have hcinch := hrdv.trans (cinchExit_sparesExited _ (s.crewOf t))
  have hwg := hcinch.trans (tryWgbar_sparesExited _ (s.wgOf t))
  exact hwg.trans (tryTilebar_sparesExited _ (s.wgOf t)) t hx

/-! ### The instructions -/

theorem exec_nop_runs {s : State} {h : Hdr} (hr : s.runs (.nop h) = true) : exec (.nop h) s = .next (s.goesOn s.curRegs.gotNone) := by
  rw [exec_nop, execNop, issueI_ready (i := ⟨aLane, h, [], .none⟩) hr, begin_noBrk _ _ rfl, deliver_none rfl]

/-- The bundle that issued ranks last among its equals (R29, R211). -/
def State.yielded (s : State) (t : Nat) : List Bundle := s.bundles.map fun b => if b.threads.contains t then { b with yielded := true } else b

theorem getElem?_yielded {s : State} {t n : Nat} {b : Bundle} (h : s.bundles[n]? = some b) :
    (s.yielded t)[n]? = some { b with yielded := b.yielded || b.threads.contains t } := by
  rw [State.yielded, List.getElem?_map, h]
  cases hb : b.threads.contains t <;> simp only [Option.map_some, hb, Bool.or_true, Bool.or_false, if_true, Bool.false_eq_true, if_false]

theorem exec_yield_runs {s : State} {t : Nat} {h : Hdr} (hc : s.cur = .thread t) (hr : s.runs (.yield h) = true) :
    exec (.yield h) s = .next (State.goesOn { s with bundles := s.yielded t } s.curRegs.gotNone) := by
  rw [exec_yield, execYield, issueI_ready (i := ⟨{}, h, [], .none⟩) hr, begin_noBrk _ _ rfl, deliver_none rfl, State.t_of_cur hc]
  rfl

theorem exec_sleepuntil_runs {s : State} {t : Nat} {h : Hdr} {a : Src} (hc : s.cur = .thread t) (hr : s.runs (.sleepuntil h a) = true) :
    exec (.sleepuntil h a) s = .next (if (s.curRegs.rx a).toNat ≤ s.cyc.toNat then s.reforms.goesOn s.curRegs.broke
      else s.reforms.updThr t fun x => { x with st := .waiting (.sleep (s.curRegs.rx a)) }) := by
  rw [exec_sleepuntil, execSleepuntil, issueI_ready_brk (i := ⟨aBrk, h, [.x a], .none⟩) hr rfl, State.reforms_cyc]
  split
  · rw [deliver_broke rfl, State.reforms_curRegs]
  · exact congrArg _ (State.hold_thread (by rw [State.reforms_cur, hc]) _)

theorem exec_exit_runs {s : State} {t : Nat} {h : Hdr} (hc : s.cur = .thread t) (hr : s.runs (.exit h) = true) :
    exec (.exit h) s = .next (s.reforms.exitThread t) := by
  rw [exec_exit, execExit, issueI_ready_brk (i := ⟨aBrk, h, [], .none⟩) hr rfl, State.reforms_t, State.t_of_cur hc]
  rfl

/-- Settles O10, instruction by instruction; an exited thread takes part in nothing that its exit completes. -/
theorem waitsNothingAndExit : Obligations.WaitsNothingAndExit := by
  unfold Obligations.WaitsNothingAndExit
  refine ⟨fun s t h a => ⟨exec_nop_runs, fun hc hr => ?yield, fun hc hr => ?sleepuntil⟩, fun s t h hc ht hr => ?exit⟩
  case yield => exact ⟨_, exec_yield_runs hc hr, List.length_map _, fun n b => getElem?_yielded⟩
  case sleepuntil =>
    rw [exec_sleepuntil_runs hc hr]
    exact ⟨fun hd => by rw [if_pos hd], fun hd => by rw [if_neg (Nat.not_le.mpr hd)]⟩
  case exit =>
    have ht' : t < s.reforms.threads.length := by rwa [State.reforms_threads]
    obtain ⟨hst, hasync, pc, npc, hregs⟩ := exitOne_thr ht'
    refine ⟨_, exec_exit_runs hc hr, ?_⟩
    rw [exitThread_thr ht', hregs]
    exact ⟨hst, hasync, fun _ => rfl, rfl, fun _ => rfl⟩

end Sys2Proof.Machine
end

section
/-! PROOFS. Rendezvous of a crew: elections and leaders (O11), collectives (O33). -/

namespace Sys2Proof.Machine

/-! ### A thread waits -/

/-- A thread arrives and waits. -/
def State.waitAt (s : State) (t : Nat) (b : Wait) : State := s.updThr t fun x => { x with st := .waiting b }

theorem State.waitAt_thr_same {s : State} {t : Nat} (h : t < s.threads.length) (b : Wait) :
    (s.waitAt t b).thr t = { s.thr t with st := .waiting b } := State.thr_updThr_same h _

theorem State.waitAt_thr_other {s : State} {t u : Nat} (h : u ≠ t) (b : Wait) : (s.waitAt t b).thr u = s.thr u :=
  State.thr_updThr_other h.symm _

/-- The thread that arrives keeps everything but its state. -/
theorem State.waitAt_thr_r (s : State) (t u : Nat) (b : Wait) : ((s.waitAt t b).thr u).r = (s.thr u).r := by
  rw [State.waitAt, State.thr_updThr]
  split
  · rename_i h; rw [h.1]
  · rfl

theorem State.waitAt_thr_num (s : State) (t u : Nat) (b : Wait) : ((s.waitAt t b).thr u).num = (s.thr u).num := by
  rw [State.waitAt, State.thr_updThr]
  split
  · rename_i h; rw [h.1]
  · rfl

/-- A live thread that begins to wait stays one of its crew's live threads, and no other comes or goes. -/
theorem State.waitAt_live {s : State} {t c : Nat} (ht : t ∈ s.live c) (b : Wait) : (s.waitAt t b).live c = s.live c := by
  refine List.filter_congr fun u _ => ?_
  simp only [State.hasExited]
  by_cases hu : u = t
  · subst hu
    have hx := (State.mem_live.mp ht).2
    rw [State.waitAt, State.thr_updThr]
    split
    · simpa using hx
    · rfl
  · rw [State.waitAt_thr_other hu]

/-! ### The rendezvous of a crew (R32, R35, R36) -/

theorem rdvOf_eq_coll {x : Thread} {i : Instr} {g f : Bool} {sp : Nat} :
    rdvOf x = .coll i g f sp ↔ x.st = .waiting (.coll i g f sp) := by
  unfold rdvOf
  split
  case h_4 hcoll => exact ⟨nofun, fun e => absurd e (hcoll i g f sp)⟩
  all_goals simp [*]

theorem rdvOf_eq_elect {x : Thread} : rdvOf x = .elect ↔ ∃ d, x.st = .waiting (.elect d) := by
  unfold rdvOf
  split <;> simp_all

/-- The rendezvous of a crew's live threads. -/
theorem mem_rdvs {s : State} {c u : Nat} (hu : u ∈ s.live c) : rdvOf (s.thr u) ∈ (s.live c).map fun t => rdvOf (s.thr t) :=
  List.mem_map_of_mem hu

/-- While a live thread has not arrived nothing happens. -/
theorem tryRdv_of_absent {s : State} {c u : Nat} (hu : u ∈ s.live c) (hn : rdvOf (s.thr u) = .none) : s.tryRdv c = s := by
  have hmem := mem_rdvs hu
  rw [hn] at hmem
  unfold State.tryRdv
  dsimp only
  generalize (s.live c).map (fun t => rdvOf (s.thr t)) = rs at hmem
  have hcontains : ∀ {x : Rdv} {r : List Rdv}, x ≠ .none → rs = x :: r → r.contains .none = true := by
    rintro x r hx rfl
    simpa [hx.symm] using hmem
  split
  · rfl
  · rfl
  · rw [if_pos (hcontains (by nofun) rfl)]
  · rw [if_pos (hcontains (by nofun) rfl)]
  · rw [if_pos (hcontains (by nofun) rfl)]

/-- ELECT in every live thread is an election. -/
theorem tryRdv_of_elect {s : State} {c u : Nat} (hu : u ∈ s.live c) (hall : ∀ v ∈ s.live c, rdvOf (s.thr v) = .elect) :
    s.tryRdv c = s.election c := by
  have hrs : ∀ x ∈ (s.live c).map fun t => rdvOf (s.thr t), x = .elect := by
    simpa using hall
  have hne := List.ne_nil_of_mem (mem_rdvs hu)
  unfold State.tryRdv
  dsimp only
  generalize (s.live c).map (fun t => rdvOf (s.thr t)) = rs at hrs hne
  cases rs with
  | nil => exact absurd rfl hne
  | cons x r =>
    obtain ⟨rfl, hr⟩ := List.forall_mem_cons.mp hrs
    have hnone : r.contains .none = false := by
      rw [List.contains_eq_mem, decide_eq_false_iff_not]
      exact fun h => nomatch (hr _ h)
    have helect : r.all (· == .elect) = true := by simpa using hr
    simp only [hnone, helect, if_true, Bool.false_eq_true, if_false]

/-- A collective at which every live thread waits takes effect, under the NUMCFG that its first thread holds (R35, R226). -/
theorem tryRdv_of_coll {s : State} {c l : Nat} {rest : List Nat} {i : Instr} {g f : Bool} {sp : Nat} (hl : s.live c = l :: rest)
    (hfirst : rdvOf (s.thr l) = .coll i g f sp)
    (hrest : ∀ u ∈ rest, ∃ j g f sp, rdvOf (s.thr u) = .coll j g f sp ∧ collKey j = collKey i) : s.tryRdv c = s.collective c f sp := by
  have hnone : (rest.map fun t => rdvOf (s.thr t)).contains .none = false := by
    rw [List.contains_eq_mem, decide_eq_false_iff_not, List.mem_map]
    rintro ⟨u, hu, hr⟩
    obtain ⟨_, _, _, _, hc, _⟩ := hrest u hu
    rw [hc] at hr
    cases hr
  have hall : (rest.map fun t => rdvOf (s.thr t)).all
      (fun x => match x with | .coll j _ _ _ => collKey j == collKey i | _ => false) = true := by
    rw [List.all_map, List.all_eq_true]
    intro u hu
    obtain ⟨_, _, _, _, hc, hk⟩ := hrest u hu
    simp only [Function.comp, hc, hk, beq_self_eq_true]
  unfold State.tryRdv
  simp only [hl, List.map_cons, hfirst, hnone, Bool.false_eq_true, if_false]
  exact if_pos hall

/-- Live threads that have all arrived, one of them at another rendezvous than a thread's collective, do not match (R36). -/
theorem tryRdv_of_mismatch {s : State} {c t u : Nat} {i : Instr} {g f : Bool} {sp : Nat} (hall : ∀ v ∈ s.live c, rdvOf (s.thr v) ≠ .none)
    (ht : t ∈ s.live c) (hst : rdvOf (s.thr t) = .coll i g f sp) (hu : u ∈ s.live c)
    (hdiff : ∀ j g f sp, rdvOf (s.thr u) = .coll j g f sp → collKey j ≠ collKey i) : s.tryRdv c = s.mismatch c := by
  have hmt := mem_rdvs ht
  have hmu := mem_rdvs hu
  have hrs : ∀ x ∈ (s.live c).map fun t => rdvOf (s.thr t), x ≠ .none := by simpa using hall
  rw [hst] at hmt
  unfold State.tryRdv
  dsimp only
  generalize (s.live c).map (fun t => rdvOf (s.thr t)) = rs at hmt hmu hrs
  generalize rdvOf (s.thr u) = xu at hmu hdiff
  cases rs with
  | nil => cases hmt
  | cons x r =>
    obtain ⟨hx, hr⟩ := List.forall_mem_cons.mp hrs
    have hnone : r.contains .none = false := by simpa using fun h => hr _ h rfl
    cases x with
    | none => exact absurd rfl hx
    | elect =>
      have hno : r.all (· == .elect) = false := by
        rcases List.mem_cons.mp hmt with h | h
        · cases h
        · exact List.all_eq_false.mpr ⟨_, h, by simp⟩
      simp only [hnone, hno, Bool.false_eq_true, if_false]
    | cbar =>
      have hno : r.all (· == .cbar) = false := by
        rcases List.mem_cons.mp hmt with h | h
        · cases h
        · exact List.all_eq_false.mpr ⟨_, h, by simp⟩
      simp only [hnone, hno, Bool.false_eq_true, if_false]
    | coll j gj fj spj =>
      have hno : r.all (fun x => match x with | .coll k _ _ _ => collKey k == collKey j | _ => false) = false := by
        by_cases hij : collKey i = collKey j
        · rcases List.mem_cons.mp hmu with rfl | h
          · exact absurd hij.symm (hdiff _ _ _ _ rfl)
          · refine List.all_eq_false.mpr ⟨_, h, ?_⟩
            cases xu with
            | coll k => simpa using fun hk => hdiff _ _ _ _ rfl (hk.trans hij.symm)
            | _ => simp
        · rcases List.mem_cons.mp hmt with h | h
          · cases h
            exact absurd rfl hij
          · exact List.all_eq_false.mpr ⟨_, h, by simpa using hij⟩
      simp only [hnone, Bool.false_eq_true, if_false]
      exact if_neg fun e => absurd (hno.symm.trans e) (by decide)

/-- Every live thread of a mismatch stops at its own instruction (R36). -/
theorem mismatch_thr {s : State} {c u : Nat} (hu : u ∈ s.live c) (hl : u < s.threads.length) :
    ((s.mismatch c).thr u).st = .waiting (.trap 0 illegalRdv (s.thr u).r.pc) := by
  refine thr_foldl_rel _ id (fun x y => y.st = .waiting (.trap 0 illegalRdv x.r.pc)) u ?_ ?_ ?_ (by simpa using s.nodup_live c) hu s hl
  · intro s hk
    rw [stopThread_eq (by decide)]
    exact congrArg Thread.st (State.thr_updThr_same (by simpa using hk) _)
  · exact fun s j v hv => stopThread_thr_other (by decide) fun e => hv e.symm
  · exact fun s j => stopThread_length (by decide) s j _ _ _

/-! ### The election (R32) -/

/-- What an election makes of an arrived thread, leader or not. -/
def electStep (b : Bool) (s : State) (t : Nat) : State :=
  s.updThr t fun x => match x.st with
    | .waiting (.elect d) => { x.goOn s.cyc.toNat (some (d, b)) with st := if b then .ready else .sleeping }
    | _ => x

/-- The threads of an election before and after: the leader ready, the others asleep, each past its ELECT with its predicate written. -/
def Elected (b : Bool) (x y : Thread) : Prop :=
  ∀ d, x.st = .waiting (.elect d) → y.st = (if b then .ready else .sleeping) ∧ y.r = (x.r.setP (d.setWidth 4) b).broke

theorem electStep_thr_same {s : State} {t : Nat} (h : t < s.threads.length) (b : Bool) : Elected b (s.thr t) ((electStep b s t).thr t) := by
  intro d hd
  rw [electStep, State.thr_updThr_same h]
  rw [hd]
  exact ⟨rfl, rfl⟩

theorem electStep_thr_other (b : Bool) (s : State) (t u : Nat) (h : u ≠ t) : (electStep b s t).thr u = s.thr u :=
  State.thr_updThr_other h.symm _

theorem electStep_thr_num (b : Bool) (s : State) (t u : Nat) : ((electStep b s t).thr u).num = (s.thr u).num := by
  rw [electStep, State.thr_updThr]
  split
  · rename_i h
    obtain ⟨rfl, -⟩ := h
    split <;> rfl
  · rfl

theorem electStep_length (b : Bool) (s : State) (t : Nat) : (electStep b s t).threads.length = s.threads.length := s.length_updThr t _

theorem election_eq {s : State} {c l : Nat} {rest : List Nat} (hl : s.live c = l :: rest) :
    s.election c = (rest.foldl (electStep false) (electStep true s l)).updCrew c fun x =>
      { x with leader := some ((rest.foldl (electStep false) (electStep true s l)).thr l).num } := by
  unfold State.election
  rw [hl]
  rfl

theorem election_thr {s : State} {c u : Nat} (hu : u ∈ s.live c) (hlen : u < s.threads.length) :
    Elected ((s.live c).head? == some u) (s.thr u) ((s.election c).thr u) := by
  have hnodup := s.nodup_live c
  cases hl : s.live c with
  | nil => rw [hl] at hu; cases hu
  | cons l rest =>
    rw [hl] at hu hnodup
    obtain ⟨hnot, hrest⟩ := List.nodup_cons.mp hnodup
    rw [election_eq hl]
    show Elected _ _ ((rest.foldl (electStep false) (electStep true s l)).thr u)
    rcases List.mem_cons.mp hu with rfl | hur
    · rw [thr_foldl_of_forall _ _ _ _ fun s' t ht => electStep_thr_other false s' t u fun e => hnot (e ▸ ht)]
      simpa using electStep_thr_same hlen true
    · have hne : u ≠ l := fun e => hnot (e ▸ hur)
      have hstep := thr_foldl_rel (electStep false) id (Elected false) u (fun s' hk => electStep_thr_same hk false)
        (electStep_thr_other false) (electStep_length false) (by simpa using hrest) hur (electStep true s l)
        (by rwa [electStep_length])
      simp only [id, electStep_thr_other true s l u hne] at hstep
      rw [beq_eq_false_iff_ne.mpr (by simpa using hne.symm)]
      exact hstep

theorem election_leader {s : State} {c u : Nat} (hc : c < s.crews.length) (hu : (s.live c).head? = some u) :
    ((s.election c).crew c).leader = some (s.thr u).num := by
  cases hl : s.live c with
  | nil => rw [hl] at hu; cases hu
  | cons l rest =>
    rw [hl] at hu
    obtain rfl : l = u := Option.some.inj hu
    have hcrews : (rest.foldl (electStep false) (electStep true s l)).crews = s.crews :=
      foldl_keeps State.crews _ _ _ fun _ _ => rfl
    rw [election_eq hl, State.crew_updCrew, if_pos ⟨rfl, by rwa [hcrews]⟩]
    simp only [foldl_keeps (fun s => (s.thr l).num) _ _ _ fun s t => electStep_thr_num false s t l, electStep_thr_num]

/-! ### ELECT, WAKE and CBAR -/

theorem deliver_trap (i : Iss) (s : State) (c : TrapInfo) : deliver i (.trap s c) = s.raise c := rfl
theorem deliver_stay (i : Iss) (s : State) : deliver i (.stay s) = s := rfl

theorem exec_elect_joins {s : State} {t : Nat} {h : Hdr} (hc : s.cur = .thread t) (hj : s.joins (.elect h) = true) :
    exec (.elect h) s = .next (if (s.crew (s.crewOf t)).leader = none then (s.reforms.waitAt t (.elect h.d)).tryRdv (s.crewOf t)
      else s.reforms.raise illegalRdv) := by
  rw [exec_elect, execElect, issueI_arrives_brk (i := ⟨{ brk := true, coll := true }, h, [], .p h.d⟩) hj rfl rfl, State.reforms_t,
    State.t_of_cur hc, State.reforms_crewOf, State.reforms_crew]
  cases (s.crew (s.crewOf t)).leader with
  | some l => rfl
  | none =>
    rw [if_neg (by decide), deliver_stay, State.hold_thread (by rw [State.reforms_cur, hc])]
    rfl

theorem exec_wake_runs {s : State} {t : Nat} {h : Hdr} (hc : s.cur = .thread t) (hr : s.runs (.wake h) = true) :
    exec (.wake h) s = .next (if s.isLeader t then (s.reforms.wakeCrew (s.crewOf t)).goesOn (s.thr t).r.broke
      else s.reforms.raise illegalRdv) := by
  rw [exec_wake, execWake, issueI_ready_brk (i := ⟨aBrk, h, [], .none⟩) hr rfl, State.reforms_t, State.t_of_cur hc, State.reforms_isLeader,
    State.reforms_crewOf]
  split
  · rw [deliver_broke rfl, State.curRegs_of_cur (t := t) (by rw [wakeCrew_cur, State.reforms_cur, hc]), wakeCrew_r, State.reforms_thr]
  · rfl

theorem exec_cbar_leader {s : State} {t : Nat} {h : Hdr} (hc : s.cur = .thread t) (hj : s.joins (.cbar h) = true)
    (hl : s.isLeader t = true) : exec (.cbar h) s = .next (s.raise illegalRdv) := by
  rw [exec_cbar, execCbar, issueI_arrives_brk (i := ⟨{ brk := true, coll := true }, h, [], .none⟩) hj rfl rfl,
    State.reforms_of_leader hc hl, State.t_of_cur hc, if_pos hl, deliver_trap]
  rfl

/-- Settles O11: the last arrival's election, the wake of the crew, and the three refusals. -/
theorem leaders : Obligations.Leaders := by
  unfold Obligations.Leaders
  intro s t h hc ht hlive hcrew
  dsimp only
  refine ⟨fun hj hnone harr => ?election, fun hj hsome => ?elect, fun hr hl => ?wake, fun hr hl => ?noWake, exec_cbar_leader hc⟩
  case election =>
    have hlt : t < s.reforms.threads.length := by rwa [State.reforms_threads]
    have hwait : (s.reforms.waitAt t (.elect h.d)).live (s.crewOf t) = s.live (s.crewOf t) := by
      rw [State.waitAt_live (by rwa [State.reforms_live]), State.reforms_live]
    have hst : ∀ u d, (u = t ∧ d = h.d ∨ u ≠ t ∧ (s.thr u).st = .waiting (.elect d)) →
        ((s.reforms.waitAt t (.elect h.d)).thr u).st = .waiting (.elect d) := by
      rintro u d (⟨rfl, rfl⟩ | ⟨hu, hd⟩)
      · rw [State.waitAt_thr_same hlt]
      · rw [State.waitAt_thr_other hu, State.reforms_thr, hd]
    have hall : ∀ u ∈ (s.reforms.waitAt t (.elect h.d)).live (s.crewOf t),
        rdvOf ((s.reforms.waitAt t (.elect h.d)).thr u) = .elect := by
      intro u hu
      rw [hwait] at hu
      refine rdvOf_eq_elect.mpr ?_
      by_cases hut : u = t
      · exact ⟨_, hst u h.d (.inl ⟨hut, rfl⟩)⟩
      · obtain ⟨d, hd⟩ := harr u hu hut
        exact ⟨d, hst u d (.inr ⟨hut, hd⟩)⟩
    have hexec := exec_elect_joins hc hj
    rw [if_pos hnone, tryRdv_of_elect (u := t) (by rwa [hwait]) hall] at hexec
    refine ⟨_, hexec, fun u hu d hd => ?_⟩
    obtain ⟨hst', hr'⟩ := election_thr (hwait ▸ hu) (State.lt_of_waiting (hst u d hd)) d (hst u d hd)
    rw [State.waitAt_thr_r, State.reforms_thr] at hr'
    rw [hwait] at hst' hr'
    split
    · rename_i hhead
      have hlead := election_leader (s := s.reforms.waitAt t (.elect h.d)) (c := s.crewOf t) (u := u)
        (by simpa [State.waitAt] using hcrew) (by rw [hwait, hhead])
      rw [State.waitAt_thr_num, State.reforms_thr] at hlead
      simp only [hhead, beq_self_eq_true, if_true] at hst' hr'
      exact ⟨hlead, hst', hr'⟩
    · rename_i hhead
      simp only [beq_eq_false_iff_ne.mpr hhead, Bool.false_eq_true, if_false] at hst' hr'
      exact ⟨hst', hr'⟩
  case elect =>
    rw [exec_elect_joins hc hj, if_neg hsome]
    rfl
  case wake =>
    have hlt : t < (s.reforms.wakeCrew (s.crewOf t)).threads.length := by rwa [wakeCrew_length, State.reforms_threads]
    rw [exec_wake_runs hc hr, if_pos hl, State.goesOn_thread (t := t) (by rw [wakeCrew_cur, State.reforms_cur, hc])]
    refine ⟨_, rfl, ?_, ?_, fun u hu hut hsleep => ?_⟩
    · rw [State.crew, State.updThr_crews]
      exact wakeCrew_leader (by rwa [State.reforms_crews])
    · rw [State.thr_updThr_same hlt]
    · rw [State.thr_updThr_other hut.symm, wakeCrew_r, State.reforms_thr]
      exact ⟨wakeCrew_sleeping (by simpa [State.crewThreads] using hu) (by rwa [State.reforms_thr]), rfl⟩
  case noWake =>
    rw [exec_wake_runs hc hr, if_neg (by rw [hl]; decide)]
    rfl

end Sys2Proof.Machine
end

section
/-! PROOFS. Collectives of a crew (O33). -/

namespace Sys2Proof.Machine

/-- The collectives of R227 to R231 with header h. -/
def collsOf (h : Hdr) (a b : Src) (e e2 : Bool) (sm : ShflMode) (lg : BitVec 3) (ln : BitVec 5) (op : RedOp) (ty : RedTy) (rm : Rnd)
    (q : BitVec 4) (vm : VoteMode) : List Instr :=
  [.packbfp h a e, .unpackbfp h a e, .hadam h a e, .shfl h a b sm lg e, .bcast h a ln e, .redux h a op ty rm, .scan h a op ty rm e,
    .matchv h a e e2, .vote h q e vm]

/-- Every collective has the header it was written with and issues as a rendezvous. -/
theorem exec_collsOf {s : State} {h : Hdr} {a b : Src} {e e2 : Bool} {sm : ShflMode} {lg : BitVec 3} {ln : BitVec 5} {op : RedOp} {ty : RedTy}
    {rm : Rnd} {q : BitVec 4} {vm : VoteMode} {i : Instr} (hi : i ∈ collsOf h a b e e2 sm lg ln op ty rm q vm) :
    collHdr i = h ∧ ∃ ops, s.issOf i = some ⟨{ brk := true, coll := true }, collHdr i, ops, collDst i⟩ ∧ exec i s = issColl i ops s := by
  simp only [collsOf, List.mem_cons, List.not_mem_nil, or_false] at hi
  rcases hi with rfl | rfl | rfl | rfl | rfl | rfl | rfl | rfl | rfl <;> exact ⟨rfl, _, rfl, rfl⟩

theorem reforms_rdvCfg (s : State) (c : Nat) : s.reforms.rdvCfg c = s.rdvCfg c := by
  obtain ⟨q, hq⟩ := s.reforms_eq
  rw [hq]
  rfl

/-- NUMCFG of an open rendezvous is that of the first thread in it. -/
theorem rdvCfg_of_first {s : State} {c l : Nat} {rest : List Nat} {j : Instr} {g f : Bool} {sp : Nat} (hl : s.live c = l :: rest)
    (hst : (s.thr l).st = .waiting (.coll j g f sp)) : s.rdvCfg c = (f, sp) := by
  simp only [State.rdvCfg, hl, List.findSome?_cons, hst]

/-- A thread that is no leader arrives at its collective and waits; if it is the last, the rendezvous completes. -/
theorem exec_coll_joins {s : State} {t : Nat} {i : Instr} {ops : List Opd} (hc : s.cur = .thread t) (hj : s.joins i = true)
    (hiss : s.issOf i = some ⟨{ brk := true, coll := true }, collHdr i, ops, collDst i⟩) (hexec : exec i s = issColl i ops s) :
    exec i s = .next (if s.isLeader t then s.reforms.raise illegalRdv
      else (s.reforms.waitAt t (.coll i (s.curRegs.guard (collHdr i)) (s.rdvCfg (s.crewOf t)).1 (s.rdvCfg (s.crewOf t)).2)).tryRdv
        (s.crewOf t)) := by
  rw [State.joins, hiss] at hj
  rw [hexec, issColl, issueI_arrives_brk hj rfl rfl, arrive, State.reforms_t, State.t_of_cur hc, State.reforms_isLeader,
    State.reforms_crewOf]
  split
  · rfl
  · rw [deliver_stay, State.hold_thread (by rw [State.reforms_cur, hc]), reforms_rdvCfg]
    rfl

/-! ### A collective completes (R35) -/

/-- What an active thread receives, and what every arrived thread goes on with. -/
def collStep (s₀ : State) (c : Nat) (f : Bool) (sp : Nat) (s : State) (i : Nat) : State :=
  match (s₀.partAt c i).map fun p => (p, s₀.collRes c f sp p.instr i) with
  | some (p, x, fl) => s.updThr p.thread fun y =>
      let y := if p.active then { y with r := y.r.setDst (collDst p.instr) x, status := y.status ||| fl } else y
      y.goOn s.cyc.toNat none
  | none => s

theorem collective_eq (s : State) (c : Nat) (f : Bool) (sp : Nat) : s.collective c f sp = (List.range 32).foldl (collStep s c f sp) s := by
  rw [State.collective, List.foldl_map]
  rfl

theorem collStep_other {s₀ s : State} {c i u : Nat} {f : Bool} {sp : Nat} (h : u ≠ (s₀.crew c).base + i) :
    (collStep s₀ c f sp s i).thr u = s.thr u := by
  unfold collStep
  cases hp : s₀.partAt c i with
  | none => rfl
  | some p => exact State.thr_updThr_other (fun e => h (e.symm.trans (partAt_some hp).1)) _

theorem collStep_length (s₀ : State) (c : Nat) (f : Bool) (sp : Nat) (s : State) (i : Nat) :
    (collStep s₀ c f sp s i).threads.length = s.threads.length := by
  unfold collStep
  split
  · exact s.length_updThr _ _
  · rfl

theorem collStep_mem (s₀ : State) (c : Nat) (f : Bool) (sp : Nat) (s : State) (i : Nat) : (collStep s₀ c f sp s i).mem = s.mem := by
  unfold collStep
  split <;> rfl

/-- A thread before and after its collective: ready past it, with the result and its flags if it was active. -/
def Collected (i : Instr) (g : Bool) (res : DWord × BitVec 9) (x y : Thread) : Prop :=
  y.st = .ready ∧ y.r = (if g then x.r.setDst (collDst i) res.1 else x.r).broke ∧ y.status = if g then x.status ||| res.2 else x.status

theorem collStep_own {s₀ s : State} {c i : Nat} {f : Bool} {sp : Nat} {ins : Instr} {g : Bool} {f' : Bool} {sp' : Nat}
    (hst : (s₀.thr ((s₀.crew c).base + i)).st = .waiting (.coll ins g f' sp')) (hl : (s₀.crew c).base + i < s.threads.length) :
    Collected ins g (s₀.collRes c f sp ins i) (s.thr ((s₀.crew c).base + i)) ((collStep s₀ c f sp s i).thr ((s₀.crew c).base + i)) := by
  have hp : s₀.partAt c i = some ⟨(s₀.crew c).base + i, ins, g⟩ := by simp only [State.partAt, hst]
  simp only [collStep, hp, Option.map_some]
  rw [State.thr_updThr_same hl]
  cases g <;> exact ⟨rfl, rfl, rfl⟩

theorem collective_mem (s : State) (c : Nat) (f : Bool) (sp : Nat) : (s.collective c f sp).mem = s.mem := by
  rw [collective_eq]
  exact foldl_keeps State.mem _ _ _ fun s' i => collStep_mem s c f sp s' i

theorem collective_thr {s : State} {c n : Nat} {f : Bool} {sp : Nat} {ins : Instr} {g : Bool} {f' : Bool} {sp' : Nat} (hn : n < 32)
    (hst : (s.thr ((s.crew c).base + n)).st = .waiting (.coll ins g f' sp')) :
    Collected ins g (s.collRes c f sp ins n) (s.thr ((s.crew c).base + n)) ((s.collective c f sp).thr ((s.crew c).base + n)) := by
  rw [collective_eq]
  exact thr_foldl_rel (collStep s c f sp) (fun i => (s.crew c).base + i) _ n (fun s' hl => collStep_own hst hl)
    (fun s' j u => collStep_other) (collStep_length s c f sp) (List.nodup_range.map fun _ _ => Nat.add_left_cancel)
    (List.mem_range.mpr hn) s (State.lt_of_waiting hst)

/-- Settles O33: by the rendezvous of a crew, with a thread missing, with all at one collective, or with all at different ones. -/
theorem collectiveArrival : Obligations.CollectiveArrival := by
  unfold Obligations.CollectiveArrival
  intro s t h a b e e2 sm lg ln op ty rm q vm i hc ht hlive hi hj
  dsimp only
  obtain ⟨hhdr, ops, hiss, hex⟩ := exec_collsOf (s := s) hi
  have hexec := exec_coll_joins hc hj hiss hex
  rw [hhdr] at hexec
  refine ⟨fun hlead => by rw [hexec, if_pos hlead]; rfl, fun hlead => ?_⟩
  rw [if_neg (by rw [hlead]; decide)] at hexec
  generalize hcfg : s.rdvCfg (s.crewOf t) = cfg at hexec ⊢
  have hs1 : (s.reforms.updThr t fun x => { x with st := .waiting (.coll i (s.curRegs.guard h) cfg.1 cfg.2) }) =
      s.reforms.waitAt t (.coll i (s.curRegs.guard h) cfg.1 cfg.2) := rfl
  rw [hs1]
  have hwait : (s.reforms.waitAt t (.coll i (s.curRegs.guard h) cfg.1 cfg.2)).live (s.crewOf t) = s.live (s.crewOf t) := by
    rw [State.waitAt_live (by rwa [State.reforms_live]), State.reforms_live]
  have hown : ((s.reforms.waitAt t (.coll i (s.curRegs.guard h) cfg.1 cfg.2)).thr t).st =
      .waiting (.coll i (s.curRegs.guard h) cfg.1 cfg.2) := by
    rw [State.waitAt_thr_same (by rwa [State.reforms_threads])]
  have hother : ∀ u, u ≠ t → (s.reforms.waitAt t (.coll i (s.curRegs.guard h) cfg.1 cfg.2)).thr u = s.thr u := fun u hu => by
    rw [State.waitAt_thr_other hu, State.reforms_thr]
  have hpc : ∀ u, ((s.reforms.waitAt t (.coll i (s.curRegs.guard h) cfg.1 cfg.2)).thr u).r = (s.thr u).r := fun u => by
    rw [State.waitAt_thr_r, State.reforms_thr]
  have hlen : (s.reforms.waitAt t (.coll i (s.curRegs.guard h) cfg.1 cfg.2)).threads.length = s.threads.length := by
    rw [State.waitAt, State.length_updThr, State.reforms_threads]
  have hmem : (s.reforms.waitAt t (.coll i (s.curRegs.guard h) cfg.1 cfg.2)).mem = s.mem := s.reforms_mem
  generalize s.reforms.waitAt t (.coll i (s.curRegs.guard h) cfg.1 cfg.2) = s1 at hexec hwait hown hother hpc hlen hmem ⊢
  refine ⟨fun ⟨u, hu, hut, hn⟩ => ?absent, fun harr => ?complete, fun harr ⟨u, hu, hut, hdiff⟩ => ?mismatch⟩
  case absent => rw [hexec, tryRdv_of_absent (hwait ▸ hu) (by rw [hother u hut, hn])]
  case complete =>
    have hcoll : ∀ u ∈ s1.live (s.crewOf t), ∃ j g f sp, rdvOf (s1.thr u) = .coll j g f sp ∧ collKey j = collKey i := by
      intro u hu
      by_cases hut : u = t
      · exact ⟨_, _, _, _, rdvOf_eq_coll.mpr (hut ▸ hown), rfl⟩
      · obtain ⟨j, g, f, sp, hst, hk⟩ := harr u (hwait ▸ hu) hut
        exact ⟨j, g, f, sp, rdvOf_eq_coll.mpr (by rw [hother u hut, hst]), hk⟩
    have hfull : s1.tryRdv (s.crewOf t) = s1.collective (s.crewOf t) cfg.1 cfg.2 := by
      cases hl : s1.live (s.crewOf t) with
      | nil => rw [← hwait, hl] at hlive; cases hlive
      | cons l rest =>
        rw [hl] at hcoll
        obtain ⟨j, g, f, sp, hfirst, hkl⟩ := hcoll l List.mem_cons_self
        have hcfgl : cfg = (f, sp) := by
          by_cases hlt : l = t
          · rw [hlt, rdvOf_eq_coll.mpr hown] at hfirst
            cases hfirst
            rfl
          · rw [rdvOf_eq_coll, hother l hlt] at hfirst
            rw [← hcfg, rdvCfg_of_first (hwait ▸ hl) hfirst]
        rw [hcfgl]
        refine tryRdv_of_coll hl hfirst fun u hu => ?_
        obtain ⟨j', g', f', sp', hst, hk⟩ := hcoll u (List.mem_cons_of_mem _ hu)
        exact ⟨j', g', f', sp', hst, hk.trans hkl.symm⟩
    refine ⟨_, hexec, ?_, fun n hn ins g f sp _ hst => ?_⟩
    · rw [hfull, collective_mem, hmem]
    · rw [hfull]
      exact collective_thr hn hst
  case mismatch =>
    have hstop : s1.tryRdv (s.crewOf t) = s1.mismatch (s.crewOf t) := by
      refine tryRdv_of_mismatch (u := u) (fun v hv => ?_) (hwait ▸ hlive) (rdvOf_eq_coll.mpr hown) (hwait ▸ hu) fun j g f sp hr => ?_
      · by_cases hvt : v = t
        · rw [hvt, rdvOf_eq_coll.mpr hown]
          nofun
        · rw [hother v hvt]
          exact harr v (hwait ▸ hv) hvt
      · rw [rdvOf_eq_coll, hother u hut] at hr
        exact hdiff j g f sp hr
    refine ⟨_, hexec, fun v hv hvl => ?_⟩
    rw [hstop, ← hpc v]
    exact mismatch_thr (hwait ▸ hv) (by rwa [hlen])

end Sys2Proof.Machine
end

section
/-! PROOFS. The counterexamples to O12 and O41. -/

namespace Sys2Proof.Machine

/-! ### TILEBAR by a thread of a saved workgroup (R213) -/

/-- Workgroup 0 is marked saved while thread 0 of it runs; workgroup 1 has its coordinates, and its one live thread, thread 32, waits at
TILEBAR. Threads 0 and 1 are live in workgroup 0. -/
def tilebarOfSavedWg : State :=
  { cur := .thread 0
    threads := {} :: {} :: List.replicate 30 { st := .exited } ++
      { crew := 1, st := .waiting .tilebar } :: List.replicate 31 { crew := 1, st := .exited }
    crews := [{}, { wg := 1, base := 32 }]
    wgs := [{ started := true, stage := .saved }, { started := true, stage := .active, base := 1 }] }

/-- The state of a thread after an instruction that has a next state. -/
def stAfter (u : Nat) : Host.Outcome State Fault Refusal → Option TState
  | .next s => some (s.thr u).st
  | _ => none

/-- Refutes O12: thread 1 has not arrived at the TILEBAR of `tilebarOfSavedWg`, but the tile has no place for a saved workgroup, so
that thread 0's TILEBAR releases thread 32, which the statement leaves waiting. -/
theorem not_barriers : ¬ Obligations.Barriers := by
  unfold Obligations.Barriers
  intro h
  obtain ⟨-, -, -, hwaits, -⟩ := h tilebarOfSavedWg 0 hdr0 rfl (by decide)
  have hexec := hwaits (by decide +kernel) (by decide +kernel) (by decide +kernel) (by decide +kernel) (.inl ⟨1, by decide, by decide, by decide⟩)
  have hst := congrArg (stAfter 32) hexec
  exact absurd hst (by decide +kernel)

/-! ### Bundles inside a chain while TIMER holds their crew (R28) -/

/-- Thread 0 is inside a chain, alone in its bundle, when TIMER holds its crew (R347). -/
def timerInChain : State :=
  { threads := [{ r := { k := 1 } }]
    crews := [{ timer := true }]
    bundles := [{ core := 0, quad := 0, threads := [0] }] }

/-- The bundles after an event that has a next state. -/
def bundlesAfter : Host.Outcome State Fault Refusal → List Bundle
  | .next s => s.bundles
  | _ => []

/-- Refutes O41: re-forming keeps a bundle inside a chain as it is, and in `timerInChain` its thread may not issue. -/
theorem not_threadEvents : ¬ Obligations.ThreadEvents := by
  unfold Obligations.ThreadEvents
  intro h
  obtain ⟨-, hreform, -⟩ := h timerInChain 0 0 0 0 0 0 0 0 0 0 0 .core none false { core := 0, quad := 0, threads := [] }
    { info := { cause := .timer }, opc := 0 } []
    { info := { cause := .timer }, part := 0, kind := 0, crew := 0, lane := 0, core := 0, ctx := 0, sup := false, tpc := 0, opc := 0, cyc := 0 }
    { id := 0, cause := 0, write := false, pkg := 0, ctx := 0, va := 0, len := 0, cyc := 0 } []
    { thread := 0, d := 0, vals := [], poison := none, pc := 0 } { core := 0, pa := 0, bytes := [], wv := false, gen := 0 } { gen := 0 }
    { part := 0, thread := none, d := 0, ctx := 0, va := 0, size := 0, old := 0, dst := 0, v0 := [], slot := 0, lvl := 0, switching := false,
      since := 0 } 0
  obtain ⟨bs, hexec, -, hmay⟩ := hreform (by decide)
  have hbs : bs = [{ core := 0, quad := 0, threads := [0] }] :=
    (congrArg bundlesAfter hexec).symm.trans (by decide)
  exact absurd (hmay _ (hbs ▸ List.mem_cons_self) (by decide) 0 List.mem_cons_self) (by decide)

end Sys2Proof.Machine
end

section
/-! PROOFS. Contexts: stop, save and restoration (O42). -/

namespace Sys2Proof.Machine

/-! ### Records of partitions and contexts after a change -/

theorem State.part_updPart (s : State) (p r : Nat) (f : Part → Part) :
    (s.updPart p f).part r = if r = p then f (s.part p) else s.part r := Store.get_upd s.parts p r f

theorem State.ctx_updCtx_same (s : State) (p c : Nat) (f : CtxRun → CtxRun) :
    ((s.updCtx p c f).part p).ctxs.get c = f ((s.part p).ctxs.get c) := by
  rw [State.updCtx, State.part_updPart, if_pos rfl, Store.get_upd, if_pos rfl]

/-! ### The events -/

theorem advanceAll_eq (s : State) (p c : Nat) :
    s.advanceAll p c = (((s.part p).ctxs.get c).bos).foldl (fun s b => s.advanceOr p c b.1 b.2) (s.updCtx p c fun y => { y with bos := [] }) := rfl

theorem exec_contextStopped_stopping {s : State} {p : Nat} {ctx : BitVec 16} (h : s.ctxPhase p ctx.toNat = 2) :
    exec (.contextStopped p ctx) s = .next (if s.ctxQuiet p ctx.toNat then
      (s.updCtx p ctx.toNat fun x =>
        if (s.ctxLaunches p ctx.toNat).isEmpty then { x with phase := 0, preempted := false } else { x with phase := 3 }).advanceAll p ctx.toNat
      else s) := by
  rw [exec_contextStopped, execContextStopped, if_pos h]
  exact (apply_ite Host.Outcome.next _ _ _).symm

theorem exec_ctxloadRestore_loading {s : State} {p : Nat} {ctx : BitVec 16} (h : s.ctxPhase p ctx.toNat = 5) :
    exec (.ctxloadRestore p ctx) s =
      match s.restore p ctx.toNat ((s.part p).ctxs.get ctx.toNat).image with
      | none => .next s
      | some s1 =>
        let x := (s.part p).ctxs.get ctx.toNat
        let done := ((s1.updCtx p ctx.toNat fun y => { y with phase := if y.preempted then 2 else 0, image := [], thread := none }).wake).advanceOr
          p ctx.toNat x.areaCtx (BitVec.ofNat 64 (imgNat x.image 0x10 8))
        match x.thread with
        | some t => .next (if (done.thr t).st == .fetchSuspended (.image ctx.toNat) then done.updThr t fun y => y.goOn done.cyc.toNat none else done)
        | none => .next done := by
  rw [exec_ctxloadRestore]
  exact if_pos h

/-- No restoration brings the launches in states 1 and 2 beyond 1,024 (R368; log 89). -/
theorem restore_of_full {s : State} {p c : Nat} {bs : List Byte} (h : 1024 < s.launchCount + (imgLaunches bs).length) :
    s.restore p c bs = none := if_pos h

/-- Settles O42, phase by phase. -/
theorem contextEvents : Obligations.ContextEvents := by
  unfold Obligations.ContextEvents
  intro s p ctx
  dsimp only
  refine ⟨fun hph hq => ?stopped, fun hph hq => ?notYet, fun s2 bo hph hq hrel hw => ?saved, fun hph hfull => ?full,
    fun s1 hph hres => ?restored⟩
  case stopped =>
    have hbos : (((s.updCtx p ctx.toNat fun x =>
        if (s.ctxLaunches p ctx.toNat).isEmpty then { x with phase := 0, preempted := false } else { x with phase := 3 }).part p).ctxs.get
          ctx.toNat).bos = ((s.part p).ctxs.get ctx.toNat).bos := by
      rw [State.ctx_updCtx_same]
      split <;> rfl
    rw [exec_contextStopped_stopping hph, if_pos hq, advanceAll_eq, hbos]
    simp only [List.isEmpty_iff]
  case notYet => rw [exec_contextStopped_stopping hph, if_neg (by rw [hq]; decide)]
  case saved =>
    rw [exec_ctxsaveComplete, execCtxsaveComplete, if_pos (by rw [hph, hq]; rfl)]
    generalize s.releaseWgs (s.imageWgs p ctx.toNat) = r at hrel hw
    obtain ⟨s', ok⟩ := r
    obtain rfl : ok = true := hrel
    simp only [hw]
  case full => rw [exec_ctxloadRestore_loading hph, restore_of_full hfull]
  case restored =>
    rw [exec_ctxloadRestore_loading hph, hres]
    refine ⟨fun hnone => ?_, fun t ht hst => ?_⟩
    · simp only [hnone]
    · simp only [ht, hst, beq_self_eq_true, if_true]
      rfl

end Sys2Proof.Machine
end

section
/-! PROOFS. Basin commands and walkers (O45). -/

namespace Sys2Proof.Machine

/-! ### Starts (R89, R311, R312) -/

theorem exec_searchForward_front {s : State} {n : Nat} {c : Cmd} (hc : s.cmds[n]? = some c) (hlive : c.live = true)
    (hstart : c.started = false) (hstream : s.streamBusy (s.wgOfCrew c.crew) c.stream c.order = false) (hfwd : c.forwarded = false) :
    (∀ u i, s.dropCheck c = (u, .trap i) → exec (.searchForward n) s = .next (u.cmdDrop n c i)) ∧
      ∀ s2, (s.dropCheck c).2 = .ok () → (s.dropCheck c).1.frontCheck n c = some s2 → exec (.searchForward n) s = .next s2 := by
  rw [exec_searchForward, execSearchForward]
  simp only [hc, hlive, hstart, hfwd, hstream, Bool.not_false, Bool.and_self, Bool.not_true, Bool.false_eq_true, if_false]
  generalize s.dropCheck c = r
  obtain ⟨u, v⟩ := r
  refine ⟨fun u' i h => ?_, fun s2 hv hf => ?_⟩
  · cases h
    rfl
  · obtain rfl : v = .ok () := hv
    simp only [hf, Option.getD_some]

/-- The command's own checks of R312, with its target stack; of a SEARCH the front die made them. -/
def State.startOperands (s : State) (n : Nat) (c : Cmd) : State :=
  if c.kind = 1 then s else (s.dropCheck c).1.updCmd n fun x => { x with found := (s.dropCheck c).1.operandStack c.as (c.fx 0) }

/-- The checks of R89 of a command of each kind. -/
def State.startChecks (s : State) (c : Cmd) : State × Verdict :=
  if c.kind = 1 then s.checkSnap c (BitVec.ofNat 64 (c.d 0 64)) else if c.kind = 2 then s.checkScan c else s.checkRows c

theorem cmdReady_of {s : State} {c : Cmd} (hlive : c.live = true) (hstart : c.started = false)
    (hstream : s.streamBusy (s.wgOfCrew c.crew) c.stream c.order = false) (hheap : c.ranks = true → s.heapsUsed c.stack < 16)
    (hslice : c.kind = 1 → s.slicesUsed c.stack < 128) : s.cmdReady c = true := by
  have h₁ : (!c.ranks || decide (s.heapsUsed c.stack < 16)) = true := by
    cases hr : c.ranks with
    | false => rfl
    | true => simpa using hheap hr
  have h₂ : (c.kind != 1 || decide (s.slicesUsed c.stack < 128)) = true := by
    by_cases hk : c.kind = 1
    · simp [hslice hk]
    · simp [hk]
  rw [State.cmdReady, hlive, hstart, hstream, h₁, h₂]
  rfl

theorem exec_basinCommandStart_trap {s u : State} {n : Nat} {c : Cmd} {i : TrapInfo} (hc : s.cmds[n]? = some c) (hready : s.cmdReady c = true)
    (hfwd : c.forwarded = true) (hk : c.kind ≠ 1) (hdrop : s.dropCheck c = (u, .trap i)) :
    exec (.basinCommandStart n) s = .next (u.cmdDrop n c i) := by
  rw [exec_basinCommandStart, execBasinCommandStart]
  simp only [hc, hready, hfwd, Bool.and_self, Bool.not_true, Bool.false_eq_true, if_false, hk, hdrop]

/-- A command whose operands pass ends as its checks of R89 end. -/
theorem exec_basinCommandStart_checked {s s2 : State} {n : Nat} {c : Cmd} {v : Verdict} (hc : s.cmds[n]? = some c) (hready : s.cmdReady c = true)
    (hfwd : c.forwarded = true) (hdrop : c.kind ≠ 1 → (s.dropCheck c).2 = .ok ()) (hchk : (s.startOperands n c).startChecks c = (s2, v)) :
    exec (.basinCommandStart n) s = .next (match v with
      | .later => s
      | .reject st => s2.cmdReject n st
      | .pass snap => (s2.cmdBegin n c snap).getD s) := by
  rw [exec_basinCommandStart, execBasinCommandStart]
  simp only [hc, hready, hfwd, Bool.and_self, Bool.not_true, Bool.false_eq_true, if_false]
  by_cases hk : c.kind = 1
  · simp only [State.startChecks, State.startOperands, hk, if_true] at hchk
    simp only [hk, if_true, hchk]
    cases v <;> rfl
  · simp only [State.startChecks, State.startOperands, hk, if_false] at hchk
    have hd := hdrop hk
    generalize s.dropCheck c = r at hchk hd
    obtain ⟨u, o⟩ := r
    obtain rfl : o = .ok () := hd
    simp only [hk, if_false, hchk]
    cases v <;> rfl

theorem cmdStatus_updCmd {s : State} {n : Nat} {f : Cmd → Cmd} (hf : ∀ x, (f x).status = x.status) : (s.updCmd n f).cmdStatus n = s.cmdStatus n := by
  simp only [State.cmdStatus, State.updCmd_cmds, List.getElem?_modify_eq]
  cases s.cmds[n]? with
  | none => rfl
  | some c => exact hf c

/-- A row copy reads no query and starts no walker. -/
theorem cmdBegin_of_rowCopy {s : State} {n : Nat} {c : Cmd} {snap : Word} (hk : c.kind = 3) (hst : s.cmdStatus n = 0) :
    s.cmdBegin n c snap = some (s.updCmd n fun z => { z with started := true, snapshot := snap, slices := [] }) := by
  have hranks : c.ranks = false := by simp [Cmd.ranks, hk]
  have hstatus : (s.updCmd n fun z => { z with started := true, snapshot := snap, slices := [] }).cmdStatus n = 0 :=
    (cmdStatus_updCmd (f := fun z => { z with started := true, snapshot := snap, slices := [] }) fun _ => rfl).trans hst
  simp [State.cmdBegin, hranks, hk, hstatus]

/-! ### Completion and offers -/

theorem exec_basinCommandComplete_over {s s1 : State} {n : Nat} {c c1 : Cmd} (hc : s.cmds[n]? = some c) (hlive : c.live = true)
    (hstart : c.started = true) (hover : s.searchOver n c = true) (hlate : c.status = 0 → c.worked = false → s.cmdLate c = false)
    (hwork : s.cmdWork c = .ok s1 c1) :
    (∀ s2, s1.cmdFinish c1 = .ok s2 () → exec (.basinCommandComplete n) s = .next ((s2.updCmd n fun _ => c1).cmdLeave n c1)) ∧
      (∀ s2 i, s1.cmdFinish c1 = .fail s2 i → exec (.basinCommandComplete n) s = .next ((s2.updCmd n fun _ => c1).cmdDrop n c1 i)) ∧
      ∀ s2, s1.cmdFinish c1 = .busy s2 → exec (.basinCommandComplete n) s = .next (s2.updCmd n fun _ => c1) := by
  have hin : (c.status == 0 && !c.worked && s.cmdLate c) = false := by
    by_cases hst : c.status = 0
    · cases hw : c.worked with
      | true => simp
      | false => simp [hlate hst hw]
    · simp [hst]
  rw [exec_basinCommandComplete, execBasinCommandComplete]
  simp only [hc, hlive, hstart, hover, hin, hwork, Bool.and_self, Bool.not_true, Bool.or_self, Bool.false_eq_true, if_false]
  exact ⟨fun s2 h => by rw [h], fun s2 i h => by rw [h], fun s2 h => by rw [h]⟩

theorem exec_basinCommandTimeout_late {s : State} {n : Nat} {c : Cmd} (hc : s.cmds[n]? = some c) (hlive : c.live = true)
    (hstart : c.started = true) (hrej : c.rejected = false) (hwork : c.worked = false) (hst : c.status = 0) (hlate : s.cmdLate c = true) :
    exec (.basinCommandTimeout n) s = .next ((s.updCmd n fun z => { z with status := 8 }).endWalkers n) := by
  rw [exec_basinCommandTimeout, execBasinCommandTimeout]
  simp only [hc, hlive, hstart, hrej, hwork, hst, hlate, Bool.not_false, Bool.and_self, beq_self_eq_true, if_true]

theorem exec_heapOffer_oldest {s : State} {n : Nat} {c : Cmd} {y : Word × Word} {ys : List (Word × Word)} (hc : s.cmds[n]? = some c)
    (hlive : c.live = true) (hst : c.status = 0) (hoff : c.offers = y :: ys) :
    exec (.heapOffer n) s = .next ((s.updCmd n fun z =>
      { z with heap := heapOffer c.flt c.k c.heap y, offers := ys, merged := c.merged + 1 }).offersReached n (c.merged + 1)) := by
  rw [exec_heapOffer, execHeapOffer]
  simp only [hc, hoff, hlive, hst, beq_self_eq_true, Bool.and_self, if_true]

/-! ### Walkers and their places (R45, R80, R82) -/

theorem lt_of_walker {s : State} {w : Nat} {x : Walker} (hx : s.walkers[w]? = some x) : w < s.walkers.length :=
  (List.getElem?_eq_some_iff.mp hx).1

theorem State.wlk_of_getElem? {s : State} {w : Nat} {x : Walker} (hx : s.walkers[w]? = some x) : s.wlk w = x := by
  rw [State.wlk, List.getD_eq_getElem?_getD, hx]
  rfl

theorem getElem?_updWlk {s : State} {w : Nat} {x : Walker} (hx : s.walkers[w]? = some x) (f : Walker → Walker) :
    (s.updWlk w f).walkers[w]? = some (f x) := by
  rw [State.updWlk_walkers, List.getElem?_modify_eq, hx]
  rfl

/-- A free slice of the visited-set store is there to be had: held already, or not all in use. -/
theorem takeSlice_of_free {s : State} {n stk : Nat} {c : Cmd} (hc : s.cmds[n]? = some c)
    (hfree : stk ∈ c.slices ∨ s.slicesUsed stk < 128) :
    ∃ s', s.takeSlice n stk = some s' ∧ s'.walkers = s.walkers ∧ s'.mem = s.mem ∧ ∃ c', s'.cmds[n]? = some c' ∧ stk ∈ c'.slices := by
  by_cases hin : stk ∈ c.slices
  · exact ⟨s, by simp [State.takeSlice, hc, hin], rfl, rfl, c, hc, hin⟩
  · have hlt := hfree.resolve_left hin
    refine ⟨s.updCmd n fun x => { x with slices := x.slices ++ [stk] }, by simp [State.takeSlice, hc, hin, hlt], rfl, rfl,
      { c with slices := c.slices ++ [stk] }, ?_, List.mem_append_right _ List.mem_cons_self⟩
    rw [State.updCmd_cmds, List.getElem?_modify_eq, hc]
    rfl

/-- A walker with a place in its engine and a slice runs. -/
theorem walkerRun_of_place {s : State} {w : Nat} {x : Walker} {c : Cmd} (hx : s.walkers[w]? = some x) (hc : s.cmds[x.cmd]? = some c)
    (hplace : s.engineUsed x.stack x.engine < 64) (hfree : x.stack ∈ c.slices ∨ s.slicesUsed x.stack < 128) :
    (s.walkerRun w).walkers[w]? = some { x with phase := .running } ∧ (s.walkerRun w).mem = s.mem ∧
      ∃ c', (s.walkerRun w).cmds[x.cmd]? = some c' ∧ x.stack ∈ c'.slices := by
  obtain ⟨s', htake, hwalkers, hmem, hcmd⟩ := takeSlice_of_free hc hfree
  have hrun : s.walkerRun w = s'.updWlk w fun x => { x with phase := .running } := by
    simp only [State.walkerRun, State.wlk_of_getElem? hx, State.enginePlace, hplace, decide_true, if_true, htake]
  rw [hrun]
  exact ⟨getElem?_updWlk (hwalkers ▸ hx) _, hmem, hcmd⟩

/-- A change of an element that is not selected, before or after, leaves the selection as it is. -/
theorem filter_modify_of_not {α : Type} {p : α → Bool} {f : α → α} {l : List α} {i : Nat} {x : α} (hi : l[i]? = some x) (hx : p x = false)
    (hfx : p (f x) = false) : (l.modify i f).filter p = l.filter p := by
  induction l generalizing i with
  | nil => cases hi
  | cons y r ih =>
    cases i with
    | zero =>
      obtain rfl : y = x := Option.some.inj hi
      simp [List.modify_zero_cons, hx, hfx]
    | succ i => rw [List.modify_succ_cons, List.filter_cons, List.filter_cons, ih hi]

/-- A walker that moves holds no place, neither on the way nor where it waits. -/
theorem engineUsed_of_hop {s : State} {w k stk eng : Nat} {x : Walker} (hx : s.walkers[w]? = some x) (hph : x.phase = .hopping k) :
    (s.updWlk w fun z => { z with stack := k, phase := .resuming }).engineUsed stk eng = s.engineUsed stk eng := by
  rw [State.engineUsed, State.updWlk_walkers, filter_modify_of_not hx]
  · rfl
  · rw [hph]
    exact Bool.and_false _
  · exact Bool.and_false _

/-- Settles O45, event by event. -/
theorem basinEvents : Obligations.BasinEvents := by
  unfold Obligations.BasinEvents
  intro s n w eng stk c x y ys
  refine ⟨fun hc hlive hstart hstream => ⟨exec_searchForward_front hc hlive hstart hstream, fun hfwd hheap hslice => ?start⟩,
    fun hc hlive hstart => ⟨fun s1 c1 => exec_basinCommandComplete_over hc hlive hstart, exec_basinCommandTimeout_late hc hlive hstart⟩,
    exec_heapOffer_oldest, fun hx hc => ⟨fun hph hplace hfree => ?childStart, fun hph hplace hfree => ?hop, fun hph heng hne hplace => ?steal⟩⟩
  case start =>
    have hready := cmdReady_of hlive hstart hstream hheap hslice
    refine ⟨fun hk u i => exec_basinCommandStart_trap hc hready hfwd hk, fun hdrop => ⟨fun s2 st hchk => ?_, fun s2 snap s1 hchk hbegin => ?_,
      fun s2 snap hchk hk hst => ?_⟩⟩
    · exact exec_basinCommandStart_checked hc hready hfwd hdrop hchk
    · rw [exec_basinCommandStart_checked hc hready hfwd hdrop hchk]
      simp only [hbegin, Option.getD_some]
    · rw [exec_basinCommandStart_checked hc hready hfwd hdrop hchk]
      simp only [cmdBegin_of_rowCopy hk hst, Option.getD_some]
  case childStart =>
    refine ⟨_, ?_, walkerRun_of_place hx hc hplace hfree⟩
    rw [exec_walkerChildStart, execWalkerChildStart]
    simp only [hx, hph, beq_self_eq_true, if_true]
  case hop =>
    obtain ⟨hwalkers, hmem, hcmd⟩ := walkerRun_of_place (getElem?_updWlk hx fun z => { z with stack := stk, phase := .resuming }) hc
      (by rwa [engineUsed_of_hop hx hph]) hfree
    refine ⟨_, ?_, hwalkers, hmem, hcmd⟩
    rw [exec_walkerHopArrival, execWalkerHopArrival]
    simp only [hx, Option.map_some, hph]
  case steal =>
    rw [exec_walkerSteal, execWalkerSteal, State.wlk_of_getElem? hx]
    rcases hph with hph | hph <;>
      simp only [hph, State.enginePlace, lt_of_walker hx, heng, bne_iff_ne.mpr hne, hplace, decide_true, Bool.and_self, if_true]

end Sys2Proof.Machine
end

section
/-! PROOFS. Engine operations, tiles, joint operations, tarn rows (O44). -/

namespace Sys2Proof.Machine

/-! ### Rows of the tarn (R56, R278) -/

/-- Rows of a grid, column by column, as one list of places. -/
theorem foldl_grid {α : Type} (f : α → Nat → Nat → α) (rows cols : List Nat) (m : α) :
    rows.foldl (fun m i => cols.foldl (fun m c => f m i c) m) m = (rows.product cols).foldl (fun m p => f m p.1 p.2) m := by
  rw [List.product, List.foldl_flatMap]
  simp only [List.foldl_map]

theorem get_foldl_of_notMem {ι : Type} {f : Store Word → ι → Store Word} {k : ι → Nat} {v : ι → Word → Word}
    (hf : ∀ m i a, (f m i).get a = if a = k i then v i (m.get a) else m.get a) {l : List ι} {a : Nat} (ha : a ∉ l.map k) (m : Store Word) :
    (l.foldl f m).get a = m.get a := by
  induction l generalizing m with
  | nil => rfl
  | cons i r ih =>
    obtain ⟨hi, hr⟩ := not_or.mp (mt List.mem_cons.mpr ha)
    rw [List.foldl_cons, ih hr, hf, if_neg hi]

/-- Steps that each change a place of their own: every place is changed by its step alone. -/
theorem get_foldl_of_mem {ι : Type} {f : Store Word → ι → Store Word} {k : ι → Nat} {v : ι → Word → Word}
    (hf : ∀ m i a, (f m i).get a = if a = k i then v i (m.get a) else m.get a) {l : List ι} (hn : (l.map k).Nodup) {i : ι} (hi : i ∈ l)
    (m : Store Word) : (l.foldl f m).get (k i) = v i (m.get (k i)) := by
  induction l generalizing m with
  | nil => cases hi
  | cons j r ih =>
    obtain ⟨hj, hr⟩ := List.nodup_cons.mp hn
    rw [List.foldl_cons]
    rcases List.mem_cons.mp hi with rfl | hi
    · rw [get_foldl_of_notMem hf hj, hf, if_pos rfl]
    · rw [ih hr hi, hf, if_neg fun e : k i = k j => hj (e ▸ List.mem_map_of_mem hi)]

/-- Different places of the rows from a first one on have different keys. -/
theorem nodup_tarnKeys (b row0 n : Nat) :
    (((List.range n).product (List.range 256)).map fun p => tarnKey b (row0 + p.1) p.2).Nodup := by
  refine (List.nodup_range.product List.nodup_range).map_on fun p hp q hq h => ?_
  obtain ⟨-, hpc⟩ := List.pair_mem_product.mp hp
  obtain ⟨-, hqc⟩ := List.pair_mem_product.mp hq
  simp only [List.mem_range] at hpc hqc
  simp only [tarnKey] at h
  exact Prod.ext (by omega) (by omega)

/-- A pass over rows whose steps each change a place of their own. -/
theorem get_rows {f : Store Word → Nat → Nat → Store Word} {b row0 : Nat} {v : Nat → Nat → Word → Word}
    (hf : ∀ m i c a, (f m i c).get a = if a = tarnKey b (row0 + i) c then v i c (m.get a) else m.get a) {n i c : Nat} (hi : i < n)
    (hc : c < 256) (m : Store Word) :
    ((List.range n).foldl (fun m i => (List.range 256).foldl (fun m c => f m i c) m) m).get (tarnKey b (row0 + i) c) =
      v i c (m.get (tarnKey b (row0 + i) c)) := by
  rw [foldl_grid]
  exact get_foldl_of_mem (f := fun m (p : Nat × Nat) => f m p.1 p.2) (k := fun p => tarnKey b (row0 + p.1) p.2) (v := fun p => v p.1 p.2)
    (fun m p a => hf m p.1 p.2 a) (nodup_tarnKeys b row0 n) (i := (i, c))
    (List.pair_mem_product.mpr ⟨List.mem_range.mpr hi, List.mem_range.mpr hc⟩) m

theorem get_zeroRows {t : Store Word} {b n row col : Nat} (hrow : row < n) (hcol : col < 256) : (zeroRows t b 0 n).get (tarnKey b row col) = 0 := by
  have h := get_rows (f := fun t i c => t.set (tarnKey b (0 + i) c) 0) (b := b) (row0 := 0) (v := fun _ _ _ => 0)
    (fun m i c a => Store.get_set m _ a 0) hrow hcol t
  rwa [Nat.zero_add] at h

/-- Each element of the rows of a joint operation that no quarter masks is updated from what it was. -/
theorem get_passTarn {j : Joint} {f : MFmt} {data : List Byte} {m : Store Word} {row col : Nat} (hrow : row < j.rows.length) (hcol : col < 256) :
    (passTarn j f data m).get (tarnKey j.base (shRow0 j.shape + row) col) =
      if shQmask j.shape / 2 ^ (col / 64) % 2 = 1 then m.get (tarnKey j.base (shRow0 j.shape + row) col)
      else passElem j f data (j.rows.getD row []) col (m.get (tarnKey j.base (shRow0 j.shape + row) col)) := by
  refine get_rows (f := fun m i col => if shQmask j.shape / 2 ^ (col / 64) % 2 = 1 then m
    else m.set (tarnKey j.base (shRow0 j.shape + i) col) (passElem j f data (j.rows.getD i []) col (m.get (tarnKey j.base (shRow0 j.shape + i) col))))
    (v := fun i col old => if shQmask j.shape / 2 ^ (col / 64) % 2 = 1 then old else passElem j f data (j.rows.getD i []) col old)
    (fun m i c a => ?_) hrow hcol m
  by_cases hmask : shQmask j.shape / 2 ^ (c / 64) % 2 = 1
  · simp only [hmask, if_true, ite_self]
  · simp only [hmask, if_false]
    rw [Store.get_set]
    split
    · rename_i ha
      rw [ha]
    · rfl

/-! ### Cores and clusters after a change -/

theorem State.core_updCore (s : State) (c d : Nat) (f : CoreSt → CoreSt) :
    (s.updCore c f).core d = if d = c then f (s.core c) else s.core d := Store.get_upd s.cores c d f

theorem State.core_updCore_same (s : State) (c : Nat) (f : CoreSt → CoreSt) : (s.updCore c f).core c = f (s.core c) := by
  rw [State.core_updCore, if_pos rfl]

theorem Store.get_upd_same {α : Type} [Inhabited α] [DecidableEq α] (m : Store α) (a : Nat) (f : α → α) : (m.upd a f).get a = f (m.get a) := by
  rw [Store.get_upd, if_pos rfl]

/-! ### Engine operations (R44, R105, R289, R295) -/

theorem exec_engineOperationStart_ready {s : State} {n : Nat} {o : EngOp} (ho : s.ops[n]? = some o) (h9 : isClass9 o.instr = true)
    (hlive : o.live = true) (hph : o.phase = .queued) (hstream : s.streamBusy (s.opWg o) o.stream o.order = false)
    (hbook : s.bookBusy o = false) (hctx : s.ctxPhase (s.partOf o.thread) (s.ctxOf o.thread) = 0) (hreq : s.requests o.icore < 2048)
    (hcast : o.par.mcast = true → s.mcastReady (s.opWg o) = true) :
    exec (.engineOperationStart n) s = .next (s.updOp n fun x => { x with phase := .started }) := by
  have hm : (!o.par.mcast || s.mcastReady (s.opWg o)) = true := by
    cases hp : o.par.mcast with
    | false => rfl
    | true => exact hcast hp
  rw [exec_engineOperationStart, execEngineOperationStart]
  simp only [ho, hlive, h9, hph, hstream, hbook, hctx, hreq, hm, beq_self_eq_true, Bool.not_false, decide_true, Bool.and_self, if_true]

section
variable {s s1 s2 : State} {n k : Nat} {o : EngOp} {i : TrapInfo}

theorem exec_engineOperationComplete_ran (ho : s.ops[n]? = some o) (h9 : isClass9 o.instr = true) (hr : s.opRuns o = true)
    (hrun : s.opRun o = (.ok s1 (), k)) :
    (∀ s2, s1.opFinish n o = .ok s2 () → exec (.engineOperationComplete n) s = .next s2) ∧
      ∀ s2 i, s1.opFinish n o = .fail s2 i → exec (.engineOperationComplete n) s = .next (s2.opFail n o o.size i) := by
  rw [exec_engineOperationComplete, execEngineOperationComplete]
  simp only [ho, hr, h9, Bool.and_self, if_true, hrun]
  exact ⟨fun s2 h => by rw [h], fun s2 i h => by rw [h]⟩

theorem exec_engineOperationComplete_failed (ho : s.ops[n]? = some o) (h9 : isClass9 o.instr = true) (hr : s.opRuns o = true)
    (hrun : s.opRun o = (.fail s1 i, k)) : exec (.engineOperationComplete n) s = .next (s1.opFail n o k i) := by
  rw [exec_engineOperationComplete, execEngineOperationComplete]
  simp only [ho, hr, h9, Bool.and_self, if_true, hrun]

/-- An operation whose stream's writes are still to be performed before its failure is over runs no more. -/
theorem exec_engineOperationComplete_failing (ho : s.ops[n]? = some o) (hlive : o.live = true) (hph : o.phase = .failing i) :
    exec (.engineOperationComplete n) s = .next (s.opEnd n o o.prog i) := by
  have hr : s.opRuns o = false := by
    rw [State.opRuns, hph, hlive]
    rfl
  rw [exec_engineOperationComplete, execEngineOperationComplete]
  simp only [ho, hr, hph, hlive, Bool.false_and, Bool.false_eq_true, if_false, if_true]

theorem exec_engineOperationHeld_ran (ho : s.ops[n]? = some o) (h9 : isClass9 o.instr = true) (hr : s.opRuns o = true)
    (hrun : s.opRun o = (.ok s1 (), k)) :
    (∀ s2 i, s1.opFinish n o = .hold s2 i → exec (.engineOperationHeld n) s = .next (s2.opHold n o k i)) ∧
      ∀ s2, s1.opFinish n o = .busy s2 → exec (.engineOperationHeld n) s = .next (s2.updOp n fun x => { x with prog := k }) := by
  rw [exec_engineOperationHeld, execEngineOperationHeld]
  simp only [ho, hr, h9, Bool.and_self, if_true, hrun]
  exact ⟨fun s2 i h => by rw [h], fun s2 h => by rw [h]⟩

theorem exec_engineOperationHeld_held (ho : s.ops[n]? = some o) (h9 : isClass9 o.instr = true) (hr : s.opRuns o = true)
    (hrun : s.opRun o = (.hold s1 i, k)) : exec (.engineOperationHeld n) s = .next (s1.opHold n o k i) := by
  rw [exec_engineOperationHeld, execEngineOperationHeld]
  simp only [ho, hr, h9, Bool.and_self, if_true, hrun]

theorem exec_engineOperationHeld_busy (ho : s.ops[n]? = some o) (h9 : isClass9 o.instr = true) (hr : s.opRuns o = true)
    (hrun : s.opRun o = (.busy s1, k)) : exec (.engineOperationHeld n) s = .next (s1.updOp n fun x => { x with prog := k }) := by
  rw [exec_engineOperationHeld, execEngineOperationHeld]
  simp only [ho, hr, h9, Bool.and_self, if_true, hrun]

/-- An operation without a stream and without an object is over with its writes. -/
theorem opFinish_of_plain (hs : o.stream = 0) (hb : o.bo = none) : s.opFinish n o = .ok (s.opLeave n o) () := by
  simp [State.opFinish, hs, hb]

/-- The increment of the object comes after the writes, the count last. -/
theorem opFinish_of_object {bo : DWord} (hb : o.bo = some bo)
    (hposted : (if o.stream = 0 ∧ scopeWide o.scope = false then none else (s.opSettle o).postBlocked o.icore) = none)
    (hadv : ((s.opSettle o).boAdvance (some o.icore) ((s.opSettle o).opAs o) bo o.inc).2 = .ok ()) :
    s.opFinish n o = .ok (((s.opSettle o).boAdvance (some o.icore) ((s.opSettle o).opAs o) bo o.inc).1.opLeave n o) () := by
  have hp : (if o.stream = 0 && !scopeWide o.scope then none else (s.opSettle o).postBlocked o.icore) = none := by
    simpa [Bool.and_eq_true] using hposted
  rw [State.opFinish, hb]
  simp only [Option.isNone_some, Bool.and_false, Bool.false_eq_true, if_false, hp]
  generalize (s.opSettle o).boAdvance (some o.icore) ((s.opSettle o).opAs o) bo o.inc = r at hadv
  obtain ⟨s', v⟩ := r
  obtain rfl : v = .ok () := hadv
  rfl

/-- A held operation waits at its resume point for its service record. -/
theorem opHold_op (hn : n < s.ops.length) : ∃ x : EngOp, (s.opHold n o k i).ops[n]? = some x ∧ x.phase = .held i ∧ x.prog = k := by
  refine ⟨{ s.ops[n] with phase := .held i, prog := k }, ?_, rfl, rfl⟩
  rw [State.opHold, putRec_ops]
  show (s.ops.modify n fun x => { x with phase := .held i, prog := k })[n]? = _
  rw [List.getElem?_modify_eq, List.getElem?_eq_getElem hn]
  rfl

theorem exec_engineOperationSteal_idle {core : Nat} (ho : s.ops[n]? = some o) (hlive : o.live = true) (hph : o.phase = .queued)
    (heng : o.engine ≤ 1) (hne : core ≠ o.core) (hcore : core < 512) (hcl : clusterId core = clusterId o.core)
    (hq : s.engQueue core o.engine = 0) (hs : o.stream = 0) :
    exec (.engineOperationSteal n core) s = .next (s.updOp n fun x => { x with core := core }) := by
  rw [exec_engineOperationSteal, execEngineOperationSteal]
  simp only [ho, hlive, hph, heng, bne_iff_ne.mpr hne, hcore, hcl, hq, hs, beq_self_eq_true, bne_self_eq_false, decide_true, Bool.and_self,
    Bool.false_and, Bool.not_false, if_true]

/-! ### Drains (R271, R289) -/

theorem exec_tdrainComplete_ready (ho : s.ops[n]? = some o) (hr : s.drainReady o = true) :
    (∀ s1 k, s.drainRun o 1537 o.prog = (.ok s1 (), k) → exec (.tdrainComplete n) s = .next (s1.opLeave n o)) ∧
      ∀ s1 i k, s.drainRun o 1537 o.prog = (.fail s1 i, k) → exec (.tdrainComplete n) s = .next (s1.drainFail n o k i) := by
  rw [exec_tdrainComplete, execTdrainComplete]
  simp only [ho, hr, if_true]
  exact ⟨fun s1 k h => by rw [h], fun s1 i k h => by rw [h]⟩

theorem exec_engineOperationHeld_drain (ho : s.ops[n]? = some o) (hr : s.drainReady o = true) (h9 : isClass9 o.instr = false) :
    (∀ s1 i k, s.drainRun o 1537 o.prog = (.hold s1 i, k) → exec (.engineOperationHeld n) s = .next (s1.opHold n o k i)) ∧
      ∀ s1 k, s.drainRun o 1537 o.prog = (.busy s1, k) → exec (.engineOperationHeld n) s = .next (s1.updOp n fun x => { x with prog := k }) := by
  rw [exec_engineOperationHeld, execEngineOperationHeld]
  simp only [ho, hr, h9, Bool.and_false, Bool.false_eq_true, if_false, if_true]
  exact ⟨fun s1 i k h => by rw [h], fun s1 k h => by rw [h]⟩

/-! ### Tiles (R272) -/

theorem exec_tileLatch_ready {tile : Nat} {t : Tile} (ht : s.tiles[tile]? = some t) (ho : s.ops[t.op]? = some o) (hr : s.fetchReady t o = true) :
    (∀ s1 t1 k, s.tileFetch t o = (.ok s1 (), t1, k) →
      let fin := (s1.updOp t.op fun x => { x with prog := k }).updTile tile fun _ => { t1 with latched := true, table := s1.tileTable o }
      exec (.tileLatch tile) s = .next ((if t.again then fin else fin.setTileBits t fun c => { c with tl := true, wf := false }).opLeave t.op o)) ∧
      ∀ s1 i t1 k, s.tileFetch t o = (.fail s1 i, t1, k) → exec (.tileLatch tile) s = .next (s1.tileFail tile t.op o i) := by
  rw [exec_tileLatch, execTileLatch]
  simp only [ht, ho, hr, if_true]
  exact ⟨fun s1 t1 k h => by rw [h], fun s1 i t1 k h => by rw [h]⟩

theorem exec_tileFetchHeld_ready {tile : Nat} {t : Tile} (ht : s.tiles[tile]? = some t) (ho : s.ops[t.op]? = some o) (hr : s.fetchReady t o = true) :
    (∀ s1 i t1 k, s.tileFetch t o = (.hold s1 i, t1, k) → exec (.tileFetchHeld tile) s = .next ((s1.updTile tile fun _ => t1).opHold t.op o k i)) ∧
      ∀ s1 t1 k, s.tileFetch t o = (.busy s1, t1, k) →
        exec (.tileFetchHeld tile) s = .next ((s1.updTile tile fun _ => t1).updOp t.op fun x => { x with prog := k }) := by
  rw [exec_tileFetchHeld, execTileFetchHeld]
  simp only [ht, ho, hr, if_true]
  exact ⟨fun s1 i t1 k h => by rw [h], fun s1 t1 k h => by rw [h]⟩

theorem getElem?_updTile {tile : Nat} (h : tile < s.tiles.length) (t : Tile) : (s.updTile tile fun _ => t).tiles[tile]? = some t := by
  rw [State.updTile_tiles, List.getElem?_modify_eq, List.getElem?_eq_getElem h]
  rfl

/-! ### Joint operations and passes (R278 to R281) -/

theorem exec_jointOperationPost_room {j : Joint} (hj : s.joints[n]? = some j) (hlive : j.live = true) (hp : j.posted = none)
    (hroom : s.tableLen j.cluster < 16) : exec (.jointOperationPost n) s = .next (s.postJoint n j) := by
  rw [exec_jointOperationPost, execJointOperationPost]
  simp only [hj, hlive, hp, hroom, Option.isNone_none, decide_true, Bool.and_self, if_true]

theorem exec_entryAged_old {j : Joint} (hj : s.joints[n]? = some j) (hlive : j.live = true) (hp : j.posted = some k)
    (hold : 4096 ≤ s.cyc.toNat - k) : exec (.entryAged n) s = .next (s.updJoint n fun x => { x with aged := true }) := by
  rw [exec_entryAged, execEntryAged]
  simp only [hj, hlive, hp, hold, Option.isSome_some, Option.getD_some, decide_true, Bool.and_self, if_true]

theorem getElem?_updJoint {j : Joint} (hj : s.joints[n]? = some j) (f : Joint → Joint) : (s.updJoint n f).joints[n]? = some (f j) := by
  rw [State.updJoint_joints, List.getElem?_modify_eq, hj]
  rfl

/-- What the arbiter may grant in a cluster. -/
def State.Grantable (s : State) (cl : Nat) (e : Nat × Joint) : Prop :=
  s.joints[e.1]? = some e.2 ∧ e.2.cluster = cl ∧ s.eligible e.1 e.2 = true

/-- The arbiter's choice between its best entry so far and another. -/
def State.grantStep (s : State) (cl : Nat) (best : Option (Nat × Joint)) (n : Nat) : Option (Nat × Joint) :=
  match s.joints[n]? with
  | some j =>
    if j.cluster == cl && s.eligible n j then
      match best with
      | some (m, b) => if s.grantBefore j b then some (n, j) else some (m, b)
      | none => some (n, j)
    else best
  | none => best

theorem grantee_eq (s : State) (cl : Nat) : s.grantee cl = (List.range s.joints.length).foldl (s.grantStep cl) none := rfl

theorem grantable_of_grantStep {cl m : Nat} {best : Option (Nat × Joint)} (hb : ∀ e, best = some e → s.Grantable cl e) {e : Nat × Joint}
    (h : s.grantStep cl best m = some e) : s.Grantable cl e := by
  unfold State.grantStep at h
  split at h
  · rename_i x hm
    split at h
    · rename_i he
      have hx : s.Grantable cl (m, x) := by
        obtain ⟨hcl, hel⟩ := Bool.and_eq_true_iff.mp he
        exact ⟨hm, beq_iff_eq.mp hcl, hel⟩
      split at h
      · split at h
        · exact Option.some.inj h ▸ hx
        · exact hb _ h
      · exact Option.some.inj h ▸ hx
    · exact hb _ h
  · exact hb _ h

theorem grantable_of_foldl {cl : Nat} {l : List Nat} {best : Option (Nat × Joint)} (hb : ∀ e, best = some e → s.Grantable cl e) {e : Nat × Joint}
    (h : l.foldl (s.grantStep cl) best = some e) : s.Grantable cl e := by
  induction l generalizing best with
  | nil => exact hb e h
  | cons m r ih => exact ih (fun e he => grantable_of_grantStep hb he) h

/-- The arbiter grants an eligible entry of its cluster. -/
theorem grantable_of_grantee {cl : Nat} {e : Nat × Joint} (h : s.grantee cl = some e) : s.Grantable cl e := by
  rw [grantee_eq] at h
  exact grantable_of_foldl (fun _ hb => absurd hb (Option.some_ne_none _).symm) h

theorem exec_passGrant_granted {cl : Nat} {j : Joint} {t : Tile} (hp : (s.clusters.get cl).pass = none) (hg : s.grantee cl = some (n, j))
    (ht : s.tiles[j.tile]? = some t) :
    let w := if (s.clusters.get cl).array = some j.tile then 0 else loadCycles t (s.ops[t.op]?)
    exec (.passGrant cl) s = .next { (s.updJoint n fun x => { x with granted := some (s.cyc.toNat + w + 2) }) with
      clusters := s.clusters.upd cl fun c => { c with pass := some n, endAt := s.cyc.toNat + w + 32 * j.crews.length + 42 } } := by
  dsimp only
  rw [exec_passGrant, execPassGrant]
  simp only [hp, Option.isSome_none, Bool.false_eq_true, if_false, hg, ht, beq_iff_eq]

/-- The state in which a pass is over: the tarn updated, the joint operation done and counted in its crews. -/
def State.passDone (s : State) (n : Nat) (j : Joint) (t : Tile) : State :=
  (j.crews.zip j.seqs).foldl (fun s e => s.countDone e.1 2 e.2)
    ((s.updCore j.core fun c => { c with tarn := passTarn j t.bfmt (t.raw s.ops[t.op]?) c.tarn }).updJoint n fun x => { x with live := false })

theorem exec_passComplete_over {cl : Nat} {j : Joint} {t : Tile} (hp : (s.clusters.get cl).pass = some n)
    (hend : (s.clusters.get cl).endAt ≤ s.cyc.toNat) (hj : s.joints[n]? = some j) (ht : s.tiles[j.tile]? = some t) :
    exec (.passComplete cl) s = .next (State.wake { s.passDone n j t with
      clusters := (s.passDone n j t).clusters.upd cl fun c => { c with pass := none, endAt := 0, array := some j.tile } }) := by
  rw [exec_passComplete, execPassComplete]
  simp only [hp, Nat.not_lt.mpr hend, if_false, hj, ht]
  rfl

/-- Counting changes crews alone. -/
theorem passDone_keeps {β : Type} (p : State → β) (hp : ∀ s c f, p (State.updCrew s c f) = p s) (s : State) (n : Nat) (j : Joint) (t : Tile) :
    p (s.passDone n j t) = p ((s.updCore j.core fun c => { c with tarn := passTarn j t.bfmt (t.raw s.ops[t.op]?) c.tarn }).updJoint n
      fun x => { x with live := false }) :=
  foldl_keeps p _ _ _ fun s e => hp s e.1 _

end

/-! ### Banks -/

theorem exec_tarnBankCleared_clearing {s : State} {core base : Nat} (h : base ∈ (s.core core).clearing) :
    exec (.tarnBankCleared core base) s = .next (s.updCore core fun c =>
      { c with clearing := c.clearing.filter (· != base), tarn := zeroRows c.tarn base 0 32 }) := by
  rw [exec_tarnBankCleared, execTarnBankCleared, if_pos (by simpa using h)]

theorem exec_tarnRelease_freeing {s : State} {core base : Nat} {al : TAlloc}
    (hal : (s.core core).allocs.find? (fun a => a.base == base && (a.freeing.isSome || a.killed)) = some al) :
    (al.killed = true → s.tarnUsed core al = false → exec (.tarnRelease core base) s = .next (s.tarnRelease core al.wg base)) ∧
      (al.killed = false → s.allocBusy core al = false → ∀ u, al.freeing = some u → s.hasExited u = false → (s.thr u).st = .ready →
        exec (.tarnRelease core base) s = .next ((s.tarnRelease core al.wg base).updThr u fun x => x.goOn s.cyc.toNat none)) := by
  rw [exec_tarnRelease, execTarnRelease]
  simp only [hal]
  refine ⟨fun hk hu => ?_, fun hk hb u hf hx hst => ?_⟩
  · simp only [hk, hu, if_true, Bool.false_eq_true, if_false]
  · have hx' : (s.tarnRelease core al.wg base).hasExited u = false := hx
    simp only [hk, hb, hf, hx, hx', hst, Option.getD_some, beq_self_eq_true, Bool.or_true, Bool.not_true, Bool.or_self, Bool.false_eq_true,
      if_false]
    rfl

theorem exec_registrationEviction_found {s : State} {n : Nat} {wl : Nat × Nat} (h : s.dirFind n = some wl) :
    exec (.registrationEviction n) s = .next (match s.wbKeeper wl.1 wl.2 with
      | none => s.giveUp wl.1 wl.2
      | some v => s.wbRequest v.1 v.2) := by
  rw [exec_registrationEviction, execRegistrationEviction]
  simp only [h]
  cases s.wbKeeper wl.1 wl.2 <;> rfl

/-- Settles O44, event by event. -/
theorem engineEvents : Obligations.EngineEvents := by
  unfold Obligations.EngineEvents
  intro s n k tile cl core base o t j al wl
  refine ⟨fun ho h9 => ⟨exec_engineOperationStart_ready ho h9, fun hr => ⟨fun s1 k hrun => ?ran, fun s1 i k hrun => ?failed,
      fun s1 i k hrun => ?held, fun s1 k hrun => ?busy⟩, fun i => exec_engineOperationComplete_failing ho⟩,
    exec_engineOperationSteal_idle, fun ho hr h9 => ?drain, fun ht ho hr => ?tile,
    fun hj hlive => ⟨exec_jointOperationPost_room hj hlive, exec_entryAged_old hj hlive⟩, fun hp hg ht hn => ?grant, fun hg => grantable_of_grantee hg,
    fun hp hend hj ht => ?complete, fun m f data row col hrow hcol => get_passTarn hrow hcol, fun hb => ?cleared, fun hal => ?release,
    exec_registrationEviction_found⟩
  case ran =>
    obtain ⟨hok, hfail⟩ := exec_engineOperationComplete_ran ho h9 hr hrun
    obtain ⟨hhold, hbusy⟩ := exec_engineOperationHeld_ran ho h9 hr hrun
    exact ⟨fun hs hb => hok _ (opFinish_of_plain hs hb), fun bo hb hposted hadv => hok _ (opFinish_of_object hb hposted hadv), hok, hfail,
      hhold, hbusy⟩
  case failed => exact exec_engineOperationComplete_failed ho h9 hr hrun
  case held => exact ⟨exec_engineOperationHeld_held ho h9 hr hrun, opHold_op⟩
  case busy => exact exec_engineOperationHeld_busy ho h9 hr hrun
  case drain =>
    obtain ⟨hok, hfail⟩ := exec_tdrainComplete_ready ho hr
    obtain ⟨hhold, hbusy⟩ := exec_engineOperationHeld_drain ho hr h9
    exact ⟨hok, hfail, hhold, hbusy⟩
  case tile =>
    obtain ⟨hok, hfail⟩ := exec_tileLatch_ready ht ho hr
    obtain ⟨hhold, hbusy⟩ := exec_tileFetchHeld_ready ht ho hr
    exact ⟨fun s1 t1 k hrun => ⟨hok s1 t1 k hrun, fun hlt => ⟨_, getElem?_updTile hlt _, rfl, rfl⟩⟩, hfail, hhold, hbusy⟩
  case grant =>
    refine ⟨_, exec_passGrant_granted hp hg ht, ?_, ?_, ⟨_, getElem?_updJoint (List.getElem?_eq_getElem hn) _, rfl⟩, rfl, rfl⟩
    · rw [Store.get_upd_same]
    · rw [Store.get_upd_same]
  case complete =>
    refine ⟨_, exec_passComplete_over hp hend hj ht, ?_, ?_, ?_, ?_, { j with live := false }, ?_, rfl⟩
    · rw [Store.get_upd_same]
    · rw [Store.get_upd_same]
    · refine (passDone_keeps (fun s => (s.core j.core).tarn) (fun _ _ _ => rfl) s n j t).trans ?_
      rw [State.core, State.updJoint_cores, ← State.core, State.core_updCore_same]
    · exact passDone_keeps State.mem (fun _ _ _ => rfl) s n j t
    · exact (passDone_keeps (fun s => s.joints[n]?) (fun _ _ _ => rfl) s n j t).trans (getElem?_updJoint hj _)
  case cleared =>
    refine ⟨_, exec_tarnBankCleared_clearing hb, ?_, fun row hrow col hcol => ?_, rfl, rfl⟩
    · rw [State.core_updCore_same]
      simp
    · rw [State.core_updCore_same]
      dsimp only
      exact get_zeroRows hrow hcol
  case release => exact exec_tarnRelease_freeing hal

end Sys2Proof.Machine
end

section
/-! PROOFS. What reads and writes of memory leave of the launches: every line of the memory system changes its own records alone. -/

namespace Sys2Proof.Machine

/-! ### The arrays and the stash lines -/

@[simp] theorem countWrite_launches (s : State) (pa : Nat) : (s.countWrite pa).launches = s.launches := by
  unfold State.countWrite
  split <;> rfl

@[simp] theorem readArray_launches (s : State) (pa src : Nat) : (s.readArray pa src).launches = s.launches := by
  unfold State.readArray
  dsimp only
  split
  · rfl
  · split
    · rfl
    · split <;> rfl
    · split <;> rfl

@[simp] theorem demand_launches (s : State) (pa src : Nat) : (s.demand pa src).launches = s.launches := by
  unfold State.demand
  split
  · rfl
  · exact readArray_launches s pa src

@[simp] theorem storeLine_launches (s : State) (pl : Nat) (bs : List Byte) (bad wv : Bool) :
    (s.storeLine pl bs bad wv).launches = s.launches := by
  unfold State.storeLine
  dsimp only
  split
  · exact countWrite_launches _ _
  · rfl

@[simp] theorem putHome_launches (s : State) (pa : Nat) (bs : List Byte) : (s.putHome pa bs).launches = s.launches := by
  unfold State.putHome
  split <;> rfl

@[simp] theorem setLeaf_launches (s : State) (l : TlbLeaf) (w : Bool) : (s.setLeaf l w).launches = s.launches := by
  unfold State.setLeaf
  dsimp only
  split
  · rfl
  · rw [countWrite_launches, putHome_launches]

@[simp] theorem wbLine_launches (s : State) (w l : Nat) (x : LineSt) (wv : Bool) (pl : Nat) : (s.wbLine w l x wv pl).launches = s.launches := by
  rw [State.wbLine, State.updWg_launches, storeLine_launches]

/-! ### Translation -/

@[simp] theorem walkDemand_launches (ls : List Nat) (s : State) (t va : Nat) : (s.walkDemand t va ls).launches = s.launches := by
  induction ls generalizing s t with
  | nil => rfl
  | cons lvl lower ih =>
    unfold State.walkDemand
    dsimp only
    split
    · exact demand_launches s _ _
    · rw [ih, demand_launches]

@[simp] theorem demandWalk_launches (s : State) (a : As) (va : DWord) : (s.demandWalk a va).launches = s.launches := by
  unfold State.demandWalk
  split
  · rfl
  · exact walkDemand_launches _ s _ _

@[simp] theorem demandLeaf_launches (s : State) (a : As) (va : DWord) (w : Bool) : (s.demandLeaf a va w).launches = s.launches := by
  unfold State.demandLeaf
  split
  · rfl
  · split
    · exact demandWalk_launches s a va
    · split
      · rfl
      · dsimp only
        split
        · exact demand_launches s _ _
        · rw [demandWalk_launches, demand_launches]

@[simp] theorem demandWb_launches (s : State) (w l : Nat) : (s.demandWb w l).launches = s.launches := by
  unfold State.demandWb
  split
  · exact demandLeaf_launches s _ _ _
  · rfl

@[simp] theorem ownSlot_launches (n : Nat) (s : State) (l : TlbLeaf) (w : Bool) : (s.ownSlot n l w).launches = s.launches := by
  induction n generalizing s l w with
  | zero => rfl
  | succ n ih =>
    unfold State.ownSlot
    split
    · rfl
    · split
      · rfl
      · split
        · rfl
        · split <;> rfl
        · rw [State.updWg_launches]
          split
          · rw [wbLine_launches, setLeaf_launches, ih, demandWb_launches]
          · rfl

@[simp] theorem markLeaf_launches (s : State) (l : TlbLeaf) (w : Bool) : (s.markLeaf l w).launches = s.launches := by
  rw [State.markLeaf, setLeaf_launches, ownSlot_launches]

@[simp] theorem leafOf_launches (s : State) (a : As) (va : DWord) : (s.leafOf a va).1.launches = s.launches := by
  unfold State.leafOf
  split
  · rfl
  · dsimp only
    split
    · exact demandWalk_launches s a va
    · rw [markLeaf_launches, demandWalk_launches]

@[simp] theorem leafUse_launches (s : State) (va : DWord) (n : Nat) (k : AccKind) (l : TlbLeaf) : (s.leafUse va n k l).1.launches = s.launches := by
  unfold State.leafUse
  dsimp only
  split
  · exact markLeaf_launches s l true
  · rfl

/-! ### Lines written back -/

@[simp] theorem wbStore_launches (s : State) (w l : Nat) (x : LineSt) (lf : TlbLeaf) (pl : Nat) :
    (s.wbStore w l x lf pl).launches = s.launches := by
  rw [State.wbStore, wbLine_launches, markLeaf_launches, demandWb_launches]

@[simp] theorem giveUpOwn_launches (s : State) (w l : Nat) : (s.giveUpOwn w l).launches = s.launches := by
  unfold State.giveUpOwn
  split
  · rw [State.updWg_launches]
    split
    · exact wbStore_launches s _ _ _ _ _
    · rfl
  · rfl

@[simp] theorem cleanLine_launches (s : State) (w l : Nat) : (s.cleanLine w l).launches = s.launches := by
  unfold State.cleanLine
  split
  · split
    · rw [wbStore_launches]
      split
      · exact giveUpOwn_launches s _ _
      · rfl
    · rfl
  · rfl

@[simp] theorem giveUp_launches (s : State) (w l : Nat) : (s.giveUp w l).launches = s.launches := by
  unfold State.giveUp
  split
  · rw [State.updWg_launches, cleanLine_launches]
  · rfl

@[simp] theorem takeLine_launches (s : State) (pl : Nat) : (s.takeLine pl).launches = s.launches := by
  unfold State.takeLine
  split
  · exact giveUp_launches s _ _
  · rfl

@[simp] theorem putRec_launches (s : State) (r : TrapRec) : (s.putRec r).launches = s.launches := by
  unfold State.putRec
  split <;> rfl

@[simp] theorem wbRequest_launches (s : State) (w l : Nat) : (s.wbRequest w l).launches = s.launches := by
  unfold State.wbRequest
  split
  · rfl
  · rw [State.updWg_launches, putRec_launches, demandWb_launches]

/-! ### Writes and reads of ranges -/

@[simp] theorem writeErrors_launches (s : State) (pa n : Nat) (ls : List Nat) : (s.writeErrors pa n ls).launches = s.launches := by
  refine foldl_keeps State.launches _ ls s fun s l => ?_
  split
  · rfl
  · exact demand_launches s _ _

@[simp] theorem perform_launches (s : State) (pa : Nat) (bs : List Byte) (wv : Bool) : (s.perform pa bs wv).launches = s.launches := by
  unfold State.perform
  split
  · rfl
  · have htake : ∀ ls : List Nat, (ls.foldl (fun s l => s.takeLine l) s).launches = s.launches := fun ls =>
      foldl_keeps State.launches _ ls s takeLine_launches
    dsimp only
    split
    · rw [foldl_keeps State.launches _ _ _ fun s u => countWrite_launches s _]
      split
      · exact htake _
      · exact (writeErrors_launches _ _ _ _).trans (htake _)
    · split
      · exact htake _
      · exact (writeErrors_launches _ _ _ _).trans (htake _)

@[simp] theorem performPlace_launches (s : State) (p : Place) (bs : List Byte) : (s.performPlace p bs).launches = s.launches := by
  unfold State.performPlace
  split
  · exact foldl_keeps State.launches _ _ _ fun s r => perform_launches s _ _ _
  · rfl
  · rfl

@[simp] theorem demandRange_launches (s : State) (pa n : Nat) : (s.demandRange pa n).launches = s.launches := by
  unfold State.demandRange
  split
  · rfl
  · exact foldl_keeps State.launches _ _ _ fun s i => demand_launches s _ _

@[simp] theorem demandPlace_launches (s : State) (p : Place) : (s.demandPlace p).launches = s.launches := by
  unfold State.demandPlace
  split
  · exact foldl_keeps State.launches _ _ _ fun s pa => demand_launches s _ _
  · exact foldl_keeps State.launches _ _ _ fun s pa => demand_launches s _ _
  · rfl

@[simp] theorem demandAll_launches (s : State) (ps : List Place) : (s.demandAll ps).launches = s.launches := by
  unfold State.demandAll
  split
  · rfl
  · exact foldl_keeps State.launches _ _ _ demandPlace_launches

/-! ### The checks of R233 -/

theorem leafOf_launches_of_eq {s s' : State} {a : As} {va : DWord} {x : Option TlbLeaf} (h : s.leafOf a va = (s', x)) :
    s'.launches = s.launches := by
  rw [← leafOf_launches s a va, h]

@[simp] theorem resolve_launches (s : State) (a : As) (view : Option Nat) (va : DWord) (n : Nat) (k : AccKind) :
    (s.resolve a view va n k).1.launches = s.launches := by
  unfold State.resolve
  split
  · rfl
  · split
    · rfl
    · split
      · dsimp only
        split
        · rfl
        · split <;> rfl
      · split
        · rfl
        · dsimp only
          split
          · rw [wbRequest_launches, demandLeaf_launches]
          · split
            · rename_i h
              rw [leafOf_launches_of_eq h, demandLeaf_launches]
            · rename_i s' l h
              have hs' : s'.launches = s.launches := by rw [leafOf_launches_of_eq h, demandLeaf_launches]
              split
              · exact hs'
              · split
                · rw [leafUse_launches, hs']
                · split
                  · rename_i h2
                    exact (leafOf_launches_of_eq h2).trans hs'
                  · rename_i h2
                    have hs2 := (leafOf_launches_of_eq h2).trans hs'
                    split
                    · exact hs2
                    · rw [leafUse_launches, hs2]

@[simp] theorem check_launches (s : State) (a : As) (view : Option Nat) (va : DWord) (n : Nat) (k : AccKind) :
    (s.check a view va n k).1.launches = s.launches := by
  unfold State.check
  split
  · rfl
  · exact resolve_launches s a view va n k

theorem resolveAll_launches (s : State) (a : As) (view : Option Nat) (k : AccKind) (ps : List (DWord × Nat)) :
    (s.resolveAll a view k ps).1.launches = s.launches := by
  induction ps generalizing s with
  | nil => rfl
  | cons p r ih =>
    have hp := resolve_launches s a view p.1 p.2 k
    unfold State.resolveAll
    generalize s.resolve a view p.1 p.2 k = x at hp
    obtain ⟨s', c⟩ := x
    cases c with
    | trap i => exact hp
    | wait w => exact hp
    | ok q =>
      have hr := (ih s').trans hp
      dsimp only
      generalize s'.resolveAll a view k r = y at hr
      obtain ⟨s'', d⟩ := y
      split
      · exact hp
      · rename_i h; cases h; exact hr
      · rename_i h; cases h; exact hr
      · rename_i h; cases h; exact hr

@[simp] theorem resolveRange_launches (s : State) (a : As) (view : Option Nat) (va : DWord) (n : Nat) (k : AccKind) :
    (s.resolveRange a view va n k).1.launches = s.launches := resolveAll_launches s a view k _

end Sys2Proof.Machine
end

section
/-! PROOFS. Launch records from their take to their completion, distribution and carves (O43). -/

namespace Sys2Proof.Machine

/-! ### Launches after a change -/

theorem State.launch_updLaunch (s : State) (l m : Nat) (f : Launch → Launch) :
    (s.updLaunch l f).launch m = if l = m ∧ l < s.launches.length then f (s.launch l) else s.launch m := getD_modify _ _ _ _ _

/-- A launch beyond those of a list, appended to it. -/
theorem State.launch_of_append {s : State} {ls : List Launch} {x : Launch} (h : s.launches = ls ++ [x]) : s.launch ls.length = x := by
  simp [State.launch, h]

/-- A status write changes no launch. -/
theorem putStatus_launches {s s' : State} {l : Nat} (h : s.putStatus l = .ok s') : s'.launches = s.launches := by
  unfold State.putStatus at h
  dsimp only at h
  split at h
  · cases h
    rfl
  · have hc := check_launches s (s.asOfLaunch l) none (s.launch l).statusVa 8 .store
    generalize s.check (s.asOfLaunch l) none (s.launch l).statusVa 8 .store = r at h hc
    obtain ⟨s1, c⟩ := r
    cases c with
    | ok pl =>
      dsimp only at h
      split at h
      · cases h
      · cases h
        exact (performPlace_launches _ _ _).trans hc
    | trap i =>
      cases h
      exact (putRec_launches _ _).trans hc
    | wait w => cases h

/-- A launch that enters a state is changed as the entry says, no other is. -/
theorem launch_of_enter {s s' : State} {l : Nat} {f : Launch → Launch} (h : s.enter l f = .ok s') (hl : l < s.launches.length) :
    s'.launch l = f (s.launch l) := by
  rw [State.launch, putStatus_launches h, ← State.launch, State.launch_updLaunch, if_pos ⟨rfl, hl⟩]

/-! ### The take of a record (R364 to R366) -/

/-- A taken record is the last of the launches, with the next number of its partition. -/
theorem takeRecord_launches (s : State) (p q : Nat) :
    ∃ x : Launch, (s.takeRecord p q).launches = s.launches ++ [x] ∧ x.lnum = (s.part p).lnext.toNat := by
  unfold State.takeRecord
  dsimp only
  rw [State.writeQ, perform_launches, demandRange_launches]
  exact ⟨_, rfl, rfl⟩

theorem leaseList_launches (s : State) (l : Nat) : (s.leaseList l).1.launches = s.launches := by
  unfold State.leaseList
  dsimp only
  split
  · rfl
  · have hr := resolveRange_launches s (s.asOfLaunch l) none (s.launch l).leases (16 * (s.launch l).nlease) .load
    generalize s.resolveRange (s.asOfLaunch l) none (s.launch l).leases (16 * (s.launch l).nlease) .load = r at hr
    obtain ⟨s1, c⟩ := r
    cases c with
    | ok ps => exact (demandAll_launches s1 ps).trans hr
    | trap i => exact hr
    | wait w => exact hr

/-- What the launch unit sees of a queue when it looks for a record. -/
def State.observed (s : State) (p q : Nat) : State :=
  (if q < 64 && ((s.part p).lqs.get q).en then s.demandRange ((s.part p).lqs.get q).base.toNat 24 else s).publishWaiting p

/-- The first check of R366 that a record just taken fails. -/
def State.takenBad (s : State) (p q : Nat) : Option Nat :=
  let r := (s.takeRecord p q).leaseList s.launches.length
  firstBad ((r.1.launch s.launches.length).checks (r.1.part p) ((r.1.part p).lqs.get q).sup r.2)

theorem exec_launchRecordTake_ready {s : State} {p q : Nat} (h : (s.observed p q).recordReady p q = true) :
    let s0 := s.observed p q
    let s1 := ((s0.takeRecord p q).leaseList s0.launches.length).1
    (∀ s2 code, s0.takenBad p q = some code → s1.endLaunch s0.launches.length 4 code = .ok s2 → exec (.launchRecordTake p q) s = .next s2) ∧
      ∀ s2, s0.takenBad p q = none → s1.enter s0.launches.length (fun y => { y with state := 1 }) = .ok s2 →
        exec (.launchRecordTake p q) s = .next s2 := by
  rw [exec_launchRecordTake, execLaunchRecordTake, ← State.observed]
  generalize s.observed p q = s0 at h
  unfold State.takenBad
  simp only [h, Bool.not_true, Bool.false_eq_true, if_false]
  exact ⟨fun s2 code hb he => by simp only [hb, he, State.orAsk], fun s2 hb he => by simp only [hb, he, State.orAsk]⟩

/-- A record that passes its checks becomes a launch in state 1 under the next number. -/
theorem launch_of_taken {s s2 : State} {p q : Nat}
    (h : ((s.takeRecord p q).leaseList s.launches.length).1.enter s.launches.length (fun y => { y with state := 1 }) = .ok s2) :
    (s2.launch s.launches.length).state = 1 ∧ (s2.launch s.launches.length).lnum = (s.part p).lnext.toNat := by
  obtain ⟨x, hx, hnum⟩ := takeRecord_launches s p q
  have hl := (leaseList_launches (s.takeRecord p q) s.launches.length).trans hx
  rw [launch_of_enter h (by simp [hl]), State.launch_of_append hl]
  exact ⟨rfl, hnum⟩

/-! ### Leaving state 1 (R368) -/

theorem exec_dependenceRetest_may {s : State} {l : Nat} (hm : s.mayLeave l = true) (hw : (s.launch l).leaseWait = false) :
    exec (.dependenceRetest l) s = .next (if (s.depsMet l).2 then (s.depsMet l).1.orAsk ((s.depsMet l).1.tryLeave l) else (s.depsMet l).1) := by
  rw [exec_dependenceRetest, execDependenceRetest, if_pos (by rw [hm, hw]; rfl)]
  generalize s.depsMet l = r
  obtain ⟨s', b⟩ := r
  cases b <;> rfl

theorem exec_leaseRetry_may {s : State} {l : Nat} (hm : s.mayLeave l = true) (hw : (s.launch l).leaseWait = true)
    (ht : (s.launch l).lastTry = 0 ∨ 2 ^ 20 ≤ s.cyc.toNat - (s.launch l).lastTry) :
    exec (.leaseRetry l) s = .next (if (s.depsMet l).2 then (s.depsMet l).1.orAsk ((s.depsMet l).1.tryLeave l) else (s.depsMet l).1) := by
  have hin : (s.mayLeave l && (s.launch l).leaseWait &&
      ((s.launch l).lastTry = 0 || Config.longWait ≤ s.cyc.toNat - (s.launch l).lastTry : Bool)) = true := by
    simp only [Bool.and_eq_true, Bool.or_eq_true, decide_eq_true_eq]
    exact ⟨⟨hm, hw⟩, ht⟩
  rw [exec_leaseRetry, execLeaseRetry, if_pos hin]
  generalize s.depsMet l = r
  obtain ⟨s', b⟩ := r
  cases b <;> rfl

/-- A launch without lease ranges leaves state 1 at once. -/
theorem tryLeave_of_noLeases {s : State} {l : Nat} (h : (s.launch l).nlease = 0) :
    s.tryLeave l = s.enter l fun y => { y with state := 2, leftAt := s.cyc.toNat } := by
  have hlist : s.leaseList l = (s, some []) := if_pos h
  rw [State.tryLeave, hlist]
  rfl

/-! ### Completion (R367) -/

theorem exec_launchComplete_over {s s1 : State} {l : Nat} (hl : l < s.launches.length) (hst : (s.launch l).state = 1 ∨ (s.launch l).state = 2)
    (hover : s.launchOver l = true) (hend : s.endLaunch l (if (s.launch l).killed || (s.launch l).leaseFatal then 5 else 3) 0 = .ok s1) :
    exec (.launchComplete l) s = .next (if (s1.ctxLaunches (s.launch l).part (s.launch l).ctx).isEmpty then
      s1.updCtx (s.launch l).part (s.launch l).ctx fun c => if c.phase = 3 then { c with phase := 0, preempted := false } else c else s1) := by
  have hin : (decide (l < s.launches.length) && ((s.launch l).state == 1 || (s.launch l).state == 2) && s.launchOver l) = true := by
    rw [hover]
    simpa [hl] using hst
  rw [exec_launchComplete, execLaunchComplete]
  dsimp only
  rw [if_pos hin, hend]

/-- A stopped context without launches is unknown again. -/
theorem ctxPhase_unknown (s : State) (p c : Nat) :
    (s.updCtx p c fun c => if c.phase = 3 then { c with phase := 0, preempted := false } else c).ctxPhase p c ≠ 3 := by
  rw [State.ctxPhase, State.ctx_updCtx_same]
  split
  · exact Nat.zero_ne_add_one 2
  · assumption

/-! ### Distribution (R369, R370) and carves (R48) -/

theorem place_threads (s : State) (l : Nat) : (s.place l).threads = s.threads := by
  unfold State.place
  split <;> rfl

theorem place_mem (s : State) (l : Nat) : (s.place l).mem = s.mem := by
  unfold State.place
  split <;> rfl

/-- Asking for a carve changes cores alone. -/
theorem carveAsk_keeps {β : Type} (k : State → β) (hk : ∀ s c f, k (State.updCore s c f) = k s) (s : State) (l : Nat) : k (s.carveAsk l) = k s :=
  foldl_keeps k _ _ _ fun s c => by
    dsimp only
    split
    · exact hk s _ _
    · rfl

theorem carveTidy_keeps {β : Type} (k : State → β) (hk : ∀ s c f, k (State.updCore s c f) = k s) (s : State) (l core : Nat) :
    k (s.carveTidy l core) = k s := by
  unfold State.carveTidy
  split
  · rfl
  · exact hk s _ _

theorem exec_workgroupDistribution_next {s : State} {l c : Nat} (hd : s.distributes l = true) (hs : s.servedNow l = true)
    (hn : ((s.place l).carveAsk l).nextAdmit l = some c) :
    exec (.workgroupDistribution l) s = .next (((s.place l).carveAsk l).admitTo l c) := by
  rw [exec_workgroupDistribution, execWorkgroupDistribution, if_pos (by rw [hd, hs]; rfl)]
  simp only [hn]

/-- The workgroup that a launch's next admission makes. -/
def State.admitted (s : State) (l c : Nat) : Wg :=
  { launch := l, wx := nbits c 0 5, wy := nbits c 5 4, wz := nbits c 9 16, core := (s.launch l).coreAt c, rot := Config.rotation s.free,
    ncrew := (s.launch l).ncrew, prio := s.launchPrio l, since := s.cyc.toNat, order := s.nextAdmission }

theorem admitTo_wgs (s : State) (l c : Nat) : (s.admitTo l c).wgs = s.wgs ++ [s.admitted l c] :=
  carveTidy_keeps State.wgs (fun _ _ _ => rfl) _ _ _

theorem admitTo_threads (s : State) (l c : Nat) : (s.admitTo l c).threads = s.threads := carveTidy_keeps State.threads (fun _ _ _ => rfl) _ _ _

theorem admitTo_mem (s : State) (l c : Nat) : (s.admitTo l c).mem = s.mem := carveTidy_keeps State.mem (fun _ _ _ => rfl) _ _ _

/-- The carves that wait longer than R48 lets them. -/
def State.carvesLate (s : State) (core : Nat) : List (Nat × Nat) :=
  (s.carveWaits core).filter fun e => decide (2 ^ 20 ≤ s.cyc.toNat - e.2)

theorem exec_carveWaitExpiry_late {s : State} {core l since : Nat} (hne : s.admittedAt core ≠ []) (hin : (l, since) ∈ s.carveWaits core)
    (hlate : 2 ^ 20 ≤ s.cyc.toNat - since) :
    exec (.carveWaitExpiry core) s = .next (s.updCore core fun y => { y with closed := (s.carvesLate core).map (·.1) }) := by
  have hmem : (l, since) ∈ s.carvesLate core := List.mem_filter.mpr ⟨hin, by simpa using hlate⟩
  rw [exec_carveWaitExpiry, execCarveWaitExpiry]
  refine if_pos ?_
  simp only [Bool.and_eq_true, Bool.not_eq_true', List.isEmpty_eq_false_iff]
  exact ⟨hne, List.ne_nil_of_mem hmem⟩

/-- Closing a core leaves its waiting carves as they are. -/
theorem carveWaits_closed (s : State) (core : Nat) (ls : List Nat) :
    (s.updCore core fun y => { y with closed := ls }).carveWaits core = s.carveWaits core := by
  unfold State.carveWaits State.carveIs
  rw [State.core_updCore_same]
  rfl

theorem carveClosed_of_late {s : State} {core l since : Nat} (hin : (l, since) ∈ s.carveWaits core) (hlate : 2 ^ 20 ≤ s.cyc.toNat - since) :
    (s.updCore core fun y => { y with closed := (s.carvesLate core).map (·.1) }).carveClosed core = true := by
  have hmem : (l, since) ∈ s.carvesLate core := List.mem_filter.mpr ⟨hin, by simpa using hlate⟩
  rw [State.carveClosed, carveWaits_closed, State.core_updCore_same]
  refine List.any_eq_true.mpr ⟨_, hin, ?_⟩
  simpa using ⟨since, hmem⟩

theorem exec_carveChange_empty {s : State} {core l since : Nat} {asks : List (Nat × Nat)} (hw : s.carveWaits core = (l, since) :: asks)
    (he : s.admittedAt core = []) (ht : s.carveTaken core = false) :
    exec (.carveChange core) s = .next ((s.setCarve (s.launch l) core).updCore core fun y => { y with taken := some l }) := by
  rw [exec_carveChange, execCarveChange, hw, he, ht]
  rfl

end Sys2Proof.Machine
end

section
/-! PROOFS. Workgroups from their activation to their exit (O43). -/

namespace Sys2Proof.Machine

/-! ### Activation (R22, R25, R371) -/

/-- Threads may issue from now on. -/
def State.readyFrom (s : State) (ts : List Nat) : State := ts.foldl (fun s t => s.updThr t fun x => { x with readyAt := s.cyc.toNat }) s

theorem readyFrom_wgs (s : State) (ts : List Nat) : (s.readyFrom ts).wgs = s.wgs := foldl_keeps State.wgs _ _ _ fun _ _ => rfl
theorem readyFrom_crews (s : State) (ts : List Nat) : (s.readyFrom ts).crews = s.crews := foldl_keeps State.crews _ _ _ fun _ _ => rfl
theorem readyFrom_length (s : State) (ts : List Nat) : (s.readyFrom ts).threads.length = s.threads.length :=
  foldl_keeps (fun s => s.threads.length) _ _ _ fun s t => s.length_updThr t _

theorem readyFrom_thr_other {s : State} {ts : List Nat} {u : Nat} (h : u ∉ ts) : (s.readyFrom ts).thr u = s.thr u :=
  thr_foldl_of_forall _ u ts s fun _ t ht => State.thr_updThr_other (fun e : t = u => h (e ▸ ht)) _

/-- What the cycle in which a thread became ready does not say of it. -/
theorem readyFrom_thr (s : State) (ts : List Nat) (u : Nat) :
    ((s.readyFrom ts).thr u).st = (s.thr u).st ∧ ((s.readyFrom ts).thr u).r = (s.thr u).r ∧ ((s.readyFrom ts).thr u).num = (s.thr u).num ∧
      ((s.readyFrom ts).thr u).crew = (s.thr u).crew := by
  have hstep : ∀ {β : Type} (k : Thread → β), (∀ (x : Thread) n, k { x with readyAt := n } = k x) →
      k ((s.readyFrom ts).thr u) = k (s.thr u) := fun k hk => foldl_keeps (fun s => k (s.thr u)) _ ts s fun s t => by
    rw [State.thr_updThr]
    split
    · rename_i h
      rw [hk, h.1]
    · rfl
  exact ⟨hstep _ fun _ _ => rfl, hstep _ fun _ _ => rfl, hstep _ fun _ _ => rfl, hstep _ fun _ _ => rfl⟩

/-- A workgroup whose stash is placed, active from now on. -/
def State.placed (s : State) (w place : Nat) : State :=
  s.updWg w fun g => { g with stage := .active, since := s.cyc.toNat, sbase := place, splaced := true, forced := false, blocks := false }

theorem exec_workgroupActivation_next {s : State} {core w : Nat} (h : s.nextActive core = some w) :
    exec (.workgroupActivation core) s =
      let s1 := (if (s.wg w).started then s else s.start w).placed w ((s.stashPlace w).getD 0)
      .next (s1.readyFrom (s1.wgThreads w)) := by
  rw [exec_workgroupActivation, execWorkgroupActivation]
  simp only [h]
  rfl

theorem placed_wg {s : State} {w place : Nat} (h : w < s.wgs.length) :
    ((s.placed w place).wg w).stage = .active ∧ ((s.placed w place).wg w).started = (s.wg w).started ∧
      ((s.placed w place).wg w).base = (s.wg w).base ∧ ((s.placed w place).wg w).ncrew = (s.wg w).ncrew := by
  rw [State.placed, State.wg_updWg, if_pos ⟨rfl, h⟩]
  exact ⟨rfl, rfl, rfl, rfl⟩

theorem start_wgs_length (s : State) (w : Nat) : (s.start w).wgs.length = s.wgs.length := List.length_modify ..

theorem start_wg {s : State} {w : Nat} (h : w < s.wgs.length) :
    ((s.start w).wg w).started = true ∧ ((s.start w).wg w).base = s.crews.length ∧ ((s.start w).wg w).ncrew = (s.wg w).ncrew := by
  have hw : (s.start w).wg w = { s.wg w with base := s.crews.length, started := true } := by
    rw [State.start, State.wg_updWg]
    exact if_pos ⟨rfl, h⟩
  rw [hw]
  exact ⟨rfl, rfl, rfl⟩

theorem start_threads (s : State) (w : Nat) : (s.start w).threads = s.threads ++ (List.range (32 * (s.wg w).ncrew)).map fun i =>
    newThread (s.crews.length + i / 32) (i % 32) (s.launch (s.wg w).launch).entry s.cyc.toNat := rfl

theorem start_crews (s : State) (w : Nat) : (s.start w).crews = s.crews ++ (List.range (s.wg w).ncrew).map fun j =>
    { wg := w, num := j, base := s.threads.length + 32 * j, s := Store.set [] 0 (s.launch (s.wg w).launch).args } := rfl

theorem start_thr_old {s : State} {w i : Nat} (h : i < s.threads.length) : (s.start w).thr i = s.thr i := by
  rw [State.thr, start_threads, List.getD_append _ _ _ _ h]
  rfl

theorem start_thr_new {s : State} {w i : Nat} (h : i < 32 * (s.wg w).ncrew) : (s.start w).thr (s.threads.length + i) =
    newThread (s.crews.length + i / 32) (i % 32) (s.launch (s.wg w).launch).entry s.cyc.toNat := by
  rw [State.thr, start_threads, List.getD_append_right _ _ _ _ (Nat.le_add_right _ _), Nat.add_sub_cancel_left]
  simp [List.getD_eq_getElem?_getD, h]

theorem start_crew_new {s : State} {w j : Nat} (h : j < (s.wg w).ncrew) : (s.start w).crew (s.crews.length + j) =
    { wg := w, num := j, base := s.threads.length + 32 * j, s := Store.set [] 0 (s.launch (s.wg w).launch).args } := by
  rw [State.crew, start_crews, List.getD_append_right _ _ _ _ (Nat.le_add_right _ _), Nat.add_sub_cancel_left]
  simp [List.getD_eq_getElem?_getD, h]

/-- The threads of a workgroup just started are new ones. -/
theorem length_le_of_mem_wgThreads_start {s : State} {w place u : Nat} (hw : w < s.wgs.length)
    (hu : u ∈ ((s.start w).placed w place).wgThreads w) : s.threads.length ≤ u := by
  obtain ⟨-, hst, hbase, hncrew⟩ := placed_wg (s := s.start w) (place := place) (by rwa [start_wgs_length])
  obtain ⟨hstarted, hbase', hncrew'⟩ := start_wg hw
  simp only [State.wgThreads, State.wgCrews, hst, hstarted, hbase, hbase', hncrew, hncrew', if_true, List.mem_flatMap, List.mem_map,
    List.mem_range, State.crewThreads] at hu
  obtain ⟨_, ⟨j, hj, rfl⟩, i, -, rfl⟩ := hu
  have hcrew : (((s.start w).placed w place).crew (s.crews.length + j)).base = s.threads.length + 32 * j :=
    congrArg Crew.base (start_crew_new hj)
  omega

/-! ### Parking (R39, R42, R49, R372) -/

theorem nextMoved_of_lacks {s : State} {core : Nat} (h : ∃ u ∈ s.admittedAt core, s.wantsPlace u = true ∧ s.stashPlace u = none) :
    s.nextMoved core = leastBy (fun v => (s.wg v).since) (s.parkedInPlace core) := by
  refine if_pos (List.any_eq_true.mpr ?_)
  obtain ⟨u, hu, hwant, hplace⟩ := h
  exact ⟨u, hu, by rw [hwant, hplace]; rfl⟩

theorem nextMoved_of_not_lacks {s : State} {core : Nat} (h : ¬∃ u ∈ s.admittedAt core, s.wantsPlace u = true ∧ s.stashPlace u = none) :
    s.nextMoved core = none := by
  refine if_neg fun hany => h ?_
  obtain ⟨u, hu, hw⟩ := List.any_eq_true.mp hany
  obtain ⟨hwant, hplace⟩ := Bool.and_eq_true_iff.mp hw
  exact ⟨u, hu, hwant, Option.isNone_iff_eq_none.mp hplace⟩

/-- No stash is moved out where nothing lacks a run of stash area, or no parked stash stands in place. -/
theorem nextMoved_eq_none {s : State} {core : Nat} (h : (¬∃ u ∈ s.admittedAt core, s.wantsPlace u = true ∧ s.stashPlace u = none) ∨
    leastBy (fun v => (s.wg v).since) (s.parkedInPlace core) = none) : s.nextMoved core = none := by
  rcases h with h | h
  · exact nextMoved_of_not_lacks h
  · by_cases hl : ∃ u ∈ s.admittedAt core, s.wantsPlace u = true ∧ s.stashPlace u = none
    · rw [nextMoved_of_lacks hl, h]
    · exact nextMoved_of_not_lacks hl

/-- A stash that its operations still use stays. -/
theorem moveOut_of_busy {s : State} {w : Nat} (h : s.stashBusy w [(0, s.stashSize w)] = true) : s.moveOut w = (s, false) := if_pos h

theorem moveOut_of_released {s : State} {w : Nat} (hb : s.stashBusy w [(0, s.stashSize w)] = false)
    (hr : (s.releaseLines w (s.wg w).filled).2 = true) :
    s.moveOut w = ((s.releaseLines w (s.wg w).filled).1.updWg w fun y => { y with splaced := false }, true) := by
  rw [State.moveOut, if_neg (by rw [hb]; decide)]
  generalize s.releaseLines w (s.wg w).filled = r at hr
  obtain ⟨s', b⟩ := r
  obtain rfl : b = true := hr
  rfl

theorem exec_workgroupPark_moved {s : State} {core v : Nat} (hn : s.nextMoved core = some v) (hb : s.stashBusy v [(0, s.stashSize v)] = false)
    (hr : (s.releaseLines v (s.wg v).filled).2 = true) :
    exec (.workgroupPark core) s = .next ((s.releaseLines v (s.wg v).filled).1.updWg v fun y => { y with splaced := false }) := by
  rw [exec_workgroupPark, execWorkgroupPark]
  simp only [hn, moveOut_of_released hb hr]

/-- Where no stash is moved out, the eligible workgroup blocked longest may be parked. -/
theorem exec_workgroupPark_stay {s : State} {core : Nat}
    (h : s.nextMoved core = none ∨ ∃ u, s.nextMoved core = some u ∧ s.stashBusy u [(0, s.stashSize u)] = true) :
    exec (.workgroupPark core) s = .next (s.parkEligible core) := by
  rw [exec_workgroupPark, execWorkgroupPark]
  rcases h with hn | ⟨u, hn, hb⟩
  · simp only [hn]
  · simp only [hn, moveOut_of_busy hb]

theorem parkEligible_of_waiting {s : State} {core w v : Nat} (hw : w ∈ s.candidates core) (hfit : s.fits w = false)
    (hmoves : (s.stashPlace w).isSome = true ∨ s.nextMoved core = none) (hv : leastBy s.blockedSince (s.eligibleAt core) = some v) :
    s.parkEligible core = s.updWg v fun y => { y with stage := .parked, since := s.cyc.toNat, stopping := false } := by
  have hbefore : s.beforeMoves core w = false := by
    rcases hmoves with h | h
    · rw [State.beforeMoves, Option.isNone_eq_false_iff.mpr h]
      rfl
    · rw [State.beforeMoves, h]
      exact Bool.and_false _
  rw [State.parkEligible, if_pos (List.any_eq_true.mpr ⟨w, hw, by rw [hfit, hbefore]; rfl⟩), hv]
  rfl

/-! ### Forced parking (R41) -/

/-- The choice between the best so far and another. -/
def leastStep (f : Nat → Nat) (best : Option Nat) (w : Nat) : Option Nat :=
  match best with
  | some b => if f w < f b then some w else best
  | none => some w

theorem leastBy_eq (f : Nat → Nat) (ws : List Nat) : leastBy f ws = ws.foldl (leastStep f) none := rfl

theorem leastStep_eq (f : Nat → Nat) (best : Option Nat) (w : Nat) : leastStep f best w = best ∨ leastStep f best w = some w := by
  unfold leastStep
  split
  · split
    · exact .inr rfl
    · exact .inl rfl
  · exact .inr rfl

theorem foldl_leastStep_mem {f : Nat → Nat} {ws : List Nat} {best : Option Nat} {v : Nat} (h : ws.foldl (leastStep f) best = some v) :
    best = some v ∨ v ∈ ws := by
  induction ws generalizing best with
  | nil => exact .inl h
  | cons w r ih =>
    rcases ih h with hb | hr
    · rcases leastStep_eq f best w with e | e
      · exact .inl (e ▸ hb)
      · obtain rfl : w = v := Option.some.inj (e.symm.trans hb)
        exact .inr List.mem_cons_self
    · exact .inr (List.mem_cons_of_mem _ hr)

/-- The least of some workgroups is one of them. -/
theorem leastBy_mem {f : Nat → Nat} {ws : List Nat} {v : Nat} (h : leastBy f ws = some v) : v ∈ ws :=
  (foldl_leastStep_mem (leastBy_eq f ws ▸ h)).resolve_left (by nofun)

/-- A workgroup stops if it is the victim, else it goes on. -/
def stopStep (victim : Option Nat) (s : State) (x : Nat) : State :=
  if (s.wg x).stopping == (victim == some x) then s else s.updWg x fun g => { g with stopping := victim == some x }

theorem stopOnly_eq (s : State) (core : Nat) (victim : Option Nat) : s.stopOnly core victim = (s.activeAt' core).foldl (stopStep victim) s := rfl

/-- Stopping changes workgroups alone. -/
theorem stopOnly_keeps {β : Type} (k : State → β) (hk : ∀ s w f, k (State.updWg s w f) = k s) (s : State) (core : Nat) (victim : Option Nat) :
    k (s.stopOnly core victim) = k s := foldl_keeps k _ _ _ fun s x => by
  split
  · rfl
  · exact hk s x _

theorem stopStep_length (victim : Option Nat) (s : State) (x : Nat) : (stopStep victim s x).wgs.length = s.wgs.length := by
  unfold stopStep
  split
  · rfl
  · exact List.length_modify ..

theorem stopStep_victim {s : State} {v : Nat} (h : v < s.wgs.length) : ((stopStep (some v) s v).wg v).stopping = true := by
  unfold stopStep
  split
  · rename_i hs
    simpa using hs
  · rw [State.wg_updWg, if_pos ⟨rfl, h⟩]
    exact beq_self_eq_true _

theorem stopStep_stopping {s : State} {v x : Nat} (hv : v < s.wgs.length) (h : (s.wg v).stopping = true) :
    ((stopStep (some v) s x).wg v).stopping = true := by
  by_cases hx : x = v
  · rw [hx]
    exact stopStep_victim hv
  · unfold stopStep
    split
    · exact h
    · rwa [State.wg_updWg, if_neg fun e => hx e.1]

theorem foldl_stopStep_stopping {v : Nat} (l : List Nat) {s : State} (hv : v < s.wgs.length) (h : (s.wg v).stopping = true ∨ v ∈ l) :
    ((l.foldl (stopStep (some v)) s).wg v).stopping = true := by
  induction l generalizing s with
  | nil => exact h.resolve_right (by simp)
  | cons x r ih =>
    refine ih (by rwa [stopStep_length]) ?_
    rcases h with h | h
    · exact .inl (stopStep_stopping hv h)
    · rcases List.mem_cons.mp h with rfl | h
      · exact .inl (stopStep_victim hv)
      · exact .inr h

theorem mem_admittedAt {s : State} {core w : Nat} (h : w ∈ s.admittedAt core) : w < s.wgs.length ∧ (s.wg w).core = core := by
  obtain ⟨hlt, hw⟩ := List.mem_filter.mp h
  exact ⟨List.mem_range.mp hlt, beq_iff_eq.mp (Bool.and_eq_true_iff.mp hw).1⟩

/-- The victim of a forced parking is an active workgroup of the core. -/
theorem mem_activeAt_of_victim {s : State} {core w v : Nat} (hf : s.forceFor core = some w) (hv : s.victimFor w = some v) :
    v ∈ s.activeAt' core := by
  obtain ⟨-, hcore⟩ := mem_admittedAt (List.mem_of_find?_eq_some hf)
  have hmem := leastBy_mem hv
  rw [hcore] at hmem
  exact (List.mem_filter.mp hmem).1

theorem stopOnly_victim {s : State} {core w v : Nat} (hf : s.forceFor core = some w) (hv : s.victimFor w = some v) :
    ((s.stopOnly core (some v)).wg v).stopping = true := by
  have hact := mem_activeAt_of_victim hf hv
  rw [stopOnly_eq]
  exact foldl_stopStep_stopping _ (mem_admittedAt (List.mem_filter.mp hact).1).1 (.inr hact)

theorem mayIssue_of_stopping {s : State} {t : Nat} (h : (s.wg (s.wgOf t)).stopping = true) : s.mayIssue t = false := by
  simp [State.mayIssue, h]

section
variable {s : State} {core w : Nat} (hf : s.forceFor core = some w) (he : s.eligibleAt core = [])
include hf he

theorem exec_forcedPark_noVictim (hv : s.victimFor w = none) :
    exec (.forcedPark core) s = .next ((s.stopOnly core none).updWg w fun y => { y with tested := s.cyc.toNat }) := by
  rw [exec_forcedPark, execForcedPark]
  simp only [hf, he, hv, List.isEmpty_nil, Bool.not_true, Bool.false_eq_true, if_false]

theorem exec_forcedPark_held {v : Nat} (hv : s.victimFor w = some v) (hr : s.regsHeld v = true) :
    exec (.forcedPark core) s = .next (s.stopOnly core (some v)) := by
  rw [exec_forcedPark, execForcedPark]
  simp only [hf, he, hv, hr, List.isEmpty_nil, Bool.not_true, Bool.false_eq_true, if_false, if_true]

theorem exec_forcedPark_parked {v : Nat} (hv : s.victimFor w = some v) (hr : s.regsHeld v = false) (hp : (s.stashPlace w).isSome = true) :
    exec (.forcedPark core) s = .next (((s.stopOnly core none).updWg v fun y =>
      { y with stage := .parked, since := s.cyc.toNat, stopping := false }).updWg w fun y => { y with forced := true }) := by
  have hcyc : (s.stopOnly core none).cyc = s.cyc := stopOnly_keeps State.cyc (fun _ _ _ => rfl) s core none
  rw [exec_forcedPark, execForcedPark]
  simp only [hf, he, hv, hr, hp, List.isEmpty_nil, Bool.not_true, Bool.false_eq_true, if_false, if_true, State.parkWg, hcyc]

end

/-! ### A workgroup blocks, exits and is stolen (R43, R359, R371, R373) -/

theorem exec_activationBlock_late {s : State} {w : Nat} (hw : w < s.wgs.length) (hwait : s.waitsPlace w = true)
    (hlate : 65536 ≤ s.cyc.toNat - s.waitsSince w) (hfit : s.fits w = false) :
    exec (.activationBlock w) s = .next (s.updWg w fun y => { y with blocks := true }) := by
  rw [exec_activationBlock, execActivationBlock]
  refine if_pos ?_
  simp only [Bool.and_eq_true, decide_eq_true_eq, hfit, Bool.not_false, and_true]
  exact ⟨⟨hw, hwait⟩, hlate⟩

theorem exec_workgroupExit_over {s : State} {w : Nat} (hw : w < s.wgs.length) (hst : (s.wg w).started = true)
    (hstage : (s.wg w).stage = .active ∨ (s.wg w).stage = .parked) (hexit : ∀ t ∈ s.wgThreads w, s.hasExited t = true)
    (hwait : s.exitWaits w = false) (hctx : s.ctxPhase (s.asOfWg w).part (s.asOfWg w).ctx ≠ 4)
    (hrel : (s.releaseLines w (s.wg w).filled).2 = true) :
    exec (.workgroupExit w) s = .next (((s.releaseLines w (s.wg w).filled).1.freeWg w).tryTilebar w) := by
  have hin : (decide (w < s.wgs.length) && (s.wg w).started && ((s.wg w).stage == .active || (s.wg w).stage == .parked) &&
      (s.wgThreads w).all s.hasExited && !s.exitWaits w && s.ctxPhase (s.asOfWg w).part (s.asOfWg w).ctx != 4) = true := by
    simp only [Bool.and_eq_true, Bool.or_eq_true, decide_eq_true_eq, beq_iff_eq, List.all_eq_true, hwait, Bool.not_false, and_true, bne_iff_ne]
    exact ⟨⟨⟨⟨hw, hst⟩, hstage⟩, hexit⟩, hctx⟩
  rw [exec_workgroupExit, execWorkgroupExit]
  rw [if_pos hin]
  generalize s.releaseLines w (s.wg w).filled = r at hrel
  obtain ⟨s', b⟩ := r
  obtain rfl : b = true := hrel
  rfl

/-- A stolen workgroup lies at the end of the thief's admissions. -/
def State.stolen (s : State) (w core : Nat) : State :=
  { s.updWg w fun x => { x with core := core, rot := Config.rotation s.free, order := s.nextAdmission, since := s.cyc.toNat } with
    free := s.free + 1 }

theorem exec_workgroupSteal_mate {s : State} {w core : Nat} (hw : w < s.wgs.length) (hstage : (s.wg w).stage = .admitted)
    (hst : (s.wg w).started = false) (hsteal : (s.launch (s.wg w).launch).steal = true) (hdist : s.distributes (s.wg w).launch = true)
    (hidle : s.idleCore core = true) (hcov : (s.launch (s.wg w).launch).covers core = true) (hne : (s.wg w).core ≠ core)
    (hmate : (s.launch (s.wg w).launch).stealMates (s.wg w).core core = true) (hadm : s.admits (s.launch (s.wg w).launch) core = true)
    (hlast : ∀ y ∈ s.unstartedAt (s.wg w).launch (s.wg w).core, (s.wg y).wz ≤ (s.wg w).wz)
    (hmost : ∀ k < 512, k ≠ core → (s.launch (s.wg w).launch).covers k = true → (s.launch (s.wg w).launch).stealMates k core = true →
      (s.unstartedAt (s.wg w).launch k).length ≤ (s.unstartedAt (s.wg w).launch (s.wg w).core).length) :
    exec (.workgroupSteal w core) s = .next (s.stolen w core) := by
  rw [exec_workgroupSteal, execWorkgroupSteal]
  refine if_pos ?_
  simp only [Bool.and_eq_true, decide_eq_true_eq, List.all_eq_true, hstage, hst, hsteal, hdist, hidle, hcov, hmate, hadm, bne_iff_ne,
    beq_self_eq_true, Bool.not_false, and_true, List.mem_filter, List.mem_range]
  exact ⟨⟨⟨hw, hne⟩, hlast⟩, fun k ⟨hk, ⟨hkne, hkcov⟩, hkmate⟩ => hmost k hk hkne hkcov hkmate⟩

/-- Settles O43, event by event. -/
theorem launchEvents : Obligations.LaunchEvents := by
  unfold Obligations.LaunchEvents
  intro s p q l w v core c code since asks
  dsimp only
  refine ⟨fun hready => ?take, fun hm hw => ?retest, fun hm hw ht => ?retry, fun s1 hl hst hover hend => ?done, fun hd hs hn => ?distribution,
    fun hn hw hst => ?first, fun hn hw hst => ?again, fun hw hfit hplace hmoves hv => ?park, fun hl hin hb hr => ?moved,
    fun hf he => ⟨exec_forcedPark_noVictim hf he, fun hv hr => ?victim, exec_forcedPark_parked hf he⟩, exec_activationBlock_late,
    fun hne hin hlate => ⟨_, exec_carveWaitExpiry_late hne hin hlate, carveClosed_of_late hin hlate, rfl⟩, exec_carveChange_empty,
    exec_workgroupExit_over, fun hw hstage hst hsteal hdist hidle hcov hne hmate hadm hlast hmost => ?steal⟩
  case take =>
    obtain ⟨hbad, hok⟩ := exec_launchRecordTake_ready hready
    exact ⟨fun s2 hb he => hbad s2 code hb he, fun s2 hb he => ⟨hok s2 hb he, launch_of_taken he⟩⟩
  case retest =>
    rw [exec_dependenceRetest_may hm hw]
    refine ⟨fun hmet => by rw [if_neg (by rw [hmet]; decide)], fun s2 hmet hno he => ?_⟩
    rw [if_pos hmet, tryLeave_of_noLeases hno, he]
    rfl
  case retry =>
    rw [exec_leaseRetry_may hm hw ht]
    refine ⟨fun hmet => by rw [if_neg (by rw [hmet]; decide)], fun s2 hmet he => ?_⟩
    rw [if_pos hmet, he]
    rfl
  case done =>
    rw [exec_launchComplete_over hl hst hover hend]
    by_cases hc : s1.ctxLaunches (s.launch l).part (s.launch l).ctx = []
    · rw [if_pos (List.isEmpty_iff.mpr hc)]
      exact ⟨_, rfl, rfl, rfl, fun h => absurd hc h, fun _ => ctxPhase_unknown _ _ _⟩
    · rw [if_neg (mt List.isEmpty_iff.mp hc)]
      exact ⟨_, rfl, rfl, rfl, fun _ => rfl, fun h => absurd h hc⟩
  case distribution =>
    refine ⟨_, _, exec_workgroupDistribution_next hd hs hn, admitTo_wgs _ l c, rfl, rfl, rfl, rfl, rfl, rfl, rfl, rfl, ?_, ?_⟩
    · rw [admitTo_threads, carveAsk_keeps State.threads fun _ _ _ => rfl, place_threads]
    · rw [admitTo_mem, carveAsk_keeps State.mem fun _ _ _ => rfl, place_mem]
  case first =>
    have hexec := exec_workgroupActivation_next hn
    rw [if_neg (by rw [hst]; decide)] at hexec
    dsimp only at hexec
    generalize (s.stashPlace w).getD 0 = place at hexec
    obtain ⟨hstage, hstarted, -, -⟩ := placed_wg (s := s.start w) (place := place) (by rwa [start_wgs_length])
    generalize hts : ((s.start w).placed w place).wgThreads w = ts at hexec
    refine ⟨_, hexec, ?_, ?_, ?_, fun i hi => ?_, fun i hi => ?_, fun j hj => ?_⟩
    · rw [State.wg, readyFrom_wgs]
      exact hstage
    · rw [State.wg, readyFrom_wgs]
      exact hstarted.trans (start_wg hw).1
    · rw [readyFrom_length]
      exact (congrArg List.length (start_threads s w)).trans (by simp)
    · rw [readyFrom_thr_other fun hu => Nat.not_le.mpr hi (length_le_of_mem_wgThreads_start hw (hts ▸ hu))]
      exact start_thr_old hi
    · obtain ⟨h₁, h₂, h₃, h₄⟩ := readyFrom_thr ((s.start w).placed w place) ts (s.threads.length + i)
      rw [h₁, h₂, h₃, h₄, show ((s.start w).placed w place).thr (s.threads.length + i) = _ from start_thr_new hi]
      exact ⟨rfl, rfl, rfl, rfl, fun _ => rfl, rfl, rfl, rfl⟩
    · rw [State.crew, readyFrom_crews, show ((s.start w).placed w place).crews.getD (s.crews.length + j) {} = _ from start_crew_new hj]
      refine ⟨rfl, rfl, rfl, ?_, fun k hk => ?_, ?_, rfl, rfl, rfl, rfl⟩
      · rw [Store.get_set, if_pos rfl]
      · rw [Store.get_set, if_neg hk]
        rfl
      · simp [Crew.gangReg]
  case again =>
    have hexec := exec_workgroupActivation_next hn
    rw [if_pos hst] at hexec
    refine ⟨_, hexec, ?_, ?_, fun i => ?_⟩
    · rw [State.wg, readyFrom_wgs]
      exact (placed_wg hw).1
    · rw [readyFrom_crews]
      rfl
    · obtain ⟨h₁, h₂, -, -⟩ := readyFrom_thr (s.placed w ((s.stashPlace w).getD 0)) ((s.placed w ((s.stashPlace w).getD 0)).wgThreads w) i
      exact ⟨h₂, h₁⟩
  case park =>
    rw [exec_workgroupPark_stay, parkEligible_of_waiting hw hfit (hplace.imp_right nextMoved_eq_none) hv]
    rcases hmoves with h | h | ⟨u, hu, hb⟩
    · exact .inl (nextMoved_eq_none (.inl h))
    · exact .inl (nextMoved_eq_none (.inr h))
    · by_cases hl : ∃ u ∈ s.admittedAt core, s.wantsPlace u = true ∧ s.stashPlace u = none
      · exact .inr ⟨u, (nextMoved_of_lacks hl).trans hu, hb⟩
      · exact .inl (nextMoved_of_not_lacks hl)
  case moved => exact exec_workgroupPark_moved ((nextMoved_of_lacks hl).trans hin) hb hr
  case victim =>
    refine ⟨_, exec_forcedPark_held hf he hv hr, stopOnly_victim hf hv, stopOnly_keeps State.threads (fun _ _ _ => rfl) s core _,
      stopOnly_keeps State.mem (fun _ _ _ => rfl) s core _, fun t _ ht => mayIssue_of_stopping ?_⟩
    rw [stopOnly_keeps (fun s => s.wgOf t) (fun _ _ _ => rfl), ht]
    exact stopOnly_victim hf hv
  case steal =>
    have hwg : (s.stolen w core).wg w =
        { s.wg w with core := core, rot := Config.rotation s.free, order := s.nextAdmission, since := s.cyc.toNat } :=
      (State.wg_updWg s w w _).trans (if_pos ⟨rfl, hw⟩)
    refine ⟨_, exec_workgroupSteal_mate hw hstage hst hsteal hdist hidle hcov hne hmate hadm hlast hmost, ?_, ?_, rfl, rfl, fun y hy =>
      (State.wg_updWg s w y _).trans (if_neg fun e => hy e.1.symm)⟩
    · rw [hwg]
    · rw [hwg, hstage]

end Sys2Proof.Machine
end

section
/-! PROOFS. What reads of the array and write-backs of stash lines leave of the state. -/

namespace Sys2Proof.Machine

/-! ### What reads of the array leave as it is (R405) -/

/-- Reads of the array correct lines and count what they corrected; nothing else changes. -/
def State.ReadsArray (s s' : State) : Prop :=
  ∃ mem poison err stks, s' = { s with mem := mem, poison := poison, arrayErr := err, stks := stks }

theorem State.ReadsArray.refl (s : State) : s.ReadsArray s := ⟨_, _, _, _, rfl⟩

theorem State.ReadsArray.trans {s₁ s₂ s₃ : State} (h₁ : s₁.ReadsArray s₂) (h₂ : s₂.ReadsArray s₃) : s₁.ReadsArray s₃ := by
  obtain ⟨_, _, _, _, rfl⟩ := h₁
  obtain ⟨_, _, _, _, rfl⟩ := h₂
  exact ⟨_, _, _, _, rfl⟩

theorem readArray_reads (s : State) (pa src : Nat) : s.ReadsArray (s.readArray pa src) := by
  unfold State.readArray
  dsimp only
  split
  · exact .refl s
  · split
    · exact ⟨_, _, _, _, rfl⟩
    · split <;> exact ⟨_, _, _, _, rfl⟩
    · split <;> exact ⟨_, _, _, _, rfl⟩

theorem demand_reads (s : State) (pa src : Nat) : s.ReadsArray (s.demand pa src) := by
  unfold State.demand
  split
  · exact .refl s
  · exact readArray_reads s pa src

theorem walkDemand_reads (ls : List Nat) (s : State) (t va : Nat) : s.ReadsArray (s.walkDemand t va ls) := by
  induction ls generalizing s t with
  | nil => exact .refl s
  | cons lvl lower ih =>
    unfold State.walkDemand
    dsimp only
    split
    · exact demand_reads s _ _
    · exact (demand_reads s _ _).trans (ih _ _)

theorem demandWalk_reads (s : State) (a : As) (va : DWord) : s.ReadsArray (s.demandWalk a va) := by
  unfold State.demandWalk
  split
  · exact .refl s
  · exact walkDemand_reads _ s _ _

theorem demandLeaf_reads (s : State) (a : As) (va : DWord) (write : Bool) : s.ReadsArray (s.demandLeaf a va write) := by
  unfold State.demandLeaf
  split
  · exact .refl s
  · split
    · exact demandWalk_reads s a va
    · split
      · exact .refl s
      · dsimp only
        split
        · exact demand_reads s _ _
        · exact (demand_reads s _ _).trans (demandWalk_reads _ a va)

theorem demandWb_reads (s : State) (w l : Nat) : s.ReadsArray (s.demandWb w l) := by
  unfold State.demandWb
  split
  · exact demandLeaf_reads s _ _ _
  · exact .refl s

/-! ### What write-backs of stash lines leave as it is (R53, R55, R384) -/

/-- Write-backs, with the marks of their leaves and the records of those that fail, change memory, stashes, cached leaves, counters and trap
slots; nothing else changes, and no workgroup comes or goes. -/
def State.WritesBack (s s' : State) : Prop :=
  ∃ mem poison err tlb wvc wgs cores stks, wgs.length = s.wgs.length ∧ s' =
    { s with mem := mem, poison := poison, arrayErr := err, tlb := tlb, wvc := wvc, wgs := wgs, cores := cores, stks := stks }

theorem State.WritesBack.refl (s : State) : s.WritesBack s := ⟨_, _, _, _, _, _, _, _, rfl, rfl⟩

theorem State.WritesBack.trans {s₁ s₂ s₃ : State} (h₁ : s₁.WritesBack s₂) (h₂ : s₂.WritesBack s₃) : s₁.WritesBack s₃ := by
  obtain ⟨_, _, _, _, _, _, _, _, hlen₁, rfl⟩ := h₁
  obtain ⟨_, _, _, _, _, _, _, _, hlen₂, rfl⟩ := h₂
  exact ⟨_, _, _, _, _, _, _, _, hlen₂.trans hlen₁, rfl⟩

theorem State.WritesBack.curRegs {s s' : State} (h : s.WritesBack s') : s'.curRegs = s.curRegs := by
  obtain ⟨_, _, _, _, _, _, _, _, -, rfl⟩ := h
  rfl

theorem State.WritesBack.wgs_length {s s' : State} (h : s.WritesBack s') : s'.wgs.length = s.wgs.length := by
  obtain ⟨_, _, _, _, _, _, _, _, hlen, rfl⟩ := h
  exact hlen

theorem State.ReadsArray.writesBack {s s' : State} (h : s.ReadsArray s') : s.WritesBack s' := by
  obtain ⟨_, _, _, _, rfl⟩ := h
  exact ⟨_, _, _, _, _, _, _, _, rfl, rfl⟩

theorem updWg_writesBack (s : State) (w : Nat) (f : Wg → Wg) : s.WritesBack (s.updWg w f) :=
  ⟨_, _, _, _, _, _, _, _, List.length_modify _ _ _, rfl⟩

theorem countWrite_writesBack (s : State) (pa : Nat) : s.WritesBack (s.countWrite pa) := by
  unfold State.countWrite
  split
  · exact ⟨_, _, _, _, _, _, _, _, rfl, rfl⟩
  · exact .refl s

theorem storeLine_writesBack (s : State) (pl : Nat) (bs : List Byte) (bad wv : Bool) : s.WritesBack (s.storeLine pl bs bad wv) := by
  unfold State.storeLine
  dsimp only
  split
  · exact .trans ⟨_, _, _, _, _, _, _, _, rfl, rfl⟩ (countWrite_writesBack _ _)
  · exact ⟨_, _, _, _, _, _, _, _, rfl, rfl⟩

theorem wbLine_writesBack (s : State) (w l : Nat) (x : LineSt) (wv : Bool) (pl : Nat) : s.WritesBack (s.wbLine w l x wv pl) :=
  (storeLine_writesBack s _ _ _ _).trans (updWg_writesBack _ _ _)

theorem putHome_writesBack (s : State) (pa : Nat) (bs : List Byte) : s.WritesBack (s.putHome pa bs) := by
  unfold State.putHome
  split
  · exact updWg_writesBack _ _ _
  · exact ⟨_, _, _, _, _, _, _, _, rfl, rfl⟩

theorem setLeaf_writesBack (s : State) (l : TlbLeaf) (w : Bool) : s.WritesBack (s.setLeaf l w) := by
  have hcache : ∀ (u : State) (tlb : List TlbLeaf), u.WritesBack { u with tlb := tlb } := fun _ _ => ⟨_, _, _, _, _, _, _, _, rfl, rfl⟩
  unfold State.setLeaf
  refine .trans ?_ (hcache _ _)
  split
  · exact .refl s
  · exact (putHome_writesBack s _ _).trans (countWrite_writesBack _ _)

theorem ownSlot_writesBack (n : Nat) (s : State) (l : TlbLeaf) (w : Bool) : s.WritesBack (s.ownSlot n l w) := by
  induction n generalizing s l w with
  | zero => exact .refl s
  | succ n ih =>
    unfold State.ownSlot
    split
    · exact .refl s
    · split
      · exact .refl s
      · split
        · exact .refl s
        · split
          · exact .refl s
          · exact updWg_writesBack _ _ _
        · refine .trans ?_ (updWg_writesBack _ _ _)
          split
          · exact (((demandWb_reads s _ _).writesBack.trans (ih _ _ _)).trans (setLeaf_writesBack _ _ _)).trans (wbLine_writesBack _ _ _ _ _ _)
          · exact .refl s

theorem wbStore_writesBack (s : State) (w l : Nat) (x : LineSt) (lf : TlbLeaf) (pl : Nat) : s.WritesBack (s.wbStore w l x lf pl) :=
  (((demandWb_reads s w l).writesBack.trans (ownSlot_writesBack _ _ _ _)).trans (setLeaf_writesBack _ _ _)).trans (wbLine_writesBack _ _ _ _ _ _)

theorem giveUpOwn_writesBack (s : State) (w l : Nat) : s.WritesBack (s.giveUpOwn w l) := by
  unfold State.giveUpOwn
  split
  · refine .trans ?_ (updWg_writesBack _ _ _)
    split
    · exact wbStore_writesBack s _ _ _ _ _
    · exact .refl s
  · exact .refl s

theorem cleanLine_writesBack (s : State) (w l : Nat) : s.WritesBack (s.cleanLine w l) := by
  unfold State.cleanLine
  split
  · split
    · refine .trans ?_ (wbStore_writesBack _ _ _ _ _ _)
      split
      · exact giveUpOwn_writesBack s _ _
      · exact .refl s
    · exact .refl s
  · exact .refl s

theorem putRec_writesBack (s : State) (r : TrapRec) : s.WritesBack (s.putRec r) := by
  unfold State.putRec
  split <;> exact ⟨_, _, _, _, _, _, _, _, rfl, rfl⟩

theorem wbRequest_writesBack (s : State) (w l : Nat) : s.WritesBack (s.wbRequest w l) := by
  unfold State.wbRequest
  split
  · exact .refl s
  · exact ((demandWb_reads s w l).writesBack.trans (putRec_writesBack _ _)).trans (updWg_writesBack _ _ _)

theorem cleanLines_writesBack (s : State) (w : Nat) (ls : List Nat) : s.WritesBack (s.cleanLines w ls).1 := by
  induction ls generalizing s with
  | nil => exact .refl s
  | cons l ls ih =>
    unfold State.cleanLines
    split
    · exact (cleanLine_writesBack s w l).trans (ih _)
    · split
      · exact wbRequest_writesBack s _ _
      · exact (demandWb_reads s w l).writesBack

end Sys2Proof.Machine
end

section
/-! PROOFS. Which accesses a cached leaf permits (O57). -/

namespace Sys2Proof.Machine

/-! ### The reads of a translation (R405) -/

theorem State.ReadsArray.tlbFind {s s' : State} (h : s.ReadsArray s') (a : As) (va : DWord) : s'.tlbFind a va = s.tlbFind a va := by
  obtain ⟨_, _, _, _, rfl⟩ := h
  rfl

theorem State.ReadsArray.residency {s s' : State} (h : s.ReadsArray s') (a : As) (va : DWord) (c : Cause) :
    s'.residency a va c = s.residency a va c := by
  obtain ⟨_, _, _, _, rfl⟩ := h
  rfl

theorem State.ReadsArray.leafCheck {s s' : State} (h : s.ReadsArray s') (a : As) (va : DWord) (n : Nat) (k : AccKind) (l : TlbLeaf) :
    s'.leafCheck a va n k l = s.leafCheck a va n k l := by
  obtain ⟨_, _, _, _, rfl⟩ := h
  rfl

/-- Nothing is read for an access under a cached leaf that sets no bit, nor where the array has no errors. -/
theorem demandLeaf_of_cached {s : State} {a : As} {va : DWord} {write : Bool} {l : TlbLeaf} (hl : s.tlbFind a va = some l)
    (h : write = false ∨ l.entry.getLsbD 8 = true ∨ s.arrayErr = []) : s.demandLeaf a va write = s := by
  unfold State.demandLeaf
  split
  · rfl
  · rename_i herr
    have hset : (!write || l.entry.getLsbD 8) = true := by
      rcases h with h | h | h
      · rw [h]; rfl
      · rw [h, Bool.or_true]
      · exact absurd h herr
    simp only [hl, hset, if_true]

/-! ### The steps of the check (R46, R233) -/

/-- R46: bits [63:57] of an address equal its bit 56. -/
theorem canonical_iff {va : DWord} : canonical va = true ↔ ∀ j, 57 ≤ j → j < 64 → va.getLsbD j = va.getLsbD 56 := by
  have hbit : ∀ b : Bool, ∀ i < 7, (if b then (127 : BitVec 7) else 0).getLsbD i = b := by decide
  rw [canonical, beq_iff_eq]
  constructor
  · intro h j hlo hhi
    calc va.getLsbD j = (va.extractLsb' 57 7).getLsbD (j - 57) := by
          rw [BitVec.getLsbD_extractLsb', decide_eq_true (by omega), Bool.true_and, Nat.add_sub_cancel' hlo]
      _ = va.getLsbD 56 := by rw [h, hbit _ _ (by omega)]
  · intro h
    refine BitVec.eq_of_getLsbD_eq fun i hi => ?_
    rw [hbit _ i hi, BitVec.getLsbD_extractLsb', h (57 + i) (by omega) (by omega), decide_eq_true hi, Bool.true_and]

variable {s : State} {a : As} {view : Option Nat} {va : DWord} {n : Nat} {k : AccKind}

theorem check_misaligned (h : va.toNat % n ≠ 0) : s.check a view va n k = (s, .trap (accTrap .misaligned k va)) := by
  rw [State.check, if_pos (by simpa using h)]

theorem check_aligned (h : va.toNat % n = 0) : s.check a view va n k = s.resolve a view va n k := by
  rw [State.check, if_neg (by simpa using h)]

theorem resolve_of_not_canonical (h : canonical va = false) : s.resolve a view va n k = (s, .trap (accTrap .access k va)) := by
  rw [State.resolve, if_pos (by rw [h]; rfl)]

theorem resolve_of_user (hc : canonical va = true) (hva : va.getLsbD 56 = true) (hsup : a.sup = false) :
    s.resolve a view va n k = (s, .trap (accTrap .access k va)) := by
  rw [State.resolve, if_neg (by rw [hc]; decide), if_pos (by rw [hva, hsup]; rfl)]

theorem accKind_writes : k.writes = decide (k = .store ∨ k = .atomic ∨ k = .engWrite ∨ k = .writeBack) := by
  cases k <;> rfl

/-- The address is translated by page tables, and nothing holds the access up: it is canonical and of a half that the agent may use, in no
aperture, in no page that a migration's switch holds, and no line that cannot be written back holds the leaf whose bits it sets. -/
structure State.Translates (s : State) (a : As) (va : DWord) (n : Nat) (k : AccKind) : Prop where
  canonical : canonical va = true
  half : va.getLsbD 56 = true → a.sup = true
  noAper : s.aperFind a va = none
  still : s.switching a va = none
  free : (s.demandLeaf a va k.writes).markBlocked a va n k = none

theorem State.Translates.halfAllowed (h : s.Translates a va n k) : (va.getLsbD 56 && !a.sup) = false := by
  cases hva : va.getLsbD 56
  · rfl
  · rw [h.half hva]; rfl

theorem resolve_unmapped (h : s.Translates a va n k) (hl : (s.demandLeaf a va k.writes).leafOf a va = (s.demandLeaf a va k.writes, none)) :
    s.resolve a view va n k = (s.demandLeaf a va k.writes, .trap (accTrap (s.residency a va .translation) k va)) := by
  simp only [State.resolve, h.canonical, h.halfAllowed, h.noAper, h.still, h.free, hl, (demandLeaf_reads s a va k.writes).residency,
    Bool.not_true, Bool.false_eq_true, if_false]

section
variable {l : TlbLeaf} (h : s.Translates a va n k) (hl : s.tlbFind a va = some l)
include h hl

/-- What a cached leaf answers at once is answered after the translation's reads. -/
theorem resolve_answered {c : Chk Place} (hc : s.leafCheck a va n k l = some c) :
    s.resolve a view va n k = (s.demandLeaf a va k.writes, c) := by
  have hreads := demandLeaf_reads s a va k.writes
  simp only [State.resolve, h.canonical, h.halfAllowed, h.noAper, h.still, h.free, State.leafOf, hreads.tlbFind, hl, hreads.leafCheck, hc,
    Bool.not_true, Bool.false_eq_true, if_false]

/-- An access that sets no d bit and that the leaf permits reaches the leaf's frame. -/
theorem resolve_reaches (hd : k.writes = true → l.entry.getLsbD 8 = true) (hc : s.leafCheck a va n k l = none) :
    s.resolve a view va n k = (s, .ok (.mem (run (l.pa va) n) (l.entry.getLsbD 11))) := by
  have hset : (k.writes && !l.entry.getLsbD 8) = false := by
    cases hk : k.writes
    · rfl
    · rw [hd hk]; rfl
  have hread : s.demandLeaf a va k.writes = s := by
    refine demandLeaf_of_cached hl ?_
    cases hk : k.writes
    · exact .inl rfl
    · exact .inr (.inl (hd hk))
  have hfree := h.free
  rw [hread] at hfree
  simp only [State.resolve, h.canonical, h.halfAllowed, h.noAper, h.still, hread, hfree, State.leafOf, hl, hc, State.leafStale, State.leafUse,
    hset, Bool.false_and, Bool.not_true, Bool.not_false, Bool.false_eq_true, if_true, if_false]

end

/-! ### What the leaf makes of an access (R46, R384, R390) -/

section
variable {l : TlbLeaf}

theorem leafCheck_denied (hp : leafPermits l.entry a.sup k = false) : s.leafCheck a va n k l = some (.trap (accTrap .access k va)) := by
  rw [State.leafCheck, hp]; rfl

theorem leafCheck_discarded (hp : leafPermits l.entry a.sup k = true) (hd : l.entry.getLsbD 10 = true) :
    s.leafCheck a va n k l = some (if k.writes then .trap (accTrap (s.residency a va .pageDiscarded) k va) else .ok (.value (List.replicate n 0))) := by
  simp only [State.leafCheck, hp, hd, Bool.not_true, Bool.false_eq_true, if_false, if_true]
  split <;> rfl

theorem leafCheck_present (hp : leafPermits l.entry a.sup k = true) (hd : l.entry.getLsbD 10 = false) :
    s.leafCheck a va n k l = if nbits (l.pa va) 50 2 = 2 then some (.trap (accTrap .access k va)) else none := by
  simp only [State.leafCheck, hp, hd, Bool.not_true, Bool.false_eq_true, if_false]

/-- WAITGE's reading of a discarded page raises, where a load would read zeros (R390). -/
theorem waitRead_discarded {core : Nat} (h : s.Translates a va 8 .wait) (hal : va.toNat % 8 = 0) (hl : s.tlbFind a va = some l)
    (hp : leafPermits l.entry a.sup .wait = true) (hd : l.entry.getLsbD 10 = true) :
    s.waitRead a core va = (s, .trap (accTrap (s.residency a va .pageDiscarded) .wait va)) := by
  have hread : s.demandLeaf a va AccKind.wait.writes = s := demandLeaf_of_cached hl (.inl rfl)
  rw [State.waitRead, check_aligned hal, resolve_answered h hl (leafCheck_discarded hp hd), hread]
  rfl

end

/-- Settles O57: the steps of R233 up to the leaf, then what the leaf makes of the access. -/
theorem accessChecks : Obligations.AccessChecks := by
  unfold Obligations.AccessChecks
  intro s a view va n k writes s1 trap upper sane leased
  have hwrites : k.writes = decide writes := accKind_writes
  have hs1 : s.demandLeaf a va k.writes = s1 := by rw [hwrites]
  have hcan : canonical va = true ↔ sane := canonical_iff
  have hleased : ∀ c, s.residency a va c = if leased then .leaseViolation else c := by
    intro c
    rw [State.residency, show s.leaseHolds a va = leased from ?_]
    refine congrArg (List.any _) (funext fun l => Bool.eq_iff_iff.mpr ?_)
    cases l.launch <;> simp [Option.isSome_iff_ne_none, and_assoc]
  refine ⟨check_misaligned, check_aligned, fun hc => resolve_of_not_canonical ?_, fun hc => resolve_of_user (hcan.mpr hc), ?_⟩
  · rwa [← Bool.not_eq_true, hcan]
  intro hc hhalf hap hsw hfree
  have htr : s.Translates a va n k := ⟨hcan.mpr hc, hhalf, hap, hsw, hs1 ▸ hfree⟩
  refine ⟨fun hl => ?unmapped, fun l hl => ?_⟩
  case unmapped =>
    rw [resolve_unmapped htr (by rw [hs1]; exact hl), hs1, hleased]
    rfl
  intro e rd wr permits frame off far
  have hpermits : permits = leafPermits e a.sup k := by
    cases k <;> rfl
  have hanswer {c : Chk Place} (h : s.leafCheck a va n k l = some c) : s.resolve a view va n k = (s1, c) := by
    rw [resolve_answered htr hl h, hs1]
  have hread (h : k.writes = false ∨ e.getLsbD 8 = true ∨ s.arrayErr = []) : s1 = s := by
    rw [← hs1, demandLeaf_of_cached hl h]
  refine ⟨fun h => hread ?_, fun hp => ?denied, fun hp hd hk => ?discarded, fun hp hd hk => ?waiting, fun hp hd hfar => ?far,
    fun hp hd hnear hset => ?reached⟩
  · rwa [hwrites, decide_eq_false_iff_not]
  case denied => exact hanswer (leafCheck_denied (hpermits ▸ hp))
  case discarded =>
    have hc := leafCheck_discarded (s := s) (va := va) (n := n) (hpermits ▸ hp) hd
    rw [hwrites] at hc
    refine ⟨fun hw => ?_, fun hr => ?_⟩
    · rw [hanswer hc, if_pos (by simpa using hw), hleased]
      rfl
    · rw [hanswer hc, if_neg (by simpa using hr), hread (by simpa [hwrites] using .inl hr)]
  case waiting =>
    intro hn hal core
    subst hk hn
    rw [waitRead_discarded htr hal hl (hpermits ▸ hp) hd, hleased]
    rfl
  case far => exact hanswer ((leafCheck_present (hpermits ▸ hp) hd).trans (if_pos hfar))
  case reached =>
    exact resolve_reaches htr hl (by simpa [hwrites] using hset) ((leafCheck_present (hpermits ▸ hp) hd).trans (if_neg hnear))

end Sys2Proof.Machine
end

section
/-! PROOFS. What each agent reads after a store, and after a write performed at its home (O18). -/

namespace Sys2Proof.Machine

/-! ### Runs of bytes -/

/-- An address before others either begins their first run or is a run of its own. -/
theorem runs_cons (pa : Nat) (b : Byte) (es : List (Nat × Byte)) :
    (∃ bs rest, runs es = (pa + 1, bs) :: rest ∧ runs ((pa, b) :: es) = (pa, b :: bs) :: rest) ∨
      runs ((pa, b) :: es) = (pa, [b]) :: runs es := by
  rw [runs]
  split
  · rename_i pb bs rest hruns
    split
    · rename_i hpb
      exact .inl ⟨bs, rest, hpb ▸ hruns, rfl⟩
    · exact .inr (by rw [hruns])
  · rename_i hruns
    exact .inr (by rw [hruns])

/-- A run begins at one of the addresses. -/
theorem fst_mem_of_mem_runs {es : List (Nat × Byte)} {r : Nat × List Byte} (h : r ∈ runs es) : r.1 ∈ es.map Prod.fst := by
  induction es generalizing r with
  | nil => cases h
  | cons e es ih =>
    rw [List.map_cons, List.mem_cons]
    rcases runs_cons e.1 e.2 es with ⟨bs, rest, hruns, hcons⟩ | hcons
    · rw [hcons] at h
      rcases List.mem_cons.mp h with rfl | h
      · exact .inl rfl
      · exact .inr (ih (hruns ▸ List.mem_cons_of_mem _ h))
    · rw [hcons] at h
      rcases List.mem_cons.mp h with rfl | h
      · exact .inl rfl
      · exact .inr (ih h)

/-- The byte at an address after a write, given the byte of the older ones. -/
def runByte (x : Nat) (old : Option Byte) (r : Nat × List Byte) : Option Byte :=
  if r.1 ≤ x ∧ x < r.1 + r.2.length then r.2[x - r.1]? else old

/-- A write of one byte. -/
def oneByte (x : Nat) (old : Option Byte) (e : Nat × Byte) : Option Byte := if e.1 = x then some e.2 else old

theorem runByte_nil (x pa : Nat) (old : Option Byte) : runByte x old (pa, []) = old := if_neg (by simp)

/-- A run's first byte is written, then the rest of it. -/
theorem runByte_cons (x pa : Nat) (b : Byte) (bs : List Byte) (old : Option Byte) :
    runByte x old (pa, b :: bs) = runByte x (oneByte x old (pa, b)) (pa + 1, bs) := by
  unfold runByte oneByte
  rcases Nat.lt_trichotomy pa x with h | rfl | h
  · obtain ⟨k, rfl⟩ : ∃ k, x = pa + 1 + k := ⟨x - (pa + 1), by omega⟩
    have hk : pa + 1 + k - pa = k + 1 := by omega
    simp only [List.length_cons, hk, Nat.add_sub_cancel_left, List.getElem?_cons_succ]
    rw [if_neg (show ¬ pa = pa + 1 + k by omega)]
    exact if_congr (by omega) rfl rfl
  · simp
  · rw [if_neg (by dsimp only; omega), if_neg (by dsimp only; omega), if_neg (by dsimp only; omega)]

/-- Runs read as the bytes that they were made of. -/
theorem foldl_runByte (x : Nat) (es : List (Nat × Byte)) (old : Option Byte) :
    (runs es).foldl (runByte x) old = es.foldl (oneByte x) old := by
  induction es generalizing old with
  | nil => rfl
  | cons e es ih =>
    rw [List.foldl_cons, ← ih]
    rcases runs_cons e.1 e.2 es with ⟨bs, rest, hruns, hcons⟩ | hcons
    · rw [hcons, hruns, List.foldl_cons, List.foldl_cons, runByte_cons]
    · rw [hcons, List.foldl_cons, runByte_cons, runByte_nil]

theorem foldl_oneByte_of_notMem {x : Nat} {es : List (Nat × Byte)} (h : x ∉ es.map Prod.fst) (old : Option Byte) :
    es.foldl (oneByte x) old = old := by
  induction es generalizing old with
  | nil => rfl
  | cons e es ih =>
    obtain ⟨he, hes⟩ := not_or.mp (mt List.mem_cons.mpr h)
    rw [List.foldl_cons, ih hes, oneByte, if_neg (Ne.symm he)]

/-- Of bytes at different addresses each reads as it was written. -/
theorem foldl_oneByte_of_mem {e : Nat × Byte} {es : List (Nat × Byte)} (hn : (es.map Prod.fst).Nodup) (h : e ∈ es) (old : Option Byte) :
    es.foldl (oneByte e.1) old = some e.2 := by
  induction es generalizing old with
  | nil => cases h
  | cons e' es ih =>
    obtain ⟨hnot, hrest⟩ := List.nodup_cons.mp hn
    rw [List.foldl_cons]
    rcases List.mem_cons.mp h with rfl | h
    · rw [foldl_oneByte_of_notMem hnot, oneByte, if_pos rfl]
    · exact ih hrest h _

/-! ### Posted writes (R55, R97) -/

/-- Writes join the posted ones. -/
def State.withPosted (s : State) (ws : List PostedW) : State := { s with posted := s.posted ++ ws }

/-- The writes of a core's store, run by run. -/
def State.postedRuns (s : State) (core : Nat) (wv : Bool) (rs : List (Nat × List Byte)) : List PostedW :=
  rs.map fun r => ⟨core, r.1, r.2, wv, s.tlbGen⟩

theorem foldl_post_of_free {s : State} {core : Nat} {wv : Bool} {rs : List (Nat × List Byte)} (h : ∀ r ∈ rs, s.dirFind (r.1 / 64) = none) :
    rs.foldl (fun s r => s.post core r.1 r.2 wv) s = s.withPosted (s.postedRuns core wv rs) := by
  induction rs generalizing s with
  | nil => simp [State.withPosted, State.postedRuns]
  | cons r rs ih =>
    obtain ⟨hr, hrs⟩ := List.forall_mem_cons.mp h
    have hpost : s.post core r.1 r.2 wv = s.withPosted [⟨core, r.1, r.2, wv, s.tlbGen⟩] := if_neg (by rw [hr]; decide)
    rw [List.foldl_cons, hpost, ih (s := s.withPosted _) hrs]
    simp [State.withPosted, State.postedRuns]

/-- A store to lines that no stash has registered is posted, and nothing else happens. -/
theorem storePlace_of_free {s : State} {pas : List Nat} (h : ∀ pa ∈ pas, s.dirFind (pa / 64) = none) (core : Nat) (wv : Bool) (bs : List Byte) :
    s.storePlace core (.mem pas wv) bs = s.withPosted (s.postedRuns core wv (runs (pas.zip bs))) := by
  refine foldl_post_of_free fun r hr => h _ ?_
  obtain ⟨e, he, hfst⟩ := List.mem_map.mp (fst_mem_of_mem_runs hr)
  exact hfst ▸ (List.of_mem_zip he).1

/-- A core's own posted writes are those that it reads. -/
theorem postedByte_postedRuns (s : State) (core c x : Nat) (wv : Bool) (es : List (Nat × Byte)) :
    postedByte (s.withPosted (s.postedRuns core wv (runs es))).posted c x =
      if c = core then es.foldl (oneByte x) (postedByte s.posted c x) else postedByte s.posted c x := by
  rw [State.withPosted, postedByte, List.foldl_append, ← postedByte, State.postedRuns, List.foldl_map]
  split
  · rename_i hc
    rw [← foldl_runByte]
    simp only [hc, true_and]
    rfl
  · rename_i hc
    simp only [Ne.symm hc, false_and, if_false]
    exact List.foldl_fixed _

/-- A store to lines that no stash has registered shows in the bytes that its own core reads, and in no other agent's (R55, R97). -/
theorem viewByte_storePlace {s : State} {pas : List Nat} (h : ∀ pa ∈ pas, s.dirFind (pa / 64) = none) (core : Nat) (wv : Bool) (bs : List Byte)
    (view : Option Nat) (x : Nat) :
    (s.storePlace core (.mem pas wv) bs).viewByte view x =
      if view = some core then ((pas.zip bs).foldl (oneByte x) (postedByte s.posted core x)).getD (s.homeByte x) else s.viewByte view x := by
  rw [storePlace_of_free h]
  cases view with
  | none => rfl
  | some c =>
    have hcore : (some c = some core) = (c = core) := propext Option.some_inj
    simp only [State.viewByte, State.coreByte, hcore]
    rw [postedByte_postedRuns]
    split
    · rename_i hc
      rw [hc]
      rfl
    · rfl

/-! ### Writes performed at their home (R55, R97) -/

theorem foldl_takeLine_of_free {s : State} {ls : List Nat} (h : ∀ l ∈ ls, s.dirFind l = none) : ls.foldl (fun s l => s.takeLine l) s = s := by
  induction ls with
  | nil => rfl
  | cons l ls ih =>
    obtain ⟨hl, hls⟩ := List.forall_mem_cons.mp h
    rw [List.foldl_cons, State.takeLine, hl]
    exact ih hls

@[simp] theorem countWrite_wgs (s : State) (pa : Nat) : (s.countWrite pa).wgs = s.wgs := by
  unfold State.countWrite
  split <;> rfl

/-- The lines of a range are those of its bytes. -/
theorem exists_byte_of_line {pa n i : Nat} (hn : 0 < n) (hi : i < (pa + n - 1) / 64 - pa / 64 + 1) : ∃ k < n, (pa + k) / 64 = pa / 64 + i := by
  rcases Nat.eq_zero_or_pos i with rfl | hpos
  · exact ⟨0, hn, rfl⟩
  · exact ⟨64 * (pa / 64 + i) - pa, by omega, by omega⟩

/-- A write whose lines no stash has registered, in an array without errors, changes memory by its bytes and no workgroup. -/
theorem perform_of_free {s : State} {pa : Nat} {bs : List Byte} (herr : s.arrayErr = []) (h : ∀ k < bs.length, s.dirFind ((pa + k) / 64) = none)
    (wv : Bool) : (s.perform pa bs wv).mem = putBytes s.mem pa bs ∧ (s.perform pa bs wv).wgs = s.wgs := by
  cases bs with
  | nil => exact ⟨rfl, rfl⟩
  | cons b bs =>
    have hlines : ∀ l ∈ (List.range ((pa + (b :: bs).length - 1) / 64 - pa / 64 + 1)).map (pa / 64 + ·), s.dirFind l = none := by
      intro l hl
      obtain ⟨i, hi, rfl⟩ := List.mem_map.mp hl
      obtain ⟨k, hk, hline⟩ := exists_byte_of_line (Nat.succ_pos _) (List.mem_range.mp hi)
      exact hline ▸ h k hk
    unfold State.perform
    dsimp only
    rw [foldl_takeLine_of_free hlines, if_pos herr]
    split
    · exact ⟨foldl_keeps State.mem _ _ _ fun s u => countWrite_mem s _, foldl_keeps State.wgs _ _ _ fun s u => countWrite_wgs s _⟩
    · exact ⟨rfl, rfl⟩

/-- The directory depends on the workgroups' stashes alone. -/
theorem dirFind_congr {s s' : State} (h : s'.wgs = s.wgs) (pl : Nat) : s'.dirFind pl = s.dirFind pl := by
  simp only [State.dirFind, State.wg, h]

theorem homeByte_congr {s s' : State} (h : s'.wgs = s.wgs) (x : Nat) :
    s'.homeByte x = if (s.dirFind (x / 64)).isSome then s.homeByte x else s'.mem.get x := by
  rw [State.homeByte, State.homeByte, dirFind_congr h]
  cases s.dirFind (x / 64) with
  | none => rfl
  | some v => simp only [State.wg, h, Option.isSome_some, if_true]

/-- Settles O18: what a core's posted writes give it, and what a performed write gives everyone. -/
theorem storedBytes : Obligations.StoredBytes := by
  unfold Obligations.StoredBytes
  refine ⟨fun s core pas bs wv hn hlen hfree => ?posted, fun s pa bs wv _ herr hfree x => ?performed⟩
  case posted =>
    dsimp only
    have hkeys : (pas.zip bs).map Prod.fst = pas := List.map_fst_zip (Nat.le_of_eq hlen)
    refine ⟨fun j hj => ?_, fun x hx => ?_, fun view x hview => ?_, ?_⟩
    · have hjb : j < bs.length := hlen ▸ hj
      have hmem : (pas[j], bs[j]) ∈ pas.zip bs := List.mem_iff_getElem.mpr ⟨j, by simp [hj, hjb], List.getElem_zip⟩
      rw [viewByte_storePlace hfree, if_pos rfl, foldl_oneByte_of_mem (e := (pas[j], bs[j])) (hkeys.symm ▸ hn) hmem,
        List.getD_eq_getElem _ _ hjb]
      rfl
    · rw [viewByte_storePlace hfree, if_pos rfl, foldl_oneByte_of_notMem (hkeys.symm ▸ hx)]
      rfl
    · rw [viewByte_storePlace hfree, if_neg hview]
    · rw [storePlace_of_free hfree]
      rfl
  case performed =>
    obtain ⟨hmem, hwgs⟩ := perform_of_free herr hfree wv
    rw [homeByte_congr hwgs, hmem, get_putBytes]
    cases hd : s.dirFind (x / 64) with
    | none => simp only [State.homeByte, hd, Option.isSome_none, Bool.false_eq_true, if_false]
    | some v =>
      rw [if_pos Option.isSome_some, if_neg]
      rintro ⟨hlo, hhi⟩
      have := hfree (x - pa) (by omega)
      rw [Nat.add_sub_cancel' hlo, hd] at this
      cases this

end Sys2Proof.Machine
end

section
/-! PROOFS. The map instructions (O22). -/

namespace Sys2Proof.Machine

/-! ### Re-forming touches no workgroup and no operation -/

@[simp] theorem State.reforms_wgs (s : State) : s.reforms.wgs = s.wgs := by obtain ⟨_, h⟩ := s.reforms_eq; rw [h]
@[simp] theorem State.reforms_issue (s : State) : s.reforms.issue = s.issue := by obtain ⟨_, h⟩ := s.reforms_eq; rw [h]
@[simp] theorem State.reforms_wg (s : State) (w : Nat) : s.reforms.wg w = s.wg w := by simp only [State.wg, State.reforms_wgs]
@[simp] theorem State.reforms_wgOf (s : State) (t : Nat) : s.reforms.wgOf t = s.wgOf t := by
  simp only [State.wgOf, State.wgOfCrew, State.reforms_crewOf, State.reforms_crew]
@[simp] theorem State.reforms_stashBusy (s : State) (w : Nat) (rs : List (Nat × Nat)) : s.reforms.stashBusy w rs = s.stashBusy w rs := by
  obtain ⟨_, h⟩ := s.reforms_eq
  rw [h]
  rfl
@[simp] theorem State.reforms_smapBad (s : State) (w : Nat) (e : MapEnt) : s.reforms.smapBad w e = s.smapBad w e := by
  obtain ⟨_, h⟩ := s.reforms_eq
  rw [h]
  rfl

/-! ### The outcomes of a map instruction (R174, R240) -/

/-- A stall that holds the same instruction of higher lanes too. -/
def State.stallBehind (s : State) : State := State.stallCur { s with issue := { s.issue with behind := some none } }

theorem deliver_v_broke {i : Iss} (h : i.a.brk = true) (s : State) (x : Word) :
    deliver i (.v s x) = s.goesOn (if i.h.nw then s.curRegs else s.curRegs.setV i.h.d.toNat x).broke := by
  simp only [deliver, advance_updRegs, h, chainRes, if_true]
  rfl

section
variable {s u : State} {i : Iss} {go : Regs → State → Res} (hr : s.ready i = true) (hb : i.a.brk = true)
include hr hb

theorem issueI_mapTurn_behind {x : Option Wait} (h : s.issue.behind = some x) :
    (s.issueI i fun s r => s.mapTurn (go r)) = .next (x.elim s.reforms.stallCur s.reforms.hold) := by
  rw [issueI_ready_brk hr hb, State.mapTurn_behind _ x _ (by rw [State.reforms_issue, h])]
  cases x <;> rfl

variable (h : s.issue.behind = none)
include h

theorem issueI_mapTurn_stall (hgo : go s.curRegs s.reforms = .stall u) : (s.issueI i fun s r => s.mapTurn (go r)) = .next u.stallBehind := by
  rw [issueI_ready_brk hr hb, State.mapTurn_first _ _ (by rw [State.reforms_issue, h]), hgo]
  rfl

theorem issueI_mapTurn_trap {c : TrapInfo} (hgo : go s.curRegs s.reforms = .trap u c) :
    (s.issueI i fun s r => s.mapTurn (go r)) = .next (u.raise c) := by
  rw [issueI_ready_brk hr hb, State.mapTurn_first _ _ (by rw [State.reforms_issue, h]), hgo]
  rfl

theorem issueI_mapTurn_none (hgo : go s.curRegs s.reforms = .none u) (hu : u.curRegs = s.curRegs) :
    (s.issueI i fun s r => s.mapTurn (go r)) = .next (u.goesOn s.curRegs.broke) := by
  rw [issueI_ready_brk hr hb, State.mapTurn_first _ _ (by rw [State.reforms_issue, h]), hgo, ← hu]
  exact congrArg _ (deliver_broke hb u)

theorem issueI_mapTurn_v {x : Word} (hgo : go s.curRegs s.reforms = .v u x) (hu : u.curRegs = s.curRegs) :
    (s.issueI i fun s r => s.mapTurn (go r)) =
      .next (u.goesOn (if i.h.nw then s.curRegs else s.curRegs.setV i.h.d.toNat x).broke) := by
  rw [issueI_ready_brk hr hb, State.mapTurn_first _ _ (by rw [State.reforms_issue, h]), hgo, ← hu]
  exact congrArg _ (deliver_v_broke hb u x)

end

/-! ### Slots of the map (R51) -/

theorem getD_setMap {ms : List (Option MapEnt)} {i j : Nat} {e : Option MapEnt} (hj : j < 8) :
    (setMap ms i e).getD j none = if j = i then e else ms.getD j none := by
  rw [setMap, List.getD_eq_getElem _ _ (by simpa using hj)]
  simp

theorem freeMap_eq {ms : List (Option MapEnt)} {i : Nat} (hi : i < 8) (hfree : ms.getD i none = none) (hlow : ∀ j < i, ms.getD j none ≠ none) :
    freeMap ms = i := by
  rw [freeMap, List.find?_range_eq_some.mpr ⟨by rw [hfree]; rfl, List.mem_range.mpr hi, fun j hj => ?_⟩]
  · rfl
  · rw [Bool.not_eq_true', ← Bool.not_eq_true, Option.isNone_iff_eq_none]
    exact hlow j hj

/-! ### An entry's lines after SUNMAP (R241) -/

/-- A filled line keeps its bytes, an unfilled one is cleared. -/
def clearUnfilled (lines : Store (Option LineSt)) (m : Store Byte) (l : Nat) : Store Byte :=
  match lines.get l with
  | some _ => m
  | none => putBytes m (64 * l) (List.replicate 64 0)

theorem get_clearUnfilled (lines : Store (Option LineSt)) (m : Store Byte) (l x : Nat) :
    (clearUnfilled lines m l).get x = if x / 64 = l ∧ lines.get l = none then 0 else m.get x := by
  unfold clearUnfilled
  cases hl : lines.get l with
  | some _ => simp
  | none =>
    rw [get_putBytes, List.length_replicate]
    by_cases hx : x / 64 = l
    · rw [if_pos (by omega), if_pos ⟨hx, rfl⟩, List.getD_replicate _ (by omega)]
    · rw [if_neg (by omega), if_neg fun h => hx h.1]

theorem get_foldl_clearUnfilled (lines : Store (Option LineSt)) (ls : List Nat) (m : Store Byte) (x : Nat) :
    (ls.foldl (clearUnfilled lines) m).get x = if x / 64 ∈ ls ∧ lines.get (x / 64) = none then 0 else m.get x := by
  induction ls generalizing m with
  | nil => simp
  | cons l ls ih =>
    rw [List.foldl_cons, ih, get_clearUnfilled]
    by_cases hl : x / 64 = l
    · subst hl
      by_cases hn : lines.get (x / 64) = none <;> simp [hn]
    · simp [hl]

theorem get_foldl_unfill (ls : List Nat) (m : Store (Option LineSt)) (y : Nat) :
    (ls.foldl (fun m l => m.set l none) m).get y = if y ∈ ls then none else m.get y := by
  induction ls generalizing m with
  | nil => simp
  | cons l ls ih =>
    rw [List.foldl_cons, ih, Store.get_set]
    by_cases hy : y = l <;> simp [hy]

/-- The lines of an entry that begins at a line are those of its bytes. -/
theorem mem_lineList {e : MapEnt} (h : e.off % 64 = 0) (x : Nat) : x / 64 ∈ e.lineList ↔ e.off ≤ x ∧ x < e.off + 64 * e.lines := by
  simp only [MapEnt.lineList, List.mem_map, List.mem_range]
  constructor
  · rintro ⟨k, hk, hx⟩
    omega
  · rintro ⟨hlo, hhi⟩
    exact ⟨x / 64 - e.off / 64, by omega, by omega⟩

section
variable {s : State} {w : Nat} (hw : w < s.wgs.length) (i : Nat) (e : MapEnt)
include hw

theorem dropEntry_maps {j : Nat} (hj : j < 8) :
    ((s.dropEntry w i e).wg w).maps.getD j none = if j = i then none else (s.wg w).maps.getD j none := by
  rw [State.dropEntry, State.wg_updWg, if_pos ⟨rfl, hw⟩]
  exact getD_setMap hj

theorem dropEntry_stash (x : Nat) : ((s.dropEntry w i e).wg w).stash.get x =
    if x / 64 ∈ e.lineList ∧ (s.wg w).lines.get (x / 64) = none then 0 else (s.wg w).stash.get x := by
  rw [State.dropEntry, State.wg_updWg, if_pos ⟨rfl, hw⟩]
  exact get_foldl_clearUnfilled _ _ _ x

theorem dropEntry_lines (y : Nat) :
    ((s.dropEntry w i e).wg w).lines.get y = if y ∈ e.lineList then none else (s.wg w).lines.get y := by
  rw [State.dropEntry, State.wg_updWg, if_pos ⟨rfl, hw⟩]
  exact get_foldl_unfill _ _ y

end

/-! ### The instructions -/

/-- A map instruction of a higher lane does what the one that it is behind does (R240). -/
theorem exec_map_behind {s : State} {h : Hdr} {a b : Src} {all : Bool} {i : Instr} {x : Option Wait}
    (hi : i ∈ [.smap h a, .sunmap h a, .sflush h a b all, .sinv h a b all]) (hr : s.runs i = true) (hb : s.issue.behind = some x) :
    exec i s = .next (x.elim s.reforms.stallCur s.reforms.hold) := by
  simp only [List.mem_cons, List.not_mem_nil, or_false] at hi
  rcases hi with rfl | rfl | rfl | rfl
  · rw [exec_smap, execSmap, issueI_mapTurn_behind hr rfl hb]
  · rw [exec_sunmap, execSunmap, issueI_mapTurn_behind hr rfl hb]
  · rw [exec_sflush, execSflush, issueI_mapTurn_behind hr rfl hb]
  · rw [exec_sinv, execSinv, issueI_mapTurn_behind hr rfl hb]

theorem curRegs_of_cleanLines {s u : State} {w : Nat} {ls : List Nat} {c : Chk Unit} (h : s.cleanLines w ls = (u, c)) :
    u.curRegs = s.curRegs := by
  rw [← show (s.cleanLines w ls).1 = u by rw [h]]
  exact (cleanLines_writesBack s w ls).curRegs

theorem exec_sflush_refused {s : State} {h : Hdr} {a b : Src} {all : Bool} {c : TrapInfo} (hb : s.issue.behind = none)
    (hr : s.runs (.sflush h a b all) = true) (hbad : sflushBad all (s.curRegs.rx a) (s.curRegs.rv b).toNat = some c) :
    exec (.sflush h a b all) s = .next (s.reforms.raise c) := by
  rw [exec_sflush, execSflush]
  refine issueI_mapTurn_trap hr rfl hb ?_
  simp only [hbad]

section
variable {s : State} {t : Nat} {h : Hdr} {a b : Src} {all : Bool} {e : MapEnt} (hc : s.cur = .thread t)
  (hb : s.issue.behind = none)
include hc hb

theorem exec_smap_runs (hr : s.runs (.smap h a) = true) (hq : entryOfQuad (s.curRegs.regsNat (srcReg a) 4) = some e) :
    exec (.smap h a) s =
      if s.stashBusy (s.wgOf t) [e.range] then .next s.reforms.stallBehind
      else if s.smapBad (s.wgOf t) e then .next (s.reforms.raise { cause := .illegalOperand })
      else
        let i := freeMap (s.wg (s.wgOf t)).maps
        .next ((s.reforms.updWg (s.wgOf t) fun g => { g with maps := setMap g.maps i (some e) }).goesOn
          (if h.nw then s.curRegs else s.curRegs.setV h.d.toNat (BitVec.ofNat 32 i)).broke) := by
  rw [exec_smap, execSmap]
  split
  · rename_i hbusy
    refine issueI_mapTurn_stall hr rfl hb ?_
    simp [hq, State.t_of_cur hc, hbusy]
  · rename_i hbusy
    split
    · rename_i hbad
      refine issueI_mapTurn_trap hr rfl hb ?_
      simp [hq, State.t_of_cur hc, hbusy, hbad]
    · rename_i hbad
      refine issueI_mapTurn_v (i := ⟨aMem, h, [.quad a], .v h.d⟩) hr rfl hb ?_ (s.reforms_curRegs)
      simp [hq, State.t_of_cur hc, hbusy, hbad]

section
variable (hr : s.runs (.sunmap h a) = true)
include hr

theorem exec_sunmap_unmapped (he : (s.wg (s.wgOf t)).maps.getD (s.curRegs.rv a).toNat none = none) :
    exec (.sunmap h a) s = .next (s.reforms.raise { cause := .illegalOperand }) := by
  rw [exec_sunmap, execSunmap]
  refine issueI_mapTurn_trap hr rfl hb ?_
  simp only [State.reforms_t, State.t_of_cur hc, State.reforms_wgOf, State.reforms_wg, he]

variable (he : (s.wg (s.wgOf t)).maps.getD (s.curRegs.rv a).toNat none = some e)
include he

theorem exec_sunmap_busy (hbusy : s.stashBusy (s.wgOf t) [e.range] = true) : exec (.sunmap h a) s = .next s.reforms.stallBehind := by
  rw [exec_sunmap, execSunmap]
  refine issueI_mapTurn_stall hr rfl hb ?_
  simp only [State.reforms_t, State.t_of_cur hc, State.reforms_wgOf, State.reforms_wg, State.reforms_stashBusy, he, hbusy, if_true]

variable {u : State} (hbusy : s.stashBusy (s.wgOf t) [e.range] = false)
include hbusy

theorem exec_sunmap_trap {c : TrapInfo} (hcl : s.reforms.cleanLines (s.wgOf t) e.lineList = (u, .trap c)) :
    exec (.sunmap h a) s = .next (u.raise c) := by
  rw [exec_sunmap, execSunmap]
  refine issueI_mapTurn_trap hr rfl hb ?_
  simp only [State.reforms_t, State.t_of_cur hc, State.reforms_wgOf, State.reforms_wg, State.reforms_stashBusy, he, hbusy, hcl,
    Bool.false_eq_true, if_false]

theorem exec_sunmap_cleaned (hcl : s.reforms.cleanLines (s.wgOf t) e.lineList = (u, .ok ())) :
    exec (.sunmap h a) s = .next ((u.dropEntry (s.wgOf t) (s.curRegs.rv a).toNat e).goesOn s.curRegs.broke) := by
  rw [exec_sunmap, execSunmap]
  refine issueI_mapTurn_none (u := u.dropEntry _ _ e) hr rfl hb ?_ ?_
  · simp only [State.reforms_t, State.t_of_cur hc, State.reforms_wgOf, State.reforms_wg, State.reforms_stashBusy, he, hbusy, hcl,
      Bool.false_eq_true, if_false]
  · exact (curRegs_of_cleanLines hcl).trans s.reforms_curRegs

end

section
variable {u : State} (hr : s.runs (.sflush h a b all) = true)
include hr

variable (hok : sflushBad all (s.curRegs.rx a) (s.curRegs.rv b).toNat = none)
include hok

theorem exec_sflush_trap {c : TrapInfo} (hcl : s.reforms.cleanLines (s.wgOf t)
    ((s.wg (s.wgOf t)).coveredLines all (s.curRegs.rx a).toNat (s.curRegs.rv b).toNat) = (u, .trap c)) :
    exec (.sflush h a b all) s = .next (u.raise c) := by
  rw [exec_sflush, execSflush]
  refine issueI_mapTurn_trap hr rfl hb ?_
  simp only [State.reforms_t, State.t_of_cur hc, State.reforms_wgOf, State.reforms_wg, hok, hcl]

theorem exec_sflush_cleaned (hcl : s.reforms.cleanLines (s.wgOf t)
    ((s.wg (s.wgOf t)).coveredLines all (s.curRegs.rx a).toNat (s.curRegs.rv b).toNat) = (u, .ok ())) :
    exec (.sflush h a b all) s = .next (u.goesOn s.curRegs.broke) := by
  rw [exec_sflush, execSflush]
  refine issueI_mapTurn_none hr rfl hb ?_ ?_
  · simp only [State.reforms_t, State.t_of_cur hc, State.reforms_wgOf, State.reforms_wg, hok, hcl]
  · exact (curRegs_of_cleanLines hcl).trans s.reforms_curRegs

end

theorem exec_sinv_runs (hr : s.runs (.sinv h a b all) = true) (hok : sflushBad all (s.curRegs.rx a) (s.curRegs.rv b).toNat = none) :
    exec (.sinv h a b all) s =
      if s.stashBusy (s.wgOf t) ((s.wg (s.wgOf t)).coverRanges all (s.curRegs.rx a).toNat (s.curRegs.rv b).toNat) then .next s.reforms.stallBehind
      else .next ((s.reforms.updWg (s.wgOf t) fun g => { g with
        lines := (g.coveredLines all (s.curRegs.rx a).toNat (s.curRegs.rv b).toNat).foldl (fun m l => m.set l none) g.lines }).goesOn
          s.curRegs.broke) := by
  rw [exec_sinv, execSinv]
  split
  · rename_i hbusy
    refine issueI_mapTurn_stall hr rfl hb ?_
    simp [hok, State.t_of_cur hc, hbusy]
  · rename_i hbusy
    refine issueI_mapTurn_none hr rfl hb ?_ s.reforms_curRegs
    simp [hok, State.t_of_cur hc, hbusy]

end

theorem sflushBad_eq_none {all : Bool} {va : DWord} {n : Nat} (h : all = true ∨ va.toNat % 64 = 0 ∧ 1 ≤ n ∧ n ≤ 49152) :
    sflushBad all va n = none := by
  rcases h with rfl | ⟨hva, hlo, hhi⟩
  · rfl
  · cases all
    · simp [sflushBad, hva, Nat.ne_of_gt hlo, Nat.not_lt.mpr hhi]
    · rfl

theorem sflushBad_misaligned {va : DWord} {n : Nat} (h : va.toNat % 64 ≠ 0) :
    sflushBad false va n = some { cause := .misaligned, detail := 6, addr := va } := by
  simp [sflushBad, h]

/-- Settles O22, instruction by instruction; an entry's slot and lines are read off the workgroup that it leaves. -/
theorem stashMaps : Obligations.StashMaps := by
  unfold Obligations.StashMaps
  intro s t h a b all e i hc r w slot va n behind hw
  have hw' : w < s.reforms.wgs.length := by rwa [State.reforms_wgs]
  refine ⟨fun hb => ⟨fun hr hq => ?smap, fun hr hi he => ?sunmap, exec_sunmap_unmapped hc hb, fun hok => ?lines,
    fun hall hva hr => ?misaligned⟩, fun i hi hr => ⟨exec_map_behind hi hr, fun x => exec_map_behind hi hr⟩⟩
  case misaligned =>
    subst hall
    exact exec_sflush_refused hb hr (sflushBad_misaligned hva)
  case smap =>
    have hexec := exec_smap_runs hc hb hr hq
    refine ⟨fun hbusy => ?_, fun hbusy hbad => ?_, fun hbusy hbad hi hfree hlow => ?_⟩
    · rw [hexec, if_pos hbusy]
      rfl
    · rw [hexec, if_neg (Bool.eq_false_iff.mp hbusy), if_pos hbad]
    · rw [if_neg (Bool.eq_false_iff.mp hbusy), if_neg (Bool.eq_false_iff.mp hbad), freeMap_eq hi hfree hlow] at hexec
      refine ⟨_, hexec, ?_, fun j hj hji => ?_, ?_, ?_, s.reforms_mem⟩
      all_goals rw [State.wg_updWg, if_pos ⟨rfl, hw'⟩, State.reforms_wg]
      · exact (getD_setMap hi).trans (if_pos rfl)
      · exact (getD_setMap hj).trans (if_neg hji)
  case sunmap =>
    intro cleaned u
    refine ⟨exec_sunmap_busy hc hb hr he, fun hbusy => ⟨fun c hcl => ?_, fun hcl => ?_⟩⟩
    · exact exec_sunmap_trap hc hb hr he hbusy (Prod.ext rfl hcl)
    · have hu : w < u.wgs.length := by rwa [(cleanLines_writesBack _ _ _).wgs_length]
      refine ⟨_, exec_sunmap_cleaned hc hb hr he hbusy (Prod.ext rfl hcl), ?_, rfl, rfl, fun j hj hji => ?_, fun x hlo hhi hal => ?_,
        fun x hx hal => ?_⟩
      · exact (dropEntry_maps hu _ e hi).trans (if_pos rfl)
      · exact (dropEntry_maps hu _ e hj).trans (if_neg hji)
      · have hin := (mem_lineList hal x).mpr ⟨hlo, hhi⟩
        rw [dropEntry_stash hu, dropEntry_lines hu, if_pos hin]
        refine ⟨?_, rfl⟩
        cases (u.wg w).lines.get (x / 64) <;> simp [hin]
      · have hout : x / 64 ∉ e.lineList := fun hin => by
          have := (mem_lineList hal x).mp hin
          omega
        rw [dropEntry_stash hu, dropEntry_lines hu, if_neg hout, if_neg fun hx => hout hx.1]
        exact ⟨rfl, rfl⟩
  case lines =>
    have hok' : sflushBad all (r.rx a) n = none := sflushBad_eq_none hok
    refine ⟨fun hr => ?_, fun hr hbusy => ?_, fun hr hbusy => ?_⟩
    · intro cleaned
      exact ⟨fun hcl => exec_sflush_cleaned hc hb hr hok' (Prod.ext rfl hcl), fun c hcl => exec_sflush_trap hc hb hr hok' (Prod.ext rfl hcl)⟩
    · rw [exec_sinv_runs hc hb hr hok', if_pos hbusy]
      rfl
    · have hexec := exec_sinv_runs hc hb hr hok'
      rw [if_neg (Bool.eq_false_iff.mp hbusy)] at hexec
      refine ⟨_, hexec, s.reforms_mem, ?_, ?_, ?_⟩
      all_goals rw [State.wg_updWg, if_pos ⟨rfl, hw'⟩, State.reforms_wg]

end Sys2Proof.Machine
end

section
/-! PROOFS. TSTAT of a leader, and the allocation that refutes O26. -/

namespace Sys2Proof.Machine

/-! ### A pair of registers -/

@[simp] theorem Regs.setX_x (r : Regs) (n : Nat) (x : DWord) : (r.setX n x).x n = x := by
  simp only [Regs.x, Regs.setX, Store.get_set, if_true, if_neg (Nat.ne_of_lt (Nat.lt_succ_self n))]
  exact BitVec.eq_of_toNat_eq (by
    simp only [BitVec.toNat_append, BitVec.extractLsb'_toNat, BitVec.toNat_setWidth, Nat.shiftRight_eq_div_pow]
    rw [← Nat.shiftLeft_add_eq_or_of_lt (Nat.mod_lt _ (by decide)), Nat.shiftLeft_eq]
    omega)

@[simp] theorem Regs.broke_x (r : Regs) (n : Nat) : r.broke.x n = r.x n := rfl

theorem deliver_x_broke {i : Iss} (h : i.a.brk = true) (s : State) (x : DWord) :
    deliver i (.x s x) = s.goesOn (if i.h.nw then s.curRegs else s.curRegs.setX i.h.d.toNat x).broke := by
  simp only [deliver, advance_updRegs, h, chainRes, if_true]
  rfl

/-! ### TSTAT (R290) -/

theorem exec_tstat_runs {s : State} {t : Nat} {h : Hdr} {k : BitVec 6} (hc : s.cur = .thread t) (hl : s.isLeader t = true)
    (hr : s.runs (.tstat h k) = true) :
    exec (.tstat h k) s = .next (s.goesOn
      (if h.nw then s.curRegs else s.curRegs.setX h.d.toNat (s.tstat (s.coreOf t) (s.wgOf t) (s.bankOf k) s.crewNo)).broke) := by
  rw [exec_tstat, execTstat, issueI_ready_brk (i := ⟨aTarn, h, [], .x h.d⟩) hr rfl, State.reforms_of_leader hc hl, State.leaderOnly,
    State.t_of_cur hc, if_pos hl, deliver_x_broke rfl]

/-- The leader of crew 0, in a core with an allocation of 256 banks. No TALLOC makes one, a core having 48 banks (R282), but the
statement bounds the allocation only where it says the fields of its size and its band. -/
def overlongAlloc : State :=
  { cur := .thread 0
    threads := [{}]
    crews := [{ leader := some 0 }]
    wgs := [{}]
    cores := [(0, { allocs := [{ wg := 0, base := 0, n := 256, i32 := false, drainers := none }] })] }

/-- The pair x0 of a thread after an instruction that has a next state. -/
def pairAfter (t : Nat) : Host.Outcome State Fault Refusal → Option DWord
  | .next s => some ((s.thr t).r.x 0)
  | _ => none

theorem runs_tstat_overlongAlloc : overlongAlloc.runs (.tstat hdr0 0) = true := by decide +kernel

theorem bits_tstat_overlongAlloc :
    bits (overlongAlloc.tstat (overlongAlloc.coreOf 0) (overlongAlloc.wgOf 0) (overlongAlloc.bankOf 0) overlongAlloc.crewNo) 14 2 = 1 := by
  decide +kernel

/-- The snapshot stands in x0 after the instruction. -/
theorem pairAfter_goesOn {s : State} {t : Nat} (hc : s.cur = .thread t) (ht : t < s.threads.length) (r : Regs) (x : DWord) :
    pairAfter t (.next (s.goesOn (r.setX 0 x).broke)) = some x := by
  rw [State.goesOn_thread hc, pairAfter, State.thr_updThr_same ht]
  simp only [Regs.broke_x, Regs.setX_x]

theorem pairAfter_tstat_overlongAlloc : pairAfter 0 (exec (.tstat hdr0 0) overlongAlloc) =
    some (overlongAlloc.tstat (overlongAlloc.coreOf 0) (overlongAlloc.wgOf 0) (overlongAlloc.bankOf 0) overlongAlloc.crewNo) := by
  rw [exec_tstat_runs rfl (by decide) runs_tstat_overlongAlloc]
  exact pairAfter_goesOn rfl (by decide) _ _

/-- Refutes O26: TSTAT adds an allocation's size at bit 6 whatever it is, and the 256 banks of the one in `overlongAlloc` set bit 14, which
the statement says to read 0 for every allocation. -/
theorem not_tarnInstructions : ¬ Obligations.TarnInstructions := by
  unfold Obligations.TarnInstructions
  rintro ⟨hleader, -⟩
  obtain ⟨-, -, -, htstat⟩ := hleader overlongAlloc 0 hdr0 .zero .zero 0 false ⟨0, 0, 0, false, none, none, 0, false⟩ [] 0 rfl (by decide)
  obtain ⟨x, hexec, -, -, hzero, -⟩ := htstat runs_tstat_overlongAlloc
  have hpair : pairAfter 0 (exec (.tstat hdr0 0) overlongAlloc) = some x := by
    rw [hexec]
    exact pairAfter_goesOn rfl (by decide) _ _
  have hx := Option.some.inj (pairAfter_tstat_overlongAlloc.symm.trans hpair)
  rw [← hx, bits_tstat_overlongAlloc] at hzero
  exact absurd hzero (by decide)

end Sys2Proof.Machine
end

section
/-! PROOFS. The front die of a basin command, which refutes O29. -/

namespace Sys2Proof.Machine

/-- A thread with 16 registers in core 16, which lies at x = 16, y = 0 and so in die 1 (R12). Its front die is stack 3 (R311). -/
def coreSixteen : State :=
  { cur := .thread 0
    threads := [{}]
    crews := [{}]
    wgs := [{ core := 16 }]
    launches := [{ raw := 1#1024 <<< 170 }] }

/-- A command of no stream, at core scope, with its block in registers. -/
def plainBas : BasMod := ⟨0, .core, false⟩

/-- The front dies of the commands that stand after an instruction. -/
def frontsAfter : Host.Outcome State Fault Refusal → List Nat
  | .next s => s.cmds.map (·.front)
  | _ => []

theorem frontsAfter_nbrowzero_coreSixteen : frontsAfter (exec (.nbrowzero hdr0 (.v 0) plainBas) coreSixteen) = [3] := by decide +kernel

/-- Refutes O29: the statement takes a core's die to be its number divided by 128, while the dies are quarters of the mesh (R12). The
NBROWZERO of core 16 has the front die of die 1, and the statement asks for that of die 0. -/
theorem not_basinCommands : ¬ Obligations.BasinCommands := by
  unfold Obligations.BasinCommands
  intro h
  obtain ⟨s', x, hexec, hcmds, -, -, -, -, -, -, -, -, hfront, -⟩ := h coreSixteen 0 hdr0 (.v 0) plainBas 4 0
    (.nbrowzero hdr0 (.v 0) plainBas) rfl (by decide) (by decide) (.inr (.inr (.inr ⟨rfl, rfl⟩))) (by decide +kernel) (by decide +kernel)
    (by decide +kernel) (by decide +kernel) (by decide +kernel) (by decide +kernel) (by decide +kernel)
  have hfronts : [x.front] = [3] := by
    rw [← frontsAfter_nbrowzero_coreSixteen, hexec, frontsAfter, hcmds]
    rfl
  rw [hfront] at hfronts
  exact absurd hfronts (by decide +kernel)

end Sys2Proof.Machine
end

section
/-! PROOFS. The order of distances and the heap of a command (O31). -/

namespace Sys2Proof.Machine

/-! ### Distances as numbers (R77) -/

/-- The number that a float's exponent and fraction stand for, in units of half the least subnormal. -/
def magNum (n : Nat) : Nat := (if n / 2 ^ 23 = 0 then n % 2 ^ 23 else n % 2 ^ 23 + 2 ^ 23) * 2 ^ (max (n / 2 ^ 23) 1)

theorem strictMono_magNum : StrictMono magNum := by
  refine strictMono_nat_of_lt_succ fun n => ?_
  unfold magNum
  by_cases hfull : n % 2 ^ 23 + 1 < 2 ^ 23
  · have hexp : (n + 1) / 2 ^ 23 = n / 2 ^ 23 := by omega
    have hfrac : (n + 1) % 2 ^ 23 = n % 2 ^ 23 + 1 := by omega
    rw [hexp, hfrac]
    exact Nat.mul_lt_mul_of_pos_right (by split <;> omega) (Nat.two_pow_pos _)
  · have hexp : (n + 1) / 2 ^ 23 = n / 2 ^ 23 + 1 := by omega
    have hfrac : (n + 1) % 2 ^ 23 = 0 := by omega
    rw [hexp, hfrac, if_neg (Nat.succ_ne_zero _), max_eq_left (Nat.le_add_left 1 _), Nat.pow_succ 2 (n / 2 ^ 23)]
    rcases Nat.eq_zero_or_pos (n / 2 ^ 23) with h0 | hpos
    · rw [h0, if_pos rfl, max_eq_right (Nat.zero_le 1)]
      omega
    · rw [if_neg hpos.ne', max_eq_left hpos]
      have := Nat.two_pow_pos (n / 2 ^ 23)
      nlinarith [Nat.mod_lt n (Nat.two_pow_pos 23)]

/-- The same of a signed magnitude. -/
def signedNum (i : Int) : Int := i.sign * magNum i.natAbs

theorem strictMono_signedNum : StrictMono signedNum := by
  refine strictMono_of_odd_strictMonoOn_nonneg (fun i => by simp [signedNum]) fun i hi j _ hij => ?_
  have hval : ∀ {i : Int}, 0 ≤ i → signedNum i = magNum i.natAbs := fun {i} hi => by
    rcases hi.eq_or_lt with rfl | hpos
    · rfl
    · rw [signedNum, Int.sign_eq_one_of_pos hpos, one_mul]
  rw [hval hi, hval (le_of_lt (lt_of_le_of_lt hi hij))]
  exact Int.ofNat_lt.mpr (strictMono_magNum (Int.natAbs_lt_natAbs_of_nonneg_of_lt hi hij))

/-- A distance as a number: an integer, or a float in units of half the least subnormal. -/
def distNum (flt : Bool) (d : Word) : Int :=
  let e := (d.toNat / 2 ^ 23) % 256
  let m := d.toNat % 2 ^ 23
  if !flt then d.toInt else (if d.msb then -1 else 1) * ((if e = 0 then m else m + 2 ^ 23) * 2 ^ (max e 1) : Nat)

theorem distNum_float (d : Word) : distNum true d = signedNum (distKey true d) := by
  have hexp : d.toNat % 2 ^ 31 / 2 ^ 23 = d.toNat / 2 ^ 23 % 256 := by omega
  have hfrac : d.toNat % 2 ^ 31 % 2 ^ 23 = d.toNat % 2 ^ 23 := by omega
  have hmag : distNum true d = (if d.msb then -1 else 1) * magNum (d.toNat % 2 ^ 31) := by
    rw [magNum, hexp, hfrac]
    rfl
  rw [hmag, distKey, if_pos rfl, BitVec.toNat_setWidth]
  generalize d.toNat % 2 ^ 31 = n
  rcases Nat.eq_zero_or_pos n with rfl | hpos
  · cases d.msb <;> rfl
  · have hsign := Int.sign_eq_one_of_pos (Int.natCast_pos.mpr hpos)
    cases d.msb <;> simp [signedNum, hsign]

/-- The key of a distance orders as the distance does. -/
theorem distNum_lt_iff (flt : Bool) (a b : Word) : distNum flt a < distNum flt b ↔ distKey flt a < distKey flt b := by
  cases flt with
  | false => rfl
  | true => rw [distNum_float, distNum_float, strictMono_signedNum.lt_iff_lt]

theorem distNum_eq_iff (flt : Bool) (a b : Word) : distNum flt a = distNum flt b ↔ distKey flt a = distKey flt b := by
  simp only [le_antisymm_iff, ← not_lt, distNum_lt_iff]

theorem distNan_iff (flt : Bool) (d : Word) : distNan flt d = true ↔ flt = true ∧ 0x7F800000 < d.toNat % 2 ^ 31 := by
  rw [distNan, Bool.and_eq_true, decide_eq_true_eq, BitVec.toNat_setWidth]

/-! ### The order of pairs (R77) -/

/-- A pair ranks before another. -/
def RanksBefore (flt : Bool) (y z : Word × Word) : Prop := ranksBefore flt y z = true

theorem ranksBefore_iff {flt : Bool} {y z : Word × Word} :
    RanksBefore flt y z ↔ distKey flt y.1 < distKey flt z.1 ∨ distKey flt y.1 = distKey flt z.1 ∧ y.2.toNat < z.2.toNat := by
  simp [RanksBefore, ranksBefore]

theorem ranksBefore_iff_distNum {flt : Bool} {y z : Word × Word} :
    RanksBefore flt y z ↔ distNum flt y.1 < distNum flt z.1 ∨ distNum flt y.1 = distNum flt z.1 ∧ y.2.toNat < z.2.toNat := by
  rw [ranksBefore_iff, distNum_lt_iff, distNum_eq_iff]

theorem RanksBefore.trans {flt : Bool} {x y z : Word × Word} (hxy : RanksBefore flt x y) (hyz : RanksBefore flt y z) : RanksBefore flt x z := by
  rw [ranksBefore_iff] at *
  omega

/-- Pairs of different ids are ranked. -/
theorem RanksBefore.of_not {flt : Bool} {x y : Word × Word} (hid : y.2 ≠ x.2) (h : ¬RanksBefore flt x y) : RanksBefore flt y x := by
  rw [ranksBefore_iff] at *
  have := mt BitVec.eq_of_toNat_eq hid
  omega

/-! ### Insertion -/

theorem rankInsert_cons_of_before {flt : Bool} {x y : Word × Word} (h : RanksBefore flt x y) (l : List (Word × Word)) :
    rankInsert flt x (y :: l) = x :: y :: l := if_pos h

theorem rankInsert_cons_of_not {flt : Bool} {x y : Word × Word} (h : ¬RanksBefore flt x y) (l : List (Word × Word)) :
    rankInsert flt x (y :: l) = y :: rankInsert flt x l := if_neg h

theorem perm_rankInsert (flt : Bool) (x : Word × Word) (l : List (Word × Word)) : (rankInsert flt x l).Perm (x :: l) := by
  induction l with
  | nil => exact .refl _
  | cons y r ih =>
    by_cases h : RanksBefore flt x y
    · rw [rankInsert_cons_of_before h]
    · rw [rankInsert_cons_of_not h]
      exact (ih.cons y).trans (.swap x y r)

theorem mem_rankInsert {flt : Bool} {x z : Word × Word} {l : List (Word × Word)} : z ∈ rankInsert flt x l ↔ z = x ∨ z ∈ l := by
  rw [(perm_rankInsert flt x l).mem_iff, List.mem_cons]

theorem length_rankInsert (flt : Bool) (x : Word × Word) (l : List (Word × Word)) : (rankInsert flt x l).length = l.length + 1 :=
  (perm_rankInsert flt x l).length_eq

theorem pairwise_rankInsert {flt : Bool} {x : Word × Word} {l : List (Word × Word)} (hl : l.Pairwise (RanksBefore flt))
    (hid : ∀ y ∈ l, y.2 ≠ x.2) : (rankInsert flt x l).Pairwise (RanksBefore flt) := by
  induction l with
  | nil => exact List.pairwise_singleton _ x
  | cons y r ih =>
    obtain ⟨hy, hr⟩ := List.pairwise_cons.mp hl
    obtain ⟨hyid, hrid⟩ := List.forall_mem_cons.mp hid
    by_cases h : RanksBefore flt x y
    · rw [rankInsert_cons_of_before h]
      exact List.pairwise_cons.mpr ⟨List.forall_mem_cons.mpr ⟨h, fun z hz => h.trans (hy z hz)⟩, hl⟩
    · rw [rankInsert_cons_of_not h]
      refine List.pairwise_cons.mpr ⟨fun z hz => ?_, ih hr hrid⟩
      rcases mem_rankInsert.mp hz with rfl | hz
      · exact .of_not hyid h
      · exact hy z hz

/-- A pair that ranks before none goes to the end. -/
theorem rankInsert_of_none_after {flt : Bool} {x : Word × Word} {l : List (Word × Word)} (h : ∀ y ∈ l, ¬RanksBefore flt x y) :
    rankInsert flt x l = l ++ [x] := by
  induction l with
  | nil => rfl
  | cons y r ih =>
    obtain ⟨hy, hr⟩ := List.forall_mem_cons.mp h
    rw [rankInsert_cons_of_not hy, ih hr, List.cons_append]

/-- A pair that ranks before the last one is inserted among the others. -/
theorem rankInsert_append_of_before {flt : Bool} {x w : Word × Word} (h : RanksBefore flt x w) (l : List (Word × Word)) :
    rankInsert flt x (l ++ [w]) = rankInsert flt x l ++ [w] := by
  induction l with
  | nil => exact rankInsert_cons_of_before h []
  | cons y r ih =>
    by_cases hy : RanksBefore flt x y
    · rw [List.cons_append, rankInsert_cons_of_before hy, rankInsert_cons_of_before hy, List.cons_append, List.cons_append]
    · rw [List.cons_append, rankInsert_cons_of_not hy, rankInsert_cons_of_not hy, ih, List.cons_append]

/-! ### An offer (R77) -/

/-- A heap of at most k pairs: in order, of different ids, without a NaN. -/
structure IsHeap (flt : Bool) (k : Nat) (l : List (Word × Word)) : Prop where
  sorted : l.Pairwise (RanksBefore flt)
  nodup : (l.map (·.2)).Nodup
  fits : l.length ≤ k
  noNan : ∀ y ∈ l, distNan flt y.1 = false

/-- Pairs of a heap with one id are one pair. -/
theorem IsHeap.eq_of_id {flt : Bool} {k : Nat} {l : List (Word × Word)} (h : IsHeap flt k l) {y z : Word × Word} (hy : y ∈ l) (hz : z ∈ l)
    (hid : y.2 = z.2) : y = z := List.inj_on_of_nodup_map h.nodup hy hz hid

/-- Whatever is left out of a heap leaves a heap. -/
theorem IsHeap.sublist {flt : Bool} {k : Nat} {l l' : List (Word × Word)} (h : IsHeap flt k l) (hs : l'.Sublist l) : IsHeap flt k l' :=
  ⟨h.sorted.sublist hs, h.nodup.sublist (hs.map _), hs.length_le.trans h.fits, fun y hy => h.noNan y (hs.subset hy)⟩

/-- A pair of a new id joins a heap. -/
theorem IsHeap.insert {flt : Bool} {k : Nat} {l : List (Word × Word)} {x : Word × Word} (h : IsHeap flt k l) (hx : distNan flt x.1 = false)
    (hid : ∀ y ∈ l, y.2 ≠ x.2) : IsHeap flt (l.length + 1) (rankInsert flt x l) := by
  refine ⟨pairwise_rankInsert h.sorted hid, ?_, (length_rankInsert flt x l).le, fun y hy => ?_⟩
  · rw [((perm_rankInsert flt x l).map _).nodup_iff, List.map_cons, List.nodup_cons]
    refine ⟨fun hmem => ?_, h.nodup⟩
    obtain ⟨y, hy, he⟩ := List.mem_map.mp hmem
    exact hid y hy he
  · rcases mem_rankInsert.mp hy with rfl | hy
    · exact hx
    · exact h.noNan y hy

theorem IsHeap.weaken {flt : Bool} {k k' : Nat} {l : List (Word × Word)} (h : IsHeap flt k l) (hk : l.length ≤ k') : IsHeap flt k' l :=
  ⟨h.sorted, h.nodup, hk, h.noNan⟩

section
variable {flt : Bool} {k : Nat} {heap : List (Word × Word)} {x : Word × Word}

theorem heapOffer_nan (hx : distNan flt x.1 = true) : heapOffer flt k heap x = heap := if_pos hx

/-- The id is there: its pair is replaced by a better one. -/
theorem heapOffer_known (hheap : IsHeap flt k heap) (hx : distNan flt x.1 = false) {y : Word × Word} (hy : y ∈ heap) (hid : y.2 = x.2) :
    heapOffer flt k heap x = if distKey flt x.1 < distKey flt y.1 then rankInsert flt x (heap.filter fun e => e.2 != x.2) else heap := by
  have hfind : heap.find? (fun e => e.2 == x.2) = some y := by
    cases hf : heap.find? (fun e => e.2 == x.2) with
    | none => exact absurd (beq_iff_eq.mpr hid) (List.find?_eq_none.mp hf y hy)
    | some z =>
      have hz := List.find?_some (p := fun e : Word × Word => e.2 == x.2) hf
      rw [hheap.eq_of_id (List.mem_of_find?_eq_some hf) hy ((beq_iff_eq.mp hz).trans hid.symm)]
  simp only [heapOffer, hx, Bool.false_eq_true, if_false, hfind]

/-- The id is new: the pair takes its place, and what lies beyond the k best goes. -/
theorem heapOffer_new (hx : distNan flt x.1 = false) (hid : ∀ y ∈ heap, y.2 ≠ x.2) :
    heapOffer flt k heap x = (rankInsert flt x heap).take k := by
  have hfind : heap.find? (fun e => e.2 == x.2) = none := List.find?_eq_none.mpr fun y hy he => hid y hy (beq_iff_eq.mp he)
  simp only [heapOffer, hx, Bool.false_eq_true, if_false, hfind]

theorem mem_replaced (hheap : IsHeap flt k heap) {y : Word × Word} (hy : y ∈ heap) (hid : y.2 = x.2) (z : Word × Word) :
    z ∈ rankInsert flt x (heap.filter fun e => e.2 != x.2) ↔ z = x ∨ z ∈ heap ∧ z ≠ y := by
  rw [mem_rankInsert, List.mem_filter, bne_iff_ne]
  refine or_congr_right (and_congr_right fun hz => not_congr ⟨fun he => hheap.eq_of_id hz hy (he.trans hid.symm), ?_⟩)
  rintro rfl
  exact hid

theorem isHeap_replaced (hheap : IsHeap flt k heap) (hx : distNan flt x.1 = false) {y : Word × Word} (hy : y ∈ heap) (hid : y.2 = x.2) :
    IsHeap flt k (rankInsert flt x (heap.filter fun e => e.2 != x.2)) := by
  have hshort : (heap.filter fun e => e.2 != x.2).length < heap.length :=
    List.length_filter_lt_length_iff_exists.mpr ⟨y, hy, by simp [hid]⟩
  refine ((hheap.sublist List.filter_sublist).insert hx fun z hz => bne_iff_ne.mp (List.mem_filter.mp hz).2).weaken ?_
  rw [length_rankInsert]
  exact Nat.succ_le_of_lt (hshort.trans_le hheap.fits)

theorem isHeap_heapOffer (hheap : IsHeap flt k heap) : IsHeap flt k (heapOffer flt k heap x) := by
  cases hx : distNan flt x.1 with
  | true => rwa [heapOffer_nan hx]
  | false =>
    by_cases hid : ∃ y ∈ heap, y.2 = x.2
    · obtain ⟨y, hy, hid⟩ := hid
      rw [heapOffer_known hheap hx hy hid]
      split
      · exact isHeap_replaced hheap hx hy hid
      · exact hheap
    · have hnew : ∀ y ∈ heap, y.2 ≠ x.2 := fun y hy he => hid ⟨y, hy, he⟩
      rw [heapOffer_new hx hnew]
      exact ((hheap.insert hx hnew).sublist (List.take_sublist k _)).weaken (List.length_take_le k _)

/-- A heap that is not full takes every new pair. -/
theorem mem_heapOffer_room (hx : distNan flt x.1 = false) (hid : ∀ y ∈ heap, y.2 ≠ x.2) (hroom : heap.length < k) (z : Word × Word) :
    z ∈ heapOffer flt k heap x ↔ z = x ∨ z ∈ heap := by
  rw [heapOffer_new hx hid, List.take_of_length_le (length_rankInsert flt x heap ▸ hroom), mem_rankInsert]

/-- A full heap gives up its last pair for a better one. -/
theorem mem_heapOffer_full (hheap : IsHeap flt k heap) (hx : distNan flt x.1 = false) (hid : ∀ y ∈ heap, y.2 ≠ x.2) (hfull : heap.length = k)
    {w : Word × Word} (hw : heap.getLast? = some w) (hbefore : RanksBefore flt x w) (z : Word × Word) :
    z ∈ heapOffer flt k heap x ↔ z = x ∨ z ∈ heap ∧ z ≠ w := by
  obtain ⟨init, rfl⟩ := List.getLast?_eq_some_iff.mp hw
  have hlen : (rankInsert flt x init).length = k := by rw [length_rankInsert, ← hfull, List.length_append, List.length_singleton]
  have hw : w ∉ init := fun hmem => by
    have := List.nodup_append.mp (List.Nodup.of_map _ hheap.nodup)
    exact this.2.2 w hmem w List.mem_cons_self rfl
  rw [heapOffer_new hx hid, rankInsert_append_of_before hbefore, ← hlen, List.take_left, mem_rankInsert, List.mem_append, List.mem_singleton]
  refine or_congr_right ⟨fun hz => ⟨.inl hz, fun he => hw (he ▸ hz)⟩, fun ⟨hz, hne⟩ => hz.resolve_right hne⟩

/-- A full heap stays as it is where the pair does not rank before its last. -/
theorem heapOffer_full_worse (hheap : IsHeap flt k heap) (hx : distNan flt x.1 = false) (hid : ∀ y ∈ heap, y.2 ≠ x.2) (hfull : heap.length = k)
    {w : Word × Word} (hw : heap.getLast? = some w) (hbefore : ¬RanksBefore flt x w) : heapOffer flt k heap x = heap := by
  have hnone : ∀ y ∈ heap, ¬RanksBefore flt x y := fun y hy hxy => by
    obtain ⟨init, rfl⟩ := List.getLast?_eq_some_iff.mp hw
    rcases List.mem_append.mp hy with hinit | hlast
    · exact hbefore (hxy.trans ((List.pairwise_append.mp hheap.sorted).2.2 y hinit w List.mem_cons_self))
    · exact hbefore (List.mem_singleton.mp hlast ▸ hxy)
  rw [heapOffer_new hx hid, rankInsert_of_none_after hnone, ← hfull, List.take_left]

end

end Sys2Proof.Machine
end

section
/-! PROOFS. Exact rounding, and the elements of a BFP8 vector (O31). -/

namespace Sys2Proof.Machine

/-! ### Rounding of a number that the format holds (R126, R131) -/

theorem pow2_den_pos (e : Int) : 0 < (pow2 e).2 := by
  unfold pow2
  split
  · exact Nat.two_pow_pos _
  · exact Nat.one_pos

/-- The fraction that stands for a power of two. -/
theorem pow2_cast (e : Int) : ((pow2 e).1 : ℚ) = 2 ^ e * (pow2 e).2 := by
  unfold pow2
  split
  · obtain ⟨n, rfl⟩ := Int.exists_eq_neg_ofNat (show e ≤ 0 by omega)
    rw [zpow_neg, zpow_natCast, Int.natAbs_neg, Int.natAbs_natCast, Nat.cast_one, Nat.cast_pow, Nat.cast_ofNat,
      inv_mul_cancel₀ (pow_ne_zero n two_ne_zero)]
  · obtain ⟨n, rfl⟩ := Int.eq_ofNat_of_zero_le (show 0 ≤ e by omega)
    rw [zpow_natCast, Int.toNat_natCast, Nat.cast_pow, Nat.cast_ofNat, Nat.cast_one, mul_one]

/-- A number below a power of two, by its fraction. -/
theorem mul_pow2_neg_lt_iff (num den : Nat) (e : Int) : num * (pow2 (-e)).1 < den * (pow2 (-e)).2 ↔ (num : ℚ) < 2 ^ e * den := by
  have hpos : (0 : ℚ) < (pow2 (-e)).2 := Nat.cast_pos.mpr (pow2_den_pos _)
  have hexp : (0 : ℚ) < 2 ^ e := zpow_pos two_pos e
  rw [← Nat.cast_lt (α := ℚ), Nat.cast_mul, Nat.cast_mul, pow2_cast, ← mul_assoc, mul_lt_mul_iff_left₀ hpos, zpow_neg, ← div_eq_mul_inv,
    div_lt_iff₀ hexp, mul_comm (den : ℚ)]

/-- The binary logarithm of a fraction is the exponent of the power of two at or below it. -/
theorem ilog_eq {num den : Nat} {e : Int} (hd : 0 < den) (hlo : (2 : ℚ) ^ e * den ≤ num) (hhi : (num : ℚ) < 2 ^ (e + 1) * den) :
    ilog num den = e := by
  have hdq : (0 : ℚ) < den := Nat.cast_pos.mpr hd
  have hn : num ≠ 0 := by
    rintro rfl
    have := mul_pos (zpow_pos (two_pos (α := ℚ)) e) hdq
    rw [Nat.cast_zero] at hlo
    linarith
  have hnlo : (2 : ℚ) ^ (num.log2 : Int) ≤ num := by rw [zpow_natCast]; exact_mod_cast Nat.log2_self_le hn
  have hnhi : (num : ℚ) < 2 ^ ((num.log2 : Int) + 1) := by
    rw [← Nat.cast_succ, zpow_natCast]; exact_mod_cast Nat.lt_log2_self
  have hdlo : (2 : ℚ) ^ (den.log2 : Int) ≤ den := by rw [zpow_natCast]; exact_mod_cast Nat.log2_self_le hd.ne'
  have hdhi : (den : ℚ) < 2 ^ ((den.log2 : Int) + 1) := by
    rw [← Nat.cast_succ, zpow_natCast]; exact_mod_cast Nat.lt_log2_self
  have hpow : ∀ {a b : Int}, (2 : ℚ) ^ a < 2 ^ b → a < b := fun h => (zpow_lt_zpow_iff_right₀ one_lt_two).mp h
  have hle : e < num.log2 + 1 - den.log2 := hpow (by
    rw [zpow_sub₀ two_ne_zero, lt_div_iff₀ (zpow_pos two_pos _)]
    calc (2 : ℚ) ^ e * 2 ^ (den.log2 : Int) ≤ 2 ^ e * den := mul_le_mul_of_nonneg_left hdlo (zpow_pos two_pos e).le
      _ ≤ num := hlo
      _ < _ := hnhi)
  have hge : num.log2 < e + 1 + (den.log2 + 1) := hpow (by
    rw [zpow_add₀ two_ne_zero]
    calc (2 : ℚ) ^ (num.log2 : Int) ≤ num := hnlo
      _ < 2 ^ (e + 1) * den := hhi
      _ ≤ 2 ^ (e + 1) * 2 ^ ((den.log2 : Int) + 1) := mul_le_mul_of_nonneg_left hdhi.le (zpow_pos two_pos _).le)
  unfold ilog
  simp only [mul_pow2_neg_lt_iff]
  split
  · rename_i h
    have : e < num.log2 - den.log2 := hpow (by
      refine lt_of_mul_lt_mul_right (lt_of_le_of_lt hlo h) hdq.le)
    omega
  · rename_i h
    have : ((num.log2 : Int) - den.log2) < e + 1 := hpow (lt_of_mul_lt_mul_right (lt_of_le_of_lt (not_lt.mp h) hhi) hdq.le)
    omega

/-- A number that is a multiple of the quantum is rounded to itself. -/
theorem atQuantum_exact {rm : Rnd} {neg : Bool} {num den k : Nat} {q : Int} (hd : 0 < den) (h : (num : ℚ) = k * 2 ^ q * den) :
    atQuantum rm neg num den q = (k, false) := by
  have hmul : num * (pow2 (-q)).1 = k * (den * (pow2 (-q)).2) := by
    have hq : (2 : ℚ) ^ q ≠ 0 := zpow_ne_zero q two_ne_zero
    apply Nat.cast_injective (R := ℚ)
    push_cast
    rw [pow2_cast, h, zpow_neg]
    field_simp
  have hpos : 0 < den * (pow2 (-q)).2 := Nat.mul_pos hd (pow2_den_pos _)
  simp only [atQuantum, hmul, divRnd, Nat.mul_mod_left, if_true, Nat.mul_div_cancel _ hpos]

/-- A number of k quanta, at most as many as the format holds, is its own pattern. -/
theorem Fmt.round_exact {f : Fmt} {neg : Bool} {num den k : Nat} {e : Int} (hd : 0 < den) (hlo : (2 : ℚ) ^ e * den ≤ num)
    (hhi : (num : ℚ) < 2 ^ (e + 1) * den) (hk : (num : ℚ) = k * 2 ^ (max e (1 - f.bias) - f.fb) * den) (hbig : k < 2 ^ (f.fb + 1))
    (hmax : max e (1 - f.bias) + f.bias < f.emax) :
    (f.round .rne false neg num den).pat =
      f.signBit neg + (if k < 2 ^ f.fb then 0 else (max e (1 - f.bias) + f.bias).toNat) * 2 ^ f.fb + k % 2 ^ f.fb := by
  have hn : num ≠ 0 := by
    rintro rfl
    have := mul_pos (zpow_pos (two_pos (α := ℚ)) e) (Nat.cast_pos (α := ℚ) |>.mpr hd)
    rw [Nat.cast_zero] at hlo
    linarith
  have hquantum : (if e < 1 - (f.bias : Int) then 1 - (f.bias : Int) else e) = max e (1 - f.bias) := by
    split <;> omega
  have hemax : ¬(f.emax : Int) ≤ if k < 2 ^ f.fb then 0 else max e (1 - f.bias) - f.fb + f.fb + f.bias := by
    have := Nat.one_le_two_pow (n := f.eb)
    split <;> omega
  simp only [Fmt.round, if_neg hn, ilog_eq hd hlo hhi, hquantum, atQuantum_exact hd hk, if_neg (not_le.mpr hbig), if_neg hemax,
    Bool.and_false, Bool.false_eq_true, if_false]
  split
  · rfl
  · rw [sub_add_cancel]

/-! ### Elements of BFP8 (R69, R129) -/

/-- The quanta of BF16 in m / 32 · 2^(E - 127). -/
def bfpQuanta (m E : Nat) : Nat := if E + m.log2 ≤ 5 then m * 2 ^ (E + 1) else m * 2 ^ (7 - m.log2)

/-- The exponent field of the BF16 pattern of m / 32 · 2^(E - 127). -/
def bfpExp (m E : Nat) : Nat := if E + m.log2 ≤ 5 then 0 else E + m.log2 - 5

/-- The quanta and the exponent of the pattern give the number back (R126, R129). -/
theorem bfpQuanta_mul {m E : Nat} (hm : 0 < m) (hm' : m < 64) : bfpQuanta m E * 2 ^ max (bfpExp m E) 1 = m * 2 ^ (E + 2) := by
  have hlog : m.log2 < 6 := (Nat.log2_lt hm.ne').mpr hm'
  unfold bfpQuanta bfpExp
  split
  · rw [max_eq_right (Nat.zero_le 1), mul_assoc, ← pow_add]
  · rw [max_eq_left (by omega), mul_assoc, ← pow_add, show 7 - m.log2 + (E + m.log2 - 5) = E + 2 by omega]

/-- The quanta are those of a subnormal number or of a normal one, as the exponent is. -/
theorem bfpQuanta_range {m E : Nat} (hm : 0 < m) (hm' : m < 64) :
    bfpQuanta m E < 2 ^ 8 ∧ (bfpQuanta m E < 2 ^ 7 ↔ bfpExp m E = 0) := by
  have hlog : m.log2 < 6 := (Nat.log2_lt hm.ne').mpr hm'
  have hlo : 2 ^ m.log2 ≤ m := Nat.log2_self_le hm.ne'
  have hhi : m < 2 ^ (m.log2 + 1) := Nat.lt_log2_self
  unfold bfpQuanta bfpExp
  split
  · rename_i h
    have : m * 2 ^ (E + 1) < 2 ^ 7 := calc
      m * 2 ^ (E + 1) < 2 ^ (m.log2 + 1) * 2 ^ (E + 1) := Nat.mul_lt_mul_of_pos_right hhi (Nat.two_pow_pos _)
      _ = 2 ^ (m.log2 + 1 + (E + 1)) := (pow_add _ _ _).symm
      _ ≤ 2 ^ 7 := Nat.pow_le_pow_right two_pos (by omega)
    exact ⟨this.trans (by decide), iff_of_true this rfl⟩
  · rename_i h
    have hupper : m * 2 ^ (7 - m.log2) < 2 ^ 8 := calc
      m * 2 ^ (7 - m.log2) < 2 ^ (m.log2 + 1) * 2 ^ (7 - m.log2) := Nat.mul_lt_mul_of_pos_right hhi (Nat.two_pow_pos _)
      _ = 2 ^ 8 := by rw [← pow_add, show m.log2 + 1 + (7 - m.log2) = 8 by omega]
    have hlower : 2 ^ 7 ≤ m * 2 ^ (7 - m.log2) := calc
      2 ^ 7 = 2 ^ m.log2 * 2 ^ (7 - m.log2) := by rw [← pow_add, show m.log2 + (7 - m.log2) = 7 by omega]
      _ ≤ m * 2 ^ (7 - m.log2) := Nat.mul_le_mul_right _ hlo
    exact ⟨hupper, iff_of_false (not_lt.mpr hlower) (by omega)⟩

theorem bf16_round_bfp {neg : Bool} {m E : Nat} (hm : 0 < m) (hm' : m < 64) (hE : 1 ≤ E) (hE' : E ≤ 254) :
    (bf16.round .rne false neg (m * (pow2 ((E : Int) - 127)).1) (32 * (pow2 ((E : Int) - 127)).2)).pat =
        bf16.signBit neg + bfpExp m E * 2 ^ 7 + bfpQuanta m E % 2 ^ 7 := by
  have hlog : m.log2 < 6 := (Nat.log2_lt hm.ne').mpr hm'
  have hden : 0 < 32 * (pow2 ((E : Int) - 127)).2 := Nat.mul_pos (by decide) (pow2_den_pos _)
  have hnum : ((m * (pow2 ((E : Int) - 127)).1 : ℕ) : ℚ) = m * 2 ^ ((E : Int) - 132) * (32 * (pow2 ((E : Int) - 127)).2 : ℕ) := by
    push_cast
    rw [pow2_cast, show (E : Int) - 127 = (E : Int) - 132 + 5 by ring, zpow_add₀ two_ne_zero]
    ring
  generalize m * (pow2 ((E : Int) - 127)).1 = num at hnum
  generalize 32 * (pow2 ((E : Int) - 127)).2 = den at hnum hden
  have hscale : (0 : ℚ) < 2 ^ ((E : Int) - 132) * den := mul_pos (zpow_pos two_pos _) (Nat.cast_pos.mpr hden)
  have hpow : ∀ n : Nat, (2 : ℚ) ^ ((n : Int) + ((E : Int) - 132)) * den = (2 ^ n : ℕ) * (2 ^ ((E : Int) - 132) * den) := fun n => by
    rw [zpow_add₀ two_ne_zero, zpow_natCast, Nat.cast_pow, Nat.cast_ofNat, mul_assoc]
  have hmax : max ((m.log2 : Int) + ((E : Int) - 132)) (1 - bf16.bias) = max (bfpExp m E) 1 - 127 := by
    have hb : (bf16.bias : Int) = 127 := rfl
    rw [hb]
    unfold bfpExp
    split <;> omega
  obtain ⟨hbig, hsub⟩ := bfpQuanta_range (E := E) hm hm'
  have hexp : bfpExp m E ≤ 254 := by
    unfold bfpExp
    split <;> omega
  rw [mul_assoc] at hnum
  rw [Fmt.round_exact (k := bfpQuanta m E) (e := (m.log2 : Int) + ((E : Int) - 132)) hden _ _ _ hbig, hmax]
  · have hfield : (if bfpQuanta m E < 2 ^ 7 then 0 else (((max (bfpExp m E) 1 : ℕ) : Int) - 127 + bf16.bias).toNat) = bfpExp m E := by
      have hb : (bf16.bias : Int) = 127 := rfl
      rw [hb]
      simp only [hsub]
      split <;> omega
    exact congrArg (fun x => bf16.signBit neg + x * 2 ^ 7 + bfpQuanta m E % 2 ^ 7) hfield
  · have hb : (bf16.bias : Int) = 127 := rfl
    have he : (bf16.emax : Int) = 255 := rfl
    rw [hmax, hb, he]
    omega
  · rw [hnum, hpow]
    exact mul_le_mul_of_nonneg_right (Nat.cast_le.mpr (Nat.log2_self_le hm.ne')) hscale.le
  · rw [hnum, add_right_comm, ← Nat.cast_succ, hpow]
    exact mul_lt_mul_of_pos_right (Nat.cast_lt.mpr Nat.lt_log2_self) hscale
  · have hquanta : ((bfpQuanta m E : ℕ) : ℚ) * 2 ^ (max (bfpExp m E) 1) = m * 2 ^ (E + 2) := by
      exact_mod_cast congrArg (Nat.cast (R := ℚ)) (bfpQuanta_mul (E := E) hm hm')
    have hfb : (bf16.fb : Int) = 7 := rfl
    have hunit : ∀ n : Nat, (2 : ℚ) ^ ((n : Int) - 134) = 2 ^ n / 2 ^ 134 := fun n => by
      rw [zpow_sub₀ two_ne_zero, zpow_natCast]
      rfl
    rw [hmax, hfb, hnum, sub_sub, show (E : Int) - 132 = (E + 2 : ℕ) - 134 by push_cast; ring, show (127 : Int) + 7 = 134 from rfl,
      hunit, hunit]
    linear_combination (-(den : ℚ) / 2 ^ 134) * hquanta

/-- Where a byte of a BFP8 vector finds its exponent: the second of its block where its sel bit is set. -/
theorem bfpFields_sel (a : List Byte) (i b : Nat) (hb : b < 256) :
    bfpFields false b (a.getD i 0).toNat (a.getD (i + 1) 0).toNat = ((a.getD (i + b / 128) 0).toNat, b / 64 % 2 == 1, b % 64) := by
  have hsel : b / 128 = 0 ∨ b / 128 = 1 := by omega
  rcases hsel with h | h <;> simp [bfpFields, h]

/-- The FP32 pattern of a BFP8 element, by its exponent byte, sign and magnitude. -/
def bfpPat (neg : Bool) (m E : Nat) : Nat :=
  (bf16.deliver .rne false
    (if E = 0 then .fin neg 0 1 else if E = 255 then .nan false
      else .fin neg (m * (pow2 ((E : Int) - 127)).1) (32 * (pow2 ((E : Int) - 127)).2), 0)).pat * 65536

theorem vecElem_bfp8 (dim : Nat) (a : List Byte) (e : Nat) :
    vecElem 2 dim a e =
      bfpPat ((a.getD e 0).toNat / 64 % 2 == 1) ((a.getD e 0).toNat % 64) (a.getD (dim + 2 * (e / 32) + (a.getD e 0).toNat / 128) 0).toNat := by
  have hb := (a.getD e 0).isLt
  simp only [vecElem, bfpTo, bfpVal, bfpFields_sel a (dim + 2 * (e / 32)) _ hb, bfpPat]
  rfl

theorem bfpPat_nan (neg : Bool) (m : Nat) : bfpPat neg m 255 = 0x7FC00000 := by
  rw [bfpPat, if_neg (by decide), if_pos rfl]
  decide

theorem bfpPat_zero (neg : Bool) (m : Nat) : bfpPat neg m 0 = if neg then 2 ^ 31 else 0 := by
  rw [bfpPat, if_pos rfl]
  cases neg <;> decide

/-- An element with an exponent is the number m / 32 · 2^(E - 127) as a pattern of FP32. -/
theorem bfpPat_value {neg : Bool} {m E : Nat} (hm : m < 64) (hE : 1 ≤ E) (hE' : E ≤ 254) :
    let v := bfpPat neg m E
    v < 2 ^ 32 ∧ v / 2 ^ 31 = neg.toNat ∧
      (if v / 2 ^ 23 % 256 = 0 then v % 2 ^ 23 else v % 2 ^ 23 + 2 ^ 23) * 2 ^ (max (v / 2 ^ 23 % 256) 1) = m * 2 ^ (E + 18) := by
  intro v
  have hsign : bf16.signBit neg = neg.toNat * 2 ^ 15 := by cases neg <;> rfl
  have hneg : neg.toNat ≤ 1 := neg.toNat_le
  have hdef : v = (bf16.round .rne false neg (m * (pow2 ((E : Int) - 127)).1) (32 * (pow2 ((E : Int) - 127)).2)).pat * 65536 := by
    simp only [v, bfpPat, if_neg (show E ≠ 0 by omega), if_neg (show E ≠ 255 by omega)]
    rfl
  rcases Nat.eq_zero_or_pos m with rfl | hpos
  · have hv : v = neg.toNat * 2 ^ 31 := by
      rw [hdef, Nat.zero_mul, Fmt.round, if_pos rfl]
      cases neg <;> rfl
    refine ⟨by omega, by omega, ?_⟩
    have hfield : v / 2 ^ 23 % 256 = 0 := by omega
    have hfrac : v % 2 ^ 23 = 0 := by omega
    rw [hfield, if_pos rfl, hfrac, Nat.zero_mul, Nat.zero_mul]
  · rw [bf16_round_bfp hpos hm hE hE', hsign] at hdef
    obtain ⟨hbig, hsub⟩ := bfpQuanta_range (E := E) hpos hm
    have hmul := bfpQuanta_mul (E := E) hpos hm
    have hexp : bfpExp m E ≤ 254 := by
      have : m.log2 < 6 := (Nat.log2_lt hpos.ne').mpr hm
      unfold bfpExp
      split <;> omega
    generalize bfpQuanta m E = k at *
    generalize bfpExp m E = x at *
    have hfield : v / 2 ^ 23 % 256 = x := by omega
    refine ⟨by omega, by omega, ?_⟩
    have hmant : (if x = 0 then v % 2 ^ 23 else v % 2 ^ 23 + 2 ^ 23) = k * 2 ^ 16 := by split <;> omega
    rw [hfield, hmant, mul_right_comm, hmul, mul_assoc, ← pow_add]

end Sys2Proof.Machine
end

section
/-! PROOFS. Distances of vectors (O31). -/

namespace Sys2Proof.Machine

/-! ### Elements and sums (R69, R75) -/

theorem vecElem_bf16 (dim : Nat) (a : List Byte) (e : Nat) :
    vecElem 1 dim a e = ((a.getD (2 * e) 0).toNat + 256 * (a.getD (2 * e + 1) 0).toNat) * 65536 := rfl

theorem foldl_add_range {M : Type} [AddCommMonoid M] (f : Nat → M) (n : Nat) :
    (List.range n).foldl (fun s e => s + f e) 0 = ∑ e ∈ Finset.range n, f e := by
  induction n with
  | zero => rfl
  | succ n ih => rw [List.range_succ, List.foldl_append, ih, Finset.sum_range_succ]; rfl

/-- A float sum is formed in element order, each sum rounded. -/
theorem floatSum_eq {term sum : Nat → Nat} (h0 : sum 0 = 0) (hs : ∀ e, sum (e + 1) = (f32.add .rne false (sum e) (term e)).pat) (n : Nat) :
    floatSum term n = sum n := by
  unfold floatSum
  induction n with
  | zero => exact h0.symm
  | succ n ih => rw [List.range_succ, List.foldl_append, ih, hs]; rfl

/-! ### Distances over integers and bits (R75) -/

theorem distance_l2sq (dim : Nat) (q a : List Byte) :
    distance 0 0 dim q a = BitVec.ofInt 32 (∑ e ∈ Finset.range dim, ((a.getD e 0).toInt - (q.getD e 0).toInt) ^ 2) := by
  simp only [distance, if_true, foldl_add_range, pow_two]

theorem distance_ip {metric : Nat} (hm : metric ≠ 0) (dim : Nat) (q a : List Byte) :
    distance 0 metric dim q a = BitVec.ofInt 32 (-∑ e ∈ Finset.range dim, (a.getD e 0).toInt * (q.getD e 0).toInt) := by
  simp only [distance, if_neg hm, foldl_add_range, Finset.sum_neg_distrib]

theorem byteOnes_eq_sum (b : Byte) : byteOnes b = ∑ j ∈ Finset.range 8, if b.getLsbD j then 1 else 0 := by
  rw [← Finset.card_filter]
  simp only [byteOnes, Finset.card_def, Finset.filter_val, Finset.range_val, Multiset.range, Multiset.filter_coe, Multiset.coe_card,
    Bool.decide_eq_true]

/-- The bits that differ, counted byte by byte. -/
theorem sum_byteOnes_xor (q a : List Byte) (n : Nat) :
    ∑ i ∈ Finset.range n, byteOnes (a.getD i 0 ^^^ q.getD i 0) =
      ((Finset.range (8 * n)).filter fun e => (a.getD (e / 8) 0).getLsbD (e % 8) ≠ (q.getD (e / 8) 0).getLsbD (e % 8)).card := by
  rw [Finset.card_filter]
  induction n with
  | zero => rfl
  | succ n ih =>
    rw [Finset.sum_range_succ, ih, Nat.mul_succ, Finset.sum_range_add, byteOnes_eq_sum]
    refine congrArg _ (Finset.sum_congr rfl fun j hj => ?_)
    have hj8 := Finset.mem_range.mp hj
    rw [Nat.mul_add_div (by decide), Nat.mul_add_mod, Nat.div_eq_of_lt hj8, Nat.mod_eq_of_lt hj8, Nat.add_zero, BitVec.getLsbD_xor]
    simp only [bne_iff_ne]

theorem distance_hamming {dim : Nat} (hdim : dim % 8 = 0) (metric : Nat) (q a : List Byte) :
    distance 3 metric dim q a = BitVec.ofNat 32 (((Finset.range dim).filter fun e =>
      (a.getD (e / 8) 0).getLsbD (e % 8) ≠ (q.getD (e / 8) 0).getLsbD (e % 8)).card) := by
  simp only [distance, foldl_add_range, sum_byteOnes_xor, Nat.mul_div_cancel' (Nat.dvd_of_mod_eq_zero hdim)]

/-! ### Distances over floats (R75) -/

/-- The rounded term of element e. -/
def distTerm (fmt metric dim : Nat) (q a : List Byte) (e : Nat) : Nat :=
  let d := (f32.sub .rne false (vecElem fmt dim a e) (vecElem fmt dim q e)).pat
  if metric = 0 then (f32.mul .rne false d d).pat else (f32.mul .rne false (vecElem fmt dim a e) (vecElem fmt dim q e)).pat

theorem distance_float {fmt : Nat} (hfmt : fmt = 1 ∨ fmt = 2) (metric dim : Nat) (q a : List Byte) {sum : Nat → Nat} (h0 : sum 0 = 0)
    (hs : ∀ e, sum (e + 1) = (f32.add .rne false (sum e) (distTerm fmt metric dim q a e)).pat) :
    distance fmt metric dim q a = BitVec.ofNat 32 (if metric = 0 ∨ sum dim = 0x7FC00000 then sum dim else f32.flip (sum dim)) := by
  rw [← floatSum_eq h0 hs dim]
  by_cases hm : metric = 0
  · have hterm : distTerm fmt metric dim q a = fun e => (f32.mul .rne false (f32.sub .rne false (vecElem fmt dim a e) (vecElem fmt dim q e)).pat
        (f32.sub .rne false (vecElem fmt dim a e) (vecElem fmt dim q e)).pat).pat := funext fun e => if_pos hm
    rw [if_pos (.inl hm), hterm]
    rcases hfmt with rfl | rfl <;> exact if_pos hm
  · have hterm : distTerm fmt metric dim q a = fun e => (f32.mul .rne false (vecElem fmt dim a e) (vecElem fmt dim q e)).pat :=
      funext fun e => if_neg hm
    simp only [hm, false_or, hterm]
    rcases hfmt with rfl | rfl <;> exact if_neg hm

/-- Settles O31: the heap's cases by its own lemmas, with distances ordered as the numbers they stand for; a BFP8 element by the exactness of its
rounding; the sums by induction over the elements. -/
theorem distances : Obligations.Distances := by
  unfold Obligations.Distances
  intro metric dim k q a flt heap x key nan before isHeap kept
  have hbefore : before = RanksBefore flt := funext fun y => funext fun z => propext ranksBefore_iff_distNum.symm
  have hnan : ∀ d, nan d ↔ distNan flt d = true := fun d => (distNan_iff flt d).symm
  have hkey : ∀ c d, key c < key d ↔ distKey flt c < distKey flt d := distNum_lt_iff flt
  have hheap : ∀ l, isHeap l ↔ IsHeap flt k l := fun l => by
    simp only [isHeap, hbefore, hnan, Bool.not_eq_true]
    exact ⟨fun ⟨hs, hn, hl, hx⟩ => ⟨hs, hn, hl, hx⟩, fun ⟨hs, hn, hl, hx⟩ => ⟨hs, hn, hl, hx⟩⟩
  refine ⟨fun h _ => ?heap, fun e => vecElem_bf16 dim a e, fun e => ?bfp, distance_l2sq dim q a, fun hm => distance_ip hm dim q a,
    fun hdim => distance_hamming hdim metric q a, fun fmt sum hfmt => ?float⟩
  case heap =>
    replace h := (hheap heap).mp h
    simp only [hheap, hnan, hkey, hbefore, Bool.not_eq_true]
    refine ⟨isHeap_heapOffer h, heapOffer_nan, fun hx y hy hid => ⟨fun hlt z => ?_, fun hle => ?_⟩, fun hx hid =>
      ⟨fun hroom z => mem_heapOffer_room hx hid hroom z, fun w hfull hw =>
        ⟨fun hb z => mem_heapOffer_full h hx hid hfull hw hb z, heapOffer_full_worse h hx hid hfull hw⟩⟩⟩
    · rw [show kept = _ from heapOffer_known h hx hy hid, if_pos hlt]
      exact mem_replaced h hy hid z
    · rw [show kept = _ from heapOffer_known h hx hy hid, if_neg (mt (hkey _ _).mpr (not_lt.mpr hle))]
  case bfp =>
    intro b ex v mant
    have hv : v = bfpPat (b / 64 % 2 == 1) (b % 64) ex := vecElem_bfp8 dim a e
    have hsign : (b / 64 % 2 == 1).toNat = b / 64 % 2 := by
      rcases Nat.mod_two_eq_zero_or_one (b / 64) with h | h <;> rw [h] <;> rfl
    refine ⟨fun hex => ?_, fun hex => ?_, fun hlo hhi => ?_⟩
    · rw [hv, hex, bfpPat_nan]
    · rw [hv, hex, bfpPat_zero]
      rcases Nat.mod_two_eq_zero_or_one (b / 64) with h | h <;> rw [h] <;> rfl
    · have hval := bfpPat_value (neg := b / 64 % 2 == 1) (Nat.mod_lt b (by decide)) hlo hhi
      rwa [← hv, hsign] at hval
  case float =>
    exact fun h0 hs => distance_float hfmt metric dim q a h0 hs

end Sys2Proof.Machine
end

section
/-! PROOFS. What the memory system leaves of the agents: translations, reads, and writes posted and performed. -/

namespace Sys2Proof.Machine

/-! ### Workgroups but for their stashes -/

/-- A workgroup without the bytes, the lines and the hold of its stash. -/
def Wg.bare (g : Wg) : Wg := { g with stash := [], lines := [], wbHold := false }

/-- The workgroups but for what their stashes hold. -/
def State.bareWgs (s : State) : List Wg := s.wgs.map Wg.bare

theorem bareWgs_updWg (s : State) (w : Nat) (f : Wg → Wg) (hf : ∀ g, (f g).bare = g.bare) : (s.updWg w f).bareWgs = s.bareWgs := by
  refine List.ext_getElem? fun i => ?_
  simp only [State.bareWgs, State.updWg_wgs, List.getElem?_map, List.getElem?_modify]
  split
  · cases s.wgs[i]? with
    | none => rfl
    | some g => exact congrArg some (hf g)
  · simp

theorem bareWgs_updLines (s : State) (w : Nat) (f : Wg → Store (Option LineSt)) :
    (s.updWg w fun g => { g with lines := f g }).bareWgs = s.bareWgs := bareWgs_updWg _ _ _ fun _ => rfl

theorem State.ReadsArray.bareWgs {s s' : State} (h : s.ReadsArray s') : s'.bareWgs = s.bareWgs := by
  obtain ⟨_, _, _, _, rfl⟩ := h
  rfl

@[simp] theorem countWrite_bareWgs (s : State) (pa : Nat) : (s.countWrite pa).bareWgs = s.bareWgs := by
  rw [State.bareWgs, countWrite_wgs, State.bareWgs]

@[simp] theorem storeLine_bareWgs (s : State) (pl : Nat) (bs : List Byte) (bad wv : Bool) : (s.storeLine pl bs bad wv).bareWgs = s.bareWgs := by
  unfold State.storeLine
  dsimp only
  split
  · exact countWrite_bareWgs _ _
  · rfl

@[simp] theorem wbLine_bareWgs (s : State) (w l : Nat) (x : LineSt) (wv : Bool) (pl : Nat) : (s.wbLine w l x wv pl).bareWgs = s.bareWgs := by
  rw [State.wbLine, bareWgs_updLines, storeLine_bareWgs]

@[simp] theorem putHome_bareWgs (s : State) (pa : Nat) (bs : List Byte) : (s.putHome pa bs).bareWgs = s.bareWgs := by
  unfold State.putHome
  split
  · exact bareWgs_updWg _ _ _ fun _ => rfl
  · rfl

@[simp] theorem setLeaf_bareWgs (s : State) (l : TlbLeaf) (w : Bool) : (s.setLeaf l w).bareWgs = s.bareWgs := by
  unfold State.setLeaf
  dsimp only
  split
  · rfl
  · exact (countWrite_bareWgs _ _).trans (putHome_bareWgs _ _ _)

@[simp] theorem demandWb_bareWgs (s : State) (w l : Nat) : (s.demandWb w l).bareWgs = s.bareWgs := (demandWb_reads s w l).bareWgs

@[simp] theorem ownSlot_bareWgs (n : Nat) (s : State) (l : TlbLeaf) (w : Bool) : (s.ownSlot n l w).bareWgs = s.bareWgs := by
  induction n generalizing s l w with
  | zero => rfl
  | succ n ih =>
    unfold State.ownSlot
    split
    · rfl
    · split
      · rfl
      · split
        · rfl
        · split
          · rfl
          · exact bareWgs_updLines _ _ _
        · dsimp only
          rw [bareWgs_updLines]
          split
          · rw [wbLine_bareWgs, setLeaf_bareWgs, ih, demandWb_bareWgs]
          · rfl

@[simp] theorem markLeaf_bareWgs (s : State) (l : TlbLeaf) (w : Bool) : (s.markLeaf l w).bareWgs = s.bareWgs := by
  rw [State.markLeaf, setLeaf_bareWgs, ownSlot_bareWgs]

@[simp] theorem wbStore_bareWgs (s : State) (w l : Nat) (x : LineSt) (lf : TlbLeaf) (pl : Nat) : (s.wbStore w l x lf pl).bareWgs = s.bareWgs := by
  rw [State.wbStore, wbLine_bareWgs, markLeaf_bareWgs, demandWb_bareWgs]

@[simp] theorem giveUpOwn_bareWgs (s : State) (w l : Nat) : (s.giveUpOwn w l).bareWgs = s.bareWgs := by
  unfold State.giveUpOwn
  split
  · dsimp only
    rw [bareWgs_updLines]
    split
    · exact wbStore_bareWgs s _ _ _ _ _
    · rfl
  · rfl

@[simp] theorem cleanLine_bareWgs (s : State) (w l : Nat) : (s.cleanLine w l).bareWgs = s.bareWgs := by
  unfold State.cleanLine
  split
  · split
    · rw [wbStore_bareWgs]
      split
      · exact giveUpOwn_bareWgs s _ _
      · rfl
    · rfl
  · rfl

@[simp] theorem putRec_bareWgs (s : State) (r : TrapRec) : (s.putRec r).bareWgs = s.bareWgs := by
  unfold State.putRec
  split <;> rfl

@[simp] theorem wbRequest_bareWgs (s : State) (w l : Nat) : (s.wbRequest w l).bareWgs = s.bareWgs := by
  unfold State.wbRequest
  split
  · rfl
  · dsimp only
    rw [bareWgs_updWg _ _ (fun g => { g with wbHold := true }) fun _ => rfl, putRec_bareWgs, demandWb_bareWgs]

/-! ### What the memory system changes (R53, R55, R97, R384, R405) -/

/-- The memory system changes memory, posted writes, what stashes hold, cached leaves, counters and trap slots; nothing else changes. -/
def State.Serves (s s' : State) : Prop :=
  ∃ mem poison err tlb wvc wgs cores stks posted, wgs.map Wg.bare = s.bareWgs ∧ s' =
    { s with mem := mem, poison := poison, arrayErr := err, tlb := tlb, wvc := wvc, wgs := wgs, cores := cores, stks := stks,
             posted := posted }

theorem State.Serves.refl (s : State) : s.Serves s := ⟨_, _, _, _, _, _, _, _, _, rfl, rfl⟩

theorem State.Serves.trans {s₁ s₂ s₃ : State} (h₁ : s₁.Serves s₂) (h₂ : s₂.Serves s₃) : s₁.Serves s₃ := by
  obtain ⟨_, _, _, _, _, _, _, _, _, hw₁, rfl⟩ := h₁
  obtain ⟨_, _, _, _, _, _, _, _, _, hw₂, rfl⟩ := h₂
  exact ⟨_, _, _, _, _, _, _, _, _, hw₂.trans hw₁, rfl⟩

theorem State.ReadsArray.serves {s s' : State} (h : s.ReadsArray s') : s.Serves s' := by
  obtain ⟨_, _, _, _, rfl⟩ := h
  exact ⟨_, _, _, _, _, _, _, _, _, rfl, rfl⟩

theorem State.WritesBack.serves {s s' : State} (h : s.WritesBack s') (hw : s'.bareWgs = s.bareWgs) : s.Serves s' := by
  obtain ⟨_, _, _, _, _, _, _, _, -, rfl⟩ := h
  exact ⟨_, _, _, _, _, _, _, _, _, hw, rfl⟩

/-- What each step of a fold leaves, the fold leaves. -/
theorem foldl_serves {ι : Type} {f : State → ι → State} (hf : ∀ (s : State) i, s.Serves (f s i)) (l : List ι) (s : State) :
    s.Serves (l.foldl f s) := by
  induction l generalizing s with
  | nil => exact .refl s
  | cons i r ih => exact (hf s i).trans (ih _)

section
variable {s s' : State} (h : s.Serves s')
include h

theorem State.Serves.cur_eq : s'.cur = s.cur := by obtain ⟨_, _, _, _, _, _, _, _, _, -, rfl⟩ := h; rfl
theorem State.Serves.threads_eq : s'.threads = s.threads := by obtain ⟨_, _, _, _, _, _, _, _, _, -, rfl⟩ := h; rfl
theorem State.Serves.crews_eq : s'.crews = s.crews := by obtain ⟨_, _, _, _, _, _, _, _, _, -, rfl⟩ := h; rfl
theorem State.Serves.racc_eq : s'.racc = s.racc := by obtain ⟨_, _, _, _, _, _, _, _, _, -, rfl⟩ := h; rfl
theorem State.Serves.walkers_eq : s'.walkers = s.walkers := by obtain ⟨_, _, _, _, _, _, _, _, _, -, rfl⟩ := h; rfl
theorem State.Serves.cmds_eq : s'.cmds = s.cmds := by obtain ⟨_, _, _, _, _, _, _, _, _, -, rfl⟩ := h; rfl
theorem State.Serves.curRegs_eq : s'.curRegs = s.curRegs := by obtain ⟨_, _, _, _, _, _, _, _, _, -, rfl⟩ := h; rfl
theorem State.Serves.thr_eq (t : Nat) : s'.thr t = s.thr t := by rw [State.thr, h.threads_eq, State.thr]
theorem State.Serves.crewOf_eq (t : Nat) : s'.crewOf t = s.crewOf t := by rw [State.crewOf, h.thr_eq, State.crewOf]
theorem State.Serves.t_eq : s'.t = s.t := by rw [State.t, h.cur_eq, State.t]

/-- A workgroup stays at its core. -/
theorem State.Serves.wg_core (w : Nat) : (s'.wg w).core = (s.wg w).core := by
  obtain ⟨_, _, _, _, _, _, _, _, _, hw, rfl⟩ := h
  have hbare := congrArg (fun l : List Wg => (l.getD w ({} : Wg).bare).core) hw
  rwa [State.bareWgs, List.getD_map, List.getD_map] at hbare

theorem State.Serves.coreOf_eq (t : Nat) : s'.coreOf t = s.coreOf t := by
  rw [State.coreOf, h.wg_core, State.wgOf, State.wgOfCrew, State.crew, h.crews_eq, h.crewOf_eq]
  rfl

theorem State.Serves.curView_eq : s'.curView = s.curView := by
  simp only [State.curView, h.cur_eq, h.coreOf_eq]

theorem State.Serves.remotePending_eq (c n : Nat) : s'.remotePending c n = s.remotePending c n := by
  simp only [State.remotePending, h.racc_eq]

end

/-! ### Translation and the checks of R233 -/

theorem markLeaf_serves (s : State) (l : TlbLeaf) (w : Bool) : s.Serves (s.markLeaf l w) :=
  ((ownSlot_writesBack _ _ _ _).trans (setLeaf_writesBack _ _ _)).serves (markLeaf_bareWgs s l w)

theorem wbRequest_serves (s : State) (w l : Nat) : s.Serves (s.wbRequest w l) := (wbRequest_writesBack s w l).serves (wbRequest_bareWgs s w l)

theorem leafOf_serves (s : State) (a : As) (va : DWord) : s.Serves (s.leafOf a va).1 := by
  unfold State.leafOf
  split
  · exact .refl s
  · dsimp only
    split
    · exact (demandWalk_reads s a va).serves
    · exact (demandWalk_reads s a va).serves.trans (markLeaf_serves _ _ _)

theorem leafUse_serves (s : State) (va : DWord) (n : Nat) (k : AccKind) (l : TlbLeaf) : s.Serves (s.leafUse va n k l).1 := by
  unfold State.leafUse
  dsimp only
  split
  · exact markLeaf_serves s l true
  · exact .refl s

theorem serves_of_leafOf {s s' : State} {a : As} {va : DWord} {x : Option TlbLeaf} (h : s.leafOf a va = (s', x)) : s.Serves s' := by
  have := leafOf_serves s a va
  rwa [h] at this

theorem resolve_serves (s : State) (a : As) (view : Option Nat) (va : DWord) (n : Nat) (k : AccKind) :
    s.Serves (s.resolve a view va n k).1 := by
  unfold State.resolve
  split
  · exact .refl s
  · split
    · exact .refl s
    · split
      · dsimp only
        split
        · exact .refl s
        · split <;> exact .refl s
      · split
        · exact .refl s
        · have hleaf := (demandLeaf_reads s a va k.writes).serves
          dsimp only
          split
          · exact hleaf.trans (wbRequest_serves _ _ _)
          · split
            · rename_i h
              exact hleaf.trans (serves_of_leafOf h)
            · rename_i s' l h
              replace hleaf := hleaf.trans (serves_of_leafOf h)
              split
              · exact hleaf
              · split
                · exact hleaf.trans (leafUse_serves _ _ _ _ _)
                · have hstale : s'.Serves { s' with tlb := s'.tlb.filter (· != l) } := ⟨_, _, _, _, _, _, _, _, _, rfl, rfl⟩
                  replace hleaf := hleaf.trans hstale
                  split
                  · rename_i h2
                    exact hleaf.trans (serves_of_leafOf h2)
                  · rename_i h2
                    replace hleaf := hleaf.trans (serves_of_leafOf h2)
                    split
                    · exact hleaf
                    · exact hleaf.trans (leafUse_serves _ _ _ _ _)

theorem check_serves (s : State) (a : As) (view : Option Nat) (va : DWord) (n : Nat) (k : AccKind) : s.Serves (s.check a view va n k).1 := by
  unfold State.check
  split
  · exact .refl s
  · exact resolve_serves s a view va n k

theorem demandPlace_reads (s : State) (p : Place) : s.ReadsArray (s.demandPlace p) := by
  have hfold : ∀ (pas : List Nat) (s : State), s.ReadsArray (pas.foldl (fun s pa => s.demand pa 0) s) := fun pas => by
    induction pas with
    | nil => exact .refl
    | cons pa r ih => exact fun s => (demand_reads s pa 0).trans (ih _)
  cases p with
  | mem pas wv => exact hfold pas s
  | conv x o n => exact hfold _ s
  | value bs => exact .refl s

/-! ### Writes (R53, R55, R95, R97) -/

theorem takeLine_serves (s : State) (pl : Nat) : s.Serves (s.takeLine pl) := by
  unfold State.takeLine
  split
  · unfold State.giveUp
    split
    · exact ((cleanLine_writesBack s _ _).trans (updWg_writesBack _ _ _)).serves
        ((bareWgs_updLines _ _ _).trans (cleanLine_bareWgs s _ _))
    · exact .refl s
  · exact .refl s

theorem writeErrors_serves (s : State) (pa n : Nat) (ls : List Nat) : s.Serves (s.writeErrors pa n ls) := by
  refine foldl_serves (fun s l => ?_) ls s
  split
  · exact ⟨_, _, _, _, _, _, _, _, _, rfl, rfl⟩
  · exact (demand_reads s _ _).serves

theorem perform_serves (s : State) (pa : Nat) (bs : List Byte) (wv : Bool) : s.Serves (s.perform pa bs wv) := by
  have hput : ∀ (u : State) (mem : Store Byte) (poison : List Nat), u.Serves { u with mem := mem, poison := poison } :=
    fun _ _ _ => ⟨_, _, _, _, _, _, _, _, _, rfl, rfl⟩
  have hcount : ∀ (ls : List Nat) (u : State), u.Serves (ls.foldl (fun s l => s.countWrite (4096 * l)) u) :=
    foldl_serves fun u l => (countWrite_writesBack u _).serves (countWrite_bareWgs u _)
  have htaken : ∀ (ls : List Nat) (u : State), s.Serves u →
      s.Serves (if u.arrayErr = [] then u else u.writeErrors pa bs.length ls) := fun ls u hu => by
    split
    · exact hu
    · exact hu.trans (writeErrors_serves _ _ _ _)
  unfold State.perform
  split
  · exact .refl s
  · dsimp only
    split
    · exact ((htaken _ _ (foldl_serves takeLine_serves _ s)).trans (hput _ _ _)).trans (hcount _ _)
    · exact (htaken _ _ (foldl_serves takeLine_serves _ s)).trans (hput _ _ _)

theorem performPlace_serves (s : State) (p : Place) (bs : List Byte) : s.Serves (s.performPlace p bs) := by
  cases p with
  | mem pas wv => exact foldl_serves (fun s r => perform_serves s _ _ _) _ s
  | conv x o n => exact .refl s
  | value bs => exact .refl s

theorem flushOne_serves (x : State × List PostedW) (w : PostedW) : x.1.Serves (flushOne x w).1 := by
  unfold flushOne
  split
  · exact .refl x.1
  · exact perform_serves _ _ _ _

theorem flushWhere_serves (s : State) (p : PostedW → Bool) : s.Serves (s.flushWhere p) := by
  have hpost : ∀ (u : State) (ws : List PostedW), u.Serves { u with posted := ws } := fun _ _ => ⟨_, _, _, _, _, _, _, _, _, rfl, rfl⟩
  have hfold : ∀ (ws : List PostedW) (x : State × List PostedW), x.1.Serves (ws.foldl flushOne x).1 := fun ws => by
    induction ws with
    | nil => exact fun x => .refl x.1
    | cons w r ih => exact fun x => (flushOne_serves x w).trans (ih _)
  exact ((hpost s _).trans (hfold (takePosted p s.posted).1 (_, []))).trans (hpost _ _)

theorem flushCore_serves (s : State) (core : Nat) : s.Serves (s.flushCore core) := flushWhere_serves s _

theorem settlePlace_serves (s : State) (core : Nat) (p : Place) : s.Serves (s.settlePlace core p) := by
  unfold State.settlePlace
  split
  · split
    · exact .refl s
    · exact flushWhere_serves s _
  · exact .refl s
  · exact .refl s

end Sys2Proof.Machine
end

section
/-! PROOFS. VPUBLISH, VSNAP and BQUERY (O30). -/

namespace Sys2Proof.Machine

/-! ### Re-forming touches no memory and no request -/

@[simp] theorem State.reforms_coreOf (s : State) (t : Nat) : s.reforms.coreOf t = s.coreOf t := by obtain ⟨_, h⟩ := s.reforms_eq; rw [h]; rfl
@[simp] theorem State.reforms_requests (s : State) (core : Nat) : s.reforms.requests core = s.requests core := by
  obtain ⟨_, h⟩ := s.reforms_eq; rw [h]; rfl
@[simp] theorem State.reforms_curAs (s : State) : s.reforms.curAs = s.curAs := by obtain ⟨_, h⟩ := s.reforms_eq; rw [h]; rfl
@[simp] theorem State.reforms_curView (s : State) : s.reforms.curView = s.curView := by obtain ⟨_, h⟩ := s.reforms_eq; rw [h]; rfl
@[simp] theorem State.reforms_loads (s : State) : s.reforms.loads = s.loads := by obtain ⟨_, h⟩ := s.reforms_eq; rw [h]
@[simp] theorem State.reforms_racc (s : State) : s.reforms.racc = s.racc := by obtain ⟨_, h⟩ := s.reforms_eq; rw [h]
@[simp] theorem State.reforms_remotePending (s : State) (c n : Nat) : s.reforms.remotePending c n = s.remotePending c n := by
  simp only [State.remotePending, State.reforms_racc]

@[simp] theorem State.reforms_bqueryVal (s : State) (k : Nat) : s.reforms.bqueryVal k = s.bqueryVal k := by
  obtain ⟨_, h⟩ := s.reforms_eq
  rw [h]
  rfl

theorem State.curView_of_cur {s : State} {t : Nat} (hc : s.cur = .thread t) : s.curView = some (s.coreOf t) := by simp only [State.curView, hc]

/-! ### The stages of an access that nothing holds up (R16, R53, R99, R122, R233) -/

theorem State.budget_of_room {s : State} (h : s.requests (s.coreOf s.t) < 2048) (go : State → Res) : s.budget go = go s :=
  if_neg (by omega)

theorem State.access_of_ok {s : State} {va : DWord} {n : Nat} {k : AccKind} {p : Place} (h : (s.check s.curAs s.curView va n k).2 = .ok p)
    (hfree : k.writes = true → (s.check s.curAs s.curView va n k).1.placeBlocked p = none) (go : State → Place → Res) :
    s.access va n k go = go (s.check s.curAs s.curView va n k).1 p := by
  unfold State.access
  generalize s.check s.curAs s.curView va n k = r at *
  obtain ⟨u, c⟩ := r
  obtain rfl : c = .ok p := h
  cases hk : k.writes with
  | false => rfl
  | true => simp only [if_true, hfree hk, State.unlessBlocked]

theorem State.awaitRemote_of_none {s : State} (h : s.remotePending (s.crewOf s.t) s.racc.length = false) (go : State → Res) :
    s.awaitRemote go = go s := by
  rw [State.awaitRemote, h, Bool.and_false]
  rfl

theorem State.releaseThen_of_free {s : State} {core : Nat} {sc : Scope} (hsc : scopeWide sc = true) (h : (s.flushCore core).postBlocked core = none)
    (go : State → Res) : s.releaseThen core sc go = go (s.flushCore core) := by
  simp only [State.releaseThen, State.release, hsc, if_true, h, State.unlessBlocked]

/-- The bytes of a value, said by its bits (R9). -/
theorem bytesOf_eq_map {w : Nat} (n : Nat) (x : BitVec w) : bytesOf n x = (List.range n).map fun j => x.extractLsb' (8 * j) 8 := by
  have hbytes : ∀ n x, leBytes n x = (List.range n).map fun j => BitVec.ofNat 8 (x / 2 ^ (8 * j)) := fun n => by
    induction n with
    | zero => exact fun _ => rfl
    | succ n ih =>
      intro x
      rw [leBytes, ih, List.range_succ_eq_map, List.map_cons, List.map_map]
      refine congr_arg₂ List.cons (by simp) (List.map_congr_left fun j _ => ?_)
      rw [Nat.div_div_eq_div_mul, Function.comp_apply, Nat.mul_succ, Nat.add_comm, Nat.pow_add]
  rw [bytesOf, hbytes]
  refine List.map_congr_left fun j _ => BitVec.eq_of_toNat_eq ?_
  rw [BitVec.toNat_ofNat, BitVec.extractLsb'_toNat, Nat.shiftRight_eq_div_pow]

/-! ### VPUBLISH and VSNAP (R316, R317) -/

section
variable {s : State} {t : Nat} {h : Hdr} {a : Src} {p : Place} (hc : s.cur = .thread t) (hreq : s.requests (s.coreOf t) < 2048)
include hc hreq

/-- VPUBLISH of a readable object with nothing in its way: the end of the versions traps, any other is advanced. -/
theorem exec_vpublish_ok (hr : s.runs (.vpublish h a) = true) (hrem : s.remotePending (s.crewOf t) s.racc.length = false) {s1 : State}
    (hchk : s.reforms.check s.curAs (some (s.coreOf t)) (s.curRegs.rx a) 8 .atomic = (s1, .ok p)) (hfree : s1.placeBlocked p = none)
    (hpost : (s1.flushCore (s.coreOf t)).postBlocked (s.coreOf t) = none) {s3 : State}
    (hs3 : ((s1.flushCore (s.coreOf t)).settlePlace (s.coreOf t) p).demandPlace p = s3) {old : DWord} (hold : dwOf (s3.fetchPlace none p) = old)
    (hbad : s3.placeBad p = false) :
    exec (.vpublish h a) s = .next (
      if 0xFFFFFFFE ≤ old.toNat then s3.raise { cause := .illegalOperand }
      else ((s3.performPlace p (bytesOf 8 (old + 1))).noteAdvance p.first).goesOn
        (if h.nw then s.curRegs else s.curRegs.setV h.d.toNat ((old + 1).setWidth 32)).broke) := by
  have hview : s.reforms.curView = some (s.coreOf t) := by rw [State.reforms_curView, State.curView_of_cur hc]
  have hs1 : s.reforms.Serves s1 := by
    have := check_serves s.reforms s.curAs (some (s.coreOf t)) (s.curRegs.rx a) 8 .atomic
    rwa [hchk] at this
  have hflush : s.reforms.Serves (s1.flushCore (s.coreOf t)) := hs1.trans (flushCore_serves _ _)
  have hserves : s.reforms.Serves s3 := hs3 ▸ (hflush.trans (settlePlace_serves _ _ _)).trans (demandPlace_reads _ _).serves
  have ht : s.reforms.t = t := by rw [State.reforms_t, State.t_of_cur hc]
  have hchk' : s.reforms.check s.reforms.curAs s.reforms.curView (s.curRegs.rx a) 8 .atomic = (s1, .ok p) := by
    rw [State.reforms_curAs, hview, hchk]
  rw [exec_vpublish, execVpublish, issueI_ready_brk hr rfl, State.budget_of_room (by rwa [ht, State.reforms_coreOf, State.reforms_requests]),
    State.access_of_ok (p := p) (by rw [hchk']) (by rw [hchk']; exact fun _ => hfree), hchk',
    State.awaitRemote_of_none (by rwa [hs1.remotePending_eq, hs1.crewOf_eq, hs1.t_eq, hs1.racc_eq, ht, State.reforms_crewOf, State.reforms_racc,
      State.reforms_remotePending]), hs1.coreOf_eq, hs1.t_eq, ht, State.reforms_coreOf, State.releaseThen_of_free rfl hpost, State.atomRead,
    hflush.coreOf_eq, hflush.t_eq, ht, State.reforms_coreOf, hs3]
  by_cases hend : 0xFFFFFFFE ≤ old.toNat
  · simp only [hbad, Bool.false_eq_true, if_false, hold, if_pos hend]
    rfl
  · have hregs : ((s3.performPlace p (bytesOf 8 (old + 1))).noteAdvance p.first).curRegs = s.curRegs :=
      ((performPlace_serves s3 p _).curRegs_eq.trans hserves.curRegs_eq).trans s.reforms_curRegs
    simp only [hbad, Bool.false_eq_true, if_false, hold, if_neg hend]
    rw [deliver_v_broke rfl, hregs]

/-- VSNAP of a readable object: its value, saturated. -/
theorem exec_vsnap_ok (hr : s.runs (.vsnap h a) = true) {s1 : State}
    (hchk : s.reforms.check s.curAs (some (s.coreOf t)) (s.curRegs.rx a) 8 .load = (s1, .ok p)) (hbad : (s1.demandPlace p).placeBad p = false) :
    exec (.vsnap h a) s = .next ((s1.demandPlace p).goesOn (if h.nw then s.curRegs else s.curRegs.setV h.d.toNat
      (BitVec.ofNat 32 (min (leNat ((s1.demandPlace p).fetchPlace (some (s.coreOf t)) p)) 0xFFFFFFFE))).broke) := by
  have hview : s.reforms.curView = some (s.coreOf t) := by rw [State.reforms_curView, State.curView_of_cur hc]
  have hserves : s.reforms.Serves (s1.demandPlace p) := by
    have hs1 := check_serves s.reforms s.curAs (some (s.coreOf t)) (s.curRegs.rx a) 8 .load
    rw [hchk] at hs1
    exact hs1.trans (demandPlace_reads s1 p).serves
  have ht : s.reforms.t = t := by rw [State.reforms_t, State.t_of_cur hc]
  have hchk' : s.reforms.check s.reforms.curAs s.reforms.curView (s.curRegs.rx a) 8 .load = (s1, .ok p) := by
    rw [State.reforms_curAs, hview, hchk]
  rw [exec_vsnap, execVsnap, issueI_ready_brk hr rfl, State.budget_of_room (by rwa [ht, State.reforms_coreOf, State.reforms_requests]),
    State.access_of_ok (p := p) (by rw [hchk']) (fun hw => by cases hw), hchk']
  simp only [hbad, Bool.false_eq_true, if_false, hserves.curView_eq, hview]
  rw [deliver_v_broke rfl, hserves.curRegs_eq, State.reforms_curRegs]

/-! ### BQUERY (R318) -/

/-- The load in flight that brings a pair to d. -/
def pairFly (t : Nat) (h : Hdr) (r : Regs) (x : DWord) : LoadFly :=
  { thread := t, walker := none, d := h.d.toNat, vals := [x.setWidth 32, x.extractLsb' 32 32], poison := none, pc := r.pc }

theorem exec_bquery_ok (hr : s.runs (.bquery h a) = true) (hk : (s.curRegs.rv a).toNat ≤ 11) :
    exec (.bquery h a) s = .next (State.goesOn { s.reforms with loads := s.loads ++ [pairFly t h s.curRegs (s.bqueryVal (s.curRegs.rv a).toNat)] }
      s.curRegs.broke) := by
  have ht : s.reforms.t = t := by rw [State.reforms_t, State.t_of_cur hc]
  have hfly : s.reforms.flight h.d.toNat (wordsOf true (s.reforms.bqueryVal (s.curRegs.rv a).toNat)) none =
      { s.reforms with loads := s.loads ++ [pairFly t h s.curRegs (s.bqueryVal (s.curRegs.rv a).toNat)] } := by
    rw [State.reforms_bqueryVal]
    simp only [State.flight, State.reforms_cur, hc, ht, State.reforms_loads, State.reforms_curRegs]
    rfl
  rw [exec_bquery, execBquery, issueI_ready_brk hr rfl, if_neg (not_lt.mpr hk),
    State.budget_of_room (by rwa [ht, State.reforms_coreOf, State.reforms_requests]), hfly, deliver_broke rfl]
  exact congrArg (fun r => Host.Outcome.next (State.goesOn _ (Regs.broke r))) s.reforms_curRegs

end

theorem exec_bquery_illegal {s : State} {h : Hdr} {a : Src} (hr : s.runs (.bquery h a) = true) (hk : 11 < (s.curRegs.rv a).toNat) :
    exec (.bquery h a) s = .next (s.reforms.raise { cause := .illegalOperand }) := by
  rw [exec_bquery, execBquery, issueI_ready_brk hr rfl, if_pos hk]
  rfl

theorem bits_ofNat (n lo len : Nat) : bits (BitVec.ofNat 64 n) lo len = n % 2 ^ 64 / 2 ^ lo % 2 ^ len := by
  rw [bits, BitVec.extractLsb'_toNat, BitVec.toNat_ofNat, Nat.shiftRight_eq_div_pow]

/-- The fields of BQUERY's reply, of a queue, units, places and slices. -/
theorem bits_dieState {q u p v : Nat} (hq : q ≤ 256) (hu : u ≤ 16) (hp : p ≤ 1024) (hv : v ≤ 128) :
    let x : DWord := BitVec.ofNat 64 (q + u * 2 ^ 16 + p * 2 ^ 32 + v * 2 ^ 48)
    bits x 0 9 = q ∧ bits x 9 7 = 0 ∧ bits x 16 5 = u ∧ bits x 21 11 = 0 ∧ bits x 32 11 = p ∧ bits x 43 5 = 0 ∧ bits x 48 8 = v ∧
      bits x 56 8 = 0 := by
  have hlt : q + u * 2 ^ 16 + p * 2 ^ 32 + v * 2 ^ 48 < 2 ^ 64 := by omega
  simp only [bits_ofNat, Nat.mod_eq_of_lt hlt]
  refine ⟨?_, ?_, ?_, ?_, ?_, ?_, ?_, ?_⟩ <;> omega

theorem bqueryVal_fields (s : State) (k : Nat) :
    let x := s.bqueryVal k
    bits x 0 9 = min (s.dieQueue k) 256 ∧ bits x 9 7 = 0 ∧ bits x 16 5 = 16 - s.heapsUsed k ∧ bits x 21 11 = 0 ∧
      bits x 32 11 = 1024 - s.walkersUsed k ∧ bits x 43 5 = 0 ∧ bits x 48 8 = 128 - s.slicesUsed k ∧ bits x 56 8 = 0 :=
  bits_dieState (Nat.min_le_right _ _) (Nat.sub_le _ _) (Nat.sub_le _ _) (Nat.sub_le _ _)

/-- Settles O30, instruction by instruction: each stage of the access is the next one, and none of them changes the thread or its core. -/
theorem versions : Obligations.Versions := by
  unfold Obligations.Versions
  intro s t h a pas wv hc _ r core p found d
  have hd : ∀ x, (if h.nw then r else r.setV h.d.toNat x).broke = d x := fun x => apply_ite Regs.broke _ _ _
  refine ⟨?publish, ?snap,
    fun hr => ⟨exec_bquery_illegal hr, fun hk hreq => ⟨s.bqueryVal (r.rv a).toNat, exec_bquery_ok hc hreq hr hk, bqueryVal_fields s _⟩⟩⟩
  case publish =>
    intro hr hreq hrem hok s1 s2 hfree hpost s3 old hbad
    rw [exec_vpublish_ok hc hreq hr hrem (Prod.ext rfl hok) hfree hpost rfl rfl hbad, bytesOf_eq_map, hd]
    rfl
  case snap =>
    intro hr hreq hok s2 hbad
    rw [exec_vsnap_ok hc hreq hr (Prod.ext rfl hok) hbad, hd]

end Sys2Proof.Machine
end

section
/-! PROOFS. The executing walker, and the instructions of a walker (O32). -/

namespace Sys2Proof.Machine

/-! ### The executing walker and its command (R79, R80) -/

/-- Walker w executes, with this record and this command. -/
structure State.Walks (s : State) (w : Nat) (x : Walker) (c : Cmd) : Prop where
  cur : s.cur = .walker w
  walker : s.walkers[w]? = some x
  cmd : s.cmds[x.cmd]? = some c

section
variable {s : State} {w : Nat} {x : Walker} {c : Cmd} (hw : s.Walks w x c)
include hw

theorem State.Walks.w_eq : s.w = w := by simp only [State.w, hw.cur]
theorem State.Walks.wlk_eq : s.wlk w = x := State.wlk_of_getElem? hw.walker
theorem State.Walks.lt : w < s.walkers.length := lt_of_walker hw.walker
theorem State.Walks.curRegs_eq : s.curRegs = x.r := by simp only [State.curRegs, hw.cur, hw.wlk_eq]
theorem State.Walks.reforms_eq : s.reforms = s := by simp only [State.reforms, hw.cur]
theorem State.Walks.curCmd_eq : s.curCmd = some c := by rw [State.curCmd, hw.w_eq, hw.wlk_eq, hw.cmd]
theorem State.Walks.withCmd_eq (go : Cmd → Res) : s.withCmd go = go c := by simp only [State.withCmd, hw.curCmd_eq]
theorem State.Walks.updCurCmd_eq (f : Cmd → Cmd) : s.updCurCmd f = s.updCmd x.cmd f := by rw [State.updCurCmd, hw.w_eq, hw.wlk_eq]
theorem State.Walks.goesOn_eq (r : Regs) : s.goesOn r = s.updWlk w fun x => { x with r := r } := by simp only [State.goesOn, hw.cur]
theorem State.Walks.raise_eq (i : TrapInfo) : s.raise i = s.walkerFault w := by simp only [State.raise, hw.cur]

/-- A change of the walker that leaves it with its command. -/
theorem State.Walks.updWlk {f : Walker → Walker} (hf : (f x).cmd = x.cmd) : (s.updWlk w f).Walks w (f x) c :=
  ⟨hw.cur, getElem?_updWlk hw.walker f, by rw [hf]; exact hw.cmd⟩

theorem State.Walks.updCurCmd (f : Cmd → Cmd) : (s.updCurCmd f).Walks w x (f c) := by
  rw [hw.updCurCmd_eq]
  refine ⟨hw.cur, hw.walker, ?_⟩
  rw [State.updCmd_cmds, List.getElem?_modify_eq, hw.cmd]
  rfl

theorem State.Walks.goesOn (r : Regs) : (s.goesOn r).Walks w { x with r := r } c := by
  rw [hw.goesOn_eq]
  exact hw.updWlk rfl

theorem State.Walks.goesOn_mem (r : Regs) : (s.goesOn r).mem = s.mem := by rw [hw.goesOn_eq, State.updWlk_mem]

theorem State.Serves.walks {s' : State} (h : s.Serves s') : s'.Walks w x c :=
  ⟨h.cur_eq.trans hw.cur, by rw [h.walkers_eq, hw.walker], by rw [h.cmds_eq, hw.cmd]⟩

end

/-- A walker's breaker runs its own part in the state as it is. -/
theorem issueI_walker_brk {s : State} {w : Nat} {x : Walker} {c : Cmd} {i : Iss} (hw : s.Walks w x c) (hr : s.ready i = true)
    (hb : i.a.brk = true) (body : State → Regs → Res) : s.issueI i body = .next (deliver i (body s s.curRegs)) := by
  rw [issueI_ready_brk hr hb, hw.reforms_eq]

theorem issueI_ready_noBrk {s : State} {i : Iss} (hr : s.ready i = true) (hb : i.a.brk = false) (body : State → Regs → Res) :
    s.issueI i body = .next (deliver i (body s s.curRegs)) := by
  rw [issueI_ready hr, begin_noBrk _ _ hb]

/-! ### Records (R81, R319) -/

theorem walkerPlace_serves (s : State) (va : DWord) (n : Nat) : s.Serves (s.walkerPlace va n).1 := by
  have hres := resolve_serves s s.curAs none va n .load
  unfold State.walkerPlace
  generalize s.resolve s.curAs none va n .load = r at hres
  obtain ⟨u, v⟩ := r
  cases v with
  | trap i => exact hres
  | wait k => exact hres
  | ok p =>
    dsimp only
    split
    · split <;> exact hres
    · exact hres

/-- A record on the walker's own stack, at a place that it may read. -/
theorem recordAt_of_ok {s u : State} {w : Nat} {x : Walker} {c : Cmd} (hw : s.Walks w x c) {node off n : Nat} {p : Place}
    (hstk : c.nodeStack node = x.stack) (hplace : s.walkerPlace (c.nodeAddr node + BitVec.ofNat 64 off) n = (u, .ok p))
    (go : State → List Byte → Bool → Res) :
    s.recordAt c node off n go = go (u.demandPlace p) ((u.demandPlace p).fetchPlace none p) ((u.demandPlace p).placeBad p) := by
  have hin : (c.nodeStack node != (s.wlk s.w).stack) = false := by rw [hw.w_eq, hw.wlk_eq, hstk, bne_self_eq_false]
  simp only [State.recordAt, hin, Bool.false_eq_true, if_false, hplace]

theorem walks_of_walkerPlace {s u : State} {w : Nat} {x : Walker} {c : Cmd} (hw : s.Walks w x c) {va : DWord} {n : Nat} {v : Chk Place}
    (hplace : s.walkerPlace va n = (u, v)) (p : Place) : (u.demandPlace p).Walks w x c := by
  have hserves := walkerPlace_serves s va n
  rw [hplace] at hserves
  exact (hserves.trans (demandPlace_reads u p).serves).walks hw

/-! ### WDIST (R320) -/

/-- The walker after WDIST. -/
def Walker.afterDist (x : Walker) (h : Hdr) (q : BitVec 4) (node : Word) (vis : Bool) (d : Word) : Walker :=
  { x with r := (if h.nw then x.r.setP q vis else (x.r.setP q vis).setV h.d.toNat d).broke, tagId := node, tagVis := vis }

theorem deliver_wdistEnd {s : State} {w : Nat} {x : Walker} {c : Cmd} {i : Iss} (hw : s.Walks w x c) (hb : i.a.brk = true) (q : BitVec 4)
    (node : Word) (vis : Bool) (d : Word) :
    (deliver i (wdistEnd q node vis d s)).Walks w (x.afterDist i.h q node vis d) { c with evals := c.evals + 1 } ∧
      (deliver i (wdistEnd q node vis d s)).mem = s.mem := by
  have htag : (s.updWlk s.w fun x => { x with r := x.r.setP q vis, tagId := node, tagVis := vis }).Walks w
      { x with r := x.r.setP q vis, tagId := node, tagVis := vis } c := by
    rw [hw.w_eq]
    exact hw.updWlk rfl
  have hend := htag.updCurCmd fun c => { c with evals := c.evals + 1 }
  rw [wdistEnd, deliver_v_broke hb, hend.curRegs_eq]
  refine ⟨hend.goesOn _, ?_⟩
  rw [hend.goesOn_mem]
  rfl

/-- WDIST of a record that is not lost, and of one that is. -/
theorem exec_wdist_record {s u : State} {w : Nat} {x : Walker} {c : Cmd} {h : Hdr} {a : Src} {q : BitVec 4} {p : Place} (hw : s.Walks w x c)
    (hr : s.runs (.wdist h a q) = true) (hstk : c.nodeStack (s.curRegs.rv a).toNat = x.stack)
    (hplace : s.walkerPlace (c.nodeAddr (s.curRegs.rv a).toNat) (8 + c.vbytes) = (u, .ok p)) {s2 : State} (hs2 : u.demandPlace p = s2)
    {bs : List Byte} (hbs : s2.fetchPlace none p = bs) :
    exec (.wdist h a q) s = .next (deliver ⟨aWalkBrk, h, [.v a], .v h.d⟩
      (if s2.placeBad p || c.query == [] then
        wdistEnd q (s.curRegs.rv a) false c.farDist (s2.updCurCmd fun c => { c with eccUe := true })
      else wdistEnd q (s.curRegs.rv a) (visibleAt c.snapshot.toNat (leNat (bs.take 4)) (leNat ((bs.drop 4).take 4)))
        (distance c.vfmt c.metric c.dim c.query (bs.drop 8)) s2)) := by
  have hat : s.walkerPlace (c.nodeAddr (s.curRegs.rv a).toNat + BitVec.ofNat 64 0) (8 + c.vbytes) = (u, .ok p) := by
    rw [show BitVec.ofNat 64 0 = 0#64 from rfl, BitVec.add_zero, hplace]
  rw [exec_wdist, execWdist, issueI_walker_brk hw hr rfl, hw.withCmd_eq, recordAt_of_ok hw hstk hat, hs2, hbs]

/-! ### WHEAP (R321) -/

theorem exec_wheap_runs {s : State} {w : Nat} {x : Walker} {c : Cmd} {h : Hdr} {a b : Src} (hw : s.Walks w x c)
    (hr : s.runs (.wheap h a b) = true) :
    exec (.wheap h a b) s = .next (State.goesOn
      (if x.tagId = s.curRegs.rv b ∧ x.tagVis = false then s
        else (s.updCmd x.cmd fun c => { c with offers := c.offers ++ [(s.curRegs.rv a, s.curRegs.rv b)] }).updWlk w fun y =>
          { y with last := c.merged + c.offers.length + 1 })
      s.curRegs.gotNone) := by
  have hrej : (x.tagId == s.curRegs.rv b && !x.tagVis) = true ↔ x.tagId = s.curRegs.rv b ∧ x.tagVis = false := by
    rw [Bool.and_eq_true, beq_iff_eq, Bool.not_eq_true']
  rw [exec_wheap, execWheap, issueI_ready_noBrk hr rfl]
  simp only [hw.w_eq, hw.wlk_eq, hw.curCmd_eq, hrej]
  split
  · rw [deliver_none rfl]
  · have hoffer := (hw.updCurCmd fun c => { c with offers := c.offers ++ [(s.curRegs.rv a, s.curRegs.rv b)] }).updWlk
      (f := fun y => { y with last := c.merged + c.offers.length + 1 }) rfl
    rw [deliver_none rfl, hoffer.curRegs_eq, ← hw.curRegs_eq, hw.updCurCmd_eq]

/-! ### WNBRS (R322) -/

theorem Regs.setVals_get (r : Regs) (d : Nat) (xs : List Word) (n : Nat) :
    (r.setVals d xs).v.get n = if d ≤ n ∧ n < d + xs.length then xs.getD (n - d) 0 else r.v.get n := by
  induction xs generalizing r d with
  | nil => rw [Regs.setVals, if_neg (by rw [List.length_nil]; omega)]
  | cons x xs ih =>
    rw [Regs.setVals, ih, Regs.setV, Store.get_set, List.length_cons]
    rcases Nat.lt_trichotomy n d with h | rfl | h
    · rw [if_neg (by omega), if_neg (by omega), if_neg (by omega)]
    · rw [if_neg (by omega), if_pos rfl, if_pos (by omega), Nat.sub_self]
      rfl
    · obtain ⟨k, rfl⟩ : ∃ k, n = d + 1 + k := ⟨n - (d + 1), by omega⟩
      rw [show d + 1 + k - d = k + 1 by omega, Nat.add_sub_cancel_left, List.getD_cons_succ]
      exact if_congr (by omega) rfl (if_neg (by omega))

@[simp] theorem Regs.setVals_p (r : Regs) (d : Nat) (xs : List Word) : (r.setVals d xs).p = r.p := by
  induction xs generalizing r d with
  | nil => rfl
  | cons x xs ih => exact ih _ _

@[simp] theorem Regs.setVals_npc (r : Regs) (d : Nat) (xs : List Word) : (r.setVals d xs).npc = r.npc := by
  induction xs generalizing r d with
  | nil => rfl
  | cons x xs ih => exact ih _ _

theorem exec_wnbrs_record {s u : State} {w : Nat} {x : Walker} {c : Cmd} {h : Hdr} {a b : Src} {m : BitVec 5} {p : Place} (hw : s.Walks w x c)
    (hr : s.runs (.wnbrs h a b m) = true) (hstk : c.nodeStack (s.curRegs.rv a).toNat = x.stack)
    (hplace : s.walkerPlace (c.nodeAddr (s.curRegs.rv a).toNat + BitVec.ofNat 64 c.cntOff) (4 + 4 * c.maxdeg) = (u, .ok p)) {s2 : State}
    (hs2 : u.demandPlace p = s2) :
    ∃ s' c', exec (.wnbrs h a b m) s = .next s' ∧ s'.mem = s2.mem ∧ s'.Walks w { x with r := (s.curRegs.setVals h.d.toNat
      (nbrVals c.maxdeg (s.curRegs.rv b).toNat m.toNat (s2.fetchPlace none p) (s2.placeBad p))).broke } c' := by
  have hw2 : s2.Walks w x c := hs2 ▸ walks_of_walkerPlace hw hplace p
  obtain ⟨c', s3, hs3, hmem3, hw3⟩ : ∃ c' s3, (if s2.placeBad p then s2.updCurCmd fun c => { c with eccUe := true } else s2) = s3 ∧
      s3.mem = s2.mem ∧ s3.Walks w x c' := by
    split
    · exact ⟨_, _, rfl, rfl, hw2.updCurCmd _⟩
    · exact ⟨_, _, rfl, rfl, hw2⟩
  rw [exec_wnbrs, execWnbrs, issueI_walker_brk hw hr rfl, hw.withCmd_eq, recordAt_of_ok hw hstk hplace, hs2]
  simp only [hs3]
  have hagent : s3.agentIn = true := by simp only [State.agentIn, hw3.cur, hw3.lt, decide_true]
  have hput : ∀ f : Regs → Regs, (s3.updRegs f).Walks w { x with r := f x.r } c' := fun f => by
    rw [State.updRegs, hw3.cur]
    exact hw3.updWlk rfl
  refine ⟨_, c', rfl, ?_, ?_⟩
  · rw [deliver_broke rfl, (hput _).goesOn_mem, State.updRegs_mem, hmem3]
  · rw [deliver_broke rfl, State.curRegs_updRegs hagent, hw3.curRegs_eq, hw.curRegs_eq]
    exact (hput _).goesOn _

end Sys2Proof.Machine
end

section
/-! PROOFS. WVISIT, WHOP, WSPAWN and WDONE, and the whole of O32. -/

namespace Sys2Proof.Machine

/-! ### WVISIT (R323) -/

/-- The visited bits after a node's bit has been set. -/
def visitedWith (l : List Nat) (n : Nat) : List Nat := if l.contains n then l else n :: l

theorem mem_visitedWith {l : List Nat} {n k : Nat} : k ∈ visitedWith l n ↔ k = n ∨ k ∈ l := by
  unfold visitedWith
  split
  · rename_i h
    exact ⟨.inr, fun hk => hk.elim (fun e => e ▸ List.contains_iff_mem.mp h) id⟩
  · exact List.mem_cons

theorem exec_wvisit_runs {s : State} {w : Nat} {x : Walker} {c : Cmd} {h : Hdr} {a : Src} (hw : s.Walks w x c)
    (hr : s.runs (.wvisit h a) = true) :
    let bit := c.visitBit x.stack (s.curRegs.rv a).toNat
    ∃ s', exec (.wvisit h a) s = .next s' ∧ s'.mem = s.mem ∧
      s'.Walks w { x with r := s.curRegs.gotP h (c.visited.contains bit) } { c with visited := visitedWith c.visited bit } := by
  intro bit
  rw [exec_wvisit, execWvisit, issueI_ready_noBrk hr rfl, hw.withCmd_eq]
  simp only [hw.w_eq, hw.wlk_eq]
  have hset := hw.updCurCmd fun z => { z with visited := visitedWith z.visited bit }
  refine ⟨_, rfl, ?_, ?_⟩
  · rw [deliver_p rfl]
    exact hset.goesOn_mem _
  · rw [deliver_p rfl, hw.curRegs_eq, ← hset.curRegs_eq]
    exact hset.goesOn _

/-! ### WHOP (R82, R324) -/

/-- The walker leaves for a stack with the registers that the mask names. -/
def Walker.hopped (x : Walker) (m : Word) (k : Nat) : Walker :=
  { x with r := { pc := x.r.npc, npc := x.r.npc, v := x.r.v.filter fun e => e.1 < 32 && m.getLsbD e.1, p := x.r.p }, phase := .hopping k }

theorem nbPage_serves (s : State) (a : As) (va : DWord) (write : Bool) : s.Serves (s.nbPage a va write).1 := by
  unfold State.nbPage
  generalize (if write then AccKind.engWrite else .engRead) = k
  dsimp only
  split
  · exact .refl s
  · have hleaf : s.Serves (if (s.markBlocked a va 1 k).isSome then (s, s.walkLeaf a va) else s.leafOf a va).1 := by
      split
      · exact .refl s
      · exact leafOf_serves s a va
    generalize (if (s.markBlocked a va 1 k).isSome then (s, s.walkLeaf a va) else s.leafOf a va) = r at hleaf
    obtain ⟨u, l⟩ := r
    cases l with
    | some l =>
      dsimp only
      split <;> exact hleaf
    | none =>
      dsimp only
      split
      · split
        · split <;> exact hleaf
        · exact hleaf
      · exact hleaf

section
variable {s : State} {w : Nat} {x : Walker} {c : Cmd} {h : Hdr} {a b : Src} (hw : s.Walks w x c) (hl : s.walkerLoads = false)
include hw hl

theorem exec_whop_node (hr : s.runs (.whop h a b true) = true) :
    exec (.whop h a b true) s = .next (s.updWlk w fun y => y.hopped (s.curRegs.rv b) (c.nodeStack (s.curRegs.rv a).toNat)) := by
  rw [exec_whop, execWhop, issueI_walker_brk hw hr rfl, hw.withCmd_eq]
  simp only [hl, Bool.false_eq_true, if_false, if_true, hopTo, hw.w_eq]
  rfl

theorem exec_whop_page (hr : s.runs (.whop h a b false) = true) {u : State} {pa : Nat}
    (hpage : s.nbPage c.as (s.curRegs.rx a) false = (u, some (pa, true))) (hpa : paIsPackage pa = true) :
    exec (.whop h a b false) s = .next (u.updWlk w fun y => y.hopped (s.curRegs.rv b) (paStack pa)) := by
  have hu : u.Walks w x c := by
    have hserves := nbPage_serves s c.as (s.curRegs.rx a) false
    rw [hpage] at hserves
    exact hserves.walks hw
  rw [exec_whop, execWhop, issueI_walker_brk hw hr rfl, hw.withCmd_eq]
  simp only [hl, Bool.false_eq_true, if_false, hpage, hpa, if_true, hopTo, hu.w_eq]
  rfl

theorem exec_whop_fault (hr : s.runs (.whop h a b false) = true) {u : State} (hpage : s.nbPage c.as (s.curRegs.rx a) false = (u, none)) :
    exec (.whop h a b false) s = .next (u.walkerFault w) := by
  have hu : u.Walks w x c := by
    have hserves := nbPage_serves s c.as (s.curRegs.rx a) false
    rw [hpage] at hserves
    exact hserves.walks hw
  rw [exec_whop, execWhop, issueI_walker_brk hw hr rfl, hw.withCmd_eq]
  simp only [hl, Bool.false_eq_true, if_false, hpage]
  exact congrArg _ (hu.raise_eq _)

end

/-! ### WSPAWN (R325) -/

/-- A fetch changes no walker and not who executes. -/
theorem fetchLine_keeps (s : State) (a : As) (core : Option Nat) (pc : DWord) :
    (s.fetchLine a core pc).1.cur = s.cur ∧ (s.fetchLine a core pc).1.walkers = s.walkers := by
  have hres := resolve_serves s a core (pcLine pc) 128 .fetch
  unfold State.fetchLine
  generalize s.resolve a core (pcLine pc) 128 .fetch = r at hres
  obtain ⟨u, v⟩ := r
  have hold : ∀ (u : State) (key : Nat) (line : List Byte), (u.holdCode core key line).cur = u.cur ∧
      (u.holdCode core key line).walkers = u.walkers := fun u key line => by
    unfold State.holdCode
    split <;> exact ⟨rfl, rfl⟩
  cases v with
  | trap i => exact ⟨hres.cur_eq, hres.walkers_eq⟩
  | wait k => exact ⟨hres.cur_eq, hres.walkers_eq⟩
  | ok p =>
    have hread := hres.trans (demandPlace_reads u p).serves
    dsimp only
    split
    · exact ⟨hres.cur_eq, hres.walkers_eq⟩
    · split
      · exact ⟨hres.cur_eq, hres.walkers_eq⟩
      · exact ⟨(hold _ _ _).1.trans hread.cur_eq, (hold _ _ _).2.trans hread.walkers_eq⟩

theorem checkTarget_keeps (s : State) (a : As) (core : Option Nat) (t : DWord) :
    (s.checkTarget a core t).1.cur = s.cur ∧ (s.checkTarget a core t).1.walkers = s.walkers := by
  have hfetch := fetchLine_keeps s a core t
  unfold State.checkTarget
  split
  · exact ⟨rfl, rfl⟩
  · generalize s.fetchLine a core t = r at hfetch
    obtain ⟨u, v⟩ := r
    cases v with
    | trap i => exact hfetch
    | wait k => exact hfetch
    | ok line =>
      dsimp only
      split <;> exact hfetch

/-- Of a mask's registers each reads as before, of the others each reads 0. -/
theorem get_filter_keys (v : Store Word) (f : Nat → Bool) (n : Nat) :
    Store.get (v.filter fun e => f e.1) n = if f n then v.get n else 0 := by
  induction v with
  | nil => split <;> rfl
  | cons e r ih =>
    obtain ⟨k, y⟩ := e
    by_cases hk : n = k
    · subst hk
      cases hf : f n <;> simp_all [Store.get]
    · cases hf : f k <;> simp_all [Store.get]

/-- The child of a walker. -/
def Walker.child (x : Walker) (h : Hdr) (m : Word) (t : DWord) : Walker :=
  { cmd := x.cmd, stack := x.stack, engine := x.engine, tagId := x.tagId, tagVis := x.tagVis,
    r := { pc := t, v := x.r.masked m, p := (x.r.setP (h.d.setWidth 4) true).p } }

theorem deliver_p_walker {s : State} {w : Nat} {x : Walker} (hcur : s.cur = .walker w) (hx : s.walkers[w]? = some x) {i : Iss}
    (hb : i.a.brk = false) (b : Bool) : deliver i (.p s b) = s.updWlk w fun y => { y with r := x.r.gotP i.h b } := by
  have hregs : s.curRegs = x.r := by simp only [State.curRegs, hcur, State.wlk_of_getElem? hx]
  rw [deliver_p hb, hregs]
  simp only [State.goesOn, hcur]

/-- A state with these walkers. -/
def State.withWalkers (s : State) (ys : List Walker) : State := { s with walkers := ys }

/-- The child that WSPAWN adds, where its command has room for one. -/
def State.spawned (s : State) (x : Walker) (h : Hdr) (m : Word) (t : DWord) : List Walker :=
  if 1024 ≤ s.liveWalkers x.cmd then [] else [x.child h m t]

theorem exec_wspawn_ok {s u : State} {w : Nat} {x : Walker} {c : Cmd} {h : Hdr} {b : Src} {off : BitVec 11} (hw : s.Walks w x c)
    (hl : s.walkerLoads = false) (hr : s.runs (.wspawn h b off) = true)
    (htgt : s.checkTarget s.curAs none (s.curRegs.target (.short off)) = (u, .ok ())) :
    exec (.wspawn h b off) s = .next (
      (u.withWalkers (s.walkers ++ s.spawned x h (s.curRegs.rv b) (s.curRegs.target (.short off)))).updWlk w fun y =>
        { y with r := s.curRegs.gotP h (!decide (1024 ≤ s.liveWalkers x.cmd)) }) := by
  have hkeeps := checkTarget_keeps s s.curAs none (s.curRegs.target (.short off))
  rw [htgt] at hkeeps
  have hcur : u.cur = .walker w := hkeeps.1.trans hw.cur
  have hwalkers : u.walkers = s.walkers := hkeeps.2
  have hwlk : u.wlk u.w = x := by
    rw [State.w, hcur]
    exact State.wlk_of_getElem? (hwalkers ▸ hw.walker)
  have hlive : u.liveWalkers x.cmd = s.liveWalkers x.cmd := by rw [State.liveWalkers, hwalkers, State.liveWalkers]
  have hin : ∀ ys, (s.walkers ++ ys)[w]? = some x := fun ys => by rw [List.getElem?_append_left hw.lt, hw.walker]
  have hdeliver : ∀ ys v, deliver ⟨aWalk, h, [.vi b], .p h.d⟩ (.p (u.withWalkers (s.walkers ++ ys)) v) =
      (u.withWalkers (s.walkers ++ ys)).updWlk w fun y => { y with r := s.curRegs.gotP h v } := fun ys v => by
    rw [hw.curRegs_eq]
    exact deliver_p_walker (s := u.withWalkers (s.walkers ++ ys)) hcur (hin ys) rfl v
  rw [exec_wspawn, execWspawn, issueI_ready_noBrk hr rfl]
  simp only [hl, Bool.false_eq_true, if_false, htgt, hwlk, hlive]
  unfold State.spawned
  by_cases hfull : 1024 ≤ s.liveWalkers x.cmd
  · have hsame : u.withWalkers (s.walkers ++ []) = u := by
      rw [List.append_nil, ← hwalkers]
      rfl
    rw [if_pos hfull, if_pos hfull, ← hdeliver, hsame, decide_eq_true hfull]
    rfl
  · rw [if_neg hfull, if_neg hfull, ← hdeliver, decide_eq_false hfull, hwalkers, Walker.child, ← hw.curRegs_eq]
    rfl

/-! ### WDONE (R326) -/

theorem exec_wdone_runs {s : State} {w : Nat} {x : Walker} {c : Cmd} {h : Hdr} (hw : s.Walks w x c) (hr : s.runs (.wdone h) = true) :
    exec (.wdone h) s = .next (s.updWlk w fun y => { y with phase := if x.last ≤ c.merged then .done else .ending }) := by
  rw [exec_wdone, execWdone, issueI_walker_brk hw hr rfl]
  simp only [hw.w_eq, hw.wlk_eq, hw.curCmd_eq]
  rfl

/-! ### The instructions -/

/-- WDIST, of a record that is lost or not: what it leaves of the walker, of its command and of memory. -/
theorem exec_wdist_result {s u : State} {w : Nat} {x : Walker} {c : Cmd} {h : Hdr} {a : Src} {q : BitVec 4} {p : Place} (hw : s.Walks w x c)
    (hr : s.runs (.wdist h a q) = true) (hstk : c.nodeStack (s.curRegs.rv a).toNat = x.stack)
    (hplace : s.walkerPlace (c.nodeAddr (s.curRegs.rv a).toNat) (8 + c.vbytes) = (u, .ok p)) {s2 : State} (hs2 : u.demandPlace p = s2)
    {bs : List Byte} (hbs : s2.fetchPlace none p = bs) {lost : Prop} [Decidable lost] (hlost : lost ↔ s2.placeBad p = true ∨ c.query = []) :
    let vis := !decide lost && visibleAt c.snapshot.toNat (leNat (bs.take 4)) (leNat ((bs.drop 4).take 4))
    let d := if lost then c.farDist else distance c.vfmt c.metric c.dim c.query (bs.drop 8)
    ∃ s', exec (.wdist h a q) s = .next s' ∧ s'.mem = s2.mem ∧
      s'.Walks w (x.afterDist h q (s.curRegs.rv a) vis d) { c with evals := c.evals + 1, eccUe := decide lost || c.eccUe } := by
  intro vis d
  have hw2 : s2.Walks w x c := hs2 ▸ walks_of_walkerPlace hw hplace p
  have hcond : (s2.placeBad p || c.query == []) = true ↔ lost := by rw [Bool.or_eq_true, beq_iff_eq, hlost]
  rw [exec_wdist_record hw hr hstk hplace hs2 hbs]
  by_cases hl : lost
  · rw [if_pos (hcond.mpr hl)]
    have hue := hw2.updCurCmd fun c => { c with eccUe := true }
    obtain ⟨hwalks, hmem⟩ := deliver_wdistEnd (i := ⟨aWalkBrk, h, [.v a], .v h.d⟩) hue rfl q (s.curRegs.rv a) false c.farDist
    refine ⟨_, rfl, hmem.trans rfl, ?_⟩
    simpa only [vis, d, hl, decide_true, Bool.not_true, Bool.false_and, Bool.true_or, if_true] using hwalks
  · rw [if_neg (mt hcond.mp hl)]
    obtain ⟨hwalks, hmem⟩ := deliver_wdistEnd (i := ⟨aWalkBrk, h, [.v a], .v h.d⟩) hw2 rfl q (s.curRegs.rv a)
      (visibleAt c.snapshot.toNat (leNat (bs.take 4)) (leNat ((bs.drop 4).take 4))) (distance c.vfmt c.metric c.dim c.query (bs.drop 8))
    refine ⟨_, rfl, hmem, ?_⟩
    simpa only [vis, d, hl, decide_false, Bool.not_false, Bool.true_and, Bool.false_or, if_false] using hwalks

/-- Settles O32, instruction by instruction: `State.Walks` carries the executing walker and its command through each read and each change. -/
theorem walkerInstructions : Obligations.WalkerInstructions := by
  unfold Obligations.WalkerInstructions
  intro s w x c h a b q m off p pa hcur hx hc r node hop
  have hw : s.Walks w x c := ⟨hcur, hx, hc⟩
  refine ⟨?dist, exec_wheap_runs hw, ?nbrs, ?visit, fun hl => ⟨exec_whop_node hw hl, fun hr => ⟨?page, ?fault⟩, ?spawn⟩,
    exec_wdone_runs hw⟩
  case dist =>
    intro hr hstk found hok s2 bs lost birth death vis dist
    obtain ⟨s', hexec, hmem, hwalks⟩ := exec_wdist_result hw hr hstk (Prod.ext rfl hok) rfl rfl (lost := lost) Iff.rfl
    have hvis : (!decide lost && visibleAt c.snapshot.toNat birth death) = vis := by
      simp only [visibleAt, vis, Bool.decide_and]
    rw [hvis] at hwalks
    have hwlk := hwalks.wlk_eq
    exact ⟨s', hexec, by rw [hwlk]; rfl, by rw [hwlk, Walker.afterDist, ← hw.curRegs_eq], by rw [hwlk]; rfl, hwalks.cmd, hmem⟩
  case nbrs =>
    intro hr hstk found hok s2 bs cnt
    obtain ⟨s', c', hexec, hmem, hwalks⟩ := exec_wnbrs_record hw hr hstk (Prod.ext rfl hok) rfl
    have hlen : (nbrVals c.maxdeg (r.rv b).toNat m.toNat bs (s2.placeBad p)).length = m.toNat + 1 := by
      rw [nbrVals, List.length_cons, List.length_map, List.length_range]
    have hwlk : (s'.wlk w).r = (r.setVals h.d.toNat (nbrVals c.maxdeg (r.rv b).toNat m.toNat bs (s2.placeBad p))).broke := by
      rw [hwalks.wlk_eq]
    have hget : ∀ n, (s'.wlk w).r.v.get n = if h.d.toNat ≤ n ∧ n < h.d.toNat + (m.toNat + 1) then
        (nbrVals c.maxdeg (r.rv b).toNat m.toNat bs (s2.placeBad p)).getD (n - h.d.toNat) 0 else r.v.get n := fun n => by
      rw [hwlk, ← hlen, ← Regs.setVals_get]
      rfl
    refine ⟨s', hexec, ?_, hmem, fun j hj => ?_, fun n hn => ?_, ?_, ?_⟩
    · rw [hget, if_pos (by omega), Nat.sub_self]
      rfl
    · rw [hget, if_pos (by omega), show h.d.toNat + 1 + j - h.d.toNat = j + 1 by omega, nbrVals, List.getD_cons_succ,
        List.getD_eq_getElem _ _ (by rwa [List.length_map, List.length_range]), List.getElem_map, List.getElem_range]
    · rw [hget, if_neg (by omega)]
    · rw [hwlk]
      exact Regs.setVals_p _ _ _
    · rw [hwlk]
      exact Regs.setVals_npc _ _ _
  case visit =>
    intro hr bit
    obtain ⟨s', hexec, hmem, hwalks⟩ := exec_wvisit_runs hw hr
    refine ⟨s', _, hexec, ?_, hwalks.cmd, rfl, fun n => mem_visitedWith, hmem⟩
    rw [hwalks.wlk_eq, ← List.elem_eq_contains, List.elem_eq_mem]
    rfl
  case page =>
    exact fun hpage => exec_whop_page hw hl hr (Prod.ext rfl hpage)
  case fault =>
    exact fun hpage => exec_whop_fault hw hl hr (Prod.ext rfl hpage)
  case spawn =>
    intro hr found hok full
    have hself : ∀ (ys : List Walker) (f : Walker → Walker), ((s.walkers ++ ys).modify w f)[w]? = some (f x) := fun ys f => by
      rw [List.getElem?_modify_eq, List.getElem?_append_left hw.lt, hx]
      rfl
    have hexec := exec_wspawn_ok hw hl hr (Prod.ext rfl hok)
    refine ⟨_, hexec, ?_, State.updWlk_mem _ _ _, fun hfull => ?_, fun hfull =>
      ⟨x.child h (r.rv b) (r.target (.short off)), ?_, ?_, rfl, rfl, rfl, rfl, rfl, rfl, rfl, ?_, fun n => ?_⟩⟩
    · rw [State.wlk_of_getElem? (hself _ _)]
    · rw [State.updWlk_walkers, List.length_modify, State.withWalkers, State.spawned, if_pos hfull, List.append_nil]
    · rw [State.updWlk_walkers, List.length_modify, State.withWalkers, State.spawned, if_neg hfull, List.length_append, List.length_singleton]
    · rw [State.updWlk_walkers, State.withWalkers, State.spawned, if_neg hfull]
      exact (List.getElem?_modify_ne _ _ (Nat.ne_of_lt hw.lt)).trans List.getElem?_concat_length
    · rw [show r = x.r from hw.curRegs_eq]
      rfl
    · rw [Walker.child, Regs.masked, get_filter_keys _ fun k => decide (k < 32) && (r.rv b).getLsbD k, ← hw.curRegs_eq]
      exact if_congr (by rw [Bool.and_eq_true, decide_eq_true_eq]) rfl rfl

end Sys2Proof.Machine
end

section
/-! SUPPORT. What leaves physical memory as it is: one equation per operation of the state. -/

namespace Sys2Proof.Machine

@[simp] theorem foldl_mem {ι : Type} {f : State → ι → State} (h : ∀ s i, (f s i).mem = s.mem) (l : List ι) (s : State) :
    (l.foldl f s).mem = s.mem := foldl_keeps State.mem f l s h

@[simp] theorem ite_mem (c : Prop) [Decidable c] (x y : State) :
    (if c then x else y).mem = if c then x.mem else y.mem := apply_ite _ _ _ _

@[simp] theorem State.freeSlotAt_mem (s : State) (core : Nat) (i : Nat) :
    (s.freeSlotAt core i).mem = s.mem := by unfold State.freeSlotAt; dsimp only; (repeat' split) <;> simp

@[simp] theorem State.dropSlots_mem (s : State) (core : Nat) (p : TrapRec → Bool) :
    (s.dropSlots core p).mem = s.mem := by
  unfold State.dropSlots
  refine (foldl_mem (fun s i => ?_) _ _).trans (State.updCore_mem ..)
  split
  · split <;> simp
  · rfl

@[simp] theorem State.dropRows_mem (s : State) (t : Nat) : (s.dropRows t).mem = s.mem := rfl

@[simp] theorem State.wakeCrew_mem (s : State) (c : Nat) : (s.wakeCrew c).mem = s.mem := by simp [State.wakeCrew]

@[simp] theorem State.orphan_mem (s : State) (t : Nat) (a : AsyncTrap) : (s.orphan t a).mem = s.mem := by simp [State.orphan]

@[simp] theorem State.exitOne_mem (s : State) (t : Nat) : (s.exitOne t).mem = s.mem := by simp [State.exitOne]

@[simp] theorem State.send_mem (s : State) (dst : BitVec 11) (m : FabMsg) : (s.send dst m).mem = s.mem := by
  simp [State.send]

@[simp] theorem State.dropReplays_mem (s : State) (cs : List Nat) :
    (s.dropReplays cs).mem = s.mem := by
  unfold State.dropReplays
  refine foldl_mem (fun s i => ?_) _ _
  split
  · simp
  · rfl

@[simp] theorem State.killTarn_mem (s : State) (core : Nat) (w : Nat) : (s.killTarn core w).mem = s.mem := rfl

@[simp] theorem State.killWg_mem (s : State) (w : Nat) : (s.killWg w).mem = s.mem := by simp [State.killWg]

@[simp] theorem State.killLaunch_mem (s : State) (l : Nat) : (s.killLaunch l).mem = s.mem := by simp [State.killLaunch]

@[simp] theorem State.leaseKill_mem (s : State) (t : Nat) (i : TrapInfo) (opc : DWord) :
    (s.leaseKill t i opc).mem = s.mem := by simp [State.leaseKill]

@[simp] theorem State.stopThread_mem (s : State) (t : Nat) (kind : Nat) (i : TrapInfo) (tpc : DWord) (opc : DWord) :
    (s.stopThread t kind i tpc opc).mem = s.mem := by simp [State.stopThread]

@[simp] theorem State.endWalkers_mem (s : State) (cmd : Nat) : (s.endWalkers cmd).mem = s.mem := rfl

@[simp] theorem State.walkerFault_mem (s : State) (w : Nat) : (s.walkerFault w).mem = s.mem := rfl

@[simp] theorem State.raise_mem (s : State) (i : TrapInfo) : (s.raise i).mem = s.mem := by unfold State.raise; split <;> simp

@[simp] theorem State.stallCur_mem (s : State) : (s.stallCur).mem = s.mem := by unfold State.stallCur; split <;> simp

@[simp] theorem State.holdCode_mem (s : State) (core : Option Nat) (key : Nat) (line : List Byte) :
    (s.holdCode core key line).mem = s.mem := by unfold State.holdCode; split <;> rfl

@[simp] theorem State.releaseBar_mem (s : State) (tile : Bool) (w : Nat) : (s.releaseBar tile w).mem = s.mem := by
  simp [State.releaseBar]

@[simp] theorem State.tryTilebar_mem (s : State) (w : Nat) : (s.tryTilebar w).mem = s.mem := by simp [State.tryTilebar]

@[simp] theorem State.tryWgbar_mem (s : State) (w : Nat) : (s.tryWgbar w).mem = s.mem := by simp [State.tryWgbar]

@[simp] theorem State.countDone_mem (s : State) (c : Nat) (cls : Nat) (seq : Nat) :
    (s.countDone c cls seq).mem = s.mem := rfl

@[simp] theorem State.cinchExit_mem (s : State) (c : Nat) :
    (s.cinchExit c).mem = s.mem := by
  unfold State.cinchExit
  split
  · rfl
  · refine foldl_mem (fun u k => ?_) _ _
    split
    · refine foldl_mem (fun u t => ?_) _ _
      split <;> simp
    · rfl

@[simp] theorem State.election_mem (s : State) (c : Nat) :
    (s.election c).mem = s.mem := by
  unfold State.election
  split
  · rfl
  · exact (State.updCrew_mem ..).trans (foldl_mem (fun _ _ => State.updThr_mem ..) _ _)

@[simp] theorem State.mismatch_mem (s : State) (c : Nat) : (s.mismatch c).mem = s.mem := by simp [State.mismatch]

@[simp] theorem State.tryRdv_mem (s : State) (c : Nat) :
    (s.tryRdv c).mem = s.mem := by
  have hgo : ((s.live c).foldl (fun s t => s.updThr t fun x => x.goOn s.cyc.toNat none) s).mem = s.mem :=
    foldl_mem (fun _ _ => State.updThr_mem ..) _ _
  unfold State.tryRdv
  dsimp only
  (repeat' split) <;> simp only [State.election_mem, State.mismatch_mem, collective_mem, hgo]

@[simp] theorem State.exitThread_mem (s : State) (t : Nat) : (s.exitThread t).mem = s.mem := by simp [State.exitThread]

@[simp] theorem State.stopCtx_mem (s : State) (p : Nat) (ctx : Nat) (preempted : Bool) (bo : Option (Nat × DWord)) :
    (s.stopCtx p ctx preempted bo).mem = s.mem := rfl

@[simp] theorem State.stopNext_mem (s : State) (kind : Nat) (i : TrapInfo) : (s.stopNext kind i).mem = s.mem := by
  simp [State.stopNext]

@[simp] theorem State.setFlags_mem (s : State) (fl : BitVec 9) : (s.setFlags fl).mem = s.mem := by
  unfold State.setFlags; split <;> rfl

@[simp] theorem State.flight_mem (s : State) (d : Nat) (vals : List Word) (poison : Option DWord) (reqs : Nat) :
    (s.flight d vals poison reqs).mem = s.mem := rfl

@[simp] theorem State.asyncTrap_mem (s : State) (t : Nat) (i : TrapInfo) (opc : DWord) :
    (s.asyncTrap t i opc).mem = s.mem := by simp [State.asyncTrap]

@[simp] theorem State.poisoned_mem (s : State) (addr : DWord) (d : Nat) : (s.poisoned addr d).mem = s.mem := by
  simp [State.poisoned]

@[simp] theorem State.noteAtom_mem (s : State) (op : AtomOp) (p : Place) : (s.noteAtom op p).mem = s.mem := by
  simp [State.noteAtom]

@[simp] theorem State.noteStash_mem (s : State) (w : Nat) (off : Nat) (op : AtomOp) :
    (s.noteStash w off op).mem = s.mem := by unfold State.noteStash; split <;> simp

@[simp] theorem State.count_mem (s : State) (c : Nat) (cls : Nat) : (s.count c cls).1.mem = s.mem := rfl

@[simp] theorem State.openStream_mem (s : State) (wg : Nat) (k : Nat) (sc : Scope) : (s.openStream wg k sc).mem = s.mem := by
  simp [State.openStream]

@[simp] theorem State.wakeOne_mem (s : State) (t : Nat) : (s.wakeOne t).mem = s.mem := by
  unfold State.wakeOne; split <;> simp

@[simp] theorem State.wake_mem (s : State) : (s.wake).mem = s.mem := by simp [State.wake]

@[simp] theorem State.setGangBits_mem (s : State) (c : Nat) (f : Crew → Crew) : (s.setGangBits c f).mem = s.mem := by
  simp [State.setGangBits]

@[simp] theorem State.setGang_mem (s : State) (c : Nat) (ms : List Nat) : (s.setGang c ms).mem = s.mem := by
  simp [State.setGang]

@[simp] theorem State.accept_mem (s : State) (i : Instr) (engine : Nat) (cls : Nat) (stream : Nat) (scope : Scope) (bo : Option DWord) (inc : Nat) (units : Nat) (args : List Nat) :
    (s.accept i engine cls stream scope bo inc units args).1.mem = s.mem := by simp [State.accept]

@[simp] theorem State.latchTrap_mem (s : State) (cs : List Nat) (i : TrapInfo) :
    (s.latchTrap cs i).mem = s.mem := by
  unfold State.latchTrap
  refine foldl_mem (fun s c => ?_) _ _
  split
  · simp
  · rfl

@[simp] theorem State.cancelJoint_mem (s : State) (n : Nat) (j : Joint) :
    (s.cancelJoint n j).mem = s.mem := by
  unfold State.cancelJoint
  exact (foldl_mem (fun _ _ => State.countDone_mem ..) _ _).trans (State.updJoint_mem ..)

@[simp] theorem State.postJoint_mem (s : State) (n : Nat) (j : Joint) :
    (s.postJoint n j).mem = s.mem := by
  unfold State.postJoint
  dsimp only
  have hgo : ∀ (u : State), (j.crews.foldl (fun s c =>
      let s := match s.atLatch c with
        | some (t, _, _) => s.updThr t fun x => x.goOn s.cyc.toNat none
        | none => s
      s.updCrew c fun x => { x with gcount := (x.gcount + 1) % 2 ^ 24 }) u).mem = u.mem := fun u =>
    foldl_mem (fun u c => by dsimp only; split <;> rfl) _ _
  split
  · split
    · exact (State.cancelJoint_mem ..).trans (hgo _)
    · exact hgo _
  · exact hgo _

@[simp] theorem State.evalLatch_mem (s : State) (c : Nat) :
    (s.evalLatch c).mem = s.mem := by
  unfold State.evalLatch
  extract_lets cs ready m0 w core vas seqs n
  split
  · rfl
  split
  · exact State.latchTrap_mem ..
  split
  · exact State.latchTrap_mem ..
  split
  · exact State.latchTrap_mem ..
  split
  · split
    · rfl
    · dsimp only
      (repeat' split) <;> simp only [State.latchTrap_mem, State.postJoint_mem]
  · exact State.latchTrap_mem ..

@[simp] theorem State.tarnRelease_mem (s : State) (core : Nat) (w : Nat) (b : Nat) :
    (s.tarnRelease core w b).mem = s.mem := rfl

@[simp] theorem State.tarnAccept_mem (s : State) : (s.tarnAccept).1.mem = s.mem := rfl

@[simp] theorem State.setTu_mem (s : State) : (s.setTu).mem = s.mem := rfl

@[simp] theorem State.issueFull_mem (s : State) : (s.issueFull).mem = s.mem := rfl

@[simp] theorem State.noSwitch_mem (s : State) : (s.noSwitch).mem = s.mem := rfl

@[simp] theorem State.acceptCmd_mem (s : State) (kind : Nat) (block : Nat) (front : Nat) (target : Nat) (m : BasMod) :
    (s.acceptCmd kind block front target m).mem = s.mem := by simp [State.acceptCmd]

@[simp] theorem State.updCurCmd_mem (s : State) (f : Cmd → Cmd) : (s.updCurCmd f).mem = s.mem := rfl

@[simp] theorem State.resumeThread_mem (s : State) (t : Nat) (pc : Option DWord) :
    (s.resumeThread t pc).mem = s.mem := by unfold State.resumeThread; split <;> rfl

@[simp] theorem State.exitCrew_mem (s : State) (c : Nat) : (s.exitCrew c).mem = s.mem := by simp [State.exitCrew]

@[simp] theorem State.killCtx_mem (s : State) (p : Nat) (ctx : Nat) : (s.killCtx p ctx).mem = s.mem := by
  simp [State.killCtx]

@[simp] theorem State.updCtx_mem (s : State) (p : Nat) (ctx : Nat) (f : CtxRun → CtxRun) :
    (s.updCtx p ctx f).mem = s.mem := rfl

@[simp] theorem State.resumeCtx_mem (s : State) (p : Nat) (ctx : Nat) : (s.resumeCtx p ctx).mem = s.mem := by
  simp [State.resumeCtx]

@[simp] theorem State.setTileBits_mem (s : State) (t : Tile) (f : Crew → Crew) : (s.setTileBits t f).mem = s.mem := by
  simp [State.setTileBits]

@[simp] theorem State.serviceOp_mem (s : State) (n : Nat) : (s.serviceOp n).mem = s.mem := rfl

@[simp] theorem State.loseLine_mem (s : State) (w : Nat) (gva : DWord) : (s.loseLine w gva).mem = s.mem := by
  unfold State.loseLine; split <;> rfl

@[simp] theorem State.winTouch_mem (s : State) (p : Nat) : (s.winTouch p).mem = s.mem := by simp [State.winTouch]

@[simp] theorem State.startInv_mem (s : State) : (s.startInv).mem = s.mem := rfl

@[simp] theorem State.wTqCfg_mem (s : State) (p : Nat) (x : DWord) : (s.wTqCfg p x).mem = s.mem := rfl

@[simp] theorem State.wTwin_mem (s : State) (p : Nat) (x : DWord) : (s.wTwin p x).mem = s.mem := rfl

@[simp] theorem State.wNumcfg_mem (s : State) (p : Nat) (x : DWord) : (s.wNumcfg p x).mem = s.mem := rfl

@[simp] theorem State.wXlock_mem (s : State) (p : Nat) (x : DWord) : (s.wXlock p x).mem = s.mem := rfl

@[simp] theorem State.wLqBase_mem (s : State) (p : Nat) (i : Nat) (x : DWord) : (s.wLqBase p i x).mem = s.mem := by
  simp [State.wLqBase]

@[simp] theorem State.wLqCfg_mem (s : State) (p : Nat) (i : Nat) (x : DWord) : (s.wLqCfg p i x).mem = s.mem := rfl

@[simp] theorem State.wSchedXlock_mem (s : State) (p : Nat) (x : DWord) : (s.wSchedXlock p x).mem = s.mem := rfl

@[simp] theorem State.wRoot_mem (s : State) (p : Nat) (c : Option Nat) (x : DWord) :
    (s.wRoot p c x).mem = s.mem := by unfold State.wRoot; split <;> rfl

@[simp] theorem State.wMemCfg_mem (s : State) (p : Nat) (x : DWord) : (s.wMemCfg p x).mem = s.mem := rfl

@[simp] theorem State.wPhcAdj_mem (s : State) (x : DWord) : (s.wPhcAdj x).mem = s.mem := rfl

@[simp] theorem State.wSpsCfg_mem (s : State) (p : Nat) (i : Nat) (x : DWord) : (s.wSpsCfg p i x).mem = s.mem := by
  simp [State.wSpsCfg]

@[simp] theorem State.wWindow_mem (s : State) (p : Nat) (reg : Nat) (idx : Nat) (x : DWord) :
    (s.wWindow p reg idx x).mem = s.mem := by unfold State.wWindow; (repeat' split) <;> simp

@[simp] theorem State.wAper_mem (s : State) (p : Nat) (i : Nat) (f : Aper → Aper) : (s.wAper p i f).mem = s.mem := rfl

@[simp] theorem State.wStream_mem (s : State) (p : Nat) (i : Nat) (f : SpStream → SpStream) :
    (s.wStream p i f).mem = s.mem := by
  simp [State.wStream]

@[simp] theorem State.wPlain_mem (s : State) (p : Nat) (reg : Nat) (idx : Nat) (x : DWord) :
    (s.wPlain p reg idx x).mem = s.mem := by unfold State.wPlain; split <;> simp

@[simp] theorem State.dropTlb_mem (s : State) (p : Nat) (c : Nat) (mode : TlbMode) (lo : Nat) (n : Nat) :
    (s.dropTlb p c mode lo n).mem = s.mem := rfl

@[simp] theorem State.orphanRec_mem (s : State) (p : Nat) (ctx : Nat) (sup : Bool) (i : TrapInfo) :
    (s.orphanRec p ctx sup i).mem = s.mem := by simp [State.orphanRec]

@[simp] theorem State.returnPasses_mem (s : State) (p : Nat) (ctx : Nat) :
    (s.returnPasses p ctx).mem = s.mem := by
  unfold State.returnPasses
  refine foldl_mem (fun s i => ?_) _ _
  split
  · rfl
  · split
    · rfl
    · dsimp only; split <;> rfl

@[simp] theorem State.retryLeases_mem (s : State) (p : Nat) : (s.retryLeases p).mem = s.mem := rfl

@[simp] theorem State.abortTicket_mem (s : State) (t : Ticket) (acc : Nat) : (s.abortTicket t acc).mem = s.mem := by
  simp [State.abortTicket]

@[simp] theorem State.answerTicket_mem (s : State) (t : Ticket) (abort : Bool) : (s.answerTicket t abort).mem = s.mem := by
  simp [State.answerTicket]

@[simp] theorem State.haltPart_mem (s : State) (p : Nat) (code : BitVec 8) : (s.haltPart p code).mem = s.mem := by
  simp [State.haltPart]

@[simp] theorem State.reformQuad_mem (s : State) (core : Nat) (quad : Nat) : (s.reformQuad core quad).mem = s.mem := rfl

@[simp] theorem State.takeAsync_mem (s : State) (t : Nat) : (s.takeAsync t).mem = s.mem := by
  unfold State.takeAsync; split <;> simp

@[simp] theorem State.launchRec_mem (s : State) (l : Nat) (i : TrapInfo) : (s.launchRec l i).mem = s.mem := by
  simp [State.launchRec]

@[simp] theorem State.leaseAsk_mem (s : State) (l : Nat) (i : Nat) (e : Nat × Nat) : (s.leaseAsk l i e).mem = s.mem := by
  simp [State.leaseAsk]

@[simp] theorem State.carveAsk_mem (s : State) (l : Nat) : (s.carveAsk l).mem = s.mem := by simp [State.carveAsk]

@[simp] theorem State.carveTidy_mem (s : State) (l : Nat) (core : Nat) : (s.carveTidy l core).mem = s.mem := by
  simp [State.carveTidy]

@[simp] theorem State.start_mem (s : State) (w : Nat) : (s.start w).mem = s.mem := rfl

@[simp] theorem State.activate_mem (s : State) (w : Nat) :
    (s.activate w).mem = s.mem := by
  unfold State.activate
  refine (foldl_mem (fun _ _ => State.updThr_mem ..) _ _).trans ((State.updWg_mem ..).trans ?_)
  split
  · rfl
  · exact State.start_mem ..

@[simp] theorem State.parkWg_mem (s : State) (w : Nat) : (s.parkWg w).mem = s.mem := rfl

@[simp] theorem State.parkEligible_mem (s : State) (core : Nat) :
    (s.parkEligible core).mem = s.mem := by unfold State.parkEligible; (repeat' split) <;> simp

@[simp] theorem State.stopOnly_mem (s : State) (core : Nat) (victim : Option Nat) :
    (s.stopOnly core victim).mem = s.mem := by
  simp [State.stopOnly]

@[simp] theorem State.setCarve_mem (s : State) (l : Launch) (core : Nat) : (s.setCarve l core).mem = s.mem := rfl

@[simp] theorem State.freeTarn_mem (s : State) (core : Nat) (w : Nat) : (s.freeTarn core w).mem = s.mem := rfl

@[simp] theorem State.freeWg_mem (s : State) (w : Nat) : (s.freeWg w).mem = s.mem := by simp [State.freeWg]

@[simp] theorem State.opHold_mem (s : State) (n : Nat) (o : EngOp) (k : Nat) (i : TrapInfo) :
    (s.opHold n o k i).mem = s.mem := by
  simp [State.opHold]

@[simp] theorem State.cmdReject_mem (s : State) (n : Nat) (st : Nat) : (s.cmdReject n st).mem = s.mem := rfl

@[simp] theorem State.startEntry_mem (s : State) (n : Nat) (c : Cmd) (i : Nat) (node : Nat) :
    (s.startEntry n c i node).mem = s.mem := rfl

theorem State.mem_of_takeSlice {s s' : State} {cmd stack : Nat} (h : s.takeSlice cmd stack = some s') : s'.mem = s.mem := by
  unfold State.takeSlice at h
  split at h
  · split at h
    · cases h; rfl
    · split at h
      · cases h; rfl
      · cases h
  · cases h

@[simp] theorem State.walkerRun_mem (s : State) (w : Nat) :
    (s.walkerRun w).mem = s.mem := by
  unfold State.walkerRun
  dsimp only
  split
  · split
    · rename_i hu
      exact (State.updWlk_mem ..).trans (State.mem_of_takeSlice hu)
    · rfl
  · rfl

@[simp] theorem State.offersReached_mem (s : State) (cmd : Nat) (merged : Nat) :
    (s.offersReached cmd merged).mem = s.mem := rfl

theorem State.mem_of_heard {s s' : State} {src : BitVec 11} {m : FabMsg} (h : s.heard src m = some s') : s'.mem = s.mem := by
  unfold State.heard at h
  split at h
  · cases h; rfl
  · split at h <;> cases h
    rfl

@[simp] theorem State.ingress_mem (s : State) (old : List FabMsg) (m : FabMsg) : (s.ingress old m).mem = s.mem := rfl

@[simp] theorem State.refuse_mem (s : State) (p : RPacket) : (s.refuse p).mem = s.mem := by
  unfold State.refuse; split <;> simp

@[simp] theorem State.newTicket_mem (s : State) (q : Nat) (src : BitVec 11) (acc : Nat) (va : DWord) (cause : Option Nat) (write : Bool) (mig : Option Nat) :
    (s.newTicket q src acc va cause write mig).1.mem = s.mem := by unfold State.newTicket; split <;> rfl

@[simp] theorem State.dropTicket_mem (s : State) (src : BitVec 11) (id : BitVec 16) :
    (s.dropTicket src id).mem = s.mem := rfl

@[simp] theorem State.replayDone_mem (s : State) (p : RPacket) : (s.replayDone p).mem = s.mem := by
  unfold State.replayDone; split <;> rfl

@[simp] theorem State.ticketAccess_mem (s : State) (p : RPacket) (cause : Option Nat) (mig : Option Nat) :
    (s.ticketAccess p cause mig).mem = s.mem := by simp [State.ticketAccess]

@[simp] theorem State.ticketLater_mem (s : State) (m : FabMsg) : (s.ticketLater m).mem = s.mem := by simp [State.ticketLater]

@[simp] theorem State.heldOn_mem (s : State) (i : Nat) (a : RAccess) (vals : List Word) :
    (s.heldOn i a vals).mem = s.mem := by
  simp [State.heldOn]

@[simp] theorem State.accepted_mem (s : State) (i : Nat) : (s.accepted i).mem = s.mem := rfl

@[simp] theorem State.contribBack_mem (s : State) (k : Contribution) : (s.contribBack k).mem = s.mem := by
  unfold State.contribBack; split <;> rfl

@[simp] theorem State.ticketRound_mem (s : State) (r : Round) (va : DWord) (cause : Option Nat) (mig : Option Nat) :
    (s.ticketRound r va cause mig).mem = s.mem := by simp [State.ticketRound]

@[simp] theorem State.dropTarn_mem (s : State) (core : Nat) (w : Nat) : (s.dropTarn core w).mem = s.mem := rfl

@[simp] theorem State.carveDrop_mem (s : State) (l : Nat) :
    (s.carveDrop l).mem = s.mem := by
  unfold State.carveDrop
  exact foldl_mem (fun _ _ => State.updCore_mem ..) _ _

@[simp] theorem State.ctxFree_mem (s : State) (p : Nat) (ctx : Nat) :
    (s.ctxFree p ctx).mem = s.mem := by
  have hlast : ∀ (ls : List Nat) (u : State), (ls.foldl (fun s l => (s.carveDrop l).updLaunch l fun x => { x with state := 6 }) u).mem = u.mem :=
    fun ls u => foldl_mem (fun s l => (State.updLaunch_mem ..).trans (State.carveDrop_mem ..)) ls u
  have hun : ∀ (ls : List Nat) (u : State), (ls.foldl (fun s l =>
      (s.unstartedWgs l).foldl (fun s w => s.updWg w fun g => { g with stage := .saved }) s) u).mem = u.mem :=
    fun ls u => foldl_mem (fun s l => foldl_mem (fun _ _ => State.updWg_mem ..) _ _) ls u
  have hslots : ∀ (ls : List Nat) (f : TrapRec → Bool) (u : State), (ls.foldl (fun s core => s.dropSlots core f) u).mem = u.mem :=
    fun ls f u => foldl_mem (fun s l => State.dropSlots_mem ..) ls u
  have htarn : ∀ (ls : List Nat) (u : State), (ls.foldl (fun s w => s.dropTarn (s.wg w).core w) u).mem = u.mem :=
    fun ls u => foldl_mem (fun s l => State.dropTarn_mem ..) ls u
  have hwg : ∀ (ls : List Nat) (f : Wg → Wg) (u : State), (ls.foldl (fun s w => s.updWg w f) u).mem = u.mem :=
    fun ls f u => foldl_mem (fun s l => State.updWg_mem ..) ls u
  unfold State.ctxFree
  extract_lets ws inWs ls s1 s2 s3 s4 s5
  calc _ = s5.mem := hlast ..
    _ = s4.mem := hwg ..
    _ = s3.mem := hun ..
    _ = s2.mem := rfl
    _ = s1.mem := hslots ..
    _ = s.mem := htarn ..

@[simp] theorem State.restoreLaunch_mem (s : State) (p : Nat) (ctx : Nat) (e : LaunchEnt) :
    (s.restoreLaunch p ctx e).1.mem = s.mem := by unfold State.restoreLaunch; split <;> rfl

@[simp] theorem State.restoreExited_mem (s : State) (l : Nat) (todo : List Nat) : (s.restoreExited l todo).mem = s.mem := rfl

@[simp] theorem State.restoreOrigin_mem (s : State) (l : Nat) :
    (s.restoreOrigin l).mem = s.mem := by unfold State.restoreOrigin; (repeat' split) <;> simp

@[simp] theorem State.restoreSlot_mem (s : State) (l : Nat) (x : Nat) (y : Nat) (z : Nat) (nc : Nat) :
    (s.restoreSlot l x y z nc).1.mem = s.mem := by unfold State.restoreSlot; split <;> rfl

@[simp] theorem State.restoreRec_mem (s : State) (bs : List Byte) (r : Nat) (w : Nat) :
    (s.restoreRec bs r w).mem = s.mem := by unfold State.restoreRec; dsimp only; (repeat' split) <;> simp

@[simp] theorem State.restoreRecord_mem (s : State) (t : Nat) (n : Nat) :
    (s.restoreRecord t n).mem = s.mem := by unfold State.restoreRecord; split <;> simp

@[simp] theorem State.unsave_mem (s : State) (w : Nat) : (s.unsave w).mem = s.mem := rfl

@[simp] theorem State.setHk_mem (s : State) (f : Hk → Hk) : (s.setHk f).mem = s.mem := by simp [State.setHk]

@[simp] theorem State.endSwitch_mem (s : State) (i : Nat) (m : Migration) (b : Bool) :
    (s.endSwitch i m b).mem = s.mem := by unfold State.endSwitch; split <;> simp

@[simp] theorem State.hkRefuse_mem (s : State) (st : Nat) : (s.hkRefuse st).1.mem = s.mem := by simp [State.hkRefuse]

@[simp] theorem State.claimBy_mem (s : State) (cl : Nat) :
    (s.claimBy cl).1.mem = s.mem := by unfold State.claimBy; dsimp only; (repeat' split) <;> simp

@[simp] theorem State.setPartition_mem (s : State) (p : Nat) (px : Nat) (py : Nat) (pa : Nat) (pb : Nat) (en : Bool) :
    (s.setPartition p px py pa pb en).1.mem = s.mem := by unfold State.setPartition; dsimp only; (repeat' split) <;> simp

@[simp] theorem State.setSlots_mem (s : State) (stack : Nat) (chan : Nat) (bytes : List Byte) :
    (s.setSlots stack chan bytes).1.mem = s.mem := by unfold State.setSlots; dsimp only; (repeat' split) <;> simp

@[simp] theorem State.setStream_mem (s : State) (port : Nat) (stream : Nat) (part : Nat) :
    (s.setStream port stream part).1.mem = s.mem := by unfold State.setStream; dsimp only; (repeat' split) <;> simp

@[simp] theorem State.imageActivate_mem (s : State) : (s.imageActivate).1.mem = s.mem := by
  unfold State.imageActivate; split <;> simp

@[simp] theorem State.resetPart_mem (s : State) (p : Nat) :
    (s.resetPart p).mem = s.mem := by
  have hset : ∀ (u : State) (ops joints racc cmds walkers links), State.mem
      { u with ops := ops, joints := joints, racc := racc, cmds := cmds, walkers := walkers, links := links } = u.mem :=
    fun _ _ _ _ _ _ _ => rfl
  have hslots : ∀ (cs : List Nat) (f : TrapRec → Bool) (u : State), (cs.foldl (fun s core => s.dropSlots core f) u).mem = u.mem :=
    fun cs f u => foldl_mem (fun _ _ => State.dropSlots_mem ..) cs u
  have hkill : ∀ (ls : List Nat) (f : Launch → Launch) (u : State),
      (ls.foldl (fun s l => (s.killLaunch l).updLaunch l f) u).mem = u.mem :=
    fun ls f u => foldl_mem (fun _ _ => (State.updLaunch_mem ..).trans (State.killLaunch_mem ..)) ls u
  unfold State.resetPart
  exact (State.updPart_mem ..).trans ((hset ..).trans ((hslots ..).trans (hkill ..)))

@[simp] theorem State.answer_mem (s : State) (claimant : Nat) (opcode : BitVec 16) (tag : BitVec 32) (status : Nat) (body : List Byte) :
    (s.answer claimant opcode tag status body).mem = s.mem := rfl

@[simp] theorem State.setMsixEntry_mem (s : State) (vec : Nat) (e : MsixEntry) : (s.setMsixEntry vec e).mem = s.mem := by
  simp [State.setMsixEntry]

@[simp] theorem State.setMsixControl_mem (s : State) (on : Bool) (mask : Bool) :
    (s.setMsixControl on mask).mem = s.mem := rfl

@[simp] theorem State.answerHost_mem (s : State) (r : HostRsp) : (s.answerHost r).mem = s.mem := rfl

@[simp] theorem State.lateGone_mem (s : State) (acc : Nat) : (s.lateGone acc).mem = s.mem := rfl

@[simp] theorem State.countPort_mem (s : State) (port : Nat) (f : Port → Port) : (s.countPort port f).mem = s.mem := rfl

@[simp] theorem State.spdm_mem (s : State) (claimant : Nat) (kind : Nat) : (s.spdm claimant kind).mem = s.mem := by
  simp [State.spdm]

@[simp] theorem State.endPass_mem (s : State) :
    (s.endPass).mem = s.mem := by
  unfold State.endPass
  exact foldl_mem (fun _ _ => State.updStk_mem ..) _ _

@[simp] theorem State.patrolOn_mem (s : State) : (s.patrolOn).mem = s.mem := by simp [State.patrolOn]

@[simp] theorem State.stamp_mem (s : State) : (s.stamp).mem = s.mem := by unfold State.stamp; split <;> rfl

@[simp] theorem State.noteBlocked_mem (s : State) : (s.noteBlocked).mem = s.mem := by simp [State.noteBlocked]

@[simp] theorem State.pruneBundles_mem (s : State) : (s.pruneBundles).mem = s.mem := rfl

@[simp] theorem State.clock_mem (s : State) : (s.clock).mem = s.mem := rfl

end Sys2Proof.Machine
end

section
/-! SUPPORT. Memory in its canonical form (log 1), and the operations that write it. -/

namespace Sys2Proof.Machine

/-- Memory is in its canonical form (log 1). -/
abbrev State.Canon (s : State) : Prop := Memory.wf s.mem = true

/-- The next state, where there is one, has memory in its canonical form. -/
def Keeps (o : Host.Outcome State Fault Refusal) : Prop := ∀ s', o = .next s' → s'.Canon

/-- The state that an instruction's own part leaves. -/
def Res.state : Res → State
  | .v s _ => s
  | .x s _ => s
  | .p s _ => s
  | .none s => s
  | .jump s _ => s
  | .stay s => s
  | .stall s => s
  | .trap s _ => s
  | .wait s _ => s

/-- The state that a piece of an operation leaves. -/
def Run.state {α : Type} : Run α → State
  | .ok s _ => s
  | .hold s _ => s
  | .busy s => s
  | .fail s _ => s

theorem State.Canon.of_mem_eq {s s' : State} (h : s.Canon) (e : s'.mem = s.mem) : s'.Canon := by
  rw [State.Canon, e]; exact h

theorem foldl_canon {ι : Type} {f : State → ι → State} (hf : ∀ s i, s.Canon → (f s i).Canon) (l : List ι) {s : State} (h : s.Canon) :
    (l.foldl f s).Canon := foldl_memwf f hf l h

@[simp] theorem Run.stop_state {α : Type} (s : State) (i : TrapInfo) : (Run.stop s i : Run α).state = s := by
  unfold Run.stop; split <;> rfl

theorem Run.bind_canon {α β : Type} {r : Run α} {f : State → α → Run β} (h : r.state.Canon)
    (hf : ∀ s a, s.Canon → (f s a).state.Canon) : (r.bind f).state.Canon := by
  cases r with
  | ok s a => exact hf s a h
  | hold s i => exact h
  | busy s => exact h
  | fail s i => exact h

theorem elemRun_canon {α : Type} {r : Run α} (i : Nat) (h : r.state.Canon) : (elemRun i r).state.Canon := by
  unfold elemRun; (repeat' split) <;> exact h

theorem listRun_canon {α : Type} {r : Run α} (i : Nat) (h : r.state.Canon) : (listRun i r).state.Canon := by
  unfold listRun; split <;> exact h

/-! ### The decoder keeps what its reader keeps -/

section
variable {σ : Type} {P : σ → Prop} {rd : Reader σ} (hrd : ∀ s off, P s → P (rd s off).1)
include hrd

theorem rdLe_keeps (n : Nat) {s : σ} (h : P s) (off : Nat) : P (rdLe rd s off n).1 := by
  induction n generalizing s off with
  | zero => exact h
  | succ n ih => unfold rdLe; have h1 := hrd s off h; (repeat' split) <;> simp_all

theorem renorm_keeps (plen fuel : Nat) {s : σ} (h : P s) (x ptr : Nat) : P (renorm rd plen fuel s x ptr).1 := by
  induction fuel generalizing s x ptr with
  | zero => exact h
  | succ n ih => unfold renorm; have h1 := rdLe_keeps hrd 2 h ptr; (repeat' split) <;> simp_all

theorem decSyms_keeps (freq : List Nat) (plen n : Nat) {s : σ} (h : P s) (i : Nat) (xs : List Nat) (ptr : Nat) (out : List Nat) :
    P (decSyms rd freq plen n s i xs ptr out).1 := by
  induction n generalizing s i xs ptr out with
  | zero => exact h
  | succ n ih => 
    unfold decSyms
    extract_lets j x
    split
    · exact h
    · rename_i y f cum hf
      have h1 := renorm_keeps hrd plen (plen / 2 + 2) h (f * (x / 4096) + x % 4096 - cum) ptr
      split <;> rename_i e <;> rw [e] at h1
      · exact ih h1 _ _ _ _
      all_goals exact h1

theorem initStates_keeps (n : Nat) {s : σ} (h : P s) (m : Nat) : P (initStates rd s m n).1 := by
  induction n generalizing s m with
  | zero => exact h
  | succ n ih => unfold initStates; have h1 := rdLe_keeps hrd 4 h m; split <;> simp_all

theorem decInterval_keeps (freq : List Nat) (e : CodedEntry) (v : Nat) {s : σ} (h : P s) (mark : Dec Nat) :
    P (decInterval rd freq e v s mark).1 := by
  unfold decInterval
  split
  · exact h
  · exact h
  · exact h
  · rename_i m
    split
    · exact h
    · have h1 := initStates_keeps hrd 8 h m
      split <;> rename_i e1 <;> rw [e1] at h1
      · exact h1
      · exact h1
      · exact h1
      · exact decSyms_keeps hrd _ _ _ h1 _ _ _ _

end

theorem State.fetchLine_canon {s : State} (h : s.Canon) (a : As) (core : Option Nat) (pc : DWord) :
    (s.fetchLine a core pc).1.Canon := by
  unfold State.fetchLine
  grind [!resolve_memwf, !demandPlace_memwf, State.holdCode_mem]

theorem State.checkTarget_canon {s : State} (h : s.Canon) (a : As) (core : Option Nat) (t : DWord) :
    (s.checkTarget a core t).1.Canon := by
  unfold State.checkTarget
  grind [!State.fetchLine_canon]

theorem State.writeQ_canon {s : State} (h : s.Canon) (pa : Nat) (x : Nat) : (s.writeQ pa x).Canon := by
  unfold State.writeQ
  grind [!perform_memwf]

theorem State.reserve_canon {s : State} (h : s.Canon) (q : LaunchQ) (bs : List Byte) : (s.reserve q bs).Canon := by
  unfold State.reserve
  grind [!perform_memwf, !State.writeQ_canon]

theorem State.publish_canon {s : State} (h : s.Canon) (base : Nat) : (s.publish base).Canon := by
  unfold State.publish
  grind [noteAdvance_mem, !State.writeQ_canon]

theorem State.walkerPlace_canon {s : State} (h : s.Canon) (va : DWord) (n : Nat) : (s.walkerPlace va n).1.Canon := by
  unfold State.walkerPlace
  grind [!resolve_memwf]

theorem State.loadAt_canon {s : State} (h : s.Canon) (va : DWord) (d : Nat) (w : Width) (p : Place) :
    (s.loadAt va d w p).Canon := by
  unfold State.loadAt
  grind [!demandPlace_memwf, State.flight_mem]

theorem State.putLine_canon {s : State} (h : s.Canon) (w : Nat) (line : Nat) (bs : List Byte) (ls : LineSt) :
    (s.putLine w line bs ls).Canon := by
  unfold State.putLine
  grind [State.updWg_mem]

theorem State.fillLine_canon {s : State} (h : s.Canon) (w : Nat) (line : Nat) : (s.fillLine w line).1.Canon := by
  unfold State.fillLine
  grind [!resolve_memwf, !State.putLine_canon, !wbRequest_memwf, !flushWhere_memwf, !takeLine_memwf, !demand_memwf]

theorem State.fillLines_canon (ls : List Nat) {s : State} (h : s.Canon) (w : Nat) :
    (s.fillLines w ls).1.Canon := by
  induction ls generalizing s with
  | nil => exact h
  | cons l r ih => unfold State.fillLines; grind [!State.fillLine_canon]

theorem State.stashCheck_canon {s : State} (h : s.Canon) (w : Nat) (off : Nat) (n : Nat) (write : Bool) :
    (s.stashCheck w off n write).1.Canon := by
  unfold State.stashCheck
  grind [!State.fillLines_canon]

theorem State.stashPut_canon {s : State} (h : s.Canon) (w : Nat) (off : Nat) (bs : List Byte) :
    (s.stashPut w off bs).Canon := by
  unfold State.stashPut
  grind [State.updWg_mem]

theorem State.cleanLines_canon (ls : List Nat) {s : State} (h : s.Canon) (w : Nat) :
    (s.cleanLines w ls).1.Canon := by
  induction ls generalizing s with
  | nil => exact h
  | cons l r ih => unfold State.cleanLines; grind [!cleanLine_memwf, !wbRequest_memwf, !demandWb_memwf]

theorem State.dropEntry_canon {s : State} (h : s.Canon) (w : Nat) (i : Nat) (e : MapEnt) : (s.dropEntry w i e).Canon := by
  unfold State.dropEntry
  grind [State.updWg_mem]

theorem State.atomRead_canon {s : State} (h : s.Canon) (p : Place) : (s.atomRead p).1.Canon := by
  unfold State.atomRead
  grind [!demandPlace_memwf, !settlePlace_memwf]

theorem State.waitRead_canon {s : State} (h : s.Canon) (a : As) (core : Nat) (ea : DWord) :
    (s.waitRead a core ea).1.Canon := by
  unfold State.waitRead
  grind [!check_memwf, !demandPlace_memwf]

theorem State.resolveAll_canon (ls : List (DWord × Nat)) {s : State} (h : s.Canon) (a : As) (view : Option Nat) (k : AccKind) :
    (s.resolveAll a view k ls).1.Canon := by
  induction ls generalizing s with
  | nil => exact h
  | cons l r ih => unfold State.resolveAll; grind [!resolve_memwf]

theorem State.resolveRange_canon {s : State} (h : s.Canon) (a : As) (view : Option Nat) (va : DWord) (n : Nat) (k : AccKind) :
    (s.resolveRange a view va n k).1.Canon := by
  unfold State.resolveRange
  grind [!State.resolveAll_canon]

theorem State.demandAll_canon {s : State} (h : s.Canon) (ps : List Place) : (s.demandAll ps).Canon := by
  unfold State.demandAll
  split
  · exact h
  · exact foldl_canon (fun _ _ hs => demandPlace_memwf _ hs) _ h

theorem State.fetchList_canon {s : State} (h : s.Canon) (a : RAccess) (k : Contribution) : (s.fetchList a k).1.Canon := by
  unfold State.fetchList
  grind [!State.resolveRange_canon, !State.demandAll_canon]

theorem State.sendAcc_canon {s : State} (h : s.Canon) (i : Nat) : (s.sendAcc i).Canon := by
  unfold State.sendAcc
  grind [State.updAcc_mem, State.send_mem, !State.fetchList_canon, State.wake_mem, State.asyncTrap_mem, State.countDone_mem]

theorem State.enterAcc_canon {s : State} (h : s.Canon) (a : RAccess) : (s.enterAcc a).Canon := by
  unfold State.enterAcc
  grind [State.openStream_mem, !State.sendAcc_canon]

theorem State.engPages_canon (ls : List (Bool × DWord × Nat × Bool)) {s : State} (h : s.Canon) :
    (s.engPages ls).1.Canon := by
  induction ls generalizing s with
  | nil => exact h
  | cons l r ih => unfold State.engPages; grind [!State.resolveRange_canon]

theorem State.engBo_canon {s : State} (h : s.Canon) (bo : Option DWord) : (s.engBo bo).1.Canon := by
  unfold State.engBo
  grind [!resolve_memwf]

theorem State.engRead_canon {s : State} (h : s.Canon) (a : As) (core w : Nat) (stash : Bool) (va : DWord) (n : Nat) :
    (s.engRead a core w stash va n).state.Canon := by
  unfold State.engRead
  grind [!State.fillLines_canon, !State.resolveRange_canon, !State.demandAll_canon, Run.stop_state, Run.state]

theorem State.engPost_canon {s : State} (h : s.Canon) (core : Nat) (wv : Bool) (ws : List (Nat × Byte)) :
    (s.engPost core wv ws).Canon := by
  refine foldl_canon (fun u r hu => ?_) _ h
  split
  · exact post_memwf _ _ _ _ hu
  · exact perform_memwf _ _ _ (flushCore_memwf _ hu)

theorem State.engWrite_canon {s : State} (h : s.Canon) (a : As) (core w : Nat) (stash : Bool) (va : DWord) (bs : List Byte) (bad all : Bool) :
    (s.engWrite a core w stash va bs bad all).state.Canon := by
  have hput : ∀ (l : List (Nat × List Byte)) {u : State}, u.Canon → (l.foldl (fun s r => s.stashPut w (va.toNat + r.1) r.2) u).Canon :=
    fun l u hu => foldl_canon (fun _ _ hs => State.stashPut_canon hs ..) l hu
  have hperf : ∀ (l : List (Nat × List Byte)) (wv : Bool) {u : State}, u.Canon → (l.foldl (fun s r => s.perform r.1 r.2 wv) u).Canon :=
    fun l wv u hu => foldl_canon (fun _ _ hs => perform_memwf _ _ _ hs) l hu
  unfold State.engWrite
  dsimp only
  split
  · have hf := State.fillLines_canon (stashLines va.toNat bs.length) h w
    split <;> rename_i heq <;> rw [heq] at hf
    · rw [Run.stop_state]; exact hf
    · exact hf
    · exact hput _ hf
  · have hr := State.resolveRange_canon h a (some core) va bs.length .engWrite
    split <;> rename_i heq <;> rw [heq] at hr
    · rw [Run.stop_state]; exact hr
    · exact hr
    · split
      · exact wbRequest_memwf _ _ hr
      · split
        · exact hperf _ _ (flushWhere_memwf _ hr)
        · exact State.engPost_canon hr _ _ _

theorem State.tileRow_canon {s : State} (h : s.Canon) (a : As) (core w : Nat) (p : EngPar) (i off n : Nat) :
    (s.tileRow a core w p i off n).state.Canon := by
  unfold State.tileRow
  dsimp only
  split
  · exact h
  · exact Run.bind_canon (State.engRead_canon h ..) fun _ _ hu => hu

theorem State.mcastPut_canon {s : State} (h : s.Canon) (w off : Nat) (bs : List Byte) (all : Bool) :
    (s.mcastPut w off bs all).Canon := by
  refine foldl_canon (fun u m hu => ?_) _ h
  exact foldl_canon (fun _ _ hv => State.stashPut_canon hv ..) _ hu

theorem payloadRd_canon {s : State} (h : s.Canon) (a : As) (core : Nat) (base : DWord) (off : Nat) :
    (payloadRd a core base s off).1.Canon := by
  unfold payloadRd
  grind [!resolve_memwf, !demandPlace_memwf]

theorem State.engWriteAll_canon (fuel : Nat) {s : State} (h : s.Canon) (a : As) (core w : Nat) (stash all : Bool) (va : DWord) (bs : List Byte) :
    (s.engWriteAll a core w stash all va fuel bs).state.Canon := by
  induction fuel generalizing s va bs with
  | zero => exact h
  | succ n ih =>
    unfold State.engWriteAll
    split
    · exact h
    · dsimp only
      split
      · exact h
      · refine Run.bind_canon (State.engWrite_canon h ..) fun u _ hu => ih ?_ _ _
        split
        · exact hu
        · exact hu

theorem State.payloadStop_canon {s : State} (h : s.Canon) (a : As) (core : Nat) (va : DWord) :
    (s.payloadStop a core va).state.Canon := by
  unfold State.payloadStop
  grind [!resolve_memwf, Run.stop_state, Run.state]

theorem State.cdecPiece_canon {s : State} (h : s.Canon) (o : EngOp) (v : Nat) (crc : Word) (all : Bool) :
    (s.cdecPiece o v crc all).state.Canon := by
  unfold State.cdecPiece
  extract_lets p e w a base slot rd mark at_
  have hrd : ∀ (u : State) off, u.Canon → (rd u off).1.Canon := fun u off hu => payloadRd_canon hu a o.icore base off
  have hdec := decInterval_keeps hrd (if slot.full then slot.freq else []) e v (rdLe_keeps hrd 4 h (e.markAt v)) mark.2
  split
  rename_i u out fin heq
  rw [heq] at hdec
  extract_lets put
  have hput : ((put u).bind fun s () => Run.ok s crc).state.Canon :=
    Run.bind_canon (State.engWriteAll_canon _ hdec ..) fun _ _ hu => hu
  split
  · exact hput
  · split
    · exact hdec
    · exact hdec
    · grind [!State.payloadStop_canon, Run.state]
    · split
      · exact hdec
      · exact Run.bind_canon (State.engWriteAll_canon _ hdec ..) fun _ _ hu => hu

theorem State.elemPiece_canon {s : State} (h : s.Canon) (o : EngOp) (scatter : Bool) (i : Nat) (all : Bool) :
    (s.elemPiece o scatter i all).state.Canon := by
  unfold State.elemPiece
  refine Run.bind_canon (listRun_canon _ (State.engRead_canon h ..)) fun u x hu => ?_
  dsimp only
  split
  · exact hu
  split
  · exact hu
  split
  · refine Run.bind_canon (listRun_canon _ (State.engRead_canon hu ..)) fun v y hv => ?_
    split
    · exact hv
    · exact elemRun_canon _ (State.engWrite_canon hv ..)
  · refine Run.bind_canon (elemRun_canon _ (State.engRead_canon hu ..)) fun v y hv => ?_
    split
    · exact hv
    · exact listRun_canon _ (State.engWrite_canon hv ..)

theorem State.cbloadPiece_canon {s : State} (h : s.Canon) (o : EngOp) (all : Bool) : (s.cbloadPiece o all).state.Canon := by
  unfold State.cbloadPiece
  refine Run.bind_canon (State.engRead_canon h ..) fun u x hu => ?_
  dsimp only
  (repeat' split) <;> exact hu

theorem State.engPart_canon {s : State} (h : s.Canon) (o : EngOp) (k : Nat) (all : Bool) :
    (s.engPart o k all).state.Canon := by
  have hwrite : ∀ {u : State} (_ : u.Canon) {a : As} {core w : Nat} {stash : Bool} {va : DWord} {bs : List Byte} {bad : Bool} {nx : Nat},
      ((u.engWrite a core w stash va bs bad all).bind fun s () => Run.ok s nx).state.Canon := fun hu =>
    Run.bind_canon (State.engWrite_canon hu ..) fun _ _ hv => hv
  unfold State.engPart
  extract_lets p w a nx m
  split
  · refine Run.bind_canon (State.engRead_canon h ..) fun u x hu => ?_
    dsimp only
    split
    · exact hu
    · exact hwrite hu
  · exact hwrite h
  · refine Run.bind_canon (State.tileRow_canon h ..) fun u x hu => ?_
    dsimp only
    split
    · exact hu
    split
    · exact State.mcastPut_canon hu _ _ _ _
    · exact hwrite hu
  · refine Run.bind_canon (State.engRead_canon h ..) fun u x hu => ?_
    dsimp only
    split
    · exact hu
    · exact hwrite hu
  · exact Run.bind_canon (State.cdecPiece_canon h ..) fun _ _ hu => hu
  · exact Run.bind_canon (State.elemPiece_canon h ..) fun _ _ hu => hu
  · exact Run.bind_canon (State.elemPiece_canon h ..) fun _ _ hu => hu
  · exact Run.bind_canon (State.cbloadPiece_canon h ..) fun _ _ hu => hu
  · exact h

theorem State.engPiece_canon {s : State} (h : s.Canon) (o : EngOp) (k : Nat) (all : Bool) :
    (s.engPiece o k all).state.Canon := by
  unfold State.engPiece
  split
  · exact h
  · exact State.engPart_canon h ..

theorem State.nbPage_canon {s : State} (h : s.Canon) (a : As) (va : DWord) (write : Bool) :
    (s.nbPage a va write).1.Canon := by
  unfold State.nbPage
  grind [!leafOf_memwf]

theorem State.pump_canon {s : State} (h : s.Canon) : s.pump.Canon := by
  refine foldl_canon (fun u i hu => ?_) _ h
  split
  · split
    · exact State.sendAcc_canon hu _
    · exact hu
  · exact hu

theorem State.opLeave_canon {s : State} (h : s.Canon) (n : Nat) (o : EngOp) : (s.opLeave n o).Canon := by
  unfold State.opLeave
  grind [State.wake_mem, !State.pump_canon, State.countDone_mem, State.updOp_mem]

theorem State.drainPiece_canon {s : State} (h : s.Canon) (o : EngOp) (i : Nat) (all : Bool) :
    (s.drainPiece o i all).state.Canon := by
  unfold State.drainPiece
  extract_lets p a w
  split
  refine Run.bind_canon (State.engWriteAll_canon _ h ..) fun u _ hu => Run.bind_canon (State.engWriteAll_canon _ hu ..) fun v _ hv => ?_
  split <;> exact hv

theorem State.drainRest_canon (fuel : Nat) {s : State} (h : s.Canon) (o : EngOp) (k : Nat) :
    (s.drainRest o fuel k).Canon := by
  induction fuel generalizing s k with
  | zero => exact h
  | succ n ih => unfold State.drainRest; grind [!State.drainPiece_canon, State.draw_mem, Run.state]

theorem State.drainFail_canon {s : State} (h : s.Canon) (n : Nat) (o : EngOp) (k : Nat) (i : TrapInfo) :
    (s.drainFail n o k i).Canon := by
  unfold State.drainFail
  grind [!State.opLeave_canon, State.asyncTrap_mem, !State.drainRest_canon]

theorem State.tileFail_canon {s : State} (h : s.Canon) (n op : Nat) (o : EngOp) (i : TrapInfo) :
    (s.tileFail n op o i).Canon := by
  have hcancel : ∀ (l : List Nat) {u : State}, u.Canon → (l.foldl (fun (s : State) k =>
      match s.joints[k]? with
      | some j => if j.live && j.posted.isSome && j.granted.isNone && j.tile == n then s.cancelJoint k j else s
      | none => s) u).Canon := fun l u hu => foldl_canon (fun v k hv => by grind [State.cancelJoint_mem]) l hu
  unfold State.tileFail
  refine State.opLeave_canon ?_ op o
  refine State.Canon.of_mem_eq (hcancel _ ?_) (State.asyncTrap_mem ..)
  split
  · exact h.of_mem_eq (State.setTileBits_mem ..)
  · exact h

theorem State.opEnd_canon {s : State} (h : s.Canon) (n : Nat) (o : EngOp) (k : Nat) (i : TrapInfo) :
    (s.opEnd n o k i).Canon := by
  unfold State.opEnd
  grind [!flushCore_memwf, State.updOp_mem, !wbRequest_memwf, !State.opLeave_canon, State.asyncTrap_mem]

theorem State.engRest_canon (fuel : Nat) {s : State} (h : s.Canon) (o : EngOp) (k : Nat) :
    (s.engRest o fuel k).Canon := by
  induction fuel generalizing s k with
  | zero => exact h
  | succ n ih => unfold State.engRest; grind [!State.engPiece_canon, State.draw_mem, Run.state]

theorem State.opFail_canon {s : State} (h : s.Canon) (n : Nat) (o : EngOp) (k : Nat) (i : TrapInfo) :
    (s.opFail n o k i).Canon := by
  unfold State.opFail
  grind [!State.opEnd_canon, !State.engRest_canon]

theorem State.failOp_canon {s : State} (h : s.Canon) (n : Nat) : (s.failOp n).Canon := by
  unfold State.failOp
  (repeat' split)
  · exact h
  · exact State.drainFail_canon h ..
  · exact State.tileFail_canon h ..
  · exact h
  · exact State.opFail_canon h ..
  · exact h

theorem State.sretAct_canon {s : State} (h : s.Canon) (q : TrapRec) (act : SretAct) (pc : Option DWord) :
    (s.sretAct q act pc).Canon := by
  unfold State.sretAct
  grind [State.exitThread_mem, State.resumeThread_mem, State.updCrew_mem, State.exitCrew_mem, State.killCtx_mem,
    State.resumeCtx_mem, !State.failOp_canon, State.serviceOp_mem, State.loseLine_mem, State.updWg_mem]

theorem State.wAperCfg_canon {s : State} (h : s.Canon) (p : Nat) (i : Nat) (x : DWord) : (s.wAperCfg p i x).Canon := by
  unfold State.wAperCfg
  grind [State.updPart_mem]

theorem State.sysWrite_canon {s : State} (h : s.Canon) (p : Nat) (reg : Nat) (idx : Nat) (x : DWord) :
    (s.sysWrite p reg idx x).Canon := by
  unfold State.sysWrite
  grind [State.wTqCfg_mem, State.wTwin_mem, State.wNumcfg_mem, State.wXlock_mem, State.wLqBase_mem, State.wLqCfg_mem,
    State.wSchedXlock_mem, State.wRoot_mem, !State.wAperCfg_canon, State.wMemCfg_mem, State.wPhcAdj_mem, State.wSpsCfg_mem,
    State.wWindow_mem, State.wPlain_mem]

theorem State.boAdvance_canon {s : State} (h : s.Canon) (core : Option Nat) (a : As) (va : DWord) (inc : Nat) :
    (s.boAdvance core a va inc).1.Canon := by
  unfold State.boAdvance
  grind [!check_memwf, !wbRequest_memwf, !demandPlace_memwf, !settlePlace_memwf, !performPlace_memwf, noteAdvance_mem]

theorem State.advanceOr_canon {s : State} (h : s.Canon) (p : Nat) (ctx : Nat) (objCtx : Nat) (bo : DWord) :
    (s.advanceOr p ctx objCtx bo).Canon := by
  unfold State.advanceOr
  grind [!State.boAdvance_canon, State.orphanRec_mem, State.updCtx_mem]

theorem State.kill_canon {s : State} (h : s.Canon) (p : Nat) (x : DWord) (scope : KillScope) : (s.kill p x scope).Canon := by
  unfold State.kill
  dsimp only
  refine (State.pump_canon ?_).of_mem_eq (State.wake_mem _)
  split
  · refine foldl_canon (fun u w hu => ?_) _ h
    split
    · exact hu.of_mem_eq (by simp)
    · exact hu
  · refine foldl_canon (fun u l hu => ?_) _ h
    exact hu.of_mem_eq (State.killLaunch_mem ..)

theorem State.resident'_canon (fuel : Nat) {s : State} (h : s.Canon) (a : As) (va : DWord) (n : Nat) :
    (s.resident' a va fuel n).1.Canon := by
  induction fuel generalizing s va n with
  | zero => exact h
  | succ m ih => unfold State.resident'; grind [!demandLeaf_memwf]

theorem State.grantLease_canon {s : State} (h : s.Canon) (p : Nat) (launch : Option Nat) (ctx : Nat) (sup : Bool) (base : DWord) (len : DWord) :
    (s.grantLease p launch ctx sup base len).1.Canon := by
  unfold State.grantLease
  grind [!State.resident'_canon, State.updPart_mem]

theorem State.copyPage_canon {s : State} (h : s.Canon) (old : Nat) (dst : Nat) (size : Nat) :
    (s.copyPage old dst size).Canon := by
  unfold State.copyPage
  grind [!demandRange_memwf, !perform_memwf]

theorem halfCheck_canon {s : State} (h : s.Canon) (r : Regs) (x : Half) : (halfCheck s r x).1.Canon := by
  unfold halfCheck
  grind [!State.stashCheck_canon]

theorem halfRun_canon {s : State} (h : s.Canon) (r : Regs) (x : Half) : (halfRun s r x).Canon := by
  unfold halfRun
  grind [State.updRegs_mem, State.poisoned_mem, !State.stashPut_canon, State.setFlags_mem]

theorem pairBody_canon {s : State} (h : s.Canon) (a : Half) (b : Half) : (pairBody a b s).Canon := by
  unfold pairBody
  grind [!halfCheck_canon, State.raise_mem, State.hold_mem, State.advance_mem, !halfRun_canon]

theorem State.waitgeTest_canon {s : State} (h : s.Canon) (t : Nat) (ea : DWord) (target : DWord) (d : BitVec 11) :
    (s.waitgeTest t ea target d).1.Canon := by
  unfold State.waitgeTest
  grind [!State.waitRead_canon, State.stopThread_mem, State.updThr_mem]

theorem State.queueWrite_canon {s : State} (h : s.Canon) (p : Nat) (base pbo cbo : DWord) (lgn n : Nat) (bs : Nat → List Byte) :
    (s.queueWrite p base pbo cbo lgn n bs).1.Canon := by
  unfold State.queueWrite
  dsimp only
  have h1 := check_memwf ⟨p, 0, true, none⟩ none pbo 8 .atomic h
  split <;> rename_i e1 <;> rw [e1] at h1
  swap
  · exact h1
  have h2 := check_memwf ⟨p, 0, true, none⟩ none cbo 8 .load h1
  split <;> rename_i e2 <;> rw [e2] at h2
  swap
  · exact h2
  have h3 := State.demandAll_canon h2
  grind [!resolve_memwf, !wbRequest_memwf, !performPlace_memwf, !State.boAdvance_canon]

theorem State.askBlocked_canon {s : State} (h : s.Canon) (b : Option (Nat × Nat)) : (s.askBlocked b).Canon := by
  unfold State.askBlocked
  grind [!wbRequest_memwf]

theorem State.publishWaiting_canon {s : State} (h : s.Canon) (part : Nat) : (s.publishWaiting part).Canon := by
  unfold State.publishWaiting
  dsimp only
  split
  · exact foldl_canon (fun _ _ hu => State.askBlocked_canon hu _) _ h
  · rename_i a _
    have hp := State.publish_canon h a.base
    split
    · exact hp
    · exact hp

theorem State.takeRecord_canon {s : State} (h : s.Canon) (part : Nat) (q : Nat) : (s.takeRecord part q).Canon := by
  unfold State.takeRecord
  grind [!demandRange_memwf, !State.writeQ_canon, State.updPart_mem]

theorem State.leaseList_canon {s : State} (h : s.Canon) (l : Nat) : (s.leaseList l).1.Canon := by
  unfold State.leaseList
  grind [!State.resolveRange_canon, !State.demandAll_canon]

theorem State.orAsk_canon {s : State} (h : s.Canon) {x : Tried State} (hx : ∀ s', x = .ok s' → s'.Canon) :
    (s.orAsk x).Canon := by
  unfold State.orAsk
  split
  · exact hx _ rfl
  · exact State.askBlocked_canon h _

theorem State.putStatus_canon {s : State} (h : s.Canon) (l : Nat) {s' : State} (hs : s.putStatus l = .ok s') : s'.Canon := by
  unfold State.putStatus at *
  grind [!check_memwf, !performPlace_memwf, State.launchRec_mem]

theorem State.enter_canon {s : State} (h : s.Canon) (l : Nat) (f : Launch → Launch) {s' : State} (hs : s.enter l f = .ok s') :
    s'.Canon := by
  unfold State.enter at *
  grind [!State.putStatus_canon, State.updLaunch_mem]

theorem State.putDone_canon {s : State} (h : s.Canon) (l : Nat) {s' : State} (hs : s.putDone l = .ok s') : s'.Canon := by
  unfold State.putDone at *
  grind [!flushWhere_memwf, !State.boAdvance_canon, State.launchRec_mem]

theorem State.endLaunch_canon {s : State} (h : s.Canon) (l : Nat) (state : Nat) (code : Nat) {s' : State}
    (hs : s.endLaunch l state code = .ok s') : s'.Canon := by
  unfold State.endLaunch at hs
  dsimp only at hs
  cases he : State.enter (s.updPart (s.launch l).part fun x => { x with leases := x.leases.filter fun e => e.launch != some l }) l
      fun x => { x with state := state, code := code } with
  | error b => rw [he] at hs; cases hs
  | ok u =>
    rw [he] at hs
    exact State.putDone_canon (State.enter_canon (s := s.updPart _ _) h _ _ he) _ hs

theorem State.depMet_canon {s : State} (h : s.Canon) (l : Nat) (dep : DWord) (tgt : DWord) :
    (s.depMet l dep tgt).1.Canon := by
  unfold State.depMet
  grind [!check_memwf, !demandPlace_memwf]

theorem State.depsMet_canon {s : State} (h : s.Canon) (l : Nat) : (s.depsMet l).1.Canon := by
  unfold State.depsMet
  grind [!State.depMet_canon]

theorem State.waitLease_canon {s : State} (h : s.Canon) (l : Nat) {s' : State} (hs : s.waitLease l = .ok s') : s'.Canon := by
  unfold State.waitLease at *
  grind [State.updLaunch_mem, !State.enter_canon]

theorem State.takeLeases_canon {s : State} (h : s.Canon) (l : Nat) (es : List (Nat × Nat)) : (s.takeLeases l es).Canon := by
  refine foldl_canon (fun u e hu => ?_) _ h
  grind [!State.grantLease_canon, State.updLaunch_mem, State.leaseAsk_mem]

theorem State.tryLeave_canon {s : State} (h : s.Canon) (l : Nat) {s' : State} (hs : s.tryLeave l = .ok s') : s'.Canon := by
  unfold State.tryLeave at *
  grind [!State.leaseList_canon, !State.waitLease_canon, !State.endLaunch_canon, !State.takeLeases_canon, !State.enter_canon]

theorem State.releaseLines_canon (ls : List Nat) {s : State} (h : s.Canon) (w : Nat) :
    (s.releaseLines w ls).1.Canon := by
  induction ls generalizing s with
  | nil => exact h
  | cons l r ih => unfold State.releaseLines; grind [!giveUp_memwf, !wbRequest_memwf]

theorem State.moveOut_canon {s : State} (h : s.Canon) (w : Nat) : (s.moveOut w).1.Canon := by
  unfold State.moveOut
  grind [!State.releaseLines_canon, State.updWg_mem]

theorem State.engRun_canon (fuel : Nat) {s : State} (h : s.Canon) (o : EngOp) (k : Nat) :
    (s.engRun o fuel k).1.state.Canon := by
  induction fuel generalizing s k with
  | zero => exact h
  | succ n ih => unfold State.engRun; grind [!State.engPiece_canon, Run.state]

theorem State.opRun_canon {s : State} (h : s.Canon) (o : EngOp) : (s.opRun o).1.state.Canon := State.engRun_canon _ h _ _

theorem State.opSettle_canon {s : State} (h : s.Canon) (o : EngOp) : (s.opSettle o).Canon := by
  unfold State.opSettle
  grind [!release_memwf, !flushCore_memwf]

theorem State.opFinish_canon {s : State} (h : s.Canon) (n : Nat) (o : EngOp) : (s.opFinish n o).state.Canon := by
  have hset := State.opSettle_canon h o
  unfold State.opFinish
  grind [!State.opLeave_canon, !wbRequest_memwf, !State.boAdvance_canon, Run.stop_state, Run.state]

theorem State.drainRun_canon (fuel : Nat) {s : State} (h : s.Canon) (o : EngOp) (k : Nat) :
    (s.drainRun o fuel k).1.state.Canon := by
  induction fuel generalizing s k with
  | zero => exact h
  | succ n ih => unfold State.drainRun; grind [!State.drainPiece_canon, Run.state]

theorem State.tileLine_canon {s : State} (h : s.Canon) (t : Tile) (o : EngOp) : (s.tileLine t o).state.Canon := by
  unfold State.tileLine
  refine Run.bind_canon (State.engRead_canon h ..) fun u x hu => ?_
  dsimp only
  split <;> exact hu

theorem State.tileMark_canon {s : State} (h : s.Canon) (t : Tile) (o : EngOp) : (s.tileMark t o).state.Canon := by
  unfold State.tileMark
  refine Run.bind_canon (State.engRead_canon h ..) fun u x hu => ?_
  dsimp only
  split <;> exact hu

theorem State.tileCheck_canon {s : State} (h : s.Canon) (t : Tile) (o : EngOp) (k : Nat) {r : Run Nat} (hr : s.tileCheck t o k = some r) :
    r.state.Canon := by
  unfold State.tileCheck at hr
  grind [Run.state]

theorem State.tileStep_canon {s : State} (h : s.Canon) (o : EngOp) (t : Tile) (k : Nat) {r : Run (Tile × Nat)}
    (hr : s.tileStep o t k = some r) : r.state.Canon := by
  have hok : ∀ (u : State) (x : Tile), u.Canon → (Run.ok u (x, k)).state.Canon := fun _ _ hu => hu
  have hline := Run.bind_canon (State.tileLine_canon h t o) hok
  have hmark := Run.bind_canon (State.tileMark_canon h t o) hok
  unfold State.tileStep at hr
  dsimp only at hr
  split at hr
  · cases hr; exact hmark
  · split at hr
    · split at hr
      · rename_i hc
        cases hr
        exact Run.bind_canon (State.tileCheck_canon h t o k hc) fun _ _ hu => hu
      · split at hr <;> cases hr
        exact hline
    · split at hr <;> cases hr
      exact hline

theorem State.tileRun_canon (fuel : Nat) {s : State} (h : s.Canon) (o : EngOp) (t : Tile) (k : Nat) :
    (s.tileRun o fuel t k).1.state.Canon := by
  induction fuel generalizing s t k with
  | zero => exact h
  | succ n ih =>
    unfold State.tileRun
    split
    · exact h
    all_goals rename_i e; have hs := State.tileStep_canon h _ _ _ e
    · exact ih hs _ _
    all_goals exact hs

theorem State.tileFetch_canon {s : State} (h : s.Canon) (t : Tile) (o : EngOp) : (s.tileFetch t o).1.state.Canon :=
  State.tileRun_canon _ h _ _ _

theorem State.dropCheck_canon {s : State} (h : s.Canon) (c : Cmd) : (s.dropCheck c).1.Canon := by
  unfold State.dropCheck
  grind [!State.resolveRange_canon, !resolve_memwf]

theorem State.cmdLeave_canon {s : State} (h : s.Canon) (n : Nat) (c : Cmd) : (s.cmdLeave n c).Canon := by
  unfold State.cmdLeave
  grind [State.endWalkers_mem, State.wake_mem, !State.pump_canon, State.countDone_mem, State.updCmd_mem]

theorem State.cmdDrop_canon {s : State} (h : s.Canon) (n : Nat) (c : Cmd) (i : TrapInfo) : (s.cmdDrop n c i).Canon := by
  unfold State.cmdDrop
  grind [State.asyncTrap_mem, !State.cmdLeave_canon]

theorem State.cmdRead_canon {s : State} (h : s.Canon) (c : Cmd) (va : DWord) (n : Nat) : (s.cmdRead c va n).1.Canon := by
  unfold State.cmdRead
  grind [!State.resolveRange_canon, !State.demandAll_canon]

theorem State.checkSnap_canon {s : State} (h : s.Canon) (c : Cmd) (vbo : DWord) : (s.checkSnap c vbo).1.Canon := by
  unfold State.checkSnap
  grind [!State.cmdRead_canon]

theorem State.checkScan_canon {s : State} (h : s.Canon) (c : Cmd) : (s.checkScan c).1.Canon := by
  unfold State.checkScan
  grind [!State.nbPage_canon, !State.checkSnap_canon]

theorem State.checkRows_canon {s : State} (h : s.Canon) (c : Cmd) : (s.checkRows c).1.Canon := by
  unfold State.checkRows
  grind [!State.nbPage_canon]

theorem State.readQuery_canon {s : State} (h : s.Canon) (n : Nat) (c : Cmd) {s' : State} (hs : s.readQuery n c = some s') :
    s'.Canon := by
  unfold State.readQuery at *
  grind [!State.cmdRead_canon, State.updCmd_mem]

theorem State.startEntries_canon (left : Nat) {s : State} (h : s.Canon) (n : Nat) (c : Cmd) (i : Nat) {s' : State}
    (hs : s.startEntries n c left i = some s') : s'.Canon := by
  induction left generalizing s i with
  | zero => cases hs; exact h
  | succ m ih =>
    unfold State.startEntries at hs
    grind [!State.cmdRead_canon, State.updCmd_mem, State.startEntry_mem]

theorem State.cmdBegin_canon {s : State} (h : s.Canon) (n : Nat) (c : Cmd) (snap : Word) {s' : State}
    (hs : s.cmdBegin n c snap = some s') : s'.Canon := by
  unfold State.cmdBegin at hs
  obtain ⟨u, hu, hs⟩ := Option.bind_eq_some_iff.mp hs
  obtain ⟨v, hv, rfl⟩ := Option.map_eq_some_iff.mp hs
  have hu' : u.Canon := by
    split at hu
    · exact State.readQuery_canon (s := s.updCmd _ _) h n c hu
    · cases hu; exact h
  have hv' : v.Canon := by
    split at hv
    · exact State.startEntries_canon _ hu' n c _ hv
    · cases hv; exact hu'
  split
  · exact hv'
  · exact hv'.of_mem_eq (State.endWalkers_mem ..)

theorem State.frontCheck_canon {s : State} (h : s.Canon) (n : Nat) (c : Cmd) {s' : State} (hs : s.frontCheck n c = some s') :
    s'.Canon := by
  unfold State.frontCheck at *
  grind [!State.cmdRead_canon, State.cmdReject_mem, State.updCmd_mem, !State.checkSnap_canon]

theorem State.scanRecord_canon {s : State} (h : s.Canon) (c : Cmd) (j : Nat) : (s.scanRecord c j).1.Canon := by
  unfold State.scanRecord
  grind [!State.cmdRead_canon]

theorem State.scanRun_canon (n : Nat) {s : State} (h : s.Canon) (c : Cmd) (j : Nat) :
    (s.scanRun c n j).state.Canon := by
  induction n generalizing s c j with
  | zero => exact h
  | succ n ih => unfold State.scanRun; grind [!State.scanRecord_canon, Run.state]

theorem State.rowPrepare_canon (ls : List Nat) {s : State} (h : s.Canon) :
    (s.rowPrepare ls).state.Canon := by
  induction ls generalizing s with
  | nil => exact h
  | cons l r ih => unfold State.rowPrepare; grind [!cleanLine_memwf, !demand_memwf, !wbRequest_memwf, Run.state]

theorem State.rowPut_canon {s : State} (h : s.Canon) (line : Nat) (bs : List Byte) (bad : Bool) :
    (s.rowPut line bs bad).Canon := by
  unfold State.rowPut
  grind [!perform_memwf]

theorem State.rowRun_canon {s : State} (h : s.Canon) (c : Cmd) (m : Nat) : (s.rowRun c m).state.Canon := by
  have h1 := resolve_memwf c.as none (c.fx 0) 1024 .engWrite h
  have h2 : (if c.kind = 3 then s.resolve c.as none (c.fx 64) 1024 .engRead else (s, .ok (.value []))).1.Canon := by
    split
    · exact resolve_memwf _ _ _ _ _ h
    · exact h
  unfold State.rowRun
  split <;> simp only [*] at h1 h2
  · exact h1
  · exact h2
  · exact h2
  · exact h1
  · refine Run.bind_canon (State.rowPrepare_canon _ h1) fun u _ hu => ?_
    dsimp only
    split
    · exact wbRequest_memwf _ _ hu
    · exact foldl_canon (fun _ _ hs => State.rowPut_canon hs _ _ _) _ hu

theorem State.cmdWork_canon {s : State} (h : s.Canon) (c : Cmd) : (s.cmdWork c).state.Canon := by
  unfold State.cmdWork
  split
  · exact h
  · have hd : (if c.status = 8 then s.draw else s).Canon := by split <;> exact h
    refine Run.bind_canon ?_ fun _ _ hu => hu
    split
    · exact State.scanRun_canon _ hd _ _
    · exact State.rowRun_canon hd _ _

theorem State.performAll_canon (ps : List Place) {s : State} (h : s.Canon) (bs : List Byte) :
    (s.performAll ps bs).Canon := by
  induction ps generalizing s bs with
  | nil => exact h
  | cons p r ih => unfold State.performAll; grind [!performPlace_memwf]

theorem State.cmdWrite_canon {s : State} (h : s.Canon) (c : Cmd) (va : DWord) (bs : List Byte) :
    (s.cmdWrite c va bs).state.Canon := by
  unfold State.cmdWrite
  grind [!State.resolveRange_canon, !wbRequest_memwf, !State.performAll_canon, Run.state]

theorem State.cmdFinish_canon {s : State} (h : s.Canon) (c : Cmd) : (s.cmdFinish c).state.Canon := by
  unfold State.cmdFinish
  have hlist : ∀ list : List Byte, (if list = [] then .ok s () else s.cmdWrite c (c.out + 32) list : Run Unit).state.Canon := by
    intro list
    split
    · exact h
    · exact State.cmdWrite_canon h ..
  refine Run.bind_canon (hlist _) fun u _ hu => Run.bind_canon (State.cmdWrite_canon hu ..) fun v _ hv => ?_
  grind [!State.boAdvance_canon, Run.state]

theorem State.settleOlder_canon {s : State} (h : s.Canon) (p : RPacket) (pl : Place) : (s.settleOlder p pl).Canon := by
  unfold State.settleOlder
  grind [!flushWhere_memwf]

theorem ownerPerform_canon {s : State} (h : s.Canon) (p : RPacket) (pl : Place) : (ownerPerform s p pl).1.Canon := by
  unfold ownerPerform
  grind [!demandPlace_memwf, !performPlace_memwf, State.noteAtom_mem, noteAdvance_mem]

theorem State.ownerServe_canon {s : State} (h : s.Canon) (p : RPacket) : (s.ownerServe p).1.Canon := by
  unfold State.ownerServe
  grind [State.ticketAccess_mem, State.ticketLater_mem, !resolve_memwf, !State.settleOlder_canon, !wbRequest_memwf,
    !ownerPerform_canon, State.replayDone_mem, State.send_mem, State.refuse_mem]

theorem State.ownerHandle_canon {s : State} (h : s.Canon) (p : RPacket) : (s.ownerHandle p).1.Canon := by
  unfold State.ownerHandle
  grind [State.refuse_mem, State.send_mem, !State.ownerServe_canon]

theorem State.finishAcc_canon {s : State} (h : s.Canon) (i : Nat) : (s.finishAcc i).Canon := by
  unfold State.finishAcc
  grind [State.updAcc_mem, State.countDone_mem, State.wake_mem, !State.pump_canon]

theorem State.abortAcc_canon {s : State} (h : s.Canon) (i : Nat) (tkid : BitVec 16) : (s.abortAcc i tkid).Canon := by
  unfold State.abortAcc
  grind [!State.finishAcc_canon, State.updAcc_mem, State.asyncTrap_mem, State.heldOn_mem]

theorem State.roundEnd_canon {s : State} (h : s.Canon) (r : Round) (m : FabMsg) : (s.roundEnd r m).1.Canon := by
  have hsend : ∀ (l : List Contribution) (f : Contribution → FabMsg) {u : State}, u.Canon → (l.foldl (fun s x => s.send x.src (f x)) u).Canon :=
    fun l f u hu => foldl_canon (fun _ _ hv => hv.of_mem_eq (State.send_mem ..)) l hu
  unfold State.roundEnd
  extract_lets k a done abortAll ticketAll fail
  have habort : ∀ u : State, u.Canon → (abortAll u).1.Canon := fun u hu => hsend _ _ hu
  have hticket : ∀ (u : State) va cause mig, u.Canon → (ticketAll u va cause mig).1.Canon := by
    intro u va cause mig hu
    simp only [ticketAll, done]
    split
    · exact hu.of_mem_eq (State.ticketRound_mem ..)
    · exact hu.of_mem_eq (State.ticketLater_mem ..)
  have hfail : ∀ (u : State) i, u.Canon → (fail u i).1.Canon := by
    intro u i hu
    simp only [fail]
    split
    · exact hticket _ _ _ _ hu
    · exact hticket _ _ _ _ hu
    · exact habort _ hu
  split
  · exact habort _ h
  have h1 := State.resolveRange_canon h a none k.out (8 * k.k) .store
  split <;> rename_i e1 <;> rw [e1] at h1
  · exact hfail _ _ h1
  · exact hticket _ _ _ _ h1
  · exact h1
  rename_i u ps
  have h2 := resolve_memwf a none k.bo 8 .atomic h1
  split <;> rename_i e2 <;> rw [e2] at h2
  · exact hfail _ _ h2
  · exact hticket _ _ _ _ h2
  · exact h2
  split
  · exact wbRequest_memwf _ _ h2
  · exact hsend _ _ (State.boAdvance_canon (State.performAll_canon _ h2 _) ..)

theorem State.takeContrib_canon {s0 : State} (h : s0.Canon) (s : State) (k : Contribution) : (s0.takeContrib s k).Canon := by
  unfold State.takeContrib
  extract_lets u same r r' u'
  have hu : u.Canon := h.of_mem_eq (State.contribBack_mem ..)
  split
  · exact hu.of_mem_eq (State.send_mem ..)
  split
  · exact hu.of_mem_eq (State.send_mem ..)
  · have hr := State.roundEnd_canon (s := u') hu r' (.contrib k)
    split <;> rename_i e <;> rw [e] at hr
    · exact hr
    · exact hr.of_mem_eq (State.ingress_mem _ s.fabric (.contrib k))

theorem State.advanceAll_canon {s : State} (h : s.Canon) (p ctx : Nat) : (s.advanceAll p ctx).Canon :=
  foldl_canon (fun _ _ hu => State.advanceOr_canon hu _ _ _ _) _ (h.of_mem_eq (State.updCtx_mem ..))

theorem State.releaseWgs_canon (ws : List Nat) {s : State} (h : s.Canon) :
    (s.releaseWgs ws).1.Canon := by
  induction ws generalizing s with
  | nil => exact h
  | cons w r ih => unfold State.releaseWgs; grind [!State.releaseLines_canon]

theorem State.writeImage_canon {s : State} (h : s.Canon) (p ctx : Nat) {x : State × DWord} (hs : s.writeImage p ctx = .ok x) :
    x.1.Canon := by
  unfold State.writeImage at hs
  grind [!resolve_memwf, !demandPlace_memwf, !State.resolveRange_canon, !State.performAll_canon]

theorem State.rereadContrib_canon {s : State} (h : s.Canon) (a : As) (core : Nat) (acc : Nat) (lane : Nat) (da : DWord) :
    (s.rereadContrib a core acc lane da).1.Canon := by
  unfold State.rereadContrib
  grind [!check_memwf, !demandPlace_memwf]

theorem State.restoreReplay_canon {s : State} (h : s.Canon) (bs : List Byte) (r : Nat) (w : Nat) :
    (s.restoreReplay bs r w).Canon := by
  unfold State.restoreReplay
  grind [!State.rereadContrib_canon, State.updAcc_mem, !State.abortAcc_canon, !State.sendAcc_canon]

theorem State.placeWg_canon {s : State} (h : s.Canon) (bs : List Byte) (o : Nat) (ls : List (Nat × Nat)) {s' : State}
    (hs : s.placeWg bs o ls = some s') : s'.Canon := by
  unfold State.placeWg at hs
  extract_lets n l core nc at hs
  have h0 := h.of_mem_eq (State.restoreSlot_mem s l (nbits n 0 5) (nbits n 5 4) (nbits n 9 16) nc)
  generalize State.restoreSlot _ _ _ _ _ _ = r at hs h0
  obtain ⟨u, w⟩ := r
  dsimp only at hs h0
  obtain ⟨-, hs⟩ := Option.ite_none_left_eq_some.mp hs
  obtain ⟨-, hs⟩ := Option.ite_none_left_eq_some.mp hs
  rw [Option.some.injEq] at hs
  subst hs
  refine foldl_canon (fun _ _ hv => hv.of_mem_eq (State.restoreRecord_mem ..)) _ (State.pump_canon ?_)
  refine State.Canon.of_mem_eq ?_ (State.unsave_mem ..)
  refine foldl_canon (fun v c hv => State.Canon.of_mem_eq hv (by rw [ite_mem, State.evalLatch_mem, ite_self])) _ ?_
  refine foldl_canon (fun v c hv => hv.of_mem_eq (State.restoreRec_mem ..)) _ ?_
  refine foldl_canon (fun v c hv => State.restoreReplay_canon hv ..) _ ?_
  refine foldl_canon (fun v c hv => hv.of_mem_eq (State.updThr_mem ..)) _ ?_
  refine foldl_canon (fun v c hv => hv.of_mem_eq (State.updCrew_mem ..)) _ ?_
  exact State.Canon.of_mem_eq h0 (by rw [State.updCore_mem, State.updWg_mem, State.updWg_mem, ite_mem, State.setCarve_mem, ite_self])

theorem State.placeWgs_canon (os : List Nat) {s : State} (h : s.Canon) (bs : List Byte) (ls : List (Nat × Nat)) {s' : State}
    (hs : s.placeWgs bs ls os = some s') : s'.Canon := by
  induction os generalizing s with
  | nil => cases hs; exact h
  | cons o r ih =>
    unfold State.placeWgs at hs
    split at hs
    · rename_i hp; exact ih (State.placeWg_canon h _ _ _ hp) hs
    · cases hs

theorem State.restore_canon {s : State} (h : s.Canon) (p ctx : Nat) (bs : List Byte) {s' : State}
    (hs : s.restore p ctx bs = some s') : s'.Canon := by
  have hl : ∀ (es : List LaunchEnt) (a : State × List (Nat × Nat)), a.1.Canon → (es.foldl (fun (a : State × List (Nat × Nat)) e =>
      let (s, i) := a.1.restoreLaunch p ctx e
      (s, a.2 ++ [(e.lnum, i)])) a).1.Canon := by
    intro es
    induction es with
    | nil => exact fun a ha => ha
    | cons e r ih =>
      intro a ha
      exact ih _ (ha.of_mem_eq (State.restoreLaunch_mem ..))
  unfold State.restore at hs
  split at hs
  · cases hs
  have h0 := hl (imgLaunches bs) (s, []) h
  split at hs
  rename_i u ls hu
  rw [hu] at h0
  obtain ⟨v, hv, rfl⟩ := Option.map_eq_some_iff.mp hs
  refine foldl_canon (fun w e hw => ?_) _ (State.placeWgs_canon _ h0 _ _ hv)
  exact hw.of_mem_eq (by simp)

theorem State.released_canon {s : State} (h : s.Canon) (t : Nat) (was : Bool) : (s.released t was).Canon := by
  unfold State.released
  grind [State.updThr_mem]

theorem State.giveUpPage_canon (n : Nat) {s : State} (h : s.Canon) (pa : Nat) :
    (s.giveUpPage pa n).1.Canon := by
  induction n generalizing s with
  | zero => exact h
  | succ n ih => unfold State.giveUpPage; grind [!giveUp_memwf, !wbRequest_memwf]

theorem State.flushPage_canon {s : State} (h : s.Canon) (pa : Nat) (size : Nat) : (s.flushPage pa size).Canon := by
  unfold State.flushPage
  grind [!flushWhere_memwf]

theorem State.moveLeaf_canon {s : State} (h : s.Canon) (m : Migration) : (s.moveLeaf m).Canon :=
  foldl_canon (fun _ _ hu => putEntry_memwf _ _ hu) _ h

theorem State.commitSwitch_canon {s : State} (h : s.Canon) (m : Migration) : (s.commitSwitch m).Canon := by
  unfold State.commitSwitch
  grind [!State.moveLeaf_canon, !flushWhere_memwf, State.dropTlb_mem]

theorem State.freePage_canon {s : State} (h : s.Canon) (pa : Nat) (size : Nat) : (s.freePage pa size).Canon := by
  unfold State.freePage
  grind [!perform_memwf]

theorem State.imageStore_canon {s : State} (h : s.Canon) (off : Nat) (bytes : List Byte) :
    (s.imageStore off bytes).Canon := by
  unfold State.imageStore
  grind [State.updHk_mem]

theorem State.ownerReq_canon {s : State} (h : s.Canon) (cl : Nat) (inSession : Bool) (req : OwnerReq) :
    (s.ownerReq cl inSession req).1.Canon := by
  unfold State.ownerReq
  grind [State.hkRefuse_mem, State.claimBy_mem, State.setHk_mem, State.setPartition_mem, State.setSlots_mem,
    State.setStream_mem, !State.imageStore_canon, State.imageActivate_mem, State.resetPart_mem]

theorem State.afterAnswer_canon {s : State} (h : s.Canon) (st : Nat) (req : OwnerReq) : (s.afterAnswer st req).Canon := by
  unfold State.afterAnswer
  split
  · split
    · exact wf_reset_mem
    · exact h
  · exact h

theorem State.mailbox_canon {s : State} (h : s.Canon) (val : DWord) (app : Option (List Byte)) :
    (s.mailbox val app).Canon := by
  unfold State.mailbox
  generalize parseReq (app.getD []) = pr
  obtain ⟨tag, req⟩ := pr
  have ht := State.ownerReq_canon (s := s.updHk fun h => { h with mbReq := val }) h 0
    (app.isSome && (s.updHk fun h => { h with mbReq := val }).hk.sessions.contains 0) req
  dsimp only
  generalize State.ownerReq _ _ _ _ = r at ht
  obtain ⟨t, st⟩ := r
  refine State.afterAnswer_canon (State.Canon.of_mem_eq ht ?_) _ _
  simp only [noteVec0_mem, State.draw_mem, State.updHk_mem, State.answer_mem]

theorem State.barWrite_canon {s : State} (h : s.Canon) (off : Nat) (bytes : List Byte) (app : Option (List Byte)) :
    (s.barWrite off bytes app).Canon := by
  unfold State.barWrite
  grind [!State.mailbox_canon, State.updHk_mem]

theorem State.placeFrame_canon {s : State} (h : s.Canon) (i : Nat) (port : Nat) (stream : Nat) (bs : List Byte) (sec : BitVec 48) (ns : BitVec 32) :
    (s.placeFrame i port stream bs sec ns).Canon := by
  unfold State.placeFrame
  grind [!demandRange_memwf, !perform_memwf, noteAdvance_mem]

theorem State.portWrite_canon {s : State} (h : s.Canon) (xs : PortWait) : (s.portWrite xs).Canon := by
  unfold State.portWrite
  grind [!perform_memwf, State.answerHost_mem, !State.placeFrame_canon]

theorem State.portIn_canon {s : State} (h : s.Canon) (w : PortWait) : (s.portIn w).Canon := by
  unfold State.portIn
  grind [!State.askBlocked_canon, !State.portWrite_canon]

theorem State.hostStore_canon {s : State} (h : s.Canon) (pa : Nat) (bytes : List Byte) : (s.hostStore pa bytes).Canon := by
  unfold State.hostStore
  grind [!State.portIn_canon]

theorem State.performMsg_canon {s : State} (h : s.Canon) (xs : FabMsg) : (s.performMsg xs).Canon := by
  unfold State.performMsg
  grind [!State.ownerHandle_canon, !State.takeContrib_canon]

theorem State.entryCheck_canon {s : State} (h : s.Canon) : (s.entryCheck).1.Canon := by
  unfold State.entryCheck
  grind [!State.checkTarget_canon, State.updThr_mem]

theorem State.issueQuad_canon {s : State} (h : s.Canon) (core : Nat) (quad : Nat) : (s.issueQuad core quad).Canon := by
  unfold State.issueQuad
  grind []

theorem State.issueLeader_canon {s : State} (h : s.Canon) (core : Nat) : (s.issueLeader core).Canon := by
  unfold State.issueLeader
  grind [State.updCore_mem]

theorem State.take_canon {s : State} (h : s.Canon) (q : Nat × Nat) : (s.take q).Canon := by
  unfold State.take
  grind [State.noteBlocked_mem, !State.issueQuad_canon, !State.issueLeader_canon]

theorem State.portRetry_canon {s : State} (h : s.Canon) : s.portRetry.Canon :=
  foldl_canon (fun _ _ hu => State.portIn_canon hu _) _ (s := { s with portWait := [] }) h

theorem State.tick_canon {s : State} (h : s.Canon) : s.tick.Canon := by
  have hreform : ∀ (l : List (Nat × Nat)) {u : State}, u.Canon → (l.foldl (fun s q => s.reformQuad q.1 q.2) u).Canon :=
    fun l u hu => foldl_canon (fun _ _ hv => hv.of_mem_eq (State.reformQuad_mem ..)) l hu
  have hclock : s.noteBlocked.clock.Canon := h.of_mem_eq (by simp)
  have hport : s.noteBlocked.clock.portRetry.pruneBundles.Canon := State.portRetry_canon hclock
  unfold State.tick
  refine hreform _ ?_
  split
  · exact State.pump_canon hport
  · exact hport

end Sys2Proof.Machine
end

section
/-! SUPPORT. What an instruction's own part goes through keeps memory canonical. -/

namespace Sys2Proof.Machine

/-! ### What an instruction's own part goes through -/

theorem Res.ite_canon {c : Prop} [Decidable c] {x y : Res} (hx : x.state.Canon) (hy : y.state.Canon) :
    (if c then x else y).state.Canon := by
  split
  · exact hx
  · exact hy

theorem deliver_canon (i : Iss) (x : Res) (hx : x.state.Canon) : (deliver i x).Canon := by
  cases x with
  | v u x => exact State.Canon.of_mem_eq hx (by simp [deliver, Res.state])
  | x u x => exact State.Canon.of_mem_eq hx (by simp [deliver, Res.state])
  | p u b => exact State.Canon.of_mem_eq hx (by simp [deliver, Res.state])
  | none u => exact State.Canon.of_mem_eq hx (by simp [deliver, Res.state])
  | jump u t => exact State.Canon.of_mem_eq hx (by simp [deliver, Res.state])
  | stay u => exact hx
  | stall u => exact State.Canon.of_mem_eq hx (State.stallCur_mem _)
  | trap u c => exact State.Canon.of_mem_eq hx (State.raise_mem ..)
  | wait u w => exact State.Canon.of_mem_eq hx (State.hold_mem ..)

section
variable {s : State} (h : s.Canon)
include h

theorem keeps_next : Keeps (.next s) := by
  intro s' e
  cases e
  exact h

/-- What the body keeps, the issue keeps: a trap, a false guard and an interlock leave memory as it is (R178). -/
theorem issueI_canon {i : Iss} {body : State → Regs → Res} (hb : ∀ u r, u.Canon → (body u r).state.Canon) :
    Keeps (s.issueI i body) := by
  have hraise : ∀ c, (s.raise c).Canon := fun c => h.of_mem_eq (State.raise_mem ..)
  have hbegin : (s.begin i).Canon := h.of_mem_eq (State.begin_mem ..)
  unfold State.issueI
  (repeat' split)
  · exact fun _ e => nomatch e
  · exact keeps_next h
  · exact keeps_next (hraise _)
  · exact keeps_next (hraise _)
  · exact keeps_next (deliver_canon _ _ (hb _ _ hbegin))
  · exact keeps_next (deliver_canon _ _ hbegin)

section
variable {go : State → Res} (hgo : ∀ u : State, u.Canon → (go u).state.Canon)
include hgo

theorem State.unlessBlocked_canon (b : Option (Nat × Nat)) : (s.unlessBlocked b go).state.Canon := by
  unfold State.unlessBlocked
  split
  · exact wbRequest_memwf _ _ h
  · exact hgo _ h

theorem State.budgetFor_canon (n : Nat) : (s.budgetFor n go).state.Canon := by
  unfold State.budgetFor
  split
  · exact h
  · exact hgo _ h

theorem State.budget_canon : (s.budget go).state.Canon := State.budgetFor_canon h hgo 1

theorem State.awaitRemote_canon : (s.awaitRemote go).state.Canon := by
  unfold State.awaitRemote
  split
  · exact h
  · exact hgo _ h

theorem State.releaseThen_canon (core : Nat) (sc : Scope) : (s.releaseThen core sc go).state.Canon :=
  State.unlessBlocked_canon (release_memwf _ _ h) hgo _

theorem State.releaseStall_canon (core : Nat) (sc : Scope) : (s.releaseStall core sc go).state.Canon := by
  have hr := release_memwf core sc h
  unfold State.releaseStall
  dsimp only
  split
  · exact wbRequest_memwf _ _ hr
  · exact hgo _ hr

theorem State.stashAcc_canon (off n : Nat) (write : Bool) : (s.stashAcc off n write go).state.Canon := by
  have hc := State.stashCheck_canon h (s.wgOf s.t) off n write
  unfold State.stashAcc
  split <;> rename_i e <;> rw [e] at hc
  · exact hc
  · exact hc
  · exact hgo _ hc

theorem State.atomOrder_canon (o : Order) (sc : Scope) : (s.atomOrder o sc go).state.Canon := by
  unfold State.atomOrder
  split
  · exact State.awaitRemote_canon h hgo
  · exact hgo _ h

theorem State.atomRelease_canon (o : Order) (sc : Scope) : (s.atomRelease o sc go).state.Canon := by
  unfold State.atomRelease
  split
  · exact State.releaseThen_canon h hgo _ _
  · exact hgo _ h

theorem State.counterRoom_canon (cls : Nat) : (s.counterRoom cls go).state.Canon := by
  unfold State.counterRoom
  (repeat' split)
  · exact hgo _ h
  · exact h
  · exact h

theorem State.leaderOnly_canon : (s.leaderOnly go).state.Canon := by
  unfold State.leaderOnly
  split
  · exact hgo _ h
  · exact h

theorem State.tarnTurn_canon (acc core bank row0 n : Nat) (reads : Bool) :
    (s.tarnTurn acc core bank row0 n reads go).state.Canon := by
  unfold State.tarnTurn
  split
  · exact h
  · exact hgo _ h

theorem State.mapTurn_canon : (s.mapTurn go).state.Canon := by
  have hg := hgo s h
  unfold State.mapTurn
  dsimp only
  split
  · exact h
  · exact h
  · cases e : go s <;> (rw [e] at hg; exact hg)

theorem State.engRoom_canon (n cls : Nat) : (s.engRoom n cls go).state.Canon := by
  unfold State.engRoom
  (repeat' split)
  · exact hgo _ h
  · exact h
  · exact h

theorem engPass_canon (i : Instr) (c : EngChk) : (engPass i c s go).state.Canon := by
  unfold engPass
  grind [!State.engPages_canon, !State.engBo_canon, Res.state]

theorem cbloadCheck_canon (a b : Src) (r : Regs) : (cbloadCheck a b s r go).state.Canon := by
  unfold cbloadCheck
  grind [!State.engPages_canon, Res.state]

theorem State.afterInv_canon : (s.afterInv go).state.Canon := by
  unfold State.afterInv
  (repeat' split)
  · exact h
  · exact h
  · exact hgo _ h

end

theorem State.access_canon {go : State → Place → Res} (hgo : ∀ u p, u.Canon → (go u p).state.Canon) (va : DWord) (n : Nat) (k : AccKind) :
    (s.access va n k go).state.Canon := by
  have hc := check_memwf s.curAs s.curView va n k h
  unfold State.access
  split <;> rename_i e <;> rw [e] at hc
  · exact hc
  · exact hc
  · exact State.unlessBlocked_canon hc (fun _ hu => hgo _ _ hu) _

theorem State.withBank_canon {go : State → Nat → Res} (hgo : ∀ u b, u.Canon → (go u b).state.Canon) (k : BitVec 6) :
    (s.withBank k go).state.Canon := by
  unfold State.withBank
  split
  · exact h
  · exact hgo _ _ h

theorem State.recordAt_canon {go : State → List Byte → Bool → Res} (hgo : ∀ u bs b, u.Canon → (go u bs b).state.Canon) (c : Cmd)
    (node off n : Nat) : (s.recordAt c node off n go).state.Canon := by
  have hp := State.walkerPlace_canon h (c.nodeAddr node + BitVec.ofNat 64 off) n
  unfold State.recordAt
  split
  · exact h
  split <;> rename_i e <;> rw [e] at hp
  · exact hp
  · exact hp
  · exact hgo _ _ _ (demandPlace_memwf _ hp)

theorem State.withCmd_canon {go : Cmd → Res} (hgo : ∀ c, (go c).state.Canon) : (s.withCmd go).state.Canon := by
  unfold State.withCmd
  split
  · exact hgo _
  · exact h

theorem engEntry_canon {go : EngChk → State → Res} (hgo : ∀ c u, u.Canon → (go c u).state.Canon) (i : Instr) (c : EngChk) :
    (engEntry i c s go).state.Canon := by
  unfold engEntry
  split
  · exact h
  have hr := resolve_memwf s.curAs s.curView (c.p.src + BitVec.ofNat 64 (16 * c.p.n)) 16 .load h
  dsimp only
  split <;> rename_i e <;> rw [e] at hr
  · exact hr
  · exact hr
  have hd := demandPlace_memwf ‹Place› hr
  split
  · exact State.Canon.of_mem_eq hd (State.asyncTrap_mem ..)
  split
  · exact hd
  · exact engPass_canon hd (fun _ hu => hgo _ _ hu) _ _

theorem engCheck_canon {go : EngChk → State → Res} (hgo : ∀ c u, u.Canon → (go c u).state.Canon) (i : Instr) (a b : Src) (r : Regs) :
    (engCheck i a b s r go).state.Canon := by
  unfold engCheck
  dsimp only
  split
  · exact h
  split
  · exact h
  split
  · exact engEntry_canon h hgo _ _
  · exact engPass_canon h (fun _ hu => hgo _ _ hu) _ _

theorem basCheck_canon {go : Nat → State → Res} (hgo : ∀ n u, u.Canon → (go n u).state.Canon) (a : Src) (m : BasMod) (r : Regs) :
    (basCheck a m s r go).state.Canon := by
  unfold basCheck
  split
  · exact h
  split
  · exact h
  · exact hgo _ _ h

theorem jumpTo_canon {link : State → State} (hl : ∀ u : State, u.Canon → (link u).Canon) (t : DWord) :
    (jumpTo s t link).state.Canon := by
  have hc := State.checkTarget_canon h s.curAs s.curView t
  unfold jumpTo
  split <;> rename_i e <;> rw [e] at hc
  · exact hl _ hc
  · exact hc
  · exact hc

theorem arrive_canon (i : Instr) (r : Regs) : (arrive i s r).state.Canon := by
  unfold arrive
  split
  · exact h
  · exact h.of_mem_eq (by simp [Res.state])

theorem ldsAt_canon (off : Nat) (w : Width) (d : BitVec 11) : (ldsAt off w d s).state.Canon := by
  refine State.stashAcc_canon h (fun u hu => ?_) _ _ _
  dsimp only
  split
  · exact hu.of_mem_eq (State.poisoned_mem ..)
  · exact hu.of_mem_eq (by simp [Res.state])

theorem stsAt_canon (off : Nat) (bs : List Byte) : (stsAt off bs s).state.Canon := by
  refine State.stashAcc_canon h (fun u hu => ?_) _ _ _
  exact State.stashPut_canon hu ..

theorem engBody_canon (i : Instr) (hd : Hdr) (a b : Src) (r : Regs) : (engBody i hd a b s r).state.Canon := by
  refine engCheck_canon h (fun c u hu => State.engRoom_canon hu (fun v hv => ?_) _ _) _ _ _ _
  dsimp only
  split
  · exact hv
  · split
    · exact hv.of_mem_eq (State.accept_mem ..)
    · exact hv.of_mem_eq (State.accept_mem ..)

theorem remoteEnter_canon (i : Instr) (kind : RKind) (hold : Bool) (stream d : Nat) (owner : BitVec 11) (va data expect : DWord)
    (contrib : Option Contribution) : (remoteEnter i kind hold stream d owner va data expect contrib s).state.Canon := by
  unfold remoteEnter
  dsimp only
  split
  · exact h
  refine State.releaseThen_canon h (fun u hu => ?_) _ _
  have hc : (if hold then (u, 0) else u.count (u.crewOf s.t) 4).1.Canon := by
    split
    · exact hu
    · exact hu
  generalize (if hold then (u, 0) else u.count (u.crewOf s.t) 4) = v at hc
  split
  · exact State.enterAcc_canon hc _
  · exact State.enterAcc_canon hc _

theorem remoteIssue_canon (i : Instr) (kind : RKind) (hold : Bool) (stream : BitVec 3) (d : BitVec 11) (a : Src) (data expect : DWord)
    (r : Regs) : (remoteIssue i kind hold stream d a data expect s r).state.Canon := by
  have henter : ∀ (pkg : BitVec 11) (va : DWord) (u : State), u.Canon → State.Canon (Res.state (u.budget fun u =>
      if hold then remoteEnter i kind hold stream.toNat d.toNat pkg va data expect none u
      else u.counterRoom 4 (remoteEnter i kind hold stream.toNat d.toNat pkg va data expect none))) := by
    intro pkg va u hu
    refine State.budget_canon hu fun v hv => ?_
    split
    · exact remoteEnter_canon hv ..
    · exact State.counterRoom_canon hv (fun _ hw => remoteEnter_canon hw ..) _
  unfold remoteIssue
  dsimp only
  split
  · exact h
  split
  · exact h
  split
  · exact h
  split
  · exact State.awaitRemote_canon h (henter _ _)
  · exact henter _ _ _ h

end

section
variable {s : State} (h : s.Canon)
include h

theorem mmaBody_canon (i : Instr) (r : Regs) : (mmaBody i s r).state.Canon := by
  refine State.leaderOnly_canon h fun u hu => ?_
  dsimp only
  split
  · exact hu
  split
  · exact hu
  split
  · exact hu
  refine State.counterRoom_canon hu (fun v hv => ?_) _
  refine foldl_canon (fun w k hw => State.Canon.of_mem_eq hw (by rw [ite_mem, State.evalLatch_mem, ite_self])) _ ?_
  exact hv.of_mem_eq ((State.hold_mem ..).trans (State.count_mem ..))

theorem State.stallInv_canon {f : State → State} (hf : ∀ u : State, u.Canon → (f u).Canon) : (s.stallInv f).state.Canon := by
  unfold State.stallInv
  split
  · exact h
  · exact State.Canon.of_mem_eq (hf _ h) ((State.updThr_mem ..).trans (State.startInv_mem _))

theorem regPart_canon {t : State} (ht : t.Canon) (p : Nat) : Keeps (s.regPart p t) := by
  unfold State.regPart
  split
  · exact keeps_next ht
  · exact keeps_next h

theorem owned_canon (cl : Nat) (hd : ReqHdr) (req : OwnerReq) : Keeps (s.owned cl hd req) := by
  unfold State.owned
  split
  · dsimp only
    exact keeps_next (State.afterAnswer_canon (State.Canon.of_mem_eq (State.ownerReq_canon h ..) (State.answer_mem ..)) _ _)
  · exact keeps_next h

end

end Sys2Proof.Machine
end

section
/-! SUPPORT. Each instruction and each event keeps memory canonical. -/

namespace Sys2Proof.Machine

theorem execBra_canon {s : State} (h : s.Canon) {hd : Hdr} {t : Target} : Keeps (execBra hd t s) := by
  unfold execBra
  refine issueI_canon h fun u r hu => ?_
  grind [Res.state, !jumpTo_canon]

theorem execBrx_canon {s : State} (h : s.Canon) {hd : Hdr} {a : Src} : Keeps (execBrx hd a s) := by
  unfold execBrx
  refine issueI_canon h fun u r hu => ?_
  grind [Res.state, !jumpTo_canon]

theorem execCall_canon {s : State} (h : s.Canon) {hd : Hdr} {t : Target} : Keeps (execCall hd t s) := by
  unfold execCall
  refine issueI_canon h fun u r hu => ?_
  grind [Res.state, !jumpTo_canon, State.updRegs_mem]

theorem execCallx_canon {s : State} (h : s.Canon) {hd : Hdr} {a : Src} : Keeps (execCallx hd a s) := by
  unfold execCallx
  refine issueI_canon h fun u r hu => ?_
  grind [Res.state, !jumpTo_canon, State.updRegs_mem]

theorem execRet_canon {s : State} (h : s.Canon) {hd : Hdr} {a : Src} : Keeps (execRet hd a s) := by
  unfold execRet
  refine issueI_canon h fun u r hu => ?_
  grind [Res.state, !jumpTo_canon]

theorem execTilebar_canon {s : State} (h : s.Canon) {hd : Hdr} : Keeps (execTilebar hd s) := by
  unfold execTilebar
  refine issueI_canon h fun u r hu => ?_
  grind [Res.state, !State.releaseStall_canon, State.tryTilebar_mem, State.hold_mem]

theorem execLoopd_canon {s : State} (h : s.Canon) {hd : Hdr} {a : Src} {t : Target} : Keeps (execLoopd hd a t s) := by
  unfold execLoopd
  refine issueI_canon h fun u r hu => ?_
  grind [Res.state, !jumpTo_canon, State.updRegs_mem]

theorem execLaunch_canon {s : State} (h : s.Canon) {hd : Hdr} {a b : Src} : Keeps (execLaunch hd a b s) := by
  unfold execLaunch
  refine issueI_canon h fun u r hu => ?_
  refine State.awaitRemote_canon hu fun v hv => State.access_canon hv (fun w p hw => ?_) _ _ _
  have hd := demandPlace_memwf p hw
  dsimp only
  split
  · exact hd
  have hr := resolve_memwf (w.demandPlace p).curAs (w.demandPlace p).curView (r.rx b) 8 .store hd
  split <;> rename_i e <;> rw [e] at hr
  · exact hr
  · exact hr
  split
  · exact hr
  · exact hr
  split
  · exact hr
  split
  · exact hr
  refine State.releaseThen_canon hr (fun x hx => ?_) _ _
  have hq := demandRange_memwf (‹LaunchQ›).base.toNat 24 hx
  split
  · exact hq
  refine State.unlessBlocked_canon hq (fun y hy => ?_) _
  have hres := State.reserve_canon hy ‹LaunchQ› (y.fetchPlace y.curView p)
  split
  · exact State.publish_canon hres _
  · exact hres

theorem execLd_canon {s : State} (h : s.Canon) {hd : Hdr} {a b : Src} {m : MemMod} : Keeps (execLd hd a b m s) := by
  unfold execLd
  refine issueI_canon h fun u r hu => ?_
  dsimp only
  split
  · split
    · exact hu
    have hp := State.walkerPlace_canon hu (loadEa r a b m) (Width.bytes m.width)
    split <;> rename_i e <;> rw [e] at hp
    · have hd := demandPlace_memwf ‹Place› hp
      split
      · exact hd
      · exact State.Canon.of_mem_eq hd (State.flight_mem ..)
    · exact hp
    · exact hp
  · refine State.budget_canon hu fun v hv => State.access_canon hv (fun w p hw => ?_) _ _ _
    exact State.loadAt_canon hw ..

theorem execSt_canon {s : State} (h : s.Canon) {hd : Hdr} {a b : Src} {m : MemMod} : Keeps (execSt hd a b m s) := by
  unfold execSt
  refine issueI_canon h fun u r hu => ?_
  refine State.budget_canon hu fun v hv => State.access_canon hv (fun w p hw => ?_) _ _ _
  exact storePlace_memwf _ _ _ hw

theorem execLda_canon {s : State} (h : s.Canon) {hd : Hdr} {a b : Src} {m : MemMod} : Keeps (execLda hd a b m s) := by
  unfold execLda
  refine issueI_canon h fun u r hu => ?_
  refine State.budget_canon hu fun v hv => State.access_canon hv (fun w p hw => ?_) _ _ _
  exact State.loadAt_canon hw ..

theorem execStrel_canon {s : State} (h : s.Canon) {hd : Hdr} {a b : Src} {m : MemMod} : Keeps (execStrel hd a b m s) := by
  unfold execStrel
  refine issueI_canon h fun u r hu => ?_
  have hgo : ∀ v : State, v.Canon → (v.budget fun s => s.access (storeEa r a m) (Width.bytes m.width) .store fun s p =>
      s.releaseThen (s.coreOf s.t) m.scope fun s => .none (s.storePlace (s.coreOf s.t) p (r.storeBytes m.width b))).state.Canon :=
    fun v hv => State.budget_canon hv fun w hw => State.access_canon hw (fun x p hx => State.releaseThen_canon hx (fun y hy => by
      exact storePlace_memwf _ _ _ hy) _ _) _ _ _
  dsimp only
  split
  · exact State.awaitRemote_canon hu hgo
  · exact hgo _ hu

theorem execLds_canon {s : State} (h : s.Canon) {hd : Hdr} {a b : Src} {w : Width} : Keeps (execLds hd a b w s) := by
  unfold execLds
  refine issueI_canon h fun u r hu => ?_
  grind [Res.state, !ldsAt_canon]

theorem execSts_canon {s : State} (h : s.Canon) {hd : Hdr} {a b : Src} {w : Width} {off : BitVec 8} :
    Keeps (execSts hd a b w off s) := by
  unfold execSts
  refine issueI_canon h fun u r hu => ?_
  grind [Res.state, !stsAt_canon]

theorem execLdx_canon {s : State} (h : s.Canon) {hd : Hdr} {a b : Src} {sn : BitVec 6} {bfp4 : Bool} :
    Keeps (execLdx hd a b sn bfp4 s) := by
  unfold execLdx
  refine issueI_canon h fun u r hu => ?_
  dsimp only
  split
  · exact hu
  · refine State.budgetFor_canon hu (fun v hv => State.access_canon hv (fun w p hw => State.access_canon hw (fun x q hx => ?_) _ _ _) _ _ _) _
    exact State.Canon.of_mem_eq (demandPlace_memwf q (demandPlace_memwf p hx)) (State.flight_mem ..)

theorem execSmap_canon {s : State} (h : s.Canon) {hd : Hdr} {a : Src} : Keeps (execSmap hd a s) := by
  unfold execSmap
  refine issueI_canon h fun u r hu => ?_
  refine State.mapTurn_canon hu fun v hv => ?_
  dsimp only
  (repeat' split) <;> exact hv

theorem execSunmap_canon {s : State} (h : s.Canon) {hd : Hdr} {a : Src} : Keeps (execSunmap hd a s) := by
  unfold execSunmap
  refine issueI_canon h fun u r hu => ?_
  refine State.mapTurn_canon hu fun v hv => ?_
  have hc := fun w ls => State.cleanLines_canon ls hv w
  grind [Res.state, !State.dropEntry_canon]

theorem execSflush_canon {s : State} (h : s.Canon) {hd : Hdr} {a b : Src} {all : Bool} :
    Keeps (execSflush hd a b all s) := by
  unfold execSflush
  refine issueI_canon h fun u r hu => ?_
  refine State.mapTurn_canon hu fun v hv => ?_
  have hc := fun w ls => State.cleanLines_canon ls hv w
  grind [Res.state]

theorem execSinv_canon {s : State} (h : s.Canon) {hd : Hdr} {a b : Src} {all : Bool} : Keeps (execSinv hd a b all s) := by
  unfold execSinv
  refine issueI_canon h fun u r hu => ?_
  refine State.mapTurn_canon hu fun v hv => ?_
  dsimp only
  (repeat' split) <;> exact hv

theorem execAtom_canon {s : State} (h : s.Canon) {hd : Hdr} {a b : Src} {m : AtomMod} : Keeps (execAtom hd a b m s) := by
  unfold execAtom
  refine issueI_canon h fun u r hu => ?_
  refine State.atomOrder_canon hu (fun v hv => State.budget_canon hv fun w hw => State.access_canon hw (fun x p hx =>
    State.atomRelease_canon hx (fun y hy => ?_) _ _) _ _ _) _ _
  have ha := State.atomRead_canon hy p
  dsimp only
  split
  · exact State.Canon.of_mem_eq ha (State.flight_mem ..)
  · exact State.Canon.of_mem_eq (performPlace_memwf _ _ ha) ((State.flight_mem ..).trans (State.noteAtom_mem ..))

theorem execCas_canon {s : State} (h : s.Canon) {hd : Hdr} {a b : Src} {b64 : Bool} {order : Order} {scope : Scope} :
    Keeps (execCas hd a b b64 order scope s) := by
  unfold execCas
  refine issueI_canon h fun u r hu => ?_
  refine State.atomOrder_canon hu (fun v hv => State.budget_canon hv fun w hw => State.access_canon hw (fun x p hx =>
    State.atomRelease_canon hx (fun y hy => ?_) _ _) _ _ _) _ _
  have ha := State.atomRead_canon hy p
  dsimp only
  split
  · exact State.Canon.of_mem_eq ha (State.flight_mem ..)
  · refine State.Canon.of_mem_eq ?_ (State.flight_mem ..)
    split
    · exact performPlace_memwf _ _ ha
    · exact ha

theorem execSatom_canon {s : State} (h : s.Canon) {hd : Hdr} {a b : Src} {m : AtomMod} :
    Keeps (execSatom hd a b m s) := by
  unfold execSatom
  refine issueI_canon h fun u r hu => ?_
  grind [Res.state, !State.stashAcc_canon, State.poisoned_mem, !State.stashPut_canon, State.noteStash_mem, State.updRegs_mem]

theorem execRed_canon {s : State} (h : s.Canon) {hd : Hdr} {a b : Src} {m : AtomMod} : Keeps (execRed hd a b m s) := by
  unfold execRed
  refine issueI_canon h fun u r hu => ?_
  refine State.atomOrder_canon hu (fun v hv => State.budget_canon hv fun w hw => State.access_canon hw (fun x p hx =>
    State.atomRelease_canon hx (fun y hy => ?_) _ _) _ _ _) _ _
  have ha := State.atomRead_canon hy p
  exact State.Canon.of_mem_eq (performPlace_memwf _ _ ha) (State.noteAtom_mem ..)

theorem execFence_canon {s : State} (h : s.Canon) {hd : Hdr} {scope : Scope} : Keeps (execFence hd scope s) := by
  unfold execFence
  refine issueI_canon h fun u r hu => ?_
  have hgo : ∀ v : State, v.Canon → (v.releaseStall (v.coreOf v.t) scope .none).state.Canon :=
    fun v hv => State.releaseStall_canon hv (go := .none) (fun _ hw => hw) _ _
  dsimp only
  split
  · exact State.awaitRemote_canon hu hgo
  · exact hgo _ hu

theorem execBoadd_canon {s : State} (h : s.Canon) {hd : Hdr} {a b : Src} {scope : Scope} :
    Keeps (execBoadd hd a b scope s) := by
  unfold execBoadd
  refine issueI_canon h fun u r hu => ?_
  refine State.atomOrder_canon hu (fun v hv => State.budget_canon hv fun w hw => State.access_canon hw (fun x p hx =>
    State.releaseThen_canon hx (fun y hy => ?_) _ _) _ _ _) _ _
  have ha := State.atomRead_canon hy p
  exact State.Canon.of_mem_eq (performPlace_memwf _ _ ha) (noteAdvance_mem ..)

theorem execWaitge_canon {s : State} (h : s.Canon) {hd : Hdr} {a b : Src} {scope : Scope} {dl : Bool} {n : BitVec 6} :
    Keeps (execWaitge hd a b scope dl n s) := by
  unfold execWaitge
  refine issueI_canon h fun u r hu => ?_
  refine State.budget_canon hu fun v hv => ?_
  have hw := State.waitRead_canon hv v.curAs (v.coreOf v.t) (r.rx a)
  split <;> rename_i e <;> rw [e] at hw
  · exact hw
  · exact hw
  · (repeat' split) <;> exact hw

theorem execRld_canon {s : State} (h : s.Canon) {hd : Hdr} {a : Src} {w : Width} {acq : Bool} :
    Keeps (execRld hd a w acq s) := by
  unfold execRld
  refine issueI_canon h fun u r hu => ?_
  grind [Res.state, !remoteIssue_canon]

theorem execRst_canon {s : State} (h : s.Canon) {hd : Hdr} {a b : Src} {w : Width} {rel : Bool} {stream : BitVec 3} :
    Keeps (execRst hd a b w rel stream s) := by
  unfold execRst
  refine issueI_canon h fun u r hu => ?_
  grind [Res.state, !remoteIssue_canon]

theorem execRatom_canon {s : State} (h : s.Canon) {hd : Hdr} {a b : Src} {op : AtomOp} {ty : AtomTy} {order : Order} {stream : BitVec 3} {post : Bool} :
    Keeps (execRatom hd a b op ty order stream post s) := by
  unfold execRatom
  refine issueI_canon h fun u r hu => ?_
  grind [Res.state, !remoteIssue_canon]

theorem execRcas_canon {s : State} (h : s.Canon) {hd : Hdr} {a b : Src} {ty : AtomTy} {order : Order} :
    Keeps (execRcas hd a b ty order s) := by
  unfold execRcas
  refine issueI_canon h fun u r hu => ?_
  grind [Res.state, !remoteIssue_canon]

theorem execRboadd_canon {s : State} (h : s.Canon) {hd : Hdr} {a b : Src} {stream : BitVec 3} :
    Keeps (execRboadd hd a b stream s) := by
  unfold execRboadd
  refine issueI_canon h fun u r hu => ?_
  grind [Res.state, !remoteIssue_canon]

theorem execTkwait_canon {s : State} (h : s.Canon) {hd : Hdr} : Keeps (execTkwait hd s) := by
  unfold execTkwait
  refine issueI_canon h fun u r hu => ?_
  exact State.awaitRemote_canon hu fun _ hv => hv

theorem execTopkred_canon {s : State} (h : s.Canon) {hd : Hdr} {a b : Src} {stream : BitVec 3} :
    Keeps (execTopkred hd a b stream s) := by
  unfold execTopkred
  refine issueI_canon h fun u r hu => ?_
  refine State.budget_canon hu fun v hv => State.access_canon hv (fun w p hw => ?_) _ _ _
  have hd := demandPlace_memwf p hw
  dsimp only
  split
  · exact hd
  split
  · exact hd
  rename_i k _ _
  have hr := State.resolveRange_canon hd (w.demandPlace p).curAs (w.demandPlace p).curView (r.rx a) (8 * k.k) .load
  split <;> rename_i e <;> rw [e] at hr
  · exact hr
  · exact hr
  · exact State.counterRoom_canon hr (fun _ hx => remoteEnter_canon hx ..) _

theorem execGang_canon {s : State} (h : s.Canon) {hd : Hdr} {a : Src} {n : BitVec 3} : Keeps (execGang hd a n s) := by
  unfold execGang
  refine issueI_canon h fun u r hu => ?_
  refine State.leaderOnly_canon hu fun v hv => ?_
  have hg : ∀ ms, (v.setGang (v.crewOf v.t) ms).Canon := fun ms => hv.of_mem_eq (State.setGang_mem ..)
  grind [Res.state]

theorem execMfmt_canon {s : State} (h : s.Canon) {hd : Hdr} {afmt : MFmt} {op : MOp} : Keeps (execMfmt hd afmt op s) := by
  unfold execMfmt
  refine issueI_canon h fun u r hu => ?_
  exact State.leaderOnly_canon hu fun _ hv => hv

theorem execDptab_canon {s : State} (h : s.Canon) {hd : Hdr} {a : Src} {k : BitVec 2} : Keeps (execDptab hd a k s) := by
  unfold execDptab
  refine issueI_canon h fun u r hu => ?_
  refine State.leaderOnly_canon hu fun v hv => ?_
  have hr := State.resolveRange_canon hv v.curAs v.curView (r.rx a) 512 .load
  dsimp only
  split
  · exact hv
  split <;> rename_i e <;> rw [e] at hr
  · exact hr
  · exact hr
  have hd := State.demandAll_canon hr ‹List Place›
  split
  · exact hd.of_mem_eq (State.poisoned_mem ..)
  (repeat' split) <;> exact hd

theorem execMwload_canon {s : State} (h : s.Canon) {hd : Hdr} {a b : Src} {coded : Bool} {bfmt : MFmt} {stream : BitVec 3} :
    Keeps (execMwload hd a b coded bfmt stream s) := by
  unfold execMwload
  refine issueI_canon h fun u r hu => ?_
  refine State.leaderOnly_canon hu fun v hv => ?_
  extract_lets c va t enter ea
  have henter : ∀ (w : State) e fmt, w.Canon → (enter w e fmt).Canon := by
    intro w e fmt hw
    have ha : (w.accept (.mwload hd a b coded bfmt stream) 3 2 stream.toNat .core none 0 0 [va.toNat, e, t]).1.Canon :=
      State.Canon.of_mem_eq hw (State.accept_mem ..)
    exact State.Canon.of_mem_eq ha rfl
  split
  · exact hv
  split
  · split
    · exact hv
    have hr := resolve_memwf v.curAs v.curView ea 16 .load hv
    split <;> rename_i e <;> rw [e] at hr
    · exact hr
    · exact hr
    have hd := demandPlace_memwf ‹Place› hr
    dsimp only
    split
    · exact State.Canon.of_mem_eq hd (State.poisoned_mem ..)
    split
    · exact hd
    · refine State.counterRoom_canon hd (fun x hx => ?_) _
      exact henter _ _ _ hx
  split
  · exact hv
  have hr := State.resolveRange_canon hv v.curAs v.curView va (rawSymbols (fmtNo bfmt)) .load
  split <;> rename_i e <;> rw [e] at hr
  · exact hr
  · exact hr
  · refine State.counterRoom_canon hr (fun x hx => ?_) _
    exact henter _ _ _ hx

theorem execMma_canon {s : State} (h : s.Canon) {hd : Hdr} {a b : Src} {k : BitVec 6} {ovr : Bool} :
    Keeps (execMma hd a b k ovr s) := by
  unfold execMma
  exact issueI_canon h fun _ _ hu => mmaBody_canon hu _ _

theorem execMmaw_canon {s : State} (h : s.Canon) {hd : Hdr} {a b : Src} {k : BitVec 6} {ovr : Bool} :
    Keeps (execMmaw hd a b k ovr s) := by
  unfold execMmaw
  exact issueI_canon h fun _ _ hu => mmaBody_canon hu _ _

theorem execTalloc_canon {s : State} (h : s.Canon) {hd : Hdr} {a : Src} {k : BitVec 6} {s32 : Bool} :
    Keeps (execTalloc hd a k s32 s) := by
  unfold execTalloc
  refine issueI_canon h fun u r hu => ?_
  refine State.leaderOnly_canon hu fun v hv => ?_
  dsimp only
  (repeat' split) <;> exact hv

theorem execTfree_canon {s : State} (h : s.Canon) {hd : Hdr} {k : BitVec 6} : Keeps (execTfree hd k s) := by
  unfold execTfree
  refine issueI_canon h fun u r hu => ?_
  refine State.leaderOnly_canon hu fun v hv => State.withBank_canon hv (fun w bank hw => ?_) _
  dsimp only
  (repeat' split) <;> exact hw

theorem execTown_canon {s : State} (h : s.Canon) {hd : Hdr} {a b : Src} {k : BitVec 6} : Keeps (execTown hd a b k s) := by
  unfold execTown
  refine issueI_canon h fun u r hu => ?_
  refine State.leaderOnly_canon hu fun v hv => State.withBank_canon hv (fun w bank hw => ?_) _
  dsimp only
  (repeat' split) <;> exact hw

theorem execTzero_canon {s : State} (h : s.Canon) {hd : Hdr} {a b : Src} {k : BitVec 6} :
    Keeps (execTzero hd a b k s) := by
  unfold execTzero
  refine issueI_canon h fun u r hu => ?_
  refine State.leaderOnly_canon hu fun v hv => State.withBank_canon hv (fun w bank hw => ?_) _
  have ha : w.tarnAccept.1.Canon := hw.of_mem_eq (State.tarnAccept_mem w)
  dsimp only
  split
  · exact ha
  split
  · exact ha
  · refine State.tarnTurn_canon ha (fun x hx => ?_) _ _ _ _ _ _
    exact hx

theorem execTread_canon {s : State} (h : s.Canon) {hd : Hdr} {a : Src} {k : BitVec 6} : Keeps (execTread hd a k s) := by
  unfold execTread
  refine issueI_canon h fun u r hu => ?_
  refine State.leaderOnly_canon hu fun v hv => State.withBank_canon hv (fun w bank hw => ?_) _
  have ha : w.tarnAccept.1.Canon := hw.of_mem_eq (State.tarnAccept_mem w)
  have ht : w.tarnAccept.1.setTu.Canon := ha.of_mem_eq (State.setTu_mem _)
  dsimp only
  split
  · exact ha
  split
  · split
    · split
      · exact ha
      · exact ht
    split
    · exact ha
    · refine State.tarnTurn_canon ha (fun x hx => ?_) _ _ _ _ _ _
      exact hx
  · split
    · exact ha
    · exact ht

theorem execTwrite_canon {s : State} (h : s.Canon) {hd : Hdr} {a b : Src} {k : BitVec 6} :
    Keeps (execTwrite hd a b k s) := by
  unfold execTwrite
  refine issueI_canon h fun u r hu => ?_
  refine State.leaderOnly_canon hu fun v hv => State.withBank_canon hv (fun w bank hw => ?_) _
  have ha : w.tarnAccept.1.Canon := hw.of_mem_eq (State.tarnAccept_mem w)
  dsimp only
  split
  · exact ha
  split
  · split
    · exact ha
    split
    · exact ha
    · refine State.tarnTurn_canon ha (fun x hx => ?_) _ _ _ _ _ _
      exact hx
  · exact ha

theorem execTdrain_canon {s : State} (h : s.Canon) {hd : Hdr} {a b : Src} {k : BitVec 6} {fmt : DrFmt} {tr : DrTr} {clr : Bool} :
    Keeps (execTdrain hd a b k fmt tr clr s) := by
  unfold execTdrain
  refine issueI_canon h fun u r hu => ?_
  refine State.leaderOnly_canon hu fun v hv => State.withBank_canon hv (fun w bank hw => ?_) _
  extract_lets g core word row0 n al m i32 va tu
  refine Res.ite_canon hw (Res.ite_canon hw (Res.ite_canon hw (Res.ite_canon hw ?_)))
  have hp := State.engPages_canon [(false, va, (drRow fmt + drExp fmt) * n, true)] hw
  split <;> rename_i e <;> rw [e] at hp
  · exact hp
  · exact hp
  refine State.counterRoom_canon hp (fun x hx => ?_) _
  have ht : (if tu then x.setTu else x).Canon := State.Canon.of_mem_eq hx (by rw [ite_mem, State.setTu_mem, ite_self])
  have ha := State.Canon.of_mem_eq ht (State.accept_mem (if tu then x.setTu else x) (.tdrain hd a b k fmt tr clr) 4 2 0 .core none 0 0
    [va.toNat, word.toNat, bank, (x.part x.curAs.part).spread, m, if i32 then 1 else 0])
  exact State.Canon.of_mem_eq ha rfl

theorem execTstat_canon {s : State} (h : s.Canon) {hd : Hdr} {k : BitVec 6} : Keeps (execTstat hd k s) := by
  unfold execTstat
  refine issueI_canon h fun u r hu => ?_
  exact State.leaderOnly_canon hu fun _ hv => hv

theorem execCbload_canon {s : State} (h : s.Canon) {hd : Hdr} {a b : Src} : Keeps (execCbload hd a b s) := by
  unfold execCbload
  refine issueI_canon h fun u r hu => ?_
  refine cbloadCheck_canon hu (fun v hv => State.engRoom_canon hv (fun w hw => ?_) _ _) _ _ _
  split
  · exact hw
  · exact hw.of_mem_eq (State.accept_mem ..)

theorem execVpublish_canon {s : State} (h : s.Canon) {hd : Hdr} {a : Src} : Keeps (execVpublish hd a s) := by
  unfold execVpublish
  refine issueI_canon h fun u r hu => ?_
  refine State.budget_canon hu fun v hv => State.access_canon hv (fun w p hw => State.awaitRemote_canon hw fun x hx =>
    State.releaseThen_canon hx (fun y hy => ?_) _ _) _ _ _
  have ha := State.atomRead_canon hy p
  dsimp only
  split
  · exact State.Canon.of_mem_eq ha (State.poisoned_mem ..)
  split
  · exact ha
  · exact State.Canon.of_mem_eq (performPlace_memwf _ _ ha) (noteAdvance_mem ..)

theorem execVsnap_canon {s : State} (h : s.Canon) {hd : Hdr} {a : Src} : Keeps (execVsnap hd a s) := by
  unfold execVsnap
  refine issueI_canon h fun u r hu => ?_
  refine State.budget_canon hu fun v hv => State.access_canon hv (fun w p hw => ?_) _ _ _
  have hd := demandPlace_memwf p hw
  dsimp only
  split
  · exact State.Canon.of_mem_eq hd (State.poisoned_mem ..)
  · exact hd

theorem execBquery_canon {s : State} (h : s.Canon) {hd : Hdr} {a : Src} : Keeps (execBquery hd a s) := by
  unfold execBquery
  refine issueI_canon h fun u r hu => ?_
  dsimp only
  split
  · exact hu
  · exact State.budget_canon hu fun v hv => hv.of_mem_eq (State.flight_mem ..)

theorem execWdist_canon {s : State} (h : s.Canon) {hd : Hdr} {a : Src} {q : BitVec 4} : Keeps (execWdist hd a q s) := by
  unfold execWdist
  refine issueI_canon h fun u r hu => ?_
  refine State.withCmd_canon hu fun c => State.recordAt_canon hu (fun v bs bad hv => ?_) _ _ _ _
  split <;> exact hv

theorem execWnbrs_canon {s : State} (h : s.Canon) {hd : Hdr} {a b : Src} {m : BitVec 5} :
    Keeps (execWnbrs hd a b m s) := by
  unfold execWnbrs
  refine issueI_canon h fun u r hu => ?_
  refine State.withCmd_canon hu fun c => State.recordAt_canon hu (fun v bs bad hv => ?_) _ _ _ _
  have hv' : (if bad then v.updCurCmd fun c => { c with eccUe := true } else v).Canon := by
    split <;> exact hv
  refine State.Canon.of_mem_eq hv' ?_
  simp [Res.state]

theorem execWvisit_canon {s : State} (h : s.Canon) {hd : Hdr} {a : Src} : Keeps (execWvisit hd a s) := by
  unfold execWvisit
  refine issueI_canon h fun u r hu => ?_
  exact State.withCmd_canon hu fun _ => hu

theorem execWhop_canon {s : State} (h : s.Canon) {hd : Hdr} {a b : Src} {node : Bool} :
    Keeps (execWhop hd a b node s) := by
  unfold execWhop
  refine issueI_canon h fun u r hu => ?_
  refine State.withCmd_canon hu fun c => ?_
  have hp := State.nbPage_canon hu c.as (r.rx a) false
  split
  · exact hu
  split
  · exact hu
  split <;> rename_i e <;> rw [e] at hp
  · split <;> exact hp
  · exact hp

theorem execWspawn_canon {s : State} (h : s.Canon) {hd : Hdr} {b : Src} {off : BitVec 11} :
    Keeps (execWspawn hd b off s) := by
  unfold execWspawn
  refine issueI_canon h fun u r hu => ?_
  grind [Res.state, !State.checkTarget_canon]

theorem execSret_canon {s : State} (h : s.Canon) {hd : Hdr} {a b : Src} {act : SretAct} {pc : Bool} :
    Keeps (execSret hd a b act pc s) := by
  unfold execSret
  refine issueI_canon h fun u r hu => ?_
  split
  · exact hu
  split
  · exact hu
  split
  · exact hu
  · exact State.sretAct_canon (hu.of_mem_eq (State.freeSlotAt_mem ..)) ..

theorem execSysrd_canon {s : State} (h : s.Canon) {hd : Hdr} {a : Src} {reg : BitVec 10} :
    Keeps (execSysrd hd a reg s) := by
  unfold execSysrd
  refine issueI_canon h fun u r hu => ?_
  split
  · exact hu
  have hn : (if reg = 0x384 then u.updThr u.t fun y => { y with phcNs := u.links.phcNs } else u).Canon := by split <;> exact hu
  dsimp only
  refine State.Canon.of_mem_eq hn ?_
  simp only [Res.state]
  rw [ite_mem, State.winTouch_mem, ite_self]

theorem execSyswr_canon {s : State} (h : s.Canon) {hd : Hdr} {a b : Src} {reg : BitVec 10} :
    Keeps (execSyswr hd a b reg s) := by
  unfold execSyswr
  refine issueI_canon h fun u r hu => ?_
  refine State.afterInv_canon hu fun v hv => ?_
  split
  · exact hv
  dsimp only
  split
  · exact State.stallInv_canon hv fun w hw => State.sysWrite_canon hw ..
  split
  · exact hv
  · exact State.sysWrite_canon hv ..

theorem execCtxsave_canon {s : State} (h : s.Canon) {hd : Hdr} {a b : Src} : Keeps (execCtxsave hd a b s) := by
  unfold execCtxsave
  refine issueI_canon h fun u r hu => ?_
  dsimp only
  (iterate 4 split; exact hu)
  have hr := resolve_memwf u.curAs u.curView (r.rx b) 64 .load hu
  split <;> rename_i e <;> rw [e] at hr
  · exact hr
  · exact hr
  rename_i v pl
  have hd := demandPlace_memwf pl hr
  split
  · exact hd
  have hs := State.resolveRange_canon hd (v.demandPlace pl).curAs (v.demandPlace pl).curView (r.rx b)
    ((v.demandPlace pl).ctxSize u.curAs.part (r.rv a).toNat) .store
  split <;> rename_i e2 <;> rw [e2] at hs
  · exact hs
  · exact hs
  · exact hs.of_mem_eq (State.updCtx_mem ..)

theorem execCtxload_canon {s : State} (h : s.Canon) {hd : Hdr} {a b : Src} : Keeps (execCtxload hd a b s) := by
  unfold execCtxload
  refine issueI_canon h fun u r hu => ?_
  dsimp only
  split
  · exact hu
  split
  · split
    · exact hu
    · exact hu.of_mem_eq ((State.wake_mem _).trans (State.updCtx_mem ..))
  have hr := State.resolveRange_canon hu u.curAs u.curView (r.rx b) 64 .load
  split <;> rename_i e <;> rw [e] at hr
  · exact hr
  · exact hr
  rename_i v ps
  have hd := State.demandAll_canon hr ps
  have hs := State.resolveRange_canon hd (v.demandAll ps).curAs (v.demandAll ps).curView (r.rx b)
    (max 64 (imgNat ((v.demandAll ps).fetchAll (v.demandAll ps).curView ps) 0x18 8)) .load
  split <;> rename_i e2 <;> rw [e2] at hs
  · exact hs
  · exact hs
  rename_i w qs
  have hq := State.demandAll_canon hs qs
  split
  · exact hq
  split
  · exact hq
  · unfold loadBegin
    split
    · exact hq
    · exact hq.of_mem_eq (State.updCtx_mem ..)

theorem execTlbinv_canon {s : State} (h : s.Canon) {hd : Hdr} {a b : Src} {mode : TlbMode} :
    Keeps (execTlbinv hd a b mode s) := by
  unfold execTlbinv
  refine issueI_canon h fun u r hu => ?_
  refine State.afterInv_canon hu fun v hv => ?_
  extract_lets p x c va count
  split
  · exact hv
  split
  · exact hv
  split
  · exact hv
  exact State.stallInv_canon hv fun w hw => State.Canon.of_mem_eq hw (State.dropTlb_mem ..)

theorem execPreempt_canon {s : State} (h : s.Canon) {hd : Hdr} {a b : Src} : Keeps (execPreempt hd a b s) := by
  unfold execPreempt
  refine issueI_canon h fun u r hu => ?_
  dsimp only
  split
  · exact hu
  split
  · exact hu
  split
  · exact State.advanceOr_canon (s := State.updCtx ..) hu ..
  · refine State.Canon.of_mem_eq hu ?_
    simp [Res.state]

theorem execWgkill_canon {s : State} (h : s.Canon) {hd : Hdr} {a : Src} {scope : KillScope} :
    Keeps (execWgkill hd a scope s) := by
  unfold execWgkill
  refine issueI_canon h fun u r hu => ?_
  dsimp only
  split
  · exact hu
  split
  · exact hu
  · exact State.kill_canon hu ..

theorem execLease_canon {s : State} (h : s.Canon) {hd : Hdr} {a : Src} {rel : Bool} : Keeps (execLease hd a rel s) := by
  unfold execLease
  refine issueI_canon h fun u r hu => ?_
  refine State.access_canon hu (fun v pl hv => ?_) _ _ _
  have hd := demandPlace_memwf pl hv
  dsimp only
  split
  · exact hd
  split
  · exact hd
  split
  · split <;> exact State.Canon.of_mem_eq hd (by simp [Res.state])
  · exact (State.grantLease_canon hd ..).of_mem_eq (State.retryLeases_mem ..)

theorem execPgmig_canon {s : State} (h : s.Canon) {hd : Hdr} {a : Src} : Keeps (execPgmig hd a s) := by
  unfold execPgmig
  refine issueI_canon h fun u r hu => ?_
  refine State.access_canon hu (fun v pl hv => ?_) _ _ _
  extract_lets w n p va dst c as root w2 ahead
  have hd : w.Canon := demandPlace_memwf pl hv
  split
  · exact hd
  split
  · exact hd
  split
  · exact hd
  have hw : w2.Canon := demandWalk_memwf _ _ hd
  split
  · exact hw
  dsimp only
  split
  · exact hw
  split
  · exact hw
  · refine State.unlessBlocked_canon hw (fun x hx => ?_) _
    exact State.copyPage_canon (s := { x with migWait := x.migWait.erase x.t }) hx _ _ _

theorem execTkpost_canon {s : State} (h : s.Canon) {hd : Hdr} {a : Src} {abort : Bool} :
    Keeps (execTkpost hd a abort s) := by
  unfold execTkpost
  refine issueI_canon h fun u r hu => ?_
  refine State.access_canon hu (fun v pl hv => ?_) _ _ _
  have hd := demandPlace_memwf pl hv
  dsimp only
  split
  · exact hd
  split
  · exact hd
  · exact foldl_canon (fun _ _ hw => hw.of_mem_eq (State.answerTicket_mem ..)) _ hd

theorem execPairWord_canon {s : State} (h : s.Canon) {ha hb : Half} : Keeps (execPairWord ha hb s) := by
  intro s' hs
  unfold execPairWord at hs
  grind [State.raise_mem, !pairBody_canon, State.begin_mem]

theorem execUnassignedOpcode_canon {s : State} (h : s.Canon) {_w : DWord} {half : Bool} :
    Keeps (execUnassignedOpcode _w half s) := by
  intro s' hs
  unfold execUnassignedOpcode at hs
  grind [State.raise_mem]

theorem execWaitgeReread_canon {s : State} (h : s.Canon) {thread : Nat} : Keeps (execWaitgeReread thread s) := by
  intro s' hs
  unfold execWaitgeReread at hs
  grind [!State.waitgeTest_canon]

theorem execWaitgeDeadline_canon {s : State} (h : s.Canon) {thread : Nat} : Keeps (execWaitgeDeadline thread s) := by
  intro s' hs
  unfold execWaitgeDeadline at hs
  grind [!State.waitgeTest_canon, State.updThr_mem]

theorem execTrapRecordWrite_canon {s : State} (h : s.Canon) {core slot : Nat} :
    Keeps (execTrapRecordWrite core slot s) := by
  intro s' hs
  unfold execTrapRecordWrite at hs
  grind [!State.queueWrite_canon, State.updCore_mem]

theorem execServiceRecordWrite_canon {s : State} (h : s.Canon) {part : Nat} : Keeps (execServiceRecordWrite part s) := by
  intro s' hs
  unfold execServiceRecordWrite at hs
  grind [!State.queueWrite_canon, State.updPart_mem]

theorem execLaunchRecordTake_canon {s : State} (h : s.Canon) {part q : Nat} : Keeps (execLaunchRecordTake part q s) := by
  intro s' hs
  unfold execLaunchRecordTake at hs
  grind [!State.publishWaiting_canon, !demandRange_memwf, !State.takeRecord_canon, !State.leaseList_canon,
    !State.orAsk_canon, !State.endLaunch_canon, !State.enter_canon]

theorem execDependenceRetest_canon {s : State} (h : s.Canon) {launch : Nat} : Keeps (execDependenceRetest launch s) := by
  intro s' hs
  unfold execDependenceRetest at hs
  grind [!State.depsMet_canon, !State.orAsk_canon, !State.tryLeave_canon]

theorem execLeaseRetry_canon {s : State} (h : s.Canon) {launch : Nat} : Keeps (execLeaseRetry launch s) := by
  intro s' hs
  unfold execLeaseRetry at hs
  grind [!State.depsMet_canon, !State.orAsk_canon, !State.tryLeave_canon]

theorem execWorkgroupDistribution_canon {s : State} (h : s.Canon) {launch : Nat} :
    Keeps (execWorkgroupDistribution launch s) := by
  intro s' hs
  unfold execWorkgroupDistribution at hs
  grind [State.carveAsk_mem, place_mem, admitTo_mem]

theorem execWorkgroupPark_canon {s : State} (h : s.Canon) {core : Nat} : Keeps (execWorkgroupPark core s) := by
  intro s' hs
  unfold execWorkgroupPark at hs
  grind [State.parkEligible_mem, !State.moveOut_canon]

theorem execForcedPark_canon {s : State} (h : s.Canon) {core : Nat} : Keeps (execForcedPark core s) := by
  intro s' hs
  unfold execForcedPark at hs
  grind [State.stopOnly_mem, State.updWg_mem, !State.moveOut_canon, State.parkWg_mem]

theorem execWorkgroupExit_canon {s : State} (h : s.Canon) {wg : Nat} : Keeps (execWorkgroupExit wg s) := by
  intro s' hs
  unfold execWorkgroupExit at hs
  grind [!State.releaseLines_canon, State.tryTilebar_mem, State.freeWg_mem]

theorem execLaunchComplete_canon {s : State} (h : s.Canon) {launch : Nat} : Keeps (execLaunchComplete launch s) := by
  intro s' hs
  unfold execLaunchComplete at hs
  grind [!State.endLaunch_canon, !State.askBlocked_canon, State.updCtx_mem]

theorem execEngineOperationComplete_canon {s : State} (h : s.Canon) {op : Nat} :
    Keeps (execEngineOperationComplete op s) := by
  unfold execEngineOperationComplete
  split
  · exact keeps_next h
  rename_i o _
  have hrun := State.opRun_canon h o
  split
  · cases hr : s.opRun o with
    | mk r k =>
      rw [hr] at hrun
      cases r with
      | ok u =>
        have hfin := State.opFinish_canon (s := u) hrun op o
        dsimp only
        split <;> rename_i e2 <;> (try rw [e2] at hfin)
        · exact keeps_next hfin
        · exact keeps_next (State.opFail_canon hfin ..)
        · exact keeps_next h
      | fail u i => exact keeps_next (State.opFail_canon hrun ..)
      | hold u i => exact keeps_next h
      | busy u => exact keeps_next h
  · split
    · split
      · exact keeps_next (State.opEnd_canon h ..)
      · exact keeps_next h
    · exact keeps_next h

theorem execEngineOperationHeld_canon {s : State} (h : s.Canon) {op : Nat} : Keeps (execEngineOperationHeld op s) := by
  unfold execEngineOperationHeld
  split
  · exact keeps_next h
  rename_i o _
  have hrun := State.opRun_canon h o
  have hdrain := State.drainRun_canon 1537 h o o.prog
  split
  · cases hr : s.opRun o with
    | mk r k =>
      rw [hr] at hrun
      cases r with
      | ok u =>
        have hfin := State.opFinish_canon (s := u) hrun op o
        dsimp only
        split <;> rename_i e2 <;> (try rw [e2] at hfin)
        · exact keeps_next (State.Canon.of_mem_eq hfin (State.opHold_mem ..))
        · exact keeps_next hfin
        · exact keeps_next h
      | fail u i => exact keeps_next h
      | hold u i => exact keeps_next (State.Canon.of_mem_eq hrun (State.opHold_mem ..))
      | busy u => exact keeps_next hrun
  split
  · split <;> rename_i e <;> (try rw [e] at hdrain)
    · exact keeps_next (State.Canon.of_mem_eq hdrain (State.opHold_mem ..))
    · exact keeps_next hdrain
    · exact keeps_next h
  · exact keeps_next h

theorem execPassComplete_canon {s : State} (h : s.Canon) {cluster : Nat} : Keeps (execPassComplete cluster s) := by
  unfold execPassComplete
  split
  · exact keeps_next h
  split
  · exact keeps_next h
  split
  · exact keeps_next h
  refine keeps_next (State.Canon.of_mem_eq ?_ (State.wake_mem _))
  refine foldl_canon (fun _ _ hu => hu.of_mem_eq (State.countDone_mem ..)) _ ?_
  split <;> exact h

theorem execTileLatch_canon {s : State} (h : s.Canon) {tile : Nat} : Keeps (execTileLatch tile s) := by
  unfold execTileLatch
  split
  · exact keeps_next h
  rename_i t _
  split
  · exact keeps_next h
  rename_i o _
  split
  · have hf := State.tileFetch_canon h t o
    split <;> (try rename_i e) <;> (try rw [e] at hf)
    · refine keeps_next (State.opLeave_canon ?_ _ _)
      split
      · exact hf
      · exact State.Canon.of_mem_eq hf (State.setTileBits_mem ..)
    · exact keeps_next (State.tileFail_canon hf ..)
    · exact keeps_next h
  · exact keeps_next h

theorem execTileFetchHeld_canon {s : State} (h : s.Canon) {tile : Nat} : Keeps (execTileFetchHeld tile s) := by
  unfold execTileFetchHeld
  split
  · exact keeps_next h
  rename_i t _
  split
  · exact keeps_next h
  rename_i o _
  split
  · have hf := State.tileFetch_canon h t o
    split <;> (try rename_i e) <;> (try rw [e] at hf)
    · exact keeps_next (State.Canon.of_mem_eq hf (State.opHold_mem ..))
    · exact keeps_next hf
    · exact keeps_next h
  · exact keeps_next h

theorem execTdrainComplete_canon {s : State} (h : s.Canon) {op : Nat} : Keeps (execTdrainComplete op s) := by
  unfold execTdrainComplete
  split
  · exact keeps_next h
  rename_i o _
  have hdrain := State.drainRun_canon 1537 h o o.prog
  split
  · split <;> (try rename_i e) <;> (try rw [e] at hdrain)
    · exact keeps_next (State.opLeave_canon hdrain ..)
    · exact keeps_next (State.drainFail_canon hdrain ..)
    · exact keeps_next h
  · exact keeps_next h

theorem execBasinCommandStart_canon {s : State} (h : s.Canon) {cmd : Nat} : Keeps (execBasinCommandStart cmd s) := by
  unfold execBasinCommandStart
  split
  · exact keeps_next h
  rename_i c _
  split
  · exact keeps_next h
  have hdrop : (if c.kind = 1 then (s, .ok ()) else s.dropCheck c).1.Canon := by
    split
    · exact h
    · exact State.dropCheck_canon h c
  split <;> (try rename_i e) <;> (try rw [e] at hdrop)
  · exact keeps_next (State.cmdDrop_canon hdrop ..)
  · exact keeps_next h
  rename_i u
  extract_lets v
  have hv : v.Canon := by
    unfold v
    split <;> exact hdrop
  have hchk : (if c.kind = 1 then v.checkSnap c (BitVec.ofNat 64 (c.d 0 64)) else if c.kind = 2 then v.checkScan c
      else v.checkRows c).1.Canon := by
    (repeat' split)
    · exact State.checkSnap_canon hv ..
    · exact State.checkScan_canon hv _
    · exact State.checkRows_canon hv _
  split <;> (try rename_i e2) <;> (try rw [e2] at hchk)
  · exact keeps_next h
  · exact keeps_next (State.Canon.of_mem_eq hchk (State.cmdReject_mem ..))
  · refine keeps_next ?_
    rename_i w snap
    cases hb : w.cmdBegin cmd c snap with
    | none => exact h
    | some x => exact State.cmdBegin_canon hchk _ _ _ hb

theorem execSearchForward_canon {s : State} (h : s.Canon) {cmd : Nat} : Keeps (execSearchForward cmd s) := by
  unfold execSearchForward
  split
  · exact keeps_next h
  rename_i c _
  split
  · exact keeps_next h
  have hdrop := State.dropCheck_canon h c
  split <;> (try rename_i e) <;> (try rw [e] at hdrop)
  · exact keeps_next (State.cmdDrop_canon hdrop ..)
  · exact keeps_next h
  · refine keeps_next ?_
    rename_i w
    cases hb : w.frontCheck cmd c with
    | none => exact h
    | some x => exact State.frontCheck_canon hdrop _ _ hb

theorem execBasinCommandComplete_canon {s : State} (h : s.Canon) {cmd : Nat} :
    Keeps (execBasinCommandComplete cmd s) := by
  unfold execBasinCommandComplete
  split
  · exact keeps_next h
  rename_i c _
  split
  · exact keeps_next h
  have hwork := State.cmdWork_canon h c
  split <;> (try rename_i e) <;> (try rw [e] at hwork)
  · rename_i u c'
    have hfin := State.cmdFinish_canon (s := u) hwork c'
    split <;> (try rename_i e2) <;> (try rw [e2] at hfin)
    · exact keeps_next (State.cmdLeave_canon (s := State.updCmd ..) hfin ..)
    · exact keeps_next (State.cmdDrop_canon (s := State.updCmd ..) hfin ..)
    · exact keeps_next hfin
    · exact keeps_next h
  · exact keeps_next hwork
  · exact keeps_next h

theorem execRemoteAccessArrival_canon {s : State} (h : s.Canon) {pkt : RPacket} :
    Keeps (execRemoteAccessArrival pkt s) := by
  intro s' hs
  unfold execRemoteAccessArrival at hs
  grind [State.ingress_mem, !State.ownerHandle_canon]

theorem execRemoteReply_canon {s : State} (h : s.Canon) {acc : Nat} {out : ROutcome} :
    Keeps (execRemoteReply acc out s) := by
  unfold execRemoteReply
  split
  · exact keeps_next h
  split
  · exact keeps_next h
  split
  · exact keeps_next h
  rename_i u hh
  have hu : u.Canon := h.of_mem_eq (State.mem_of_heard hh)
  split
  · exact keeps_next (State.finishAcc_canon (hu.of_mem_eq ((State.heldOn_mem ..).trans (State.accepted_mem ..))) _)
  · split
    · exact keeps_next (State.finishAcc_canon (hu.of_mem_eq (State.stopThread_mem ..)) _)
    · exact keeps_next (State.finishAcc_canon hu _)

theorem execTicketReceived_canon {s : State} (h : s.Canon) {acc : Nat} {tkid : BitVec 16} :
    Keeps (execTicketReceived acc tkid s) := by
  unfold execTicketReceived
  split
  · exact keeps_next h
  split
  · exact keeps_next h
  split
  · exact keeps_next h
  rename_i u hh
  have hu : u.Canon := h.of_mem_eq (State.mem_of_heard hh)
  split
  · exact keeps_next (hu.of_mem_eq (State.send_mem ..))
  split
  · exact keeps_next (State.sendAcc_canon (s := State.updAcc ..) hu _)
  · exact keeps_next hu

theorem execReplayNotice_canon {s : State} (h : s.Canon) {owner : BitVec 11} {tkid : BitVec 16} :
    Keeps (execReplayNotice owner tkid s) := by
  unfold execReplayNotice
  split
  · exact keeps_next h
  rename_i u hh
  have hu : u.Canon := h.of_mem_eq (State.mem_of_heard hh)
  refine keeps_next (State.pump_canon (foldl_canon (fun v i hv => ?_) _ ?_))
  · exact State.Canon.of_mem_eq hv (State.updAcc_mem ..)
  · exact hu

theorem execTicketAbort_canon {s : State} (h : s.Canon) {acc : Nat} {tkid : BitVec 16} :
    Keeps (execTicketAbort acc tkid s) := by
  unfold execTicketAbort
  split
  · exact keeps_next h
  split
  · exact keeps_next h
  rename_i u hh
  have hu : u.Canon := h.of_mem_eq (State.mem_of_heard hh)
  extract_lets ids v
  have hv : v.Canon := foldl_canon (fun _ _ hw => State.abortAcc_canon hw ..) _ hu
  split
  · exact keeps_next hv
  · exact keeps_next (hv.of_mem_eq (State.send_mem ..))

theorem execReplayRecordRelease_canon {s : State} (h : s.Canon) {src : BitVec 11} {acc : Nat} :
    Keeps (execReplayRecordRelease src acc s) := by
  unfold execReplayRecordRelease
  split
  · exact keeps_next h
  rename_i u hh
  have hu : u.Canon := h.of_mem_eq (State.mem_of_heard hh)
  exact keeps_next (foldl_canon (fun _ _ hv => hv.of_mem_eq (State.dropTicket_mem ..)) _ hu)

theorem execTopkredContribution_canon {s : State} (h : s.Canon) {k : Contribution} :
    Keeps (execTopkredContribution k s) := by
  unfold execTopkredContribution
  split
  · exact keeps_next h
  split
  · exact keeps_next h
  rename_i u hh
  exact keeps_next (State.takeContrib_canon (h.of_mem_eq (State.mem_of_heard hh)) ..)

theorem execContextStopped_canon {s : State} (h : s.Canon) {part : Nat} {ctx : BitVec 16} :
    Keeps (execContextStopped part ctx s) := by
  intro s' hs
  unfold execContextStopped at hs
  grind [!State.advanceAll_canon, State.updCtx_mem]

theorem execCtxsaveComplete_canon {s : State} (h : s.Canon) {part : Nat} {ctx : BitVec 16} :
    Keeps (execCtxsaveComplete part ctx s) := by
  unfold execCtxsaveComplete
  dsimp only
  split
  · have hrel := State.releaseWgs_canon (s.imageWgs part ctx.toNat) h
    split <;> rename_i e <;> rw [e] at hrel
    · exact keeps_next hrel
    · split
      · exact keeps_next (State.askBlocked_canon hrel _)
      · rename_i e2
        refine keeps_next (State.advanceOr_canon (State.Canon.of_mem_eq (State.writeImage_canon hrel _ _ e2) ?_) ..)
        exact (State.updCtx_mem ..).trans (State.ctxFree_mem ..)
  · exact keeps_next h

theorem execCtxloadRestore_canon {s : State} (h : s.Canon) {part : Nat} {ctx : BitVec 16} :
    Keeps (execCtxloadRestore part ctx s) := by
  intro s' hs
  unfold execCtxloadRestore at hs
  grind [!State.restore_canon, State.updCtx_mem, !State.advanceOr_canon, State.wake_mem, State.updThr_mem]

theorem execDataReturn_canon {s : State} (h : s.Canon) {load : Nat} : Keeps (execDataReturn load s) := by
  intro s' hs
  unfold execDataReturn at hs
  grind [State.updWlk_mem, State.asyncTrap_mem, !State.released_canon, State.updThr_mem]

theorem execWritePerformed_canon {s : State} (h : s.Canon) {w : Nat} : Keeps (execWritePerformed w s) := by
  intro s' hs
  unfold execWritePerformed at hs
  grind [!wbRequest_memwf, !perform_memwf]

theorem execMigrationSwitchEnd_canon {s : State} (h : s.Canon) {i : Nat} : Keeps (execMigrationSwitchEnd i s) := by
  intro s' hs
  unfold execMigrationSwitchEnd at hs
  grind [!State.giveUpPage_canon, !State.flushPage_canon, !demandRange_memwf, !State.askBlocked_canon, State.endSwitch_mem,
    !State.commitSwitch_canon, !State.freePage_canon]

theorem execTwinWrite_canon {s : State} (h : s.Canon) {part : Nat} {val : DWord} : Keeps (execTwinWrite part val s) := by
  unfold execTwinWrite
  refine regPart_canon h ?_ _
  exact State.Canon.of_mem_eq h (State.wTwin_mem ..)

theorem execTrapWindowWrite_canon {s : State} (h : s.Canon) {part reg idx : Nat} {val : DWord} :
    Keeps (execTrapWindowWrite part reg idx val s) := by
  unfold execTrapWindowWrite
  refine regPart_canon h ?_ _
  split
  · exact State.Canon.of_mem_eq h (by simp)
  · exact h

theorem execXlockCfgWrite_canon {s : State} (h : s.Canon) {part : Nat} {val : DWord} :
    Keeps (execXlockCfgWrite part val s) := by
  unfold execXlockCfgWrite
  refine regPart_canon h ?_ _
  exact State.Canon.of_mem_eq h (State.wXlock_mem ..)

theorem execSchedXlockWrite_canon {s : State} (h : s.Canon) {part : Nat} {val : DWord} :
    Keeps (execSchedXlockWrite part val s) := by
  unfold execSchedXlockWrite
  refine regPart_canon h ?_ _
  exact State.Canon.of_mem_eq h (State.wSchedXlock_mem ..)

theorem execTqCfgWrite_canon {s : State} (h : s.Canon) {part : Nat} {val : DWord} :
    Keeps (execTqCfgWrite part val s) := by
  unfold execTqCfgWrite
  refine regPart_canon h ?_ _
  exact State.Canon.of_mem_eq h (State.wTqCfg_mem ..)

theorem execLqCfgWrite_canon {s : State} (h : s.Canon) {part q : Nat} {val : DWord} :
    Keeps (execLqCfgWrite part q val s) := by
  unfold execLqCfgWrite
  refine regPart_canon h ?_ _
  split
  · exact State.Canon.of_mem_eq h (State.wLqCfg_mem ..)
  · exact h

theorem execLqBaseWrite_canon {s : State} (h : s.Canon) {part q : Nat} {val : DWord} :
    Keeps (execLqBaseWrite part q val s) := by
  unfold execLqBaseWrite
  refine regPart_canon h ?_ _
  split
  · exact State.Canon.of_mem_eq h (State.wLqBase_mem ..)
  · exact h

theorem execAperCfgWrite_canon {s : State} (h : s.Canon) {part i : Nat} {val : DWord} :
    Keeps (execAperCfgWrite part i val s) := by
  unfold execAperCfgWrite
  refine regPart_canon h ?_ _
  (repeat' split)
  · exact State.Canon.of_mem_eq (State.wAperCfg_canon h ..) (State.startInv_mem _)
  · exact State.wAperCfg_canon h ..
  · exact h

theorem execCtxRootWrite_canon {s : State} (h : s.Canon) {part : Nat} {ctx : Option Nat} {val : DWord} :
    Keeps (execCtxRootWrite part ctx val s) := by
  unfold execCtxRootWrite
  refine regPart_canon h ?_ _
  (repeat' split)
  · exact State.Canon.of_mem_eq h (State.wRoot_mem ..)
  · exact h
  · exact State.Canon.of_mem_eq h (State.wRoot_mem ..)

theorem execNumcfgWrite_canon {s : State} (h : s.Canon) {part : Nat} {val : DWord} :
    Keeps (execNumcfgWrite part val s) := by
  unfold execNumcfgWrite
  refine regPart_canon h ?_ _
  exact State.Canon.of_mem_eq h (State.wNumcfg_mem ..)

theorem execSpsCfgWrite_canon {s : State} (h : s.Canon) {part i : Nat} {val : DWord} :
    Keeps (execSpsCfgWrite part i val s) := by
  unfold execSpsCfgWrite
  refine regPart_canon h ?_ _
  split
  · exact State.Canon.of_mem_eq h (State.wSpsCfg_mem ..)
  · exact h

theorem execMemCfgWrite_canon {s : State} (h : s.Canon) {part : Nat} {val : DWord} :
    Keeps (execMemCfgWrite part val s) := by
  unfold execMemCfgWrite
  refine regPart_canon h ?_ _
  exact State.Canon.of_mem_eq h (State.wMemCfg_mem ..)

theorem execSystemRegisterWrite_canon {s : State} (h : s.Canon) {part reg idx : Nat} {val : DWord} :
    Keeps (execSystemRegisterWrite part reg idx val s) := by
  unfold execSystemRegisterWrite
  refine regPart_canon h ?_ _
  split
  · exact State.sysWrite_canon h ..
  · exact h

theorem execMbReqWrite_canon {s : State} (h : s.Canon) {w : HostWrite} : Keeps (execMbReqWrite w s) := by
  intro s' hs
  unfold execMbReqWrite at hs
  grind [!State.barWrite_canon, State.setMsixEntry_mem, State.setMsixControl_mem, !State.hostStore_canon]

theorem execRegistrationEviction_canon {s : State} (h : s.Canon) {line : Nat} :
    Keeps (execRegistrationEviction line s) := by
  intro s' hs
  unfold execRegistrationEviction at hs
  grind [!giveUp_memwf, !wbRequest_memwf]

theorem execFabricError_canon {s : State} (h : s.Canon) {acc : Nat} : Keeps (execFabricError acc s) := by
  intro s' hs
  unfold execFabricError at hs
  grind [State.draw_mem, State.lateGone_mem, !State.performMsg_canon, !State.finishAcc_canon, State.asyncTrap_mem,
    State.heldOn_mem]

theorem execFrameReceived_canon {s : State} (h : s.Canon) {port : Nat} {bytes : List Byte} {fcsOk : Bool} :
    Keeps (execFrameReceived port bytes fcsOk s) := by
  intro s' hs
  unfold execFrameReceived at hs
  grind [State.countPort_mem, State.draw_mem, !State.portIn_canon]

theorem execCxlMemRead_canon {s : State} (h : s.Canon) {off : DWord} {n : Nat} : Keeps (execCxlMemRead off n s) := by
  intro s' hs
  unfold execCxlMemRead at hs
  grind [State.answerHost_mem, !demandRange_memwf]

theorem execCxlMemWrite_canon {s : State} (h : s.Canon) {off : DWord} {bytes : List Byte} {poison : Bool} :
    Keeps (execCxlMemWrite off bytes poison s) := by
  intro s' hs
  unfold execCxlMemWrite at hs
  grind [State.answerHost_mem, !State.portIn_canon]

theorem execClaim_canon {s : State} (h : s.Canon) {claimant : Nat} {hd : ReqHdr} : Keeps (execClaim claimant hd s) := by
  unfold execClaim
  exact owned_canon h _ _ _

theorem execHandover_canon {s : State} (h : s.Canon) {claimant succ : Nat} {hd : ReqHdr} :
    Keeps (execHandover claimant succ hd s) := by
  unfold execHandover
  exact owned_canon h _ _ _

theorem execSetPartition_canon {s : State} (h : s.Canon) {claimant p : Nat} {px : BitVec 5} {py : BitVec 4} {pa pb : BitVec 3} {en : Bool} {hd : ReqHdr} :
    Keeps (execSetPartition claimant p px py pa pb en hd s) := by
  unfold execSetPartition
  exact owned_canon h _ _ _

theorem execSetSlots_canon {s : State} (h : s.Canon) {claimant stack chan : Nat} {slots : List Byte} {hd : ReqHdr} :
    Keeps (execSetSlots claimant stack chan slots hd s) := by
  unfold execSetSlots
  exact owned_canon h _ _ _

theorem execSetHost_canon {s : State} (h : s.Canon) {claimant : Nat} {part : BitVec 4} {base len : BitVec 16} {hd : ReqHdr} :
    Keeps (execSetHost claimant part base len hd s) := by
  unfold execSetHost
  exact owned_canon h _ _ _

theorem execSetStream_canon {s : State} (h : s.Canon) {claimant port stream : Nat} {part : BitVec 4} {hd : ReqHdr} :
    Keeps (execSetStream claimant port stream part hd s) := by
  unfold execSetStream
  exact owned_canon h _ _ _

theorem execSetRein_canon {s : State} (h : s.Canon) {claimant : Nat} {pkg : BitVec 11} {links : BitVec 18} {hd : ReqHdr} :
    Keeps (execSetRein claimant pkg links hd s) := by
  unfold execSetRein
  exact owned_canon h _ _ _

theorem execImageWrite_canon {s : State} (h : s.Canon) {claimant off : Nat} {bytes : List Byte} {hd : ReqHdr} :
    Keeps (execImageWrite claimant off bytes hd s) := by
  unfold execImageWrite
  exact owned_canon h _ _ _

theorem execImageActivate_canon {s : State} (h : s.Canon) {claimant : Nat} {hd : ReqHdr} :
    Keeps (execImageActivate claimant hd s) := by
  unfold execImageActivate
  exact owned_canon h _ _ _

theorem execRekey_canon {s : State} (h : s.Canon) {claimant link : Nat} {hd : ReqHdr} :
    Keeps (execRekey claimant link hd s) := by
  unfold execRekey
  exact owned_canon h _ _ _

theorem execSetMsix_canon {s : State} (h : s.Canon) {claimant vec : Nat} {pa : BitVec 52} {en : Bool} {hd : ReqHdr} :
    Keeps (execSetMsix claimant vec pa en hd s) := by
  unfold execSetMsix
  exact owned_canon h _ _ _

theorem execResetPartition_canon {s : State} (h : s.Canon) {claimant p : Nat} {hd : ReqHdr} :
    Keeps (execResetPartition claimant p hd s) := by
  unfold execResetPartition
  exact owned_canon h _ _ _

theorem execResetPackage_canon {s : State} (h : s.Canon) {claimant : Nat} {hd : ReqHdr} :
    Keeps (execResetPackage claimant hd s) := by
  unfold execResetPackage
  exact owned_canon h _ _ _

theorem execPackageReset_canon {s : State} (h : s.Canon) {failStep : BitVec 3} {failed : BitVec 21} :
    Keeps (execPackageReset failStep failed s) := by
  unfold execPackageReset
  exact keeps_next wf_reset_mem

theorem execPatrolScrub_canon {s : State} (h : s.Canon) {stack line : Nat} : Keeps (execPatrolScrub stack line s) := by
  intro s' hs
  unfold execPatrolScrub at hs
  grind [State.patrolOn_mem, !readArray_memwf]

section
variable {s : State} (h : s.Canon) {hd : Hdr} {a b c : Src}
include h

theorem fres_canon (f : FR) : (fres s f).state.Canon := State.Canon.of_mem_eq h (by simp [fres, Res.state])

theorem issV1_canon {f} : Keeps (issV1 hd a s f) := issueI_canon h fun _ _ hu => hu

theorem issV2_canon {f} : Keeps (issV2 hd a b s f) := issueI_canon h fun _ _ hu => hu

theorem issV3_canon {f} : Keeps (issV3 hd a b c s f) := issueI_canon h fun _ _ hu => hu

theorem issX2_canon {f} : Keeps (issX2 hd a b s f) := issueI_canon h fun _ _ hu => hu

theorem issX3_canon {f} : Keeps (issX3 hd a b c s f) := issueI_canon h fun _ _ hu => hu

theorem issXS_canon {f} : Keeps (issXS hd a b s f) := issueI_canon h fun _ _ hu => hu

theorem issF1_canon {f} : Keeps (issF1 hd a s f) := issueI_canon h fun _ _ hu => fres_canon hu _

theorem issF2_canon {f} : Keeps (issF2 hd a b s f) := issueI_canon h fun _ _ hu => fres_canon hu _

theorem issF3_canon {o f} : Keeps (issF3 hd a b o s f) := issueI_canon h fun _ _ hu => fres_canon hu _

theorem issColl_canon {i ops} : Keeps (issColl i ops s) := issueI_canon h fun _ _ hu => arrive_canon hu ..

theorem issEng_canon {i m} : Keeps (issEng i hd a b m s) := issueI_canon h fun _ _ hu => engBody_canon hu ..

theorem issBas_canon {kind m} : Keeps (issBas kind hd a m s) := by
  unfold issBas
  refine issueI_canon h fun u r hu => basCheck_canon hu (fun block v hv => ?_) _ _ _
  refine State.engRoom_canon hv (fun w hw => State.releaseStall_canon hw (fun x hx => ?_) _ _) _ _
  dsimp only
  split
  · exact hx
  · exact State.Canon.of_mem_eq hx (State.acceptCmd_mem ..)

end

/-- No instruction and no event takes memory out of its canonical form. -/
theorem exec_canon {s : State} (h : s.Canon) (i : Instr) : Keeps (exec i s) := by
  cases i
  all_goals unfold exec
  case iadd | isub | imul | imulh | idiv | irem | imin | imax | iaddsat | isubsat | isad | idot4 | and | or | xor |
    andn | shl | shr | sar | rot | bfi | bysel =>
    exact issV2_canon h
  case imad =>
    exact issV3_canon h
  case iabs | ineg | not | popc | clz | ctz | brev | bfe | mov =>
    exact issV1_canon h
  case iadd64 | isub64 | imul64 =>
    exact issX2_canon h
  case imad64 =>
    exact issX3_canon h
  case lea | shl64 | shr64 | sar64 =>
    exact issXS_canon h
  case vote | packbfp | unpackbfp | hadam | shfl | bcast | redux | scan | matchv =>
    exact issColl_canon h
  case fadd | fsub | fmul | fmin | fmax | fdiv | hadd2 | hmul2 | hminmax2 =>
    exact issF2_canon h
  case ffma | hfma2 | fdot2 =>
    exact issF3_canon h
  case fabs | fneg | frcp | frsq | fsqrt | fexp2 | flog2 | fclass =>
    exact issF1_canon h
  case copy | copyt | cbcopy | cdec | gather | scatter | zfill =>
    exact issEng_canon h
  case search | nbscan | nbrowcopy | nbrowzero =>
    exact issBas_canon h
  case movi | movi64 | icmp | icmp64 | plog | mov64 | sel | p2v | nop | yield | prefetch | tkquery | cpq | wdone =>
    simp only [execMovi, execMovi64, execIcmp, execIcmp64, execPlog, execMov64, execSel, execP2v, execNop,
      execYield, execPrefetch, execTkquery, execCpq, execWdone]
    exact issueI_canon h fun _ _ hu => hu
  case sread | swrite | sleepuntil | cctl | opwait | pwait | wheap =>
    simp only [execSread, execSwrite, execSleepuntil, execCctl, execOpwait, execPwait, execWheap]
    refine issueI_canon h fun u r hu => ?_
    (repeat' split) <;> exact hu
  case v2p | exit | wgbar | brk | trap | fcmp | halt =>
    simp only [execV2p, execExit, execWgbar, execBrk, execTrap, execFcmp, execHalt]
    exact issueI_canon h fun u r hu => State.Canon.of_mem_eq hu (by simp [Res.state])
  case elect | wake | cbar | assert | cvt =>
    simp only [execElect, execWake, execCbar, execAssert, execCvt]
    refine issueI_canon h fun u r hu => ?_
    (repeat' split) <;> exact State.Canon.of_mem_eq hu (by simp [Res.state])
  case abortAcknowledgement | phcAdjWrite =>
    simp only [execAbortAcknowledgement, execPhcAdjWrite]
    exact keeps_next h
  case periodicReform | flitCounterRekey | getVersion | getCapabilities | negotiateAlgorithms | getDigests |
    getCertificate | challenge | getMeasurements | flitCounterExhausted =>
    simp only [execPeriodicReform, execFlitCounterRekey, execGetVersion, execGetCapabilities,
      execNegotiateAlgorithms, execGetDigests, execGetCertificate, execChallenge, execGetMeasurements,
      execFlitCounterExhausted]
    exact keeps_next (h.of_mem_eq (by simp))
  case activationBlock | tarnBankCleared | slotRoundBoundary | msixSignal | escapeChannelMove | powerThrottle =>
    simp only [execActivationBlock, execTarnBankCleared, execSlotRoundBoundary, execMsixSignal,
      execEscapeChannelMove, execPowerThrottle]
    split <;> exact keeps_next h
  case bundleUrgent | timer | sleepuntilDeadline | promiseMissed | asyncTrapDelivery | workgroupActivation |
    carveWaitExpiry | carveChange | engineOperationStart | jointOperationPost | entryAged | passGrant |
    tarnRelease | walkerHopArrival | walkerChildStart | heapOffer | basinCommandTimeout | handoverLapse |
    firmwareSwitch | translationCheckDone | invalidationAcknowledged | workgroupSteal | engineOperationSteal |
    walkerSteal | beatReceived | basinLinkRetrain | flitReceived | retryRequest | reinLinkRetrain | keyExchange |
    keyUpdate | firmwareSelfTestFail | channelSlotAllocation =>
    simp only [execBundleUrgent, execTimer, execSleepuntilDeadline, execPromiseMissed, execAsyncTrapDelivery,
      execWorkgroupActivation, execCarveWaitExpiry, execCarveChange, execEngineOperationStart,
      execJointOperationPost, execEntryAged, execPassGrant, execTarnRelease, execWalkerHopArrival,
      execWalkerChildStart, execHeapOffer, execBasinCommandTimeout, execHandoverLapse, execFirmwareSwitch,
      execTranslationCheckDone, execInvalidationAcknowledged, execWorkgroupSteal, execEngineOperationSteal,
      execWalkerSteal, execBeatReceived, execBasinLinkRetrain, execFlitReceived, execRetryRequest,
      execReinLinkRetrain, execKeyExchange, execKeyUpdate, execFirmwareSelfTestFail, execChannelSlotAllocation]
    (repeat' split) <;> exact keeps_next (h.of_mem_eq (by simp))
  case bra => exact execBra_canon h
  case brx => exact execBrx_canon h
  case call => exact execCall_canon h
  case callx => exact execCallx_canon h
  case ret => exact execRet_canon h
  case tilebar => exact execTilebar_canon h
  case loopd => exact execLoopd_canon h
  case launch => exact execLaunch_canon h
  case ld => exact execLd_canon h
  case st => exact execSt_canon h
  case lda => exact execLda_canon h
  case strel => exact execStrel_canon h
  case lds => exact execLds_canon h
  case sts => exact execSts_canon h
  case ldx => exact execLdx_canon h
  case smap => exact execSmap_canon h
  case sunmap => exact execSunmap_canon h
  case sflush => exact execSflush_canon h
  case sinv => exact execSinv_canon h
  case atom => exact execAtom_canon h
  case cas => exact execCas_canon h
  case satom => exact execSatom_canon h
  case red => exact execRed_canon h
  case fence => exact execFence_canon h
  case boadd => exact execBoadd_canon h
  case waitge => exact execWaitge_canon h
  case rld => exact execRld_canon h
  case rst => exact execRst_canon h
  case ratom => exact execRatom_canon h
  case rcas => exact execRcas_canon h
  case rboadd => exact execRboadd_canon h
  case tkwait => exact execTkwait_canon h
  case topkred => exact execTopkred_canon h
  case gang => exact execGang_canon h
  case mfmt => exact execMfmt_canon h
  case dptab => exact execDptab_canon h
  case mwload => exact execMwload_canon h
  case mma => exact execMma_canon h
  case mmaw => exact execMmaw_canon h
  case talloc => exact execTalloc_canon h
  case tfree => exact execTfree_canon h
  case town => exact execTown_canon h
  case tzero => exact execTzero_canon h
  case tread => exact execTread_canon h
  case twrite => exact execTwrite_canon h
  case tdrain => exact execTdrain_canon h
  case tstat => exact execTstat_canon h
  case cbload => exact execCbload_canon h
  case vpublish => exact execVpublish_canon h
  case vsnap => exact execVsnap_canon h
  case bquery => exact execBquery_canon h
  case wdist => exact execWdist_canon h
  case wnbrs => exact execWnbrs_canon h
  case wvisit => exact execWvisit_canon h
  case whop => exact execWhop_canon h
  case wspawn => exact execWspawn_canon h
  case sret => exact execSret_canon h
  case sysrd => exact execSysrd_canon h
  case syswr => exact execSyswr_canon h
  case ctxsave => exact execCtxsave_canon h
  case ctxload => exact execCtxload_canon h
  case tlbinv => exact execTlbinv_canon h
  case preempt => exact execPreempt_canon h
  case wgkill => exact execWgkill_canon h
  case lease => exact execLease_canon h
  case pgmig => exact execPgmig_canon h
  case tkpost => exact execTkpost_canon h
  case pairWord => exact execPairWord_canon h
  case unassignedOpcode => exact execUnassignedOpcode_canon h
  case waitgeReread => exact execWaitgeReread_canon h
  case waitgeDeadline => exact execWaitgeDeadline_canon h
  case trapRecordWrite => exact execTrapRecordWrite_canon h
  case serviceRecordWrite => exact execServiceRecordWrite_canon h
  case launchRecordTake => exact execLaunchRecordTake_canon h
  case dependenceRetest => exact execDependenceRetest_canon h
  case leaseRetry => exact execLeaseRetry_canon h
  case workgroupDistribution => exact execWorkgroupDistribution_canon h
  case workgroupPark => exact execWorkgroupPark_canon h
  case forcedPark => exact execForcedPark_canon h
  case workgroupExit => exact execWorkgroupExit_canon h
  case launchComplete => exact execLaunchComplete_canon h
  case engineOperationComplete => exact execEngineOperationComplete_canon h
  case engineOperationHeld => exact execEngineOperationHeld_canon h
  case passComplete => exact execPassComplete_canon h
  case tileLatch => exact execTileLatch_canon h
  case tileFetchHeld => exact execTileFetchHeld_canon h
  case tdrainComplete => exact execTdrainComplete_canon h
  case basinCommandStart => exact execBasinCommandStart_canon h
  case searchForward => exact execSearchForward_canon h
  case basinCommandComplete => exact execBasinCommandComplete_canon h
  case remoteAccessArrival => exact execRemoteAccessArrival_canon h
  case remoteReply => exact execRemoteReply_canon h
  case ticketReceived => exact execTicketReceived_canon h
  case replayNotice => exact execReplayNotice_canon h
  case ticketAbort => exact execTicketAbort_canon h
  case replayRecordRelease => exact execReplayRecordRelease_canon h
  case topkredContribution => exact execTopkredContribution_canon h
  case contextStopped => exact execContextStopped_canon h
  case ctxsaveComplete => exact execCtxsaveComplete_canon h
  case ctxloadRestore => exact execCtxloadRestore_canon h
  case dataReturn => exact execDataReturn_canon h
  case writePerformed => exact execWritePerformed_canon h
  case migrationSwitchEnd => exact execMigrationSwitchEnd_canon h
  case twinWrite => exact execTwinWrite_canon h
  case trapWindowWrite => exact execTrapWindowWrite_canon h
  case xlockCfgWrite => exact execXlockCfgWrite_canon h
  case schedXlockWrite => exact execSchedXlockWrite_canon h
  case tqCfgWrite => exact execTqCfgWrite_canon h
  case lqCfgWrite => exact execLqCfgWrite_canon h
  case lqBaseWrite => exact execLqBaseWrite_canon h
  case aperCfgWrite => exact execAperCfgWrite_canon h
  case ctxRootWrite => exact execCtxRootWrite_canon h
  case numcfgWrite => exact execNumcfgWrite_canon h
  case spsCfgWrite => exact execSpsCfgWrite_canon h
  case memCfgWrite => exact execMemCfgWrite_canon h
  case systemRegisterWrite => exact execSystemRegisterWrite_canon h
  case mbReqWrite => exact execMbReqWrite_canon h
  case registrationEviction => exact execRegistrationEviction_canon h
  case fabricError => exact execFabricError_canon h
  case frameReceived => exact execFrameReceived_canon h
  case cxlMemRead => exact execCxlMemRead_canon h
  case cxlMemWrite => exact execCxlMemWrite_canon h
  case claim => exact execClaim_canon h
  case handover => exact execHandover_canon h
  case setPartition => exact execSetPartition_canon h
  case setSlots => exact execSetSlots_canon h
  case setHost => exact execSetHost_canon h
  case setStream => exact execSetStream_canon h
  case setRein => exact execSetRein_canon h
  case imageWrite => exact execImageWrite_canon h
  case imageActivate => exact execImageActivate_canon h
  case rekey => exact execRekey_canon h
  case setMsix => exact execSetMsix_canon h
  case resetPartition => exact execResetPartition_canon h
  case resetPackage => exact execResetPackage_canon h
  case packageReset => exact execPackageReset_canon h
  case patrolScrub => exact execPatrolScrub_canon h

end Sys2Proof.Machine
end

section
/-! O55: the fetch, the agenda and the clock around an instruction keep memory canonical. -/

namespace Sys2Proof.Machine

/-- The state that a fetch leaves, whether it ends the issue or gives an instruction. -/
def Fetched.state : Fetched → State
  | .over s => s
  | .run _ s => s

theorem State.fetchIn_canon {s : State} (h : s.Canon) (line : List Byte) : (s.fetchIn line).state.Canon := by
  unfold State.fetchIn
  dsimp only
  (repeat' split) <;> exact State.Canon.of_mem_eq h (by simp [Fetched.state])

theorem State.fetch_canon {s : State} (h : s.Canon) : s.fetch.state.Canon := by
  have hentry := State.entryCheck_canon (s := s.stamp) (h.of_mem_eq (State.stamp_mem s))
  unfold State.fetch
  split
  · exact h
  split
  · exact h.of_mem_eq (State.takeAsync_mem ..)
  split
  · exact h.of_mem_eq (State.raise_mem ..)
  split <;> rename_i e <;> rw [e] at hentry
  · exact State.Canon.of_mem_eq hentry (State.raise_mem ..)
  · exact State.Canon.of_mem_eq hentry (State.hold_mem ..)
  rename_i u
  have hline := State.fetchLine_canon (s := u) hentry u.curAs u.curView u.curRegs.pc
  split <;> rename_i e2 <;> rw [e2] at hline
  · exact State.Canon.of_mem_eq hline (State.raise_mem ..)
  · exact State.Canon.of_mem_eq hline (State.hold_mem ..)
  · exact State.fetchIn_canon hline _

theorem State.runCur_canon {s : State} (h : s.Canon) : Keeps s.runCur := by
  have hf := State.fetch_canon h
  unfold State.runCur
  split <;> rename_i e <;> rw [e] at hf
  · exact keeps_next hf
  · exact exec_canon hf _

theorem step_canon {s : State} (h : s.Canon) : Keeps (step s) := by
  unfold step
  (repeat' split)
  · exact exec_canon (s := { s with cur := .none, agenda := _ }) h _
  · exact keeps_next h
  · exact keeps_next h
  · exact State.runCur_canon (s := { s with cur := _, issue := _ }) h
  · exact exec_canon (s := { s with cur := .none, agenda := _ }) h _
  · refine keeps_next (State.take_canon ?_ _)
    exact h
  · exact keeps_next (State.tick_canon h)

/-- Settles O55: what writes physical memory, writes it through operations that keep its canonical form, and every instruction and every
event is made of those. -/
theorem stepKeepsMemoryCanonical : Obligations.StepKeepsMemoryCanonical := by
  unfold Obligations.StepKeepsMemoryCanonical
  exact fun s s' h hs => step_canon h s' hs

end Sys2Proof.Machine
end

section
/-! PROOFS. ST and STREL (O17). -/

namespace Sys2Proof.Machine

/-! ### The stages of an access of the executing thread (R16, R53, R99, R122, R233) -/

theorem post_serves (s : State) (core pa : Nat) (bs : List Byte) (wv : Bool) : s.Serves (s.post core pa bs wv) := by
  unfold State.post
  split
  · exact (flushWhere_serves s _).trans (perform_serves ..)
  · exact ⟨_, _, _, _, _, _, _, _, _, rfl, rfl⟩

theorem storePlace_serves (s : State) (core : Nat) (p : Place) (bs : List Byte) : s.Serves (s.storePlace core p bs) := by
  cases p with
  | mem pas wv => exact foldl_serves (fun u (r : Nat × List Byte) => post_serves u core r.1 r.2 wv) _ s
  | conv => exact .refl s
  | value => exact .refl s

theorem State.access_of_trap {s : State} {va : DWord} {n : Nat} {k : AccKind} {x : TrapInfo}
    (h : (s.check s.curAs s.curView va n k).2 = .trap x) (go : State → Place → Res) :
    s.access va n k go = .trap (s.check s.curAs s.curView va n k).1 x := by
  unfold State.access
  generalize s.check s.curAs s.curView va n k = r at *
  obtain ⟨u, c⟩ := r
  obtain rfl : c = .trap x := h
  rfl

theorem scopeWide_iff {sc : Scope} : scopeWide sc = true ↔ sc ≠ .core := by cases sc <;> decide

/-- The release of R99: a scope wider than the core performs the core's posted writes first. -/
theorem State.releaseThen_eq {s : State} {core : Nat} {sc : Scope} (h : sc ≠ .core → (s.flushCore core).postBlocked core = none)
    (go : State → Res) : s.releaseThen core sc go = go (if sc = .core then s else s.flushCore core) := by
  by_cases hsc : sc = .core
  · subst hsc
    rfl
  · rw [State.releaseThen_of_free (scopeWide_iff.mpr hsc) (h hsc), if_neg hsc]

section
variable {s s' : State} {t : Nat} (hc : s.cur = .thread t)
include hc

section
variable (h : s.reforms.Serves s')
include h

theorem State.Serves.reforms_t : s'.t = t := by rw [h.t_eq, State.reforms_t, State.t_of_cur hc]

theorem State.Serves.reforms_coreOf : s'.coreOf s'.t = s.coreOf t := by
  rw [h.reforms_t hc, h.coreOf_eq, State.reforms_coreOf]

omit hc in

theorem State.Serves.reforms_curRegs : s'.curRegs = s.curRegs := h.curRegs_eq.trans s.reforms_curRegs

end

theorem State.reforms_budget (hreq : s.requests (s.coreOf t) < 2048) (go : State → Res) :
    s.reforms.budget go = go s.reforms :=
  State.budget_of_room (by rwa [State.reforms_t, State.t_of_cur hc, State.reforms_coreOf, State.reforms_requests]) go

theorem State.reforms_awaitRemote (hrem : s.remotePending (s.crewOf t) s.racc.length = false) (go : State → Res) :
    s.reforms.awaitRemote go = go s.reforms :=
  State.awaitRemote_of_none (by rwa [State.reforms_t, State.t_of_cur hc, State.reforms_crewOf, State.reforms_racc, State.reforms_remotePending]) go

section
variable {va : DWord} {n : Nat} {k : AccKind} {s1 : State}

theorem State.reforms_access_ok {p : Place} (hchk : s.reforms.check s.curAs (some (s.coreOf t)) va n k = (s1, .ok p))
    (hfree : k.writes = true → s1.placeBlocked p = none) (go : State → Place → Res) : s.reforms.access va n k go = go s1 p := by
  have hchk' : s.reforms.check s.reforms.curAs s.reforms.curView va n k = (s1, .ok p) := by
    rw [State.reforms_curAs, State.reforms_curView, State.curView_of_cur hc, hchk]
  rw [State.access_of_ok (p := p) (by rw [hchk']) (by rwa [hchk']), hchk']

theorem State.reforms_access_trap {x : TrapInfo} (hchk : s.reforms.check s.curAs (some (s.coreOf t)) va n k = (s1, .trap x))
    (go : State → Place → Res) : s.reforms.access va n k go = .trap s1 x := by
  have hchk' : s.reforms.check s.reforms.curAs s.reforms.curView va n k = (s1, .trap x) := by
    rw [State.reforms_curAs, State.reforms_curView, State.curView_of_cur hc, hchk]
  rw [State.access_of_trap (x := x) (by rw [hchk']), hchk']

omit hc in

theorem State.serves_of_check {p : Chk Place} {as : As} {view : Option Nat} (hchk : s.check as view va n k = (s1, p)) :
    s.Serves s1 := by
  have := check_serves s as view va n k
  rwa [hchk] at this

end

end

/-- A word extended to 64 bits has the word's own bytes. -/
theorem extract_setWidth_word (x : Word) (j : Nat) : (x.setWidth 64).extractLsb' (8 * j) 8 = x.extractLsb' (8 * j) 8 := by
  refine BitVec.eq_of_getLsbD_eq fun i _ => ?_
  rw [BitVec.getLsbD_extractLsb', BitVec.getLsbD_extractLsb', BitVec.getLsbD_setWidth]
  by_cases hlt : 8 * j + i < 64
  · rw [decide_eq_true hlt, Bool.true_and]
  · rw [BitVec.getLsbD_of_ge x _ (by omega), Bool.and_false]

/-! ### ST and STREL (R97, R99, R235, R236) -/

section
variable {s s1 : State} {t : Nat} {h : Hdr} {a b : Src} {m : MemMod} (hc : s.cur = .thread t) (hreq : s.requests (s.coreOf t) < 2048)
include hc hreq

section
variable {x : TrapInfo}
  (hchk : s.reforms.check s.curAs (some (s.coreOf t)) (storeEa s.curRegs a m) (Width.bytes m.width) .store = (s1, .trap x))

include hchk

theorem exec_st_trap (hr : s.runs (.st h a b m) = true) : exec (.st h a b m) s = .next (s1.raise x) := by
  rw [exec_st, execSt, issueI_ready_brk hr rfl, State.reforms_budget hc hreq, State.reforms_access_trap hc hchk, deliver_trap]

theorem exec_strel_trap (hr : s.runs (.strel h a b m) = true) (hrem : s.remotePending (s.crewOf t) s.racc.length = false) :
    exec (.strel h a b m) s = .next (s1.raise x) := by
  rw [exec_strel, execStrel, issueI_ready_brk hr rfl]
  simp only [State.reforms_awaitRemote hc hrem, ite_self, State.reforms_budget hc hreq, State.reforms_access_trap hc hchk, deliver_trap]

end

section
variable {p : Place} (hfree : s1.placeBlocked p = none)
  (hchk : s.reforms.check s.curAs (some (s.coreOf t)) (storeEa s.curRegs a m) (Width.bytes m.width) .store = (s1, .ok p))

include hchk hfree

theorem exec_st_ok (hr : s.runs (.st h a b m) = true) :
    exec (.st h a b m) s = .next ((s1.storePlace (s.coreOf t) p (s.curRegs.storeBytes m.width b)).goesOn s.curRegs.broke) := by
  have hs1 := State.serves_of_check hchk
  rw [exec_st, execSt, issueI_ready_brk hr rfl, State.reforms_budget hc hreq, State.reforms_access_ok hc hchk fun _ => hfree,
    hs1.reforms_coreOf hc, deliver_broke rfl, (hs1.trans (storePlace_serves ..)).reforms_curRegs]

theorem exec_strel_ok (hr : s.runs (.strel h a b m) = true) (hrem : s.remotePending (s.crewOf t) s.racc.length = false)
    (hpost : m.scope ≠ .core → (s1.flushCore (s.coreOf t)).postBlocked (s.coreOf t) = none) :
    exec (.strel h a b m) s = .next (((if m.scope = .core then s1 else s1.flushCore (s.coreOf t)).storePlace (s.coreOf t) p
      (s.curRegs.storeBytes m.width b)).goesOn s.curRegs.broke) := by
  have hs1 := State.serves_of_check hchk
  have hrel : s.reforms.Serves (if m.scope = .core then s1 else s1.flushCore (s.coreOf t)) := by
    split
    · exact hs1
    · exact hs1.trans (flushCore_serves _ _)
  rw [exec_strel, execStrel, issueI_ready_brk hr rfl]
  simp only [State.reforms_awaitRemote hc hrem, ite_self, State.reforms_budget hc hreq, State.reforms_access_ok hc hchk fun _ => hfree]
  rw [hs1.reforms_coreOf hc, State.releaseThen_eq hpost, hrel.reforms_coreOf hc, deliver_broke rfl,
    (hrel.trans (storePlace_serves ..)).reforms_curRegs]

end

end

/-- Settles O17, instruction by instruction: each stage of the access is the next one, and none of them changes the thread or its core. -/
theorem stores : Obligations.Stores := by
  unfold Obligations.Stores
  intro s t h a b m hc r core va found s1 le bs hreq
  have hbs : r.storeBytes m.width b = bs := by
    unfold bs le Regs.storeBytes
    cases m.width <;> simp only [bytesOf_eq_map, extract_setWidth_word]
  refine ⟨fun x hx => ⟨exec_st_trap hc hreq (Prod.ext rfl hx), exec_strel_trap hc hreq (Prod.ext rfl hx)⟩, fun pas wv hok hfree => ⟨fun hr => ?_, fun hr hrem hpost => ?_⟩⟩
  · rw [exec_st_ok hc hreq hfree (Prod.ext rfl hok) hr, ← hbs]
  · rw [exec_strel_ok hc hreq hfree (Prod.ext rfl hok) hr hrem hpost, ← hbs]

end Sys2Proof.Machine
end

section
/-! PROOFS. ATOM, CAS, RED and BOADD (O19). -/

namespace Sys2Proof.Machine

/-! ### An atomic of the executing thread (R96, R99, R122, R248) -/

/-- The state after a release, where there is one, at a scope (R99). -/
def State.afterRelease (s : State) (core : Nat) (rel : Bool) (sc : Scope) : State := if rel && sc != .core then s.flushCore core else s

theorem State.afterRelease_serves (s : State) (core : Nat) (rel : Bool) (sc : Scope) :
    s.Serves (s.afterRelease core rel sc) := by
  unfold State.afterRelease
  split
  · exact flushCore_serves _ _
  · exact .refl s

theorem State.atomRelease_eq {s : State} {o : Order} {sc : Scope}
    (h : ordRel o = true → sc ≠ .core → (s.flushCore (s.coreOf s.t)).postBlocked (s.coreOf s.t) = none) (go : State → Res) :
    s.atomRelease o sc go = go (s.afterRelease (s.coreOf s.t) (ordRel o) sc) := by
  unfold State.atomRelease State.afterRelease
  by_cases ho : ordRel o = true
  · rw [if_pos ho, State.releaseThen_eq (h ho), ho, Bool.true_and]
    by_cases hsc : sc = .core
    · simp [hsc]
    · simp [hsc]
  · simp [ho]

theorem scopeFar_iff {sc : Scope} : scopeFar sc = true ↔ sc = .pkg ∨ sc = .dom := by cases sc <;> decide

theorem ordRel_eq (o : Order) : ordRel o = (o == .rel || o == .acqrel) := by cases o <;> rfl

/-- What an atomic does from its order to its place (R99, R122, R233). -/
def State.atomic (s : State) (o : Order) (sc : Scope) (va : DWord) (n : Nat) (go : State → Place → Res) : Res :=
  s.atomOrder o sc fun s => s.budget fun s => s.access va n .atomic fun s p => s.atomRelease o sc fun s => go s p

section
variable {s s1 : State} {t : Nat} {va : DWord} {n : Nat} {o : Order} {sc : Scope} (hc : s.cur = .thread t)
  (hreq : s.requests (s.coreOf t) < 2048)
  (hrem : ordRel o = true → sc = .pkg ∨ sc = .dom → s.remotePending (s.crewOf t) s.racc.length = false)

include hc hrem

theorem State.reforms_atomOrder (go : State → Res) : s.reforms.atomOrder o sc go = go s.reforms := by
  unfold State.atomOrder
  split
  · rename_i h
    rw [Bool.and_eq_true, scopeFar_iff] at h
    exact State.reforms_awaitRemote hc (hrem h.1 h.2) go
  · rfl

include hreq

theorem State.reforms_atomic_trap {x : TrapInfo} (hchk : s.reforms.check s.curAs (some (s.coreOf t)) va n .atomic = (s1, .trap x))
    (go : State → Place → Res) : s.reforms.atomic o sc va n go = .trap s1 x := by
  rw [State.atomic, State.reforms_atomOrder hc hrem, State.reforms_budget hc hreq, State.reforms_access_trap hc hchk]

theorem State.reforms_atomic_ok {p : Place} (hchk : s.reforms.check s.curAs (some (s.coreOf t)) va n .atomic = (s1, .ok p))
    (hfree : s1.placeBlocked p = none)
    (hpost : ordRel o = true → sc ≠ .core → (s1.flushCore (s.coreOf t)).postBlocked (s.coreOf t) = none) (go : State → Place → Res) :
    s.reforms.atomic o sc va n go = go (s1.afterRelease (s.coreOf t) (ordRel o) sc) p := by
  have hcore := (State.serves_of_check hchk).reforms_coreOf hc
  rw [State.atomic, State.reforms_atomOrder hc hrem, State.reforms_budget hc hreq, State.reforms_access_ok hc hchk fun _ => hfree,
    State.atomRelease_eq (by rwa [hcore]), hcore]

end

/-- Where an atomic reads its old value: its core's own earlier writes there are performed, and the bytes are demanded. -/
def State.atomAt (s : State) (core : Nat) (p : Place) : State := (s.settlePlace core p).demandPlace p

theorem State.atomAt_serves (s : State) (core : Nat) (p : Place) : s.Serves (s.atomAt core p) :=
  (settlePlace_serves _ _ _).trans (demandPlace_reads _ _).serves

/-! ### What a load in flight and a notice leave as it is -/

@[simp] theorem State.flight_curRegs (s : State) (d : Nat) (vals : List Word) (po : Option DWord) (n : Nat) :
    (s.flight d vals po n).curRegs = s.curRegs := rfl

theorem State.flight_thread {s : State} {t : Nat} (hc : s.cur = .thread t) (d : Nat) (vals : List Word) (po : Option DWord) :
    s.flight d vals po =
      { s with loads := s.loads ++ [{ thread := t, walker := none, d := d, vals := vals, poison := po, pc := s.curRegs.pc }] } := by
  simp only [State.flight, hc, State.t_of_cur hc]

@[simp] theorem State.noteAdvance_curRegs (s : State) (pa : Nat) : (s.noteAdvance pa).curRegs = s.curRegs := rfl

@[simp] theorem State.noteAdvance_cur (s : State) (pa : Nat) : (s.noteAdvance pa).cur = s.cur := rfl

theorem State.noteAtom_eq (s : State) (op : AtomOp) (p : Place) :
    s.noteAtom op p = if op = .add then s.noteAdvance p.first else s := by
  simp [State.noteAtom]

@[simp] theorem State.noteAtom_curRegs (s : State) (op : AtomOp) (p : Place) : (s.noteAtom op p).curRegs = s.curRegs := by
  unfold State.noteAtom; split <;> rfl

@[simp] theorem State.noteAtom_cur (s : State) (op : AtomOp) (p : Place) : (s.noteAtom op p).cur = s.cur := by
  unfold State.noteAtom; split <;> rfl

/-! ### An instruction that is an atomic -/

/-- The instruction is an atomic: at a step at which it runs, it takes the way of `State.atomic` to its place, and goes on. -/
def State.IsAtomic (s : State) (i : Instr) (o : Order) (sc : Scope) (va : DWord) (n : Nat) (go : State → Place → Res) : Prop :=
  ∃ x : Iss, x.a.brk = true ∧ exec i s = .next (deliver x (s.reforms.atomic o sc va n go))

section
variable {s s1 : State} {t : Nat} {i : Instr} {o : Order} {sc : Scope} {va : DWord} {n : Nat} {go : State → Place → Res}
  (hi : s.IsAtomic i o sc va n go) (hc : s.cur = .thread t) (hreq : s.requests (s.coreOf t) < 2048)
  (hrem : ordRel o = true → sc = .pkg ∨ sc = .dom → s.remotePending (s.crewOf t) s.racc.length = false)

include hi hc hreq hrem

theorem State.IsAtomic.trap {x : TrapInfo} (hchk : s.reforms.check s.curAs (some (s.coreOf t)) va n .atomic = (s1, .trap x)) :
    exec i s = .next (s1.raise x) := by
  obtain ⟨_, -, hi⟩ := hi
  rw [hi, State.reforms_atomic_trap hc hreq hrem hchk, deliver_trap]

theorem State.IsAtomic.ok {p : Place} (hchk : s.reforms.check s.curAs (some (s.coreOf t)) va n .atomic = (s1, .ok p))
    (hfree : s1.placeBlocked p = none)
    (hpost : ordRel o = true → sc ≠ .core → (s1.flushCore (s.coreOf t)).postBlocked (s.coreOf t) = none) {u : State}
    (hgo : go (s1.afterRelease (s.coreOf t) (ordRel o) sc) p = .none u) (hu : u.curRegs = s.curRegs) :
    exec i s = .next (u.goesOn s.curRegs.broke) := by
  obtain ⟨x, hb, hi⟩ := hi
  rw [hi, State.reforms_atomic_ok hc hreq hrem hchk hfree hpost, hgo, deliver_broke hb, hu]

end

/-! ### ATOM, CAS, RED and BOADD at their place -/

/-- What ATOM does at its place. -/
def atomBody (h : Hdr) (b : Src) (m : AtomMod) (r : Regs) (va : DWord) (s : State) (p : Place) : Res :=
  let (s, old) := s.atomRead p
  if s.placeBad p then .none (s.flight h.d.toNat (wordsOf (tyWide m.ty) 0) (some va))
  else .none (((s.performPlace p (bytesOf (atomBytes (tyWide m.ty)) (atomVal m.op m.ty old (r.atomB (tyWide m.ty) b)))).noteAtom m.op p).flight
    h.d.toNat (wordsOf (tyWide m.ty) old) none)

/-- What CAS does at its place. -/
def casBody (h : Hdr) (b : Src) (b64 : Bool) (r : Regs) (va : DWord) (s : State) (p : Place) : Res :=
  let (s, old) := s.atomRead p
  if s.placeBad p then .none (s.flight h.d.toNat (wordsOf b64 0) (some va))
  else
    let s := if old == r.acc b64 h.d then s.performPlace p (bytesOf (atomBytes b64) (r.atomB b64 b)) else s
    .none (s.flight h.d.toNat (wordsOf b64 old) none)

/-- What RED does at its place. -/
def redBody (b : Src) (m : AtomMod) (r : Regs) (s : State) (p : Place) : Res :=
  let (s, old) := s.atomRead p
  .none ((s.performPlace p (bytesOf (atomBytes (tyWide m.ty)) (atomVal m.op m.ty old (r.atomB (tyWide m.ty) b)))).noteAtom m.op p)

/-- What BOADD does at its place. -/
def boaddBody (b : Src) (r : Regs) (s : State) (p : Place) : Res :=
  let (s, old) := s.atomRead p
  .none ((s.performPlace p (bytesOf 8 (boSum old (r.rx b)))).noteAdvance p.first)

section
variable {s : State} {h : Hdr} {a b : Src} {m : AtomMod} {b64 : Bool} {o : Order} {sc : Scope}

theorem atom_isAtomic (hr : s.runs (.atom h a b m) = true) : s.IsAtomic (.atom h a b m) m.order m.scope (s.curRegs.rx a)
    (atomBytes (tyWide m.ty)) (atomBody h b m s.curRegs (s.curRegs.rx a)) :=
  ⟨_, rfl, by rw [exec_atom, execAtom]; exact issueI_ready_brk hr rfl _⟩

theorem cas_isAtomic (hr : s.runs (.cas h a b b64 o sc) = true) : s.IsAtomic (.cas h a b b64 o sc) o sc (s.curRegs.rx a)
    (atomBytes b64) (casBody h b b64 s.curRegs (s.curRegs.rx a)) :=
  ⟨_, rfl, by rw [exec_cas, execCas]; exact issueI_ready_brk hr rfl _⟩

theorem red_isAtomic (hr : s.runs (.red h a b m) = true) : s.IsAtomic (.red h a b m) m.order m.scope (s.curRegs.rx a)
    (atomBytes (tyWide m.ty)) (redBody b m s.curRegs) :=
  ⟨_, rfl, by rw [exec_red, execRed]; exact issueI_ready_brk hr rfl _⟩

theorem boadd_isAtomic (hr : s.runs (.boadd h a b sc) = true) : s.IsAtomic (.boadd h a b sc) .rel sc (s.curRegs.rx a) 8
    (boaddBody b s.curRegs) :=
  ⟨_, rfl, by rw [exec_boadd, execBoadd]; exact issueI_ready_brk hr rfl _⟩

end

/-- The load in flight that brings an atomic's old value to d, or its poison. -/
def atomFly (t : Nat) (h : Hdr) (r : Regs) (vals : List Word) (po : Option DWord) : LoadFly :=
  { thread := t, walker := none, d := h.d.toNat, vals := vals, poison := po, pc := r.pc }

section
variable {s u v : State} {t : Nat} {h : Hdr} {b : Src} {m : AtomMod} {b64 : Bool} {p : Place} {va : DWord} (hc : s.cur = .thread t)
  (hu : s.reforms.Serves u)

include hc hu

/-- A load in flight of the executing thread, after its access. -/
theorem State.Serves.flight (hcur : v.cur = u.cur) (hregs : v.curRegs = u.curRegs) (vals : List Word) (po : Option DWord) :
    v.flight h.d.toNat vals po = { v with loads := v.loads ++ [atomFly t h s.curRegs vals po] } := by
  rw [State.flight_thread (t := t) (by rw [hcur, hu.cur_eq, State.reforms_cur, hc]), hregs, hu.reforms_curRegs]
  rfl

theorem State.Serves.atomRead :
    u.atomRead p = (u.atomAt (s.coreOf t) p, dwOf ((u.atomAt (s.coreOf t) p).fetchPlace none p)) := by
  rw [State.atomRead, hu.reforms_coreOf hc]
  rfl

theorem atomBody_poison (hbad : (u.atomAt (s.coreOf t) p).placeBad p = true) :
    let w := u.atomAt (s.coreOf t) p
    atomBody h b m s.curRegs va u p =
      .none { w with loads := w.loads ++ [atomFly t h s.curRegs (wordsOf (tyWide m.ty) 0) (some va)] } := by
  have hw := hu.trans (u.atomAt_serves (s.coreOf t) p)
  simp only [atomBody, hu.atomRead hc, hbad, if_true, hw.flight hc rfl rfl]

theorem casBody_poison (hbad : (u.atomAt (s.coreOf t) p).placeBad p = true) :
    let w := u.atomAt (s.coreOf t) p
    casBody h b b64 s.curRegs va u p = .none { w with loads := w.loads ++ [atomFly t h s.curRegs (wordsOf b64 0) (some va)] } := by
  have hw := hu.trans (u.atomAt_serves (s.coreOf t) p)
  simp only [casBody, hu.atomRead hc, hbad, if_true, hw.flight hc rfl rfl]

theorem atomBody_good (hbad : (u.atomAt (s.coreOf t) p).placeBad p = false) :
    let w := u.atomAt (s.coreOf t) p
    let old := dwOf (w.fetchPlace none p)
    let put := (w.performPlace p (bytesOf (atomBytes (tyWide m.ty)) (atomVal m.op m.ty old (s.curRegs.atomB (tyWide m.ty) b)))).noteAtom m.op p
    atomBody h b m s.curRegs va u p = .none { put with loads := put.loads ++ [atomFly t h s.curRegs (wordsOf (tyWide m.ty) old) none] } := by
  have hw := hu.trans (u.atomAt_serves (s.coreOf t) p)
  simp only [atomBody, hu.atomRead hc, hbad, Bool.false_eq_true, if_false]
  rw [(hw.trans (performPlace_serves _ _ _)).flight hc (State.noteAtom_cur _ _ _) (State.noteAtom_curRegs _ _ _)]

theorem casBody_good (hbad : (u.atomAt (s.coreOf t) p).placeBad p = false) :
    let w := u.atomAt (s.coreOf t) p
    let old := dwOf (w.fetchPlace none p)
    let put := if old = s.curRegs.acc b64 h.d then w.performPlace p (bytesOf (atomBytes b64) (s.curRegs.atomB b64 b)) else w
    casBody h b b64 s.curRegs va u p = .none { put with loads := put.loads ++ [atomFly t h s.curRegs (wordsOf b64 old) none] } := by
  have hw := hu.trans (u.atomAt_serves (s.coreOf t) p)
  simp only [casBody, hu.atomRead hc, hbad, Bool.false_eq_true, if_false, beq_iff_eq]
  rw [State.Serves.flight hc (u := ite _ _ _) ?_ rfl rfl]
  split
  · exact hw.trans (performPlace_serves _ _ _)
  · exact hw

theorem redBody_eq :
    let w := u.atomAt (s.coreOf t) p
    redBody b m s.curRegs u p = .none ((w.performPlace p (bytesOf (atomBytes (tyWide m.ty)) (atomVal m.op m.ty (dwOf (w.fetchPlace none p))
      (s.curRegs.atomB (tyWide m.ty) b)))).noteAtom m.op p) := by
  simp only [redBody, hu.atomRead hc]

theorem boaddBody_eq :
    let w := u.atomAt (s.coreOf t) p
    boaddBody b s.curRegs u p = .none ((w.performPlace p (bytesOf 8 (boSum (dwOf (w.fetchPlace none p)) (s.curRegs.rx b)))).noteAdvance p.first) := by
  simp only [boaddBody, hu.atomRead hc]

end

/-! ### The values (R243, R244, R248) -/

/-- The bytes of the new value, by the width of the type. -/
theorem atomBytes_eq (m : AtomMod) (o : DWord) (r : Regs) (b : Src) :
    bytesOf (atomBytes (tyWide m.ty)) (atomVal m.op m.ty o (r.atomB (tyWide m.ty) b)) =
      if tyWide m.ty then bytesOf 8 (atomNew m.op (tySigned m.ty) o (r.rx b))
      else bytesOf 4 (zext64 (atomNew m.op (tySigned m.ty) (o.setWidth 32) (r.rv b))) := by
  unfold atomBytes atomVal Regs.atomB
  split
  · rfl
  · have hword : (zext64 (r.rv b)).setWidth 32 = r.rv b := by simp [zext64]
    rw [hword]

/-- The comparison of R243 of two words, by their values. -/
theorem atomLt_eq_intOf (sgn : Bool) (x y : Word) :
    (if sgn then x.slt y else x.ult y) = decide (intOf (!sgn) x < intOf (!sgn) y) := by
  cases sgn <;> simp [intOf, BitVec.slt, BitVec.ult]

theorem toNat_eq_zero_or {w : Nat} {o x : BitVec w} :
    (o.toNat = 0 || decide (x.toNat < o.toNat)) = true ↔ o = 0 ∨ x.toNat < o.toNat := by
  rw [Bool.or_eq_true, decide_eq_true_eq, decide_eq_true_eq, ← BitVec.toNat_inj]
  rfl

/-- Settles O19, instruction by instruction: each is `State.atomic` with what it does at its place, and the way there changes neither the
thread nor its core. -/
theorem atomics : Obligations.Atomics := by
  unfold Obligations.Atomics
  intro s t h a b m b64 pas wv hc r core p wide sgn rel n found released s3 old new32 new64 bytes newBytes fly deliver noted good mayGo
    poisoned hreq
  have hrel : ordRel m.order = rel := ordRel_eq _
  have hwide : tyWide m.ty = wide := by cases hm : m.ty <;> simp [wide, hm, tyWide]
  have hnew : ∀ o, bytesOf (atomBytes (tyWide m.ty)) (atomVal m.op m.ty o (r.atomB (tyWide m.ty) b)) = newBytes o := fun o => by
    have hsgn : tySigned m.ty = sgn := by cases hm : m.ty <;> simp [sgn, hm, tySigned]
    have h64 : ∀ o x, atomNew m.op (tySigned m.ty) o x = new64 o x := fun o x => by
      unfold atomNew new64
      cases m.op <;> simp only [hsgn, toNat_eq_zero_or]
    have h32 : ∀ o x, atomNew m.op (tySigned m.ty) o x = new32 o x := fun o x => by
      unfold atomNew new32
      cases m.op <;> simp only [hsgn, atomLt_eq_intOf, decide_eq_true_eq, toNat_eq_zero_or]
    rw [atomBytes_eq, hwide, h64, h32, bytesOf_eq_map, bytesOf_eq_map]
    rfl
  have hnoted : ∀ u : State, u.noteAtom m.op p = noted u := fun u => u.noteAtom_eq m.op p
  clear_value rel wide
  subst hrel hwide
  have hs3 : ∀ wide o sc, s.reforms.Serves ((found wide).1.afterRelease core o sc) := fun wide o sc =>
    (State.serves_of_check (Prod.ext rfl rfl)).trans (State.afterRelease_serves ..)
  have hput : ∀ (u : State) bs, (u.performPlace p bs).curRegs = u.curRegs := fun u bs => (performPlace_serves u p bs).curRegs_eq
  have hat : ∀ wide o sc, (((found wide).1.afterRelease core o sc).atomAt core p).curRegs = r := fun wide o sc =>
    ((hs3 wide o sc).trans (State.atomAt_serves ..)).reforms_curRegs
  refine ⟨fun hgo x hx i hi hr => ?_, fun hgo x hx hr => (cas_isAtomic hr).trap hc hreq hgo (Prod.ext rfl hx),
    fun hgo x hx hr => (boadd_isAtomic hr).trap hc hreq (fun _ => hgo rfl) (Prod.ext rfl hx), 
    fun ⟨hok, hfree, hpost, hrem⟩ hbad hr => ?_, 
    fun ⟨hok, hfree, hpost, hrem⟩ hbad hr => ?_, fun ⟨hok, hfree, hpost, hrem⟩ => ⟨fun hr hbad => ?_, fun hr => ?_⟩,
    fun ⟨hok, hfree, hpost, hrem⟩ hr hbad => ?_, fun ⟨hok, hfree, hpost, hrem⟩ hr => ?_⟩
  · rcases List.mem_pair.mp hi with rfl | rfl
    · exact (atom_isAtomic hr).trap hc hreq hgo (Prod.ext rfl hx)
    · exact (red_isAtomic hr).trap hc hreq hgo (Prod.ext rfl hx)
  · exact (atom_isAtomic hr).ok hc hreq hrem (Prod.ext rfl hok) hfree hpost (atomBody_poison hc (hs3 _ _ _) hbad) (hat _ _ _)
  · exact (cas_isAtomic hr).ok hc hreq hrem (Prod.ext rfl hok) hfree hpost (casBody_poison hc (hs3 _ _ _) hbad) (hat _ _ _)
  · rw [(atom_isAtomic hr).ok hc hreq hrem (Prod.ext rfl hok) hfree hpost (atomBody_good hc (hs3 _ _ _) hbad)
      ((State.noteAtom_curRegs _ _ _).trans ((hput _ _).trans (hat _ _ _))), hnew, hnoted]
    rfl
  · rw [(red_isAtomic hr).ok hc hreq hrem (Prod.ext rfl hok) hfree hpost (redBody_eq hc (hs3 _ _ _))
      ((State.noteAtom_curRegs _ _ _).trans ((hput _ _).trans (hat _ _ _))), hnew, hnoted]
    rfl
  · rw [(cas_isAtomic hr).ok hc hreq hrem (Prod.ext rfl hok) hfree hpost (casBody_good hc (hs3 _ _ _) hbad) ?_]
    · rw [bytesOf_eq_map]
      rfl
    · exact (apply_ite State.curRegs _ _ _).trans (by rw [hput, ite_self]; exact hat _ _ _)
  · rw [(boadd_isAtomic hr).ok hc hreq (fun _ => hrem rfl) (Prod.ext rfl hok) hfree (fun _ => hpost rfl) (boaddBody_eq hc (hs3 true true m.scope))
      ((hput _ _).trans (hat true true m.scope)), bytesOf_eq_map, boSum, Nat.min_comm]
    rfl

end Sys2Proof.Machine
end

section
/-! SUPPORT. What the memory system does is the same whatever is due to re-form (R16). -/

namespace Sys2Proof.Machine

/-- The state with other quadrants due to re-form. -/
def State.formed (s : State) (q : List (Nat × Nat)) : State := { s with reform := q }

section
variable (s : State) (q : List (Nat × Nat))

@[simp] theorem State.formed_wgs : (s.formed q).wgs = s.wgs := rfl

@[simp] theorem State.formed_wg (w : Nat) : (s.formed q).wg w = s.wg w := rfl

@[simp] theorem State.formed_stk (k : Nat) : (s.formed q).stk k = s.stk k := rfl

@[simp] theorem State.formed_arrayErr : (s.formed q).arrayErr = s.arrayErr := rfl

@[simp] theorem State.formed_poison : (s.formed q).poison = s.poison := rfl

@[simp] theorem State.formed_posted : (s.formed q).posted = s.posted := rfl

@[simp] theorem State.formed_lineBytes (l : Nat) : (s.formed q).lineBytes l = s.lineBytes l := rfl

@[simp] theorem State.formed_dirFind (l : Nat) : (s.formed q).dirFind l = s.dirFind l := rfl

@[simp] theorem State.formed_rootOf (a : As) (va : DWord) : (s.formed q).rootOf a va = s.rootOf a va := rfl

@[simp] theorem State.formed_tlbFind (a : As) (va : DWord) : (s.formed q).tlbFind a va = s.tlbFind a va := rfl

@[simp] theorem State.formed_asOfWg (w : Nat) : (s.formed q).asOfWg w = s.asOfWg w := rfl

@[simp] theorem State.formed_filledCount : (s.formed q).filledCount = s.filledCount := rfl

@[simp] theorem State.formed_updWg (w : Nat) (f : Wg → Wg) : (s.formed q).updWg w f = (s.updWg w f).formed q := rfl

@[simp] theorem State.formed_updStk (w : Nat) (f : StackSt → StackSt) :
    (s.formed q).updStk w f = (s.updStk w f).formed q := rfl

@[simp] theorem State.formed_rewrite (l : Nat) (d : List Nat) (b : Bool) :
    (s.formed q).rewrite l d b = (s.rewrite l d b).formed q := rfl

@[simp] theorem State.formed_logUe (pa src : Nat) : (s.formed q).logUe pa src = (s.logUe pa src).formed q := rfl

theorem ite_formed (c : Prop) [Decidable c] (x y : State) :
    (if c then x.formed q else y.formed q) = (if c then x else y).formed q :=
  (apply_ite (State.formed · q) _ _ _).symm

@[simp] theorem State.formed_readArray (pa src : Nat) : (s.formed q).readArray pa src = (s.readArray pa src).formed q := by
  unfold State.readArray
  dsimp only [State.formed_arrayErr, State.formed_poison, State.formed_stk, State.formed_lineBytes, State.formed_rewrite,
    State.formed_updStk, State.formed_logUe]
  cases eccRead _ _ <;> dsimp only <;> split_ifs <;> rfl

@[simp] theorem State.formed_demand (pa src : Nat) : (s.formed q).demand pa src = (s.demand pa src).formed q := by
  simp only [State.demand, State.formed_dirFind, State.formed_readArray]
  split_ifs <;> rfl

@[simp] theorem State.formed_viewBytes (v : Option Nat) (pa n : Nat) :
    (s.formed q).viewBytes v pa n = s.viewBytes v pa n := rfl

@[simp] theorem State.formed_readPhys8 (pa : Nat) : (s.formed q).readPhys8 pa = s.readPhys8 pa := by
  simp only [State.readPhys8, State.formed_arrayErr, State.formed_demand, ite_formed, State.formed_viewBytes]

@[simp] theorem State.formed_walkDemand (ls : List Nat) (t va : Nat) :
    (s.formed q).walkDemand t va ls = (s.walkDemand t va ls).formed q := by
  induction ls generalizing s t with
  | nil => rfl
  | cons lvl lower ih =>
    simp only [State.walkDemand, State.formed_demand, ih, State.formed_readPhys8]
    split_ifs <;> rfl

@[simp] theorem State.formed_demandWalk (a : As) (va : DWord) :
    (s.formed q).demandWalk a va = (s.demandWalk a va).formed q := by
  unfold State.demandWalk
  rw [State.formed_walkDemand, ite_formed]
  rfl

@[simp] theorem State.formed_demandLeaf (a : As) (va : DWord) (w : Bool) :
    (s.formed q).demandLeaf a va w = (s.demandLeaf a va w).formed q := by
  simp only [State.demandLeaf, State.formed_demandWalk, State.formed_demand, State.formed_arrayErr, State.formed_tlbFind,
    State.formed_readPhys8]
  cases s.tlbFind a va <;> dsimp only <;> split_ifs <;> rfl

@[simp] theorem State.formed_demandWb (w l : Nat) : (s.formed q).demandWb w l = (s.demandWb w l).formed q := by
  simp only [State.demandWb, State.formed_demandLeaf, State.formed_wg, State.formed_asOfWg]
  cases (s.wg w).entryOf l <;> rfl

@[simp] theorem State.formed_malformed (e : DWord) (lvl : Nat) : (s.formed q).malformed e lvl = s.malformed e lvl := rfl

@[simp] theorem State.formed_walk (pa t : Nat) (l : List Nat) : (s.formed q).walk pa t l = s.walk pa t l := by
  induction l generalizing pa with
  | nil => rfl
  | cons lvl lower ih => simp only [State.walk, State.formed_readPhys8, State.formed_malformed, ih]

@[simp] theorem State.formed_walkLeaf (a : As) (va : DWord) : (s.formed q).walkLeaf a va = s.walkLeaf a va := by
  simp only [State.walkLeaf, State.formed_rootOf, State.formed_walk]

@[simp] theorem State.formed_wbLeaf (w l : Nat) : (s.formed q).wbLeaf w l = s.wbLeaf w l := by
  simp only [State.wbLeaf, State.formed_walkLeaf, State.formed_tlbFind, State.formed_asOfWg, State.formed_wg, State.formed_readPhys8]

@[simp] theorem State.formed_wbPlace (w l : Nat) : (s.formed q).wbPlace w l = s.wbPlace w l := by
  simp only [State.wbPlace, State.formed_wbLeaf, State.formed_wg]

@[simp] theorem State.formed_wbKept (n w l : Nat) : (s.formed q).wbKept n w l = s.wbKept n w l := by
  induction n generalizing w l with
  | zero => rfl
  | succ n ih => simp only [State.wbKept, ih, State.formed_wg, State.formed_wbPlace, State.formed_dirFind]

@[simp] theorem State.formed_wbKeeper (w l : Nat) : (s.formed q).wbKeeper w l = s.wbKeeper w l := State.formed_wbKept ..

@[simp] theorem State.formed_demandBlocked (pa n : Nat) : (s.formed q).demandBlocked pa n = s.demandBlocked pa n := by
  simp only [State.demandBlocked, State.formed_wbKeeper, State.formed_dirFind]

@[simp] theorem State.formed_wbOk (w l : Nat) : (s.formed q).wbOk w l = s.wbOk w l := by
  rw [State.wbOk, State.formed_wbKeeper, State.wbOk]

@[simp] theorem State.formed_putHome (pa : Nat) (bs : List Byte) :
    (s.formed q).putHome pa bs = (s.putHome pa bs).formed q := by
  simp only [State.putHome, State.formed_dirFind]
  cases s.dirFind (pa / 64) <;> rfl

@[simp] theorem State.formed_countWrite (pa : Nat) : (s.formed q).countWrite pa = (s.countWrite pa).formed q := by
  simp only [State.countWrite]
  split_ifs <;> rfl

@[simp] theorem State.formed_setLeaf (l : TlbLeaf) (w : Bool) : (s.formed q).setLeaf l w = (s.setLeaf l w).formed q := by
  simp only [State.setLeaf, State.formed_putHome, State.formed_countWrite]
  split_ifs <;> rfl

@[simp] theorem State.formed_storeLine (pl : Nat) (bs : List Byte) (b w : Bool) :
    (s.formed q).storeLine pl bs b w = (s.storeLine pl bs b w).formed q := by
  unfold State.storeLine
  cases w
  · rfl
  · exact State.formed_countWrite { s with mem := _, arrayErr := _, poison := _ } q _

@[simp] theorem State.formed_wbLine (w l : Nat) (x : LineSt) (wv : Bool) (pl : Nat) :
    (s.formed q).wbLine w l x wv pl = (s.wbLine w l x wv pl).formed q := by
  simp only [State.wbLine, State.formed_storeLine, State.formed_wg, State.formed_updWg]

@[simp] theorem State.formed_ownSlot (n : Nat) (lf : TlbLeaf) (w : Bool) :
    (s.formed q).ownSlot n lf w = (s.ownSlot n lf w).formed q := by
  induction n generalizing s lf w with
  | zero => rfl
  | succ n ih =>
    simp only [State.ownSlot, State.formed_dirFind, State.formed_wg, State.formed_wbPlace, State.formed_demandWb, ih, State.formed_setLeaf,
      State.formed_wbLine, State.formed_updWg]
    split_ifs
    · rfl
    cases s.dirFind (lf.slot / 64) with
    | none => rfl
    | some v =>
      dsimp only
      cases (s.wg v.1).lines.get v.2 with
      | none => rfl
      | some x => cases s.wbPlace v.1 v.2 <;> dsimp only <;> split_ifs <;> rfl

@[simp] theorem State.formed_markLeaf (l : TlbLeaf) (w : Bool) : (s.formed q).markLeaf l w = (s.markLeaf l w).formed q := by
  simp only [State.markLeaf, State.formed_ownSlot, State.formed_filledCount, State.formed_setLeaf]

@[simp] theorem State.formed_wbStore (w l : Nat) (x : LineSt) (lf : TlbLeaf) (pl : Nat) :
    (s.formed q).wbStore w l x lf pl = (s.wbStore w l x lf pl).formed q := by
  simp only [State.wbStore, State.formed_demandWb, State.formed_markLeaf, State.formed_wbLine]

@[simp] theorem State.formed_giveUpOwn (w l : Nat) : (s.formed q).giveUpOwn w l = (s.giveUpOwn w l).formed q := by
  simp only [State.giveUpOwn, State.formed_wg, State.formed_wbPlace, State.formed_wbStore]
  cases (s.wg w).lines.get l with
  | none => rfl
  | some x => cases hd : x.dirty <;> cases s.wbPlace w l <;> simp only [hd, State.formed_updWg]

@[simp] theorem State.formed_cleanLine (w l : Nat) : (s.formed q).cleanLine w l = (s.cleanLine w l).formed q := by
  simp only [State.cleanLine, State.formed_wg, State.formed_wbPlace, State.formed_wbStore, State.formed_dirFind, State.formed_giveUpOwn]
  cases (s.wg w).lines.get l with
  | none => rfl
  | some x =>
    cases s.wbPlace w l with
    | none => rfl
    | some y =>
      dsimp only
      split_ifs
      · cases x.pa <;> cases s.dirFind y.2 <;> simp only [State.formed_wbStore, State.formed_giveUpOwn]
      · rfl

@[simp] theorem State.formed_giveUp (w l : Nat) : (s.formed q).giveUp w l = (s.giveUp w l).formed q := by
  simp only [State.giveUp, State.formed_wbOk, State.formed_cleanLine, State.formed_updWg]
  split_ifs <;> rfl

@[simp] theorem State.formed_takeLine (l : Nat) : (s.formed q).takeLine l = (s.takeLine l).formed q := by
  simp only [State.takeLine, State.formed_dirFind, State.formed_giveUp]
  cases s.dirFind l <;> rfl

/-- A fold commutes with the re-forming when its step does. -/
theorem foldl_formed {ι : Type} {f : State → ι → State} (hf : ∀ s i, f (s.formed q) i = (f s i).formed q) (l : List ι) :
    l.foldl f (s.formed q) = (l.foldl f s).formed q := by
  induction l generalizing s with
  | nil => rfl
  | cons i r ih => rw [List.foldl_cons, hf, ih, List.foldl_cons]

@[simp] theorem State.formed_writeErrors (pa n : Nat) (ls : List Nat) :
    (s.formed q).writeErrors pa n ls = (s.writeErrors pa n ls).formed q := by
  refine foldl_formed s q (fun u l => ?_) ls
  simp only [State.formed_demand, State.formed_arrayErr]
  split_ifs <;> rfl

@[simp] theorem State.formed_perform (pa : Nat) (bs : List Byte) (wv : Bool) :
    (s.formed q).perform pa bs wv = (s.perform pa bs wv).formed q := by
  cases bs with
  | nil => rfl
  | cons b r =>
    unfold State.perform
    dsimp only
    rw [foldl_formed s q fun u l => State.formed_takeLine u q l]
    generalize List.foldl _ s _ = u
    have herr : (if (u.formed q).arrayErr = [] then u.formed q else (u.formed q).writeErrors pa (b :: r).length
        ((List.range ((pa + (b :: r).length - 1) / 64 - pa / 64 + 1)).map (pa / 64 + ·))) =
        (if u.arrayErr = [] then u else u.writeErrors pa (b :: r).length
          ((List.range ((pa + (b :: r).length - 1) / 64 - pa / 64 + 1)).map (pa / 64 + ·))).formed q := by
      rw [State.formed_writeErrors, ite_formed]
      rfl
    rw [herr]
    generalize (if u.arrayErr = [] then u else _) = v
    split_ifs
    · exact foldl_formed (f := fun (w : State) k => w.countWrite (4096 * k))
        { v with mem := putBytes v.mem pa (b :: r), poison := v.poison.filter fun l => !(pa ≤ 64 * l && 64 * l + 64 ≤ pa + (b :: r).length) } q
        (fun w k => State.formed_countWrite w q _) _
    · rfl

theorem flushOne_formed (x : State × List PostedW) (w : PostedW) :
    flushOne (x.1.formed q, x.2) w = ((flushOne x w).1.formed q, (flushOne x w).2) := by
  simp only [flushOne, State.formed_demandBlocked, State.formed_perform]
  split_ifs <;> rfl

theorem foldl_flushOne_formed (ws : List PostedW) (x : State × List PostedW) :
    ws.foldl flushOne (x.1.formed q, x.2) = ((ws.foldl flushOne x).1.formed q, (ws.foldl flushOne x).2) := by
  induction ws generalizing x with
  | nil => rfl
  | cons w r ih => rw [List.foldl_cons, flushOne_formed, ih, List.foldl_cons]

@[simp] theorem State.formed_flushWhere (p : PostedW → Bool) : (s.formed q).flushWhere p = (s.flushWhere p).formed q := by
  have hfold := foldl_flushOne_formed q (takePosted p s.posted).1 ({ s with posted := (takePosted p s.posted).2 }, [])
  unfold State.flushWhere
  exact congrArg (fun y : State × List PostedW => { y.1 with posted := y.2 ++ y.1.posted }) hfold

@[simp] theorem State.formed_postBlocked (core : Nat) : (s.formed q).postBlocked core = s.postBlocked core := by
  simp only [State.postBlocked, State.formed_demandBlocked, State.formed_posted]

theorem State.reforms_flushCore_postBlocked (core : Nat) :
    (s.reforms.flushCore core).postBlocked core = (s.flushCore core).postBlocked core := by
  obtain ⟨q, hq⟩ := s.reforms_eq
  rw [hq]
  exact (congrArg (State.postBlocked · core) (State.formed_flushWhere s q _)).trans (State.formed_postBlocked ..)

end

end Sys2Proof.Machine
end

section
/-! PROOFS. Remote accesses at their issue (O24). -/

namespace Sys2Proof.Machine

/-! ### What the entry of a remote access changes (R120, R252) -/

theorem State.openStream_eq (s : State) (wg k : Nat) (sc : Scope) : ∃ wgs, s.openStream wg k sc = { s with wgs := wgs } := by
  unfold State.openStream
  split
  · exact ⟨_, rfl⟩
  · exact ⟨_, rfl⟩

/-- A message goes to this package, or to the links; nothing else changes. -/
theorem State.send_eq (s : State) (dst : BitVec 11) (m : FabMsg) :
    ∃ fabric outbox links, s.send dst m = { s with fabric := fabric, outbox := outbox, links := links } := by
  unfold State.send
  split
  · exact ⟨_, _, _, rfl⟩
  · exact ⟨_, _, _, rfl⟩

theorem State.sendAcc_request {s : State} {i : Nat} {a : RAccess} (ha : s.racc[i]? = some a) (hk : a.contrib = none) :
    ∃ fabric outbox links cyc, s.sendAcc i =
      { s with fabric := fabric, outbox := outbox, links := links,
               racc := s.racc.modify i fun x => { x with sent := true, sentAt := cyc } } := by
  unfold State.sendAcc
  simp only [ha, hk]
  generalize FabMsg.request _ = msg
  obtain ⟨_, _, _, hsend⟩ := s.send_eq a.owner msg
  rw [hsend]
  exact ⟨_, _, _, _, rfl⟩

/-- What an access captures at its entry into the table. -/
structure RAccess.Captured (x : RAccess) (s : State) (t : Nat) (kind : RKind) (hold : Bool) (stream : Nat) (owner : BitVec 11)
    (va data expect : DWord) (contrib : Option Contribution) : Prop where
  live : x.live = true
  core : x.core = s.coreOf t
  crew : x.crew = s.crewOf t
  thread : x.thread = t
  lane : x.lane = s.laneOf t
  owner : x.owner = owner
  kind : x.kind = kind
  va : x.va = va
  data : x.data = data
  expect : x.expect = expect
  hold : x.hold = hold
  stream : x.stream = stream
  pc : x.pc = s.curRegs.pc
  tkid : x.tkid = none
  contrib : x.contrib = contrib.map fun k => { k with acc := s.racc.length, core := s.coreOf t, lane := s.laneOf t }

theorem State.Serves.laneOf_eq {s s' : State} (h : s.Serves s') (t : Nat) : s'.laneOf t = s.laneOf t := by
  have hrot : ∀ w, (s'.wg w).rot = (s.wg w).rot := fun w => by
    obtain ⟨_, _, _, _, _, _, _, _, _, hw, rfl⟩ := h
    have hbare := congrArg (fun l : List Wg => (l.getD w ({} : Wg).bare).rot) hw
    rwa [State.bareWgs, List.getD_map, List.getD_map] at hbare
  simp only [State.laneOf, State.quadOf, State.wgOfCrew, State.crew, h.crews_eq, h.crewOf_eq, h.thr_eq, hrot]

@[simp] theorem State.reforms_laneOf (s : State) (t : Nat) : s.reforms.laneOf t = s.laneOf t := by
  obtain ⟨_, h⟩ := s.reforms_eq; rw [h]; rfl

@[simp] theorem State.reforms_tableUsed (s : State) (core : Nat) : s.reforms.tableUsed core = s.tableUsed core := by
  obtain ⟨_, h⟩ := s.reforms_eq; rw [h]; rfl

@[simp] theorem State.reforms_counter (s : State) (c cls : Nat) : s.reforms.counter c cls = s.counter c cls := by
  obtain ⟨_, h⟩ := s.reforms_eq; rw [h]; rfl

@[simp] theorem State.reforms_fabReach (s : State) (p : Nat) (pkg : BitVec 11) :
    s.reforms.fabReach p pkg = s.fabReach p pkg := by
  obtain ⟨_, h⟩ := s.reforms_eq; rw [h]; rfl

@[simp] theorem State.reforms_part (s : State) (p : Nat) : s.reforms.part p = s.part p := by
  obtain ⟨_, h⟩ := s.reforms_eq; rw [h]; rfl

theorem State.Serves.tableUsed_eq {s s' : State} (h : s.Serves s') (core : Nat) : s'.tableUsed core = s.tableUsed core := by
  rw [State.tableUsed, h.racc_eq, State.tableUsed]

@[simp] theorem State.count_laneOf (s : State) (c cls t : Nat) : (s.count c cls).1.laneOf t = s.laneOf t := by
  have hnum : ∀ k, ((s.count c cls).1.crew k).num = (s.crew k).num ∧ ((s.count c cls).1.crew k).wg = (s.crew k).wg := fun k => by
    simp only [State.count, State.crew_updCrew]
    split
    · rename_i h
      rw [h.1]
      exact ⟨rfl, rfl⟩
    · exact ⟨rfl, rfl⟩
  simp only [State.laneOf, State.quadOf, State.wgOfCrew, (hnum _).1, (hnum _).2]
  rfl

/-- The class 4 number and count of a posted access; a held one takes none. -/
def State.counted (s : State) (hold : Bool) (c : Nat) : State := if hold then s else (s.count c 4).1

section
variable (s u : State) (hold : Bool) (c : Nat)

@[simp] theorem State.counted_cur : (s.counted hold c).cur = s.cur := by cases hold <;> rfl

@[simp] theorem State.counted_threads : (s.counted hold c).threads = s.threads := by cases hold <;> rfl

@[simp] theorem State.counted_racc : (s.counted hold c).racc = s.racc := by cases hold <;> rfl

theorem State.counted_crews {s u : State} (h : u.crews = s.crews) : (u.counted hold c).crews = (s.counted hold c).crews := by
  cases hold with
  | true => exact h
  | false => simp only [State.counted, State.count, Bool.false_eq_true, if_false, State.updCrew_crews, State.crew, h]

end

section
variable {s u : State} {t : Nat} (hc : s.cur = .thread t) (hu : s.reforms.Serves u)
include hc hu

/-- An access with room in the table, once its release is done, enters the table with what it captures. -/
theorem remoteEnter_eq {ins : Instr} {kind : RKind} {hold : Bool} {stream d : Nat} {owner : BitVec 11} {va data expect : DWord}
    {contrib : Option Contribution} (hroom : s.tableUsed (s.coreOf t) < 64)
    (hfree : rkRel kind = true → (u.flushCore (s.coreOf t)).postBlocked (s.coreOf t) = none) :
    ∃ x : RAccess, x.Captured s t kind hold stream owner va data expect contrib ∧
      let v := ((if rkRel kind then u.flushCore (s.coreOf t) else u).counted hold (s.crewOf t)).enterAcc x
      remoteEnter ins kind hold stream d owner va data expect contrib u = if hold then .wait v (.held s.racc.length) else .none v := by
  have hrel : s.reforms.Serves (if rkRel kind then u.flushCore (s.coreOf t) else u) := by
    split
    · exact hu.trans (flushCore_serves _ _)
    · exact hu
  have hgo : ∀ go, u.releaseThen (s.coreOf t) (if rkRel kind then .dom else .core) go =
      go (if rkRel kind then u.flushCore (s.coreOf t) else u) := fun go => by
    cases hk : rkRel kind with
    | true => exact State.releaseThen_of_free rfl (hfree hk) go
    | false => rfl
  have ht := hrel.reforms_t hc
  have hfull : ¬64 ≤ u.tableUsed (s.coreOf t) := by
    rw [hu.tableUsed_eq, State.reforms_tableUsed]
    omega
  unfold remoteEnter
  simp only [hu.reforms_coreOf hc, if_neg hfull, hgo]
  generalize (if rkRel kind then u.flushCore (s.coreOf t) else u) = w at hrel ht
  have hcrew : w.crewOf u.t = s.crewOf t := by rw [hrel.crewOf_eq, State.reforms_crewOf, hu.reforms_t hc]
  have hlane : w.laneOf u.t = s.laneOf t := by rw [hrel.laneOf_eq, State.reforms_laneOf, hu.reforms_t hc]
  have hracc : w.racc = s.racc := hrel.racc_eq.trans s.reforms_racc
  have hpc : (w.thr u.t).r.pc = s.curRegs.pc := by rw [hrel.thr_eq, State.reforms_thr, hu.reforms_t hc, State.curRegs_of_cur hc]
  have hmap : ∀ v : State, v.racc = s.racc → v.laneOf u.t = s.laneOf t →
      contrib.map (fun k => { k with acc := v.racc.length, core := s.coreOf t, lane := v.laneOf u.t }) =
        contrib.map fun k => { k with acc := s.racc.length, core := s.coreOf t, lane := s.laneOf t } := fun v h1 h2 => by rw [h1, h2]
  have hlane' : (w.count (w.crewOf u.t) 4).1.laneOf u.t = s.laneOf t := (State.count_laneOf ..).trans hlane
  cases hold with
  | true =>
    simp only [if_true, State.counted]
    refine ⟨?x, ?fields, ?eq⟩
    case eq =>
      rw [← hracc]
    case fields => exact ⟨rfl, rfl, hcrew, hu.reforms_t hc, hlane, rfl, rfl, rfl, rfl, rfl, rfl, rfl, hpc, rfl, hmap w hracc hlane⟩
  | false =>
    simp only [Bool.false_eq_true, if_false, State.counted]
    refine ⟨?y, ?captured, ?count⟩
    case count => rw [← hcrew]
    case captured => exact ⟨rfl, rfl, hcrew, hu.reforms_t hc, hlane', rfl, rfl, rfl, rfl, rfl, rfl, rfl, hpc, rfl,
      hmap (w.count (w.crewOf u.t) 4).1 hracc hlane'⟩

end

theorem modify_concat {α : Type} (l : List α) (x : α) (f : α → α) : (l ++ [x]).modify l.length f = l ++ [f x] := by
  induction l with
  | nil => rfl
  | cons y ys ih => exact congrArg (y :: ·) ih

/-- An access that carries no contribution is in the table at the end, sent or held back. -/
theorem State.enterAcc_request (s : State) {a : RAccess} (hk : a.contrib = none) :
    ∃ wgs fabric outbox links sent cyc, s.enterAcc a =
      { s with wgs := wgs, fabric := fabric, outbox := outbox, links := links, racc := s.racc ++ [{ a with sent := sent, sentAt := cyc }] } := by
  obtain ⟨wgs, hopen⟩ := s.openStream_eq (s.wgOfCrew a.crew) a.stream .dom
  unfold State.enterAcc
  rw [hopen]
  dsimp only
  split
  · exact ⟨wgs, s.fabric, s.outbox, s.links, a.sent, a.sentAt, rfl⟩
  · have ha : ({ s with wgs := wgs, racc := s.racc ++ [a] } : State).racc[s.racc.length]? = some a := List.getElem?_concat_length
    obtain ⟨fabric, outbox, links, cyc, hsend⟩ := State.sendAcc_request ha hk
    refine ⟨wgs, fabric, outbox, links, true, cyc, ?_⟩
    rw [hsend, modify_concat]

theorem RAccess.Captured.withSent {x : RAccess} {s : State} {t stream : Nat} {kind : RKind} {hold : Bool} {owner : BitVec 11}
    {va data expect : DWord} {contrib : Option Contribution} (h : x.Captured s t kind hold stream owner va data expect contrib) (sent : Bool)
    (cyc : Nat) : ({ x with sent := sent, sentAt := cyc } : RAccess).Captured s t kind hold stream owner va data expect contrib :=
  ⟨h.live, h.core, h.crew, h.thread, h.lane, h.owner, h.kind, h.va, h.data, h.expect, h.hold, h.stream, h.pc, h.tkid, h.contrib⟩

/-! ### The local check of a remote access (R120, R246, R252) -/

/-- The instruction is a remote access: at a step at which it runs, it takes the way of `remoteIssue`. -/
def State.IsRemote (s : State) (i : Instr) (a : Src) (kind : RKind) (hold : Bool) (stream : BitVec 3) (data expect : DWord) : Prop :=
  ∃ (x : Iss) (d : BitVec 11), x.a.brk = true ∧
    exec i s = .next (deliver x (remoteIssue i kind hold stream d a data expect s.reforms s.curRegs))

/-- The address is canonical and the thread's to use, and the owner is in its reach (R233, R252). -/
def State.Reached (s : State) (va : DWord) (pkg : BitVec 11) : Prop :=
  canonical va = true ∧ (va.getLsbD 56 = true → s.curAs.sup = true) ∧ s.fabReach s.curAs.part pkg = true

theorem State.reached_iff (s : State) (va : DWord) (pkg : BitVec 11) :
    s.Reached va pkg ↔ ¬(!canonical va || (va.getLsbD 56 && !s.curAs.sup) || !s.fabReach s.curAs.part pkg) = true := by
  rw [State.Reached]
  cases canonical va <;> cases va.getLsbD 56 <;> cases s.curAs.sup <;> cases s.fabReach s.curAs.part pkg <;> decide

section
variable {s : State} {t : Nat} {i : Instr} {a : Src} {kind : RKind} {hold : Bool} {stream : BitVec 3} {data expect : DWord}
  (hi : s.IsRemote i a kind hold stream data expect)

include hi

theorem State.IsRemote.reserved (hown : 2048 ≤ (s.curRegs.v.get (srcReg a + 2)).toNat) :
    exec i s = .next (s.reforms.raise { cause := .illegalOperand }) := by
  obtain ⟨_, _, -, hi⟩ := hi
  have hne : ((s.curRegs.v.get (srcReg a + 2)).toNat / 2048 != 0) = true := bne_iff_ne.mpr (by omega)
  rw [hi, remoteIssue, if_pos hne, deliver_trap]

section
variable (hown : (s.curRegs.v.get (srcReg a + 2)).toNat < 2048)
include hown

omit hi in

theorem reserved_clear : ((s.curRegs.v.get (srcReg a + 2)).toNat / 2048 != 0) = false := by
  rw [Nat.div_eq_of_lt hown]
  rfl

theorem State.IsRemote.misaligned (hal : (s.curRegs.x (srcReg a)).toNat % rkBytes kind ≠ 0) :
    exec i s = .next (s.reforms.raise (accTrap .misaligned (rkAcc kind) (s.curRegs.x (srcReg a)))) := by
  obtain ⟨_, _, -, hi⟩ := hi
  rw [hi, remoteIssue, if_neg (by rw [reserved_clear hown]; decide), if_pos (bne_iff_ne.mpr hal), deliver_trap]

variable (hal : (s.curRegs.x (srcReg a)).toNat % rkBytes kind = 0)
include hal

theorem State.IsRemote.unreached (hno : ¬s.Reached (s.curRegs.x (srcReg a)) ((s.curRegs.v.get (srcReg a + 2)).setWidth 11)) :
    exec i s = .next (s.reforms.raise (accTrap .access (rkAcc kind) (s.curRegs.x (srcReg a)))) := by
  obtain ⟨_, _, -, hi⟩ := hi
  rw [State.reached_iff, not_not] at hno
  rw [hi, remoteIssue, if_neg (by rw [reserved_clear hown]; decide), if_neg (by rw [hal]; decide), State.reforms_curAs, State.reforms_fabReach,
    if_pos hno, deliver_trap]

variable (hc : s.cur = .thread t) (hreq : s.requests (s.coreOf t) < 2048)
  (hin : s.Reached (s.curRegs.x (srcReg a)) ((s.curRegs.v.get (srcReg a + 2)).setWidth 11))
  (hrem : rkRel kind = true → s.remotePending (s.crewOf t) s.racc.length = false)

include hc hreq hin hrem

/-- Past its local check, a remote access goes to the ticket table, a posted one past its counter. -/
theorem State.IsRemote.checked : ∃ (x : Iss) (d : BitVec 11), x.a.brk = true ∧
    let enter := remoteEnter i kind hold stream.toNat d.toNat ((s.curRegs.v.get (srcReg a + 2)).setWidth 11) (s.curRegs.x (srcReg a))
      data expect none
    exec i s = .next (deliver x (if hold then enter s.reforms else s.reforms.counterRoom 4 enter)) := by
  obtain ⟨x, d, hb, hi⟩ := hi
  refine ⟨x, d, hb, ?_⟩
  rw [State.reached_iff] at hin
  rw [hi, remoteIssue, if_neg (by rw [reserved_clear hown]; decide), if_neg (by rw [hal]; decide), State.reforms_curAs, State.reforms_fabReach,
    if_neg hin]
  dsimp only
  cases hk : rkRel kind with
  | true => rw [if_pos rfl, State.reforms_awaitRemote hc (hrem hk), State.reforms_budget hc hreq]
  | false => rw [if_neg Bool.false_ne_true, State.reforms_budget hc hreq]

theorem State.IsRemote.saturated (hold' : hold = false) (hfull : 4095 ≤ s.counter (s.crewOf t) 4) :
    exec i s = .next (if (s.part s.curAs.part).satrap then s.reforms.raise { cause := .counterSaturated } else s.reforms.stallCur) := by
  obtain ⟨x, d, -, hi⟩ := hi.checked hown hal hc hreq hin hrem
  rw [hi, hold', if_neg Bool.false_ne_true, State.counterRoom, State.reforms_t, State.t_of_cur hc, State.reforms_crewOf, State.reforms_counter,
    if_neg (by omega), State.reforms_curAs, State.reforms_part]
  split <;> rfl

theorem State.IsRemote.tableFull (hcount : hold = false → s.counter (s.crewOf t) 4 < 4095) (hfull : 64 ≤ s.tableUsed (s.coreOf t)) :
    exec i s = .next s.reforms.stallCur := by
  obtain ⟨x, d, -, hi⟩ := hi.checked hown hal hc hreq hin hrem
  have hstall : ∀ ins kind hold st d own va data exp con, remoteEnter ins kind hold st d own va data exp con s.reforms = .stall s.reforms :=
    fun _ _ _ _ _ _ _ _ _ _ => if_pos (by rwa [State.reforms_t, State.t_of_cur hc, State.reforms_coreOf, State.reforms_tableUsed])
  rw [hi]
  cases hold with
  | true =>
    rw [if_pos rfl, hstall]
    rfl
  | false =>
    rw [if_neg Bool.false_ne_true, State.counterRoom, State.reforms_t, State.t_of_cur hc, State.reforms_crewOf, State.reforms_counter,
      if_pos (hcount rfl), hstall]
    rfl

/-! ### The entry of a held and of a posted access (R252 to R254) -/

variable (hroom : s.tableUsed (s.coreOf t) < 64)
  (hfree : rkRel kind = true → (s.flushCore (s.coreOf t)).postBlocked (s.coreOf t) = none)

include hroom hfree

/-- The state that an entry leaves: the table has one access more, and threads and crews are as before but for the count. -/
theorem State.IsRemote.enters (hcount : hold = false → s.counter (s.crewOf t) 4 < 4095) :
    ∃ (iss : Iss) (v : State) (x : RAccess), iss.a.brk = true ∧
      x.Captured s t kind hold stream.toNat ((s.curRegs.v.get (srcReg a + 2)).setWidth 11) (s.curRegs.x (srcReg a)) data expect none ∧
      v.racc = s.racc ++ [x] ∧ v.cur = s.cur ∧ v.threads = s.threads ∧ v.crews = (s.counted hold (s.crewOf t)).crews ∧
      exec i s = .next (deliver iss (if hold then .wait v (.held s.racc.length) else .none v)) := by
  obtain ⟨iss, d, hb, hi⟩ := hi.checked hown hal hc hreq hin hrem
  obtain ⟨x, hx, henter⟩ := remoteEnter_eq (ins := i) (hold := hold) (stream := stream.toNat) (d := d.toNat)
    (owner := (s.curRegs.v.get (srcReg a + 2)).setWidth 11) (va := s.curRegs.x (srcReg a)) (data := data) (expect := expect) (contrib := none)
    hc (.refl _) hroom (by rwa [State.reforms_flushCore_postBlocked])
  have hrel : s.reforms.Serves (if rkRel kind then s.reforms.flushCore (s.coreOf t) else s.reforms) := by
    split
    · exact flushCore_serves _ _
    · exact .refl _
  obtain ⟨wgs, fabric, outbox, links, sent, cyc, hput⟩ := State.enterAcc_request
    ((if rkRel kind then s.reforms.flushCore (s.coreOf t) else s.reforms).counted hold (s.crewOf t)) hx.contrib
  dsimp only at henter
  generalize ((if rkRel kind then s.reforms.flushCore (s.coreOf t) else s.reforms).counted hold (s.crewOf t)).enterAcc x = v at henter hput
  refine ⟨iss, v, _, hb, hx.withSent sent cyc, ?_, ?_, ?_, ?_, ?_⟩
  case refine_5 =>
    rw [hi, ← henter]
    cases hold with
    | true => rfl
    | false => rw [if_neg Bool.false_ne_true, State.counterRoom, State.reforms_t, State.t_of_cur hc, State.reforms_crewOf,
        State.reforms_counter, if_pos (hcount rfl)]
  all_goals rw [hput]
  · exact congrArg (· ++ _) ((State.counted_racc ..).trans (hrel.racc_eq.trans s.reforms_racc))
  · exact (State.counted_cur ..).trans (hrel.cur_eq.trans s.reforms_cur)
  · exact (State.counted_threads ..).trans (hrel.threads_eq.trans s.reforms_threads)
  · exact State.counted_crews _ _ (hrel.crews_eq.trans s.reforms_crews)

variable (ht : t < s.threads.length)
include ht

/-- A held access is in the table, and its thread is parked at the instruction. -/
theorem State.IsRemote.held (hold' : hold = true) : ∃ (s' : State) (x : RAccess), exec i s = .next s' ∧
    x.Captured s t kind hold stream.toNat ((s.curRegs.v.get (srcReg a + 2)).setWidth 11) (s.curRegs.x (srcReg a)) data expect none ∧
    s'.racc = s.racc ++ [x] ∧ (s'.thr t).st = .parkedRemote (.held s.racc.length) ∧ (s'.thr t).r = s.curRegs ∧ s'.crews = s.crews := by
  subst hold'
  obtain ⟨iss, v, x, -, hx, hracc, hcur, hthreads, hcrews, hexec⟩ := hi.enters hown hal hc hreq hin hrem hroom hfree (fun h => nomatch h)
  refine ⟨v.hold (.held s.racc.length), x, hexec, hx, ?_, ?_⟩
  · rw [State.hold_thread (hcur.trans hc), ← hracc]
    rfl
  · rw [State.hold_thread (hcur.trans hc), State.thr_updThr_same (by rwa [hthreads]), State.curRegs_of_cur hc, State.thr, hthreads]
    exact ⟨rfl, rfl, hcrews⟩

/-- A posted access is in the table and counted, and its thread goes on. -/
theorem State.IsRemote.posted (hold' : hold = false) (hcrew : s.crewOf t < s.crews.length) (hcount : s.counter (s.crewOf t) 4 < 4095) :
    ∃ (s' : State) (x : RAccess), exec i s = .next s' ∧
    x.Captured s t kind hold stream.toNat ((s.curRegs.v.get (srcReg a + 2)).setWidth 11) (s.curRegs.x (srcReg a)) data expect none ∧
    s'.racc = s.racc ++ [x] ∧ (s'.thr t).r = s.curRegs.broke ∧ (s'.thr t).st = (s.thr t).st ∧
    (s'.crew (s.crewOf t)).outst = (s.crew (s.crewOf t)).outst ++ [⟨4, (s.crew (s.crewOf t)).iss.get 4, false⟩] := by
  subst hold'
  obtain ⟨iss, v, x, hb, hx, hracc, hcur, hthreads, hcrews, hexec⟩ :=
    hi.enters hown hal hc hreq hin hrem hroom hfree (fun _ => hcount)
  have hregs : v.curRegs = s.curRegs := by rw [State.curRegs_of_cur (hcur.trans hc), State.curRegs_of_cur hc, State.thr, hthreads, State.thr]
  rw [if_neg Bool.false_ne_true, deliver_broke hb, hregs] at hexec
  refine ⟨v.goesOn s.curRegs.broke, x, hexec, hx, ?_, ?_⟩
  · rw [State.goesOn_thread (hcur.trans hc), ← hracc]
    rfl
  · rw [State.goesOn_thread (hcur.trans hc), State.thr_updThr_same (by rwa [hthreads]), State.thr, hthreads]
    refine ⟨rfl, rfl, ?_⟩
    rw [State.crew, State.updThr_crews, hcrews, ← State.crew]
    exact congrArg Crew.outst ((State.crew_updCrew s (s.crewOf t) _ _).trans (if_pos ⟨rfl, hcrew⟩))

end

end

section
variable {s : State} {h : Hdr} {a b : Src} {w : Width} {acq rel : Bool} {stream : BitVec 3} {op : AtomOp} {ty : AtomTy} {order : Order}

theorem rld_isRemote (hr : s.runs (.rld h a w acq) = true) : s.IsRemote (.rld h a w acq) a (.rld w acq) true 0 0 0 :=
  ⟨_, _, rfl, by rw [exec_rld, execRld]; exact issueI_ready_brk hr rfl _⟩

theorem rst_isRemote (hr : s.runs (.rst h a b w rel stream) = true) :
    s.IsRemote (.rst h a b w rel stream) a (.rst w rel) false stream (s.curRegs.wordB w b) 0 :=
  ⟨_, _, rfl, by rw [exec_rst, execRst]; exact issueI_ready_brk hr rfl _⟩

theorem ratom_isRemote {post : Bool} (hr : s.runs (.ratom h a b op ty order stream post) = true) :
    s.IsRemote (.ratom h a b op ty order stream post) a (.ratom op ty order) (!post) stream (s.curRegs.atomB (tyWide ty) b) 0 :=
  ⟨⟨aMem, h, [.rptr a, atomOpd (tyWide ty) b], if post then .none else atomDst (tyWide ty) h.d⟩, _, rfl, by rw [exec_ratom, execRatom]; exact issueI_ready_brk hr rfl _⟩

theorem rcas_isRemote (hr : s.runs (.rcas h a b ty order) = true) :
    s.IsRemote (.rcas h a b ty order) a (.rcas ty order) true 0 (s.curRegs.atomB (tyWide ty) b) (s.curRegs.acc (tyWide ty) h.d) :=
  ⟨⟨aMem, h, [.rptr a, atomOpd (tyWide ty) b, .reg h.d.toNat (if tyWide ty then 2 else 1)], atomDst (tyWide ty) h.d⟩, _, rfl,
    by rw [exec_rcas, execRcas]; exact issueI_ready_brk hr rfl _⟩

theorem rboadd_isRemote (hr : s.runs (.rboadd h a b stream) = true) :
    s.IsRemote (.rboadd h a b stream) a .rboadd false stream (s.curRegs.rx b) 0 :=
  ⟨_, _, rfl, by rw [exec_rboadd, execRboadd]; exact issueI_ready_brk hr rfl _⟩

end

/-- Settles O24, instruction by instruction: each is `State.IsRemote`, and what its local check finds decides where it ends. -/
theorem remoteIssues : Obligations.RemoteIssue := by
  unfold Obligations.RemoteIssue
  intro s t h a b w acq rel stream op ty order hc ht hcrew hreq r c va own pkg local_ enters held posted
  have hheld : ∀ {i kind} {stream : BitVec 3} {data expect}, s.IsRemote i a kind true stream data expect → local_ kind →
      ∃ s', exec i s = .next s' ∧ enters s' kind stream.toNat data expect true ∧ held s' := fun hi hl => by
    obtain ⟨hown, hal, hcan, hsup, hreach, hroom, hrel⟩ := hl
    obtain ⟨s', x, hexec, hx, hracc, hst, hr, hcrews⟩ := hi.held hown hal hc hreq ⟨hcan, hsup, hreach⟩ (fun h => (hrel h).1) hroom
      (fun h => (hrel h).2) ht rfl
    refine ⟨s', hexec, ⟨by rw [hracc, List.length_append, List.length_singleton], x, by rw [hracc, List.getElem?_concat_length], ?_⟩, hst, hr,
      by rw [State.crew, hcrews, State.crew]⟩
    exact ⟨hx.live, hx.core, hx.crew, hx.thread, hx.lane, hx.owner, hx.kind, hx.va, hx.data, hx.expect, hx.hold, hx.stream, hx.pc, hx.tkid⟩
  have hposted : ∀ {i kind} {stream : BitVec 3} {data expect}, s.IsRemote i a kind false stream data expect → local_ kind →
      s.counter c 4 < 4095 → ∃ s', exec i s = .next s' ∧ enters s' kind stream.toNat data expect false ∧ posted s' := fun hi hl hcount => by
    obtain ⟨hown, hal, hcan, hsup, hreach, hroom, hrel⟩ := hl
    obtain ⟨s', x, hexec, hx, hracc, hrest⟩ := hi.posted hown hal hc hreq ⟨hcan, hsup, hreach⟩ (fun h => (hrel h).1) hroom
      (fun h => (hrel h).2) ht rfl hcrew hcount
    refine ⟨s', hexec, ⟨by rw [hracc, List.length_append, List.length_singleton], x, by rw [hracc, List.getElem?_concat_length], ?_⟩, hrest⟩
    exact ⟨hx.live, hx.core, hx.crew, hx.thread, hx.lane, hx.owner, hx.kind, hx.va, hx.data, hx.expect, hx.hold, hx.stream, hx.pc, hx.tkid⟩
  refine ⟨fun hr hl => hheld (rld_isRemote hr) hl, fun hr hl hcount => ?_, fun hr hl => hheld (ratom_isRemote hr) hl,
    fun hr hl hcount => hposted (ratom_isRemote hr) hl hcount, fun hr hl => hheld (rcas_isRemote hr) hl,
    fun hr hl hcount => hposted (rboadd_isRemote hr) hl hcount, ?_⟩
  · have hword : r.wordB w b = if w = .b64 then r.rx b else (r.rv b).setWidth 64 := by cases w <;> rfl
    rw [← hword]
    exact hposted (rst_isRemote hr) hl hcount
  intro x hx aligned reached full hr
  have hx : ∃ (st : BitVec 3) (data expect : DWord), s.IsRemote x.2.1 a x.1 (!x.2.2) st data expect := by
    simp only [List.mem_cons, List.not_mem_nil, or_false] at hx
    rcases hx with rfl | rfl | rfl | rfl | rfl | rfl
    · exact ⟨_, _, _, rld_isRemote hr⟩
    · exact ⟨_, _, _, rst_isRemote hr⟩
    · exact ⟨_, _, _, ratom_isRemote hr⟩
    · exact ⟨_, _, _, ratom_isRemote hr⟩
    · exact ⟨_, _, _, rcas_isRemote hr⟩
    · exact ⟨_, _, _, rboadd_isRemote hr⟩
  obtain ⟨_, _, _, hi⟩ := hx
  refine ⟨hi.reserved, hi.misaligned, fun ha hn => hi.unreached ha.1 ha.2 hn, fun ha hin hrem => ⟨fun hf hsat => ?_, fun hf hsat => ?_, fun hf hfull => ?_⟩⟩
  · rw [hi.saturated ha.1 ha.2 hc hreq hin hrem (by rw [hf.1]; rfl) hf.2, if_pos hsat]
  · rw [hi.saturated ha.1 ha.2 hc hreq hin hrem (by rw [hf.1]; rfl) hf.2, if_neg (by rw [hsat]; decide)]
  · refine hi.tableFull ha.1 ha.2 hc hreq hin hrem (fun hh => ?_) hfull
    by_contra hge
    exact hf ⟨by simpa using hh, not_lt.mp hge⟩

end Sys2Proof.Machine
end

section
/-! PROOFS. TKWAIT, TKQUERY and TOPKRED (O25). -/

namespace Sys2Proof.Machine

/-! ### A range and its reads -/

theorem resolveAll_serves (s : State) (a : As) (view : Option Nat) (k : AccKind) (pages : List (DWord × Nat)) :
    s.Serves (s.resolveAll a view k pages).1 := by
  induction pages generalizing s with
  | nil => exact .refl s
  | cons x r ih =>
    have hx := resolve_serves s a view x.1 x.2 k
    unfold State.resolveAll
    split <;> rename_i e <;> rw [e] at hx
    · exact hx
    · exact hx
    · rename_i u p
      have hr := hx.trans (ih u)
      split <;> rename_i h2
      · exact hx
      all_goals rw [h2] at hr; exact hr

theorem resolveRange_serves (s : State) (a : As) (view : Option Nat) (va : DWord) (n : Nat) (k : AccKind) :
    s.Serves (s.resolveRange a view va n k).1 := resolveAll_serves s a view k _

theorem demandAll_serves (s : State) (ps : List Place) : s.Serves (s.demandAll ps) := by
  unfold State.demandAll
  split
  · exact .refl s
  · exact foldl_serves (fun u p => (demandPlace_reads u p).serves) ps s

/-! ### The address space of a thread -/

theorem State.asOf_eq {s s' : State} {t : Nat} (hc : s'.crewOf t = s.crewOf t) (hw : (s'.crew (s.crewOf t)).wg = (s.crew (s.crewOf t)).wg)
    (hl : ∀ w, (s'.wg w).launch = (s.wg w).launch) (hlaunches : s'.launches = s.launches) : s'.asOf t = s.asOf t := by
  simp only [State.asOf, State.partOf, State.ctxOf, State.isSup, State.launchOf, State.wgOf, State.wgOfCrew, State.launch, hc, hw, hl, hlaunches]

theorem State.Serves.asOf_eq {s s' : State} (h : s.Serves s') (t : Nat) : s'.asOf t = s.asOf t := by
  refine State.asOf_eq (h.crewOf_eq t) (by rw [State.crew, h.crews_eq, State.crew]) ?_ ?_
  · intro w
    obtain ⟨_, _, _, _, _, _, _, _, _, hw, rfl⟩ := h
    have hbare := congrArg (fun l : List Wg => (l.getD w ({} : Wg).bare).launch) hw
    rwa [State.bareWgs, List.getD_map, List.getD_map] at hbare
  · obtain ⟨_, _, _, _, _, _, _, _, _, -, rfl⟩ := h
    rfl

theorem State.Serves.curAs_reforms {s s' : State} {t : Nat} (hc : s.cur = .thread t) (h : s.reforms.Serves s') :
    s'.curAs = s.curAs := by
  have ha : s.reforms.asOf t = s.curAs := by rw [← State.reforms_curAs, State.curAs, State.reforms_cur, hc]
  rw [State.curAs, h.cur_eq, State.reforms_cur, hc, ← ha]
  exact h.asOf_eq t

theorem State.openStream_wg_launch (s : State) (wg k : Nat) (sc : Scope) (w : Nat) :
    ((s.openStream wg k sc).wg w).launch = (s.wg w).launch := by
  unfold State.openStream
  split
  · rfl
  · rw [State.wg_updWg]
    split
    · rename_i h
      rw [h.1]
    · rfl

/-! ### TKWAIT and TKQUERY (R258, R259) -/

section
variable {s : State} {t : Nat} {h : Hdr} (hc : s.cur = .thread t)
include hc

theorem exec_tkwait_done (hr : s.runs (.tkwait h) = true) (hrem : s.remotePending (s.crewOf t) s.racc.length = false) :
    exec (.tkwait h) s = .next (s.reforms.goesOn s.curRegs.broke) := by
  rw [exec_tkwait, execTkwait, issueI_ready_brk hr rfl, State.reforms_awaitRemote hc hrem, deliver_broke rfl, State.reforms_curRegs]

theorem exec_tkwait_waits (hr : s.runs (.tkwait h) = true) (hrem : s.remotePending (s.crewOf t) s.racc.length = true)
    (hp : (s.thr t).passed = false) :
    exec (.tkwait h) s = .next (s.reforms.updThr t fun x => { x with st := .parkedRemote (.remote s.racc.length) }) := by
  rw [exec_tkwait, execTkwait, issueI_ready_brk hr rfl, State.awaitRemote, State.reforms_t, State.t_of_cur hc, State.reforms_thr,
    State.reforms_crewOf, State.reforms_racc, State.reforms_remotePending, hp, hrem]
  exact congrArg Host.Outcome.next (State.hold_thread (s.reforms_cur.trans hc) _)

end

/-- Of two tickets, the one that was given earlier; of equals, the first. -/
def elder (x : Option RAccess) (a : RAccess) : Option RAccess :=
  match x with
  | some b => if b.tkAt ≤ a.tkAt then some b else some a
  | none => some a

theorem foldl_elder {l : List RAccess} {b : RAccess} :
    ∃ x, l.foldl elder (some b) = some x ∧ (x = b ∨ x ∈ l) ∧ x.tkAt ≤ b.tkAt ∧ ∀ y ∈ l, x.tkAt ≤ y.tkAt := by
  induction l generalizing b with
  | nil => exact ⟨b, rfl, .inl rfl, le_rfl, fun _ h => nomatch h⟩
  | cons a r ih =>
    by_cases hle : b.tkAt ≤ a.tkAt
    · obtain ⟨x, hx, hmem, hb, hall⟩ := ih (b := b)
      refine ⟨x, by rw [List.foldl_cons, elder, if_pos hle, hx], hmem.imp_right (List.mem_cons_of_mem _), hb, fun y hy => ?_⟩
      rcases List.mem_cons.mp hy with rfl | hy
      · exact hb.trans hle
      · exact hall y hy
    · obtain ⟨x, hx, hmem, ha, hall⟩ := ih (b := a)
      refine ⟨x, by rw [List.foldl_cons, elder, if_neg hle, hx], .inr ?_, ha.trans (le_of_not_ge hle), fun y hy => ?_⟩
      · exact hmem.elim (fun h => h ▸ List.mem_cons_self) (List.mem_cons_of_mem _)
      · rcases List.mem_cons.mp hy with rfl | hy
        · exact ha
        · exact hall y hy

/-- The oldest of a list of tickets. -/
theorem foldl_elder_none {l : List RAccess} (hl : l ≠ []) :
    ∃ x ∈ l, l.foldl elder none = some x ∧ ∀ y ∈ l, x.tkAt ≤ y.tkAt := by
  obtain _ | ⟨a, r⟩ := l
  · exact absurd rfl hl
  · obtain ⟨x, hx, hmem, ha, hall⟩ := foldl_elder (l := r) (b := a)
    refine ⟨x, hmem.elim (fun h => h ▸ List.mem_cons_self) (List.mem_cons_of_mem _), hx, fun y hy => ?_⟩
    rcases List.mem_cons.mp hy with rfl | hy
    · exact ha
    · exact hall y hy

theorem exec_tkquery_runs {s : State} {t : Nat} {h : Hdr} (hc : s.cur = .thread t) (hr : s.runs (.tkquery h) = true) :
    exec (.tkquery h) s = .next (s.goesOn (s.curRegs.gotX h (s.tickets259 (s.crewOf t)))) := by
  rw [exec_tkquery, execTkquery, issueI_ready_noBrk hr rfl, deliver_x rfl, State.t_of_cur hc]

/-! ### TOPKRED (R260) -/

theorem redDesc_list {s : State} {bs : List Byte} {k : Contribution} (h : s.redDesc bs = some k) : k.list = [] := by
  unfold State.redDesc at h
  dsimp only at h
  split at h
  · cases h
  · cases h
    rfl

section
variable {s : State} {t : Nat} (hc : s.cur = .thread t)
include hc

theorem State.Serves.reforms_curView {s' : State} (h : s.reforms.Serves s') : s'.curView = some (s.coreOf t) := by
  rw [h.curView_eq, State.reforms_curView, State.curView_of_cur hc]

/-- A TOPKRED whose descriptor and list pass their checks, with room, enters the table. -/
theorem exec_topkred_enters {h : Hdr} {a b : Src} {stream : BitVec 3} {p : Place} {ps : List Place} {k : Contribution} {s1 s2 : State}
    (hr : s.runs (.topkred h a b stream) = true) (hreq : s.requests (s.coreOf t) < 2048)
    (hchk : s.reforms.check s.curAs (some (s.coreOf t)) (s.curRegs.rx b) 64 .load = (s1, .ok p))
    (hdesc : (s1.demandPlace p).redDesc ((s1.demandPlace p).fetchPlace (some (s.coreOf t)) p) = some k)
    (hal : (s.curRegs.rx a).toNat % 8 = 0)
    (hlist : (s1.demandPlace p).resolveRange s.curAs (some (s.coreOf t)) (s.curRegs.rx a) (8 * k.k) .load = (s2, .ok ps))
    (hcount : s.counter (s.crewOf t) 4 < 4095) (hroom : s.tableUsed (s.coreOf t) < 64) :
    s.reforms.Serves s2 ∧ ∃ x : RAccess, x.Captured s t .topk false stream.toNat k.root (s.curRegs.rx a) (s.curRegs.rx b) 0 (some k) ∧
      exec (.topkred h a b stream) s =
        .next (deliver ⟨aMem, h, [.x a, .x b], .none⟩ (.none ((s2.counted false (s.crewOf t)).enterAcc x))) := by
  have h1 : s.reforms.Serves (s1.demandPlace p) := (State.serves_of_check hchk).trans (demandPlace_reads _ _).serves
  have h2 : s.reforms.Serves s2 := by
    have hrange := h1.trans (resolveRange_serves (s1.demandPlace p) s.curAs (some (s.coreOf t)) (s.curRegs.rx a) (8 * k.k) .load)
    rwa [hlist] at hrange
  obtain ⟨x, hx, henter⟩ := remoteEnter_eq (ins := .topkred h a b stream) (kind := .topk) (hold := false) (stream := stream.toNat) (d := 0)
    (owner := k.root) (va := s.curRegs.rx a) (data := s.curRegs.rx b) (expect := 0) (contrib := some k) hc h2 hroom nofun
  refine ⟨h2, x, hx, ?_⟩
  have hcnt : s2.counter (s2.crewOf s2.t) 4 < 4095 := by
    rw [h2.reforms_t hc, h2.crewOf_eq, State.reforms_crewOf, State.counter, State.crew, h2.crews_eq, State.reforms_crews]
    exact hcount
  rw [exec_topkred, execTopkred, issueI_ready_brk hr rfl]
  dsimp only
  rw [State.reforms_budget hc hreq, State.reforms_access_ok hc hchk nofun]
  simp only [h1.reforms_curView hc, h1.curAs_reforms hc, hdesc, hal, hlist, State.counterRoom, if_pos hcnt]
  exact congrArg (fun r => Host.Outcome.next (deliver _ r)) henter

end

/-- What an entry into the table leaves before the access is sent. -/
def State.tabled (s : State) (x : RAccess) : State := { s.openStream (s.wgOfCrew x.crew) x.stream .dom with racc := s.racc ++ [x] }

theorem State.enterAcc_eq (s : State) (x : RAccess) :
    s.enterAcc x = if (s.tabled x).sendHeld s.racc.length x then s.tabled x else (s.tabled x).sendAcc s.racc.length := rfl

/-- An entry in the table whose list reads well is sent with the list. -/
theorem State.sendAcc_contrib {s s1 : State} {i : Nat} {a : RAccess} {k k' : Contribution} (ha : s.racc[i]? = some a) (hk : a.contrib = some k)
    (hf : s.fetchList a k = (s1, .ok k')) (hracc : s1.racc = s.racc) :
    (s.sendAcc i).cur = s1.cur ∧ (s.sendAcc i).threads = s1.threads ∧
      ∃ cyc, (s.sendAcc i).racc[i]? = some { a with sent := true, sentAt := cyc, contrib := some k' } := by
  unfold State.sendAcc
  simp only [ha, hk, hf]
  obtain ⟨_, _, _, hsend⟩ := s1.send_eq a.owner (.contrib { k' with replay := a.replay })
  rw [hsend]
  refine ⟨rfl, rfl, s1.cyc.toNat, ?_⟩
  simp only [State.updAcc_racc]
  rw [List.getElem?_modify_eq, List.getElem?_modify_eq, hracc, ha]
  rfl

/-- The list of a contribution that has none yet, read in its thread's address space. -/
theorem State.fetchList_ok {s : State} {a : RAccess} {k : Contribution} {qs : List Place} (hk : k.list = [])
    (hq : (s.resolveRange (s.asOf a.thread) (some a.core) a.va (8 * k.k) .load).2 = .ok qs) :
    let read := (s.resolveRange (s.asOf a.thread) (some a.core) a.va (8 * k.k) .load).1.demandAll qs
    s.fetchList a k = (read, .ok { k with list := entriesOf k.k (read.fetchAll (some a.core) qs) }) := by
  unfold State.fetchList
  rw [hk]
  generalize s.resolveRange (s.asOf a.thread) (some a.core) a.va (8 * k.k) .load = x at hq
  obtain ⟨u, c⟩ := x
  obtain rfl : c = .ok qs := hq
  rfl

section
variable {s : State} {x : RAccess}

theorem State.tabled_eq (s : State) (x : RAccess) : ∃ wgs, s.tabled x = { s with wgs := wgs, racc := s.racc ++ [x] } := by
  obtain ⟨wgs, h⟩ := s.openStream_eq (s.wgOfCrew x.crew) x.stream .dom
  exact ⟨wgs, by rw [State.tabled, h]⟩

theorem State.tabled_asOf (s : State) (x : RAccess) (t : Nat) : (s.tabled x).asOf t = s.asOf t := by
  have hlaunch : ∀ w, ((s.tabled x).wg w).launch = (s.wg w).launch := fun w => State.openStream_wg_launch s _ _ _ w
  obtain ⟨_, h⟩ := s.tabled_eq x
  refine State.asOf_eq ?_ ?_ hlaunch ?_ <;> rw [h] <;> rfl

theorem State.counted_asOf (s : State) (hold : Bool) (c t : Nat) : (s.counted hold c).asOf t = s.asOf t := by
  cases hold with
  | true => rfl
  | false =>
    refine State.asOf_eq rfl ?_ (fun _ => rfl) rfl
    rw [State.counted, if_neg Bool.false_ne_true, State.count, State.crew_updCrew]
    split
    · rename_i h
      rw [h.1]
    · rfl

end

/-- Settles O25: TKWAIT and TKQUERY read the table, and what TOPKRED enters is sent with the list that is read when it goes. -/
theorem ticketInstructions : Obligations.TicketInstructions := by
  unfold Obligations.TicketInstructions
  intro s t h a b stream p ps k hc ht hcrew r c view mine heads
  refine ⟨fun hr => ⟨exec_tkwait_done hc hr, exec_tkwait_waits hc hr⟩, fun hr => ?query, fun hr hreq => ?reduce⟩
  case query =>
    refine ⟨(((heads.foldl elder none).bind (·.tkid)).getD 0xFFFF).toNat, ?_, ?_, ?_⟩
    · rw [exec_tkquery_runs hc hr, Nat.mul_comm (2 ^ 16), Nat.mul_comm (2 ^ 32)]
      rfl
    · intro h0
      rw [h0]
      rfl
    · intro hne
      obtain ⟨x, hx, hf, hall⟩ := foldl_elder_none hne
      exact ⟨x, hx, by rw [hf]; rfl, hall⟩
  case reduce =>
    intro found desc list n isFor hok hdesc hal hlist hcount hroom
    obtain ⟨hserves, x, hx, hexec⟩ := exec_topkred_enters hc hr hreq (Prod.ext rfl hok) hdesc hal (Prod.ext rfl hlist) hcount hroom
    have hcontrib : x.contrib = some { k with acc := n, core := s.coreOf t, lane := s.laneOf t, list := [] } :=
      hx.contrib.trans (by rw [← redDesc_list hdesc]; rfl)
    have hfor : ∀ (y : RAccess) entries, y.live = x.live → y.kind = x.kind → y.owner = x.owner → y.hold = x.hold → y.crew = x.crew →
        y.core = x.core → y.thread = x.thread → y.stream = x.stream →
        y.contrib = some { k with acc := n, core := s.coreOf t, lane := s.laneOf t, list := entries } → isFor y entries :=
      fun y entries h1 h2 h3 h4 h5 h6 h7 h8 h9 => ⟨h1.trans hx.live, h2.trans hx.kind, h3.trans hx.owner, h4.trans hx.hold, h5.trans hx.crew,
        h6.trans hx.core, h7.trans hx.thread, h8.trans hx.stream, h9⟩
    let base := list.1.counted false c
    obtain ⟨wgs, htab⟩ := base.tabled_eq x
    have hn : base.racc = s.racc := (State.counted_racc ..).trans (hserves.racc_eq.trans s.reforms_racc)
    have hcur : (base.tabled x).cur = .thread t := by
      rw [htab]
      exact (State.counted_cur ..).trans (hserves.cur_eq.trans (s.reforms_cur.trans hc))
    have hthreads : (base.tabled x).threads = s.threads := by
      rw [htab]
      exact (State.counted_threads ..).trans (hserves.threads_eq.trans s.reforms_threads)
    have hregs : ∀ v : State, v.cur = .thread t → v.threads = s.threads → v.curRegs = r := fun v h1 h2 => by
      rw [State.curRegs_of_cur h1, State.thr, h2, ← State.thr, ← State.curRegs_of_cur hc]
    have hracc : (base.tabled x).racc = s.racc ++ [x] := by rw [htab, hn]
    rw [State.enterAcc_eq, show (list.1.counted false c).racc.length = n from congrArg List.length hn] at hexec
    refine ⟨base.tabled x, x, hfor x [] rfl rfl rfl rfl rfl rfl rfl rfl hcontrib, hracc, by rw [htab]; rfl, by rw [htab]; rfl, fun hheld => ?_,
      fun hsent qs hqs => ?_⟩
    · rw [hexec, if_pos hheld, deliver_broke rfl, hregs _ hcur hthreads]
    · have has : (base.tabled x).asOf x.thread = s.curAs := by
        rw [hx.thread, State.tabled_asOf, State.counted_asOf, ← hserves.curAs_reforms hc, State.curAs, hserves.cur_eq, State.reforms_cur, hc]
      have hfetch := State.fetchList_ok (s := base.tabled x) (a := x)
        (k := { k with acc := n, core := s.coreOf t, lane := s.laneOf t, list := [] }) rfl (qs := qs) (by rw [has, hx.core, hx.va]; exact hqs)
      have hread := (resolveRange_serves (base.tabled x) ((base.tabled x).asOf x.thread) (some x.core) x.va (8 * k.k) .load).trans
        (demandAll_serves _ qs)
      obtain ⟨hcur', hthreads', cyc, hy⟩ := State.sendAcc_contrib (s := base.tabled x) (i := n)
        (by rw [hracc, List.getElem?_concat_length]) hcontrib hfetch hread.racc_eq
      have hcur2 := hcur'.trans (hread.cur_eq.trans hcur)
      have hthreads2 := hthreads'.trans (hread.threads_eq.trans hthreads)
      rw [if_neg (by rw [hsent]; decide), deliver_broke rfl, hregs _ hcur2 hthreads2] at hexec
      refine ⟨_, hexec, ?_, _, (congrArg (·[n]?) ?_).trans hy, rfl, hfor _ _ rfl rfl rfl rfl rfl rfl rfl rfl ?_⟩
      · rw [State.goesOn_thread hcur2, State.thr_updThr_same (by rwa [hthreads2])]
      · rw [State.goesOn_thread hcur2]
        rfl
      · rw [has, hx.core, hx.va]

end Sys2Proof.Machine
end

section
/-! PROOFS. Remote accesses at their owner and at their requester (O46). -/

namespace Sys2Proof.Machine

/-! ### What comes over the fabric -/

/-- A message that comes is taken from the fabric, where it stands there. -/
theorem State.heard_eq {s s0 : State} {src : BitVec 11} {m : FabMsg} (h : s.heard src m = some s0) :
    ∃ f, s0 = { s with fabric := f } := by
  unfold State.heard at h
  split at h
  · cases h
    exact ⟨_, rfl⟩
  split at h
  · cases h
  · cases h
    exact ⟨_, rfl⟩

/-- What goes back to the fabric stands there. -/
theorem State.mem_ingress (s : State) (old : List FabMsg) (m : FabMsg) : m ∈ (s.ingress old m).fabric := by
  unfold State.ingress
  dsimp only
  split
  · rename_i h
    exact List.contains_iff_mem.mp h
  · exact List.mem_append_right _ List.mem_cons_self

/-! ### A remote access at its owner (R120, R121, R254) -/

section
variable {s s0 s1 : State} {p : RPacket} (hh : s.heard p.src (.request p) = some s0)
include hh

theorem exec_arrival_later (hf : firstOfLine p s.fabric = false) :
    exec (.remoteAccessArrival p) s = .next (s.ingress s.fabric (.request p)) := by
  rw [exec_remoteAccessArrival, execRemoteAccessArrival, hh]
  simp only [hf, Bool.not_false, if_true]

theorem exec_arrival_handled (hf : firstOfLine p s.fabric = true) (h1 : s.ownerHandle p = (s1, true)) :
    exec (.remoteAccessArrival p) s =
    .next { s1 with fabric := s1.fabric.erase (.request p), tkWait := s1.tkWait.erase (.request p) } := by
  rw [exec_remoteAccessArrival, execRemoteAccessArrival, hh]
  simp only [hf, h1, Bool.not_true, Bool.false_eq_true, if_false]

theorem exec_arrival_held (hf : firstOfLine p s.fabric = true) (h1 : s.ownerHandle p = (s1, false)) :
    exec (.remoteAccessArrival p) s = .next (s1.ingress s.fabric (.request p)) := by
  rw [exec_remoteAccessArrival, execRemoteAccessArrival, hh]
  simp only [hf, h1, Bool.not_true, Bool.false_eq_true, if_false]

end

theorem State.refuse_first (s : State) {p : RPacket} (hr : p.replay = none) :
    s.refuse p = s.send p.src (.abort p.acc 0xFFFF) := by
  have hnone : s.tickets.find? (fun t => t.src == p.src && some t.id == p.replay) = none :=
    List.find?_eq_none.mpr fun t _ => by simp [hr]
  rw [State.refuse, hnone]

theorem State.ownerHandle_refused {s : State} {p : RPacket} (hs : s.serves p.part p.src = false) (hr : p.replay = none) :
    s.ownerHandle p = (s.send p.src (.abort p.acc 0xFFFF), true) := by
  rw [State.ownerHandle, hs, Bool.not_false, if_pos rfl, s.refuse_first hr]

/-- An access that the partition serves, of a line under no ticket, whose place is found and held back by nothing, is performed. -/
theorem State.ownerHandle_performs {s s1 : State} {p : RPacket} {pl : Place} (hs : s.serves p.part p.src = true)
    (ha : s.aperFind (s.ownerAs p.part) p.va = none) (hx : s.shadows.find? (·.fits p) = none)
    (hres : s.resolve (s.ownerAs p.part) none p.va (rkBytes p.kind) (rkAcc p.kind) = (s1, .ok pl))
    (hfree : (rkAcc p.kind).writes = true → (s1.settleOlder p pl).placeBlocked pl = none) (hold : (s1.settleOlder p pl).olderAt p pl = [])
    (hr : p.replay = none) :
    s.ownerHandle p =
      ((ownerPerform (s1.settleOlder p pl) p pl).1.send p.src (.reply p.acc (ownerPerform (s1.settleOlder p pl) p pl).2), true) := by
  have hblock : (if (rkAcc p.kind).writes then (s1.settleOlder p pl).placeBlocked pl else none) = none := by
    split
    · exact hfree ‹_›
    · rfl
  rw [State.ownerHandle, hs, ha, hx]
  simp only [Bool.not_true, Bool.false_eq_true, if_false, Option.isSome_none]
  rw [State.ownerServe, hres]
  simp only [hblock, hold, List.findSome?_nil, Option.orElse_none, State.replayDone, hr]

/-! ### A remote access at its requester (R252, R254, R257) -/

/-- A thread whose held access ends goes on with these registers. -/
def State.woken (s : State) (t : Nat) (r : Regs) : State :=
  s.updThr t fun x => { x with r := r.breakChain.step, st := .ready, passed := false, readyAt := s.cyc.toNat }

theorem State.heldOn_held {s : State} {n : Nat} {a : RAccess} (hst : (s.thr a.thread).st = .parkedRemote (.held n)) (vals : List Word) :
    s.heldOn n a vals = s.woken a.thread ((s.thr a.thread).r.setVals a.d vals) := by
  rw [State.heldOn, if_pos (beq_iff_eq.mpr hst), State.woken, State.updThr, State.updThr]
  refine congrArg (fun l => { s with threads := l }) (modify_congr _ _ _ _ {} ?_)
  rfl

theorem State.heldOn_other {s : State} {n : Nat} {a : RAccess} (hst : (s.thr a.thread).st ≠ .parkedRemote (.held n)) (vals : List Word) :
    s.heldOn n a vals = s := by
  rw [State.heldOn, if_neg (mt beq_iff_eq.mp hst)]

section
variable {s s0 : State} {n : Nat} {a : RAccess} (ha : s.racc[n]? = some a) (hlive : a.live = true)
include ha

section
variable (hsent : a.sent = true)
include hlive hsent

theorem exec_remoteReply_done {old : DWord} (hh : s.heard a.owner (.reply n (.done old)) = some s0) :
    exec (.remoteReply n (.done old)) s = .next (((s0.accepted n).heldOn n a (rkVals a.kind old)).finishAcc n) := by
  rw [exec_remoteReply, execRemoteReply, State.acc, ha]
  simp only [hlive, hsent, hh, Bool.and_self, Bool.not_true, Bool.false_eq_true, if_false]

theorem exec_remoteReply_poison (hh : s.heard a.owner (.reply n .poison) = some s0) (hhold : a.hold = true)
    (hst : (s0.thr a.thread).st = .parkedRemote (.held n)) : exec (.remoteReply n .poison) s =
      .next ((s0.stopThread a.thread 0 { cause := .poison, addr := a.va, aux := BitVec.ofNat 64 a.d } a.pc a.pc).finishAcc n) := by
  rw [exec_remoteReply, execRemoteReply, State.acc, ha]
  simp only [hlive, hsent, hh, hhold, hst, beq_self_eq_true, Bool.and_self, Bool.not_true, Bool.false_eq_true, if_false, if_true]

theorem exec_ticketReceived_heard {tk : BitVec 16} (hh : s.heard a.owner (.ticket n tk) = some s0) :
    exec (.ticketReceived n tk) s =
    if s0.lateUnder a tk then .next ((s0.updAcc n fun x => { x with live := true, acked := false, replay := some tk }).sendAcc n)
    else .next { s0.updAcc n (fun x => { x with live := true, acked := false, tkid := some tk, head := s0.recorded a.owner tk == [],
                                                replay := none, tkAt := s0.tkCount }) with tkCount := s0.tkCount + 1 } := by
  rw [exec_ticketReceived, execTicketReceived, State.acc, ha]
  simp only [hlive, hsent, hh, Bool.true_or, Bool.not_true, Bool.false_eq_true, if_false]

/-- An access whose time is out, with nothing of it on the fabric, ends with a trap of its thread. -/
theorem exec_fabricError_lost (hlost : s.fabricLost n a = true) (hgone : ∀ m ∈ s.fabric, isMsgOf n m = false) :
    exec (.fabricError n) s =
    .next ((((s.lateGone n).draw.heldOn n a []).asyncTrap a.thread { cause := .fabricError, addr := a.va, aux := a.owner.setWidth 64 } a.pc).finishAcc n) := by
  have hmine : (s.fabric.find? fun m => isMsgOf n m && s.ownMsg m) = none :=
    List.find?_eq_none.mpr fun m hm => by simp [hgone m hm]
  rw [exec_fabricError, execFabricError, State.acc, ha]
  simp only [hlive, hsent, hlost, hmine, Bool.and_self, Bool.not_true, Bool.false_eq_true, if_false]
  rfl

end

/-- An access that its owner ends under no ticket ends alone. -/
theorem exec_ticketAbort_heard (hlive : a.live = true) (hh : s.heard a.owner (.abort n 0xFFFF) = some s0) :
    exec (.ticketAbort n 0xFFFF) s =
    .next ((((s0.heldOn n a []).asyncTrap a.thread { cause := .ticketAbort, addr := a.va, aux := BitVec.ofNat 64 (65535 + a.owner.toNat * 65536) }
      a.pc).updAcc n fun x => { x with acked := false }).finishAcc n) := by
  have ha0 : s0.racc[n]? = some a := by
    obtain ⟨_, rfl⟩ := State.heard_eq hh
    exact ha
  rw [exec_ticketAbort, execTicketAbort, State.acc, ha]
  simp only [hh, beq_self_eq_true, if_true, List.foldl_cons, List.foldl_nil]
  rw [State.abortAcc, State.acc, ha0]
  simp only [hlive, Bool.true_or, if_true]
  rfl

end

/-! ### Releases and acknowledgements at the owner (R255, R257) -/

theorem State.dropTickets_spec (src : BitVec 11) (ts : List Ticket) (s : State) :
    let u := ts.foldl (fun (s : State) t => s.dropTicket src t.id) s
    (∀ x ∈ u.tickets, x ∈ s.tickets ∧ ∀ t ∈ ts, ¬(x.src = src ∧ x.id = t.id)) ∧ u.mem = s.mem ∧ u.threads = s.threads := by
  induction ts generalizing s with
  | nil => exact ⟨fun x hx => ⟨hx, fun _ h => nomatch h⟩, rfl, rfl⟩
  | cons t r ih =>
    obtain ⟨hdrop, hmem, hthreads⟩ := ih (s.dropTicket src t.id)
    refine ⟨fun x hx => ?_, hmem, hthreads⟩
    obtain ⟨hin, hr⟩ := hdrop x hx
    obtain ⟨hs, hne⟩ := List.mem_filter.mp hin
    refine ⟨hs, fun y hy => ?_⟩
    rcases List.mem_cons.mp hy with rfl | hy
    · rintro ⟨hsrc, hid⟩
      simp [hsrc, hid] at hne
    · exact hr y hy

theorem exec_replayRecordRelease_heard {s s0 : State} {own : BitVec 11} {n : Nat} (hh : s.heard own (.release own n) = some s0) :
    ∃ s' : State, exec (.replayRecordRelease own n) s = .next s' ∧ (∀ t ∈ s'.tickets, t ∈ s.tickets ∧ ¬(t.src = own ∧ t.head = n)) ∧
      s'.mem = s.mem ∧ s'.threads = s.threads := by
  obtain ⟨hdrop, hmem, hthreads⟩ := State.dropTickets_spec own (s0.tickets.filter fun t => t.src == own && t.head == n) s0
  obtain ⟨f, hs0⟩ := State.heard_eq hh
  refine ⟨_, by rw [exec_replayRecordRelease, execReplayRecordRelease, hh], fun t ht => ?_, hmem.trans (by rw [hs0]), hthreads.trans (by rw [hs0])⟩
  obtain ⟨hin, hnot⟩ := hdrop t ht
  refine ⟨by rwa [hs0] at hin, fun h => hnot t (List.mem_filter.mpr ⟨hin, ?_⟩) ⟨h.1, rfl⟩⟩
  rw [h.1, h.2, beq_self_eq_true, beq_self_eq_true, Bool.and_self]

theorem exec_abortAcknowledgement_spec (s : State) (tk : BitVec 16) :
    ∃ s' : State, exec (.abortAcknowledgement tk) s = .next s' ∧ s'.mem = s.mem ∧ s'.threads = s.threads ∧
      (∀ x ∈ s.shadows, x.aborted = false → x ∈ s'.shadows) ∧
      ∀ x ∈ s'.shadows, x.src ≠ s.links.pkg → ¬(x.aborted = true ∧ x.tkid = tk) := by
  refine ⟨_, rfl, rfl, rfl, fun x hx ha => List.mem_filter.mpr ⟨hx, by rw [ha]; rfl⟩, fun x hx hsrc h => ?_⟩
  have hkeep := (List.mem_filter.mp hx).2
  rw [h.1, h.2, beq_self_eq_true, bne_iff_ne.mpr hsrc] at hkeep
  simp at hkeep

/-! ### Contributions (R261) -/

theorem exec_topkredContribution_heard {s s0 : State} {k : Contribution} (hroot : k.root = s.links.pkg) (hh : s.heard k.src (.contrib k) = some s0) :
    exec (.topkredContribution k) s = .next (s0.takeContrib s k) := by
  rw [exec_topkredContribution, execTopkredContribution, if_neg (by simp [hroot]), hh]

theorem State.orphan_racc (s : State) (t : Nat) (x : AsyncTrap) : (s.orphan t x).racc = s.racc := by
  unfold State.orphan State.putRec
  split <;> rfl

/-- An asynchronous trap other than a lease's touches neither memory nor the table; it stands behind those of its thread. -/
theorem State.asyncTrap_spec {s : State} {t : Nat} {i : TrapInfo} {opc : DWord} (hi : i.cause ≠ .leaseViolation) :
    (s.asyncTrap t i opc).mem = s.mem ∧ (s.asyncTrap t i opc).racc = s.racc ∧ (t < s.threads.length → s.hasExited t = false →
      ((s.asyncTrap t i opc).thr t).async = (s.thr t).async ++ [⟨i, opc, s.cyc.toNat⟩]) := by
  refine ⟨State.asyncTrap_mem .., ?_, fun ht hx => ?_⟩
  · rw [State.asyncTrap, if_neg hi]
    split
    · exact State.orphan_racc ..
    · rfl
  · rw [State.asyncTrap, if_neg hi, hx, if_neg Bool.false_ne_true, State.thr_updThr_same ht]

theorem State.heldOn_spec (s : State) (n : Nat) (a : RAccess) (vals : List Word) : (s.heldOn n a vals).mem = s.mem ∧
    (s.heldOn n a vals).racc = s.racc ∧ (s.heldOn n a vals).threads.length = s.threads.length ∧ (s.heldOn n a vals).cyc = s.cyc ∧
    ∀ t, ((s.heldOn n a vals).thr t).async = (s.thr t).async ∧ (s.hasExited t = false → (s.heldOn n a vals).hasExited t = false) := by
  by_cases hst : (s.thr a.thread).st = .parkedRemote (.held n)
  · rw [State.heldOn_held hst]
    refine ⟨rfl, rfl, by rw [State.woken, State.updThr_threads, List.length_modify], rfl, fun t => ?_⟩
    simp only [State.hasExited, State.woken, State.thr_updThr]
    split
    · rename_i h
      rw [← h.1]
      exact ⟨rfl, fun _ => rfl⟩
    · exact ⟨rfl, id⟩
  · rw [State.heldOn_other hst]
    exact ⟨rfl, rfl, rfl, rfl, fun _ => ⟨rfl, id⟩⟩

/-- Settles O46, event by event: each is what the model's function for it does with what came. -/
theorem remoteEvents : Obligations.RemoteEvents := by
  unfold Obligations.RemoteEvents
  intro s n a p old tk own k held woken quit took taken
  have hthr : ∀ {src m s0}, s.heard src m = some s0 → s0.thr a.thread = s.thr a.thread := fun hh => by
    obtain ⟨_, rfl⟩ := State.heard_eq hh
    rfl
  refine ⟨fun s0 hh => ⟨exec_arrival_later hh, fun hf => ⟨fun _ => exec_arrival_handled hh hf, fun _ => exec_arrival_held hh hf, State.ownerHandle_refused, ?performs⟩⟩,
    fun ha hlive hsent => ⟨fun out s0 hh => ⟨fun ho hst => ?_, fun ho hst => ?_, fun ho hst hhold => ?_⟩,
      fun s0 hh => ⟨fun hl => ?_, fun hl => ?_⟩, fun s0 hh => ⟨fun hst => ?_, fun hst => ?_⟩, ?lost⟩,
    fun s0 hh => ?notice, fun s0 hh => exec_replayRecordRelease_heard hh, exec_abortAcknowledgement_spec s tk, ?contrib⟩
  case notice => rw [exec_replayNotice, execReplayNotice, hh]
  case contrib =>
    intro s0 hroot hh u same r r' u1
    rw [exec_topkredContribution_heard hroot hh]
    have hlast : sameRound r.first k = true → k.n ≤ r.got + 1 → s0.takeContrib s k = match u1.roundEnd r' (.contrib k) with
        | (v, true) => { v with tkWait := v.tkWait.erase (.contrib k) }
        | (v, false) => { v.ingress s.fabric (.contrib k) with rounds := s.rounds, tickets := s.tickets, shadows := s.shadows } := fun hsr hn =>
      (if_neg (by rw [hsr]; decide)).trans (if_neg (not_lt.mpr hn))
    refine ⟨fun hsr => congrArg _ (if_pos (by rw [hsr]; rfl)), fun hsr hn => congrArg _ ((if_neg (by rw [hsr]; decide)).trans (if_pos hn)),
      fun hsr hn => ?_⟩
    rw [hlast hsr hn]
    generalize u1.roundEnd r' (.contrib k) = x
    obtain ⟨v, done⟩ := x
    refine ⟨fun hd => ?_, fun hd => ?_⟩ <;> subst hd
    · rfl
    · exact ⟨_, rfl, rfl, State.mem_ingress v _ _⟩
  case performs =>
    intro pl wv s1 hs hap hx hres s2 hfree hold hr u
    exact exec_arrival_handled hh hf (State.ownerHandle_performs hs hap hx hres hfree hold hr)
  case lost =>
    intro hlost hgone info
    obtain ⟨hmem, hracc, hlen, hcyc, hthread⟩ := (s.lateGone n).draw.heldOn_spec n a []
    obtain ⟨hmem', hracc', hasync⟩ := State.asyncTrap_spec (s := (s.lateGone n).draw.heldOn n a []) (t := a.thread) (i := info) (opc := a.pc) nofun
    refine ⟨_, exec_fabricError_lost ha hlive hsent hlost hgone, hmem'.trans hmem, hracc'.trans hracc, fun ht hx => ?_⟩
    rw [hasync (hlen.symm ▸ ht) ((hthread _).2 hx), (hthread _).1, hcyc]
    rfl
  · subst ho
    rw [exec_remoteReply_done ha hlive hsent hh, State.heldOn_held (s := s0.accepted n) ((congrArg Thread.st (hthr hh)).trans hst)]
    rfl
  · subst ho
    rw [exec_remoteReply_done ha hlive hsent hh, State.heldOn_other (s := s0.accepted n)
      fun h => hst ((congrArg Thread.st (hthr hh)).symm.trans h)]
    rfl
  · subst ho
    exact exec_remoteReply_poison ha hlive hsent hh hhold ((congrArg Thread.st (hthr hh)).trans hst)
  · rw [exec_ticketReceived_heard ha hlive hsent hh, hl, if_neg Bool.false_ne_true]
  · rw [exec_ticketReceived_heard ha hlive hsent hh, hl, if_pos rfl]
  · rw [exec_ticketAbort_heard ha hlive hh, State.heldOn_held ((congrArg Thread.st (hthr hh)).trans hst), hthr hh]
    rfl
  · rw [exec_ticketAbort_heard ha hlive hh, State.heldOn_other (ne_of_eq_of_ne (congrArg Thread.st (hthr hh)) hst)]

end Sys2Proof.Machine
end

section
/-! PROOFS. The host window, frames, patrol reads and slot rounds (O49). -/

namespace Sys2Proof.Machine

/-- A state in which a write of the host in its window is held back: line 0 of memory is dirty in a stash, whose page has no translation. The
root of the page table stands at 0x1000, in a line that is poisoned and has an array error, whose bits are again a word of the code
(R405): read, the line is poison, and its byte 8 has another value. -/
def heldBack : State :=
  { arrayErr := [(64, 256 ^ 8 + 122 * 256 ^ 64 + 69 * 256 ^ 65 + 14 * 256 ^ 66 + 48 * 256 ^ 67)], poison := [64],
    wgs := [{ stage := .active, lines := [(0, some { dirty := true, pa := some 0 })],
              maps := [some { gva := 0, off := 0, lines := 1, ro := false, nofill := false }] }],
    parts := [(0, { roots := [(0, 0x1001)] })],
    links := { hostUp := true, hdmLen := 1 } }

/-- The request that the line be written back reads the page table's line, and leaves it as it was read. -/
theorem heldBack_portIn_mem : (heldBack.portIn (.window 0 [0] false)).mem = [(0x1008, 1)] := by decide +kernel

theorem exec_cxlMemWrite_heldBack :
    exec (.cxlMemWrite 0 [0] false) heldBack = .next (heldBack.portIn (.window 0 [0] false)) := by
  have hpa : heldBack.hdmPa 0 1 = some 0 := by decide +kernel
  rw [exec_cxlMemWrite, execCxlMemWrite, List.length_singleton, hpa]
  rfl

/-- Refutes O49: a window write that a line holds back asks for the line's write back (R53), which reads the page table from memory; a line
of it with an array error is written again as it is read, and memory is not as it was (`heldBack`). -/
theorem not_portEvents : ¬ Obligations.PortEvents := by
  unfold Obligations.PortEvents
  intro h
  obtain ⟨-, -, -, -, hheld⟩ := (h heldBack 0 0 0 0 [0] false [] []).1 rfl
  obtain ⟨t, hexec, -, hmem, -⟩ := hheld (by decide +kernel) (.inr (by decide +kernel))
  rw [exec_cxlMemWrite_heldBack] at hexec
  rw [← Host.Outcome.next.inj hexec, heldBack_portIn_mem] at hmem
  exact absurd hmem (by decide)

end Sys2Proof.Machine
end

section
/-! PROOFS. The frame of the register-only instructions (O58). -/

namespace Sys2Proof.Machine

/-- What an instruction that writes registers only leaves of the state, whatever it comes to: all but thread t, the trap slots of the cores and
the marks of the bundles. -/
structure State.Spares (t : Nat) (s s' : State) : Prop where
  mem : s'.mem = s.mem
  posted : s'.posted = s.posted
  others : ∀ u, u ≠ t → s'.thr u = s.thr u
  crews : s'.crews = s.crews
  wgs : s'.wgs = s.wgs
  parts : s'.parts = s.parts
  ops : s'.ops = s.ops
  cmds : s'.cmds = s.cmds
  walkers : s'.walkers = s.walkers
  links : s'.links = s.links
  hk : s'.hk = s.hk
  cyc : s'.cyc = s.cyc

/-- What it leaves of its thread: registers outside its destination, the predicates that `kept` tells, the flags that are set. -/
structure Thread.Keeps (x : Iss) (kept : BitVec 4 → Prop) (y y' : Thread) : Prop where
  regs : ∀ n, (∀ g ∈ x.dst.regs, n < g.1 ∨ g.1 + g.2 ≤ n) ∨ x.h.nw = true → y'.r.v.get n = y.r.v.get n
  preds : ∀ q, kept q → y'.r.pred q = y.r.pred q
  lane : x.a = aLane → y'.status = y.status
  flags : ∀ j, y.status.getLsbD j = true → y'.status.getLsbD j = true

/-- The whole frame, with the executing agent. -/
structure State.Framed (t : Nat) (x : Iss) (kept : BitVec 4 → Prop) (s s' : State) : Prop where
  spares : s.Spares t s'
  thread : (s.thr t).Keeps x kept (s'.thr t)
  cur : s'.cur = s.cur

section
variable {t : Nat} {x : Iss} {kept : BitVec 4 → Prop} {s s' s'' : State}

theorem Thread.Keeps.refl (y : Thread) : y.Keeps x kept y := ⟨fun _ _ => rfl, fun _ _ => rfl, fun _ => rfl, fun _ h => h⟩

theorem Thread.Keeps.trans {y y' y'' : Thread} (h : y.Keeps x kept y') (h' : y'.Keeps x kept y'') : y.Keeps x kept y'' where
  regs n hn := (h'.regs n hn).trans (h.regs n hn)
  preds q hq := (h'.preds q hq).trans (h.preds q hq)
  lane hx := (h'.lane hx).trans (h.lane hx)
  flags j hj := h'.flags j (h.flags j hj)

theorem State.Framed.refl (s : State) : s.Framed t x kept s where
  spares := ⟨rfl, rfl, fun _ _ => rfl, rfl, rfl, rfl, rfl, rfl, rfl, rfl, rfl, rfl⟩
  thread := .refl _
  cur := rfl

theorem State.Framed.trans (h : s.Framed t x kept s') (h' : s'.Framed t x kept s'') : s.Framed t x kept s'' where
  spares :=
    { mem := h'.spares.mem.trans h.spares.mem
      posted := h'.spares.posted.trans h.spares.posted
      others := fun u hu => (h'.spares.others u hu).trans (h.spares.others u hu)
      crews := h'.spares.crews.trans h.spares.crews
      wgs := h'.spares.wgs.trans h.spares.wgs
      parts := h'.spares.parts.trans h.spares.parts
      ops := h'.spares.ops.trans h.spares.ops
      cmds := h'.spares.cmds.trans h.spares.cmds
      walkers := h'.spares.walkers.trans h.spares.walkers
      links := h'.spares.links.trans h.spares.links
      hk := h'.spares.hk.trans h.spares.hk
      cyc := h'.spares.cyc.trans h.spares.cyc }
  thread := h.thread.trans h'.thread
  cur := h'.cur.trans h.cur

/-- The bytes that an agent reads come from memory, posted writes and stashes. -/
theorem State.Spares.sameBytes (h : s.Spares t s') : s'.sameBytes s := by
  have hhome : ∀ pa, s'.homeByte pa = s.homeByte pa := fun pa => by
    simp only [State.homeByte, State.dirFind, State.wg, h.wgs, h.mem]
  intro view pa
  cases view with
  | none => exact (hhome pa).symm
  | some c => simp only [State.viewByte, State.coreByte, h.posted, hhome]

/-! ### The changes that stay inside the frame -/

theorem aFloat_ne_aLane : aFloat ≠ aLane := by decide

theorem State.framed_updThr (s : State) {f : Thread → Thread} (h : (s.thr t).Keeps x kept (f (s.thr t))) :
    s.Framed t x kept (s.updThr t f) where
  spares := ⟨rfl, rfl, fun _ hu => State.thr_updThr_other hu.symm f, rfl, rfl, rfl, rfl, rfl, rfl, rfl, rfl, rfl⟩
  thread := by
    rw [State.thr_updThr]
    split
    · exact h
    · exact .refl _
  cur := rfl

theorem State.framed_setFlags (hc : s.cur = .thread t) (hx : x.a ≠ aLane) (fl : BitVec 9) : s.Framed t x kept (s.setFlags fl) := by
  simp only [State.setFlags, hc]
  exact s.framed_updThr ⟨fun _ _ => rfl, fun _ _ => rfl, fun h => absurd h hx, fun j hj => by simp [hj]⟩

theorem State.framed_bundles (s : State) (bs : List Bundle) : s.Framed t x kept { s with bundles := bs } :=
  ⟨⟨rfl, rfl, fun _ _ => rfl, rfl, rfl, rfl, rfl, rfl, rfl, rfl, rfl, rfl⟩, .refl _, rfl⟩

theorem State.framed_putRec (s : State) (r : TrapRec) : s.Framed t x kept (s.putRec r) := by
  unfold State.putRec
  split <;> exact ⟨⟨rfl, rfl, fun _ _ => rfl, rfl, rfl, rfl, rfl, rfl, rfl, rfl, rfl, rfl⟩, .refl _, rfl⟩

/-- A trap that is not fatal to the launch stops the thread and fills a trap slot (R337, R338). -/
theorem State.framed_raise (hc : s.cur = .thread t) {c : TrapInfo} (h : c.cause ≠ .leaseViolation) : s.Framed t x kept (s.raise c) := by
  simp only [State.raise, hc, stopThread_eq h]
  exact (s.framed_putRec _).trans (State.framed_updThr _ ⟨fun _ _ => rfl, fun _ _ => rfl, fun _ => rfl, fun _ hj => hj⟩)

/-- The thread goes on with registers that the frame allows. -/
theorem State.framed_goesOn (hc : s.cur = .thread t) {r : Regs}
    (hv : ∀ n, (∀ g ∈ x.dst.regs, n < g.1 ∨ g.1 + g.2 ≤ n) ∨ x.h.nw = true → r.v.get n = s.curRegs.v.get n)
    (hp : ∀ q, kept q → r.pred q = s.curRegs.pred q) : s.Framed t x kept (s.goesOn r) := by
  rw [State.curRegs_of_cur hc] at hv hp
  rw [State.goesOn_thread hc]
  exact s.framed_updThr ⟨hv, hp, fun _ => rfl, fun _ hj => hj⟩

/-! ### Results (R168) -/

theorem Regs.get_gotV (r : Regs) {h : Hdr} {w : Word} {n : Nat} (hn : (n < h.d.toNat ∨ h.d.toNat + 1 ≤ n) ∨ h.nw = true) :
    (r.gotV h w).v.get n = r.v.get n := by
  cases hw : h.nw
  · have hne : n ≠ h.d.toNat := by simp only [hw, Bool.false_eq_true, or_false] at hn; omega
    simp only [Regs.gotV, hw, Bool.false_eq_true, if_false, Store.get_set, if_neg hne]
  · simp only [Regs.gotV, hw, if_true]

theorem Regs.get_gotX (r : Regs) {h : Hdr} {w : DWord} {n : Nat} (hn : (n < h.d.toNat ∨ h.d.toNat + 2 ≤ n) ∨ h.nw = true) :
    (r.gotX h w).v.get n = r.v.get n := by
  cases hw : h.nw
  · have hne : n ≠ h.d.toNat ∧ n ≠ h.d.toNat + 1 := by simp only [hw, Bool.false_eq_true, or_false] at hn; omega
    simp only [Regs.gotX, hw, Bool.false_eq_true, if_false, Store.get_set, if_neg hne.1, if_neg hne.2]
  · simp only [Regs.gotX, hw, if_true]

@[simp] theorem Regs.setP_v (r : Regs) (q : BitVec 4) (b : Bool) : (r.setP q b).v = r.v := by
  unfold Regs.setP
  split <;> rfl

/-- A predicate reads as before after a write to another (R168). -/
theorem Regs.pred_setP_other (r : Regs) {p q : BitVec 4} (h : q ≠ p) (b : Bool) : (r.setP p b).pred q = r.pred q := by
  have hq := q.isLt
  have hne : q.toNat ≠ p.toNat := fun e => h (BitVec.eq_of_toNat_eq e)
  have hbit : (1#16 <<< p.toNat).getLsbD q.toNat = false := by
    simp only [BitVec.getLsbD_shiftLeft, BitVec.getLsbD_one]
    by_cases hlt : q.toNat < p.toNat
    · simp [hlt]
    · have : q.toNat - p.toNat ≠ 0 := by omega
      simp [this]
  unfold Regs.setP Regs.pred
  split
  · rfl
  · cases b
    · have hin : decide (q.toNat < 16) = true := decide_eq_true hq
      simp [hbit, hin]
    · simp [hbit]

/-- The predicates that a destination of an issue leaves (R168). -/
def Iss.sparesPred (x : Iss) (q : BitVec 4) : Prop := match x.dst with | .p d => q ≠ d.setWidth 4 | _ => True

/-- The results of an instruction's own part that write registers only: the states in them are inside the frame, and the destination is the
issue's. -/
def Res.Framed (t : Nat) (x : Iss) (kept : BitVec 4 → Prop) (s : State) : Res → Prop
  | .v s' _ => s.Framed t x kept s' ∧ x.dst = .v x.h.d
  | .x s' _ => s.Framed t x kept s' ∧ x.dst = .x x.h.d
  | .p s' _ => s.Framed t x kept s' ∧ x.dst = .p x.h.d ∧ ∀ q, kept q → x.sparesPred q
  | .none s' => s.Framed t x kept s'
  | .trap s' c => s.Framed t x kept s' ∧ c.cause ≠ .leaseViolation
  | _ => False

theorem deliver_framed (hc : s.cur = .thread t) (hb : x.a.brk = false) {r : Res} (h : r.Framed t x kept s) : s.Framed t x kept (deliver x r) := by
  have hcur : ∀ {s' : State}, s.Framed t x kept s' → s'.cur = .thread t := fun h => h.cur.trans hc
  cases r with
  | v s' w =>
    obtain ⟨h, hd⟩ := h
    rw [deliver_v hb]
    refine h.trans (State.framed_goesOn (hcur h) (fun n hn => s'.curRegs.get_gotV ?_) fun _ _ => rfl)
    simpa only [hd, Dst.regs, List.mem_singleton, forall_eq] using hn
  | x s' w =>
    obtain ⟨h, hd⟩ := h
    rw [deliver_x hb]
    refine h.trans (State.framed_goesOn (hcur h) (fun n hn => s'.curRegs.get_gotX ?_) fun _ _ => rfl)
    simpa only [hd, Dst.regs, List.mem_singleton, forall_eq] using hn
  | p s' b =>
    obtain ⟨h, hd, hk⟩ := h
    rw [deliver_p hb]
    refine h.trans (State.framed_goesOn (hcur h) (fun n _ => by rw [Regs.gotP, Regs.gotNone, Regs.setP_v]) fun q hq => ?_)
    have hne := hk q hq
    simp only [Iss.sparesPred, hd] at hne
    exact s'.curRegs.pred_setP_other hne b
  | none s' =>
    rw [deliver_none hb]
    exact h.trans (State.framed_goesOn (hcur h) (fun _ _ => rfl) fun _ _ => rfl)
  | trap s' c => exact h.1.trans (State.framed_raise (hcur h.1) h.2)
  | jump _ _ | stay _ | stall _ | wait _ _ => exact h.elim

/-- No check before an instruction's own part finds LEASE_VIOLATION (R178). -/
theorem stepChecks_cause {c : TrapInfo} (h : s.stepChecks x = some c) : c.cause ≠ .leaseViolation := by
  simp only [State.stepChecks] at h
  split_ifs at h <;> exact Option.some.inj h ▸ by decide

/-- An issue stays inside the frame when its own part does. -/
theorem issueI_framed (hc : s.cur = .thread t) (hb : x.a.brk = false) {body : State → Regs → Res} (h : (body s s.curRegs).Framed t x kept s)
    (hn : s.issueI x body = .next s') : s.Framed t x kept s' := by
  unfold State.issueI at hn
  rw [begin_noBrk _ _ hb] at hn
  split at hn
  · cases hn
  · split at hn
    · cases hn; exact .refl s
    · split at hn
      · cases hn; exact State.framed_raise hc (stepChecks_cause ‹_›)
      · split at hn
        · split at hn
          · cases hn; exact State.framed_raise hc (by decide)
          · cases hn; exact deliver_framed hc hb h
        · cases hn; exact deliver_framed hc hb (r := .none s) (.refl s)

/-! ### The instructions -/

/-- An outcome is that of the issue x with an own part that stays inside the frame. -/
def Framing (t : Nat) (x : Iss) (kept : BitVec 4 → Prop) (s : State) (o : Host.Outcome State Fault Refusal) : Prop :=
  ∃ body, o = s.issueI x body ∧ (body s s.curRegs).Framed t x kept s

theorem framing_v {o : Host.Outcome State Fault Refusal} {f : State → Regs → Word} (hd : x.dst = .v x.h.d)
    (ho : o = s.issueI x fun s r => .v s (f s r)) : Framing t x kept s o := ⟨_, ho, .refl s, hd⟩

theorem framing_x {o : Host.Outcome State Fault Refusal} {f : State → Regs → DWord} (hd : x.dst = .x x.h.d)
    (ho : o = s.issueI x fun s r => .x s (f s r)) : Framing t x kept s o := ⟨_, ho, .refl s, hd⟩

theorem framing_p {o : Host.Outcome State Fault Refusal} {f : State → Regs → Bool} (hd : x.dst = .p x.h.d)
    (ho : o = s.issueI x fun s r => .p s (f s r)) : Framing t x x.sparesPred s o := ⟨_, ho, .refl s, hd, fun _ h => h⟩

/-- A float result sets its flags (R133). -/
theorem framing_fres (hc : s.cur = .thread t) {o : Host.Outcome State Fault Refusal} {f : State → Regs → FR} (hx : x.a = aFloat)
    (hd : x.dst = .v x.h.d) (ho : o = s.issueI x fun s r => fres s (f s r)) : Framing t x kept s o :=
  ⟨_, ho, State.framed_setFlags hc (hx ▸ aFloat_ne_aLane) _, hd⟩

section
variable {h : Hdr} {a b c : Src}

theorem framing_issV1 {f : Word → Word} : Framing t ⟨aLane, h, [.v a], .v h.d⟩ kept s (issV1 h a s f) := framing_v rfl rfl
theorem framing_issV2 {f : Word → Word → Word} : Framing t ⟨aLane, h, [.v a, .vi b], .v h.d⟩ kept s (issV2 h a b s f) := framing_v rfl rfl
theorem framing_issV3 {f : Word → Word → Word → Word} :
    Framing t ⟨aLane, h, [.v a, .vi b, .v c], .v h.d⟩ kept s (issV3 h a b c s f) := framing_v rfl rfl
theorem framing_issX2 {f : DWord → DWord → DWord} : Framing t ⟨aLane, h, [.x a, .xi b], .x h.d⟩ kept s (issX2 h a b s f) := framing_x rfl rfl
theorem framing_issX3 {f : DWord → DWord → DWord → DWord} :
    Framing t ⟨aLane, h, [.x a, .xi b, .x c], .x h.d⟩ kept s (issX3 h a b c s f) := framing_x rfl rfl
theorem framing_issXS {f : DWord → Word → DWord} : Framing t ⟨aLane, h, [.x a, .vi b], .x h.d⟩ kept s (issXS h a b s f) := framing_x rfl rfl
theorem framing_issF1 (hc : s.cur = .thread t) {f : Bool → Nat → FR} :
    Framing t ⟨aFloat, h, [.v a], .v h.d⟩ kept s (issF1 h a s f) := framing_fres hc rfl rfl rfl
theorem framing_issF2 (hc : s.cur = .thread t) {f : Bool → Nat → Nat → FR} :
    Framing t ⟨aFloat, h, [.v a, .v b], .v h.d⟩ kept s (issF2 h a b s f) := framing_fres hc rfl rfl rfl
theorem framing_issF3 (hc : s.cur = .thread t) {o : Opd} {f : Bool → Nat → Nat → Regs → FR} :
    Framing t ⟨aFloat, h, [.v a, .v b, o], .v h.d⟩ kept s (issF3 h a b o s f) := framing_fres hc rfl rfl rfl

theorem framing_cvt (hc : s.cur = .thread t) {src dst : CvtFmt} {rm : Rnd} {sat : Bool} :
    Framing t ⟨aFloat, h, [if src == .s64 then .x a else .v a], if dst == .s64 then .x h.d else .v h.d⟩ kept s
      (exec (.cvt h a src dst rm sat) s) := by
  refine ⟨_, exec_cvt .., ?_⟩
  have hflags : ∀ (ops : List Opd) (d : Dst) (fl : BitVec 9), s.Framed t ⟨aFloat, h, ops, d⟩ kept (s.setFlags fl) := fun _ _ fl =>
    State.framed_setFlags hc aFloat_ne_aLane fl
  cases hd : dst == .s64
  · exact ⟨hflags _ _ _, rfl⟩
  · exact ⟨hflags _ _ _, rfl⟩

/-- SREAD of a number that names no register traps (R206). -/
theorem framing_sread {r : SpecOp} {b64 : Bool} :
    Framing t ⟨{}, h, [], if b64 then .x h.d else .v h.d⟩ kept s (exec (.sread h r b64) s) := by
  refine ⟨_, exec_sread .., ?_⟩
  cases sreadVal s r with
  | none => exact ⟨.refl s, by decide⟩
  | some w =>
    cases b64
    · exact ⟨.refl s, rfl⟩
    · exact ⟨.refl s, rfl⟩

/-- V2P changes predicates alone (R204). -/
theorem framing_v2p (hc : s.cur = .thread t) (hk : ∀ q, ¬kept q) :
    Framing t ⟨aLane, h, [.v a, .vi b], .none⟩ kept s (exec (.v2p h a b) s) := by
  refine ⟨_, exec_v2p .., ?_⟩
  simp only [Res.Framed, State.updRegs, hc]
  exact s.framed_updThr ⟨fun _ _ => rfl, fun q hq => absurd hq (hk q), fun _ => rfl, fun _ hj => hj⟩

end

end

/-- The instructions of the statement but V2P are those of classes 0, 1 and 3, CVT, NOP, YIELD and TKQUERY. -/
theorem framing_of_registerOnly {s : State} {t : Nat} {i : Instr} {x : Iss} (hc : s.cur = .thread t) (hi : s.issOf i = some x)
    (ha : x.a = aLane ∨ x.a = aFloat) (hv2p : ∀ h a b, i ≠ .v2p h a b) (hswrite : ∀ h r b a, i ≠ .swrite h r b a)
    (hfence : ∀ h sc, i ≠ .fence h sc) (hprefetch : ∀ h a b l n e, i ≠ .prefetch h a b l n e) : Framing t x x.sparesPred s (exec i s) := by
  have hbrk : x.a.brk = false := by rcases ha with h | h <;> rw [h] <;> rfl
  have hcore : x.a.core = true := by rcases ha with h | h <;> rw [h] <;> rfl
  cases i
  case v2p => exact absurd rfl (hv2p _ _ _)
  case swrite => exact absurd rfl (hswrite _ _ _ _)
  case fence => exact absurd rfl (hfence _ _)
  case prefetch => exact absurd rfl (hprefetch _ _ _ _ _ _)
  case iabs | ineg | not | popc | clz | ctz | brev | bfe | mov =>
    cases hi
    dsimp only [exec, execIabs, execIneg, execNot, execPopc, execClz, execCtz, execBrev, execBfe, execMov]
    exact framing_issV1
  case iadd | isub | imul | imulh | idiv | irem | imin | imax | iaddsat | isubsat | isad | idot4 | and | or | xor | andn | shl | shr | sar
    | rot | bfi | bysel =>
    cases hi
    dsimp only [exec, execIadd, execIsub, execImul, execImulh, execIdiv, execIrem, execImin, execImax, execIaddsat, execIsubsat, execIsad,
      execIdot4, execAnd, execOr, execXor, execAndn, execShl, execShr, execSar, execRot, execBfi, execBysel]
    exact framing_issV2
  case imad =>
    cases hi
    dsimp only [exec, execImad]
    exact framing_issV3
  case iadd64 | isub64 | imul64 =>
    cases hi
    dsimp only [exec, execIadd64, execIsub64, execImul64]
    exact framing_issX2
  case imad64 =>
    cases hi
    dsimp only [exec, execImad64]
    exact framing_issX3
  case lea | shl64 | shr64 | sar64 =>
    cases hi
    dsimp only [exec, execLea, execShl64, execShr64, execSar64]
    exact framing_issXS
  case movi => cases hi; exact framing_v rfl (exec_movi ..)
  case movi64 => cases hi; exact framing_x rfl (exec_movi64 ..)
  case mov64 => cases hi; exact framing_x rfl (exec_mov64 ..)
  case sel => cases hi; exact framing_v rfl (exec_sel ..)
  case p2v => cases hi; exact framing_v rfl (exec_p2v ..)
  case icmp => cases hi; exact framing_p rfl (exec_icmp ..)
  case icmp64 => cases hi; exact framing_p rfl (exec_icmp64 ..)
  case plog => cases hi; exact framing_p rfl (exec_plog ..)
  case sread => cases hi; exact framing_sread
  case nop => cases hi; exact ⟨_, exec_nop .., .refl s⟩
  case yield => cases hi; exact ⟨_, exec_yield .., s.framed_bundles _⟩
  case tkquery => cases hi; exact framing_x rfl (exec_tkquery ..)
  case fabs | fneg | frcp | frsq | fsqrt | fexp2 | flog2 | fclass =>
    cases hi
    dsimp only [exec, execFabs, execFneg, execFrcp, execFrsq, execFsqrt, execFexp2, execFlog2, execFclass]
    exact framing_issF1 hc
  case fadd | fsub | fmul | fmin | fmax | fdiv | hadd2 | hmul2 | hminmax2 =>
    cases hi
    dsimp only [exec, execFadd, execFsub, execFmul, execFmin, execFmax, execFdiv, execHadd2, execHmul2, execHminmax2]
    exact framing_issF2 hc
  case ffma | hfma2 | fdot2 =>
    cases hi
    dsimp only [exec, execFfma, execHfma2, execFdot2]
    exact framing_issF3 hc
  case fcmp => cases hi; exact ⟨_, exec_fcmp .., State.framed_setFlags hc aFloat_ne_aLane _, rfl, fun _ h => h⟩
  case cvt => cases hi; exact framing_cvt hc
  case wheap | wvisit | wspawn => cases hi; cases hcore
  all_goals cases hi <;> cases hbrk

/-- Settles O58: each instruction's own part stays inside the frame, and so does everything that its issue can come to before it. -/
theorem registerFrame : Obligations.RegisterFrame := by
  unfold Obligations.RegisterFrame
  intro s s' t i x hc hi ha hswrite hfence hprefetch hn
  have hbrk : x.a.brk = false := by rcases ha with h | h <;> rw [h] <;> rfl
  by_cases hv : ∃ h a b, i = .v2p h a b
  · obtain ⟨h, a, b, rfl⟩ := hv
    obtain rfl := Option.some.inj hi
    obtain ⟨body, he, hbody⟩ := framing_v2p (s := s) (h := h) (a := a) (b := b) (kept := fun _ => False) hc fun _ h => h
    obtain ⟨hsp, hthr, -⟩ := issueI_framed hc hbrk hbody (he ▸ hn)
    exact ⟨hsp.sameBytes, hsp.mem, hsp.posted, hsp.others, hsp.crews, hsp.wgs, hsp.parts, hsp.ops, hsp.cmds, hsp.walkers, hsp.links, hsp.hk,
      hsp.cyc, hthr.regs, hthr.preds, hthr.lane, hthr.flags⟩
  · have hne : ∀ h a b, i ≠ .v2p h a b := fun h a b e => hv ⟨h, a, b, e⟩
    obtain ⟨body, he, hbody⟩ := framing_of_registerOnly hc hi ha hne hswrite hfence hprefetch
    obtain ⟨hsp, hthr, -⟩ := issueI_framed hc hbrk hbody (he ▸ hn)
    refine ⟨hsp.sameBytes, hsp.mem, hsp.posted, hsp.others, hsp.crews, hsp.wgs, hsp.parts, hsp.ops, hsp.cmds, hsp.walkers, hsp.links, hsp.hk,
      hsp.cyc, hthr.regs, fun q hq => hthr.preds q ?_, hthr.lane, hthr.flags⟩
    split at hq
    · exact hq.elim
    · exact hq

end Sys2Proof.Machine
end

section
/-! PROOFS. Patterns of a format, and the numbers that they stand for (R126, R132). -/

namespace Sys2Proof.Machine

/-! ### Signs -/

/-- A magnitude with a sign. -/
def signed (neg : Bool) (x : ℚ) : ℚ := if neg then -x else x

@[simp] theorem signed_false (x : ℚ) : signed false x = x := rfl
@[simp] theorem signed_true (x : ℚ) : signed true x = -x := rfl
@[simp] theorem signed_zero (neg : Bool) : signed neg 0 = 0 := by cases neg <;> simp
@[simp] theorem abs_signed (neg : Bool) (x : ℚ) : |signed neg x| = |x| := by cases neg <;> simp
theorem signed_eq_zero {neg : Bool} {x : ℚ} : signed neg x = 0 ↔ x = 0 := by cases neg <;> simp
theorem signed_inj {neg : Bool} {x y : ℚ} : signed neg x = signed neg y ↔ x = y := by cases neg <;> simp
theorem signed_mul (s t : Bool) (x y : ℚ) : signed s x * signed t y = signed (s ^^ t) (x * y) := by cases s <;> cases t <;> simp
theorem signed_inv (s : Bool) (x : ℚ) : (signed s x)⁻¹ = signed s x⁻¹ := by cases s <;> simp [inv_neg]
theorem signed_mul_right (s : Bool) (x y : ℚ) : signed s x * y = signed s (x * y) := by cases s <;> simp
theorem signed_div (s : Bool) (x y : ℚ) : signed s x / y = signed s (x / y) := by rw [div_eq_mul_inv, signed_mul_right, div_eq_mul_inv]
theorem signed_neg_iff {neg : Bool} {x : ℚ} (hx : 0 < x) : signed neg x < 0 ↔ neg = true := by cases neg <;> simp [hx, hx.le]

/-! ### The fields of a pattern -/

/-- What the formats of R126 have in common: sign, exponent and fraction fill the width. -/
structure Fmt.Sound (f : Fmt) : Prop where
  width : f.w = f.eb + f.fb + 1
  two_le_eb : 2 ≤ f.eb
  one_le_fb : 1 ≤ f.fb

theorem f32_sound : f32.Sound := ⟨rfl, by decide, by decide⟩
theorem bf16_sound : bf16.Sound := ⟨rfl, by decide, by decide⟩
theorem f16_sound : f16.Sound := ⟨rfl, by decide, by decide⟩

theorem Fmt.sound_of_vector {f : Fmt} (h : f = f32 ∨ f = bf16 ∨ f = f16) : f.Sound := by
  rcases h with rfl | rfl | rfl
  · exact f32_sound
  · exact bf16_sound
  · exact f16_sound

/-- The significand of a pattern: its fraction, with the hidden bit of a normal number. -/
def Fmt.sig (f : Fmt) (x : Nat) : Nat := if f.ex x = 0 then f.fr x else 2 ^ f.fb + f.fr x

section
variable {f : Fmt} (hs : f.Sound)
include hs

theorem Fmt.Sound.two_pow_sign : 2 ^ (f.w - 1) = 2 ^ f.fb * 2 ^ f.eb := by rw [hs.width, Nat.add_sub_cancel, pow_add, mul_comm]

theorem Fmt.Sound.two_pow_w : 2 ^ f.w = 2 * 2 ^ (f.w - 1) := by rw [hs.width, Nat.add_sub_cancel, pow_succ, mul_comm]

omit hs in
theorem Fmt.bias_succ (f : Fmt) : f.bias + 1 = 2 ^ (f.eb - 1) := Nat.sub_add_cancel Nat.one_le_two_pow

theorem Fmt.Sound.emax_eq : f.emax = 2 * f.bias + 1 := by
  have := hs.two_le_eb
  have hpow : 2 ^ f.eb = 2 * 2 ^ (f.eb - 1) := by rw [← pow_succ', Nat.sub_add_cancel (by omega)]
  have hb := f.bias_succ
  unfold Fmt.emax
  omega

theorem Fmt.Sound.one_le_bias : 1 ≤ f.bias := by
  have hb := f.bias_succ
  have : 2 ^ 1 ≤ 2 ^ (f.eb - 1) := Nat.pow_le_pow_right two_pos (by have := hs.two_le_eb; omega)
  omega

theorem Fmt.neg_eq {x : Nat} (hx : x < 2 ^ f.w) : f.neg x = decide (2 ^ (f.w - 1) ≤ x) := by
  rw [hs.two_pow_w] at hx
  unfold Fmt.neg
  generalize 2 ^ (f.w - 1) = S at *
  by_cases h : S ≤ x
  · have : x / S = 1 := Nat.div_eq_of_lt_le (by omega) (by omega)
    simp [h, this]
  · simp [h, Nat.div_eq_of_lt (Nat.lt_of_not_le h)]

theorem Fmt.low_div (x : Nat) : x % 2 ^ (f.w - 1) / 2 ^ f.fb = f.ex x := by rw [hs.two_pow_sign, Nat.mod_mul_right_div_self]; rfl

theorem Fmt.low_mod (x : Nat) : x % 2 ^ (f.w - 1) % 2 ^ f.fb = f.fr x := by rw [hs.two_pow_sign, Nat.mod_mul_right_mod]; rfl

theorem Fmt.low_eq (x : Nat) : x % 2 ^ (f.w - 1) = f.ex x * 2 ^ f.fb + f.fr x := by
  rw [← Fmt.low_div hs, ← Fmt.low_mod hs, Nat.div_add_mod']

omit hs in
theorem Fmt.fr_lt (x : Nat) : f.fr x < 2 ^ f.fb := Nat.mod_lt _ (Nat.two_pow_pos _)

omit hs in
theorem Fmt.ex_le (x : Nat) : f.ex x ≤ f.emax := Nat.le_sub_one_of_lt (Nat.mod_lt _ (Nat.two_pow_pos _))

/-- A pattern is its sign bit and its low bits. -/
theorem Fmt.sign_add_low {x : Nat} (hx : x < 2 ^ f.w) : f.signBit (f.neg x) + x % 2 ^ (f.w - 1) = x := by
  rw [Fmt.neg_eq hs hx, Fmt.signBit]
  rw [hs.two_pow_w] at hx
  generalize 2 ^ (f.w - 1) = S at *
  by_cases h : S ≤ x
  · rw [if_pos (by simpa using h), Nat.mod_eq_sub_mod h, Nat.mod_eq_of_lt (by omega)]
    omega
  · rw [if_neg (by simpa using h), Nat.mod_eq_of_lt (by omega)]
    omega

/-- The pattern of a sign and low bits. -/
theorem Fmt.fields_mk {neg : Bool} {m : Nat} (hm : m < 2 ^ (f.w - 1)) :
    let x := f.signBit neg + m
    x < 2 ^ f.w ∧ f.neg x = neg ∧ x % 2 ^ (f.w - 1) = m := by
  intro x
  have hx : x < 2 ^ f.w := by
    simp only [x, Fmt.signBit, hs.two_pow_w]
    split <;> omega
  have hle : 2 ^ (f.w - 1) ≤ x ↔ neg = true := by
    simp only [x, Fmt.signBit]
    split <;> simp_all
  refine ⟨hx, by rw [Fmt.neg_eq hs hx]; simp [hle], ?_⟩
  simp only [x, Fmt.signBit]
  split
  · rw [Nat.add_mod_left, Nat.mod_eq_of_lt hm]
  · rw [Nat.zero_add, Nat.mod_eq_of_lt hm]

/-- The pattern of a sign, an exponent field and a fraction. -/
theorem Fmt.fields_pack {neg : Bool} {E F : Nat} (hE : E ≤ f.emax) (hF : F < 2 ^ f.fb) :
    let x := f.signBit neg + E * 2 ^ f.fb + F
    x < 2 ^ f.w ∧ f.neg x = neg ∧ f.ex x = E ∧ f.fr x = F ∧ x % 2 ^ (f.w - 1) = E * 2 ^ f.fb + F := by
  intro x
  have hm : E * 2 ^ f.fb + F < 2 ^ (f.w - 1) := by
    have hE' : E + 1 ≤ 2 ^ f.eb := by have := Nat.one_le_two_pow (n := f.eb); unfold Fmt.emax at hE; omega
    calc E * 2 ^ f.fb + F < (E + 1) * 2 ^ f.fb := by rw [Nat.add_mul]; omega
      _ ≤ 2 ^ f.eb * 2 ^ f.fb := Nat.mul_le_mul_right _ hE'
      _ = _ := by rw [hs.two_pow_sign, mul_comm]
  obtain ⟨hx, hneg, hlow⟩ := Fmt.fields_mk hs (neg := neg) hm
  rw [← Nat.add_assoc] at hx hneg hlow
  refine ⟨hx, hneg, ?_, ?_, hlow⟩
  · rw [← Fmt.low_div hs, hlow, Nat.mul_comm, Nat.mul_add_div (Nat.two_pow_pos _), Nat.div_eq_of_lt hF, Nat.add_zero]
  · rw [← Fmt.low_mod hs, hlow, Nat.mul_comm, Nat.mul_add_mod, Nat.mod_eq_of_lt hF]

/-- A pattern is its fields. -/
theorem Fmt.pack_fields {x : Nat} (hx : x < 2 ^ f.w) : f.signBit (f.neg x) + f.ex x * 2 ^ f.fb + f.fr x = x := by
  rw [Nat.add_assoc, ← Fmt.low_eq hs, Fmt.sign_add_low hs hx]

/-! ### Numbers -/

/-- The number of a pattern, by its sign, significand and exponent field. -/
theorem Fmt.rat_eq {x : Nat} (hx : x < 2 ^ f.w) :
    f.rat x = signed (f.neg x) (f.sig x * 2 ^ ((max (f.ex x) 1 : ℕ) - f.bias - f.fb : ℤ)) := by
  rw [Fmt.neg_eq hs hx]
  simp only [Fmt.rat, Fmt.low_div hs, Fmt.low_mod hs, Fmt.sig, signed, decide_eq_true_eq]
  by_cases h : f.ex x = 0
  · simp [h]
  · simp [h, max_eq_left (Nat.one_le_iff_ne_zero.mpr h)]

/-- A value read from a pattern that is finite: the number that it stands for, with its sign (R126, R132). -/
theorem Fmt.val_fin {z : Bool} {x : Nat} (hx : x < 2 ^ f.w) (hfin : f.ex x ≠ f.emax) :
    ∃ n d, f.val z x = .fin (f.neg x) n d ∧ 0 < d ∧ signed (f.neg x) (n / d) = f.read z x := by
  have hrat := Fmt.rat_eq hs hx
  by_cases hex : f.ex x = 0
  · by_cases hz : f.fr x = 0 ∨ z = true
    · refine ⟨0, 1, by simp only [Fmt.val, if_neg hfin, if_pos hex, Bool.or_eq_true, decide_eq_true_eq, if_pos hz], one_pos, ?_⟩
      rcases hz with hz | hz <;> simp [Fmt.read, hrat, Fmt.sig, hex, hz]
    · rw [not_or, Bool.not_eq_true] at hz
      refine ⟨f.fr x, 2 ^ (f.bias + f.fb - 1), ?_, Nat.two_pow_pos _, ?_⟩
      · simp only [Fmt.val, if_neg hfin, if_pos hex, hz.1, hz.2, decide_false, Bool.or_false, Bool.false_eq_true, if_false]
      · have hexp : ((max 0 1 : ℕ) - f.bias - f.fb : ℤ) = -((f.bias + f.fb - 1 : ℕ) : ℤ) := by
          have := hs.one_le_bias
          push_cast [Nat.sub_add_comm, show 1 ≤ f.bias + f.fb by omega]
          simp
          ring
        rw [Fmt.read, if_neg (by simp [hz.2]), hrat, signed_inj, Fmt.sig, if_pos hex, hex, hexp, zpow_neg, zpow_natCast, Nat.cast_pow,
          Nat.cast_ofNat, div_eq_mul_inv]
  · refine ⟨_, _, by simp only [Fmt.val, if_neg hfin, if_neg hex]; rfl, pow2_den_pos _, ?_⟩
    have hpos : ((pow2 ((f.ex x : ℤ) - f.bias - f.fb)).2 : ℚ) ≠ 0 := Nat.cast_ne_zero.mpr (pow2_den_pos _).ne'
    rw [Fmt.read, if_neg (by simp [hex]), hrat, signed_inj, Nat.cast_mul, pow2_cast, mul_div_assoc, mul_div_cancel_right₀ _ hpos, Fmt.sig,
      if_neg hex, max_eq_left (Nat.one_le_iff_ne_zero.mpr hex)]

omit hs in
theorem Fmt.val_inf {z : Bool} {x : Nat} (hex : f.ex x = f.emax) (hfr : f.fr x = 0) : f.val z x = .inf (f.neg x) := by
  simp [Fmt.val, hex, hfr]

omit hs in
theorem Fmt.val_nan {z : Bool} {x : Nat} (hex : f.ex x = f.emax) (hfr : f.fr x ≠ 0) :
    f.val z x = .nan (f.fr x / 2 ^ (f.fb - 1) == 0) := by
  simp [Fmt.val, hex, hfr]

end

end Sys2Proof.Machine
end

section
/-! PROOFS. NaNs, infinities and zeros, and FCMP (O14). -/

namespace Sys2Proof.Machine

/-! ### What a pattern is read as (R126, R128) -/

/-- nv where a condition holds (R133). -/
def nvIf (b : Bool) : BitVec 9 := if b then 1 else 0

@[simp] theorem nvIf_or (a b : Bool) : nvIf a ||| nvIf b = nvIf (a || b) := by cases a <;> cases b <;> rfl

theorem Fmt.isNaN_iff {f : Fmt} {x : Nat} : f.isNaN x = true ↔ f.ex x = f.emax ∧ f.fr x ≠ 0 := by simp [Fmt.isNaN]
theorem Fmt.isInf_iff {f : Fmt} {x : Nat} : f.isInf x = true ↔ f.ex x = f.emax ∧ f.fr x = 0 := by simp [Fmt.isInf]
theorem Fmt.isZero_iff {f : Fmt} {x : Nat} : f.isZero x = true ↔ f.ex x = 0 ∧ f.fr x = 0 := by simp [Fmt.isZero]
theorem Fmt.isSub_iff {f : Fmt} {x : Nat} : f.isSub x = true ↔ f.ex x = 0 ∧ f.fr x ≠ 0 := by simp [Fmt.isSub]

theorem Fmt.val_of_isNaN {f : Fmt} {z : Bool} {x : Nat} (h : f.isNaN x = true) : f.val z x = .nan (f.isSNaN x) := by
  obtain ⟨hex, hfr⟩ := Fmt.isNaN_iff.mp h
  rw [Fmt.val_nan hex hfr, Fmt.isSNaN, h, Bool.true_and]

theorem Fmt.val_of_isInf {f : Fmt} {z : Bool} {x : Nat} (h : f.isInf x = true) : f.val z x = .inf (f.neg x) :=
  Fmt.val_inf (Fmt.isInf_iff.mp h).1 (Fmt.isInf_iff.mp h).2

/-- Only a signalling NaN sets nv by being read (R133). -/
theorem sigFl_val (f : Fmt) (z : Bool) (x : Nat) : sigFl (f.val z x) = nvIf (f.isSNaN x) := by
  cases h : f.isNaN x
  · have hs : f.isSNaN x = false := by simp [Fmt.isSNaN, h]
    rw [hs, Fmt.val]
    split
    · rename_i hex
      have hfr : f.fr x = 0 := by
        by_contra hfr
        exact absurd (Fmt.isNaN_iff.mpr ⟨hex, hfr⟩) (by simp [h])
      rw [if_pos hfr]
      rfl
    · split
      · split <;> rfl
      · rfl
  · rw [Fmt.val_of_isNaN h]
    cases f.isSNaN x <;> rfl

section
variable {f : Fmt} (hs : f.Sound)
include hs

theorem Fmt.Sound.emax_ne_zero : f.emax ≠ 0 := by have := hs.emax_eq; omega

theorem Fmt.val_of_isZero {z : Bool} {x : Nat} (h : f.isZero x = true) : f.val z x = .fin (f.neg x) 0 1 := by
  obtain ⟨hex, hfr⟩ := Fmt.isZero_iff.mp h
  have hfin : f.ex x ≠ f.emax := hex ▸ hs.emax_ne_zero.symm
  simp only [Fmt.val, if_neg hfin, if_pos hex, hfr, decide_true, Bool.true_or, if_true]

omit hs in
/-- What is no NaN, no zero and no subnormal number is an infinity or a number other than zero. -/
theorem Fmt.val_of_normal {z : Bool} {x : Nat} (hnan : f.isNaN x = false) (hzero : f.isZero x = false) (hsub : f.isSub x = false) :
    f.val z x = .inf (f.neg x) ∨ ∃ n d, f.val z x = .fin (f.neg x) n d ∧ n ≠ 0 := by
  have hex : f.ex x ≠ 0 := fun hex => by
    by_cases hfr : f.fr x = 0
    · exact absurd (Fmt.isZero_iff.mpr ⟨hex, hfr⟩) (by simp [hzero])
    · exact absurd (Fmt.isSub_iff.mpr ⟨hex, hfr⟩) (by simp [hsub])
  by_cases hinf : f.ex x = f.emax
  · left
    refine Fmt.val_inf hinf ?_
    by_contra hfr
    exact absurd (Fmt.isNaN_iff.mpr ⟨hinf, hfr⟩) (by simp [hnan])
  · right
    refine ⟨_, _, by simp only [Fmt.val, if_neg hinf, if_neg hex]; rfl, ?_⟩
    have hpow : (pow2 ((f.ex x : ℤ) - f.bias - f.fb)).1 ≠ 0 := by
      unfold pow2
      split
      · exact one_ne_zero
      · exact (Nat.two_pow_pos _).ne'
    exact Nat.mul_ne_zero (Nat.add_pos_left (Nat.two_pow_pos _) _).ne' hpow

/-- An infinity is its pattern. -/
theorem Fmt.infPat_of_isInf {x : Nat} (hx : x < 2 ^ f.w) (h : f.isInf x = true) : f.infPat (f.neg x) = x := by
  obtain ⟨hex, hfr⟩ := Fmt.isInf_iff.mp h
  have := Fmt.pack_fields hs hx
  rwa [hex, hfr, Nat.add_zero] at this

/-- A zero is its sign bit. -/
theorem Fmt.zeroPat_of_isZero {x : Nat} (hx : x < 2 ^ f.w) (h : f.isZero x = true) : f.zeroPat (f.neg x) = x := by
  obtain ⟨hex, hfr⟩ := Fmt.isZero_iff.mp h
  have := Fmt.pack_fields hs hx
  rwa [hex, hfr, Nat.zero_mul, Nat.add_zero] at this

/-! ### A pattern with its sign changed -/

theorem Fmt.flip_eq {x : Nat} (hx : x < 2 ^ f.w) : f.flip x = f.signBit (!f.neg x) + x % 2 ^ (f.w - 1) := by
  have h := Fmt.sign_add_low hs hx
  cases hn : f.neg x <;> simp only [hn, Fmt.signBit, Fmt.flip, if_true, Bool.false_eq_true, if_false, Bool.not_true, Bool.not_false] at h ⊢ <;>
    omega

/-- The fields of a pattern with its sign changed. -/
theorem Fmt.flip_fields {x : Nat} (hx : x < 2 ^ f.w) :
    f.flip x < 2 ^ f.w ∧ f.neg (f.flip x) = !f.neg x ∧ f.ex (f.flip x) = f.ex x ∧ f.fr (f.flip x) = f.fr x := by
  obtain ⟨hlt, hneg, hlow⟩ := Fmt.fields_mk hs (neg := !f.neg x) (Nat.mod_lt x (Nat.two_pow_pos (f.w - 1)))
  rw [← Fmt.flip_eq hs hx] at hlt hneg hlow
  refine ⟨hlt, hneg, ?_, ?_⟩
  · rw [← Fmt.low_div hs, hlow, Fmt.low_div hs]
  · rw [← Fmt.low_mod hs, hlow, Fmt.low_mod hs]

theorem Fmt.flip_isNaN {x : Nat} (hx : x < 2 ^ f.w) : f.isNaN (f.flip x) = f.isNaN x := by
  obtain ⟨-, -, hex, hfr⟩ := Fmt.flip_fields hs hx
  simp only [Fmt.isNaN, hex, hfr]

theorem Fmt.flip_isSNaN {x : Nat} (hx : x < 2 ^ f.w) : f.isSNaN (f.flip x) = f.isSNaN x := by
  obtain ⟨-, -, -, hfr⟩ := Fmt.flip_fields hs hx
  simp only [Fmt.isSNaN, Fmt.flip_isNaN hs hx, hfr]

theorem Fmt.flip_isInf {x : Nat} (hx : x < 2 ^ f.w) : f.isInf (f.flip x) = f.isInf x := by
  obtain ⟨-, -, hex, hfr⟩ := Fmt.flip_fields hs hx
  simp only [Fmt.isInf, hex, hfr]

end

/-! ### Sums, products and quotients of special values (R128, R219) -/

theorem sumFV_pair_nan (rm : Rnd) {x y : FV} (h : (∃ s, x = .nan s) ∨ ∃ s, y = .nan s) :
    sumFV rm [x, y] = (.nan false, sigFl x ||| sigFl y) := by
  rcases h with ⟨s, rfl⟩ | ⟨s, rfl⟩ <;> simp [sumFV]

theorem sumFV_pair_inf (rm : Rnd) (s t : Bool) :
    sumFV rm [.inf s, .inf t] = if s = t then (.inf s, 0) else (.nan false, 1) := by
  cases s <;> cases t <;> rfl

theorem mul_nan {x y : FV} (h : (∃ s, x = .nan s) ∨ ∃ s, y = .nan s) : x.mul y = (.nan false, sigFl x ||| sigFl y) := by
  rcases h with ⟨s, rfl⟩ | ⟨s, rfl⟩
  · rfl
  · cases x <;> rfl

/-- Either operand is a NaN. -/
theorem Fmt.val_nan_of_or {f : Fmt} {z : Bool} {A B : Nat} (h : (f.isNaN A || f.isNaN B) = true) :
    (∃ s, f.val z A = .nan s) ∨ ∃ s, f.val z B = .nan s := by
  rcases Bool.or_eq_true _ _ ▸ h with h | h
  · exact .inl ⟨_, Fmt.val_of_isNaN h⟩
  · exact .inr ⟨_, Fmt.val_of_isNaN h⟩

theorem Fmt.add_nan {f : Fmt} {rm : Rnd} {z : Bool} {A B : Nat} (h : (f.isNaN A || f.isNaN B) = true) :
    f.add rm z A B = ⟨f.canon, nvIf (f.isSNaN A || f.isSNaN B)⟩ := by
  rw [Fmt.add, sumFV_pair_nan rm (Fmt.val_nan_of_or h), sigFl_val, sigFl_val, nvIf_or]
  rfl

theorem Fmt.mul_nan {f : Fmt} {rm : Rnd} {z : Bool} {A B : Nat} (h : (f.isNaN A || f.isNaN B) = true) :
    f.mul rm z A B = ⟨f.canon, nvIf (f.isSNaN A || f.isSNaN B)⟩ := by
  rw [Fmt.mul, Machine.mul_nan (Fmt.val_nan_of_or h), sigFl_val, sigFl_val, nvIf_or]
  rfl

theorem Fmt.div_nan {f : Fmt} {rm : Rnd} {z : Bool} {A B : Nat} (h : (f.isNaN A || f.isNaN B) = true) :
    f.div rm z A B = ⟨f.canon, nvIf (f.isSNaN A || f.isSNaN B)⟩ := by
  have hdiv : f.div rm z A B = ⟨f.canon, sigFl (f.val z A) ||| sigFl (f.val z B)⟩ := by
    rcases Fmt.val_nan_of_or (z := z) h with ⟨s, hA⟩ | ⟨s, hB⟩
    · rw [Fmt.div, hA]
    · rw [Fmt.div, hB]
      cases f.val z A <;> simp [sigFl]
  rw [hdiv, sigFl_val, sigFl_val, nvIf_or]

theorem Fmt.add_inf {f : Fmt} (hs : f.Sound) {rm : Rnd} {z : Bool} {A B : Nat} (hA : A < 2 ^ f.w) (hi : f.isInf A = true) (hj : f.isInf B = true) :
    f.add rm z A B = if f.neg A = f.neg B then ⟨A, 0⟩ else ⟨f.canon, 1⟩ := by
  rw [Fmt.add, Fmt.val_of_isInf hi, Fmt.val_of_isInf hj, sumFV_pair_inf]
  split
  · exact congrArg (FR.mk · 0) (Fmt.infPat_of_isInf hs hA hi)
  · rfl

/-! ### Compares (R221) -/

/-- The number that a compare takes a pattern for, -0.0 being +0.0: its low bits with its sign. -/
def Fmt.ord (f : Fmt) (x : Nat) : Int := if f.neg x then -((x % 2 ^ (f.w - 1) : Nat) : Int) else ((x % 2 ^ (f.w - 1) : Nat) : Int)

/-- Where not both are zeros, the total order is that of the numbers. -/
theorem Fmt.key_lt_iff (f : Fmt) (x y : Nat) :
    ¬(x % 2 ^ (f.w - 1) = 0 ∧ y % 2 ^ (f.w - 1) = 0) ∧ f.key x < f.key y ↔ f.ord x < f.ord y := by
  unfold Fmt.key Fmt.ord
  cases f.neg x <;> cases f.neg y <;> simp only [Bool.false_eq_true, if_true, if_false] <;> omega

theorem Fmt.isZero_iff_low {f : Fmt} (hs : f.Sound) {x : Nat} : f.isZero x = true ↔ x % 2 ^ (f.w - 1) = 0 := by
  have hM := Nat.two_pow_pos f.fb
  rw [Fmt.isZero_iff, Fmt.low_eq hs]
  constructor
  · rintro ⟨hex, hfr⟩
    rw [hex, hfr, Nat.zero_mul]
  · intro h
    have hmul : f.ex x * 2 ^ f.fb = 0 := by omega
    exact ⟨(Nat.mul_eq_zero.mp hmul).resolve_right hM.ne', by omega⟩

section
variable {f : Fmt} (hs : f.Sound)
include hs

/-- What is read of a pattern under ftz (R132). -/
theorem Fmt.flushIn_fields {z : Bool} {x : Nat} (hx : x < 2 ^ f.w) :
    f.flushIn z x < 2 ^ f.w ∧ f.neg (f.flushIn z x) = f.neg x ∧
      f.flushIn z x % 2 ^ (f.w - 1) = if (z && f.isSub x) = true then 0 else x % 2 ^ (f.w - 1) := by
  unfold Fmt.flushIn
  split
  · exact Fmt.fields_mk hs (neg := f.neg x) (Nat.two_pow_pos _)
  · exact ⟨hx, rfl, rfl⟩

omit hs in
/-- Only a subnormal pattern is read as another. -/
theorem Fmt.flushIn_of_not_sub {z : Bool} {x : Nat} (h : f.isSub x = false) : f.flushIn z x = x := by simp [Fmt.flushIn, h]

theorem Fmt.flushIn_isNaN {z : Bool} {x : Nat} (hx : x < 2 ^ f.w) : f.isNaN (f.flushIn z x) = f.isNaN x := by
  cases hsub : f.isSub x
  · rw [Fmt.flushIn_of_not_sub hsub]
  · obtain ⟨-, -, hlow⟩ := Fmt.flushIn_fields hs (z := z) hx
    have hex : f.ex (f.flushIn z x) ≠ f.emax := by
      rw [← Fmt.low_div hs, hlow]
      split
      · rw [Nat.zero_div]; exact hs.emax_ne_zero.symm
      · rw [Fmt.low_div hs, (Fmt.isSub_iff.mp hsub).1]; exact hs.emax_ne_zero.symm
    have hex' : f.ex x ≠ f.emax := by rw [(Fmt.isSub_iff.mp hsub).1]; exact hs.emax_ne_zero.symm
    rw [Fmt.isNaN, Fmt.isNaN, beq_false_of_ne hex, beq_false_of_ne hex', Bool.false_and, Bool.false_and]

theorem Fmt.flushIn_isSNaN {z : Bool} {x : Nat} (hx : x < 2 ^ f.w) : f.isSNaN (f.flushIn z x) = f.isSNaN x := by
  cases hsub : f.isSub x
  · rw [Fmt.flushIn_of_not_sub hsub]
  · have hnan : f.isNaN x = false := by
      have := hs.emax_ne_zero
      simp [Fmt.isNaN, (Fmt.isSub_iff.mp hsub).1, this.symm]
    simp [Fmt.isSNaN, Fmt.flushIn_isNaN hs hx, hnan]

/-- The number that a compare takes an operand for: zeros, and subnormal operands under ftz, are 0. -/
theorem Fmt.ord_flushIn {z : Bool} {x : Nat} (hx : x < 2 ^ f.w) :
    f.ord (f.flushIn z x) = if (f.isZero x || z && f.isSub x) = true then 0
      else if f.neg x = true then -((x % 2 ^ (f.w - 1) : Nat) : Int) else ((x % 2 ^ (f.w - 1) : Nat) : Int) := by
  obtain ⟨-, hneg, hlow⟩ := Fmt.flushIn_fields hs (z := z) hx
  rw [Fmt.ord, hneg, hlow]
  cases hflush : z && f.isSub x
  · cases hzero : f.isZero x
    · rfl
    · simp [(Fmt.isZero_iff_low hs).mp hzero]
  · simp

/-- FCMP compares the numbers that its operands are read as. -/
theorem Fmt.cmp_eq {z : Bool} {c : FCond} {A B : Nat} (hA : A < 2 ^ f.w) (hB : B < 2 ^ f.w) :
    let un := f.isNaN A || f.isNaN B
    let x := f.ord (f.flushIn z A)
    let y := f.ord (f.flushIn z B)
    f.cmp z c A B = (match c with
      | .eq => !un && x == y
      | .ne => un || x != y
      | .lt => !un && decide (x < y)
      | .le => !un && decide (x ≤ y)
      | .gt => !un && decide (y < x)
      | .ge => !un && decide (y ≤ x)
      | .num => !un
      | .nan => un, nvIf (f.isSNaN A || f.isSNaN B)) := by
  intro un x y
  have hlt : ∀ a b : Nat, (!(f.isZero a && f.isZero b) && decide (f.key a < f.key b)) = decide (f.ord a < f.ord b) := fun a b => by
    rw [← Bool.coe_iff_coe, decide_eq_true_eq, ← Fmt.key_lt_iff]
    simp only [Bool.and_eq_true, Bool.not_eq_true', decide_eq_true_eq, Bool.and_eq_false_iff, ← Fmt.isZero_iff_low hs, not_and_or, Bool.not_eq_true]
  have hgt := hlt (f.flushIn z B) (f.flushIn z A)
  rw [Bool.and_comm (f.isZero _)] at hgt
  simp only [Fmt.cmp, Fmt.flushIn_isNaN hs hA, Fmt.flushIn_isNaN hs hB, Fmt.flushIn_isSNaN hs hA, Fmt.flushIn_isSNaN hs hB, hlt, hgt]
  refine Prod.ext ?_ rfl
  cases c
  case eq =>
    rw [Bool.and_assoc]
    refine congrArg (!un && ·) ?_
    rw [← Bool.coe_iff_coe]
    simp only [Bool.and_eq_true, Bool.not_eq_true', decide_eq_false_iff_not, beq_iff_eq, x, y]
    omega
  case ne =>
    rw [Bool.or_assoc]
    refine congrArg (un || ·) ?_
    rw [← Bool.coe_iff_coe]
    simp only [Bool.or_eq_true, decide_eq_true_eq, bne_iff_ne, x, y]
    omega
  case le | ge =>
    refine congrArg (!un && ·) ?_
    rw [← decide_not]
    simp only [not_lt, x, y]
  case lt | gt | num | nan => rfl

end

/-! ### Class 3 at issue (R133, R218) -/

theorem State.setFlags_thread {s : State} {t : Nat} (hc : s.cur = .thread t) (fl : BitVec 9) :
    s.setFlags fl = s.updThr t fun x => { x with status := x.status ||| fl } := by
  simp only [State.setFlags, hc]

/-- FCMP at issue: its flags are set, its predicate is written (R133, R221). -/
theorem exec_fcmp_runs {s : State} {t : Nat} {h : Hdr} {a b : Src} {cond : FCond} {comb : Comb} (hc : s.cur = .thread t)
    (hr : s.runs (.fcmp h a b cond comb) = true) :
    let c := f32.cmp s.ftz cond (s.curRegs.rv a).toNat (s.curRegs.rv b).toNat
    exec (.fcmp h a b cond comb) s = .next ((s.updThr t fun x => { x with status := x.status ||| c.2 }).goesOn (s.curRegs.gotP h
      (match comb with | .none => c.1 | .and q => c.1 && s.curRegs.pred q | .or q => c.1 || s.curRegs.pred q))) := by
  rw [exec_fcmp, execFcmp, issueI_ready_noBrk (i := ⟨aFloat, h, [.v a, .v b], .p h.d⟩) hr rfl, deliver_p rfl, State.setFlags_curRegs,
    State.setFlags_thread hc]
  cases comb <;> rfl

/-- Settles O14: what each operand is read as decides the special results; FCMP compares what its operands are read as. -/
theorem floatSpecialsAndCompares : Obligations.FloatSpecialsAndCompares := by
  unfold Obligations.FloatSpecialsAndCompares
  refine ⟨fun A B rm z f hf hA hB => ?special, fun s t h a b cond q hc => ?compare⟩
  case special =>
    have hs := Fmt.sound_of_vector hf
    obtain ⟨hflip, hflipNeg, -, -⟩ := Fmt.flip_fields hs hB
    refine ⟨fun hnan => ⟨Fmt.add_nan hnan, ?_, Fmt.mul_nan hnan, Fmt.div_nan hnan⟩, fun hi hj => ⟨Fmt.add_inf hs hA hi hj, ?_, ?_⟩,
      fun hi hz => ⟨?_, ?_⟩, fun hi hj => ?_, fun hnan hzero hsub hB0 => ?_, fun hz => ⟨?_, ?_, ?_⟩, fun hneg hnan hzero hsub => ⟨?_, ?_⟩⟩
    · rw [Fmt.sub, Fmt.add_nan (by rwa [Fmt.flip_isNaN hs hB]), Fmt.flip_isSNaN hs hB]
      rfl
    · rw [Fmt.sub, Fmt.add_inf hs hA hi (by rwa [Fmt.flip_isInf hs hB]), hflipNeg]
      cases f.neg A <;> cases f.neg B <;> rfl
    · rw [Fmt.div, Fmt.val_of_isInf hi, Fmt.val_of_isInf hj]
      rfl
    · rw [Fmt.mul, Fmt.val_of_isInf hi, Fmt.val_of_isZero hs hz]
      rfl
    · rw [Fmt.mul, Fmt.val_of_isInf hi, Fmt.val_of_isZero hs hz]
      rfl
    · rw [Fmt.div, Fmt.val_of_isZero hs hi, Fmt.val_of_isZero hs hj]
      rfl
    · rw [Fmt.div, Fmt.val_of_isZero hs hB0]
      rcases Fmt.val_of_normal (z := z) hnan hzero hsub with hv | ⟨n, d, hv, hn⟩
      · rw [hv]; rfl
      · rw [hv]; simp [hn, fDZ]
    · rw [Fmt.sqrt, Fmt.val_of_isZero hs hz]
      simp [Fmt.zeroPat_of_isZero hs hA hz]
    · rw [Fmt.rcp, Fmt.val_of_isZero hs hz]
      rfl
    · rw [Fmt.rsq, Fmt.val_of_isZero hs hz]
      rfl
    · rw [Fmt.sqrt]
      rcases Fmt.val_of_normal (z := z) hnan hzero hsub with hv | ⟨n, d, hv, hn⟩
      · rw [hv, hneg]; rfl
      · rw [hv, hneg]; simp [hn, fNV]
    · rw [Fmt.rsq]
      rcases Fmt.val_of_normal (z := z) hnan hzero hsub with hv | ⟨n, d, hv, hn⟩
      · rw [hv, hneg]; rfl
      · rw [hv, hneg]; simp [hn, fNV]
  case compare =>
    have hA : (s.curRegs.rv a).toNat < 2 ^ f32.w := (s.curRegs.rv a).isLt
    have hB : (s.curRegs.rv b).toNat < 2 ^ f32.w := (s.curRegs.rv b).isLt
    have hcmp := Fmt.cmp_eq f32_sound (z := s.ftz) (c := cond) hA hB
    simp only [Fmt.ord_flushIn f32_sound hA, Fmt.ord_flushIn f32_sound hB] at hcmp
    refine ⟨fun hr => (exec_fcmp_runs hc hr).trans ?_, fun hr => (exec_fcmp_runs hc hr).trans ?_, fun hr => (exec_fcmp_runs hc hr).trans ?_⟩ <;>
      rw [hcmp] <;> cases cond <;> rfl

end Sys2Proof.Machine
end

section
/-! PROOFS. Rounding to an integer (R131), and CVT (O15). -/

namespace Sys2Proof.Machine

/-! ### Rounding to an integer -/

/-- A mode seen from the other side of zero. -/
def mirror : Rnd → Rnd
  | .rdn => .rup
  | .rup => .rdn
  | rm => rm

theorem divRnd_mirror (rm : Rnd) (num den : Nat) : divRnd rm true num den = divRnd (mirror rm) false num den := by cases rm <;> rfl

theorem roundsTo_neg {rm : Rnd} {x : ℚ} {k : ℤ} (h : roundsTo (mirror rm) x k) : roundsTo rm (-x) (-k) := by
  cases rm
  case rne =>
    have habs : |-x - ((-k : ℤ) : ℚ)| = |x - k| := by rw [Int.cast_neg, neg_sub_neg, abs_sub_comm]
    simp only [roundsTo, mirror, habs, even_neg] at h ⊢
    exact h
  case rz =>
    simp only [roundsTo, mirror, Int.floor_neg, Int.ceil_neg] at h ⊢
    rcases lt_trichotomy x 0 with hx | rfl | hx
    · rw [h, if_neg (not_le.mpr hx), if_pos (neg_nonneg.mpr hx.le)]
    · simpa using h
    · rw [h, if_pos hx.le, if_neg (by linarith)]
  case rdn => simp only [roundsTo, mirror, Int.floor_neg] at h ⊢; rw [h]
  case rup => simp only [roundsTo, mirror, Int.ceil_neg] at h ⊢; rw [h]

/-- An integer is rounded to itself. -/
theorem roundsTo_intCast (rm : Rnd) (k : ℤ) : roundsTo rm k k := by
  cases rm <;> simp [roundsTo]

/-- A number rounded in a mode differs from an integer by less than one, so that an integer it equals is its rounding. -/
theorem roundsTo_eq_of_eq {rm : Rnd} {x : ℚ} {k j : ℤ} (h : roundsTo rm x k) (hx : x = j) : k = j := by
  subst hx
  cases rm
  case rne =>
    obtain ⟨h, -⟩ := h
    have hlt : |(j : ℚ) - k| < 1 := lt_of_le_of_lt h (by norm_num)
    rw [← Int.cast_sub, ← Int.cast_abs, ← Int.cast_one, Int.cast_lt, Int.abs_lt_one_iff] at hlt
    omega
  case rz => simpa [roundsTo] using h
  case rdn => simpa [roundsTo] using h
  case rup => simpa [roundsTo] using h

/-- A quotient is its whole part and its remainder. -/
theorem cast_div_eq (num : Nat) {den : Nat} (hd : 0 < den) : (num : ℚ) / den = ((num / den : ℕ) : ℚ) + ((num % den : ℕ) : ℚ) / den := by
  have hdq : (den : ℚ) ≠ 0 := Nat.cast_ne_zero.mpr hd.ne'
  rw [eq_comm, ← sub_eq_zero]
  field_simp
  have := Nat.div_add_mod num den
  rw [← @Nat.cast_inj ℚ] at this
  push_cast at this
  linarith

/-- A quotient of natural numbers rounded in a mode: the rounding that R131 names, and whether it changed the number. -/
theorem divRnd_roundsTo_nonneg (rm : Rnd) (num : Nat) {den : Nat} (hd : 0 < den) :
    roundsTo rm ((num : ℚ) / den) ((divRnd rm false num den).1 : ℤ) ∧
      ((divRnd rm false num den).2 = false ↔ (num : ℚ) / den = ((divRnd rm false num den).1 : ℤ)) := by
  have hdq : (0 : ℚ) < den := Nat.cast_pos.mpr hd
  have hx := cast_div_eq num hd
  by_cases hr : num % den = 0
  · have hdiv : divRnd rm false num den = (num / den, false) := by simp only [divRnd, if_pos hr]
    rw [hr, Nat.cast_zero, zero_div, add_zero] at hx
    rw [hdiv]
    dsimp only
    rw [hx, ← Int.cast_natCast (num / den)]
    exact ⟨roundsTo_intCast rm _, iff_of_true rfl rfl⟩
  · set q := num / den
    set t : ℚ := ((num % den : ℕ) : ℚ) / den
    have ht0 : 0 < t := div_pos (Nat.cast_pos.mpr (Nat.pos_of_ne_zero hr)) hdq
    have ht1 : t < 1 := (div_lt_one hdq).mpr (Nat.cast_lt.mpr (Nat.mod_lt _ hd))
    have hfloor : ⌊(num : ℚ) / den⌋ = q := by
      rw [hx, Int.floor_eq_iff]
      exact ⟨by push_cast; linarith, by push_cast; linarith⟩
    have hceil : ⌈(num : ℚ) / den⌉ = (q : ℤ) + 1 := by
      rw [hx, Int.ceil_eq_iff]
      exact ⟨by push_cast; linarith, by push_cast; linarith⟩
    have hdiv : ∀ up : Bool, (∀ k : ℕ, (if up = true then q + 1 else q) = k → roundsTo rm ((num : ℚ) / den) k) →
        divRnd rm false num den = (if up = true then q + 1 else q, true) →
        roundsTo rm ((num : ℚ) / den) ((divRnd rm false num den).1 : ℤ) ∧
          ((divRnd rm false num den).2 = false ↔ (num : ℚ) / den = ((divRnd rm false num den).1 : ℤ)) := by
      intro up hround he
      rw [he]
      refine ⟨hround _ rfl, ?_⟩
      simp only [Bool.true_eq_false, false_iff, hx]
      cases up
      · simp only [Bool.false_eq_true, if_false, Int.cast_natCast]; intro h; linarith
      · simp only [if_true, Nat.cast_add, Nat.cast_one, Int.cast_add, Int.cast_natCast, Int.cast_one]; intro h; linarith
    cases rm
    case rz =>
      refine hdiv false ?_ (by simp only [divRnd, if_neg hr]; rfl)
      rintro k rfl
      simp only [roundsTo, if_pos (div_nonneg (Nat.cast_nonneg num) hdq.le), hfloor, Bool.false_eq_true, if_false]
    case rdn =>
      refine hdiv false ?_ (by simp only [divRnd, if_neg hr]; rfl)
      rintro k rfl
      simp only [roundsTo, hfloor, Bool.false_eq_true, if_false]
    case rup =>
      refine hdiv true ?_ (by simp only [divRnd, if_neg hr]; rfl)
      rintro k rfl
      simp only [roundsTo, hceil, if_true, Nat.cast_add, Nat.cast_one]
    case rne =>
      have hmul : t * den = (num % den : ℕ) := div_mul_cancel₀ _ hdq.ne'
      refine hdiv (decide (den < 2 * (num % den)) || 2 * (num % den) == den && q % 2 == 1) ?_ (by simp only [divRnd, if_neg hr]; rfl)
      rintro k rfl
      by_cases hup : (decide (den < 2 * (num % den)) || 2 * (num % den) == den && q % 2 == 1) = true
      · simp only [if_pos hup]
        simp only [Bool.or_eq_true, decide_eq_true_eq, Bool.and_eq_true, beq_iff_eq] at hup
        have hge : 1 / 2 ≤ t := by
          rw [div_le_iff₀ two_pos, ← mul_le_mul_iff_left₀ hdq, one_mul, mul_right_comm, hmul]
          exact_mod_cast hup.elim (fun h => by omega) fun h => by omega
        have habs : |(num : ℚ) / den - ((q + 1 : ℕ) : ℤ)| = 1 - t := by
          rw [hx, abs_sub_comm, abs_of_nonneg (by push_cast; linarith)]
          push_cast
          ring
        refine ⟨by rw [habs]; linarith, fun h => ?_⟩
        have htie : 2 * (num % den) = den := by
          have : t * den * 2 = den := by rw [show t = 1 / 2 by rw [habs] at h; linarith]; ring
          rw [hmul] at this
          rw [mul_comm]
          exact_mod_cast this
        have hodd : q % 2 = 1 := hup.elim (fun h => by omega) fun h => h.2
        rw [Int.even_coe_nat, Nat.even_iff]
        omega
      · simp only [if_neg hup]
        simp only [Bool.or_eq_true, decide_eq_true_eq, Bool.and_eq_true, beq_iff_eq, not_or, not_and] at hup
        have hle : t ≤ 1 / 2 := by
          rw [le_div_iff₀ two_pos, ← mul_le_mul_iff_left₀ hdq, one_mul, mul_right_comm, hmul]
          exact_mod_cast (show num % den * 2 ≤ den by omega)
        have habs : |(num : ℚ) / den - ((q : ℕ) : ℤ)| = t := by
          rw [hx, abs_of_nonneg (by push_cast; linarith)]
          push_cast
          ring
        refine ⟨by rw [habs]; exact hle, fun h => ?_⟩
        have htie : 2 * (num % den) = den := by
          have : t * den * 2 = den := by rw [show t = 1 / 2 by rw [habs] at h; exact h]; ring
          rw [hmul] at this
          rw [mul_comm]
          exact_mod_cast this
        have hne := hup.2 htie
        rw [Int.even_coe_nat, Nat.even_iff]
        omega

/-- An integer with a sign. -/
def signedInt (neg : Bool) (k : Nat) : ℤ := if neg then -(k : ℤ) else k

theorem cast_signedInt (neg : Bool) (k : Nat) : (signedInt neg k : ℚ) = signed neg k := by cases neg <;> simp [signedInt]

theorem natAbs_signedInt (neg : Bool) (k : Nat) : (signedInt neg k).natAbs = k := by cases neg <;> simp [signedInt]

/-- The rounding of a fraction with a sign (R131). -/
theorem divRnd_roundsTo (rm : Rnd) (neg : Bool) (num : Nat) {den : Nat} (hd : 0 < den) :
    roundsTo rm (signed neg (num / den)) (signedInt neg (divRnd rm neg num den).1) ∧
      ((divRnd rm neg num den).2 = false ↔ signed neg (num / den) = signedInt neg (divRnd rm neg num den).1) := by
  cases neg
  · exact divRnd_roundsTo_nonneg rm num hd
  · obtain ⟨hround, hexact⟩ := divRnd_roundsTo_nonneg (mirror rm) num hd
    rw [divRnd_mirror]
    exact ⟨roundsTo_neg hround, hexact.trans (by simp [signedInt])⟩

theorem le_divRnd {rm : Rnd} {neg : Bool} {num den N : Nat} (hd : 0 < den) (h : N * den ≤ num) : N ≤ (divRnd rm neg num den).1 := by
  have hq : N ≤ num / den := (Nat.le_div_iff_mul_le hd).mpr h
  unfold divRnd
  dsimp only
  split
  · exact hq
  · have hup : ∀ up : Bool, num / den ≤ if up = true then num / den + 1 else num / den := fun up => by cases up <;> simp
    exact hq.trans (hup _)

theorem divRnd_le {rm : Rnd} {neg : Bool} {num den N : Nat} (h : num ≤ N * den) : (divRnd rm neg num den).1 ≤ N := by
  have hq : num / den ≤ N := Nat.div_le_of_le_mul (by rwa [mul_comm])
  unfold divRnd
  dsimp only
  split
  · exact hq
  · rename_i hr
    have hlt : num / den < N := by
      refine Nat.div_lt_of_lt_mul (lt_of_le_of_ne (by rwa [mul_comm]) fun e => hr ?_)
      rw [e, Nat.mul_mod_right]
    have hup : ∀ up : Bool, (if up = true then num / den + 1 else num / den) ≤ num / den + 1 := fun up => by cases up <;> simp
    exact (hup _).trans hlt

/-- Rounding toward zero, by what it leaves. -/
theorem rz_bounds {x : ℚ} {k : ℤ} (h : roundsTo .rz x k) : |(k : ℚ)| ≤ |x| ∧ |x - k| < 1 ∧ 0 ≤ x * k := by
  simp only [roundsTo] at h
  split at h
  · rename_i hx
    have hle := Int.floor_le x
    have hlt := Int.lt_floor_add_one x
    have hk : (0 : ℚ) ≤ k := by rw [h]; exact_mod_cast Int.floor_nonneg.mpr hx
    rw [← h] at hle hlt
    exact ⟨by rwa [abs_of_nonneg hk, abs_of_nonneg hx], abs_lt.mpr ⟨by linarith, by linarith⟩, mul_nonneg hx hk⟩
  · rename_i hx
    have hx := (not_le.mp hx).le
    have hle := Int.le_ceil x
    have hlt := Int.ceil_lt_add_one x
    have hk : (k : ℚ) ≤ 0 := by rw [h]; exact_mod_cast Int.ceil_nonpos.mpr hx
    rw [← h] at hle hlt
    refine ⟨?_, abs_lt.mpr ⟨by linarith, by linarith⟩, mul_nonneg_of_nonpos_of_nonpos hx hk⟩
    rw [abs_of_nonpos hk, abs_of_nonpos hx]
    linarith

end Sys2Proof.Machine
end

section
/-! PROOFS. CVT (O15). -/

namespace Sys2Proof.Machine

/-! ### Integers as 64 bits (R127, R224, R225) -/

theorem saturate_eq {x lo hi : Int} (h : lo ≤ hi) : Sys2Proof.saturate x lo hi = max lo (min hi x) := by
  unfold Sys2Proof.saturate
  split_ifs <;> omega

/-- An integer in the format of a CVT destination, as 64 bits of which a v destination takes the low word. -/
def cvtPut (dst : CvtFmt) (y : Int) : DWord :=
  match dst with
  | .s8 => ((BitVec.ofInt 8 y).signExtend 32).setWidth 64
  | .u8 => (BitVec.ofInt 8 y).setWidth 64
  | .s64 => BitVec.ofInt 64 y
  | _ => (BitVec.ofInt 32 y).setWidth 64

theorem cvtPut_s32 (y : Int) : cvtPut .s32 y = (BitVec.ofInt 32 y).setWidth 64 := rfl

/-- Two results are the same for a destination. -/
def sameFor (dst : CvtFmt) (x y : DWord) : Prop := if dst = .s64 then x = y else x.extractLsb' 0 32 = y.extractLsb' 0 32

theorem sameFor_refl (dst : CvtFmt) (x : DWord) : sameFor dst x x := by
  unfold sameFor
  split <;> rfl

theorem extractLsb'_low (w : Nat) (x : DWord) : x.extractLsb' 0 w = x.setWidth w := by
  ext i hi
  simp

theorem setWidth_setWidth_word (x : Word) : (x.setWidth 64).setWidth 32 = x := by
  ext i hi
  simp

theorem setWidth_ofInt (y : Int) : (BitVec.ofInt 64 y).setWidth 32 = BitVec.ofInt 32 y := by
  apply BitVec.eq_of_toNat_eq
  simp only [BitVec.toNat_setWidth, BitVec.toNat_ofInt]
  omega

theorem signExtend_ofInt8 {y : Int} (hlo : -128 ≤ y) (hhi : y ≤ 127) : (BitVec.ofInt 8 y).signExtend 32 = BitVec.ofInt 32 y := by
  apply BitVec.eq_of_toInt_eq
  rw [BitVec.toInt_signExtend_of_le (by omega), BitVec.toInt_ofInt, BitVec.toInt_ofInt, Int.bmod_def, Int.bmod_def]
  omega

/-- An integer inside the range of the destination is delivered as it is. -/
theorem sameFor_cvtPut {dst : CvtFmt} (hd : dst.isInt = true) {y : Int} (hlo : (cvtRange dst).1 ≤ y) (hhi : y ≤ (cvtRange dst).2.1) :
    sameFor dst (cvtPut dst y) (BitVec.ofInt 64 y) := by
  cases dst
  case s8 =>
    rw [sameFor, if_neg (by decide), extractLsb'_low, extractLsb'_low, cvtPut, setWidth_setWidth_word, setWidth_ofInt, signExtend_ofInt8 hlo hhi]
  case u8 =>
    rw [sameFor, if_neg (by decide), extractLsb'_low, extractLsb'_low, cvtPut, setWidth_ofInt]
    simp only [cvtRange] at hlo hhi
    apply BitVec.eq_of_toNat_eq
    simp only [BitVec.toNat_setWidth, BitVec.toNat_ofInt]
    omega
  case s32 => rw [sameFor, if_neg (by decide), extractLsb'_low, extractLsb'_low, cvtPut_s32, setWidth_setWidth_word, setWidth_ofInt]
  case s64 => exact sameFor_refl _ _
  all_goals cases hd

/-- An integer outside the range is delivered by its low bits (R225). -/
theorem cvtPut_wrap {dst : CvtFmt} (hd : dst.isInt = true) (v : Int) :
    ∃ y, (cvtRange dst).1 ≤ y ∧ y ≤ (cvtRange dst).2.1 ∧ (y - v) % ((cvtRange dst).2.1 - (cvtRange dst).1 + 1) = 0 ∧ cvtPut dst v = cvtPut dst y := by
  cases dst
  case s8 =>
    refine ⟨(BitVec.ofInt 8 v).toInt, ?_, ?_, ?_, by rw [cvtPut, cvtPut, BitVec.ofInt_toInt]⟩ <;>
      simp only [cvtRange, BitVec.toInt_ofInt, Int.bmod_def, Int.reduceNeg, Int.reduceSub, Int.reduceAdd] <;> omega
  case u8 =>
    refine ⟨((BitVec.ofInt 8 v).toNat : Int), ?_, ?_, ?_, by rw [cvtPut, cvtPut, BitVec.ofInt_natCast, BitVec.ofNat_toNat, BitVec.setWidth_eq]⟩ <;>
      simp only [cvtRange, BitVec.toNat_ofInt, Int.reduceSub, Int.reduceAdd] <;> omega
  case s32 =>
    refine ⟨(BitVec.ofInt 32 v).toInt, ?_, ?_, ?_, by rw [cvtPut_s32, cvtPut_s32, BitVec.ofInt_toInt]⟩ <;>
      simp only [cvtRange, BitVec.toInt_ofInt, Int.bmod_def, Int.reducePow, Int.reduceNeg, Int.reduceSub, Int.reduceAdd] <;> omega
  case s64 =>
    refine ⟨(BitVec.ofInt 64 v).toInt, ?_, ?_, ?_, by rw [cvtPut, cvtPut, BitVec.ofInt_toInt]⟩ <;>
      simp only [cvtRange, BitVec.toInt_ofInt, Int.bmod_def, Int.reducePow, Int.reduceNeg, Int.reduceSub, Int.reduceAdd] <;> omega
  all_goals cases hd

theorem cvtRange_le (dst : CvtFmt) : (cvtRange dst).1 ≤ (cvtRange dst).2.1 := by cases dst <;> decide

/-! ### The conversion, case by case -/

section
variable {z : Bool} {src dst : CvtFmt} {rm : Rnd} {sat : Bool} {a : DWord}

theorem cvtOp_int_int (hs : src.isInt = true) (hd : dst.isInt = true) :
    cvtOp z src dst rm sat a =
      (cvtPut dst (if sat then Sys2Proof.saturate (cvtIntOf src a) (cvtRange dst).1 (cvtRange dst).2.1 else cvtIntOf src a), 0) := by
  simp only [cvtOp, hs, hd, if_true]
  cases dst
  case s8 | u8 | s32 | s64 => rfl
  all_goals cases hd

theorem cvtOp_int_float (hs : src.isInt = true) (hd : dst.isInt = false) :
    cvtOp z src dst rm sat a =
      (BitVec.ofNat 64 ((cvtFmtOf dst).round rm z (decide (cvtIntOf src a < 0)) (cvtIntOf src a).natAbs 1).pat,
        ((cvtFmtOf dst).round rm z (decide (cvtIntOf src a < 0)) (cvtIntOf src a).natAbs 1).fl) := by
  simp only [cvtOp, hs, hd, if_true, Bool.false_eq_true, if_false]

/-- What a float source is read as. -/
def cvtVal (z : Bool) (src : CvtFmt) (a : DWord) : FV := (cvtFmtOf src).val z (a.toNat % 2 ^ (cvtFmtOf src).w)

/-- From a float format to an integer one. -/
theorem cvtOp_float_int (hs : src.isInt = false) (hd : dst.isInt = true) :
    cvtOp z src dst rm sat a = match cvtVal z src a with
      | .nan _ => (0, fNV)
      | .inf s => (cvtPut dst (if s then (cvtRange dst).1 else (cvtRange dst).2.1), fNV)
      | .fin s n d =>
        if (toIntRnd rm s n d).1 < (cvtRange dst).1 ∨ (cvtRange dst).2.1 < (toIntRnd rm s n d).1 then
          (cvtPut dst (Sys2Proof.saturate (toIntRnd rm s n d).1 (cvtRange dst).1 (cvtRange dst).2.1), fNV)
        else (cvtPut dst (toIntRnd rm s n d).1, if (toIntRnd rm s n d).2 then fNX else 0) := by
  simp only [cvtOp, hs, hd, if_true, Bool.false_eq_true, if_false, ← cvtVal.eq_def]
  cases cvtVal z src a with
  | nan _ => rfl
  | inf s =>
    cases dst
    case s8 | u8 | s32 | s64 => rfl
    all_goals cases hd
  | fin s n d =>
    cases dst
    case s8 | u8 | s32 | s64 => simp only [Bool.or_eq_true, decide_eq_true_eq]; rfl
    all_goals cases hd

/-- From a float format to another. -/
theorem cvtOp_float_float (hs : src.isInt = false) (hd : dst.isInt = false) (hne : src ≠ dst) :
    cvtOp z src dst rm sat a =
      (BitVec.ofNat 64 ((cvtFmtOf dst).deliver rm z (match cvtVal z src a with | .nan g => (.nan false, if g then 1 else 0) | y => (y, 0))).pat,
        ((cvtFmtOf dst).deliver rm z (match cvtVal z src a with | .nan g => (.nan false, if g then 1 else 0) | y => (y, 0))).fl) := by
  simp only [cvtOp, hs, hd, Bool.false_eq_true, if_false, beq_iff_eq, if_neg hne, ← cvtVal.eq_def]
  cases cvtVal z src a with
  | nan g => cases g <;> rfl
  | inf _ | fin _ _ _ => rfl

/-- A value rounded to an integral one of its format. -/
def cvtSelf (f : Fmt) (rm : Rnd) (z : Bool) : FV → DWord × BitVec 9
  | .nan s => (BitVec.ofNat 64 f.canon, sigFl (.nan s))
  | .inf s => (BitVec.ofNat 64 (f.infPat s), 0)
  | .fin s n d => (BitVec.ofNat 64 (f.round rm z s (divRnd rm s n d).1 1).pat, if (divRnd rm s n d).2 then fNX else 0)

/-- From a float format to itself. -/
theorem cvtOp_self (hs : src.isInt = false) : cvtOp z src src rm sat a = cvtSelf (cvtFmtOf src) rm z (cvtVal z src a) := by
  simp only [cvtOp, hs, Bool.false_eq_true, if_false, beq_self_eq_true, if_true, ← cvtVal.eq_def]
  cases cvtVal z src a <;> rfl

end

/-- A value's denominator is not zero. -/
theorem Fmt.val_den_pos {f : Fmt} {z s : Bool} {x n d : Nat} (h : f.val z x = .fin s n d) : 0 < d := by
  unfold Fmt.val at h
  split at h
  · split at h <;> cases h
  · split at h
    · split at h
      · cases h; exact one_pos
      · cases h; exact Nat.two_pow_pos _
    · cases h; exact pow2_den_pos _

/-- CVT at issue: its flags are set, and a pair or a register takes its result (R133, R224). -/
theorem exec_cvt_gives {s : State} {t : Nat} {h : Hdr} {a : Src} {src dst : CvtFmt} {rm : Rnd} {sat : Bool} (hc : s.cur = .thread t)
    (hr : s.runs (.cvt h a src dst rm sat) = true) {x y : DWord} {fl : BitVec 9}
    (hx : cvtOp s.ftz src dst rm sat (if src = .s64 then s.curRegs.rx a else (s.curRegs.rv a).setWidth 64) = (x, fl)) (hy : sameFor dst x y) :
    exec (.cvt h a src dst rm sat) s = .next ((s.updThr t fun y => { y with status := y.status ||| fl }).goesOn
      (if dst = .s64 then s.curRegs.gotX h y else s.curRegs.gotV h (y.extractLsb' 0 32))) := by
  have hx' : cvtOp s.ftz src dst rm sat (if (src == .s64) = true then s.curRegs.rx a else zext64 (s.curRegs.rv a)) = (x, fl) := by
    rw [← hx]
    simp only [beq_iff_eq]
    rfl
  rw [exec_cvt, execCvt, issueI_ready_noBrk
    (i := ⟨aFloat, h, [if src == .s64 then .x a else .v a], if dst == .s64 then .x h.d else .v h.d⟩) hr rfl, hx']
  by_cases hd : dst = .s64
  · rw [sameFor, if_pos hd] at hy
    dsimp only
    rw [if_pos hd, if_pos (beq_iff_eq.mpr hd), if_pos (beq_iff_eq.mpr hd), deliver_x rfl, State.setFlags_curRegs, State.setFlags_thread hc, hy]
  · rw [sameFor, if_neg hd, extractLsb'_low] at hy
    dsimp only
    rw [if_neg hd, if_neg (mt beq_iff_eq.mp hd), if_neg (mt beq_iff_eq.mp hd), deliver_v rfl, State.setFlags_curRegs, State.setFlags_thread hc, hy]

/-- The statement's rounding to an integer, from R131's. -/
theorem roundsTo_cases (rm : Rnd) (x : ℚ) (y : ℤ) : roundsTo rm x y →
    match rm with
    | .rne => |x - y| ≤ 1 / 2 ∧ (|x - y| = 1 / 2 → Even y)
    | .rz => |(y : ℚ)| ≤ |x| ∧ |x - y| < 1 ∧ 0 ≤ x * y
    | .rdn => y = ⌊x⌋
    | .rup => y = ⌈x⌉ := by
  cases rm
  case rz => exact rz_bounds
  case rne | rdn | rup => exact id

theorem cvtFmt_isInt_iff (f : CvtFmt) : f ∈ [CvtFmt.s8, .u8, .s32, .s64] ↔ f.isInt = true := by cases f <;> decide

/-- Settles O15, case by case of the source and the destination. -/
theorem conversions : Obligations.Conversions := by
  unfold Obligations.Conversions
  intro s t h a src dst rm sat hc hr X gives int fmt lo hi v V q rounds nx
  have hfmt : ∀ f, fmt f = cvtFmtOf f := fun f => by cases f <;> rfl
  have hlo : lo = (cvtRange dst).1 := by cases dst <;> rfl
  have hhi : hi = (cvtRange dst).2.1 := by cases dst <;> rfl
  have hV : V = cvtVal s.ftz src X := by simp only [V, hfmt]; rfl
  have hv : src.isInt = true → v = cvtIntOf src X := fun hs => by
    cases src
    case s8 | u8 | s32 => simp only [v, cvtIntOf, extractLsb'_low]
    case s64 => rfl
    all_goals cases hs
  have hgives : ∀ {x y : DWord} {fl : BitVec 9}, cvtOp s.ftz src dst rm sat X = (x, fl) → sameFor dst x y → gives y fl := fun hx hy =>
    exec_cvt_gives hc hr hx hy
  have hput : dst.isInt = true → ∀ {y : ℤ}, lo ≤ y → y ≤ hi → sameFor dst (cvtPut dst y) (BitVec.ofInt 64 y) := fun hd _ h1 h2 =>
    sameFor_cvtPut hd (hlo ▸ h1) (hhi ▸ h2)
  have hle : lo ≤ hi := hlo ▸ hhi ▸ cvtRange_le dst
  have hrounds : ∀ {neg : Bool} {n d : Nat}, V = .fin neg n d →
      rounds (q neg n d) (signedInt neg (divRnd rm neg n d).1) ∧
        nx (q neg n d) (signedInt neg (divRnd rm neg n d).1) = if (divRnd rm neg n d).2 then fNX else 0 := by
    intro neg n d hVe
    obtain ⟨hround, hexact⟩ := divRnd_roundsTo rm neg n (Fmt.val_den_pos (hV ▸ hVe))
    refine ⟨roundsTo_cases _ _ _ hround, ?_⟩
    cases hch : (divRnd rm neg n d).2
    · exact if_pos (hexact.mp hch)
    · exact if_neg fun e => by simp [hexact.mpr e] at hch
  simp only [int, cvtFmt_isInt_iff, Bool.not_eq_true, hfmt]
  refine ⟨fun hs hd => ⟨fun hsat => ?_, fun hsat => ?_⟩, fun hs hd => ?_, fun hs hd => ⟨fun g hg => ?_, fun neg hneg => ?_, fun neg n d hfin => ?_⟩,
    fun hs hd hne => ?_, fun hs hd => ⟨fun g hg => ?_, fun neg hneg => ?_, fun neg n d hfin => ?_⟩⟩
  · have hop := cvtOp_int_int (z := s.ftz) (rm := rm) (sat := sat) (a := X) hs hd
    rw [hsat, if_pos rfl, saturate_eq (cvtRange_le dst), ← hlo, ← hhi, ← hv hs, ← hsat] at hop
    exact hgives hop (hput hd (by omega) (by omega))
  · have hop := cvtOp_int_int (z := s.ftz) (rm := rm) (sat := sat) (a := X) hs hd
    obtain ⟨y, h1, h2, h3, hy⟩ := cvtPut_wrap hd v
    rw [← hlo] at h1 h3
    rw [← hhi] at h2 h3
    rw [hsat, if_neg (by decide), ← hv hs, hy, ← hsat] at hop
    exact ⟨y, h1, h2, h3, hgives hop (hput hd h1 h2)⟩
  · rw [hv hs]
    exact hgives (cvtOp_int_float hs hd) (sameFor_refl _ _)
  · have hop := cvtOp_float_int (z := s.ftz) (rm := rm) (sat := sat) (a := X) hs hd
    rw [← hV, hg] at hop
    exact hgives hop (sameFor_refl _ _)
  · have hop := cvtOp_float_int (z := s.ftz) (rm := rm) (sat := sat) (a := X) hs hd
    rw [← hV, hneg, ← hlo, ← hhi] at hop
    exact hgives hop (hput hd (by split <;> omega) (by split <;> omega))
  · have hop := cvtOp_float_int (z := s.ftz) (rm := rm) (sat := sat) (a := X) hs hd
    obtain ⟨hround, hnx⟩ := hrounds hfin
    rw [← hV, hfin, ← hlo, ← hhi] at hop
    have hint : (toIntRnd rm neg n d).1 = signedInt neg (divRnd rm neg n d).1 := rfl
    have hch : (toIntRnd rm neg n d).2 = (divRnd rm neg n d).2 := rfl
    simp only [hint, hch, saturate_eq hle] at hop
    refine ⟨_, hround, fun hlt => ?_, fun hlt => ?_, fun h1 h2 => ?_⟩
    · rw [if_pos (.inl hlt), max_eq_left (by omega)] at hop
      exact hgives hop (hput hd le_rfl hle)
    · rw [if_pos (.inr hlt), min_eq_left hlt.le, max_eq_right hle] at hop
      exact hgives hop (hput hd hle le_rfl)
    · rw [if_neg (by omega)] at hop
      rw [hnx]
      exact hgives hop (hput hd h1 h2)
  · have hop := cvtOp_float_float (z := s.ftz) (rm := rm) (sat := sat) (a := X) hs hd hne
    rw [← hV] at hop
    exact hgives hop (sameFor_refl _ _)
  · subst hd
    have hop := cvtOp_self (z := s.ftz) (rm := rm) (sat := sat) (a := X) hs
    rw [← hV, hg] at hop
    cases g <;> exact hgives hop (sameFor_refl _ _)
  · subst hd
    have hop := cvtOp_self (z := s.ftz) (rm := rm) (sat := sat) (a := X) hs
    rw [← hV, hneg] at hop
    exact hgives hop (sameFor_refl _ _)
  · subst hd
    have hop := cvtOp_self (z := s.ftz) (rm := rm) (sat := sat) (a := X) hs
    obtain ⟨hround, hnx⟩ := hrounds hfin
    rw [← hV, hfin] at hop
    refine ⟨_, hround, ?_⟩
    rw [hnx, natAbs_signedInt]
    exact hgives hop (sameFor_refl _ _)

end Sys2Proof.Machine
end

section
/-! PROOFS. Rounding to a format, said of rational numbers (R131 to R133). -/

namespace Sys2Proof.Machine

/-- An integer with a sign that a rounding gives. -/
theorem abs_signedInt (neg : Bool) (k : Nat) : |(signedInt neg k : ℚ)| = k := by
  rw [cast_signedInt, abs_signed, abs_of_nonneg (Nat.cast_nonneg k)]

/-- A number between two powers of two has the lower one's exponent. -/
theorem ilog_spec {num den : Nat} (hn : num ≠ 0) (hd : 0 < den) :
    (2 : ℚ) ^ ilog num den ≤ num / den ∧ (num : ℚ) / den < 2 ^ (ilog num den + 1) := by
  have hdq : (0 : ℚ) < den := Nat.cast_pos.mpr hd
  have hpos : (0 : ℚ) < num / den := div_pos (Nat.cast_pos.mpr (Nat.pos_of_ne_zero hn)) hdq
  obtain ⟨e, hlo, hhi⟩ := exists_mem_Ico_zpow hpos one_lt_two
  have he : ilog num den = e := ilog_eq hd ((le_div_iff₀ hdq).mp hlo) ((div_lt_iff₀ hdq).mp hhi)
  rw [he]
  exact ⟨hlo, hhi⟩

/-- The exponent of a number is that of the power of two at or below it. -/
theorem ilog_of_bounds {num den : Nat} {e : ℤ} (hd : 0 < den) (hlo : (2 : ℚ) ^ e ≤ num / den) (hhi : (num : ℚ) / den < 2 ^ (e + 1)) :
    ilog num den = e := by
  have hdq : (0 : ℚ) < den := Nat.cast_pos.mpr hd
  exact ilog_eq hd ((le_div_iff₀ hdq).mp hlo) ((div_lt_iff₀ hdq).mp hhi)

/-! ### Rounding at a quantum -/

section
variable (rm : Rnd) (neg : Bool) (num : Nat) {den : Nat} (hd : 0 < den) (q : ℤ)
include hd

/-- The fraction that `atQuantum` rounds is the number in quanta. -/
theorem atQuantum_frac : ((num * (pow2 (-q)).1 : ℕ) : ℚ) / (den * (pow2 (-q)).2 : ℕ) = num / den / 2 ^ q := by
  have hp : ((pow2 (-q)).2 : ℚ) ≠ 0 := Nat.cast_ne_zero.mpr (pow2_den_pos _).ne'
  have hdq : (den : ℚ) ≠ 0 := Nat.cast_ne_zero.mpr hd.ne'
  have hq : (2 : ℚ) ^ q ≠ 0 := zpow_ne_zero _ two_ne_zero
  rw [Nat.cast_mul, Nat.cast_mul, pow2_cast, zpow_neg]
  field_simp

theorem atQuantum_roundsTo :
    roundsTo rm (signed neg (num / den) / 2 ^ q) (signedInt neg (atQuantum rm neg num den q).1) ∧
      ((atQuantum rm neg num den q).2 = false ↔ signed neg (num / den) / 2 ^ q = signedInt neg (atQuantum rm neg num den q).1) := by
  have h := divRnd_roundsTo rm neg (num * (pow2 (-q)).1) (Nat.mul_pos hd (pow2_den_pos (-q)))
  rw [atQuantum_frac num hd] at h
  rw [signed_div]
  exact h

theorem le_atQuantum {N : Nat} (h : N * (2 : ℚ) ^ q ≤ num / den) : N ≤ (atQuantum rm neg num den q).1 := by
  have hden := Nat.mul_pos hd (pow2_den_pos (-q))
  refine le_divRnd hden ?_
  rw [← Nat.cast_le (α := ℚ), Nat.cast_mul, ← le_div_iff₀ (Nat.cast_pos.mpr hden), atQuantum_frac num hd, le_div_iff₀ (zpow_pos two_pos q)]
  exact h

theorem atQuantum_le {N : Nat} (h : (num : ℚ) / den ≤ N * 2 ^ q) : (atQuantum rm neg num den q).1 ≤ N := by
  have hden := Nat.mul_pos hd (pow2_den_pos (-q))
  refine divRnd_le ?_
  rw [← Nat.cast_le (α := ℚ), Nat.cast_mul N, ← div_le_iff₀ (Nat.cast_pos.mpr hden), atQuantum_frac num hd, div_le_iff₀ (zpow_pos two_pos q)]
  exact h

end

/-! ### Patterns of rounded numbers -/

/-- The exponent field of a number of m quanta 2^q (R126). -/
def Fmt.field (f : Fmt) (m : Nat) (q : ℤ) : ℤ := if m < 2 ^ f.fb then 0 else q + f.fb + f.bias

section
variable {f : Fmt} (hs : f.Sound)
include hs

/-- A number of m quanta 2^q that the format holds: its pattern stands for it. -/
theorem Fmt.rat_pack {neg : Bool} {m : Nat} {q : ℤ} (hm : m < 2 ^ (f.fb + 1)) (hq : (1 : ℤ) - f.bias - f.fb ≤ q)
    (hsub : m < 2 ^ f.fb → q = (1 : ℤ) - f.bias - f.fb) (hmax : f.field m q < f.emax) :
    let p := f.signBit neg + (f.field m q).toNat * 2 ^ f.fb + m % 2 ^ f.fb
    p < 2 ^ f.w ∧ f.neg p = neg ∧ f.rat p = signed neg (m * 2 ^ q) ∧ f.ex p = (f.field m q).toNat := by
  intro p
  have hE : (f.field m q).toNat ≤ f.emax := by omega
  obtain ⟨hp, hneg, hex, hfr, -⟩ := Fmt.fields_pack hs (neg := neg) hE (Nat.mod_lt m (Nat.two_pow_pos f.fb))
  refine ⟨hp, hneg, ?_, hex⟩
  rw [Fmt.rat_eq hs hp, hneg, signed_inj, Fmt.sig, hex, hfr]
  by_cases hlt : m < 2 ^ f.fb
  · have hfield : f.field m q = 0 := if_pos hlt
    rw [hfield, Int.toNat_zero, if_pos rfl, Nat.mod_eq_of_lt hlt, max_eq_right (Nat.zero_le 1), hsub hlt, Nat.cast_one]
  · have hfield : f.field m q = q + f.fb + f.bias := if_neg hlt
    have hone : 1 ≤ (f.field m q).toNat := by omega
    have hmod : 2 ^ f.fb + m % 2 ^ f.fb = m := by
      rw [Nat.mod_eq_sub_mod (not_lt.mp hlt), Nat.mod_eq_of_lt (by rw [pow_succ] at hm; omega)]
      omega
    have hexp : (((f.field m q).toNat : ℕ) : ℤ) - f.bias - f.fb = q := by omega
    rw [if_neg (by omega), max_eq_left hone, hmod, hexp]


omit hs in
theorem two_zpow_succ_mul (n : Nat) (q : ℤ) : ((2 ^ n : ℕ) : ℚ) * 2 ^ q = 2 ^ ((n : ℤ) + q) := by
  rw [zpow_add₀ two_ne_zero, zpow_natCast, Nat.cast_pow, Nat.cast_ofNat]

/-- A number lies beyond the largest of the format exactly when its exponent field would be the last one or more. -/
theorem Fmt.emax_le_field_iff {m : Nat} {q : ℤ} (hm : m < 2 ^ (f.fb + 1)) (hsub : m < 2 ^ f.fb → q = (1 : ℤ) - f.bias - f.fb) :
    (f.emax : ℤ) ≤ f.field m q ↔ (2 ^ (f.fb + 1) - 1) * (2 : ℚ) ^ ((f.bias : ℤ) - f.fb) < m * 2 ^ q := by
  have hemax := hs.emax_eq
  have hbias := hs.one_le_bias
  have htop : ∀ {n : Nat} {r : ℤ}, n < 2 ^ (f.fb + 1) → r ≤ (f.bias : ℤ) - f.fb →
      (n : ℚ) * 2 ^ r ≤ (2 ^ (f.fb + 1) - 1) * (2 : ℚ) ^ ((f.bias : ℤ) - f.fb) := fun {n r} hn hr => by
    have hle : (n : ℚ) ≤ 2 ^ (f.fb + 1) - 1 := by
      have : (n : ℚ) + 1 ≤ 2 ^ (f.fb + 1) := by exact_mod_cast hn
      linarith
    exact mul_le_mul hle (zpow_le_zpow_right₀ one_le_two hr) (zpow_pos two_pos r).le ((Nat.cast_nonneg n).trans hle)
  constructor
  · intro h
    have hlt : ¬m < 2 ^ f.fb := fun hlt => by
      rw [Fmt.field, if_pos hlt] at h
      omega
    rw [Fmt.field, if_neg hlt] at h
    calc (2 ^ (f.fb + 1) - 1) * (2 : ℚ) ^ ((f.bias : ℤ) - f.fb) < 2 ^ (f.fb + 1) * (2 : ℚ) ^ ((f.bias : ℤ) - f.fb) :=
          mul_lt_mul_of_pos_right (by linarith) (zpow_pos two_pos _)
      _ = ((2 ^ f.fb : ℕ) : ℚ) * 2 ^ ((f.bias : ℤ) - f.fb + 1) := by
          rw [zpow_add_one₀ two_ne_zero, pow_succ]
          push_cast
          ring
      _ ≤ m * 2 ^ q := mul_le_mul (Nat.cast_le.mpr (not_lt.mp hlt)) (zpow_le_zpow_right₀ one_le_two (by omega)) (zpow_pos two_pos _).le
          (Nat.cast_nonneg m)
  · intro h
    by_contra hlt
    refine absurd h (not_lt.mpr (htop hm ?_))
    rw [Fmt.field] at hlt
    split at hlt
    · rename_i hm'
      rw [hsub hm']
      omega
    · omega

omit hs in
/-- The least significand of a normal number tells the numbers below the least normal one. -/
theorem Fmt.field_eq_zero_iff {m : Nat} {q : ℤ} (hq : (1 : ℤ) - f.bias - f.fb ≤ q) (hsub : m < 2 ^ f.fb → q = (1 : ℤ) - f.bias - f.fb) :
    f.field m q = 0 ↔ (m : ℚ) * 2 ^ q < 2 ^ ((1 : ℤ) - f.bias) := by
  have hmin : ((2 ^ f.fb : ℕ) : ℚ) * 2 ^ ((1 : ℤ) - f.bias - f.fb) = 2 ^ ((1 : ℤ) - f.bias) := by
    rw [two_zpow_succ_mul]
    congr 1
    ring
  by_cases hm : m < 2 ^ f.fb
  · refine iff_of_true (if_pos hm) ?_
    rw [hsub hm, ← hmin]
    exact mul_lt_mul_of_pos_right (Nat.cast_lt.mpr hm) (zpow_pos two_pos _)
  · refine iff_of_false ?_ (not_lt.mpr ?_)
    · rw [Fmt.field, if_neg hm]
      omega
    · rw [← hmin]
      exact mul_le_mul (Nat.cast_le.mpr (not_lt.mp hm)) (zpow_le_zpow_right₀ one_le_two hq) (zpow_pos two_pos _).le (Nat.cast_nonneg m)

end

/-! ### One rounding to a format -/

/-- Quanta that rounding has carried into the next binade, as quanta of that binade (R131). -/
def Fmt.carry (f : Fmt) (m : Nat) (q : ℤ) : Nat × ℤ := if 2 ^ (f.fb + 1) ≤ m then (m / 2, q + 1) else (m, q)

/-- Whether a number is tiny after rounding (R133, log 13). -/
def Fmt.tiny (f : Fmt) (rm : Rnd) (neg : Bool) (num den : Nat) : Bool :=
  let e := ilog num den
  e < (1 : ℤ) - f.bias && !(e == (1 : ℤ) - f.bias - 1 && 2 ^ (f.fb + 1) ≤ (atQuantum rm neg num den (e - f.fb)).1)

/-- Where an overflow goes (R131). -/
def awayFrom (rm : Rnd) (neg : Bool) : Bool := match rm with | .rne => true | .rz => false | .rdn => neg | .rup => !neg

/-- The quantum of the format for a number. -/
def Fmt.quantum (f : Fmt) (num den : Nat) : ℤ := max (ilog num den) ((1 : ℤ) - f.bias) - f.fb

/-- Rounding of a number other than zero, by the quanta that it is rounded to. -/
theorem Fmt.round_eq {f : Fmt} {rm : Rnd} {z neg : Bool} {num den : Nat} (hn : num ≠ 0) :
    let a := atQuantum rm neg num den (f.quantum num den)
    let c := f.carry a.1 (f.quantum num den)
    let fl : BitVec 9 := if a.2 then (if f.tiny rm neg num den then fNX ||| fUF else fNX) else 0
    f.round rm z neg num den =
      if (f.emax : ℤ) ≤ f.field c.1 c.2 then ⟨if awayFrom rm neg then f.infPat neg else f.infPat neg - 1, fOF ||| fNX⟩
      else if (f.field c.1 c.2 == 0 && c.1 != 0 && z) = true then ⟨f.zeroPat neg, fl ||| fUF ||| fNX⟩
      else ⟨f.signBit neg + (f.field c.1 c.2).toNat * 2 ^ f.fb + c.1 % 2 ^ f.fb, fl⟩ := by
  intro a c fl
  have hq : (if ilog num den < (1 : ℤ) - f.bias then (1 : ℤ) - f.bias else ilog num den) - f.fb = f.quantum num den := by
    unfold Fmt.quantum
    split <;> omega
  simp only [Fmt.round, if_neg hn, hq, c, Fmt.carry]
  split <;> rfl

/-- What a carry leaves: the same number, in quanta of its own binade. -/
theorem Fmt.carry_spec {f : Fmt} {m : Nat} {q : ℤ} (hm : m ≤ 2 ^ (f.fb + 1)) (hq : (1 : ℤ) - f.bias - f.fb ≤ q)
    (hsub : m < 2 ^ f.fb → q = (1 : ℤ) - f.bias - f.fb) :
    let c := f.carry m q
    (c.1 : ℚ) * 2 ^ c.2 = m * 2 ^ q ∧ c.1 < 2 ^ (f.fb + 1) ∧ (1 : ℤ) - f.bias - f.fb ≤ c.2 ∧
      (c.1 < 2 ^ f.fb → c.2 = (1 : ℤ) - f.bias - f.fb) := by
  have hpos := Nat.two_pow_pos f.fb
  unfold Fmt.carry
  split
  · rename_i hbig
    obtain rfl : m = 2 ^ (f.fb + 1) := le_antisymm hm hbig
    have hdiv : 2 ^ (f.fb + 1) / 2 = 2 ^ f.fb := by rw [pow_succ, Nat.mul_div_cancel _ two_pos]
    refine ⟨?_, by rw [pow_succ]; omega, by dsimp only; omega, by simp only [hdiv, lt_self_iff_false, false_implies]⟩
    simp only [hdiv]
    rw [zpow_add_one₀ two_ne_zero, pow_succ]
    push_cast
    ring
  · rename_i hbig
    exact ⟨rfl, not_le.mp hbig, hq, hsub⟩

/-- A result of rounding is tiny as the rounding with an unbounded exponent tells (R133, log 13). -/
theorem Fmt.tiny_iff {f : Fmt} {rm : Rnd} {neg : Bool} {num den : Nat} (hn : num ≠ 0) (hd : 0 < den) :
    let e := ilog num den
    f.tiny rm neg num den = true ↔ ((atQuantum rm neg num den (e - f.fb)).1 : ℚ) * 2 ^ (e - f.fb) < 2 ^ ((1 : ℤ) - f.bias) := by
  intro e
  obtain ⟨hlo, hhi⟩ := ilog_spec hn hd
  set k := (atQuantum rm neg num den (e - f.fb)).1 with hk
  have hle : 2 ^ f.fb ≤ k := le_atQuantum rm neg num hd _ (by
    rw [two_zpow_succ_mul, add_sub_cancel]
    exact hlo)
  have hge : k ≤ 2 ^ (f.fb + 1) := atQuantum_le rm neg num hd _ (by
    rw [two_zpow_succ_mul, show ((f.fb + 1 : ℕ) : ℤ) + (e - f.fb) = e + 1 by push_cast; ring]
    exact hhi.le)
  have hmono : ∀ {a b : ℤ}, (2 : ℚ) ^ a < 2 ^ b ↔ a < b := zpow_lt_zpow_iff_right₀ one_lt_two
  have hlow : (2 : ℚ) ^ e ≤ k * 2 ^ (e - f.fb) := by
    calc (2 : ℚ) ^ e = (2 ^ f.fb : ℕ) * 2 ^ (e - f.fb) := by rw [two_zpow_succ_mul, add_sub_cancel]
      _ ≤ _ := mul_le_mul_of_nonneg_right (Nat.cast_le.mpr hle) (zpow_pos two_pos _).le
  have hhigh : (k : ℚ) * 2 ^ (e - f.fb) ≤ 2 ^ (e + 1) := by
    calc (k : ℚ) * 2 ^ (e - f.fb) ≤ (2 ^ (f.fb + 1) : ℕ) * 2 ^ (e - f.fb) :=
          mul_le_mul_of_nonneg_right (Nat.cast_le.mpr hge) (zpow_pos two_pos _).le
      _ = 2 ^ (e + 1) := by rw [two_zpow_succ_mul, show ((f.fb + 1 : ℕ) : ℤ) + (e - f.fb) = e + 1 by push_cast; ring]
  have htiny : f.tiny rm neg num den = true ↔ e < (1 : ℤ) - f.bias ∧ ¬(e = (1 : ℤ) - f.bias - 1 ∧ 2 ^ (f.fb + 1) ≤ k) := by
    simp only [Fmt.tiny, Bool.and_eq_true, decide_eq_true_eq, Bool.not_eq_true', Bool.and_eq_false_iff, beq_eq_false_iff_ne,
      decide_eq_false_iff_not, not_and_or]
    exact Iff.rfl
  rw [htiny]
  constructor
  · rintro ⟨hlt, hedge⟩
    by_cases he : e = (1 : ℤ) - f.bias - 1
    · have hk' : k < 2 ^ (f.fb + 1) := not_le.mp fun h => hedge ⟨he, h⟩
      calc (k : ℚ) * 2 ^ (e - f.fb) < (2 ^ (f.fb + 1) : ℕ) * 2 ^ (e - f.fb) :=
            mul_lt_mul_of_pos_right (Nat.cast_lt.mpr hk') (zpow_pos two_pos _)
        _ = 2 ^ ((1 : ℤ) - f.bias) := by
            rw [two_zpow_succ_mul, show ((f.fb + 1 : ℕ) : ℤ) + (e - f.fb) = e + 1 by push_cast; ring, he, sub_add_cancel]
    · exact lt_of_le_of_lt hhigh (hmono.mpr (by omega))
  · intro h
    refine ⟨hmono.mp (lt_of_le_of_lt hlow h), fun ⟨he, hbig⟩ => absurd h (not_lt.mpr ?_)⟩
    calc (2 : ℚ) ^ ((1 : ℤ) - f.bias) = (2 ^ (f.fb + 1) : ℕ) * 2 ^ (e - f.fb) := by
          rw [two_zpow_succ_mul, show ((f.fb + 1 : ℕ) : ℤ) + (e - f.fb) = e + 1 by push_cast; ring, he, sub_add_cancel]
      _ ≤ k * 2 ^ (e - f.fb) := mul_le_mul_of_nonneg_right (Nat.cast_le.mpr hbig) (zpow_pos two_pos _).le

/-- The one rounding of the model is that of R131 to R133. -/
theorem Fmt.round_rounded {f : Fmt} (hs : f.Sound) (rm : Rnd) (z neg : Bool) (num : Nat) {den : Nat} (hd : 0 < den) :
    f.rounded rm z neg (signed neg (num / den)) (f.round rm z neg num den) := by
  rcases eq_or_ne num 0 with rfl | hn
  · exact ⟨fun _ => if_pos rfl, fun h => absurd (by simp) h⟩
  have hpos : (0 : ℚ) < num / den := div_pos (Nat.cast_pos.mpr (Nat.pos_of_ne_zero hn)) (Nat.cast_pos.mpr hd)
  refine ⟨fun h => absurd (signed_eq_zero.mp h) hpos.ne', fun _ => ?_⟩
  obtain ⟨hlo, hhi⟩ := ilog_spec hn hd
  set e := ilog num den with he
  have hqe : f.quantum num den = max e ((1 : ℤ) - f.bias) - f.fb := rfl
  set q := f.quantum num den with hq
  obtain ⟨hround, hexact⟩ := atQuantum_roundsTo rm neg num hd q
  obtain ⟨hround', -⟩ := atQuantum_roundsTo rm neg num hd (e - f.fb)
  have heq := Fmt.round_eq (f := f) (rm := rm) (z := z) (neg := neg) (den := den) hn
  have htiny := Fmt.tiny_iff (f := f) (rm := rm) (neg := neg) hn hd
  simp only [← hq, ← he] at heq htiny
  set k := (atQuantum rm neg num den q).1 with hk
  set k' := (atQuantum rm neg num den (e - f.fb)).1
  have habs : |signed neg ((num : ℚ) / den)| = num / den := by rw [abs_signed, abs_of_pos hpos]
  have hpow : ∀ (a : Nat) (b c : ℤ), (a : ℤ) + b = c → ((2 ^ a : ℕ) : ℚ) * 2 ^ b = 2 ^ c := fun a b c h => by rw [two_zpow_succ_mul, h]
  have hkle : k ≤ 2 ^ (f.fb + 1) := atQuantum_le rm neg num hd _ (by
    refine hhi.le.trans ?_
    rw [hpow _ _ (max e ((1 : ℤ) - f.bias) + 1) (by push_cast; omega)]
    exact zpow_le_zpow_right₀ one_le_two (by omega))
  have hksub : k < 2 ^ f.fb → q = (1 : ℤ) - f.bias - f.fb := fun hlt => by
    by_contra hne
    refine absurd hlt (not_lt.mpr (le_atQuantum rm neg num hd _ ?_))
    rw [hpow _ _ e (by omega)]
    exact hlo
  obtain ⟨hy, hclt, hcq, hcsub⟩ := Fmt.carry_spec hkle (by omega) hksub
  set c := f.carry k q
  have hyabs : |(signedInt neg k : ℚ) * 2 ^ q| = c.1 * 2 ^ c.2 := by
    rw [hy, abs_mul, abs_signedInt, abs_of_pos (zpow_pos (two_pos (α := ℚ)) q)]
  have hzabs : |(signedInt neg k' : ℚ) * 2 ^ (e - f.fb)| = k' * 2 ^ (e - f.fb) := by
    rw [abs_mul, abs_signedInt, abs_of_pos (zpow_pos (two_pos (α := ℚ)) _)]
  have hysigned : (signedInt neg k : ℚ) * 2 ^ q = signed neg (c.1 * 2 ^ c.2) := by rw [hy, cast_signedInt, signed_mul_right]
  have hyx : (atQuantum rm neg num den q).2 = false ↔ (signedInt neg k : ℚ) * 2 ^ q = signed neg (num / den) := by
    rw [hexact, div_eq_iff (zpow_ne_zero q two_ne_zero), eq_comm]
  refine ⟨e, signedInt neg k, signedInt neg k', by rwa [habs], by rwa [habs], ?_⟩
  dsimp only
  simp only [← hqe, hyabs, hzabs, ← Fmt.emax_le_field_iff hs hclt hcsub, ← Fmt.field_eq_zero_iff hcq hcsub, ← htiny]
  rw [heq]
  refine ⟨hround, hround', ?_, ?_⟩
  · rw [← Bool.coe_iff_coe, decide_eq_true_eq, signed_neg_iff hpos]
  by_cases hover : (f.emax : ℤ) ≤ f.field c.1 c.2
  · rw [if_pos hover, if_pos hover]
    rfl
  rw [if_neg hover, if_neg hover]
  have hc0 : (signedInt neg k : ℚ) * 2 ^ q ≠ 0 ↔ c.1 ≠ 0 := by
    rw [hysigned, ne_eq, signed_eq_zero, mul_eq_zero, or_iff_left (zpow_ne_zero _ two_ne_zero), Nat.cast_eq_zero]
  have hflush : (f.field c.1 c.2 == 0 && c.1 != 0 && z) = true ↔ (z = true ∧ (signedInt neg k : ℚ) * 2 ^ q ≠ 0 ∧ f.field c.1 c.2 = 0) := by
    rw [hc0]
    simp only [Bool.and_eq_true, beq_iff_eq, bne_iff_ne]
    exact ⟨fun ⟨⟨h0, hm⟩, hz⟩ => ⟨hz, hm, h0⟩, fun ⟨hz, hm, h0⟩ => ⟨⟨h0, hm⟩, hz⟩⟩
  simp only [hflush]
  split
  · cases (atQuantum rm neg num den q).2 <;> cases f.tiny rm neg num den <;> rfl
  · obtain ⟨hplt, hpneg, hprat, -⟩ := Fmt.rat_pack hs (neg := neg) hclt hcq hcsub (not_le.mp hover)
    refine ⟨hplt, hpneg, hprat.trans hysigned.symm, ?_⟩
    cases hinexact : (atQuantum rm neg num den q).2
    · rw [if_pos (hyx.mp hinexact)]
      rfl
    · have hne : (signedInt neg k : ℚ) * 2 ^ q ≠ signed neg (num / den) := fun h => by
        rw [hyx.mpr h] at hinexact
        cases hinexact
      rw [if_neg hne]
      cases f.tiny rm neg num den <;> rfl

end Sys2Proof.Machine
end

section
/-! PROOFS. Rounding of numbers that the format holds (R126, R131). -/

namespace Sys2Proof.Machine

/-- The exponent of a number is one only. -/
theorem zpow_exponent_unique {x : ℚ} {a b : ℤ} (ha : (2 : ℚ) ^ a ≤ x) (ha' : x < 2 ^ (a + 1)) (hb : (2 : ℚ) ^ b ≤ x) (hb' : x < 2 ^ (b + 1)) :
    a = b := by
  have h1 := (zpow_lt_zpow_iff_right₀ (one_lt_two (α := ℚ))).mp (lt_of_le_of_lt ha hb')
  have h2 := (zpow_lt_zpow_iff_right₀ (one_lt_two (α := ℚ))).mp (lt_of_le_of_lt hb ha')
  omega

/-- The largest finite number of a format (R126). -/
def Fmt.top (f : Fmt) : ℚ := (2 ^ (f.fb + 1) - 1) * (2 : ℚ) ^ ((f.bias : ℤ) - f.fb)

/-- The least normal number of a format (R126). -/
def Fmt.least (f : Fmt) : ℚ := 2 ^ ((1 : ℤ) - f.bias)

section
variable {f : Fmt} (hs : f.Sound)
include hs

/-- The magnitude of the number of a pattern. -/
theorem Fmt.abs_rat {x : Nat} (hx : x < 2 ^ f.w) : |f.rat x| = f.sig x * 2 ^ ((max (f.ex x) 1 : ℕ) - f.bias - f.fb : ℤ) := by
  rw [Fmt.rat_eq hs hx, abs_signed, abs_of_nonneg (mul_nonneg (Nat.cast_nonneg _) (zpow_pos two_pos _).le)]

omit hs in
theorem Fmt.sig_lt (x : Nat) : f.sig x < 2 ^ (f.fb + 1) := by
  have := Fmt.fr_lt (f := f) x
  unfold Fmt.sig
  rw [pow_succ]
  split <;> omega

/-- A pattern of the last exponent field stands for no number of the format. -/
theorem Fmt.top_lt_of_ex_eq {x : Nat} (hx : x < 2 ^ f.w) (hex : f.ex x = f.emax) : f.top < |f.rat x| := by
  have hemax := hs.emax_eq
  have hne : f.ex x ≠ 0 := by omega
  have hsig : 2 ^ f.fb ≤ f.sig x := by rw [Fmt.sig, if_neg hne]; omega
  have hfield : (f.emax : ℤ) ≤ f.field (f.sig x) ((max (f.ex x) 1 : ℕ) - f.bias - f.fb : ℤ) := by
    rw [Fmt.field, if_neg (not_lt.mpr hsig)]
    omega
  rw [Fmt.abs_rat hs hx]
  exact (Fmt.emax_le_field_iff hs (Fmt.sig_lt x) fun h => absurd h (not_lt.mpr hsig)).mp hfield

/-- A number of at most as many quanta as the format's precision, inside its range, is delivered as it is; a subnormal one is flushed
under ftz (R131, R132). -/
theorem Fmt.rounded_exact {rm : Rnd} {z neg : Bool} {x : ℚ} {r : FR} (h : f.rounded rm z neg x r) {a : Nat} {t : ℤ} (ha : 0 < a)
    (ha' : a < 2 ^ (f.fb + 1)) (ht : (1 : ℤ) - f.bias - f.fb ≤ t) (hx : |x| = a * 2 ^ t) (htop : |x| ≤ f.top) :
    if z = true ∧ |x| < f.least then r = ⟨f.zeroPat neg, fUF ||| fNX⟩
    else r.pat < 2 ^ f.w ∧ f.neg r.pat = neg ∧ f.rat r.pat = x ∧ r.fl = 0 ∧ f.ex r.pat ≠ f.emax := by
  have hxpos : 0 < |x| := by rw [hx]; exact mul_pos (Nat.cast_pos.mpr ha) (zpow_pos two_pos t)
  have hx0 : x ≠ 0 := abs_pos.mp hxpos
  obtain ⟨e, k, k', hlo, hhi, hround, -, -, hcase⟩ := h.2 hx0
  have het : e - f.fb ≤ t := by
    have hlt : (2 : ℚ) ^ e < 2 ^ ((f.fb + 1 : ℕ) + t) := by
      refine lt_of_le_of_lt hlo ?_
      rw [hx, ← two_zpow_succ_mul]
      exact mul_lt_mul_of_pos_right (Nat.cast_lt.mpr ha') (zpow_pos two_pos t)
    have := (zpow_lt_zpow_iff_right₀ (one_lt_two (α := ℚ))).mp hlt
    push_cast at this
    omega
  set q := max e ((1 : ℤ) - f.bias) - f.fb with hq
  obtain ⟨n, hn⟩ := Int.eq_ofNat_of_zero_le (show 0 ≤ t - q by omega)
  have hint : x / 2 ^ q = ((SignType.sign x : ℤ) * (a * 2 ^ n) : ℤ) := by
    have hsgn : x = (SignType.sign x : ℤ) * |x| := by rw [mul_comm]; exact_mod_cast (abs_mul_sign x).symm
    have hpow : (2 : ℚ) ^ t = 2 ^ n * 2 ^ q := by rw [show t = (n : ℤ) + q by omega, zpow_add₀ two_ne_zero, zpow_natCast]
    rw [div_eq_iff (zpow_ne_zero q two_ne_zero)]
    conv_lhs => rw [hsgn, hx, hpow]
    push_cast
    ring
  have hk := roundsTo_eq_of_eq hround hint
  have hy : (k : ℚ) * 2 ^ q = x := by rw [hk, ← hint, div_mul_cancel₀ _ (zpow_ne_zero q two_ne_zero)]
  simp only [hy] at hcase
  rw [if_neg (show ¬(2 ^ (f.fb + 1) - 1) * (2 : ℚ) ^ ((f.bias : ℤ) - f.fb) < |x| from not_lt.mpr htop)] at hcase
  by_cases hflush : z = true ∧ |x| < f.least
  · rw [if_pos hflush]
    rwa [if_pos ⟨hflush.1, hx0, hflush.2⟩] at hcase
  · rw [if_neg hflush]
    rw [if_neg fun h => hflush ⟨h.1, h.2.2⟩, if_pos trivial] at hcase
    obtain ⟨hlt, hneg, hrat, hfl⟩ := hcase
    exact ⟨hlt, hneg, hrat, hfl, fun hex => absurd (Fmt.top_lt_of_ex_eq hs hlt hex) (not_lt.mpr (hrat ▸ htop))⟩

end

end Sys2Proof.Machine
end

section
/-! PROOFS. The results of collectives, from the contributions of a crew (R137, R226 to R231). -/

namespace Sys2Proof.Machine

/-! ### Flags of many steps -/

/-- The flags of steps 0 to n - 1. -/
def orAll (n : Nat) (g : Nat → BitVec 9) : BitVec 9 := (List.range n).foldl (fun a k => a ||| g k) 0

theorem orAll_succ (n : Nat) (g : Nat → BitVec 9) : orAll (n + 1) g = orAll n g ||| g n := by
  rw [orAll, orAll, List.range_succ, List.foldl_append]
  rfl

theorem getLsbD_orAll {n : Nat} {g : Nat → BitVec 9} {b : Nat} : (orAll n g).getLsbD b = true ↔ ∃ j < n, (g j).getLsbD b = true := by
  induction n with
  | zero => simp [orAll]
  | succ n ih => simp only [orAll_succ, BitVec.getLsbD_or, Bool.or_eq_true, ih, Nat.exists_lt_succ_right]

/-- What n stages in turn make of y. -/
def stages {α : Type} (g : Nat → α → α × BitVec 9) (y : α) : Nat → α
  | 0 => y
  | l + 1 => (g l (stages g y l)).1

/-- A run of stages that collects their flags. -/
theorem foldl_stages {α : Type} (g : Nat → α → α × BitVec 9) (y : α) (n : Nat) :
    (List.range n).foldl (fun (acc : α × BitVec 9) l => ((g l acc.1).1, acc.2 ||| (g l acc.1).2)) (y, 0)
      = (stages g y n, orAll n fun l => (g l (stages g y l)).2) := by
  induction n with
  | zero => rfl
  | succ n ih =>
    rw [List.range_succ, List.foldl_append, ih, orAll_succ]
    rfl

/-! ### The tree of REDUX (R228) -/

section
variable (f : DWord → DWord → DWord × BitVec 9)

theorem redLevel_length (l : List DWord) : (redLevel f l).1.length = (l.length + 1) / 2 := by
  induction l using redLevel.induct f with
  | case1 a b r ih =>
    simp only [redLevel, List.length_cons, ih]
    omega
  | case2 l hl =>
    match l, hl with
    | [], _ => rfl
    | [_], _ => simp [redLevel]
    | a :: b :: r, hl => exact absurd rfl (hl a b r)

theorem redLevel_getD (l : List DWord) {k : Nat} (hk : 2 * k + 1 < l.length) :
    (redLevel f l).1.getD k 0 = (f (l.getD (2 * k) 0) (l.getD (2 * k + 1) 0)).1 := by
  induction l using redLevel.induct f generalizing k with
  | case1 a b r ih =>
    cases k with
    | zero => rfl
    | succ k =>
      rw [List.length_cons, List.length_cons] at hk
      exact ih (by omega)
  | case2 l hl =>
    match l, hl with
    | [], _ => simp at hk
    | [a], _ => simp at hk
    | a :: b :: r, hl => exact absurd rfl (hl a b r)

theorem redLevel_flags (l : List DWord) {b : Nat} :
    (redLevel f l).2.getLsbD b = true ↔ ∃ k, 2 * k + 1 < l.length ∧ (f (l.getD (2 * k) 0) (l.getD (2 * k + 1) 0)).2.getLsbD b = true := by
  induction l using redLevel.induct f with
  | case1 x y r ih =>
    simp only [redLevel, BitVec.getLsbD_or, Bool.or_eq_true, ih, List.length_cons]
    constructor
    · rintro (h | ⟨k, hk, h⟩)
      · exact ⟨0, by omega, h⟩
      · exact ⟨k + 1, by omega, h⟩
    · rintro ⟨k, hk, h⟩
      cases k with
      | zero => exact .inl h
      | succ k => exact .inr ⟨k, by omega, h⟩
  | case2 l hl =>
    match l, hl with
    | [], _ => simp [redLevel]
    | [a], _ => simp [redLevel]
    | a :: b :: r, hl => exact absurd rfl (hl a b r)

/-- The levels of the tree over a list. -/
def redTree (l : List DWord) : Nat → List DWord := stages (fun _ => redLevel f) l

theorem redTree_length {l : List DWord} (hl : l.length = 32) {n : Nat} (hn : n ≤ 5) : (redTree f l n).length = 2 ^ (5 - n) := by
  induction n with
  | zero => exact hl
  | succ n ih =>
    rw [redTree, stages, redLevel_length, ← redTree, ih (by omega), show 5 - n = (5 - (n + 1)) + 1 by omega, pow_succ]
    omega

theorem reduceTree_eq (l : List DWord) :
    reduceTree f l = ((redTree f l 5).getD 0 0, orAll 5 fun n => (redLevel f (redTree f l n)).2) := by
  rw [reduceTree, foldl_stages fun _ => redLevel f]
  show (List.headD _ 0, _) = _
  rw [redTree]
  cases stages (fun _ => redLevel f) l 5 <;> rfl

/-- REDUX is a binary tree over the 32 contributions, with the flags of every step. -/
theorem reduceTree_spec (Z : Nat → DWord) :
    ∃ tree : Nat → Nat → DWord, (∀ j < 32, tree 0 j = Z j) ∧
      (∀ l < 5, ∀ k < 2 ^ (4 - l), tree (l + 1) k = (f (tree l (2 * k)) (tree l (2 * k + 1))).1) ∧
      (reduceTree f ((List.range 32).map Z)).1 = tree 5 0 ∧
      ∀ b < 9, (reduceTree f ((List.range 32).map Z)).2.getLsbD b = true ↔
        ∃ l < 5, ∃ j < 2 ^ (4 - l), (f (tree l (2 * j)) (tree l (2 * j + 1))).2.getLsbD b = true := by
  set zs := (List.range 32).map Z with hzs
  have hlen {l : Nat} (hl : l < 5) (k : Nat) : 2 * k + 1 < (redTree f zs l).length ↔ k < 2 ^ (4 - l) := by
    rw [redTree_length f (by simp [hzs]) hl.le, show 5 - l = (4 - l) + 1 by omega, pow_succ]
    omega
  refine ⟨fun l k => (redTree f zs l).getD k 0, fun j hj => show zs.getD j 0 = _ from ?_, fun l hl k hk => redLevel_getD f _ ((hlen hl k).mpr hk),
    by rw [reduceTree_eq], fun b _ => ?_⟩
  · rw [hzs, List.getD_eq_getElem _ _ (by simpa using hj), List.getElem_map, List.getElem_range]
  · rw [reduceTree_eq, getLsbD_orAll]
    refine exists_congr fun l => and_congr_right fun hl => ?_
    rw [redLevel_flags]
    exact exists_congr fun k => and_congr_left' (hlen hl k)

/-! ### The running results of SCAN (R228) -/

/-- The running result and flags after some contributions. -/
def scanAcc (u : DWord × BitVec 9) (ts : List DWord) : DWord × BitVec 9 := ts.foldl (fun u t => ((f u.1 t).1, u.2 ||| (f u.1 t).2)) u

theorem scanList_getD (u : DWord × BitVec 9) (ts : List DWord) {j : Nat} (hj : j < ts.length) (d : DWord × BitVec 9) :
    (scanList f u ts).getD j d = scanAcc f u (ts.take (j + 1)) := by
  induction ts generalizing u j with
  | nil => simp at hj
  | cons t ts ih =>
    cases j with
    | zero => rfl
    | succ j => exact ih _ (by simpa using hj)

theorem scanAcc_succ (u : DWord × BitVec 9) (Z : Nat → DWord) {j : Nat} (hj : j < 32) :
    let x := scanAcc f u (((List.range 32).map Z).take j)
    scanAcc f u (((List.range 32).map Z).take (j + 1)) = ((f x.1 (Z j)).1, x.2 ||| (f x.1 (Z j)).2) := by
  intro x
  have htake : ((List.range 32).map Z).take (j + 1) = ((List.range 32).map Z).take j ++ [Z j] := by simp [List.take_add_one, hj]
  rw [htake, scanAcc, List.foldl_append]
  rfl

theorem scanAcc_flags (u : DWord) (Z : Nat → DWord) {n : Nat} (hn : n ≤ 32) {b : Nat} :
    (scanAcc f (u, 0) (((List.range 32).map Z).take n)).2.getLsbD b = true ↔
      ∃ j < n, (f (scanAcc f (u, 0) (((List.range 32).map Z).take j)).1 (Z j)).2.getLsbD b = true := by
  induction n with
  | zero => simp [scanAcc]
  | succ n ih => simp only [scanAcc_succ f (u, 0) Z hn, BitVec.getLsbD_or, Bool.or_eq_true, ih (by omega), Nat.exists_lt_succ_right]

end

/-! ### Masks of threads (R214, R231) -/

/-- The mask of the threads of a filtered range: its bits are their numbers. -/
theorem testBit_mask (p : Nat → Bool) (n j : Nat) :
    (((List.range n).filter p).foldl (fun a j => a + 2 ^ j) 0).testBit j = (decide (j < n) && p j) := by
  suffices h : ((List.range n).filter p).foldl (fun a j => a + 2 ^ j) 0 < 2 ^ n ∧
      (((List.range n).filter p).foldl (fun a j => a + 2 ^ j) 0).testBit j = (decide (j < n) && p j) from h.2
  induction n with
  | zero => simp
  | succ n ih =>
    obtain ⟨hlt, hbit⟩ := ih
    rw [List.range_succ, List.filter_append, List.foldl_append]
    generalize ((List.range n).filter p).foldl (fun a j => a + 2 ^ j) 0 = m at hlt hbit
    by_cases hp : p n = true
    · have hm : List.foldl (fun a j => a + 2 ^ j) m (List.filter p [n]) = 2 ^ n + m := by simp [hp, Nat.add_comm]
      rw [hm]
      refine ⟨by rw [pow_succ]; omega, ?_⟩
      rw [← Nat.mul_one (2 ^ n), Nat.two_pow_add_eq_or_of_lt hlt, Nat.mul_one, Nat.testBit_or, Nat.testBit_two_pow, hbit]
      rcases lt_trichotomy j n with h | rfl | h
      · simp [h, h.ne', Nat.lt_succ_of_lt h]
      · simp [hp]
      · simp [h.ne, not_lt.mpr h.le, show ¬ j < n + 1 by omega]
    · have hm : List.foldl (fun a j => a + 2 ^ j) m (List.filter p [n]) = m := by simp [hp]
      rw [hm]
      refine ⟨lt_trans hlt (Nat.pow_lt_pow_right one_lt_two n.lt_succ_self), ?_⟩
      rw [hbit]
      rcases eq_or_ne j n with rfl | h
      · simp [hp]
      · simp [show j < n + 1 ↔ j < n by omega]

theorem getLsbD_mask (p : Nat → Bool) {j : Nat} (hj : j < 64) :
    (BitVec.ofNat 64 (((List.range 32).filter p).foldl (fun a j => a + 2 ^ j) 0)).getLsbD j = true ↔ j < 32 ∧ p j = true := by
  rw [BitVec.getLsbD_ofNat, testBit_mask]
  simp [hj]

/-! ### The stages of HADAM (R137) -/

/-- The partner of an element at distance 2^l lies within the transform. -/
theorem add_two_pow_lt {l lg j : Nat} (hl : l < lg) (hj : j < 2 ^ lg) (heven : j / 2 ^ l % 2 = 0) :
    j + 2 ^ l < 2 ^ lg ∧ (j + 2 ^ l) / 2 ^ l % 2 = 1 := by
  have hpos : 0 < 2 ^ l := Nat.two_pow_pos l
  refine ⟨?_, by rw [Nat.add_div_right _ hpos]; omega⟩
  have hpow : 2 ^ lg = 2 ^ l * (2 * 2 ^ (lg - l - 1)) := by
    rw [← pow_succ', ← pow_add]
    congr 1
    omega
  rw [hpow] at hj ⊢
  have hq := Nat.div_lt_of_lt_mul hj
  calc j + 2 ^ l < 2 ^ l * (j / 2 ^ l + 1) + 2 ^ l := Nat.add_lt_add_right (Nat.lt_mul_div_succ j hpos) _
    _ = 2 ^ l * (j / 2 ^ l + 2) := by ring
    _ ≤ _ := Nat.mul_le_mul_left _ (by omega)

section
variable (add sub : Nat → Nat → FR)

/-- One step of a stage. -/
def hadStep (s : Nat) (y : List Nat) (i : Nat) : FR :=
  if i / 2 ^ s % 2 = 0 then add (y.getD i 0) (y.getD (i + 2 ^ s) 0) else sub (y.getD (i - 2 ^ s) 0) (y.getD i 0)

theorem hadStage_eq (s : Nat) (y : List Nat) :
    hadStage add sub s y = ((List.range y.length).map fun i => (hadStep add sub s y i).pat, orAll y.length fun i => (hadStep add sub s y i).fl) := by
  rw [hadStage, List.map_map, List.foldl_map]
  rfl

/-- The elements after some stages of the transform. -/
def hadamardAt (y : List Nat) : Nat → List Nat := stages (hadStage add sub) y

theorem hadamard_eq (lg : Nat) (y : List Nat) :
    hadamard add sub lg y = (hadamardAt add sub y lg, orAll lg fun l => (hadStage add sub l (hadamardAt add sub y l)).2) :=
  foldl_stages (hadStage add sub) y lg

theorem hadamardAt_length (y : List Nat) (l : Nat) : (hadamardAt add sub y l).length = y.length := by
  induction l with
  | zero => rfl
  | succ l ih =>
    rw [hadamardAt, stages, hadStage_eq, List.length_map, List.length_range]
    exact ih

theorem hadamardAt_succ (y : List Nat) (l : Nat) {j : Nat} (hj : j < y.length) :
    (hadamardAt add sub y (l + 1)).getD j 0 = (hadStep add sub l (hadamardAt add sub y l) j).pat := by
  rw [hadamardAt, stages, hadStage_eq, ← hadamardAt, hadamardAt_length, List.getD_eq_getElem _ _ (by simpa using hj), List.getElem_map,
    List.getElem_range]

/-- The flags of a stage are those of the sum and of the difference of each pair. -/
theorem hadStage_flags {lg l : Nat} (hl : l < lg) (y : List Nat) (hy : y.length = 2 ^ lg) {b : Nat} :
    (hadStage add sub l y).2.getLsbD b = true ↔ ∃ j < 2 ^ lg, j / 2 ^ l % 2 = 0 ∧
      ((add (y.getD j 0) (y.getD (j + 2 ^ l) 0)).fl.getLsbD b = true ∨ (sub (y.getD j 0) (y.getD (j + 2 ^ l) 0)).fl.getLsbD b = true) := by
  rw [hadStage_eq, getLsbD_orAll, hy]
  constructor
  · rintro ⟨i, hi, h⟩
    rw [hadStep] at h
    split at h
    next heven => exact ⟨i, hi, heven, .inl h⟩
    next hodd =>
      have hle : 2 ^ l ≤ i := not_lt.mp fun hlt => hodd (by rw [Nat.div_eq_of_lt hlt])
      have hdiv : (i - 2 ^ l) / 2 ^ l = i / 2 ^ l - 1 := by simpa using Nat.sub_mul_div_of_le i (2 ^ l) 1 (by simpa using hle)
      refine ⟨i - 2 ^ l, lt_of_le_of_lt (Nat.sub_le ..) hi, by rw [hdiv]; omega, .inr ?_⟩
      rwa [Nat.sub_add_cancel hle]
  · rintro ⟨j, hj, heven, h⟩
    obtain ⟨hlt, hodd⟩ := add_two_pow_lt hl hj heven
    rcases h with h | h
    · exact ⟨j, hj, by rwa [hadStep, if_pos heven]⟩
    · exact ⟨j + 2 ^ l, hlt, by rwa [hadStep, if_neg (by omega), Nat.add_sub_cancel]⟩

/-- The transform is lg stages of sums and differences of pairs, with the flags of every step. -/
theorem hadamard_spec (lg : Nat) (X : Nat → Nat) :
    let r := hadamard add sub lg ((List.range (2 ^ lg)).map X)
    ∃ y : Nat → Nat → Nat, (∀ j < 2 ^ lg, y 0 j = X j) ∧
      (∀ l < lg, ∀ j < 2 ^ lg, y (l + 1) j =
        if j / 2 ^ l % 2 = 0 then (add (y l j) (y l (j + 2 ^ l))).pat else (sub (y l (j - 2 ^ l)) (y l j)).pat) ∧
      (∀ j, r.1.getD j 0 = y lg j) ∧
      ∀ b < 9, r.2.getLsbD b = true ↔ ∃ l < lg, ∃ j < 2 ^ lg, j / 2 ^ l % 2 = 0 ∧
        ((add (y l j) (y l (j + 2 ^ l))).fl.getLsbD b = true ∨ (sub (y l j) (y l (j + 2 ^ l))).fl.getLsbD b = true) := by
  intro r
  set xs := (List.range (2 ^ lg)).map X with hxs
  have hlen : xs.length = 2 ^ lg := by simp [hxs]
  refine ⟨fun l j => (hadamardAt add sub xs l).getD j 0, fun j hj => show xs.getD j 0 = _ from ?_, fun l _ j hj => ?_, fun j => ?_,
    fun b _ => ?_⟩
  · rw [hxs, List.getD_eq_getElem _ _ (by simpa using hj), List.getElem_map, List.getElem_range]
  · refine (hadamardAt_succ add sub xs l (by rwa [hlen])).trans ?_
    rw [hadStep]
    split <;> rfl
  · simp only [r, hadamard_eq, hxs]
  · simp only [r, hadamard_eq, getLsbD_orAll]
    exact exists_congr fun l => and_congr_right fun hl => hadStage_flags add sub hl _ ((hadamardAt_length add sub xs l).trans hlen)

end

end Sys2Proof.Machine
end

section
/-! PROOFS. What each collective gives to a thread (R226 to R231). -/

namespace Sys2Proof.Machine

/-- A test of all active threads. -/
theorem all_active_iff {act p : Nat → Bool} : ((List.range 32).filter act).all p = true ↔ ∀ j < 32, act j = true → p j = true := by
  simp only [List.all_eq_true, List.mem_filter, List.mem_range, and_imp]

theorem shflSrc_up (lg i n : Nat) : shflSrc .up lg i n = if n ≤ i % 2 ^ (5 - lg) ∧ n < 32 then some (i - n) else none := by
  have := Nat.mod_le i (2 ^ (5 - lg))
  simp only [shflSrc, Bool.and_eq_true, decide_eq_true_eq]
  exact if_congr ⟨fun ⟨h1, h2⟩ => ⟨by omega, h1⟩, fun ⟨h1, h2⟩ => ⟨h2, by omega⟩⟩ rfl rfl

theorem shflSrc_down (lg i n : Nat) :
    shflSrc .down lg i n = if n < 32 ∧ i % 2 ^ (5 - lg) + n < 2 ^ (5 - lg) then some (i + n) else none := by
  have := Nat.mod_le i (2 ^ (5 - lg))
  simp only [shflSrc, Bool.and_eq_true, decide_eq_true_eq]
  exact if_congr (and_congr_right fun _ => by omega) rfl rfl

section
variable (s : State) (c sp n : Nat) (ftz : Bool) (h : Hdr) (a b : Src) (e : Bool)

/-- SHFL: the contribution of its source thread, or the thread's own value where that is not valid (R227). -/
theorem collRes_shfl_if {mode : ShflMode} {lg : BitVec 3} {p : Prop} [Decidable p] {j : Nat}
    (hsrc : shflSrc mode lg.toNat n (((s.thr ((s.crew c).base + n)).r).rv b).toNat = if p then some j else none) :
    (s.collRes c ftz sp (.shfl h a b mode lg e) n).1 = if p then s.contrib c j else ((s.thr ((s.crew c).base + n)).r).rw e a := by
  simp only [State.collRes, hsrc]
  by_cases hp : p
  · simp only [if_pos hp]
  · simp only [if_neg hp]

/-- SCAN: the running results over the contributions, which start at the first one for a minimum or maximum (R228; log 57). -/
theorem collRes_scan_spec (op : RedOp) (ty : RedTy) (rm : Rnd) (hn : n < 32) :
    let Z := fun (j : Nat) => s.contribOr c j (redId op ty)
    let res := s.collRes c ftz sp (.scan h a op ty rm e) n
    let step := redStep op ty rm ftz
    ∃ run : Nat → DWord, run 0 = redId op ty ∧
      (let u := fun (j : Nat) => if j = 0 ∧ (op = .min ∨ op = .max) then Z 0 else run j
       (∀ j < 32, run (j + 1) = (step (u j) (Z j)).1) ∧ res.1 = run (if e then n else n + 1) ∧
         ∀ k < 9, res.2.getLsbD k = true ↔ ∃ j < (if e then n else n + 1), (step (u j) (Z j)).2.getLsbD k = true) := by
  intro Z res step
  set start : DWord := if op = .min ∨ op = .max then Z 0 else redId op ty with hstart
  let acc := fun j => scanAcc step (start, 0) (((List.range 32).map Z).take j)
  refine ⟨fun j => if j = 0 then redId op ty else (acc j).1, rfl, ?_⟩
  intro u
  have hu (j : Nat) : u j = (acc j).1 := by
    cases j with
    | zero => simp [u, acc, scanAcc, hstart]
    | succ j => simp [u]
  have hres : res = if e = true ∧ n = 0 then (redId op ty, 0) else acc (if e then n else n + 1) := by
    have hget {j : Nat} (hj : j < 32) : (scanList step (start, 0) ((List.range 32).map Z)).getD j (0, 0) = acc (j + 1) :=
      scanList_getD step (start, 0) _ (by simpa using hj) _
    have hrun : res = ((redId op ty, 0) :: scanList step (start, 0) ((List.range 32).map Z)).getD (if e then n else n + 1) (0, 0) := by
      simp only [res, State.collRes, hstart, Bool.or_eq_true, beq_iff_eq]
      rfl
    rw [hrun]
    cases e with
    | false => exact hget hn
    | true =>
      cases n with
      | zero => rfl
      | succ n => exact hget (by omega)
  refine ⟨fun j hj => ?_, ?_, fun k _ => ?_⟩
  · rw [hu]
    show (acc (j + 1)).1 = _
    rw [show acc (j + 1) = _ from scanAcc_succ step (start, 0) Z hj]
  · rw [hres]
    by_cases h0 : e = true ∧ n = 0
    · simp [h0]
    · have hne : (if e then n else n + 1) ≠ 0 := by
        cases e <;> simp_all
      rw [if_neg h0]
      simp only [if_neg hne]
  · simp only [hu, hres]
    by_cases h0 : e = true ∧ n = 0
    · simp [h0]
    · rw [if_neg h0]
      exact scanAcc_flags step start Z (by split <;> omega)

/-- MATCHV .any: the active threads of the same contribution (R231). -/
theorem collRes_matchv_any {j : Nat} (hj : j < 64) :
    (s.collRes c ftz sp (.matchv h a false e) n).1.getLsbD j = true ↔
      j < 32 ∧ s.activeAt c j = true ∧ s.contrib c j = s.contrib c n := by
  simp only [State.collRes, List.filter_filter]
  simp only [Bool.false_eq_true, if_false]
  rw [getLsbD_mask _ hj, Bool.and_eq_true, beq_iff_eq, and_comm (a := _ = _)]

/-- MATCHV .all: the active threads, where they all have the same contribution (R231). -/
theorem collRes_matchv_all {j : Nat} (hj : j < 64) :
    (s.collRes c ftz sp (.matchv h a true e) n).1.getLsbD j = true ↔
      j < 32 ∧ s.activeAt c j = true ∧ ∀ k < 32, s.activeAt c k = true → s.contrib c k = s.contrib c n := by
  simp only [State.collRes, if_true]
  by_cases hall : ∀ k < 32, s.activeAt c k = true → s.contrib c k = s.contrib c n
  · rw [if_pos (all_active_iff.mpr (by simpa using hall)), getLsbD_mask _ hj, and_iff_left hall]
  · rw [if_neg fun hall' => hall (by simpa using all_active_iff.mp hall')]
    simp [hall]

/-- The words of a packed block: its elements in little-endian order, and its exponents (R230). -/
theorem packWord_eq (m : Bool) (els : List Nat) (e0 e1 : Nat) :
    packWord m els e0 e1 n =
      if m then (if n < 4 then ∑ j ∈ Finset.range 8, els.getD (8 * n + j) 0 * 16 ^ j else if n = 4 then e0 + 256 * e1 else 0)
      else if n < 8 then ∑ j ∈ Finset.range 4, els.getD (4 * n + j) 0 * 256 ^ j else if n = 8 then e0 + 256 * e1 else 0 := by
  have hsum (k : Nat) (g : Nat → Nat) : (List.range k).foldl (fun a j => a + g j) 0 = ∑ j ∈ Finset.range k, g j := by
    induction k with
    | zero => rfl
    | succ k ih => rw [List.range_succ, List.foldl_append, ih, Finset.sum_range_succ]; rfl
  rw [packWord, hsum 8 fun j => els.getD (8 * n + j) 0 * 16 ^ j, hsum 4 fun j => els.getD (4 * n + j) 0 * 256 ^ j]

/-- HADAM: the transform of the crew's contributions, or of those of its half (R137, R229). -/
theorem collRes_hadam_spec :
    let fst := if e then n / 16 * 16 else 0
    let res := s.collRes c ftz sp (.hadam h a e) n
    ∃ y : Nat → Nat → Nat, (∀ j < (if e then 16 else 32), y 0 j = (s.contrib c (fst + j)).toNat) ∧
      (∀ l < (if e then 4 else 5), ∀ j < (if e then 16 else 32), y (l + 1) j =
        if j / 2 ^ l % 2 = 0 then (f32.add .rne ftz (y l j) (y l (j + 2 ^ l))).pat
        else (f32.sub .rne ftz (y l (j - 2 ^ l)) (y l j)).pat) ∧
      res.1 = BitVec.ofNat 64 (y (if e then 4 else 5) (n - fst)) ∧
      ∀ k < 9, res.2.getLsbD k = true ↔ ∃ l < (if e then 4 else 5), ∃ j < (if e then 16 else 32), j / 2 ^ l % 2 = 0 ∧
        ((f32.add .rne ftz (y l j) (y l (j + 2 ^ l))).fl.getLsbD k = true ∨ (f32.sub .rne ftz (y l j) (y l (j + 2 ^ l))).fl.getLsbD k = true) := by
  intro fst res
  have hlen : (if e then 16 else 32) = 2 ^ (if e then 4 else 5) := by cases e <;> rfl
  obtain ⟨y, h0, hsucc, hget, hfl⟩ := hadamard_spec (f32.add .rne ftz) (f32.sub .rne ftz) (if e then 4 else 5)
    fun j => (s.contrib c (fst + j)).toNat
  rw [← hlen] at h0 hsucc hget hfl
  refine ⟨y, h0, hsucc, ?_, hfl⟩
  rw [← hget]
  rfl

end

/-- VOTE: what holds for some, for all, and for all alike of the active threads; the ballot names the threads for which it holds (R214). -/
theorem collRes_vote (s : State) (c sp n : Nat) (ftz : Bool) (h : Hdr) (q : BitVec 4) (e : Bool) :
    let res := fun (m : VoteMode) => (s.collRes c ftz sp (.vote h q e m) n).1
    let T := fun (j : Nat) => (s.thr ((s.crew c).base + j)).r.pred q != e
    (∀ m, m ≠ .ballot → res m = 0 ∨ res m = 1) ∧
    (res .any = 1 ↔ ∃ j < 32, s.activeAt c j = true ∧ T j = true) ∧
    (res .all = 1 ↔ ∀ j < 32, s.activeAt c j = true → T j = true) ∧
    (res .eq = 1 ↔ ∀ j < 32, s.activeAt c j = true → T j = T n) ∧
    (∀ j < 64, (res .ballot).getLsbD j = true ↔ j < 32 ∧ s.activeAt c j = true ∧ T j = true) := by
  intro res T
  have hbit (x : Bool) : (if x then (1 : DWord) else 0) = 1 ↔ x = true := by cases x <;> decide
  have hany : res .any = if ((List.range 32).filter fun j => s.activeAt c j).any T then 1 else 0 := rfl
  have hall : res .all = if ((List.range 32).filter fun j => s.activeAt c j).all T then 1 else 0 := rfl
  have heq : res .eq = if ((List.range 32).filter fun j => s.activeAt c j).all (fun j => T j == T n) then 1 else 0 := rfl
  refine ⟨fun m hm => ?_, ?_, ?_, ?_, fun j hj => ?_⟩
  · have hcase (x : Bool) : (if x then (1 : DWord) else 0) = 0 ∨ (if x then (1 : DWord) else 0) = 1 := by cases x <;> decide
    cases m with
    | any => exact hany ▸ hcase _
    | all => exact hall ▸ hcase _
    | eq => exact heq ▸ hcase _
    | ballot => exact absurd rfl hm
  · rw [hany, hbit]
    simp [List.any_eq_true]
  · rw [hall, hbit, all_active_iff]
  · rw [heq, hbit, all_active_iff]
    simp only [beq_iff_eq]
  · simp only [res, State.collRes, List.filter_filter]
    rw [getLsbD_mask _ hj, Bool.and_eq_true, and_comm (a := (_ != _) = true)]

end Sys2Proof.Machine
end

section
/-! PROOFS. Blocks of 32 values (R129, R136). -/

namespace Sys2Proof.Machine

/-! ### Magnitudes -/

/-- A value is a NaN. -/
def FV.hasNaN : FV → Bool
  | .nan _ => true
  | _ => false

/-- The value is finite with this magnitude. -/
def FV.HasMag (x : FV) (q : ℚ) : Prop := ∃ n d, magOf x = some (n, d) ∧ 0 < d ∧ q = n / d

/-- The largest magnitude of a block. -/
def blockMax (xs : List FV) : Option (Nat × Nat) := xs.foldl (fun a x => magMax a (magOf x)) (some (0, 1))

theorem magMax_none (a : Option (Nat × Nat)) : magMax a none = none := by cases a <;> rfl

theorem foldl_magMax_none (xs : List FV) : xs.foldl (fun a x => magMax a (magOf x)) none = none := by
  induction xs with
  | nil => rfl
  | cons x xs ih => exact ih

theorem blockMax_none {xs : List FV} {x : FV} (hx : x ∈ xs) (h : magOf x = none) : blockMax xs = none := by
  obtain ⟨as, bs, rfl⟩ := List.append_of_mem hx
  rw [blockMax, List.foldl_append, List.foldl_cons, h, magMax_none]
  exact foldl_magMax_none bs

/-- The largest magnitude of a finite block is that of one of its values, or zero. -/
theorem blockMax_some (v : Nat → FV) (mag : Nat → ℚ) (n : Nat) (hv : ∀ j < n, (v j).HasMag (mag j)) :
    ∃ a d, blockMax ((List.range n).map v) = some (a, d) ∧ 0 < d ∧ (∀ j < n, mag j ≤ a / d) ∧ (a = 0 ∨ ∃ j < n, mag j = a / d) := by
  induction n with
  | zero => exact ⟨0, 1, rfl, one_pos, fun j hj => absurd hj (Nat.not_lt_zero j), .inl rfl⟩
  | succ n ih =>
    obtain ⟨a, d, hmax, hd, hle, hatt⟩ := ih fun j hj => hv j (Nat.lt_succ_of_lt hj)
    obtain ⟨b, e, hb, he, hmag⟩ := hv n n.lt_succ_self
    have hdq : (0 : ℚ) < d := Nat.cast_pos.mpr hd
    have heq : (0 : ℚ) < e := Nat.cast_pos.mpr he
    have hstep : blockMax ((List.range (n + 1)).map v) = if a * e < b * d then some (b, e) else some (a, d) := by
      rw [blockMax, List.range_succ, List.map_append, List.foldl_append]
      change magMax (blockMax ((List.range n).map v)) (magOf (v n)) = _
      rw [hmax, hb]
      rfl
    have hlt : a * e < b * d ↔ (a : ℚ) / d < b / e := by
      rw [div_lt_div_iff₀ hdq heq]
      exact_mod_cast Iff.rfl
    rw [hstep]
    by_cases h : a * e < b * d
    · refine ⟨b, e, if_pos h, he, fun j hj => ?_, .inr ⟨n, n.lt_succ_self, hmag⟩⟩
      rcases Nat.lt_succ_iff_lt_or_eq.mp hj with hj | rfl
      · exact (hle j hj).trans (hlt.mp h).le
      · exact hmag.le
    · refine ⟨a, d, if_neg h, hd, fun j hj => ?_, hatt.imp_right fun ⟨j, hj, h⟩ => ⟨j, Nat.lt_succ_of_lt hj, h⟩⟩
      rcases Nat.lt_succ_iff_lt_or_eq.mp hj with hj | rfl
      · exact hle j hj
      · exact hmag.trans_le (not_lt.mp fun h' => h (hlt.mpr h'))

/-! ### Exponents and elements of a block -/

/-- E1 of a block (R136). -/
def blockE1 (xs : List FV) : Nat :=
  match blockMax xs with
  | some (0, _) => 0
  | none => 254
  | some (n, d) => (Sys2Proof.saturate (ilog n d + 127) 1 254).toNat

/-- E0 of a block whose larger exponent is E1 (R136). -/
def blockE0 (spread E1 : Nat) : Nat := if E1 = 0 then 0 else if spread + 1 ≤ E1 then E1 - spread else 0

/-- The element for a value (R136). -/
def bfpQuant (bfp4 : Bool) (E0 E1 : Nat) (x : FV) : Nat :=
  let c := if bfp4 then 2 else 32
  let mmax := if bfp4 then 3 else 63
  let m0 := bfpRound x E0 c
  let fits := match m0 with | some m => decide (m ≤ mmax) | none => false
  if 1 ≤ E0 && fits then bfpElem bfp4 false (signOf x) (m0.getD 0)
  else if E1 = 0 then bfpElem bfp4 false (signOf x) 0
  else bfpElem bfp4 true (signOf x) (Nat.min ((bfpRound x E1 c).getD mmax) mmax)

theorem quantise_eq (bfp4 : Bool) (spread : Nat) (xs : List FV) :
    quantise bfp4 spread xs =
      if xs.any FV.hasNaN then (xs.map fun _ => bfpElem bfp4 false false 0, 255, 255)
      else (xs.map (bfpQuant bfp4 (blockE0 spread (blockE1 xs)) (blockE1 xs)), blockE0 spread (blockE1 xs), blockE1 xs) := rfl

theorem blockE0_eq (spread E1 : Nat) : blockE0 spread E1 = if spread + 1 ≤ E1 then E1 - spread else 0 := by
  unfold blockE0
  split_ifs <;> omega

theorem blockE1_none {xs : List FV} {x : FV} (hx : x ∈ xs) (h : magOf x = none) : blockE1 xs = 254 := by rw [blockE1, blockMax_none hx h]

theorem blockE1_zero (v : Nat → FV) (hv : ∀ j < 32, (v j).HasMag 0) : blockE1 ((List.range 32).map v) = 0 := by
  obtain ⟨a, d, hmax, hd, -, hatt⟩ := blockMax_some v (fun _ => 0) 32 hv
  have ha : a = 0 := by
    rcases hatt with h | ⟨j, -, h⟩
    · exact h
    · rcases div_eq_zero_iff.mp h.symm with h | h
      · exact Nat.cast_eq_zero.mp h
      · exact absurd (Nat.cast_eq_zero.mp h) hd.ne'
  subst ha
  simp only [blockE1, hmax]

theorem blockE1_eq (v : Nat → FV) (mag : Nat → ℚ) (hv : ∀ j < 32, (v j).HasMag (mag j)) (L : ℤ) (hlt : ∀ j < 32, mag j < 2 ^ (L + 1))
    (hle : ∃ j < 32, (2 : ℚ) ^ L ≤ mag j) : (blockE1 ((List.range 32).map v) : ℤ) = max 1 (min 254 (L + 127)) := by
  obtain ⟨a, d, hmax, hd, hbound, hatt⟩ := blockMax_some v mag 32 hv
  obtain ⟨j, hj, hjle⟩ := hle
  have hlo : (2 : ℚ) ^ L ≤ a / d := hjle.trans (hbound j hj)
  have ha : a ≠ 0 := by
    rintro rfl
    rw [Nat.cast_zero, zero_div] at hlo
    exact absurd hlo (not_le.mpr (zpow_pos two_pos L))
  obtain ⟨i, hi, heq⟩ := hatt.resolve_left ha
  have hlog : ilog a d = L := ilog_of_bounds hd hlo (heq ▸ hlt i hi)
  obtain ⟨n, rfl⟩ := Nat.exists_eq_succ_of_ne_zero ha
  rw [blockE1, hmax]
  simp only [hlog]
  rw [saturate_eq (by decide), Int.toNat_of_nonneg (by omega)]

/-- An element by its fields. -/
theorem bfpElem_eq (bfp4 sel neg : Bool) (m : Nat) :
    bfpElem bfp4 sel neg m = (2 * sel.toNat + neg.toNat) * ((if bfp4 then 3 else 63) + 1) + m := by
  cases bfp4 <;> cases sel <;> cases neg <;> rfl

/-- The magnitude that an element of exponent E holds of a value is the nearest one (R136). -/
theorem bfpRound_roundsTo {x : FV} {q : ℚ} (h : x.HasMag q) (E c : Nat) :
    ∃ m : Nat, bfpRound x E c = some m ∧ roundsTo .rne (q * 2 ^ (127 - (E : ℤ)) * c) m := by
  obtain ⟨n, d, hmag, hd, rfl⟩ := h
  have hden : 0 < d * (pow2 (127 - (E : ℤ))).2 := Nat.mul_pos hd (pow2_den_pos _)
  refine ⟨_, by rw [bfpRound, hmag]; rfl, ?_⟩
  have hp : ((pow2 (127 - (E : ℤ))).2 : ℚ) ≠ 0 := Nat.cast_ne_zero.mpr (pow2_den_pos _).ne'
  have hfrac : ((n * (pow2 (127 - (E : ℤ))).1 * c : ℕ) : ℚ) / (d * (pow2 (127 - (E : ℤ))).2 : ℕ) = n / d * 2 ^ (127 - (E : ℤ)) * c := by
    have hdq : (d : ℚ) ≠ 0 := Nat.cast_ne_zero.mpr hd.ne'
    rw [Nat.cast_mul, Nat.cast_mul, Nat.cast_mul, pow2_cast]
    field_simp
  have hround := (divRnd_roundsTo .rne false (n * (pow2 (127 - (E : ℤ))).1 * c) hden).1
  rw [signed_false, hfrac] at hround
  exact hround

/-- The element for a finite value. -/
theorem bfpQuant_fin {x : FV} {q : ℚ} (h : x.HasMag q) (bfp4 : Bool) (E0 E1 : Nat) :
    let c : Nat := if bfp4 then 2 else 32
    let mmax := if bfp4 then 3 else 63
    ∃ m0 m1 : Nat, roundsTo .rne (q * 2 ^ (127 - (E0 : ℤ)) * c) m0 ∧ roundsTo .rne (q * 2 ^ (127 - (E1 : ℤ)) * c) m1 ∧
      bfpQuant bfp4 E0 E1 x = if 1 ≤ E0 ∧ m0 ≤ mmax then bfpElem bfp4 false (signOf x) m0
        else if E1 = 0 then bfpElem bfp4 false (signOf x) 0 else bfpElem bfp4 true (signOf x) (min m1 mmax) := by
  intro c mmax
  obtain ⟨m0, h0, hr0⟩ := bfpRound_roundsTo h E0 c
  obtain ⟨m1, h1, hr1⟩ := bfpRound_roundsTo h E1 c
  refine ⟨m0, m1, hr0, hr1, ?_⟩
  change (if (decide (1 ≤ E0) && (match bfpRound x E0 c with | some m => decide (m ≤ mmax) | none => false)) = true then
    bfpElem bfp4 false (signOf x) ((bfpRound x E0 c).getD 0) else if E1 = 0 then bfpElem bfp4 false (signOf x) 0 else
      bfpElem bfp4 true (signOf x) (min ((bfpRound x E1 c).getD mmax) mmax)) = _
  simp only [h0, h1, Option.getD_some, Bool.and_eq_true, decide_eq_true_eq]

/-- The element for an infinity is the largest of the larger exponent. -/
theorem bfpQuant_none {x : FV} (h : magOf x = none) (bfp4 : Bool) (E0 : Nat) {E1 : Nat} (hE : E1 ≠ 0) :
    bfpQuant bfp4 E0 E1 x = bfpElem bfp4 true (signOf x) (if bfp4 then 3 else 63) := by
  simp only [bfpQuant, bfpRound, h, Option.map_none, Option.getD_none, Bool.and_false, Bool.false_eq_true, if_false, if_neg hE]
  exact congrArg _ (Nat.min_self _)

/-! ### The value of an element (R129) -/

theorem bfpFields_el (bfp4 sel neg : Bool) {m : Nat} (hm : m ≤ if bfp4 then 3 else 63) (e0 e1 : Nat) :
    bfpFields bfp4 ((2 * sel.toNat + neg.toNat) * ((if bfp4 then 3 else 63) + 1) + m) e0 e1 = (if sel then e1 else e0, neg, m) := by
  have hfields (w : Nat) (hw : m < w) : ((2 * sel.toNat + neg.toNat) * w + m) / (2 * w) % 2 = sel.toNat ∧
      ((2 * sel.toNat + neg.toNat) * w + m) / w % 2 = neg.toNat ∧ ((2 * sel.toNat + neg.toNat) * w + m) % w = m := by
    have hdiv : ((2 * sel.toNat + neg.toNat) * w + m) / w = 2 * sel.toNat + neg.toNat := by
      rw [Nat.mul_comm, Nat.mul_add_div (by omega), Nat.div_eq_of_lt hw, Nat.add_zero]
    have h1 := Bool.toNat_lt sel
    have h2 := Bool.toNat_lt neg
    refine ⟨by rw [Nat.mul_comm 2 w, ← Nat.div_div_eq_div_mul, hdiv]; omega, by rw [hdiv]; omega, ?_⟩
    rw [Nat.mul_comm, Nat.mul_add_mod, Nat.mod_eq_of_lt hw]
  cases bfp4
  · obtain ⟨h1, h2, h3⟩ := hfields 64 (by simpa using Nat.lt_succ_of_le hm)
    simp only [bfpFields, Bool.false_eq_true, if_false, Nat.reduceAdd]
    simp only [Nat.reduceMul] at h1
    rw [h1, h2, h3]
    cases sel <;> cases neg <;> rfl
  · obtain ⟨h1, h2, h3⟩ := hfields 4 (by simpa using Nat.lt_succ_of_le hm)
    simp only [bfpFields, if_true, Nat.reduceAdd]
    simp only [Nat.reduceMul] at h1
    rw [h1, h2, h3]
    cases sel <;> cases neg <;> rfl

theorem Fmt.round_zero (f : Fmt) (rm : Rnd) (z neg : Bool) (den : Nat) : f.round rm z neg 0 den = ⟨f.zeroPat neg, 0⟩ := by simp [Fmt.round]

/-- A zero stands for zero. -/
theorem Fmt.zeroPat_spec {f : Fmt} (hs : f.Sound) (neg : Bool) :
    f.zeroPat neg < 2 ^ f.w ∧ f.neg (f.zeroPat neg) = neg ∧ f.ex (f.zeroPat neg) = 0 ∧ f.rat (f.zeroPat neg) = 0 := by
  obtain ⟨hlt, hneg, hex, hfr, -⟩ := Fmt.fields_pack hs (neg := neg) (Nat.zero_le f.emax) (Nat.two_pow_pos f.fb)
  rw [Nat.zero_mul, Nat.add_zero] at hlt hneg hex hfr
  refine ⟨hlt, hneg, hex, ?_⟩
  rw [Fmt.zeroPat, Fmt.rat_eq hs hlt, Fmt.sig, if_pos hex, hfr, Nat.cast_zero, zero_mul, signed_zero]

/-- A number m / 2^lc · 2^(E - 127) of few bits is one of a format with FP32's exponents. -/
theorem Fmt.round_small {f : Fmt} (hs : f.Sound) (hbias : f.bias = 127) {lc m E n d : Nat} (hlc : lc ≤ f.fb) (hm : m < 2 ^ (lc + 1)) (hE1 : 1 ≤ E)
    (hE2 : E < 255) (hd : 0 < d) (neg : Bool) (hval : (n : ℚ) / d = m / (2 ^ lc : ℕ) * 2 ^ ((E : ℤ) - 127)) :
    let x := (f.round .rne false neg n d).pat
    x < 2 ^ f.w ∧ f.ex x ≠ f.emax ∧ f.neg x = neg ∧ f.rat x = signed neg (n / d) := by
  intro x
  have hemax := hs.emax_eq
  by_cases hm0 : m = 0
  · have hn : n = 0 := by
      rw [hm0, Nat.cast_zero, zero_div, zero_mul] at hval
      rcases div_eq_zero_iff.mp hval with h | h
      · exact Nat.cast_eq_zero.mp h
      · exact absurd (Nat.cast_eq_zero.mp h) hd.ne'
    obtain ⟨hlt, hneg, hex, hrat⟩ := Fmt.zeroPat_spec hs neg
    simp only [x, hn, Fmt.round_zero, Nat.cast_zero, zero_div, signed_zero]
    exact ⟨hlt, by omega, hneg, hrat⟩
  · set t : ℤ := (E : ℤ) - 127 - f.fb with ht
    have ha : m * 2 ^ (f.fb - lc) < 2 ^ (f.fb + 1) := by
      rw [show f.fb + 1 = (lc + 1) + (f.fb - lc) by omega, pow_add]
      exact Nat.mul_lt_mul_of_pos_right hm (Nat.two_pow_pos _)
    have habs : |signed neg ((n : ℚ) / d)| = (m * 2 ^ (f.fb - lc) : ℕ) * 2 ^ t := by
      have hpow : (2 : ℚ) ^ ((E : ℤ) - 127) = 2 ^ (f.fb - lc) * 2 ^ lc * 2 ^ t := by
        rw [← pow_add, Nat.sub_add_cancel hlc, ← zpow_natCast, ← zpow_add₀ two_ne_zero]
        congr 1
        omega
      rw [abs_signed, abs_of_nonneg (by positivity), hval, hpow]
      push_cast
      field_simp
    have htop : |signed neg ((n : ℚ) / d)| ≤ f.top := by
      have h1 : ((m * 2 ^ (f.fb - lc) : ℕ) : ℚ) ≤ 2 ^ (f.fb + 1) - 1 := by
        rw [le_sub_iff_add_le]
        exact_mod_cast ha
      rw [habs, Fmt.top]
      exact mul_le_mul h1 (zpow_le_zpow_right₀ one_le_two (by omega)) (zpow_pos two_pos _).le ((Nat.cast_nonneg _).trans h1)
    have h := Fmt.rounded_exact hs (Fmt.round_rounded hs .rne false neg n hd)
      (Nat.mul_pos (Nat.pos_of_ne_zero hm0) (Nat.two_pow_pos _)) ha (by omega) habs htop
    rw [if_neg (by simp)] at h
    obtain ⟨hlt, hneg, hrat, -, hex⟩ := h
    exact ⟨hlt, hex, hneg, hrat⟩

/-- The pattern of an element in FP32 or BF16 (R129). -/
theorem bfpTo_spec {f : Fmt} (hf : f = f32 ∨ f = bf16) (b4 : Bool) {el E m e0 e1 : Nat} {neg : Bool} (hm : m ≤ if b4 then 3 else 63) (hE : E < 256)
    (hel : bfpFields b4 el e0 e1 = (E, neg, m)) :
    let x := bfpTo f b4 el e0 e1
    (E = 255 → x = f.canon) ∧
      (E ≠ 255 → x < 2 ^ f.w ∧ f.ex x ≠ f.emax ∧ f.neg x = neg ∧
        f.rat x = if E = 0 then 0 else signed neg ((m : ℚ) / (if b4 then 2 else 32 : ℕ) * 2 ^ ((E : ℤ) - 127))) := by
  intro x
  have hs : f.Sound := Fmt.sound_of_vector (hf.imp_right .inl)
  obtain ⟨hbias, hfb⟩ : f.bias = 127 ∧ 7 ≤ f.fb := by rcases hf with rfl | rfl <;> decide
  have hemax := hs.emax_eq
  refine ⟨fun h => ?_, fun hne => ?_⟩
  · simp only [x, bfpTo, bfpVal, hel, h]
    rfl
  · by_cases h0 : E = 0
    · have hx : x = f.zeroPat neg := by
        simp only [x, bfpTo, bfpVal, hel, h0, if_true, Fmt.deliver, Fmt.round_zero]
      obtain ⟨hlt, hneg, hex, hrat⟩ := Fmt.zeroPat_spec hs neg
      rw [hx, if_pos h0]
      exact ⟨hlt, by omega, hneg, hrat⟩
    · set p := pow2 ((E : ℤ) - 127) with hp
      have hx : x = (f.round .rne false neg (m * p.1) ((if b4 then 2 else 32) * p.2)).pat := by
        simp only [x, bfpTo, bfpVal, hel, if_neg h0, if_neg hne, Fmt.deliver, hp]
      have hp2 : 0 < p.2 := pow2_den_pos _
      have hc : (if b4 then 2 else 32 : ℕ) = 2 ^ (if b4 then 1 else 5) := by cases b4 <;> rfl
      have hval : ((m * p.1 : ℕ) : ℚ) / (((if b4 then 2 else 32) * p.2 : ℕ) : ℚ) = m / (2 ^ (if b4 then 1 else 5) : ℕ) * 2 ^ ((E : ℤ) - 127) := by
        have hpq : (p.2 : ℚ) ≠ 0 := Nat.cast_ne_zero.mpr hp2.ne'
        rw [hc, Nat.cast_mul, Nat.cast_mul, hp, pow2_cast, ← hp, ← mul_assoc, mul_div_mul_right _ _ hpq, mul_div_right_comm]
      have h := Fmt.round_small hs hbias (by cases b4 <;> simp <;> omega) (by cases b4 <;> simp at hm ⊢ <;> omega) (by omega) (by omega)
        (Nat.mul_pos (by cases b4 <;> decide) hp2) neg hval
      rw [← hx, hval, ← hc] at h
      rw [if_neg h0]
      exact h

/-! ### The obligation -/

/-- What a pattern that is no NaN is read as. -/
theorem val_mag {z : Bool} {x : Nat} (hx : x < 2 ^ 32) :
    (f32.ex x ≠ 255 → (f32.val z x).HasMag |f32.read z x|) ∧ (f32.ex x = 255 → f32.fr x = 0 → magOf (f32.val z x) = none) ∧
      (¬(f32.ex x = 255 ∧ f32.fr x ≠ 0) → signOf (f32.val z x) = decide (2 ^ 31 ≤ x)) ∧
      ((f32.val z x).hasNaN = true ↔ f32.ex x = 255 ∧ f32.fr x ≠ 0) := by
  have hneg : f32.neg x = decide (2 ^ 31 ≤ x) := Fmt.neg_eq f32_sound hx
  by_cases hex : f32.ex x = 255
  · by_cases hfr : f32.fr x = 0
    · have hval : f32.val z x = .inf (f32.neg x) := Fmt.val_inf hex hfr
      rw [hval]
      exact ⟨fun h => absurd hex h, fun _ _ => rfl, fun _ => hneg, by simp [FV.hasNaN, hfr]⟩
    · have hval := Fmt.val_nan (f := f32) (z := z) hex hfr
      rw [hval]
      exact ⟨fun h => absurd hex h, fun _ h => absurd h hfr, fun h => absurd ⟨hex, hfr⟩ h, by simp [FV.hasNaN, hex, hfr]⟩
  · obtain ⟨n, d, hval, hd, hread⟩ := Fmt.val_fin f32_sound (z := z) hx hex
    rw [hval]
    refine ⟨fun _ => ⟨n, d, rfl, hd, ?_⟩, fun h => absurd h hex, fun _ => hneg, by simp [FV.hasNaN, hex]⟩
    rw [← hread, abs_signed, abs_of_nonneg (by positivity)]

/-- Settles O34: a tree, a run and a transform collect the flags of their steps; a block's elements are rounded at its exponents. -/
theorem collectiveResults : Obligations.CollectiveResults := by
  unfold Obligations.CollectiveResults
  refine ⟨?_, ?_⟩
  · intro s c sp n ftz h a b e lg ln op ty rm q hn res fls X reg cnt N lo T step flag Z fst
    refine ⟨rfl, collRes_shfl_if s c sp n ftz h a b e (shflSrc_up ..), collRes_shfl_if s c sp n ftz h a b e (shflSrc_down ..), rfl, rfl,
      reduceTree_spec (redStep op ty rm ftz) Z, collRes_scan_spec s c sp n ftz h a e op ty rm hn,
      fun j hj => collRes_matchv_any s c sp n ftz h a e hj, fun j hj => collRes_matchv_all s c sp n ftz h a e hj, ?_⟩
    obtain ⟨hbit, hany, hall, heq, hballot⟩ := collRes_vote s c sp n ftz h q e
    refine ⟨hbit, hany, hall, heq, hballot, collRes_hadam_spec s c sp n ftz h a e, ?_, ?_⟩
    · exact congrArg (BitVec.ofNat 64) (packWord_eq n e _ _ _)
    · cases e <;> rfl
  · intro b4 z sp X hX c top el blk E0 E1 at_ fin nan neg mag
    have hval := fun j => val_mag (z := z) (hX j)
    set v := fun j => f32.val z (X j) with hv
    have hblk : blk = _ := quantise_eq b4 sp ((List.range 32).map v)
    have helem (sel s : Bool) (m : Nat) : bfpElem b4 sel s m = el sel s m := bfpElem_eq b4 sel s m
    refine ⟨fun ⟨j, hj, hnan⟩ => ?_, fun hnan => ?_, fun f sel s m e0 e1 hf hm h0 h1 => ?_⟩
    · rw [if_pos (List.any_eq_true.mpr ⟨v j, List.mem_map_of_mem (List.mem_range.mpr hj), (hval j).2.2.2.mpr hnan⟩)] at hblk
      refine ⟨by simp only [E0, hblk], by simp only [E1, hblk], fun i hi => ?_⟩
      simp only [at_, hblk]
      rw [List.getD_eq_getElem _ _ (by simpa using hi)]
      cases b4 <;> simp [bfpElem]
    · have hnone : ¬((List.range 32).map v).any FV.hasNaN = true := by
        simp only [List.any_map, List.any_eq_true, List.mem_range, not_exists, not_and]
        exact fun j hj h => hnan j hj ((hval j).2.2.2.mp h)
      rw [if_neg hnone] at hblk
      set E := blockE1 ((List.range 32).map v) with hE
      have hE1 : E1 = E := by simp only [E1, hblk]
      have hE0 : E0 = blockE0 sp E := by simp only [E0, hblk]
      have hat {j : Nat} (hj : j < 32) : at_ j = bfpQuant b4 E0 E1 (v j) := by
        rw [hE0, hE1]
        simp only [at_, hblk]
        rw [List.getD_eq_getElem _ _ (by simpa using hj)]
        simp
      have hinf {j : Nat} (hj : j < 32) (h : ¬fin j) : magOf (v j) = none := by
        have hex : f32.ex (X j) = 255 := not_not.mp h
        exact (hval j).2.1 hex (by_contra fun hfr => hnan j hj ⟨hex, hfr⟩)
      have hE254 {j : Nat} (hj : j < 32) (h : ¬fin j) : E1 = 254 :=
        hE1.trans (blockE1_none (List.mem_map_of_mem (List.mem_range.mpr hj)) (hinf hj h))
      refine ⟨fun hfin => ?_, fun ⟨j, hj, h⟩ => hE254 hj h, fun L hlt hle => ?_, ?_, fun j hj => ⟨fun h => ?_, fun h => ?_⟩⟩
      · rw [hE1]
        exact blockE1_zero v fun j hj => (hfin j hj).2 ▸ (hval j).1 (hfin j hj).1
      · rw [hE1]
        exact blockE1_eq v mag (fun j hj => (hval j).1 (hlt j hj).1) L (fun j hj => (hlt j hj).2) hle
      · rw [hE0, hE1, blockE0_eq]
      · rw [hat hj, bfpQuant_none (hinf hj h) b4 E0 (by rw [hE254 hj h]; decide), helem, (hval j).2.2.1 (hnan j hj)]
      · obtain ⟨m0, m1, hr0, hr1, hquant⟩ := bfpQuant_fin ((hval j).1 h) b4 E0 E1
        refine ⟨m0, m1, hr0, hr1, ?_⟩
        rw [hat hj, hquant, (hval j).2.2.1 (hnan j hj), helem, helem, helem]
    · obtain ⟨hcanon, hfin⟩ := bfpTo_spec hf b4 hm (show (if sel then e1 else e0) < 256 by split <;> assumption)
        (bfpFields_el b4 sel s hm e0 e1)
      refine ⟨hcanon, fun hne => ?_⟩
      obtain ⟨hlt, hex, hneg, hrat⟩ := hfin hne
      have hsign := (Fmt.neg_eq (Fmt.sound_of_vector (hf.imp_right .inl)) hlt).symm.trans hneg
      refine ⟨hlt, hex, ⟨fun h => hsign.symm.trans (decide_eq_true h), fun h => of_decide_eq_true (hsign.trans h)⟩,
        hrat.trans (if_congr Iff.rfl rfl ?_)⟩
      cases s <;> simp [c]

end Sys2Proof.Machine
end

section
/-! PROOFS. The values of the operations of class 3, said of rational numbers (R131, R132, R218 to R220, R222). -/

namespace Sys2Proof.Machine

/-! ### Sums (R131, R219) -/

/-- A finite term: its sign and fraction. -/
abbrev Term := Bool × Nat × Nat

/-- The number of a finite term. -/
def Term.rat (x : Term) : ℚ := signed x.1 (x.2.1 / x.2.2)

/-- The fraction that a sum of terms is formed as. -/
def fracSum (acc : Int × Nat) (ts : List Term) : Int × Nat :=
  ts.foldl (fun acc x => (acc.1 * x.2.2 + (if x.1 then -(x.2.1 : Int) else x.2.1) * acc.2, acc.2 * x.2.2)) acc

theorem fracSum_spec (ts : List Term) (acc : Int × Nat) (hacc : 0 < acc.2) (hts : ∀ x ∈ ts, 0 < x.2.2) :
    0 < (fracSum acc ts).2 ∧ ((fracSum acc ts).1 : ℚ) / (fracSum acc ts).2 = acc.1 / acc.2 + (ts.map Term.rat).sum := by
  induction ts generalizing acc with
  | nil => exact ⟨hacc, by simp [fracSum]⟩
  | cons x ts ih =>
    have hx : 0 < x.2.2 := hts x List.mem_cons_self
    have hxq : (x.2.2 : ℚ) ≠ 0 := Nat.cast_ne_zero.mpr hx.ne'
    have haq : (acc.2 : ℚ) ≠ 0 := Nat.cast_ne_zero.mpr hacc.ne'
    obtain ⟨hpos, hsum⟩ := ih (acc.1 * x.2.2 + (if x.1 then -(x.2.1 : Int) else x.2.1) * acc.2, acc.2 * x.2.2) (Nat.mul_pos hacc hx)
      fun y hy => hts y (List.mem_cons_of_mem _ hy)
    refine ⟨hpos, hsum.trans ?_⟩
    rw [List.map_cons, List.sum_cons, ← add_assoc]
    congr 1
    rw [Term.rat]
    cases x.1 <;> simp only [signed_true, signed_false, if_true, Bool.false_eq_true, if_false] <;> push_cast <;> field_simp

theorem sumFV_fin (rm : Rnd) (ts : List Term) :
    sumFV rm (ts.map fun x => .fin x.1 x.2.1 x.2.2) =
      let r := fracSum (0, 1) ts
      if r.1 = 0 then (.fin (if ts.any (·.1) then ts.all (·.1) || rm == .rdn else false) 0 1, 0) else (.fin (r.1 < 0) r.1.natAbs r.2, 0) := by
  have hany (p : FV → Bool) (hp : ∀ s n d, p (.fin s n d) = false) : (ts.map fun x => FV.fin x.1 x.2.1 x.2.2).any p = false := by
    simp [hp]
  rw [sumFV, hany _ fun _ _ _ => rfl, hany _ fun _ _ _ => rfl, hany _ fun _ _ _ => rfl]
  simp only [Bool.false_eq_true, if_false, Bool.and_false, List.foldl_map, List.all_map, List.any_map]
  rfl

/-- The sum of finite terms, with the sign of a zero. -/
theorem sumFV_spec (rm : Rnd) (ts : List Term) (hne : ts ≠ []) (hts : ∀ x ∈ ts, 0 < x.2.2) :
    ∃ s n d, sumFV rm (ts.map fun x => .fin x.1 x.2.1 x.2.2) = (.fin s n d, 0) ∧ 0 < d ∧ signed s (n / d) = (ts.map Term.rat).sum ∧
      ((ts.map Term.rat).sum = 0 → (s = true ↔ (∀ x ∈ ts, x.1 = true) ∨ rm = .rdn ∧ ∃ x ∈ ts, x.1 = true)) := by
  obtain ⟨hpos, hsum⟩ := fracSum_spec ts (0, 1) one_pos hts
  rw [Int.cast_zero, zero_div, zero_add] at hsum
  have hpq : ((fracSum (0, 1) ts).2 : ℚ) ≠ 0 := Nat.cast_ne_zero.mpr hpos.ne'
  rw [sumFV_fin, ← hsum]
  by_cases h0 : (fracSum (0, 1) ts).1 = 0
  · refine ⟨_, 0, 1, if_pos h0, one_pos, by simp [h0], fun _ => ?_⟩
    obtain ⟨y, hy⟩ := List.exists_mem_of_ne_nil ts hne
    by_cases hany : ts.any (·.1) = true
    · rw [if_pos hany, Bool.or_eq_true, beq_iff_eq, List.all_eq_true]
      rw [List.any_eq_true] at hany
      exact or_congr Iff.rfl (iff_self_and.mpr fun _ => hany)
    · rw [if_neg hany]
      rw [List.any_eq_true] at hany
      exact iff_of_false Bool.false_ne_true fun h => h.elim (fun h => hany ⟨y, hy, h y hy⟩) fun h => hany h.2
  · refine ⟨_, _, _, if_neg h0, hpos, ?_, fun hzero => ?_⟩
    · rcases lt_or_gt_of_ne h0 with h | h
      · rw [decide_eq_true h, signed_true, ← neg_div, Nat.cast_natAbs, abs_of_neg h, Int.cast_neg, neg_neg]
      · rw [decide_eq_false (not_lt.mpr h.le), signed_false, Nat.cast_natAbs, abs_of_pos h]
    · exact absurd (Int.cast_eq_zero.mp ((div_eq_zero_iff.mp hzero).resolve_right hpq)) h0

/-! ### Operands -/

section
variable {f : Fmt} (hs : f.Sound)
include hs

/-- An operand is read as zero that is a zero, or subnormal under ftz. -/
theorem Fmt.read_eq_zero_iff {z : Bool} {x : Nat} (hx : x < 2 ^ f.w) : f.read z x = 0 ↔ f.ex x = 0 ∧ (f.fr x = 0 ∨ z = true) := by
  have hpow : (2 : ℚ) ^ ((max (f.ex x) 1 : ℕ) - f.bias - f.fb : ℤ) ≠ 0 := zpow_ne_zero _ two_ne_zero
  have hrat : f.rat x = 0 ↔ f.ex x = 0 ∧ f.fr x = 0 := by
    rw [Fmt.rat_eq hs hx, signed_eq_zero, mul_eq_zero_iff_right hpow, Nat.cast_eq_zero, Fmt.sig]
    split
    next hex => exact (and_iff_right hex).symm
    next hex => exact iff_of_false (Nat.add_pos_left (Nat.two_pow_pos _) _).ne' fun h => hex h.1
  rw [Fmt.read]
  by_cases hflush : z = true ∧ f.ex x = 0
  · rw [if_pos hflush]
    exact iff_of_true rfl ⟨hflush.2, .inr hflush.1⟩
  · rw [if_neg hflush, hrat]
    exact and_congr_right fun hex => (or_iff_left fun hz => hflush ⟨hz, hex⟩).symm

/-- The pattern that an operand is read as. -/
theorem Fmt.flushIn_eq_ite {z : Bool} {x : Nat} (hx : x < 2 ^ f.w) :
    f.flushIn z x = if z = true ∧ f.ex x = 0 then x - x % 2 ^ (f.w - 1) else x := by
  have hsplit := Fmt.sign_add_low hs hx
  have hsign : f.zeroPat (f.neg x) = x - x % 2 ^ (f.w - 1) := by
    rw [Fmt.zeroPat]
    omega
  by_cases hflush : z = true ∧ f.ex x = 0
  · obtain ⟨rfl, hex⟩ := hflush
    rw [if_pos ⟨rfl, hex⟩, ← hsign, Fmt.flushIn]
    by_cases hsub : f.isSub x = true
    · rw [if_pos (by rw [hsub]; rfl)]
    · rw [if_neg (by simpa using hsub)]
      refine (Fmt.zeroPat_of_isZero hs hx (Fmt.isZero_iff.mpr ⟨hex, ?_⟩)).symm
      by_contra hfr
      exact hsub (Fmt.isSub_iff.mpr ⟨hex, hfr⟩)
  · rw [if_neg hflush, Fmt.flushIn, if_neg fun h => hflush ?_]
    rw [Bool.and_eq_true, Fmt.isSub_iff] at h
    exact ⟨h.1, h.2.1⟩

theorem Fmt.key_eq {x : Nat} (hx : x < 2 ^ f.w) :
    f.key x = if decide (2 ^ (f.w - 1) ≤ x) = true then -((x % 2 ^ (f.w - 1) : ℕ) : ℤ) - 1 else ((x % 2 ^ (f.w - 1) : ℕ) : ℤ) := by
  rw [Fmt.key, Fmt.neg_eq hs hx]

/-! ### Quotients and inverses -/

theorem Fmt.div_rounded {rm : Rnd} {z : Bool} {A B : Nat} (hA : A < 2 ^ f.w) (hB : B < 2 ^ f.w) (hfA : f.ex A ≠ f.emax) (hfB : f.ex B ≠ f.emax)
    (hB0 : f.read z B ≠ 0) : f.rounded rm z (f.neg A ^^ f.neg B) (f.read z A / f.read z B) (f.div rm z A B) := by
  obtain ⟨n, d, hval, hd, hread⟩ := Fmt.val_fin hs (z := z) hA hfA
  obtain ⟨m, e, hval', he, hread'⟩ := Fmt.val_fin hs (z := z) hB hfB
  have hm : m ≠ 0 := by
    rintro rfl
    exact hB0 (by rw [← hread', Nat.cast_zero, zero_div, signed_zero])
  have hdiv : f.div rm z A B = f.round rm z (f.neg A ^^ f.neg B) (n * e) (d * m) := by
    simp only [Fmt.div, hval, hval', if_neg hm]
  have hfrac : ((n * e : ℕ) : ℚ) / (d * m : ℕ) = n / d / (m / e) := by
    rw [div_div_div_eq, Nat.cast_mul, Nat.cast_mul]
  rw [hdiv, ← hread, ← hread', div_eq_mul_inv (signed _ _), signed_inv, signed_mul, ← div_eq_mul_inv, ← hfrac]
  exact Fmt.round_rounded hs rm z _ (n * e) (Nat.mul_pos hd (Nat.pos_of_ne_zero hm))

theorem Fmt.rcp_rounded {z : Bool} {A : Nat} (hA : A < 2 ^ f.w) (hfA : f.ex A ≠ f.emax) (hA0 : f.read z A ≠ 0) :
    f.rounded .rne z (f.neg A) (f.read z A)⁻¹ (f.rcp z A) := by
  obtain ⟨n, d, hval, hd, hread⟩ := Fmt.val_fin hs (z := z) hA hfA
  have hn : n ≠ 0 := by
    rintro rfl
    exact hA0 (by rw [← hread, Nat.cast_zero, zero_div, signed_zero])
  have hrcp : f.rcp z A = f.round .rne z (f.neg A) d n := by simp only [Fmt.rcp, hval, if_neg hn]
  rw [hrcp, ← hread, signed_inv, inv_div]
  exact Fmt.round_rounded hs .rne z _ d (Nat.pos_of_ne_zero hn)

omit hs in
/-- A quotient of zero is a zero. -/
theorem Fmt.rounded_zero {rm : Rnd} {z s : Bool} {r : FR} (h : f.rounded rm z s 0 r) : r = ⟨f.zeroPat s, 0⟩ := h.1 rfl

/-! ### Minimum, maximum, sign and class (R220) -/

theorem Fmt.minmax_eq {mx np z : Bool} {A B : Nat} (hA : A < 2 ^ f.w) (hB : B < 2 ^ f.w) :
    f.minmax mx np z A B =
      ⟨if f.isNaN A = true ∧ f.isNaN B = true ∨ np = true ∧ (f.isNaN A = true ∨ f.isNaN B = true) then f.canon
        else if f.isNaN A = true then f.flushIn z B else if f.isNaN B = true then f.flushIn z A
        else if (if mx then f.key (f.flushIn z A) < f.key (f.flushIn z B) else f.key (f.flushIn z B) < f.key (f.flushIn z A)) then f.flushIn z B
        else f.flushIn z A, nvIf (f.isSNaN A || f.isSNaN B)⟩ := by
  simp only [Fmt.minmax, Fmt.flushIn_isNaN hs hA, Fmt.flushIn_isNaN hs hB, Fmt.flushIn_isSNaN hs hA, Fmt.flushIn_isSNaN hs hB]
  cases f.isNaN A <;> cases f.isNaN B <;> cases np <;> cases mx <;> simp [nvIf, fNV]

/-- The class of an operand that is not flushed. -/
theorem Fmt.class_spec {z : Bool} {A : Nat} (hA : A < 2 ^ f.w) :
    ∃ k < 10, f.class z A = 2 ^ k ∧
      (f.isNaN A = true → k = if f.isSNaN A then 8 else 9) ∧
      (f.isInf A = true → k = if f.neg A then 0 else 7) ∧
      (f.ex A = 0 → f.fr A = 0 ∨ z = true → k = if f.neg A then 3 else 4) ∧
      (f.ex A = 0 → ¬(f.fr A = 0 ∨ z = true) → k = if f.neg A then 2 else 5) ∧
      (f.ex A ≠ f.emax → f.ex A ≠ 0 → k = if f.neg A then 1 else 6) := by
  have hemax := hs.emax_ne_zero
  obtain ⟨hlt, hneg, hlow⟩ := Fmt.flushIn_fields hs (z := z) hA
  set y := f.flushIn z A with hy
  have hnan : f.isNaN y = f.isNaN A := Fmt.flushIn_isNaN hs hA
  have hsnan : f.isSNaN y = f.isSNaN A := Fmt.flushIn_isSNaN hs hA
  refine ⟨_, ?_, rfl, ?_⟩
  · split_ifs <;> decide
  · rw [← hy, hnan, hsnan, hneg]
    by_cases hex : f.ex A = 0
    · have hnotnan : f.isNaN A = false := by simp [Fmt.isNaN, hex, hemax.symm]
      have hnotinf : f.isInf A = false := by simp [Fmt.isInf, hex, hemax.symm]
      have hexy : f.ex y = 0 := by
        rw [← Fmt.low_div hs, hlow]
        split
        · exact Nat.zero_div _
        · rw [Fmt.low_div hs, hex]
      have hinfy : f.isInf y = false := by simp [Fmt.isInf, hexy, hemax.symm]
      have hzero : f.isZero y = true ↔ f.fr A = 0 ∨ z = true := by
        rw [Fmt.isZero_iff_low hs, hlow]
        have hlowA := Fmt.low_eq hs A
        rw [hex, Nat.zero_mul, Nat.zero_add] at hlowA
        rw [hlowA]
        by_cases hfr : f.fr A = 0
        · simp [hfr]
        · have : f.isSub A = true := Fmt.isSub_iff.mpr ⟨hex, hfr⟩
          simp [this, hfr]
      have hsub : f.isZero y = false → f.isSub y = true := fun h => by
        refine Fmt.isSub_iff.mpr ⟨hexy, fun hfr => ?_⟩
        exact absurd (Fmt.isZero_iff.mpr ⟨hexy, hfr⟩) (by simp [h])
      simp only [hnotnan, hnotinf, hinfy, hex, ← hzero]
      cases hz : f.isZero y
      · cases f.neg A <;> simp [hsub hz]
      · cases f.neg A <;> simp
    · have hsubA : f.isSub A = false := by simp [Fmt.isSub, hex]
      have hyA : y = A := Fmt.flushIn_of_not_sub hsubA
      have hzeroA : f.isZero A = false := by simp [Fmt.isZero, hex]
      rw [hyA]
      simp only [hex, hzeroA, hsubA]
      by_cases hfin : f.ex A = f.emax
      · by_cases hfr : f.fr A = 0
        · simp [Fmt.isNaN, Fmt.isInf, hfin, hfr]
        · simp [Fmt.isNaN, Fmt.isInf, hfin, hfr]
      · simp [Fmt.isNaN, Fmt.isInf, hfin]

end

end Sys2Proof.Machine
end

section
/-! PROOFS. Square roots and their inverses (R219, R222). -/

namespace Sys2Proof.Machine

/-! ### The integer root -/

theorem isqrtGo_spec (n k r : Nat) (hlo : r * r ≤ n) (hhi : n < (r + 2 ^ (k + 1)) * (r + 2 ^ (k + 1))) :
    isqrtGo n k r * isqrtGo n k r ≤ n ∧ n < (isqrtGo n k r + 1) * (isqrtGo n k r + 1) := by
  induction k generalizing r with
  | zero =>
    rw [isqrtGo]
    split
    next h => exact ⟨h, hhi⟩
    next h => exact ⟨hlo, not_le.mp h⟩
  | succ k ih =>
    rw [isqrtGo]
    split
    next h =>
      refine ih _ h ?_
      rwa [Nat.add_assoc, ← Nat.two_mul, ← pow_succ']
    next h => exact ih _ hlo (not_le.mp h)

theorem isqrt_eq (n : Nat) : isqrt n = Nat.sqrt n := by
  refine Nat.eq_sqrt.mpr (isqrtGo_spec n _ 0 (Nat.zero_le n) ?_)
  calc n < 2 ^ (Nat.log2 n + 1) := Nat.lt_log2_self
    _ ≤ 2 ^ ((Nat.log2 n / 2 + 2) + (Nat.log2 n / 2 + 2)) := Nat.pow_le_pow_right two_pos (by omega)
    _ = _ := by rw [pow_add, Nat.zero_add]

/-! ### A number that lies among the integers as a root does -/

/-- σ lies among the natural numbers as the root of X does. -/
def RootLike (σ X : ℚ) : Prop := ∀ N : Nat, ((N : ℚ) ≤ σ ↔ (N : ℚ) ^ 2 ≤ X) ∧ (σ ≤ N ↔ X ≤ (N : ℚ) ^ 2)

theorem RootLike.lt_iff {σ X : ℚ} (h : RootLike σ X) (N : Nat) : ((N : ℚ) < σ ↔ (N : ℚ) ^ 2 < X) ∧ (σ < N ↔ X < (N : ℚ) ^ 2) := by
  rw [← not_le, ← not_le, ← not_le, ← not_le, (h N).1, (h N).2]
  exact ⟨Iff.rfl, Iff.rfl⟩

/-- The root that rounding is given: with a last bit that keeps it inexact. -/
theorem rootSticky_spec {num den : Nat} (hd : 0 < den) (p : Nat) :
    ∃ σ : ℚ, RootLike σ ((num : ℚ) / den * 4 ^ p) ∧ 0 < (rootSticky num den p).2 ∧
      ((rootSticky num den p).1 : ℚ) / (rootSticky num den p).2 = σ / 2 ^ p := by
  have hdq : (0 : ℚ) < den := Nat.cast_pos.mpr hd
  have hX : (num : ℚ) / den * 4 ^ p = (num * 4 ^ p : ℕ) / den := by push_cast; ring
  have hcast := cast_div_eq (num * 4 ^ p) hd
  rw [← hX] at hcast
  set n := num * 4 ^ p / den with hn
  set ρ := num * 4 ^ p % den with hρ
  have hfrac : (ρ : ℚ) / den < 1 := by rw [div_lt_one hdq]; exact_mod_cast Nat.mod_lt _ hd
  have hlo : Nat.sqrt n * Nat.sqrt n ≤ n := Nat.sqrt_le n
  have hhi : n < (Nat.sqrt n + 1) * (Nat.sqrt n + 1) := Nat.lt_succ_sqrt n
  set r := Nat.sqrt n with hr
  have hhi' : ((n + 1 : ℕ) : ℚ) ≤ ((r : ℚ) + 1) ^ 2 := by rw [pow_two]; exact_mod_cast hhi
  have h2 : (0 : ℚ) < 2 ^ p := pow_pos two_pos p
  have hpos : 0 < 2 * 2 ^ p := Nat.mul_pos two_pos (Nat.two_pow_pos p)
  by_cases hexact : r * r = n ∧ ρ = 0
  · have hroot : rootSticky num den p = (2 * r, 2 * 2 ^ p) := by
      simp only [rootSticky, isqrt_eq, ← hn, ← hρ, ← hr, hexact.1, hexact.2, decide_true, beq_self_eq_true, Bool.and_self, if_true]
    have hXr : (num : ℚ) / den * 4 ^ p = (r : ℚ) ^ 2 := by
      rw [hcast, hexact.2, Nat.cast_zero, zero_div, add_zero, ← hexact.1, Nat.cast_mul, pow_two]
    refine ⟨r, fun N => ?_, by rw [hroot]; exact hpos, ?_⟩
    · rw [hXr]
      exact ⟨(pow_le_pow_iff_left₀ (Nat.cast_nonneg N) (Nat.cast_nonneg r) two_ne_zero).symm,
        (pow_le_pow_iff_left₀ (Nat.cast_nonneg r) (Nat.cast_nonneg N) two_ne_zero).symm⟩
    · rw [hroot]
      push_cast
      exact mul_div_mul_left _ _ two_ne_zero
  · have hroot : rootSticky num den p = (2 * r + 1, 2 * 2 ^ p) := by
      simp only [rootSticky, isqrt_eq, ← hn, ← hρ, ← hr]
      rw [if_neg (by simpa using hexact)]
    have hXlo : (r : ℚ) ^ 2 < (num : ℚ) / den * 4 ^ p := by
      rw [hcast]
      have hle : (r : ℚ) ^ 2 ≤ n := by rw [pow_two]; exact_mod_cast hlo
      have hρ0 : (0 : ℚ) ≤ ρ / den := by positivity
      rcases lt_or_eq_of_le hle with h | h
      · linarith
      · have hne : ρ ≠ 0 := fun h0 => hexact ⟨by rw [pow_two] at h; exact_mod_cast h, h0⟩
        have : (0 : ℚ) < ρ / den := div_pos (Nat.cast_pos.mpr (Nat.pos_of_ne_zero hne)) hdq
        linarith
    have hXhi : (num : ℚ) / den * 4 ^ p < ((r + 1 : ℕ) : ℚ) ^ 2 := by
      rw [hcast]
      push_cast at hhi' ⊢
      linarith
    have hle_iff (N : Nat) : (N : ℚ) ≤ r + 1 / 2 ↔ N ≤ r :=
      ⟨fun h => by
        have : (N : ℚ) < (r + 1 : ℕ) := by push_cast; linarith
        exact Nat.lt_succ_iff.mp (Nat.cast_lt.mp this),
       fun h => by
        have : (N : ℚ) ≤ r := Nat.cast_le.mpr h
        linarith⟩
    have hsq {a b : Nat} (h : a ≤ b) : (a : ℚ) ^ 2 ≤ (b : ℚ) ^ 2 := pow_le_pow_left₀ (Nat.cast_nonneg a) (Nat.cast_le.mpr h) 2
    refine ⟨r + 1 / 2, fun N => ⟨?_, ?_⟩, by rw [hroot]; exact hpos, ?_⟩
    · rw [hle_iff]
      refine ⟨fun h => (hsq h).trans hXlo.le, fun h => ?_⟩
      by_contra hlt
      exact absurd (h.trans_lt hXhi) (not_lt.mpr (hsq (not_le.mp hlt)))
    · rw [← not_lt, ← not_lt (b := _ * _), not_iff_not]
      have hlt_iff : (N : ℚ) < r + 1 / 2 ↔ N ≤ r := by
        refine ⟨fun h => (hle_iff N).mp h.le, fun h => ?_⟩
        have : (N : ℚ) ≤ r := Nat.cast_le.mpr h
        linarith
      rw [hlt_iff]
      refine ⟨fun h => (hsq h).trans_lt hXlo, fun h => ?_⟩
      by_contra hlt
      exact absurd (h.trans hXhi) (not_lt.mpr (hsq (not_le.mp hlt)))
    · rw [hroot]
      push_cast
      field_simp

/-! ### Rounding such a number -/

theorem roundsTo_bounds {rm : Rnd} {x : ℚ} {k : ℤ} (h : roundsTo rm x k) : x - 1 ≤ k ∧ (k : ℚ) ≤ x + 1 := by
  cases rm with
  | rne =>
    have := abs_le.mp h.1
    constructor <;> linarith
  | rz =>
    have h : k = if 0 ≤ x then ⌊x⌋ else ⌈x⌉ := h
    subst h
    have h1 := Int.floor_le x
    have h2 := Int.lt_floor_add_one x
    have h3 := Int.le_ceil x
    have h4 := Int.ceil_lt_add_one x
    split <;> constructor <;> linarith
  | rdn =>
    have h : k = ⌊x⌋ := h
    subst h
    have h1 := Int.floor_le x
    have h2 := Int.lt_floor_add_one x
    constructor <;> linarith
  | rup =>
    have h : k = ⌈x⌉ := h
    subst h
    have h3 := Int.le_ceil x
    have h4 := Int.ceil_lt_add_one x
    constructor <;> linarith

/-- What rounding in units of W gives of the root of X. -/
theorem RootLike.rounds {σ X : ℚ} (h : RootLike σ X) {rm : Rnd} {V k : Nat} (hV : 0 < V) (hk : 1 < k)
    (hround : roundsTo rm (σ / (2 * V : ℕ)) k) (htie : ∀ o : Nat, o % 2 = 1 → k < o → ((o : ℚ) / 2) ^ 2 ≠ X / ((2 * V : ℕ) : ℚ) ^ 2) :
    (match (motive := Rnd → Prop) rm with
      | .rne => ((k : ℚ) - 1 / 2) ^ 2 < X / ((2 * V : ℕ) : ℚ) ^ 2 ∧ X / ((2 * V : ℕ) : ℚ) ^ 2 < ((k : ℚ) + 1 / 2) ^ 2
      | .rup => ((k : ℚ) - 1) ^ 2 < X / ((2 * V : ℕ) : ℚ) ^ 2 ∧ X / ((2 * V : ℕ) : ℚ) ^ 2 ≤ (k : ℚ) ^ 2
      | _ => (k : ℚ) ^ 2 ≤ X / ((2 * V : ℕ) : ℚ) ^ 2 ∧ X / ((2 * V : ℕ) : ℚ) ^ 2 < ((k : ℚ) + 1) ^ 2) ∧
      ((k : ℚ) ^ 2 = X / ((2 * V : ℕ) : ℚ) ^ 2 ↔ (k : ℚ) = σ / (2 * V : ℕ)) := by
  have hW : (0 : ℚ) < (2 * V : ℕ) := Nat.cast_pos.mpr (by omega)
  have hW2 : (0 : ℚ) < ((2 * V : ℕ) : ℚ) ^ 2 := pow_pos hW 2
  have hnat (a : ℚ) (N : Nat) (ha : (N : ℚ) = a * (2 * V : ℕ)) : (a ^ 2 ≤ X / ((2 * V : ℕ) : ℚ) ^ 2 ↔ a ≤ σ / (2 * V : ℕ)) ∧
      (X / ((2 * V : ℕ) : ℚ) ^ 2 ≤ a ^ 2 ↔ σ / (2 * V : ℕ) ≤ a) := by
    rw [le_div_iff₀ hW2, div_le_iff₀ hW2, le_div_iff₀ hW, div_le_iff₀ hW, ← mul_pow, ← ha]
    exact ⟨(h N).1.symm, (h N).2.symm⟩
  have hint (j : Nat) := hnat j (j * (2 * V)) (by push_cast; ring)
  have hhalf (j : Nat) := hnat (j / 2 : ℚ) (j * V) (by push_cast; ring)
  have hsub : ((k : ℚ) - 1) = (k - 1 : ℕ) := by rw [Nat.cast_sub hk.le, Nat.cast_one]
  have hdown (hfloor : ⌊σ / (2 * V : ℕ)⌋ = (k : ℤ)) :
      (k : ℚ) ^ 2 ≤ X / ((2 * V : ℕ) : ℚ) ^ 2 ∧ X / ((2 * V : ℕ) : ℚ) ^ 2 < ((k : ℚ) + 1) ^ 2 := by
    obtain ⟨h1, h2⟩ := Int.floor_eq_iff.mp hfloor
    rw [Int.cast_natCast] at h1 h2
    refine ⟨(hint k).1.mpr h1, not_le.mp ?_⟩
    rw [← Nat.cast_succ, (hint _).1, not_le, Nat.cast_succ]
    exact h2
  have hnonneg : 0 ≤ σ / (2 * V : ℕ) := by
    have hk' : (1 : ℚ) < k := by exact_mod_cast hk
    have := (roundsTo_bounds hround).2
    rw [Int.cast_natCast] at this
    linarith
  refine ⟨?_, by rw [le_antisymm_iff, (hint k).1, (hint k).2, ← le_antisymm_iff]⟩
  cases rm with
  | rne =>
    have habs := abs_le.mp hround.1
    rw [Int.cast_natCast] at habs
    have hlo : ((k : ℚ) - 1 / 2) = (2 * k - 1 : ℕ) / 2 := by rw [Nat.cast_sub (by omega)]; push_cast; ring
    have hhi : ((k : ℚ) + 1 / 2) = (2 * k + 1 : ℕ) / 2 := by push_cast; ring
    refine ⟨lt_of_le_of_ne ?_ ?_, lt_of_le_of_ne ?_ ?_⟩
    · rw [hlo, (hhalf _).1, ← hlo]
      linarith
    · rw [hlo]
      exact htie _ (by omega) (by omega)
    · rw [hhi, (hhalf _).2, ← hhi]
      linarith
    · rw [hhi]
      exact (htie _ (by omega) (by omega)).symm
  | rup =>
    have hround : (k : ℤ) = ⌈σ / (2 * V : ℕ)⌉ := hround
    have hceil := Int.ceil_eq_iff.mp hround.symm
    rw [Int.cast_natCast] at hceil
    refine ⟨not_le.mp ?_, (hint k).2.mpr hceil.2⟩
    rw [hsub, (hint _).2, not_le, ← hsub]
    exact hceil.1
  | rz =>
    have hround : (k : ℤ) = if 0 ≤ σ / (2 * V : ℕ) then ⌊σ / (2 * V : ℕ)⌋ else ⌈σ / (2 * V : ℕ)⌉ := hround
    exact hdown (hround.trans (if_pos hnonneg)).symm
  | rdn =>
    have hround : (k : ℤ) = ⌊σ / (2 * V : ℕ)⌋ := hround
    exact hdown hround.symm

theorem four_zpow (n : ℤ) : (4 : ℚ) ^ n = 2 ^ (2 * n) := by
  rw [zpow_mul]
  norm_num

/-- The root lies between the powers of two whose squares x lies between. -/
theorem RootLike.bounds {σ x : ℚ} (h : RootLike σ (x * 4 ^ 256)) {e : ℤ} (he : (4 : ℚ) ^ e ≤ x) (he' : x < 4 ^ (e + 1)) (he256 : -256 ≤ e) :
    (2 : ℚ) ^ e ≤ σ / 2 ^ 256 ∧ σ / 2 ^ 256 < 2 ^ (e + 1) := by
  obtain ⟨n, hn⟩ := Int.eq_ofNat_of_zero_le (show 0 ≤ e + 256 by omega)
  have hpow (i : Nat) {j : ℤ} (hj : j = e + i) : ((2 ^ (n + i) : ℕ) : ℚ) = 2 ^ j * 2 ^ 256 := by
    rw [Nat.cast_pow, Nat.cast_ofNat, ← zpow_natCast, ← zpow_natCast (2 : ℚ) 256, ← zpow_add₀ two_ne_zero]
    congr 1
    push_cast
    omega
  have hsq (i : Nat) {j : ℤ} (hj : j = e + i) : ((2 ^ (n + i) : ℕ) : ℚ) ^ 2 = 4 ^ j * 4 ^ 256 := by
    rw [hpow i hj, mul_pow, ← zpow_natCast, ← zpow_mul, four_zpow, mul_comm (2 : ℤ)]
    norm_num
  have h256 : (0 : ℚ) < 4 ^ 256 := pow_pos four_pos 256
  rw [le_div_iff₀ (pow_pos two_pos 256), div_lt_iff₀ (pow_pos two_pos 256), ← hpow 0 (by simp), ← hpow 1 (j := e + 1) (by simp)]
  refine ⟨(h _).1.mpr ?_, (h.lt_iff _).2.mpr ?_⟩
  · rw [hsq 0 (j := e) (by simp)]
    exact mul_le_mul_of_nonneg_right he h256.le
  · rw [hsq 1 (j := e + 1) (by simp)]
    exact mul_lt_mul_of_pos_right he' h256

/-- x is an odd square in no binary place: its root lies on no middle between two numbers of a format. -/
def NoOddSquare (x : ℚ) : Prop := ∀ o : Nat, o % 2 = 1 → 2 ^ 12 < o → ∀ m : ℤ, (o : ℚ) ^ 2 ≠ x * 2 ^ m

/-- Rounding of a positive number that no result of FP32 near it is subnormal or too large for: to 24 bits. -/
theorem rounded_normal {rm : Rnd} {z : Bool} {x : ℚ} {r : FR} (h : f32.rounded rm z false x r) {e : ℤ} (he : (2 : ℚ) ^ e ≤ x) (he' : x < 2 ^ (e + 1))
    (hlo : -75 ≤ e) (hhi : e ≤ 75) :
    ∃ k : Nat, 2 ^ 22 ≤ k ∧ roundsTo rm (x / 2 ^ (e - 23)) k ∧ r.pat < 2 ^ 31 ∧ f32.rat r.pat = k * 2 ^ (e - 23) ∧
      r.fl = if (k : ℚ) * 2 ^ (e - 23) = x then 0 else fNX := by
  have hone := one_lt_two (α := ℚ)
  have hxpos : 0 < x := lt_of_lt_of_le (zpow_pos two_pos e) he
  obtain ⟨e', k, k', hlo', hhi', hround, hround', -, hcase⟩ := h.2 hxpos.ne'
  rw [abs_of_pos hxpos] at hlo' hhi'
  obtain rfl := zpow_exponent_unique he he' hlo' hhi'
  have hq : max e ((1 : ℤ) - f32.bias) - f32.fb = e - 23 := by
    rw [show (f32.bias : ℤ) = 127 from rfl, show (f32.fb : ℤ) = 23 from rfl]
    omega
  have hq' : e - (f32.fb : ℤ) = e - 23 := rfl
  simp only [hq, hq'] at hround hround' hcase
  have hqpos : (0 : ℚ) < 2 ^ (e - 23) := zpow_pos two_pos _
  have hpow (n : Nat) : (2 : ℚ) ^ n * 2 ^ (e - 23) = 2 ^ (e - 23 + n) := by rw [← zpow_natCast, ← zpow_add₀ two_ne_zero, add_comm]
  have hylo : (2 : ℚ) ^ 23 ≤ x / 2 ^ (e - 23) := by
    rw [le_div_iff₀ hqpos, hpow, Nat.cast_ofNat, sub_add_cancel]
    exact he
  have hyhi : x / 2 ^ (e - 23) < 2 ^ 24 := by
    rw [div_lt_iff₀ hqpos, hpow, show e - 23 + (24 : ℕ) = e + 1 by push_cast; ring]
    exact he'
  have hrange {j : ℤ} (hj : roundsTo rm (x / 2 ^ (e - 23)) j) : (2 : ℤ) ^ 22 ≤ j ∧ j ≤ 2 ^ 25 := by
    obtain ⟨h1, h2⟩ := roundsTo_bounds hj
    have h1' : ((2 ^ 22 : ℤ) : ℚ) ≤ j := by push_cast; linarith
    have h2' : (j : ℚ) ≤ (2 ^ 25 : ℤ) := by push_cast; linarith
    exact ⟨Int.cast_le.mp h1', Int.cast_le.mp h2'⟩
  have hleast {j : ℤ} (hj : (2 : ℤ) ^ 22 ≤ j) : ¬|(j : ℚ) * 2 ^ (e - 23)| < 2 ^ ((1 : ℤ) - f32.bias) := by
    have hj' : (1 : ℚ) ≤ j := by exact_mod_cast (show (1 : ℤ) ≤ j by omega)
    rw [abs_of_pos (mul_pos (zero_lt_one.trans_le hj') hqpos), not_lt]
    calc (2 : ℚ) ^ ((1 : ℤ) - f32.bias) ≤ 2 ^ (e - 23) := zpow_le_zpow_right₀ hone.le (by rw [show (f32.bias : ℤ) = 127 from rfl]; omega)
      _ ≤ j * 2 ^ (e - 23) := le_mul_of_one_le_left hqpos.le hj'
  obtain ⟨hklo, hkhi⟩ := hrange hround
  have htop : ¬(2 ^ (f32.fb + 1) - 1) * (2 : ℚ) ^ ((f32.bias : ℤ) - f32.fb) < |(k : ℚ) * 2 ^ (e - 23)| := by
    have hk25 : (k : ℚ) ≤ 2 ^ 25 := by exact_mod_cast hkhi
    have hk0 : (0 : ℚ) < k := by exact_mod_cast (show (0 : ℤ) < k by omega)
    rw [abs_of_pos (mul_pos hk0 hqpos), not_lt]
    calc (k : ℚ) * 2 ^ (e - 23) ≤ 2 ^ 25 * 2 ^ (52 : ℤ) :=
          mul_le_mul hk25 (zpow_le_zpow_right₀ hone.le (by omega)) hqpos.le (by norm_num)
      _ ≤ _ := by rw [show (f32.bias : ℤ) = 127 from rfl, show f32.fb = 23 from rfl]; norm_num
  rw [if_neg htop, if_neg fun h => hleast hklo h.2.2, if_neg (hleast (hrange hround').1)] at hcase
  obtain ⟨hlt, hneg, hrat, hfl⟩ := hcase
  obtain ⟨k, rfl⟩ := Int.eq_ofNat_of_zero_le (show 0 ≤ k by omega)
  rw [Int.cast_natCast] at hrat hfl
  rw [Fmt.neg_eq f32_sound hlt] at hneg
  exact ⟨k, by omega, hround, not_le.mp (of_decide_eq_false hneg), hrat, hfl⟩

/-- The rounded root of a number in the range of FP32 and of its inverse. -/
theorem round_rootSticky {num den : Nat} (hd : 0 < den) (hlo : (2 : ℚ) ^ (-150 : ℤ) ≤ num / den) (hhi : (num : ℚ) / den ≤ 2 ^ (150 : ℤ))
    (htie : NoOddSquare ((num : ℚ) / den)) (rm : Rnd) (z : Bool) :
    f32.rootOf rm ((num : ℚ) / den) (f32.round rm z false (rootSticky num den 256).1 (rootSticky num den 256).2) := by
  obtain ⟨σ, hσ, hden, hfrac⟩ := rootSticky_spec (num := num) hd 256
  set x : ℚ := (num : ℚ) / den with hx
  obtain ⟨e, he, he'⟩ := exists_mem_Ico_zpow (lt_of_lt_of_le (zpow_pos two_pos _) hlo) (show (1 : ℚ) < 4 by norm_num)
  have hone := one_lt_two (α := ℚ)
  have he75 : e ≤ 75 := by
    have := (zpow_le_zpow_iff_right₀ hone).mp ((four_zpow e ▸ he).trans hhi)
    omega
  have he75' : -75 ≤ e := by
    have := (zpow_lt_zpow_iff_right₀ hone).mp (hlo.trans_lt (four_zpow (e + 1) ▸ he'))
    omega
  -- The unit of the result's last bit, 2^(e - 23), is a whole number of the units that σ is in.
  obtain ⟨w, hw⟩ := Int.eq_ofNat_of_zero_le (show 0 ≤ 232 + e by omega)
  have hunit : ((2 * 2 ^ w : ℕ) : ℚ) = 2 ^ (233 + e) := by
    rw [← pow_succ', Nat.cast_pow, Nat.cast_ofNat, ← zpow_natCast]
    congr 1
    push_cast
    omega
  have hsquare : x * 4 ^ 256 / ((2 * 2 ^ w : ℕ) : ℚ) ^ 2 = x / 4 ^ (e - 23) := by
    rw [hunit, ← zpow_natCast (4 : ℚ) 256, four_zpow, four_zpow, ← zpow_natCast, ← zpow_mul, div_eq_mul_inv, div_eq_mul_inv, ← zpow_neg,
      ← zpow_neg, mul_assoc, ← zpow_add₀ two_ne_zero]
    congr 2
    push_cast
    ring
  have hscale : σ / 2 ^ 256 / 2 ^ (e - 23) = σ / (2 * 2 ^ w : ℕ) := by
    rw [hunit, div_div, ← zpow_natCast (2 : ℚ) 256, ← zpow_add₀ two_ne_zero]
    congr 2
    push_cast
    ring
  obtain ⟨hσlo, hσhi⟩ := hσ.bounds he he' (by omega)
  have h := Fmt.round_rounded f32_sound rm z false (rootSticky num den 256).1 hden
  rw [signed_false, hfrac] at h
  obtain ⟨k, hk, hround, hlt, hrat, hfl⟩ := rounded_normal h hσlo hσhi he75' he75
  rw [hscale] at hround
  obtain ⟨hmatch, hexact⟩ := hσ.rounds (Nat.two_pow_pos w) (by omega) hround fun o ho hko heq => by
    refine htie o ho (by omega) (2 - 2 * (e - 23)) ?_
    rw [hsquare, four_zpow, div_pow, div_eq_div_iff (by norm_num) (zpow_ne_zero _ two_ne_zero)] at heq
    rw [sub_eq_add_neg, zpow_add₀ two_ne_zero, zpow_neg, ← div_eq_mul_inv, mul_div_assoc', eq_div_iff (zpow_ne_zero _ two_ne_zero), heq]
    norm_num
  rw [hsquare] at hmatch hexact
  refine ⟨e, k, he, he', by omega, ?_, hlt, hrat, ?_⟩
  · rw [Int.cast_natCast]
    cases rm <;> exact hmatch
  · rw [hfl, Int.cast_natCast]
    refine if_congr ?_ rfl rfl
    rw [← eq_div_iff (zpow_pos two_pos _).ne', hscale]
    exact hexact.symm

/-! ### Roots of numbers of the format -/

/-- A number of at most 24 bits, and its inverse, is no odd square of a large number in a binary place. -/
theorem noOddSquare_of_bits {a : Nat} (ha : a < 2 ^ 24) (ha0 : 0 < a) (t : ℤ) : NoOddSquare (a * 2 ^ t) ∧ NoOddSquare (a * 2 ^ t)⁻¹ := by
  have hodd {o : Nat} (ho : o % 2 = 1) : ¬ 2 ∣ o ^ 2 := fun h => by
    have := Nat.prime_two.dvd_of_dvd_pow h
    omega
  have hpos : (0 : ℚ) < a := Nat.cast_pos.mpr ha0
  -- An odd square times a power of two is a natural number only where the power is none below 1.
  refine ⟨fun o ho hbig m h => ?_, fun o ho hbig m h => ?_⟩
  · rw [mul_assoc, ← zpow_add₀ two_ne_zero] at h
    have hbig' : 2 ^ 24 < o ^ 2 := by nlinarith
    rcases Int.le_total 0 (t + m) with hj | hj
    · obtain ⟨j, hj⟩ := Int.eq_ofNat_of_zero_le hj
      rw [hj, zpow_natCast] at h
      have h : o ^ 2 = a * 2 ^ j := by exact_mod_cast h
      cases j with
      | zero => omega
      | succ j => exact hodd ho (h ▸ Dvd.intro_left (a * 2 ^ j) (by rw [pow_succ, mul_assoc]))
    · obtain ⟨j, hj⟩ := Int.exists_eq_neg_ofNat hj
      rw [hj, zpow_neg, zpow_natCast, ← div_eq_mul_inv, eq_div_iff (pow_ne_zero j two_ne_zero)] at h
      have h : o ^ 2 * 2 ^ j = a := by exact_mod_cast h
      have := Nat.le_mul_of_pos_right (o ^ 2) (Nat.two_pow_pos j)
      omega
  · rw [mul_inv, ← zpow_neg, mul_assoc, ← zpow_add₀ two_ne_zero, inv_mul_eq_div, eq_div_iff hpos.ne'] at h
    rcases Int.le_total 0 (-t + m) with hj | hj
    · obtain ⟨j, hj⟩ := Int.eq_ofNat_of_zero_le hj
      rw [hj, zpow_natCast] at h
      have h : o ^ 2 * a = 2 ^ j := by exact_mod_cast h
      obtain ⟨i, -, hi⟩ := (Nat.dvd_prime_pow Nat.prime_two).mp (Dvd.intro _ h)
      cases i with
      | zero => nlinarith
      | succ i => exact hodd ho (hi ▸ Dvd.intro_left (2 ^ i) (pow_succ 2 i).symm)
    · obtain ⟨j, hj⟩ := Int.exists_eq_neg_ofNat hj
      rw [hj, zpow_neg, zpow_natCast, ← one_div, eq_div_iff (pow_ne_zero j two_ne_zero)] at h
      have h : o ^ 2 * a * 2 ^ j = 1 := by exact_mod_cast h
      have := Nat.eq_one_of_mul_eq_one_right (Nat.eq_one_of_mul_eq_one_right h)
      nlinarith

/-- What an FP32 operand other than zero is read as: at most 24 bits in a binary place, within the format's range. -/
theorem f32_read_bits {z : Bool} {A : Nat} (hA : A < 2 ^ 32) (hfin : f32.ex A ≠ 255) (h0 : f32.read z A ≠ 0) :
    ∃ (a : Nat) (t : ℤ), 0 < a ∧ a < 2 ^ 24 ∧ |f32.read z A| = a * 2 ^ t ∧ -149 ≤ t ∧ t ≤ 104 := by
  have hread : f32.read z A = f32.rat A := by
    rw [Fmt.read] at h0 ⊢
    split at h0
    next => exact absurd rfl h0
    next h => exact if_neg h
  have hle : f32.ex A ≤ 255 := Fmt.ex_le A
  rw [hread] at h0 ⊢
  refine ⟨f32.sig A, _, ?_, Fmt.sig_lt A, Fmt.abs_rat f32_sound hA, ?_, ?_⟩
  · rw [← abs_pos, Fmt.abs_rat f32_sound hA] at h0
    exact_mod_cast (mul_pos_iff_of_pos_right (zpow_pos two_pos _)).mp h0
  all_goals
    rw [show (f32.bias : ℤ) = 127 from rfl, show (f32.fb : ℤ) = 23 from rfl]
    omega

/-- FSQRT and FRSQ of a positive number. -/
theorem f32_roots {rm : Rnd} {z : Bool} {A : Nat} (hA : A < 2 ^ 32) (hfin : f32.ex A ≠ 255) (h0 : 0 < f32.read z A) :
    f32.rootOf rm (f32.read z A) (f32.sqrt rm z A) ∧ f32.rootOf .rne (f32.read z A)⁻¹ (f32.rsq z A) := by
  obtain ⟨n, d, hval, hd, hread⟩ := Fmt.val_fin f32_sound (z := z) hA hfin
  have hnonneg : (0 : ℚ) ≤ n / d := by positivity
  have hneg : f32.neg A = false := by
    by_contra h
    rw [Bool.not_eq_false] at h
    rw [← hread, h, signed_true] at h0
    linarith
  rw [hneg, signed_false] at hread
  have hn : n ≠ 0 := by
    rintro rfl
    rw [← hread, Nat.cast_zero, zero_div] at h0
    exact lt_irrefl 0 h0
  obtain ⟨a, t, ha0, ha, habs, htlo, hthi⟩ := f32_read_bits hA hfin h0.ne'
  rw [abs_of_pos h0, ← hread] at habs
  obtain ⟨htie, htie'⟩ := noOddSquare_of_bits ha ha0 t
  rw [← habs] at htie htie'
  have ha1 : (1 : ℚ) ≤ a := by exact_mod_cast ha0
  have ha24 : (a : ℚ) ≤ 2 ^ 24 := by exact_mod_cast ha.le
  have hlo : (2 : ℚ) ^ (-150 : ℤ) ≤ n / d := by
    rw [habs]
    exact (zpow_le_zpow_right₀ one_le_two (by omega)).trans (le_mul_of_one_le_left (zpow_pos two_pos t).le ha1)
  have hhi : (n : ℚ) / d ≤ 2 ^ (150 : ℤ) := by
    rw [habs]
    calc (a : ℚ) * 2 ^ t ≤ 2 ^ 24 * 2 ^ (104 : ℤ) := mul_le_mul ha24 (zpow_le_zpow_right₀ one_le_two hthi) (zpow_pos two_pos t).le (by norm_num)
      _ ≤ _ := by norm_num
  have hpos : (0 : ℚ) < n / d := lt_of_lt_of_le (zpow_pos two_pos _) hlo
  have hsqrt : f32.sqrt rm z A = f32.round rm z false (rootSticky n d 256).1 (rootSticky n d 256).2 := by
    simp only [Fmt.sqrt, hval, hneg, if_neg hn, Bool.false_eq_true, if_false]
  have hrsq : f32.rsq z A = f32.round .rne z false (rootSticky d n 256).1 (rootSticky d n 256).2 := by
    simp only [Fmt.rsq, hval, hneg, if_neg hn, Bool.false_eq_true, if_false]
  rw [hsqrt, hrsq, ← hread]
  refine ⟨round_rootSticky hd hlo hhi htie rm z, ?_⟩
  rw [inv_div] at htie' ⊢
  refine round_rootSticky (Nat.pos_of_ne_zero hn) ?_ ?_ htie' .rne z
  · rw [← inv_div, zpow_neg]
    exact inv_anti₀ hpos hhi
  · rw [← inv_div, ← inv_inv ((2 : ℚ) ^ (150 : ℤ)), ← zpow_neg]
    exact inv_anti₀ (zpow_pos two_pos _) hlo

end Sys2Proof.Machine
end

section
/-! PROOFS. The order of patterns, and results that are held between two patterns (R220, R222). -/

namespace Sys2Proof.Machine

/-! ### Patterns and their numbers in order -/

/-- The magnitude of a pattern in units of the least subnormal number. -/
def Fmt.units (f : Fmt) (x : Nat) : Nat := f.sig x * 2 ^ (max (f.ex x) 1 - 1)

section
variable {f : Fmt} (hs : f.Sound)
include hs

theorem Fmt.rat_units {x : Nat} (hx : x < 2 ^ f.w) : f.rat x = (signedInt (f.neg x) (f.units x) : ℚ) * 2 ^ ((1 : ℤ) - f.bias - f.fb) := by
  rw [Fmt.rat_eq hs hx, cast_signedInt, signed_mul_right, Fmt.units, Nat.cast_mul, Nat.cast_pow, Nat.cast_ofNat, mul_assoc,
    ← zpow_natCast (2 : ℚ), ← zpow_add₀ two_ne_zero]
  congr 4
  omega

/-- A larger pattern of one sign has a larger magnitude. -/
theorem Fmt.units_lt {x y : Nat} (h : x % 2 ^ (f.w - 1) < y % 2 ^ (f.w - 1)) : f.units x < f.units y := by
  have hfx := Fmt.fr_lt (f := f) x
  have hfy := Fmt.fr_lt (f := f) y
  rw [Fmt.low_eq hs, Fmt.low_eq hs] at h
  have hsx := Fmt.sig_lt (f := f) x
  rw [pow_succ] at hsx
  rcases lt_trichotomy (f.ex x) (f.ex y) with hex | hex | hex
  · have hsy : 2 ^ f.fb ≤ f.sig y := by
      rw [Fmt.sig, if_neg (by omega)]
      omega
    obtain ⟨i, hi⟩ := Nat.exists_eq_add_of_le hex
    unfold Fmt.units
    by_cases h0 : f.ex x = 0
    · rw [h0, Fmt.sig, if_pos h0]
      calc f.fr x * 2 ^ (max 0 1 - 1) = f.fr x := Nat.mul_one _
        _ < f.sig y := lt_of_lt_of_le hfx hsy
        _ ≤ _ := Nat.le_mul_of_pos_right _ (Nat.two_pow_pos _)
    · calc f.sig x * 2 ^ (max (f.ex x) 1 - 1) < 2 ^ f.fb * 2 * 2 ^ (max (f.ex x) 1 - 1) :=
            Nat.mul_lt_mul_of_pos_right hsx (Nat.two_pow_pos _)
        _ = 2 ^ f.fb * 2 ^ (max (f.ex x) 1) := by rw [mul_assoc, ← pow_succ', Nat.sub_add_cancel (le_max_right ..)]
        _ ≤ f.sig y * 2 ^ (max (f.ex y) 1 - 1) := Nat.mul_le_mul hsy (Nat.pow_le_pow_right two_pos (by omega))
  · rw [hex] at h
    rw [Fmt.units, Fmt.units, hex, Fmt.sig, Fmt.sig, hex]
    refine Nat.mul_lt_mul_of_pos_right ?_ (Nat.two_pow_pos _)
    split <;> omega
  · have := Nat.mul_le_mul_right (2 ^ f.fb) (Nat.succ_le_of_lt hex)
    rw [Nat.succ_mul] at this
    omega

theorem Fmt.units_le {x y : Nat} (h : x % 2 ^ (f.w - 1) ≤ y % 2 ^ (f.w - 1)) : f.units x ≤ f.units y := by
  rcases lt_or_eq_of_le h with h | h
  · exact (Fmt.units_lt hs h).le
  · have hex : f.ex x = f.ex y := by rw [← Fmt.low_div hs, h, Fmt.low_div hs]
    have hfr : f.fr x = f.fr y := by rw [← Fmt.low_mod hs, h, Fmt.low_mod hs]
    rw [Fmt.units, Fmt.units, Fmt.sig, Fmt.sig, hex, hfr]

theorem Fmt.rat_le_iff_units {x y : Nat} (hx : x < 2 ^ f.w) (hy : y < 2 ^ f.w) :
    f.rat x ≤ f.rat y ↔ signedInt (f.neg x) (f.units x) ≤ signedInt (f.neg y) (f.units y) := by
  rw [Fmt.rat_units hs hx, Fmt.rat_units hs hy, mul_le_mul_iff_left₀ (zpow_pos two_pos _), Int.cast_le]

/-- The total order of patterns keeps the order of their numbers. -/
theorem Fmt.rat_le_of_key_le {x y : Nat} (hx : x < 2 ^ f.w) (hy : y < 2 ^ f.w) (h : f.key x ≤ f.key y) : f.rat x ≤ f.rat y := by
  rw [Fmt.rat_le_iff_units hs hx hy]
  unfold Fmt.key at h
  cases hnx : f.neg x <;> cases hny : f.neg y <;> simp only [hnx, hny, Bool.false_eq_true, if_true, if_false] at h
  · have := Fmt.units_le hs (x := x) (y := y) (by omega)
    simpa [signedInt] using this
  · omega
  · simp only [signedInt, if_true, Bool.false_eq_true, if_false]
    omega
  · have := Fmt.units_le hs (x := y) (y := x) (by omega)
    simpa [signedInt] using this

/-- The order of numbers is that of their patterns, where the larger one is no -0.0. -/
theorem Fmt.key_le_of_rat_le {x y : Nat} (hx : x < 2 ^ f.w) (hy : y < 2 ^ f.w) (hzero : f.neg y = true → f.rat y ≠ 0) (h : f.rat x ≤ f.rat y) :
    f.key x ≤ f.key y := by
  rw [Fmt.rat_le_iff_units hs hx hy] at h
  have hunits : f.neg y = true → f.units y ≠ 0 := fun hn h0 => hzero hn (by rw [Fmt.rat_units hs hy, h0]; cases f.neg y <;> simp [signedInt])
  by_contra hlt
  rw [not_le] at hlt
  unfold Fmt.key at hlt
  cases hnx : f.neg x <;> cases hny : f.neg y <;> simp only [hnx, hny, signedInt, Bool.false_eq_true, if_true, if_false] at h hlt
  · have := Fmt.units_lt hs (x := y) (y := x) (by omega)
    omega
  · have := hunits hny
    omega
  · omega
  · have := Fmt.units_lt hs (x := x) (y := y) (by omega)
    omega

theorem Fmt.ex_ne_emax_iff (x : Nat) : f.ex x ≠ f.emax ↔ x % 2 ^ (f.w - 1) < f.emax * 2 ^ f.fb := by
  rw [← Nat.div_lt_iff_lt_mul (Nat.two_pow_pos _), Fmt.low_div hs]
  exact ⟨fun h => lt_of_le_of_ne (Fmt.ex_le x) h, fun h => h.ne⟩

/-- What lies between two finite patterns is finite. -/
theorem Fmt.ex_ne_emax_of_between {lo p hi : Nat} (hlo : f.ex lo ≠ f.emax) (hhi : f.ex hi ≠ f.emax) (h : f.key lo ≤ f.key p) (h' : f.key p ≤ f.key hi) :
    f.ex p ≠ f.emax := by
  rw [Fmt.ex_ne_emax_iff hs] at hlo hhi ⊢
  unfold Fmt.key at h h'
  cases hnp : f.neg p <;> simp only [hnp, Bool.false_eq_true, if_true, if_false] at h h'
  · split at h' <;> omega
  · split at h <;> omega

end

/-! ### Patterns of FP32 by their keys -/

theorem keyPat_spec {k : Int} (hlo : -2 ^ 31 ≤ k) (hhi : k < 2 ^ 31) : keyPat k < 2 ^ 32 ∧ f32.key (keyPat k) = k := by
  have hlt : keyPat k < 2 ^ 32 := by
    unfold keyPat
    split <;> omega
  refine ⟨hlt, ?_⟩
  rw [Fmt.key, Fmt.neg_eq f32_sound hlt, show f32.w - 1 = 31 from rfl]
  unfold keyPat
  by_cases h : k < 0
  · simp only [if_pos h]
    rw [if_pos (by rw [decide_eq_true_eq]; omega)]
    omega
  · simp only [if_neg h]
    rw [if_neg (by rw [decide_eq_true_eq]; omega)]
    omega

theorem f32_key_bounds (x : Nat) : -2 ^ 31 ≤ f32.key x ∧ f32.key x < 2 ^ 31 := by
  have : x % 2 ^ 31 < 2 ^ 31 := Nat.mod_lt _ (by decide)
  simp only [Fmt.key, show f32.w - 1 = 31 from rfl]
  split <;> omega

/-! ### Edges -/

/-- A pattern of FP32 that stands for a number, +0.0 for zero. -/
def StandsFor (p : Nat) (x : ℚ) : Prop := p < 2 ^ 32 ∧ f32.ex p ≠ 255 ∧ f32.rat p = x ∧ (f32.neg p = true → x ≠ 0)

theorem signed_natAbs (num : Int) (den : Nat) : signed (decide (num < 0)) ((num.natAbs : ℚ) / den) = num / den := by
  rcases lt_or_ge num 0 with h | h
  · rw [decide_eq_true h, signed_true, ← neg_div, Nat.cast_natAbs, abs_of_neg h, Int.cast_neg, neg_neg]
  · rw [decide_eq_false (not_lt.mpr h), signed_false, Nat.cast_natAbs, abs_of_nonneg h]

theorem edgePat_rounded (rm : Rnd) (num : Int) {den : Nat} (hd : 0 < den) :
    ∃ r, edgePat rm num den = r.pat ∧ f32.rounded rm false (decide (num < 0)) (num / den) r :=
  ⟨_, rfl, signed_natAbs num den ▸ Fmt.round_rounded f32_sound rm false _ num.natAbs hd⟩

theorem standsFor_zero : StandsFor 0 0 := by
  obtain ⟨hlt, hneg, hex, hrat⟩ := Fmt.zeroPat_spec f32_sound false
  exact ⟨hlt, by decide, hrat, fun h => absurd (hneg.symm.trans h) Bool.false_ne_true⟩

/-- A number of the format is its own edge. -/
theorem edgePat_exact (rm : Rnd) (num : Int) {den : Nat} (hd : 0 < den) {a : Nat} {t : ℤ} (ha : a < 2 ^ 24) (ht : -149 ≤ t)
    (hx : |(num : ℚ) / den| = a * 2 ^ t) (htop : |(num : ℚ) / den| ≤ f32.top) : StandsFor (edgePat rm num den) (num / den) := by
  obtain ⟨r, hr, h⟩ := edgePat_rounded rm num hd
  rw [hr]
  by_cases ha0 : a = 0
  · rw [ha0, Nat.cast_zero, zero_mul, abs_eq_zero] at hx
    have hnum : num = 0 := by
      rcases div_eq_zero_iff.mp hx with h | h
      · exact Int.cast_eq_zero.mp h
      · exact absurd (Nat.cast_eq_zero.mp h) hd.ne'
    rw [h.1 hx, hx, hnum]
    exact standsFor_zero
  · have hexact := Fmt.rounded_exact f32_sound h (Nat.pos_of_ne_zero ha0) ha ht hx htop
    rw [if_neg (by simp)] at hexact
    obtain ⟨hlt, hneg, hrat, -, hex⟩ := hexact
    refine ⟨hlt, hex, hrat, fun _ h0 => ?_⟩
    rw [h0, abs_zero, eq_comm, mul_eq_zero_iff_right (zpow_ne_zero _ two_ne_zero), Nat.cast_eq_zero] at hx
    exact ha0 hx

/-- Rounding up stays at or below a number of the format that is a whole number of the units rounded to. -/
theorem edgePat_up_le (num : Int) {den : Nat} (hd : 0 < den) {j t : ℤ} (hle : (num : ℚ) / den ≤ j * 2 ^ t) (htop : (j : ℚ) * 2 ^ t ≤ f32.top)
    (hlow : -f32.top ≤ (num : ℚ) / den)
    (ht : -149 ≤ t) (habs : |(num : ℚ) / den| < 2 ^ (t + 24)) :
    edgePat .rup num den < 2 ^ 32 ∧ f32.rat (edgePat .rup num den) ≤ j * 2 ^ t := by
  obtain ⟨r, hr, h⟩ := edgePat_rounded .rup num hd
  rw [hr]
  by_cases h0 : (num : ℚ) / den = 0
  · obtain ⟨hlt, -, -, hrat⟩ := Fmt.zeroPat_spec f32_sound (decide (num < 0))
    rw [h.1 h0]
    exact ⟨hlt, hrat.trans_le (h0 ▸ hle)⟩
  · obtain ⟨e, k, k', hlo, hhi, hround, -, -, hcase⟩ := h.2 h0
    set q : ℤ := max e ((1 : ℤ) - f32.bias) - f32.fb with hq
    have hqpos : (0 : ℚ) < 2 ^ q := zpow_pos two_pos q
    have hqt : q ≤ t := by
      have he := (zpow_lt_zpow_iff_right₀ (one_lt_two (α := ℚ))).mp (hlo.trans_lt habs)
      have : q = max e (-126) - 23 := rfl
      omega
    have hk : k = ⌈(num : ℚ) / den / 2 ^ q⌉ := hround
    obtain ⟨n, hn⟩ := Int.eq_ofNat_of_zero_le (sub_nonneg.mpr hqt)
    have hgrid : (j : ℚ) * 2 ^ t = (j * 2 ^ n : ℤ) * 2 ^ q := by
      rw [show t = q + n by omega, zpow_add₀ two_ne_zero, zpow_natCast]
      push_cast
      ring
    have hyle : (k : ℚ) * 2 ^ q ≤ j * 2 ^ t := by
      rw [hgrid]
      refine mul_le_mul_of_nonneg_right (Int.cast_le.mpr ?_) hqpos.le
      rw [hk, Int.ceil_le, div_le_iff₀ hqpos, ← hgrid]
      exact hle
    have hxle : (num : ℚ) / den ≤ k * 2 ^ q := by
      rw [← div_le_iff₀ hqpos, hk]
      exact Int.le_ceil _
    have hfits : ¬(2 ^ (f32.fb + 1) - 1) * (2 : ℚ) ^ ((f32.bias : ℤ) - f32.fb) < |(k : ℚ) * 2 ^ q| :=
      not_lt.mpr (abs_le.mpr ⟨hlow.trans hxle, hyle.trans htop⟩)
    rw [if_neg hfits, if_neg (by simp)] at hcase
    obtain ⟨hlt, -, hrat, -⟩ := hcase
    exact ⟨hlt, hrat.trans_le hyle⟩

/-! ### Results held between two edges (R222) -/

/-- The result lies between its edges. -/
theorem approxPat_between (g : Nat → Nat) (a : Word) (n0 n1 : Int) (den bn bd : Nat) {lo hi : Nat} {xlo xhi : ℚ} (hlo : StandsFor lo xlo)
    (hhi : StandsFor hi xhi) (hle : xlo ≤ xhi) (hedge : f32.key (edgePat .rup (n1 * bd - bn * den) (den * bd)) ≤ f32.key hi) :
    let p := approxPat g a n0 n1 den bn bd lo hi
    p < 2 ^ 32 ∧ f32.ex p ≠ 255 ∧ xlo ≤ f32.rat p ∧ f32.rat p ≤ xhi := by
  obtain ⟨hlolt, hloex, hlorat, -⟩ := hlo
  obtain ⟨hhilt, hhiex, hhirat, hhizero⟩ := hhi
  have hkey : f32.key lo ≤ f32.key hi := Fmt.key_le_of_rat_le f32_sound hlolt hhilt (hhirat ▸ hhizero) (by rw [hlorat, hhirat]; exact hle)
  intro p
  set least := max (f32.key lo) (f32.key (edgePat .rup (n1 * bd - bn * den) (den * bd)))
  set most := min (f32.key hi) (f32.key (edgePat .rdn (n0 * bd + bn * den) (den * bd)))
  set k := max least (min most (freeMono g 32 1 (f32.key a.toNat + 2 ^ 31).toNat 0 (2 ^ 32 - 1) - 2 ^ 31)) with hk
  have hklo : f32.key lo ≤ k := (le_max_left _ _).trans (le_max_left _ _)
  have hkhi : k ≤ f32.key hi := max_le (max_le hkey hedge) ((min_le_left _ _).trans (min_le_left _ _))
  obtain ⟨hlt, hkeyk⟩ := keyPat_spec ((f32_key_bounds lo).1.trans hklo) (hkhi.trans_lt (f32_key_bounds hi).2)
  have hex : f32.ex (keyPat k) ≠ f32.emax := Fmt.ex_ne_emax_of_between f32_sound hloex hhiex (hkeyk.symm ▸ hklo) (hkeyk.symm ▸ hkhi)
  have h1 : xlo ≤ f32.rat (keyPat k) := hlorat ▸ Fmt.rat_le_of_key_le f32_sound hlolt hlt (hkeyk.symm ▸ hklo)
  have h2 : f32.rat (keyPat k) ≤ xhi := hhirat ▸ Fmt.rat_le_of_key_le f32_sound hlt hhilt (hkeyk.symm ▸ hkhi)
  have hp : p = if f32.isZero (keyPat k) then f32.zeroPat (Config.zeroSign a) else keyPat k := rfl
  rw [hp]
  split
  next hzero =>
    have hrat : f32.rat (keyPat k) = 0 := by
      obtain ⟨hex, hfr⟩ := Fmt.isZero_iff.mp hzero
      rw [Fmt.rat_eq f32_sound hlt, Fmt.sig, if_pos hex, hfr, Nat.cast_zero, zero_mul, signed_zero]
    obtain ⟨hlt', -, hex', hrat'⟩ := Fmt.zeroPat_spec f32_sound (Config.zeroSign a)
    rw [hrat']
    exact ⟨hlt', by rw [hex']; decide, hrat ▸ h1, hrat ▸ h2⟩
  next => exact ⟨hlt, hex, h1, h2⟩

/-- A delivered result with its flags: it is finite and inexact, and underflows where it is subnormal or flushed (R222). -/
def Inexact (z : Bool) (r : FR) : Prop :=
  r.pat < 2 ^ 32 ∧ f32.ex r.pat ≠ 255 ∧ (r.fl = 16 ∨ r.fl = 24) ∧ (f32.ex r.pat = 0 → f32.fr r.pat ≠ 0 → z = false ∧ r.fl = 24)

/-- A subnormal number is below the least normal one. -/
theorem abs_rat_lt_of_isSub {p : Nat} (hp : p < 2 ^ 32) (h : f32.isSub p = true) : |f32.rat p| < 2 ^ (-126 : ℤ) := by
  obtain ⟨hex, -⟩ := Fmt.isSub_iff.mp h
  have hfr : (f32.fr p : ℚ) < 2 ^ (23 : ℤ) := by exact_mod_cast Fmt.fr_lt (f := f32) p
  rw [Fmt.abs_rat f32_sound hp, Fmt.sig, if_pos hex, hex]
  calc (f32.fr p : ℚ) * 2 ^ ((max 0 1 : ℕ) - f32.bias - f32.fb : ℤ) < 2 ^ (23 : ℤ) * 2 ^ (-149 : ℤ) :=
        mul_lt_mul_of_pos_right hfr (zpow_pos two_pos _)
    _ = _ := by rw [← zpow_add₀ two_ne_zero]; rfl

theorem approxFlags_spec (z : Bool) {p : Nat} (hp : p < 2 ^ 32) (hex : f32.ex p ≠ 255) :
    Inexact z (approxFlags z p) ∧
      (f32.rat (approxFlags z p).pat = f32.rat p ∨ z = true ∧ |f32.rat p| < 2 ^ (-126 : ℤ) ∧ f32.rat (approxFlags z p).pat = 0) := by
  by_cases hsub : f32.isSub p = true
  · have hr : approxFlags z p = ⟨f32.flushIn z p, 24⟩ := if_pos hsub
    rw [hr]
    cases z with
    | false =>
      have hflush : f32.flushIn false p = p := rfl
      exact ⟨⟨hp, hex, .inr rfl, fun _ _ => ⟨rfl, rfl⟩⟩, .inl rfl⟩
    | true =>
      have hflush : f32.flushIn true p = f32.zeroPat (f32.neg p) := if_pos hsub
      obtain ⟨hlt, -, hex', hrat⟩ := Fmt.zeroPat_spec f32_sound (f32.neg p)
      rw [hflush]
      refine ⟨⟨hlt, by rw [hex']; decide, .inr rfl, fun _ hfr => absurd ?_ hfr⟩, .inr ⟨rfl, abs_rat_lt_of_isSub hp hsub, hrat⟩⟩
      cases f32.neg p <;> decide
  · have hr : approxFlags z p = ⟨p, 16⟩ := if_neg hsub
    rw [hr]
    exact ⟨⟨hp, hex, .inl rfl, fun h h' => absurd (Fmt.isSub_iff.mpr ⟨h, h'⟩) hsub⟩, .inl rfl⟩

end Sys2Proof.Machine
end

section
/-! PROOFS. FEXP2 (R222). -/

namespace Sys2Proof.Machine

/-! ### The approximation of 2^x for 0 ≤ x < 1 -/

/-- The root of a number in fixed point of p bits, between 1 and the number. -/
theorem isqrt_fixed {p x : Nat} (hx : 2 ^ p ≤ x) : 2 ^ p ≤ isqrt (x * 2 ^ p) ∧ isqrt (x * 2 ^ p) ≤ x ∧ isqrt (x * 2 ^ p) * isqrt (x * 2 ^ p) ≤ x * 2 ^ p := by
  rw [isqrt_eq]
  have hsq := Nat.sqrt_le (x * 2 ^ p)
  refine ⟨Nat.le_sqrt.mpr (Nat.mul_le_mul_right _ hx), ?_, hsq⟩
  exact Nat.mul_self_le_mul_self_iff.mp (hsq.trans (Nat.mul_le_mul_left _ hx))

/-- A product of roots of x stays within the factor x that the roots leave. -/
theorem exp2Fold_bounds (p f n : Nat) (x acc : Nat) (idx : List Nat) (hx : 2 ^ p ≤ x) (hacc : 2 ^ p ≤ acc) (h : acc * x ≤ 2 ^ (2 * p + 1)) :
    let r := ((exp2Roots p n x).zip idx).foldl (fun acc (r, i) => if f / 2 ^ (149 - i) % 2 = 1 then acc * r / 2 ^ p else acc) acc
    2 ^ p ≤ r ∧ r ≤ 2 ^ (p + 1) := by
  have hdone : acc ≤ 2 ^ (p + 1) := by
    refine Nat.le_of_mul_le_mul_right ?_ (Nat.two_pow_pos p)
    calc acc * 2 ^ p ≤ acc * x := Nat.mul_le_mul_left _ hx
      _ ≤ 2 ^ (2 * p + 1) := h
      _ = 2 ^ (p + 1) * 2 ^ p := by rw [← pow_add]; congr 1; omega
  induction n generalizing x acc idx with
  | zero => exact ⟨hacc, hdone⟩
  | succ n ih =>
    cases idx with
    | nil => exact ⟨hacc, hdone⟩
    | cons i idx =>
      obtain ⟨hr, hrx, hrr⟩ := isqrt_fixed hx
      set r := isqrt (x * 2 ^ p) with hrdef
      have hstep : 2 ^ p ≤ (if f / 2 ^ (149 - i) % 2 = 1 then acc * r / 2 ^ p else acc) ∧
          (if f / 2 ^ (149 - i) % 2 = 1 then acc * r / 2 ^ p else acc) * r ≤ 2 ^ (2 * p + 1) := by
        split
        · refine ⟨(Nat.le_div_iff_mul_le (Nat.two_pow_pos p)).mpr (Nat.mul_le_mul hacc hr), ?_⟩
          refine le_trans (Nat.le_of_mul_le_mul_right ?_ (Nat.two_pow_pos p)) h
          calc acc * r / 2 ^ p * r * 2 ^ p = acc * r / 2 ^ p * 2 ^ p * r := by ring
            _ ≤ acc * r * r := Nat.mul_le_mul_right _ (Nat.div_mul_le_self ..)
            _ = acc * (r * r) := by ring
            _ ≤ acc * (x * 2 ^ p) := Nat.mul_le_mul_left _ hrr
            _ = acc * x * 2 ^ p := by ring
        · exact ⟨hacc, (Nat.mul_le_mul_left _ hrx).trans h⟩
      refine ih r _ idx hr hstep.1 hstep.2 ?_
      refine Nat.le_of_mul_le_mul_right ?_ (Nat.two_pow_pos p)
      calc _ ≤ _ := Nat.mul_le_mul_left _ hr
        _ ≤ 2 ^ (2 * p + 1) := hstep.2
        _ = 2 ^ (p + 1) * 2 ^ p := by rw [← pow_add]; congr 1; omega

theorem exp2Frac_bounds (p f : Nat) : 2 ^ p ≤ exp2Frac p f ∧ exp2Frac p f ≤ 2 ^ (p + 1) :=
  exp2Fold_bounds p f 150 (2 ^ (p + 1)) (2 ^ p) (List.range 150) (Nat.pow_le_pow_right two_pos p.le_succ) le_rfl
    (by rw [← pow_add]; exact Nat.pow_le_pow_right two_pos (by omega))

/-! ### The whole part of the operand -/

/-- The integer at or below a number. -/
theorem floor_signed (s : Bool) (n : Nat) {d : Nat} (hd : 0 < d) :
    (if s then -((n + d - 1) / d : Nat) else (n / d : Nat) : Int) = ⌊signed s ((n : ℚ) / d)⌋ := by
  have hdq : (0 : ℚ) < d := Nat.cast_pos.mpr hd
  cases s with
  | false =>
    rw [signed_false, if_neg Bool.false_ne_true]
    exact (Rat.floor_natCast_div_natCast n d).symm
  | true =>
    rw [signed_true, if_pos rfl, eq_comm, Int.floor_eq_iff]
    set c := (n + d - 1) / d with hc
    have h1 : c * d ≤ n + d - 1 := Nat.div_mul_le_self ..
    have h2 : n + d - 1 < d * (c + 1) := Nat.lt_mul_div_succ _ hd
    have h3 : (n : ℚ) ≤ c * d := by
      have : n ≤ c * d := by
        rw [mul_add, mul_comm] at h2
        omega
      exact_mod_cast this
    have h4 : (c : ℚ) * d < n + d := by
      have : c * d < n + d := by omega
      exact_mod_cast this
    push_cast
    refine ⟨neg_le_neg ((div_le_iff₀ hdq).mpr h3), ?_⟩
    have h5 : (c : ℚ) - 1 < n / d := by
      rw [lt_div_iff₀ hdq]
      linarith
    linarith

theorem mod_eq_zero_iff_floor (s : Bool) (n : Nat) {d : Nat} (hd : 0 < d) : n % d = 0 ↔ (⌊signed s ((n : ℚ) / d)⌋ : ℚ) = signed s (n / d) := by
  have hdq : (d : ℚ) ≠ 0 := Nat.cast_ne_zero.mpr hd.ne'
  refine ⟨fun h => ?_, fun h => ?_⟩
  · obtain ⟨q, rfl⟩ := Nat.dvd_of_mod_eq_zero h
    rw [Nat.cast_mul, mul_div_cancel_left₀ _ hdq, ← cast_signedInt, Int.floor_intCast]
  · have habs : ((⌊signed s ((n : ℚ) / d)⌋.natAbs * d : ℕ) : ℚ) = n := by
      rw [Nat.cast_mul, Nat.cast_natAbs, Int.cast_abs, h, abs_signed, abs_of_nonneg (by positivity), div_mul_cancel₀ _ hdq]
    exact Nat.mod_eq_zero_of_dvd (Dvd.intro_left _ (Nat.cast_injective habs))

/-! ### The edges of a result -/

theorem pow2_div (e : Int) : ((pow2 e).1 : ℚ) / (pow2 e).2 = 2 ^ e := by
  rw [pow2_cast, mul_div_cancel_right₀ _ (Nat.cast_ne_zero.mpr (pow2_den_pos e).ne')]

theorem f32_top_eq : f32.top = (2 ^ 24 - 1) * 2 ^ (104 : ℤ) := rfl

/-- The edge of FEXP2 at an integer. -/
def exp2Edge (e : Int) : Nat := if e < -149 then 0 else edgePat .rz (pow2 e).1 (pow2 e).2

/-- The number of that edge: the power of two where FP32 holds it, else zero below and the largest number above. -/
def exp2EdgeVal (e : Int) : ℚ := if e < -149 then 0 else if 127 < e then f32.top else 2 ^ e

theorem standsFor_top : StandsFor 0x7F7FFFFF f32.top := by
  refine ⟨by decide, by decide, ?_, fun h => absurd h (by decide)⟩
  rw [Fmt.rat_eq f32_sound (by decide), show f32.neg 0x7F7FFFFF = false by decide, show f32.sig 0x7F7FFFFF = 2 ^ 24 - 1 by decide,
    show max (f32.ex 0x7F7FFFFF) 1 = 254 by decide, signed_false, f32_top_eq,
    show (f32.bias : ℤ) = 127 from rfl, show (f32.fb : ℤ) = 23 from rfl]
  norm_num

theorem exp2Edge_standsFor {e : Int} (he : e ≤ 128) : StandsFor (exp2Edge e) (exp2EdgeVal e) := by
  unfold exp2Edge exp2EdgeVal
  split
  next => exact standsFor_zero
  next hlo =>
    split
    next hhi =>
      obtain rfl : e = 128 := by omega
      have hedge : edgePat .rz (pow2 128).1 (pow2 128).2 = 0x7F7FFFFF := by decide
      rw [hedge]
      exact standsFor_top
    next hhi =>
      have hpow : (((pow2 e).1 : Int) : ℚ) / (pow2 e).2 = 2 ^ e := by rw [Int.cast_natCast, pow2_div]
      have habs : |(((pow2 e).1 : Int) : ℚ) / (pow2 e).2| = (1 : ℕ) * 2 ^ e := by
        rw [hpow, abs_of_pos (zpow_pos two_pos e), Nat.cast_one, one_mul]
      have h := edgePat_exact .rz (pow2 e).1 (pow2_den_pos e) (a := 1) (by decide) (by omega) habs ?_
      · rwa [hpow] at h
      · rw [habs, Nat.cast_one, one_mul, f32_top_eq]
        calc (2 : ℚ) ^ e ≤ 2 ^ (127 : ℤ) := zpow_le_zpow_right₀ one_le_two (by omega)
          _ ≤ _ := by norm_num

/-- The upper limit of the result's error lies at or below the upper edge. -/
theorem exp2_limit_le {fl : Int} {y : Nat} (hlo : 2 ^ 256 ≤ y) (hhi : y ≤ 2 ^ (256 + 1)) (hfl : -150 ≤ fl) (hfl' : fl ≤ 127) {j t : ℤ} (ht : -149 ≤ t)
    (htfl : fl - 23 ≤ t) (hH : (2 : ℚ) ^ (fl + 1) - 2 ^ (fl - 23) ≤ j * 2 ^ t) (htop : (j : ℚ) * 2 ^ t ≤ f32.top) :
    let num := y * (pow2 fl).1
    let den := 2 ^ 256 * (pow2 fl).2
    let u := ulp num den
    let p := edgePat .rup ((((y + 2 ^ 12) * (pow2 fl).1 : Nat) : Int) * u.2 - (2 * u.1 : Nat) * den) (den * u.2)
    p < 2 ^ 32 ∧ f32.rat p ≤ j * 2 ^ t := by
  intro num den u p
  have hp2 := pow2_den_pos fl
  have hp2q : ((pow2 fl).2 : ℚ) ≠ 0 := Nat.cast_ne_zero.mpr hp2.ne'
  have hden : 0 < den := Nat.mul_pos (Nat.two_pow_pos 256) hp2
  have hdenq : (den : ℚ) ≠ 0 := Nat.cast_ne_zero.mpr hden.ne'
  have hflpos : (0 : ℚ) < 2 ^ fl := zpow_pos two_pos fl
  have hfrac (c : Nat) : ((c * (pow2 fl).1 : ℕ) : ℚ) / den = c / 2 ^ 256 * 2 ^ fl := by
    rw [Nat.cast_mul, Nat.cast_mul, mul_div_mul_comm, pow2_div]
    norm_num
  have hone := one_lt_two (α := ℚ)
  have hsucc : (2 : ℚ) ^ (fl + 1) = 2 * 2 ^ fl := by rw [zpow_add_one₀ two_ne_zero, mul_comm]
  -- The value lies between two powers of two.
  have hvlo : (2 : ℚ) ^ fl ≤ (num : ℚ) / den := by
    rw [hfrac]
    refine le_mul_of_one_le_left hflpos.le ((one_le_div (by norm_num)).mpr ?_)
    exact_mod_cast hlo
  have hvhi : (num : ℚ) / den ≤ 2 ^ (fl + 1) := by
    rw [hfrac, hsucc]
    refine mul_le_mul_of_nonneg_right ((div_le_iff₀ (by norm_num)).mpr ?_) hflpos.le
    calc (y : ℚ) ≤ 2 ^ (256 + 1) := by exact_mod_cast hhi
      _ = 2 * 2 ^ 256 := pow_succ' 2 256
  have hnum : num ≠ 0 := by
    rintro h0
    rw [h0, Nat.cast_zero, zero_div] at hvlo
    exact absurd hvlo (not_le.mpr hflpos)
  obtain ⟨hil, hil'⟩ := ilog_spec hnum hden
  have h1 := (zpow_lt_zpow_iff_right₀ hone).mp (hvlo.trans_lt hil')
  have h2 := (zpow_le_zpow_iff_right₀ hone).mp (hil.trans hvhi)
  obtain ⟨U, hU, hUlo, hUhi⟩ : ∃ U : ℤ, u = pow2 U ∧ fl - 23 ≤ U ∧ (U ≤ fl - 22 ∨ U = -149) := by
    refine ⟨_, rfl, ?_, ?_⟩ <;> split <;> omega
  have hu2 : ((u.2 : ℕ) : ℚ) ≠ 0 := by rw [hU]; exact Nat.cast_ne_zero.mpr (pow2_den_pos U).ne'
  have hval : (((((y + 2 ^ 12) * (pow2 fl).1 : Nat) : Int) * u.2 - (2 * u.1 : Nat) * den : Int) : ℚ) / (den * u.2 : ℕ) =
      (num : ℚ) / den + 2 ^ (fl - 244) - 2 * 2 ^ U := by
    have hsmall : ((2 ^ 12 * (pow2 fl).1 : ℕ) : ℚ) / den = 2 ^ (fl - 244) := by
      rw [hfrac, Nat.cast_pow, Nat.cast_ofNat, ← zpow_natCast (2 : ℚ) 12, ← zpow_natCast (2 : ℚ) 256, ← zpow_sub₀ two_ne_zero,
        ← zpow_add₀ two_ne_zero]
      congr 1
      push_cast
      ring
    rw [← hsmall, ← pow2_div U, ← hU, ← add_div, ← Nat.cast_add, ← add_mul]
    push_cast
    field_simp
  have hUpos : (0 : ℚ) < 2 ^ U := zpow_pos two_pos U
  have hsmallpos : (0 : ℚ) < 2 ^ (fl - 244) := zpow_pos two_pos _
  have hle : (num : ℚ) / den + 2 ^ (fl - 244) - 2 * 2 ^ U ≤ 2 ^ (fl + 1) - 2 ^ (fl - 23) := by
    have hU' : (2 : ℚ) ^ (fl - 23) ≤ 2 ^ U := zpow_le_zpow_right₀ hone.le hUlo
    have hsmall' : (2 : ℚ) ^ (fl - 244) ≤ 2 ^ (fl - 23) := zpow_le_zpow_right₀ hone.le (by omega)
    linarith
  have hflt : (2 : ℚ) ^ (fl + 1) ≤ 2 ^ (t + 24) := zpow_le_zpow_right₀ hone.le (by omega)
  have hUt : (2 : ℚ) ^ (U + 1) < 2 ^ (t + 24) := zpow_lt_zpow_right₀ hone (by omega)
  have hUtop : (2 : ℚ) ^ (U + 1) ≤ f32.top := by
    rw [f32_top_eq]
    calc (2 : ℚ) ^ (U + 1) ≤ 2 ^ (106 : ℤ) := zpow_le_zpow_right₀ hone.le (by omega)
      _ ≤ _ := by norm_num
  have hU1 : (2 : ℚ) ^ (U + 1) = 2 * 2 ^ U := by rw [zpow_add_one₀ two_ne_zero, mul_comm]
  have hfl23 : (0 : ℚ) < 2 ^ (fl - 23) := zpow_pos two_pos _
  refine edgePat_up_le _ (Nat.mul_pos hden (hU ▸ pow2_den_pos U)) ?_ htop ?_ ht ?_ <;> rw [hval]
  · exact hle.trans hH
  · linarith
  · exact abs_lt.mpr ⟨by linarith, by linarith⟩

/-- The result of FEXP2 at an operand that is no integer, of whole part fl. -/
def exp2Approx (a : Word) (y : Nat) (fl : Int) : Nat :=
  let num := y * (pow2 fl).1
  let den := 2 ^ 256 * (pow2 fl).2
  let u := ulp num den
  approxPat Config.exp2Free a num ((y + 2 ^ 12) * (pow2 fl).1 : Nat) den (2 * u.1) u.2 (exp2Edge fl) (exp2Edge (fl + 1))

/-- It lies between the powers of two around it. -/
theorem exp2Approx_between (a : Word) {fl : Int} {y : Nat} (hlo : 2 ^ 256 ≤ y) (hhi : y ≤ 2 ^ (256 + 1)) (hfl : -150 ≤ fl) (hfl' : fl ≤ 127) :
    exp2Approx a y fl < 2 ^ 32 ∧ f32.ex (exp2Approx a y fl) ≠ 255 ∧ exp2EdgeVal fl ≤ f32.rat (exp2Approx a y fl) ∧
      f32.rat (exp2Approx a y fl) ≤ exp2EdgeVal (fl + 1) := by
  have hfl23 : (0 : ℚ) < 2 ^ (fl - 23) := zpow_pos two_pos _
  have hone := one_le_two (α := ℚ)
  have h127 : (2 : ℚ) ^ (127 : ℤ) ≤ f32.top := by
    rw [f32_top_eq]
    norm_num
  obtain ⟨j, t, hval, ht, htfl, hH, htop⟩ : ∃ j t : ℤ, exp2EdgeVal (fl + 1) = j * 2 ^ t ∧ -149 ≤ t ∧ fl - 23 ≤ t ∧
      (2 : ℚ) ^ (fl + 1) - 2 ^ (fl - 23) ≤ j * 2 ^ t ∧ (j : ℚ) * 2 ^ t ≤ f32.top := by
    by_cases h : fl = 127
    · subst h
      refine ⟨2 ^ 24 - 1, 104, ?_, by decide, by decide, ?_, ?_⟩
      · rw [exp2EdgeVal, if_neg (by decide), if_pos (by decide), f32_top_eq]
        norm_num
      · norm_num
      · rw [f32_top_eq]
        norm_num
    · refine ⟨1, fl + 1, ?_, by omega, by omega, ?_, ?_⟩
      · rw [exp2EdgeVal, if_neg (by omega), if_neg (by omega), Int.cast_one, one_mul]
      · rw [Int.cast_one, one_mul]
        linarith
      · rw [Int.cast_one, one_mul]
        exact (zpow_le_zpow_right₀ hone (by omega)).trans h127
  have hhiS := exp2Edge_standsFor (e := fl + 1) (by omega)
  obtain ⟨hplt, hple⟩ := exp2_limit_le hlo hhi hfl hfl' ht htfl hH htop
  refine approxPat_between _ a _ _ _ _ _ (exp2Edge_standsFor (by omega)) hhiS ?_ ?_
  · unfold exp2EdgeVal
    rw [if_neg (show ¬fl + 1 < -149 by omega), if_neg (show ¬127 < fl by omega)]
    have hpos : (0 : ℚ) < 2 ^ (fl + 1) := zpow_pos two_pos _
    have hmono : (2 : ℚ) ^ fl ≤ 2 ^ (fl + 1) := zpow_le_zpow_right₀ hone (by omega)
    have hmono' : (2 : ℚ) ^ fl ≤ 2 ^ (127 : ℤ) := zpow_le_zpow_right₀ hone hfl'
    split
    · rw [if_neg (by omega)]
      exact hpos.le
    · split
      · exact hmono'.trans h127
      · exact hmono
  · obtain ⟨hlt, -, hrat, hzero⟩ := hhiS
    refine Fmt.key_le_of_rat_le f32_sound hplt hlt (hrat ▸ hzero) ?_
    rw [hrat, hval]
    exact hple

/-! ### FEXP2 by cases -/

section
variable {z : Bool} {a : Word}

/-- FEXP2 of a number: by its whole part. -/
theorem exp2Op_fin {s : Bool} {n d : Nat} {x : ℚ} (hval : f32.val z a.toNat = .fin s n d) (hd : 0 < d) (hx : signed s ((n : ℚ) / d) = x) :
    ∃ y : Nat, 2 ^ 256 ≤ y ∧ y ≤ 2 ^ (256 + 1) ∧
      exp2Op z a = if (⌊x⌋ : ℚ) = x ∧ -149 ≤ ⌊x⌋ ∧ ⌊x⌋ ≤ 127 then f32.round .rne z false (pow2 ⌊x⌋).1 (pow2 ⌊x⌋).2
        else if 128 ≤ ⌊x⌋ then ⟨0x7F800000, 20⟩
        else if x ≤ -150 then ⟨0, 24⟩
        else if f32.isZero (exp2Approx a y ⌊x⌋) = true then ⟨exp2Approx a y ⌊x⌋, 24⟩ else approxFlags z (exp2Approx a y ⌊x⌋) := by
  have hdq : (0 : ℚ) < d := Nat.cast_pos.mpr hd
  have hint := mod_eq_zero_iff_floor s n hd
  rw [hx] at hint
  have hlow : s = true ∧ 150 * d ≤ n ↔ x ≤ -150 := by
    have hiff : 150 * d ≤ n ↔ (150 : ℚ) ≤ n / d := by
      rw [le_div_iff₀ hdq]
      exact_mod_cast Iff.rfl
    rw [hiff]
    have hnonneg : (0 : ℚ) ≤ n / d := by positivity
    rw [← hx]
    cases s
    · simp only [Bool.false_eq_true, false_and, signed_false, false_iff, not_le]
      linarith
    · simp only [true_and, signed_true, neg_le_neg_iff]
  refine ⟨exp2Frac 256 (((if s then -(n : Int) else n) - ⌊x⌋ * d).toNat * 2 ^ 150 / d), (exp2Frac_bounds 256 _).1, (exp2Frac_bounds 256 _).2, ?_⟩
  simp only [exp2Op, hval, floor_signed s n hd, hx, ← hlow, ← hint, Bool.and_eq_true, decide_eq_true_eq, and_assoc]
  rfl

/-- FEXP2 of an integer whose power of two FP32 holds. -/
theorem exp2Op_integer (hfin : f32.ex a.toNat ≠ 255) {n : ℤ} (hx : f32.read z a.toNat = n) (hlo : -149 ≤ n) (hhi : n ≤ 127) :
    if z = true ∧ n < -126 then exp2Op z a = ⟨0, 24⟩
    else f32.rat (exp2Op z a).pat = 2 ^ n ∧ (exp2Op z a).pat < 2 ^ 31 ∧ (exp2Op z a).fl = 0 := by
  obtain ⟨k, d, hval, hd, hread⟩ := Fmt.val_fin f32_sound (z := z) a.isLt hfin
  obtain ⟨y, -, -, hop⟩ := exp2Op_fin hval hd (hread.trans hx)
  rw [Int.floor_intCast, if_pos ⟨rfl, hlo, hhi⟩] at hop
  have hround := Fmt.round_rounded f32_sound .rne z false (pow2 n).1 (pow2_den_pos n)
  rw [signed_false, pow2_div, ← hop] at hround
  have habs : |(2 : ℚ) ^ n| = (1 : ℕ) * 2 ^ n := by rw [abs_of_pos (zpow_pos two_pos n), Nat.cast_one, one_mul]
  have htop : |(2 : ℚ) ^ n| ≤ f32.top := by
    rw [abs_of_pos (zpow_pos two_pos n), f32_top_eq]
    calc (2 : ℚ) ^ n ≤ 2 ^ (127 : ℤ) := zpow_le_zpow_right₀ one_le_two hhi
      _ ≤ _ := by norm_num
  have h := Fmt.rounded_exact f32_sound hround one_pos (by decide) (show (1 : ℤ) - f32.bias - f32.fb ≤ n from hlo) habs htop
  have hleast : |(2 : ℚ) ^ n| < f32.least ↔ n < -126 := by
    rw [abs_of_pos (zpow_pos two_pos n)]
    exact zpow_lt_zpow_iff_right₀ one_lt_two
  simp only [hleast] at h
  by_cases hflush : z = true ∧ n < -126
  · rw [if_pos hflush] at h ⊢
    exact h
  · rw [if_neg hflush] at h ⊢
    obtain ⟨hlt, hneg, hrat, hfl, -⟩ := h
    rw [Fmt.neg_eq f32_sound hlt] at hneg
    exact ⟨hrat, not_le.mp (of_decide_eq_false hneg), hfl⟩

/-- FEXP2 above and below its range. -/
theorem exp2Op_outside (hfin : f32.ex a.toNat ≠ 255) :
    (128 ≤ f32.read z a.toNat → exp2Op z a = ⟨0x7F800000, 20⟩) ∧ (f32.read z a.toNat ≤ -150 → exp2Op z a = ⟨0, 24⟩) := by
  obtain ⟨k, d, hval, hd, hread⟩ := Fmt.val_fin f32_sound (z := z) a.isLt hfin
  obtain ⟨y, -, -, hop⟩ := exp2Op_fin hval hd hread
  set x := f32.read z a.toNat
  refine ⟨fun h => ?_, fun h => ?_⟩
  · have hfl : 128 ≤ ⌊x⌋ := Int.le_floor.mpr (by exact_mod_cast h)
    rwa [if_neg fun hc => absurd hc.2.2 (by omega), if_pos hfl] at hop
  · have hfl : ⌊x⌋ ≤ -150 := by
      have : (⌊x⌋ : ℚ) ≤ (-150 : ℤ) := (Int.floor_le x).trans (by exact_mod_cast h)
      exact Int.cast_le.mp this
    rwa [if_neg fun hc => absurd hc.2.1 (by omega), if_neg (by omega), if_pos h] at hop

/-- FEXP2 of a number that is no integer lies between the powers of two around it. -/
theorem exp2Op_between (hfin : f32.ex a.toNat ≠ 255) {x : ℚ} (hx : f32.read z a.toNat = x) (hlo : -150 < x) (hhi : x < 128) (hint : (⌊x⌋ : ℚ) ≠ x) :
    Inexact z (exp2Op z a) ∧ f32.rat (exp2Op z a).pat ≤ 2 ^ (⌊x⌋ + 1) ∧
      (if ⌊x⌋ < -149 ∨ z = true ∧ ⌊x⌋ < -126 then 0 ≤ f32.rat (exp2Op z a).pat else (2 : ℚ) ^ ⌊x⌋ ≤ f32.rat (exp2Op z a).pat) := by
  obtain ⟨k, d, hval, hd, hread⟩ := Fmt.val_fin f32_sound (z := z) a.isLt hfin
  obtain ⟨y, hylo, hyhi, hop⟩ := exp2Op_fin hval hd (hread.trans hx)
  have hfl : -150 ≤ ⌊x⌋ := Int.le_floor.mpr (by exact_mod_cast hlo.le)
  have hfl' : ⌊x⌋ ≤ 127 := Int.lt_add_one_iff.mp (Int.floor_lt.mpr (by exact_mod_cast hhi))
  rw [if_neg fun hc => hint hc.1, if_neg (by omega), if_neg (not_le.mpr hlo)] at hop
  obtain ⟨hplt, hpex, hplo, hphi⟩ := exp2Approx_between a hylo hyhi hfl hfl'
  set p := exp2Approx a y ⌊x⌋
  set fl := ⌊x⌋
  have hpow : (0 : ℚ) < 2 ^ (fl + 1) := zpow_pos two_pos _
  have hup : exp2EdgeVal (fl + 1) ≤ 2 ^ (fl + 1) := by
    unfold exp2EdgeVal
    rw [if_neg (by omega)]
    split
    next h =>
      rw [show fl + 1 = 128 by omega, f32_top_eq]
      norm_num
    next => exact le_rfl
  have hnonneg : 0 ≤ exp2EdgeVal fl := by
    unfold exp2EdgeVal
    have : (0 : ℚ) < 2 ^ fl := zpow_pos two_pos _
    split_ifs
    · exact le_rfl
    · omega
    · exact this.le
  have hdown : ¬fl < -149 → exp2EdgeVal fl = 2 ^ fl := fun h => by rw [exp2EdgeVal, if_neg h, if_neg (by omega)]
  rw [hop]
  by_cases hzero : f32.isZero p = true
  · rw [if_pos hzero]
    obtain ⟨hex, hfr⟩ := Fmt.isZero_iff.mp hzero
    have hrat : f32.rat p = 0 := by rw [Fmt.rat_eq f32_sound hplt, Fmt.sig, if_pos hex, hfr, Nat.cast_zero, zero_mul, signed_zero]
    refine ⟨⟨hplt, hpex, .inr rfl, fun _ h => absurd hfr h⟩, hrat.trans_le hpow.le, ?_⟩
    split
    next => exact hrat.ge
    next h =>
      rw [not_or] at h
      exact (hdown h.1).ge.trans hplo
  · rw [if_neg hzero]
    obtain ⟨hinexact, hcase⟩ := approxFlags_spec z hplt hpex
    refine ⟨hinexact, ?_⟩
    rcases hcase with hrat | ⟨hz, hsmall, hrat⟩
    · rw [hrat]
      refine ⟨hphi.trans hup, ?_⟩
      split
      next => exact hnonneg.trans hplo
      next h =>
        rw [not_or] at h
        exact (hdown h.1).ge.trans hplo
    · rw [hrat]
      refine ⟨hpow.le, ?_⟩
      rw [if_pos]
      rw [or_iff_not_imp_left]
      intro h
      rw [abs_of_nonneg (hnonneg.trans hplo)] at hsmall
      exact ⟨hz, (zpow_lt_zpow_iff_right₀ (one_lt_two (α := ℚ))).mp (((hdown h).ge.trans hplo).trans_lt hsmall)⟩

end

end Sys2Proof.Machine
end

section
/-! PROOFS. FLOG2 (R222). -/

namespace Sys2Proof.Machine

theorem log2Bits_lt (p n x acc : Nat) : log2Bits p n x acc < (acc + 1) * 2 ^ n := by
  induction n generalizing x acc with
  | zero => simp [log2Bits]
  | succ n ih =>
    have hpos := Nat.two_pow_pos n
    have hdouble : (2 * acc + 1 + 1) * 2 ^ n = (acc + 1) * 2 ^ (n + 1) := by rw [pow_succ]; ring
    rw [log2Bits]
    split
    · exact (ih ..).trans_eq hdouble
    · refine (ih ..).trans_le ((Nat.mul_le_mul_right _ (by omega)).trans_eq hdouble)

/-- The pattern of a small integer, and the edge that it is. -/
theorem edgePat_int_standsFor (rm : Rnd) {e : Int} (he : |e| ≤ 200) : StandsFor (edgePat rm e 1) e := by
  have hcast : (e : ℚ) / (1 : ℕ) = e := by rw [Nat.cast_one, div_one]
  have habs : |(e : ℚ) / (1 : ℕ)| = e.natAbs * 2 ^ (0 : ℤ) := by rw [hcast, zpow_zero, mul_one, Nat.cast_natAbs, Int.cast_abs]
  have hnat : e.natAbs ≤ 200 := by
    have := abs_le.mp he
    omega
  have h := edgePat_exact rm e one_pos (a := e.natAbs) (by omega) (by decide) habs ?_
  · rwa [hcast] at h
  · rw [habs, zpow_zero, mul_one, f32_top_eq]
    calc (e.natAbs : ℚ) ≤ (200 : ℕ) := Nat.cast_le.mpr hnat
      _ ≤ _ := by norm_num

/-- The upper limit of the result's error lies at or below the next integer. -/
theorem log2_limit_le {e : Int} (he : |e| ≤ 190) {y : Int} (hlo : e * 2 ^ 100 ≤ y) (hhi : y < (e + 1) * 2 ^ 100) {u : Nat × Nat} (hu2 : 0 < u.2)
    (hulo : (2 : ℚ) ^ (-22 : ℤ) ≤ (u.1 : ℚ) / u.2) (huhi : (u.1 : ℚ) / u.2 ≤ 1000) :
    let p := edgePat .rup ((y + 2) * u.2 - u.1 * (2 ^ 100 : Nat)) (2 ^ 100 * u.2)
    p < 2 ^ 32 ∧ f32.rat p ≤ (e + 1 : ℤ) := by
  intro p
  have hu2q : (u.2 : ℚ) ≠ 0 := Nat.cast_ne_zero.mpr hu2.ne'
  have hval : (((y + 2) * u.2 - u.1 * (2 ^ 100 : Nat) : Int) : ℚ) / (2 ^ 100 * u.2 : ℕ) = (y + 2) / 2 ^ 100 - u.1 / u.2 := by
    push_cast
    field_simp
    ring
  have hy1 : ((e * 2 ^ 100 : ℤ) : ℚ) ≤ y := Int.cast_le.mpr hlo
  have hy2 : ((y + 1 : ℤ) : ℚ) ≤ ((e + 1) * 2 ^ 100 : ℤ) := Int.cast_le.mpr (by omega)
  push_cast at hy1 hy2
  have h1 : (e : ℚ) ≤ (y + 2) / 2 ^ 100 := by rw [le_div_iff₀ (by norm_num)]; linarith
  have h2 : ((y : ℚ) + 2) / 2 ^ 100 ≤ e + 1 + 1 / 2 ^ 100 := by
    rw [div_le_iff₀ (by norm_num), add_mul, one_div, inv_mul_cancel₀ (by norm_num)]
    linarith
  have h3 : (1 : ℚ) / 2 ^ 100 ≤ 2 ^ (-22 : ℤ) := by norm_num
  have he1 : ((-190 : ℤ) : ℚ) ≤ e := Int.cast_le.mpr (abs_le.mp he).1
  have he2 : (e : ℚ) ≤ (190 : ℤ) := Int.cast_le.mpr (abs_le.mp he).2
  push_cast at he1 he2
  have hpos : (0 : ℚ) < 2 ^ (-22 : ℤ) := zpow_pos two_pos _
  have htop : (2000 : ℚ) ≤ f32.top := by rw [f32_top_eq]; norm_num
  have hcast : ((e + 1 : ℤ) : ℚ) * 2 ^ (0 : ℤ) = e + 1 := by push_cast; ring
  have h := edgePat_up_le ((y + 2) * u.2 - u.1 * (2 ^ 100 : Nat)) (Nat.mul_pos (Nat.two_pow_pos 100) hu2) (j := e + 1) (t := 0)
  rw [hval, hcast] at h
  have h22 : (0 : ℚ) ≤ 1 / 2 ^ 100 ∧ (1 : ℚ) / 2 ^ 100 ≤ 1 := by norm_num
  refine (h ?_ ?_ ?_ (by decide) ?_).imp_right fun h => h.trans_eq (by push_cast; ring)
  · linarith
  · linarith
  · linarith
  · rw [abs_lt]
    constructor
    · have : (2000 : ℚ) < 2 ^ ((0 : ℤ) + 24) := by norm_num
      linarith
    · have : (2000 : ℚ) < 2 ^ ((0 : ℤ) + 24) := by norm_num
      linarith [h22.2]

/-- The error that FLOG2 may have, as a fraction: 2^-22 next to 1, else two units in the last place. -/
def log2Err (e y : Int) : Nat × Nat :=
  if e = 0 || e = -1 then (1, 2 ^ 22) else
    let u := ulp y.natAbs (2 ^ 100); (2 * u.1, u.2)

theorem log2Err_bounds {e : Int} (he : |e| ≤ 190) {y : Int} (hlo : e * 2 ^ 100 ≤ y) (hhi : y < (e + 1) * 2 ^ 100) :
    0 < (log2Err e y).2 ∧ (2 : ℚ) ^ (-22 : ℤ) ≤ ((log2Err e y).1 : ℚ) / (log2Err e y).2 ∧ ((log2Err e y).1 : ℚ) / (log2Err e y).2 ≤ 1000 := by
  unfold log2Err
  by_cases h : e = 0 ∨ e = -1
  · rw [if_pos (by simpa using h)]
    norm_num
  · rw [if_neg (by simpa using h)]
    have hy : 2 ^ 100 ≤ y.natAbs := by omega
    have hy' : y.natAbs ≤ 2 ^ 8 * 2 ^ 100 := by
      have := abs_le.mp he
      omega
    have h100 : 0 < 2 ^ 100 := Nat.two_pow_pos 100
    have hone := one_lt_two (α := ℚ)
    obtain ⟨hil, hil'⟩ := ilog_spec (num := y.natAbs) (by omega) h100
    have h1 : (1 : ℚ) ≤ (y.natAbs : ℚ) / (2 ^ 100 : ℕ) := by
      rw [one_le_div (Nat.cast_pos.mpr h100)]
      exact_mod_cast hy
    have h2 : (y.natAbs : ℚ) / (2 ^ 100 : ℕ) ≤ 2 ^ (8 : ℤ) := by
      rw [div_le_iff₀ (Nat.cast_pos.mpr h100)]
      exact_mod_cast hy'
    have he1 := (zpow_lt_zpow_iff_right₀ hone).mp ((zpow_zero (2 : ℚ)).trans_le h1 |>.trans_lt hil')
    have he2 := (zpow_le_zpow_iff_right₀ hone).mp (hil.trans h2)
    obtain ⟨U, hU, hUlo, hUhi⟩ : ∃ U : ℤ, ulp y.natAbs (2 ^ 100) = pow2 U ∧ -23 ≤ U ∧ U ≤ 0 := by
      refine ⟨_, rfl, ?_, ?_⟩ <;> split <;> omega
    have hval : ((2 * (pow2 U).1 : ℕ) : ℚ) / (pow2 U).2 = 2 ^ (U + 1) := by
      rw [Nat.cast_mul, Nat.cast_ofNat, mul_div_assoc, pow2_div, zpow_add_one₀ two_ne_zero, mul_comm]
    simp only [hU, hval]
    refine ⟨pow2_den_pos U, zpow_le_zpow_right₀ hone.le (by omega), ?_⟩
    calc (2 : ℚ) ^ (U + 1) ≤ 2 ^ (1 : ℤ) := zpow_le_zpow_right₀ hone.le (by omega)
      _ ≤ _ := by norm_num

/-- The result of FLOG2 at an operand that is no power of two, between 2^e and 2^(e + 1). -/
def log2Approx (a : Word) (e y : Int) : Nat :=
  approxPat Config.log2Free a y (y + 2) (2 ^ 100) (log2Err e y).1 (log2Err e y).2 (edgePat .rz e 1) (edgePat .rz (e + 1) 1)

theorem log2Approx_between (a : Word) {e : Int} (he : |e| ≤ 190) {y : Int} (hlo : e * 2 ^ 100 ≤ y) (hhi : y < (e + 1) * 2 ^ 100) :
    log2Approx a e y < 2 ^ 32 ∧ f32.ex (log2Approx a e y) ≠ 255 ∧ (e : ℚ) ≤ f32.rat (log2Approx a e y) ∧
      f32.rat (log2Approx a e y) ≤ (e + 1 : ℤ) := by
  obtain ⟨h2, hulo, huhi⟩ := log2Err_bounds he hlo hhi
  obtain ⟨hplt, hple⟩ := log2_limit_le he hlo hhi h2 hulo huhi
  have hbound := abs_le.mp he
  have hhiS := edgePat_int_standsFor .rz (e := e + 1) (abs_le.mpr (by omega))
  refine approxPat_between _ a _ _ _ _ _ (edgePat_int_standsFor .rz (he.trans (by decide))) hhiS (Int.cast_le.mpr (by omega)) ?_
  obtain ⟨hlt, -, hrat, hzero⟩ := hhiS
  exact Fmt.key_le_of_rat_le f32_sound hplt hlt (hrat ▸ hzero) (hrat ▸ hple)

/-! ### FLOG2 by cases -/

section
variable {z : Bool} {a : Word}

/-- The operand scaled to lie from 1 to 2, in fixed point of 256 bits. -/
def log2Mant (n d : Nat) : Nat := n * (pow2 (-ilog n d)).1 * 2 ^ 256 / (d * (pow2 (-ilog n d)).2)

/-- FLOG2 of a positive number: by its exponent. -/
theorem log2Op_pos {n d : Nat} (hval : f32.val z a.toNat = .fin false n d) (hn : n ≠ 0) :
    log2Op z a = if log2Mant n d = 2 ^ 256 then f32.round .rne z (decide (ilog n d < 0)) (ilog n d).natAbs 1
      else approxFlags z (log2Approx a (ilog n d) (ilog n d * 2 ^ 100 + log2Bits 256 100 (log2Mant n d) 0)) := by
  simp only [log2Op, hval, if_neg hn, Bool.false_eq_true, if_false]
  rfl

/-- A positive operand is read as a positive fraction. -/
theorem val_of_pos (hfin : f32.ex a.toNat ≠ 255) (h0 : 0 < f32.read z a.toNat) :
    ∃ n d, f32.val z a.toNat = .fin false n d ∧ n ≠ 0 ∧ 0 < d ∧ (n : ℚ) / d = f32.read z a.toNat := by
  obtain ⟨n, d, hval, hd, hread⟩ := Fmt.val_fin f32_sound (z := z) a.isLt hfin
  have hneg : f32.neg a.toNat = false := by
    by_contra h
    rw [Bool.not_eq_false] at h
    rw [← hread, h, signed_true] at h0
    have : (0 : ℚ) ≤ n / d := by positivity
    linarith
  rw [hneg] at hval hread
  refine ⟨n, d, hval, ?_, hd, hread⟩
  rintro rfl
  rw [← hread, Nat.cast_zero, zero_div, signed_zero] at h0
  exact lt_irrefl 0 h0

/-- FLOG2 of zero and of negative numbers. -/
theorem log2Op_special (hfin : f32.ex a.toNat ≠ 255) :
    (f32.read z a.toNat = 0 → log2Op z a = ⟨0xFF800000, 2⟩) ∧ (f32.read z a.toNat < 0 → log2Op z a = ⟨0x7FC00000, 1⟩) := by
  obtain ⟨n, d, hval, hd, hread⟩ := Fmt.val_fin f32_sound (z := z) a.isLt hfin
  have hdq : (d : ℚ) ≠ 0 := Nat.cast_ne_zero.mpr hd.ne'
  refine ⟨fun h => ?_, fun h => ?_⟩
  · have hn : n = 0 := by
      rw [← hread, signed_eq_zero] at h
      exact Nat.cast_eq_zero.mp ((div_eq_zero_iff.mp h).resolve_right hdq)
    simp only [log2Op, hval, hn, if_true]
    rfl
  · have hn : n ≠ 0 := by
      rintro rfl
      rw [← hread, Nat.cast_zero, zero_div, signed_zero] at h
      exact lt_irrefl 0 h
    have hneg : f32.neg a.toNat = true := by
      by_contra hneg
      rw [Bool.not_eq_true] at hneg
      rw [← hread, hneg, signed_false] at h
      have : (0 : ℚ) ≤ n / d := by positivity
      linarith
    simp only [log2Op, hval, hneg, if_neg hn, if_true]
    rfl

/-- The scaled operand as a number. -/
theorem log2Mant_frac {n d : Nat} (hd : 0 < d) {e : Int} (he : ilog n d = e) :
    0 < d * (pow2 (-e)).2 ∧ log2Mant n d = n * (pow2 (-e)).1 * 2 ^ 256 / (d * (pow2 (-e)).2) ∧
      ((n * (pow2 (-e)).1 : ℕ) : ℚ) = (n : ℚ) / d / 2 ^ e * (d * (pow2 (-e)).2 : ℕ) := by
  have hpos := Nat.mul_pos hd (pow2_den_pos (-e))
  refine ⟨hpos, by rw [log2Mant, he], ?_⟩
  rw [← div_eq_iff (Nat.cast_ne_zero.mpr hpos.ne')]
  exact atQuantum_frac n hd e

/-- The exponent of an operand of FP32 is small. -/
theorem exponent_bounds {x : ℚ} (hfin : f32.ex a.toNat ≠ 255) (hx : f32.read z a.toNat = x) {e : ℤ} (hlo : (2 : ℚ) ^ e ≤ x) (hhi : x < 2 ^ (e + 1)) :
    |e| ≤ 190 ∧ ∃ (m : Nat) (t : ℤ), x = m * 2 ^ t ∧ e < t + 24 := by
  have hpos : 0 < x := lt_of_lt_of_le (zpow_pos two_pos e) hlo
  obtain ⟨m, t, hm0, hm, habs, htlo, hthi⟩ := f32_read_bits (z := z) a.isLt hfin (hx ▸ hpos.ne')
  rw [hx, abs_of_pos hpos] at habs
  have hone := one_lt_two (α := ℚ)
  have htpos : (0 : ℚ) < 2 ^ t := zpow_pos two_pos t
  have h1 : x < 2 ^ (t + 24) := by
    rw [habs, zpow_add₀ two_ne_zero, mul_comm]
    refine mul_lt_mul_of_pos_left ?_ htpos
    exact_mod_cast hm
  have h2 : (2 : ℚ) ^ t ≤ x := by
    rw [habs]
    exact le_mul_of_one_le_left htpos.le (by exact_mod_cast hm0)
  have h3 := (zpow_lt_zpow_iff_right₀ hone).mp (hlo.trans_lt h1)
  have h4 := (zpow_lt_zpow_iff_right₀ hone).mp (h2.trans_lt hhi)
  exact ⟨abs_le.mpr (by omega), m, t, habs, h3⟩

/-- FLOG2 of a power of two. -/
theorem log2Op_power (hfin : f32.ex a.toNat ≠ 255) {e : ℤ} (hx : f32.read z a.toNat = 2 ^ e) :
    f32.rat (log2Op z a).pat = e ∧ (log2Op z a).pat < 2 ^ 32 ∧ (e = 0 → (log2Op z a).pat = 0) ∧ (log2Op z a).fl = 0 := by
  have hxpos : (0 : ℚ) < 2 ^ e := zpow_pos two_pos e
  have hhi : (2 : ℚ) ^ e < 2 ^ (e + 1) := zpow_lt_zpow_right₀ one_lt_two (by omega)
  obtain ⟨n, d, hval, hn, hd, hread⟩ := val_of_pos hfin (hx ▸ hxpos)
  rw [hx] at hread
  have hlog : ilog n d = e := ilog_of_bounds hd hread.ge (hread ▸ hhi)
  obtain ⟨hpos, hmant, hfrac⟩ := log2Mant_frac hd hlog
  rw [hread, div_self hxpos.ne', one_mul, Nat.cast_inj] at hfrac
  have hop := log2Op_pos hval hn
  rw [if_pos (by rw [hmant, hfrac, Nat.mul_div_cancel_left _ hpos]), hlog] at hop
  rw [hop]
  by_cases h0 : e = 0
  · obtain ⟨hlt, -, -, hrat⟩ := Fmt.zeroPat_spec f32_sound false
    subst h0
    rw [Int.natAbs_zero, Fmt.round_zero]
    exact ⟨hrat.trans Int.cast_zero.symm, hlt, fun _ => rfl, rfl⟩
  · have hbound := abs_le.mp (exponent_bounds hfin hx le_rfl hhi).1
    have hround := Fmt.round_rounded f32_sound .rne z (decide (e < 0)) e.natAbs one_pos
    rw [signed_natAbs, Nat.cast_one, div_one] at hround
    have habs : |(e : ℚ)| = e.natAbs * 2 ^ (0 : ℤ) := by rw [zpow_zero, mul_one, Nat.cast_natAbs, Int.cast_abs]
    have hnat : e.natAbs ≤ 190 := by omega
    have htop : |(e : ℚ)| ≤ f32.top := by
      rw [habs, zpow_zero, mul_one, f32_top_eq]
      calc (e.natAbs : ℚ) ≤ (190 : ℕ) := Nat.cast_le.mpr hnat
        _ ≤ _ := by norm_num
    have hleast : ¬|(e : ℚ)| < f32.least := by
      have h1 : (1 : ℚ) ≤ e.natAbs := by exact_mod_cast Int.natAbs_pos.mpr h0
      have h2 : f32.least ≤ 1 := by
        have : f32.least = 2 ^ (-126 : ℤ) := rfl
        rw [this]
        norm_num
      rw [habs, zpow_zero, mul_one]
      linarith
    have h := Fmt.rounded_exact f32_sound hround (Int.natAbs_pos.mpr h0) (lt_of_le_of_lt hnat (by decide)) (by decide) habs htop
    rw [if_neg fun h => hleast h.2] at h
    obtain ⟨hlt, -, hrat, hfl, -⟩ := h
    exact ⟨hrat, hlt, fun h => absurd h h0, hfl⟩

/-- FLOG2 of a number between two powers of two lies between their exponents. -/
theorem log2Op_between (hfin : f32.ex a.toNat ≠ 255) {x : ℚ} (hx : f32.read z a.toNat = x) {e : ℤ} (hlo : (2 : ℚ) ^ e < x) (hhi : x < 2 ^ (e + 1)) :
    Inexact z (log2Op z a) ∧ (e : ℚ) ≤ f32.rat (log2Op z a).pat ∧ f32.rat (log2Op z a).pat ≤ e + 1 := by
  have hepos : (0 : ℚ) < 2 ^ e := zpow_pos two_pos e
  obtain ⟨n, d, hval, hn, hd, hread⟩ := val_of_pos (z := z) hfin (hx ▸ hepos.trans hlo)
  rw [hx] at hread
  have hlog : ilog n d = e := ilog_of_bounds hd (hread ▸ hlo.le) (hread ▸ hhi)
  obtain ⟨hbound, m, t, hbits, het⟩ := exponent_bounds hfin hx hlo.le hhi
  -- At 24 bits the scaled operand is an integer above 1.
  obtain ⟨j, hj⟩ := Int.eq_ofNat_of_zero_le (show 0 ≤ t + 24 - e by omega)
  have hscaled : x / 2 ^ e * 2 ^ 24 = (m * 2 ^ j : ℕ) := by
    rw [hbits, Nat.cast_mul, Nat.cast_pow, Nat.cast_ofNat, ← zpow_natCast (2 : ℚ) j, ← zpow_natCast (2 : ℚ) 24, mul_div_assoc, mul_assoc,
      ← zpow_sub₀ two_ne_zero, ← zpow_add₀ two_ne_zero]
    congr 2
    push_cast
    omega
  have hone : 1 < x / 2 ^ e := (one_lt_div hepos).mpr hlo
  have hbig : (2 ^ 24 + 1 : ℚ) ≤ x / 2 ^ e * 2 ^ 24 := by
    have h : ((2 ^ 24 : ℕ) : ℚ) < (m * 2 ^ j : ℕ) := by
      rw [← hscaled]
      push_cast
      linarith
    have h := Nat.succ_le_of_lt (Nat.cast_lt.mp h)
    rw [hscaled]
    exact_mod_cast h
  obtain ⟨hpos, hmant, hfrac⟩ := log2Mant_frac hd hlog
  rw [hread] at hfrac
  have hmant_gt : 2 ^ 256 < log2Mant n d := by
    rw [hmant, ← Nat.succ_le_iff, Nat.le_div_iff_mul_le hpos, ← Nat.cast_le (α := ℚ), Nat.cast_mul, Nat.cast_mul (_ * _) (2 ^ 256), hfrac,
      mul_right_comm]
    refine mul_le_mul_of_nonneg_right ?_ (Nat.cast_nonneg _)
    push_cast
    linarith
  have hop := log2Op_pos hval hn
  rw [if_neg hmant_gt.ne', hlog] at hop
  set y : ℤ := e * 2 ^ 100 + log2Bits 256 100 (log2Mant n d) 0 with hy
  have hbits' := log2Bits_lt 256 100 (log2Mant n d) 0
  rw [Nat.zero_add, Nat.one_mul] at hbits'
  obtain ⟨hplt, hpex, hplo, hphi⟩ := log2Approx_between a hbound (y := y) (by omega) (by omega)
  obtain ⟨hinexact, hcase⟩ := approxFlags_spec z hplt hpex
  rw [Int.cast_add, Int.cast_one] at hphi
  rw [hop]
  refine ⟨hinexact, ?_⟩
  rcases hcase with hrat | ⟨-, hsmall, hrat⟩
  · rw [hrat]
    exact ⟨hplo, hphi⟩
  · -- A flushed result lies next to zero, which the interval of integers then holds.
    rw [hrat]
    have h126 : (2 : ℚ) ^ (-126 : ℤ) < 1 := by norm_num
    obtain ⟨h1, h2⟩ := abs_lt.mp (hsmall.trans h126)
    have he1 : (e : ℚ) < (1 : ℤ) := by push_cast; linarith
    have he2 : ((-2 : ℤ) : ℚ) < e := by push_cast; linarith
    have he1' := Int.cast_lt.mp he1
    have he2' := Int.cast_lt.mp he2
    have h3 : (e : ℚ) ≤ (0 : ℤ) := Int.cast_le.mpr (by omega)
    have h4 : ((-1 : ℤ) : ℚ) ≤ e := Int.cast_le.mpr (by omega)
    push_cast at h3 h4
    exact ⟨h3, by linarith⟩

end

end Sys2Proof.Machine
end

section
/-! PROOFS. The instructions of class 3 at issue (R218 to R223). -/

namespace Sys2Proof.Machine

/-! ### Results and flags at issue -/

section
variable {s : State} {t : Nat} {h : Hdr} {a b : Src} {r : FR}

/-- The state after a result of class 3: its flags are set, its pattern is written (R133, R218). -/
def State.givesFR (s : State) (t : Nat) (h : Hdr) (r : FR) : State :=
  (s.updThr t fun x => { x with status := x.status ||| r.fl }).goesOn (s.curRegs.gotV h (BitVec.ofNat 32 r.pat))

variable (hc : s.cur = .thread t)
include hc

theorem issueI_fres {ops : List Opd} {body : State → Regs → Res} (hr : s.ready ⟨aFloat, h, ops, .v h.d⟩ = true)
    (hbody : body s s.curRegs = fres s r) : s.issueI ⟨aFloat, h, ops, .v h.d⟩ body = .next (s.givesFR t h r) := by
  rw [issueI_ready_noBrk hr rfl, hbody, deliver_fres rfl, State.setFlags_thread hc]
  rfl

theorem issF1_gives {f : Bool → Nat → FR} (hr : s.ready ⟨aFloat, h, [.v a], .v h.d⟩ = true) (hval : f s.ftz (s.curRegs.rv a).toNat = r) :
    issF1 h a s f = .next (s.givesFR t h r) := issueI_fres hc hr (congrArg (fres s) hval)

theorem issF2_gives {f : Bool → Nat → Nat → FR} (hr : s.ready ⟨aFloat, h, [.v a, .v b], .v h.d⟩ = true)
    (hval : f s.ftz (s.curRegs.rv a).toNat (s.curRegs.rv b).toNat = r) : issF2 h a b s f = .next (s.givesFR t h r) :=
  issueI_fres hc hr (congrArg (fres s) hval)

theorem issF3_gives {c : Opd} {f : Bool → Nat → Nat → Regs → FR} (hr : s.ready ⟨aFloat, h, [.v a, .v b, c], .v h.d⟩ = true)
    (hval : f s.ftz (s.curRegs.rv a).toNat (s.curRegs.rv b).toNat s.curRegs = r) : issF3 h a b c s f = .next (s.givesFR t h r) :=
  issueI_fres hc hr (congrArg (fres s) hval)

end

/-! ### The formulas -/

/-- A pattern with its sign changed, as FSUB forms it. -/
theorem f32_flip_eq_xor {x : Nat} (hx : x < 2 ^ 32) : f32.flip x = Nat.xor x 0x80000000 := by
  have hadd {m : Nat} (hm : m < 2 ^ 31) : m ^^^ 2 ^ 31 = m + 2 ^ 31 := by
    refine Nat.eq_of_testBit_eq fun i => ?_
    have hsum : m + 2 ^ 31 = 2 ^ 31 ||| m := by
      have := Nat.two_pow_add_eq_or_of_lt hm 1
      rwa [Nat.mul_one, Nat.add_comm] at this
    rw [hsum, Nat.testBit_xor, Nat.testBit_or, Nat.testBit_two_pow]
    by_cases hi : 31 = i
    · subst hi
      simp [Nat.testBit_lt_two_pow hm]
    · simp [hi]
  change f32.flip x = x ^^^ 2 ^ 31
  have hneg := Fmt.neg_eq f32_sound hx
  unfold Fmt.flip
  rw [show f32.w - 1 = 31 from rfl] at hneg ⊢
  by_cases h : 2 ^ 31 ≤ x
  · rw [hneg, if_pos (decide_eq_true h)]
    conv_rhs => rw [← Nat.sub_add_cancel h, ← hadd (m := x - 2 ^ 31) (by omega)]
    rw [Nat.xor_assoc, Nat.xor_self, Nat.xor_zero]
  · rw [hneg, if_neg (by simpa using h), hadd (not_le.mp h)]

theorem noFlags_or (x : BitVec 9) : 0 ||| x = x := BitVec.zero_or

/-- A fused sum of one product and an addend. -/
theorem fused_one (f g : Fmt) (rm : Rnd) (z : Bool) (x y w : Nat) :
    fused f g rm z [(x, y)] w =
      f.deliver rm z ((sumFV rm [((g.val z x).mul (g.val z y)).1, f.val z w]).1,
        (sumFV rm [((g.val z x).mul (g.val z y)).1, f.val z w]).2 ||| ((g.val z x).mul (g.val z y)).2) := by
  simp only [fused, List.map_cons, List.map_nil, List.foldl_cons, List.foldl_nil, noFlags_or, List.cons_append, List.nil_append]

/-- A fused sum of two products and an addend. -/
theorem fused_two (f g : Fmt) (rm : Rnd) (z : Bool) (x y x' y' w : Nat) :
    let p := (g.val z x).mul (g.val z y)
    let p' := (g.val z x').mul (g.val z y')
    fused f g rm z [(x, y), (x', y')] w =
      f.deliver rm z ((sumFV rm [p.1, p'.1, f.val z w]).1, (sumFV rm [p.1, p'.1, f.val z w]).2 ||| (p.2 ||| p'.2)) := by
  simp only [fused, List.map_cons, List.map_nil, List.foldl_cons, List.foldl_nil, noFlags_or, List.cons_append, List.nil_append]

/-! ### The operations on operands -/

section
variable {f : Fmt} (hs : f.Sound)
include hs

omit hs in
theorem Fmt.isSNaN_of_isNaN {x : Nat} (h : f.isNaN x = true) : f.isSNaN x = decide (f.fr x < 2 ^ (f.fb - 1)) := by
  rw [Fmt.isSNaN, h, Bool.true_and, beq_eq_decide, decide_eq_decide, Nat.div_eq_zero_iff]
  exact or_iff_right (Nat.two_pow_pos _).ne'

/-- What an operand is read as (R126, R132). -/
theorem Fmt.val_spec {z : Bool} {A : Nat} (hA : A < 2 ^ f.w) :
    (f.ex A ≠ f.emax → ∃ n d, f.val z A = .fin (decide (2 ^ (f.w - 1) ≤ A)) n d ∧ 0 < d ∧ (n : ℚ) / d = |f.read z A|) ∧
      (f.ex A = f.emax → f.fr A = 0 → f.val z A = .inf (decide (2 ^ (f.w - 1) ≤ A))) ∧
      (f.ex A = f.emax ∧ f.fr A ≠ 0 → f.val z A = .nan (decide (f.fr A < 2 ^ (f.fb - 1)))) := by
  rw [← Fmt.neg_eq hs hA]
  refine ⟨fun h => ?_, Fmt.val_inf, fun h => ?_⟩
  · obtain ⟨n, d, hval, hd, hread⟩ := Fmt.val_fin hs (z := z) hA h
    refine ⟨n, d, hval, hd, ?_⟩
    rw [← hread, abs_signed, abs_of_nonneg (by positivity)]
  · rw [Fmt.val_of_isNaN (Fmt.isNaN_iff.mpr h), Fmt.isSNaN_of_isNaN (Fmt.isNaN_iff.mpr h)]

/-- FABS and FNEG of an operand (R220). -/
theorem Fmt.abs_negate_spec {z : Bool} {A : Nat} (hA : A < 2 ^ f.w) :
    f.abs z A = (if f.isNaN A = true then f.canon else f.flushIn z A % 2 ^ (f.w - 1)) ∧
      f.negate z A = if f.isNaN A = true then f.canon
        else if decide (2 ^ (f.w - 1) ≤ A) = true then f.flushIn z A - 2 ^ (f.w - 1) else f.flushIn z A + 2 ^ (f.w - 1) := by
  obtain ⟨-, hneg, -⟩ := Fmt.flushIn_fields hs (z := z) hA
  refine ⟨rfl, ?_⟩
  rw [Fmt.negate, Fmt.flip, hneg, Fmt.neg_eq hs hA]

end

/-! ### FEXP2 and FLOG2 of special operands -/

theorem exp2Op_log2Op_nan {z : Bool} {a : Word} (h : f32.isNaN a.toNat = true) :
    exp2Op z a = ⟨0x7FC00000, nvIf (f32.isSNaN a.toNat)⟩ ∧ log2Op z a = ⟨0x7FC00000, nvIf (f32.isSNaN a.toNat)⟩ := by
  have hval := Fmt.val_of_isNaN (z := z) h
  have hsig : sigFl (.nan (f32.isSNaN a.toNat)) = nvIf (f32.isSNaN a.toNat) := by cases f32.isSNaN a.toNat <;> rfl
  constructor <;> simp only [exp2Op, log2Op, hval, hsig] <;> rfl

theorem exp2Op_log2Op_inf (z : Bool) :
    (exp2Op z 0x7F800000 = ⟨0x7F800000, 0⟩ ∧ log2Op z 0x7F800000 = ⟨0x7F800000, 0⟩) ∧
      exp2Op z 0xFF800000 = ⟨0, 0⟩ ∧ log2Op z 0xFF800000 = ⟨0x7FC00000, 1⟩ := by
  have hpos : f32.val z (0x7F800000 : Word).toNat = .inf false := Fmt.val_inf (by decide) (by decide)
  have hneg : f32.val z (0xFF800000 : Word).toNat = .inf true := Fmt.val_inf (by decide) (by decide)
  refine ⟨⟨?_, ?_⟩, ?_, ?_⟩ <;> simp only [exp2Op, log2Op, hpos, hneg] <;> rfl

/-! ### The obligation -/

/-- The instructions' results and flags. -/
theorem class3_results {s : State} {t : Nat} (h : Hdr) (a b c : Src) (rm : Rnd) (nanp h16 : Bool) (hc : s.cur = .thread t) :
    let z := s.ftz
    let A := (s.curRegs.rv a).toNat
    let B := (s.curRegs.rv b).toNat
    let C := (s.curRegs.rv c).toNat
    let g := half h16
    let D := (s.curRegs.v.get h.d.toNat).toNat
    let gives := fun (i : Instr) (r : FR) => s.runs i = true → exec i s = .next (s.givesFR t h r)
    (gives (.fadd h a b rm) (f32.add rm z A B) ∧ gives (.fsub h a b rm) (f32.add rm z A (Nat.xor B 0x80000000)) ∧
      gives (.fmul h a b rm) (f32.mul rm z A B) ∧ gives (.ffma h a b c) (fused f32 f32 .rne z [(A, B)] C) ∧
      gives (.fdiv h a b rm) (f32.div rm z A B) ∧ gives (.fsqrt h a rm) (f32.sqrt rm z A)) ∧
    (gives (.fmin h a b nanp) (f32.minmax false nanp z A B) ∧ gives (.fmax h a b nanp) (f32.minmax true nanp z A B) ∧
      gives (.fabs h a) ⟨f32.abs z A, 0⟩ ∧ gives (.fneg h a) ⟨f32.negate z A, 0⟩ ∧ gives (.fclass h a) ⟨f32.class z A, 0⟩) ∧
    (gives (.frcp h a rm) (f32.rcp z A) ∧ gives (.frsq h a rm) (f32.rsq z A) ∧
      gives (.fexp2 h a rm) (exp2Op z (s.curRegs.rv a)) ∧ gives (.flog2 h a rm) (log2Op z (s.curRegs.rv a))) ∧
    (gives (.hadd2 h a b h16 rm) (packed (fun x y _ => g.add rm z x y) A B 0) ∧
      gives (.hmul2 h a b h16 rm) (packed (fun x y _ => g.mul rm z x y) A B 0) ∧
      gives (.hfma2 h a b h16 rm) (packed (fun x y w => fused g g rm z [(x, y)] w) A B D) ∧
      (∀ mx, gives (.hminmax2 h a b h16 mx nanp) (packed (fun x y _ => g.minmax mx nanp z x y) A B 0)) ∧
      gives (.fdot2 h a b h16 rm) (fused f32 g rm z [(A % 65536, B % 65536), (A / 65536, B / 65536)] D)) := by
  intro z A B C g D gives
  have hA : BitVec.ofNat 32 A = s.curRegs.rv a := BitVec.eq_of_toNat_eq (by rw [BitVec.toNat_ofNat, Nat.mod_eq_of_lt (BitVec.isLt _)])
  refine ⟨⟨fun hr => ?_, fun hr => ?_, fun hr => ?_, fun hr => ?_, fun hr => ?_, fun hr => ?_⟩,
    ⟨fun hr => ?_, fun hr => ?_, fun hr => ?_, fun hr => ?_, fun hr => ?_⟩, ⟨fun hr => ?_, fun hr => ?_, fun hr => ?_, fun hr => ?_⟩,
    ⟨fun hr => ?_, fun hr => ?_, fun hr => ?_, fun mx hr => ?_, fun hr => ?_⟩⟩
  · rw [exec_fadd, execFadd, issF2_gives hc hr rfl]
  · rw [exec_fsub, execFsub, issF2_gives hc hr rfl, Fmt.sub, f32_flip_eq_xor (BitVec.isLt _)]
  · rw [exec_fmul, execFmul, issF2_gives hc hr rfl]
  · rw [exec_ffma, execFfma, issF3_gives hc hr rfl]
  · rw [exec_fdiv, execFdiv, issF2_gives hc hr rfl]
  · rw [exec_fsqrt, execFsqrt, issF1_gives hc hr rfl]
  · rw [exec_fmin, execFmin, issF2_gives hc hr rfl]
  · rw [exec_fmax, execFmax, issF2_gives hc hr rfl]
  · rw [exec_fabs, execFabs, issF1_gives hc hr rfl]
  · rw [exec_fneg, execFneg, issF1_gives hc hr rfl]
  · rw [exec_fclass, execFclass, issF1_gives hc hr rfl]
  · rw [exec_frcp, execFrcp, issF1_gives hc hr rfl]
  · rw [exec_frsq, execFrsq, issF1_gives hc hr rfl]
  · rw [exec_fexp2, execFexp2, issF1_gives hc hr (congrArg (exp2Op z) hA)]
  · rw [exec_flog2, execFlog2, issF1_gives hc hr (congrArg (log2Op z) hA)]
  · rw [exec_hadd2, execHadd2, issF2_gives hc hr rfl]
  · rw [exec_hmul2, execHmul2, issF2_gives hc hr rfl]
  · rw [exec_hfma2, execHfma2, issF3_gives hc hr rfl]
  · rw [exec_hminmax2, execHminmax2, issF2_gives hc hr rfl]
  · rw [exec_fdot2, execFdot2, issF3_gives hc hr rfl]

/-- Settles O13: each instruction forms its formula; rounding, sums, roots and the order of patterns are those of the rationals; FEXP2 and
FLOG2 stay between their edges. -/
theorem floatResults : Obligations.FloatResults := by
  unfold Obligations.FloatResults
  refine ⟨⟨?_, ?_⟩, ?_⟩
  · intro s t h a b c rm nanp h16 hc
    obtain ⟨⟨hadd, hsub, hmul, hffma, hdiv, hsqrt⟩, hsign, happrox, ⟨hadd2, hmul2, hfma2, hminmax2, hdot2⟩⟩ :=
      class3_results h a b c rm nanp h16 hc
    refine ⟨⟨hadd, hsub, hmul, ?_, hdiv, hsqrt⟩, hsign, happrox, hadd2, hmul2, ?_, hminmax2, ?_⟩
    · rw [fused_one] at hffma
      exact hffma
    · simp only [fused_one] at hfma2
      exact hfma2
    · rw [fused_two] at hdot2
      exact hdot2
  · intro f rm z A B hf hA hB fin neg v nan sig q low as ord pick
    have hs : f.Sound := Fmt.sound_of_vector hf
    have hnegA : f.neg A = neg A := Fmt.neg_eq hs hA
    have hnegB : f.neg B = neg B := Fmt.neg_eq hs hB
    have hnan (x : Nat) : f.isNaN x = true ↔ nan x := Fmt.isNaN_iff
    have has {x : Nat} (hx : x < 2 ^ f.w) : f.flushIn z x = as x := Fmt.flushIn_eq_ite hs hx
    have hord {x : Nat} (hx : x < 2 ^ f.w) : f.key (f.flushIn z x) = ord (as x) := by
      rw [← has hx]
      exact Fmt.key_eq hs (Fmt.flushIn_fields hs hx).1
    refine ⟨Fmt.val_spec hs hA, fun s n d hd => Fmt.round_rounded hs rm z s n hd, fun fl g s n d => ⟨rfl, rfl, rfl⟩,
      fun s n d t m e => ?_, fun ts hne hts => sumFV_spec rm ts hne hts, fun hfA hfB hB0 _ => ?_, fun hfA hfB hB0 hA0 => ?_, fun hf32 hfA h0 => ?_,
      fun hfA h0 => hnegA ▸ Fmt.rcp_rounded hs hA hfA h0, fun mx np => ?_, ⟨?_, ?_⟩, ?_⟩
    · cases s <;> cases t <;> rfl
    · rw [← hnegA, ← hnegB]
      exact Fmt.div_rounded hs hA hB hfA hfB hB0
    · have h := Fmt.div_rounded hs (rm := rm) hA hB hfA hfB hB0
      rw [show f.read z A = 0 from hA0, zero_div, hnegA, hnegB] at h
      exact Fmt.rounded_zero h
    · subst hf32
      exact f32_roots hA hfA h0
    · rw [Fmt.minmax_eq hs hA hB]
      simp only [hnan, hord hA, hord hB]
      simp only [has hA, has hB]
      refine congrArg₂ FR.mk rfl ?_
      simp only [nvIf, Bool.or_eq_true]
      rfl
    · have h := (Fmt.abs_negate_spec hs (z := z) hA).1
      simp only [hnan, has hA] at h
      exact h
    · have h := (Fmt.abs_negate_spec hs (z := z) hA).2
      simp only [hnan, has hA] at h
      exact h
    · obtain ⟨k, hk, hclass, hsnan, hinf, hzero, hsub, hnormal⟩ := Fmt.class_spec hs (z := z) hA
      have hread : v A = 0 ↔ f.ex A = 0 ∧ (f.fr A = 0 ∨ z = true) := Fmt.read_eq_zero_iff hs hA
      rw [hnegA] at hinf hzero hsub hnormal
      refine ⟨k, hk, hclass, fun h => ?_, fun h hfin => ?_, fun _ h0 => ?_, fun _ h0 hex => ?_, hnormal⟩
      · have hn := (hnan A).mpr h
        rw [hsnan hn, Fmt.isSNaN_of_isNaN hn]
        simp only [decide_eq_true_eq]
      · have hex : f.ex A = f.emax := not_not.mp hfin
        exact hinf (Fmt.isInf_iff.mpr ⟨hex, not_not.mp fun hfr => h ⟨hex, hfr⟩⟩)
      · obtain ⟨hex, hor⟩ := hread.mp h0
        exact hzero hex hor
      · exact hsub hex fun hor => h0 (hread.mpr ⟨hex, hor⟩)
  · intro z a n x fin nan sig e l flags
    have hsig : nan → sig = nvIf (f32.isSNaN a.toNat) := fun h => by
      rw [Fmt.isSNaN_of_isNaN (Fmt.isNaN_iff.mpr h)]
      simp only [sig, h, true_and, nvIf, decide_eq_true_eq]
      rfl
    obtain ⟨hinf, hninf⟩ := exp2Op_log2Op_inf z
    refine ⟨fun h => ?_, fun h => by subst h; exact hinf, fun h => by subst h; exact hninf, fun hf hx hlo hhi => exp2Op_integer hf hx hlo hhi, fun hf => (exp2Op_outside hf).1,
      fun hf => (exp2Op_outside hf).2, fun hf hlo hhi hint => exp2Op_between hf rfl hlo hhi hint, fun hf => (log2Op_special hf).1,
      fun hf => (log2Op_special hf).2, fun hf hx => log2Op_power hf hx, fun hf hlo hhi => log2Op_between hf rfl hlo hhi⟩
    rw [hsig h]
    exact exp2Op_log2Op_nan (Fmt.isNaN_iff.mpr h)

end Sys2Proof.Machine
end
